-- ==== Sys2Proof/Word.lean ====
section
/-! DEFINITION. The word types of the TG3 (00_scope R10, R11): bytes, 64-bit words, and addresses.
Every multi-byte field is little-endian and bit 0 is the least significant bit. -/

namespace Sys2Proof

/-- One byte. -/
abbrev Byte := BitVec 8

/-- One 64-bit word, the unit that the (72,64) code protects (R198, R316). -/
abbrev Word := BitVec 64

/-- A sparse table: the entries, by number, that differ from the table's default, in strictly rising
order of number. `Machine/Tbl.lean` holds its reads, writes and canonical form. -/
abbrev Tbl (α : Type) := List (Nat × α)

/-- Byte memory: a table of bytes by address (`Host.Cell` pairs). -/
abbrev Mem := Tbl Byte

end Sys2Proof
end

