-- ==== Sys2Proof/Syntax.lean ====
section
/-! DEFINITION. The commands of the TG3 block: one constructor of `Instr` per row of
spec/opcode_table.json, with the operands the row has. What a unit reads from its own program, queue or
mailbox is in State and is no operand. -/

namespace Sys2Proof

/-- A frame (08 R239, R240): header words W0 to W3, payload bytes, and the CRC-32C trailer. -/
structure Frame where
  w0 : Word
  w1 : Word
  w2 : Word
  w3 : Word
  payload : List Byte
  crc : BitVec 32
deriving DecidableEq, Repr, Inhabited

/-- A frame as it comes off an optical link (R242): `fec` says that an FEC codeword under it was uncorrectable. Its words hold no
other error: the receiver makes their check bits anew (10 R295). `corrected` gives the symbols that FEC corrected on each lane under
it, `named` says that an FPOS names its first word (10 R298), and `cut` that this word has left an output when the frame's last one
comes (R224, R243). -/
structure Arrival where
  frame : Frame
  fec : Bool
  corrected : List (Nat × Nat) := []
  named : Bool := true
  cut : Bool := false
deriving DecidableEq, Repr, Inhabited

/-- The output whose transmitter has sent a copy; `late` says that one of the copy's words was not there in time (10 R297). -/
structure Sent where
  output : Fin 113
  late : Bool := false
deriving DecidableEq, Repr, Inhabited

/-- How a frame comes to a switch-core input (07 Table 7.1, R461): from the link of an external port, or as
the oldest frame that a unit of the module has waiting at inputs 64 to 113. -/
inductive Ingress where
  | wire (port : Fin 64) (a : Arrival)
  | own (input : Fin 114)
deriving DecidableEq, Repr, Inhabited

/-- The mailbox or port by which a Sceuf request came (12 R344). -/
inductive ReqSrc where
  | host (n : Fin 64)
  | fabric (n : Fin 16)
  | mgmt
deriving DecidableEq, Repr, Inhabited

/-- A device ordered set as received on a port's sideband (10 R309). -/
structure SetRx where
  port : Fin 64
  payload : BitVec 40
  chk : BitVec 8
  violation : Bool
deriving DecidableEq, Repr, Inhabited

/-- A WAGGLE ordered set as received on a port's sideband, and the 64-byte frame after it (10 R309, 08 R267, 10 Table 10.6), byte 0
in the low bits. -/
structure WaggleRx where
  set : SetRx
  bits : BitVec 512
deriving DecidableEq, Repr, Inhabited

/-- A list of frames of the comb (07 R201): of an input, an output and a class, or of a circuit at an output. -/
inductive ListKey where
  | queue (input : Fin 114) (output : Fin 113) (cls : Fin 8)
  | circuit (id : Fin 4096) (output : Fin 113)
deriving DecidableEq, Repr, Inhabited

/-- A host BAR that holds locations without behaviour of their own (12 Table 12.1). -/
inductive Bar where
  | bar0
  | bar2
deriving DecidableEq, Repr, Inhabited

/-- The SPDM requests that a responder with CERT_CAP, CHAL_CAP and MEAS_CAP answers (15 R434). -/
inductive SpdmRequest where
  | getVersion
  | getCapabilities
  | negotiateAlgorithms
  | getDigests
  | getCertificate (slot offset length : Nat)
  | challenge (slot : Nat) (nonce : BitVec 256)
  | getMeasurements (index : Nat) (nonce : BitVec 256)
  | other (code : Byte)
deriving DecidableEq, Repr, Inhabited

/-- An SPDM request with the version that its message carries (R434). -/
structure SpdmMsg where
  version : Byte
  request : SpdmRequest
deriving DecidableEq, Repr, Inhabited

/-- The transport of an SPDM request (R434): PCIe DOE, or UDP from an address. -/
inductive SpdmPath where
  | doe
  | udp (peer : BitVec 32)
deriving DecidableEq, Repr, Inhabited

/-- What a boot stage found (14 R409, R410): the BOOT_FAIL code of a stage that failed (0 when it passed),
the physical cores that failed their self-test (cluster, core 0 to 16), the stream units that failed, the
pseudo-channels that failed training (stack, pseudo-channel), and the physical clusters whose queens failed. -/
structure StageReport where
  fail : Byte
  cores : List (Nat × Nat)
  units : List Nat
  channels : List (Nat × Nat)
  clusters : List Nat := []
deriving DecidableEq, Repr, Inhabited

/-- A reading of the power sensors over 1 ms (14 R421, Table 14.9): mV, 0.01 A, W. -/
structure PowerReading where
  vin : BitVec 16
  iin : BitVec 16
  pin : BitVec 16
deriving DecidableEq, Repr, Inhabited

/-- A reading of the temperature sensors (14 R423): maximum junction temperature of compute dies 0 to 3 and of
the fabric die, and maximum HBM temperature, in degrees Celsius. -/
structure ThermalReading where
  tj0 : Byte
  tj1 : Byte
  tj2 : Byte
  tj3 : Byte
  tjFabric : Byte
  th : Byte
deriving DecidableEq, Repr, Inhabited

/-- An IEEE 1149.1 instruction (15 R442): one of the mandatory ones, or a private one by its code. -/
inductive JtagIr where
  | bypass
  | idcode
  | samplePreload
  | extest
  | priv (code : Nat)
deriving DecidableEq, Repr, Inhabited

/-- The commands of the block, one per row of spec/opcode_table.json, in the table's order. A Sceuf command
names the transport whose accepted request firmware now runs. A program slot names the logical cluster whose
queen issues it, or the forager channel. -/
inductive Instr where
  | openSession (src : ReqSrc)
  | closeSession (src : ReqSrc)
  | getIdentity (src : ReqSrc)
  | getState (src : ReqSrc)
  | setTestMode (src : ReqSrc)
  | forward (src : ReqSrc)
  | setEid (src : ReqSrc)
  | join (src : ReqSrc)
  | leave (src : ReqSrc)
  | writeRoutes (src : ReqSrc)
  | writeMcast (src : ReqSrc)
  | armEpoch (src : ReqSrc)
  | cancelArm (src : ReqSrc)
  | setupCircuit (src : ReqSrc)
  | teardownCircuit (src : ReqSrc)
  | writeRankmap (src : ReqSrc)
  | setKeymap (src : ReqSrc)
  | setGuard (src : ReqSrc)
  | setComb (src : ReqSrc)
  | armGroup (src : ReqSrc)
  | disarmGroup (src : ReqSrc)
  | armContext (src : ReqSrc)
  | disarmContext (src : ReqSrc)
  | setMirror (src : ReqSrc)
  | setPort (src : ReqSrc)
  | readConfig (src : ReqSrc)
  | loadCore (src : ReqSrc)
  | unloadCore (src : ReqSrc)
  | loadStream (src : ReqSrc)
  | setParams (src : ReqSrc)
  | setRings (src : ReqSrc)
  | launch (src : ReqSrc)
  | startRun (src : ReqSrc)
  | commitStep (src : ReqSrc)
  | abort (src : ReqSrc)
  | replayStep (src : ReqSrc)
  | regionCreate (src : ReqSrc)
  | regionChange (src : ReqSrc)
  | regionDelete (src : ReqSrc)
  | zeroize (src : ReqSrc)
  | startForager (src : ReqSrc)
  | foragerStatus (src : ReqSrc)
  | hostCopy (src : ReqSrc) (hostData : List Word)
  | getHealth (src : ReqSrc)
  | setStats (src : ReqSrc)
  | readLogs (src : ReqSrc)
  | clearLogs (src : ReqSrc)
  | keepInService (src : ReqSrc)
  | getPower (src : ReqSrc)
  | setPowerCap (src : ReqSrc)
  | freeze (src : ReqSrc)
  | thaw (src : ReqSrc)
  | readout (src : ReqSrc)
  | setSmoker (src : ReqSrc)
  | setWindow (src : ReqSrc)
  | resetWarmCompute (src : ReqSrc) (failed : List (Nat × Nat))
  | resetFull (src : ReqSrc)
  | fwStage (src : ReqSrc)
  | fwActivate (src : ReqSrc)
  | debugChallenge (src : ReqSrc)
  | debugUnlock (src : ReqSrc)
  | debugLock (src : ReqSrc)
  | doorbell (value : Word)
  | tokenRptr (value : Word)
  | cmplRptr (value : Word)
  | bar4Read (offset : BitVec 30) (bytes : Nat)
  | bar4Write (offset : BitVec 30) (data : List Byte)
  | registerWrite (bar : Bar) (offset : Nat) (data : List Byte)
  | mgmtDatagram (peer : BitVec 32) (message : List Word)
  | spdmRequest (path : SpdmPath) (request : SpdmMsg)
  | jtagInstruction (ir : JtagIr)
  | frameIngress (arrival : Ingress)
  | egressArbitration
  | calendarSlotStart (output : Fin 113)
  /-- `late`: a word of the copy was not available from the comb in time (10 R297). -/
  | frameSent (output : Sent)
  | frameAged (list : ListKey)
  | pauseWord (output : Fin 81) (word : Word)
  | pauseWordRepeat (port : Fin 81)
  | pauseExpired (output : Fin 64) (cls : Fin 8)
  | poolWaiterGrant (pool : Fin 4)
  | poolWaitExpired (pool : Fin 4)
  | calendarWrap
  | queueSample
  | statsBoundary
  | epochSwap
  | epochDrainEnd
  | mwrite (frame : Frame)
  | mwack (frame : Frame)
  | mread (frame : Frame)
  | mrdata (frame : Frame)
  | event (frame : Frame)
  | mbox (frame : Frame)
  | mboxResponse (frame : Frame)
  | forwardTimeout
  | linkprobe (port : Fin 64) (frame : Frame)
  | linkprobeEcho (port : Fin 64) (frame : Frame)
  | twin (frame : Frame)
  | twinSend
  | digestTimeout
  | voteSend
  | vote (frame : Frame)
  | release (frame : Frame)
  | commitComplete
  | stepWatchdog
  | replayStart
  | launchComplete
  | tokenRecord
  | completionRecord
  | loop (cluster : Fin 32)
  | wait (cluster : Fin 32)
  | waitRelease (cluster : Fin 32)
  | waitTimeout (cluster : Option (Fin 32)) (channel : Option (Fin 320))
  | signal (cluster : Fin 32)
  | evclr (cluster : Fin 32)
  | vset (cluster : Fin 32)
  | stepb (cluster : Fin 32)
  | endProgram (cluster : Fin 32)
  | vld (cluster : Fin 32)
  | vst (cluster : Fin 32)
  | cld (cluster : Fin 32)
  | emv (cluster : Fin 32)
  | eop (cluster : Fin 32)
  | vadd (cluster : Fin 32)
  | vsub (cluster : Fin 32)
  | vmul (cluster : Fin 32)
  | vfma (cluster : Fin 32)
  | vdiv (cluster : Fin 32)
  | vsqrt (cluster : Fin 32)
  | vmax (cluster : Fin 32)
  | vmin (cluster : Fin 32)
  | vmaxn (cluster : Fin 32)
  | vminn (cluster : Fin 32)
  | vcmp (cluster : Fin 32)
  | vsel (cluster : Fin 32)
  | vfunc (cluster : Fin 32)
  | vcvt (cluster : Fin 32)
  | vred (cluster : Fin 32)
  | vmisc (cluster : Fin 32)
  | sld (cluster : Fin 32)
  | advance (cluster : Fin 32)
  | fclr (cluster : Fin 32)
  | frd (cluster : Fin 32)
  | fexp (cluster : Fin 32)
  | fadd (cluster : Fin 32)
  | tenc (cluster : Fin 32)
  | cxset (cluster : Fin 32)
  | cxadv (cluster : Fin 32)
  | corePatrol (cluster : Fin 32) (failed : List (Fin 17)) (queenFailed : Bool)
  | sparePatrolFail (cluster : Fin 32)
  | coreSpareMap (cluster : Fin 32) (core : Fin 16)
  | storeWalk
  | stream (unit : Fin 32)
  | streamTimeout (ctx : Fin 4096) (seq : BitVec 32) (chunk : BitVec 16)
  | streamUnitPatrol (unit : Fin 32) (mismatch : Bool)
  | streamUnitRetire (unit : Fin 32)
  | collectiveIssue
  | collectiveComplete (group : Fin 4096) (seq : BitVec 32) (lsrc : Fin 4)
  | collTimeout (group : Fin 4096) (seq : BitVec 32) (lsrc : Fin 4)
  | move (channel : Fin 320)
  | moveComplete (channel : Fin 320)
  | foragerTimeout (channel : Fin 320)
  | foragerLoop (channel : Fin 320)
  | foragerWait (channel : Fin 320)
  | foragerWaitRelease (channel : Fin 320)
  | foragerSignal (channel : Fin 320)
  | foragerEnd (channel : Fin 320)
  | patrolScrub
  | pcSpareCopyComplete (stack : Fin 16) (channel : Fin 64)
  | poison (set : SetRx)
  | fence (set : SetRx)
  | beacon (set : SetRx)
  | beaconSend
  | neighbourSilent (port : Fin 64)
  | freezeOrderedSet (set : SetRx)
  | thawOrderedSet (set : SetRx)
  | freezeNAssert
  | freezeNRelease
  | timeSend
  | timeAnswer (port : Fin 64)
  | time (set : SetRx)
  | timeAnswerMissing
  | timeParentChange
  | announceSend (port : Fin 64)
  | announce (rx : WaggleRx)
  | accept (rx : WaggleRx)
  | reject (rx : WaggleRx)
  | trainComplete (port : Fin 64) (marks : List Nat)
  | trainTimeout (port : Fin 64)
  | sidebandUp (port : Fin 64)
  | sbLost (port : Fin 64)
  | lossOfSignal (port : Fin 64) (lane : Fin 9)
  | lossOfLock (port : Fin 64) (lane : Fin 9)
  | fecUncorr (port : Fin 64) (lane : Fin 9) (framesLost : Nat)
  | spareReq (rx : WaggleRx)
  | laneMoveComplete (port : Fin 64)
  | spareRxAligned (port : Fin 64)
  | spareDone (rx : WaggleRx)
  | sparingTimeout (port : Fin 64)
  | twinLost
  | smokerRehearsal (port : Fin 64) (lane : Fin 9) (cluster : Fin 32) (core : Fin 16) (unit : Fin 32)
  | debugScopeExpiry
  | nonceExpiry
  | auxPowerGood
  | auxPowerLost
  | pwrEnAssert
  | pwrEnDeassert
  | main54vFault
  | railFault (rail : Nat)
  | clockFault (clock : Nat)
  | mainConversionStop
  | thermtrip (reading : ThermalReading)
  | leakN
  | thermalSample (reading : ThermalReading)
  | powerCapPeriod (reading : PowerReading)
  | currentLimit
  | currentLevelDecay
  | perstN
  | slotChanged (slot : BitVec 5) (hivePresentN twinPresentN : Bool)
  | bootStageComplete (report : StageReport)
  | queenLockstepMismatch (cluster : Fin 32)
  | managementLockstepMismatch
  | mainPowerGood
  | leakNDeassert
  | healthDeductionExpiry
  | busMasterEnable
  | dhcpv4Reply (address : BitVec 32)
deriving DecidableEq, Repr

end Sys2Proof
end

