-- ==== Sys2Proof/Decode.lean ====
section
/-! DEFINITION. The command that a table word spells. No row of spec/opcode_table.json gives bits: the commands are
operations and events of a block, not words of a program, so no word spells one. -/

namespace Sys2Proof

/-- The command spelled by `nbits` bits of a table word: none, since no row of the table has bits. -/
def decodeTableWord (_nbits _w : Nat) : Option Instr := none

end Sys2Proof
end

