-- ==== Sys2Proof/Config.lean ====
section
/-! DEFINITION. What the spec leaves open, as constants without a body: no proof can see their values. Also the
few numbers of an implementation that the spec leaves to it and the log names. -/

namespace Sys2Proof

/-- A free value (assumption 2): what a unit draws where the spec gives no value, numbered by State's counter. -/
opaque Config.freeValue : Nat → BitVec 64

/-- A result that the spec does not state for these operands; `entry` is the number of the log entry. -/
opaque Config.openValue (entry : Nat) (operands : List Nat) : Nat

/-- A word that scan reads out of what a stopped module holds (14 R417): the spec gives no layout of its chains (assumption 11). -/
opaque Config.scanWord {α : Type} (held : α) (domain address : Nat) : BitVec 64

/-- SHA-384 of a byte string (15 R428, R432; assumption 12). -/
opaque Config.sha384 : List (BitVec 8) → BitVec 384

/-- ECDSA P-384 verification: public key, signature, SHA-384 digest (15 R427, R440). -/
opaque Config.ecdsaVerify (publicKey signature : List (BitVec 8)) (digest : BitVec 384) : Bool

/-- ECDSA P-384 signature by the Alias key derived from measurements 2 and 3 (15 R433, R434). -/
opaque Config.aliasSign (m2 m3 digest : BitVec 384) : List (BitVec 8)

/-- The certificate chain that ends in the Alias key derived from measurements 2 and 3 (15 R433). -/
opaque Config.aliasChain (m2 m3 : BitVec 384) : List (BitVec 8)

/-- The boot ROM's image and the calibration table in flash (15 Table 15.2). -/
opaque Config.bootRom : List (BitVec 8)
opaque Config.calibration : List (BitVec 8)

/-- Setting k of a port's lane in the module's calibration table (10 R302): the spec gives no value. -/
opaque Config.calRow (port lane k : Nat) : Int

/-- The firmware image that a module ships with in both flash slots (16 R455; assumption 48). -/
opaque Config.shippedImage : List (BitVec 8)

/-- The body of an SPDM response (DMTF SPDM 1.3/1.2; assumption 12): request code, request bytes, measurements. -/
opaque Config.spdmBody (code : BitVec 8) (request : List (BitVec 8)) (measurements : List (BitVec 384)) : List (BitVec 8)

end Sys2Proof
end

