-- ==== Sys2Proof/Machine/Tbl.lean ====
section
/-! DEFINITION. Sparse tables and byte memory: reads, writes and the canonical form (strictly rising numbers,
no entry equal to what an unlisted number reads as). Byte order is little-endian (00_scope R10). -/

namespace Sys2Proof

/-- The entry with number `k`: the listed value, or the table's default `d`. -/
def tblGet {α : Type} (d : α) : Tbl α → Nat → α
  | [], _ => d
  | (k', v) :: r, k => if k' = k then v else tblGet d r k

/-- The table with entry `k` set to `v`; writing the default removes the entry. -/
def tblSet {α : Type} [DecidableEq α] (d : α) : Tbl α → Nat → α → Tbl α
  | [], k, v => if v = d then [] else [(k, v)]
  | (k', v') :: r, k, v =>
    if k < k' then (if v = d then (k', v') :: r else (k, v) :: (k', v') :: r)
    else if k = k' then (if v = d then r else (k, v) :: r)
    else (k', v') :: tblSet d r k v

/-- The table with entry `k` changed by `f`. -/
def tblMod {α : Type} [DecidableEq α] (d : α) (t : Tbl α) (k : Nat) (f : α → α) : Tbl α :=
  tblSet d t k (f (tblGet d t k))

/-- The table with the entries from `k` on set to the values of the list. -/
def tblSetAll {α : Type} [DecidableEq α] (d : α) (t : Tbl α) (k : Nat) : List α → Tbl α
  | [] => t
  | v :: vs => tblSetAll d (tblSet d t k v) (k + 1) vs

/-- Every listed number is at least `lo`, numbers rise strictly, and no listed value is the default. -/
def tblWfFrom {α : Type} [DecidableEq α] (d : α) : Nat → Tbl α → Bool
  | _, [] => true
  | lo, (k, v) :: r => decide (lo ≤ k) && decide (v ≠ d) && tblWfFrom d (k + 1) r

/-- The canonical form of a table. -/
def tblWf {α : Type} [DecidableEq α] (d : α) (t : Tbl α) : Bool := tblWfFrom d 0 t

/-- The canonical form of a byte memory. -/
def Mem.wf (m : Mem) : Bool := tblWf 0#8 m

/-- The byte at address `a`; an unlisted byte reads 0 (assumption 4). -/
def memByte (m : Mem) (a : Nat) : Byte := tblGet 0#8 m a

/-- The memory with one byte written. -/
def memSetByte (m : Mem) (a : Nat) (b : Byte) : Mem := tblSet 0#8 m a b

/-- `n` bytes from address `a` on. -/
def memRead (m : Mem) (a : Nat) : Nat → List Byte
  | 0 => []
  | n + 1 => memByte m a :: memRead m (a + 1) n

/-- The memory with the bytes written from address `a` on. -/
def memWrite (m : Mem) (a : Nat) (bs : List Byte) : Mem := tblSetAll 0#8 m a bs

/-- The number that bytes spell, the first byte lowest (R10). -/
def natOfBytes : List Byte → Nat
  | [] => 0
  | b :: bs => b.toNat + 256 * natOfBytes bs

/-- The lowest `n` bytes of a number, the lowest byte first (R10). -/
def bytesOfNat (v : Nat) : Nat → List Byte
  | 0 => []
  | n + 1 => BitVec.ofNat 8 v :: bytesOfNat (v / 256) n

/-- An `n`-byte number at address `a`. -/
def memNat (m : Mem) (a n : Nat) : Nat := natOfBytes (memRead m a n)

/-- The 64-bit word at address `a`. -/
def memWord (m : Mem) (a : Nat) : Word := BitVec.ofNat 64 (memNat m a 8)

/-- The memory with a 64-bit word written at address `a`. -/
def memSetWord (m : Mem) (a : Nat) (w : Word) : Mem := memWrite m a (bytesOfNat w.toNat 8)

/-- Bytes of a list of words, in order. -/
def bytesOfWords (ws : List Word) : List Byte := ws.flatMap fun w => bytesOfNat w.toNat 8

/-- `n` words of a byte list, in order; bytes beyond the list read 0. -/
def wordsOfBytes : List Byte → Nat → List Word
  | _, 0 => []
  | bs, n + 1 => BitVec.ofNat 64 (natOfBytes (bs.take 8)) :: wordsOfBytes (bs.drop 8) n

/-- `n` words from address `a` on. -/
def memWords (m : Mem) (a n : Nat) : List Word := wordsOfBytes (memRead m a (8 * n)) n

end Sys2Proof
end

