-- ==== Sys2Proof/Machine/Bits.lean ====
section
/-! DEFINITION. Bit fields (00_scope R10, R11), packing, two's complement, CRC-32C and the CRC-8 of the
sideband (10 R309), and small arithmetic used throughout. -/

namespace Sys2Proof

/-- Bits [lo + len - 1 : lo] of `w`, as a number. -/
def fld {n : Nat} (w : BitVec n) (lo len : Nat) : Nat := (w.toNat >>> lo) % 2 ^ len

/-- Bits [lo + len - 1 : lo] of a number. -/
def nfld (w lo len : Nat) : Nat := (w >>> lo) % 2 ^ len

/-- Bit `i` of `w`. -/
def flag {n : Nat} (w : BitVec n) (i : Nat) : Bool := w.getLsbD i

/-- `w` with bits [lo + len - 1 : lo] replaced by `v`. -/
def setFld {n : Nat} (w : BitVec n) (lo len v : Nat) : BitVec n :=
  BitVec.ofNat n (w.toNat - (fld w lo len <<< lo) + ((v % 2 ^ len) <<< lo))

/-- `w` with bit `i` set to `b`. -/
def setFlag {n : Nat} (w : BitVec n) (i : Nat) (b : Bool) : BitVec n := setFld w i 1 b.toNat

/-- The number with each value placed at its bit position: a list of (lo, len, value). -/
def pack : List (Nat × Nat × Nat) → Nat
  | [] => 0
  | (lo, len, v) :: r => ((v % 2 ^ len) <<< lo) + pack r

/-- A 64-bit word from fields. -/
def packW (fs : List (Nat × Nat × Nat)) : Word := BitVec.ofNat 64 (pack fs)

/-- Word `k` of a record held as one bit vector. -/
def wordAt {n : Nat} (w : BitVec n) (k : Nat) : Word := BitVec.ofNat 64 (w.toNat >>> (64 * k))

/-- A record of `n` bits from its words, word 0 lowest. -/
def ofWords (n : Nat) (ws : List Word) : BitVec n :=
  BitVec.ofNat n (natOfBytes (bytesOfWords ws))

/-- The first `k` words of a record. -/
def toWords {n : Nat} (w : BitVec n) (k : Nat) : List Word := (List.range k).map (wordAt w)

/-- The `i`-th word of a list of argument words; a word that is absent reads 0 (12 R353). -/
def arg (ws : List Word) (i : Nat) : Word := ws.getD i 0#64

/-- Two's complement of a `w`-bit number. -/
def sextNat (w v : Nat) : Int := if v % 2 ^ w < 2 ^ (w - 1) then ((v % 2 ^ w : Nat) : Int) else ((v % 2 ^ w : Nat) : Int) - (2 ^ w : Nat)

/-- An integer reduced to a `w`-bit two's complement value. -/
def wrapSigned (w : Nat) (v : Int) : Int := sextNat w (v % (2 ^ w : Nat)).toNat

/-- Ceiling of a quotient. -/
def ceilDiv (a b : Nat) : Nat := (a + b - 1) / b

/-- `a` rounded up to a multiple of `b`. -/
def roundUp (a b : Nat) : Nat := ceilDiv a b * b

/-- The number of bits of `n` (0 for 0). -/
def bitLen (n : Nat) : Nat := if n = 0 then 0 else n.log2 + 1

/-- ceil(log2 n) for n at least 1. -/
def ceilLog2 (n : Nat) : Nat := bitLen (n - 1)

def crcBits (poly : Nat) : Nat → Nat → Nat
  | 0, c => c
  | k + 1, c => crcBits poly k (if c % 2 = 1 then (c / 2) ^^^ poly else c / 2)

/-- CRC-32C over bytes (reflected polynomial 0x82F6_3B78, initial value and final complement all ones). -/
def crc32c (bs : List Byte) : BitVec 32 :=
  BitVec.ofNat 32 ((bs.foldl (fun c b => crcBits 0x82F63B78 8 (c ^^^ b.toNat)) 0xFFFFFFFF) ^^^ 0xFFFFFFFF)

def crc8Bits : Nat → Nat → Nat
  | 0, c => c
  | k + 1, c => crc8Bits k (if 128 ≤ c % 256 then ((2 * c) ^^^ 0x07) % 256 else (2 * c) % 256)

/-- CHK of a device ordered set (10 R309): CRC-8, polynomial 0x07, initial value 0, not reflected. -/
def crc8 (bs : List Byte) : Byte := BitVec.ofNat 8 (bs.foldl (fun c b => crc8Bits 8 (c ^^^ b.toNat)) 0)

/-- The mixing function of 02 R58, modulo 2^64. -/
def mix (z : Word) : Word :=
  let z1 := (z ^^^ (z >>> 30)) * 0xBF58476D1CE4E5B9#64
  let z2 := (z1 ^^^ (z1 >>> 27)) * 0x94D049BB133111EB#64
  z2 ^^^ (z2 >>> 31)

/-- The stochastic-rounding draw of 02 R58. -/
def draw (seed : Word) (tensorId : BitVec 32) (index : Word) : Nat :=
  let h := mix (seed + (BitVec.ofNat 64 tensorId.toNat + 1#64) * 0x9E3779B97F4A7C15#64)
  (mix (h ^^^ index) >>> 32).toNat

/-- A list with its element `i` replaced. -/
def setAt {α : Type} : List α → Nat → α → List α
  | [], _, _ => []
  | _ :: r, 0, v => v :: r
  | x :: r, i + 1, v => x :: setAt r i v

/-- The place of the first element that satisfies `p`. -/
def findAt {α : Type} (p : α → Bool) : List α → Option Nat
  | [] => none
  | x :: r => if p x then some 0 else (findAt p r).map (· + 1)

/-- A list with its first element that satisfies `p` removed. -/
def eraseFirst {α : Type} (p : α → Bool) : List α → List α
  | [] => []
  | x :: r => if p x then r else x :: eraseFirst p r

/-- A list with each element that satisfies `p` changed by `f`. -/
def modWhere {α : Type} (p : α → Bool) (f : α → α) (l : List α) : List α :=
  l.map fun x => if p x then f x else x

/-- A list cut into pieces of `n` elements, the last one shorter; `fuel` bounds the number of pieces. -/
def chunksOf {α : Type} (n : Nat) : Nat → List α → List (List α)
  | 0, _ => []
  | fuel + 1, l => if l.isEmpty then [] else l.take n :: chunksOf n fuel (l.drop n)

/-- ASCII text as bytes, zero-padded to `n`. -/
def asciiBytes (s : List Char) (n : Nat) : List Byte :=
  ((s.map fun c => BitVec.ofNat 8 c.toNat) ++ List.replicate n 0#8).take n

end Sys2Proof
end

