-- ==== Sys2Proof/Machine/Float.lean ====
section
/-! DEFINITION. Number formats, exact values and rounding (02_arithmetic R34-R37, R46, R52-R59, R456-R458).
A code is held as a number of the format's width. -/

namespace Sys2Proof

/-- Value types by their codes (05 Table 5.3). -/
inductive Ty where
  | e4m3 | e5m2 | fp16 | bf16 | fp32 | fp64
deriving DecidableEq, Repr, Inhabited

/-- The type of a code of Table 5.3; 0b110 and 0b111 are reserved. -/
def tyOf : Nat → Option Ty
  | 0 => some .e4m3
  | 1 => some .e5m2
  | 2 => some .fp16
  | 3 => some .bf16
  | 4 => some .fp32
  | 5 => some .fp64
  | _ => none

/-- The code of a type (Table 5.3). -/
def tyCode : Ty → Nat
  | .e4m3 => 0
  | .e5m2 => 1
  | .fp16 => 2
  | .bf16 => 3
  | .fp32 => 4
  | .fp64 => 5

/-- Width in bits (Table 2.1). -/
def tyWidth : Ty → Nat
  | .e4m3 | .e5m2 => 8
  | .fp16 | .bf16 => 16
  | .fp32 => 32
  | .fp64 => 64

/-- Width in bytes. -/
def tyBytes (t : Ty) : Nat := tyWidth t / 8

/-- Stored significand bits (Table 2.1). -/
def tyMant : Ty → Nat
  | .e4m3 => 3
  | .e5m2 => 2
  | .fp16 => 10
  | .bf16 => 7
  | .fp32 => 23
  | .fp64 => 52

/-- Exponent bias (Table 2.1). -/
def tyBias : Ty → Int
  | .e4m3 => 7
  | .e5m2 => 15
  | .fp16 => 15
  | .bf16 => 127
  | .fp32 => 127
  | .fp64 => 1023

/-- Exponent field bits. -/
def tyExp (t : Ty) : Nat := tyWidth t - 1 - tyMant t

/-- The two FP8 formats. -/
def isFp8 : Ty → Bool
  | .e4m3 | .e5m2 => true
  | _ => false

/-- The default NaN, sign clear (Table 2.1, R37). -/
def defaultNan : Ty → Nat
  | .e4m3 => 0x7F
  | .e5m2 => 0x7E
  | .fp16 => 0x7E00
  | .bf16 => 0x7FC0
  | .fp32 => 0x7FC00000
  | .fp64 => 0x7FF8000000000000

/-- The largest finite code, sign clear (Table 2.1). -/
def maxFinite : Ty → Nat
  | .e4m3 => 0x7E
  | .e5m2 => 0x7B
  | .fp16 => 0x7BFF
  | .bf16 => 0x7F7F
  | .fp32 => 0x7F7FFFFF
  | .fp64 => 0x7FEFFFFFFFFFFFFF

/-- The sign bit of a type. -/
def signBit (t : Ty) : Nat := 2 ^ (tyWidth t - 1)

/-- The infinity code; E4M3 has none and gives NaN (R55, Table 2.6). -/
def infCode (t : Ty) (neg : Bool) : Nat :=
  match t with
  | .e4m3 => 0x7F
  | _ => (if neg then signBit t else 0) + ((2 ^ tyExp t - 1) <<< tyMant t)

/-- What a code denotes: a NaN with its sign, payload bits and whether it signals; an infinity; or
(-1)^neg * m * 2^e. -/
inductive Val where
  | nan (neg : Bool) (payload : Nat) (signalling : Bool)
  | inf (neg : Bool)
  | fin (neg : Bool) (m : Nat) (e : Int)
deriving DecidableEq, Repr, Inhabited

/-- The value of a code (R34, R35). -/
def decodeVal (t : Ty) (code : Nat) : Val :=
  let mb := tyMant t
  let neg := code.testBit (tyWidth t - 1)
  let ex := nfld code mb (tyExp t)
  let mant := code % 2 ^ mb
  let finite : Val :=
    if ex = 0 then .fin neg mant (1 - tyBias t - mb)
    else .fin neg (2 ^ mb + mant) ((ex : Int) - tyBias t - mb)
  match t with
  | .e4m3 => if code % 128 = 127 then .nan neg 0 false else finite
  | _ =>
    if ex = 2 ^ tyExp t - 1 then
      (if mant = 0 then .inf neg else .nan neg mant (!(mant.testBit (mb - 1))))
    else finite

def Val.isNan : Val → Bool
  | .nan .. => true
  | _ => false

def Val.isSnan : Val → Bool
  | .nan _ _ s => s
  | _ => false

def Val.isInf : Val → Bool
  | .inf _ => true
  | _ => false

def Val.isZero : Val → Bool
  | .fin _ m _ => m == 0
  | _ => false

def Val.neg? : Val → Bool
  | .nan n _ _ => n
  | .inf n => n
  | .fin n _ _ => n

/-- A NaN code made quiet (R37). -/
def quietNan (t : Ty) (code : Nat) : Nat :=
  match t with
  | .e4m3 => code
  | _ => code ||| 2 ^ (tyMant t - 1)

/-- Rounding directions: VCTRL.RMODE (Table 2.2), and ties away from zero for integer rounding (05 VMISC). -/
inductive Rm where
  | nearest | zero | up | down | away
deriving DecidableEq, Repr, Inhabited

/-- RMODE of a two-bit code (Table 2.2). -/
def rmOf : Nat → Rm
  | 0 => .nearest
  | 1 => .zero
  | 2 => .up
  | _ => .down

/-- The five exception flags, in the order of VFLAGS (Table 2.3). -/
structure Fl where
  inv : Bool := false
  dz : Bool := false
  ovf : Bool := false
  unf : Bool := false
  inx : Bool := false
deriving DecidableEq, Repr, Inhabited

/-- Flags as VFLAGS[4:0]. -/
def flBits (f : Fl) : BitVec 5 :=
  BitVec.ofNat 5 (f.inv.toNat + 2 * f.dz.toNat + 4 * f.ovf.toNat + 8 * f.unf.toNat + 16 * f.inx.toNat)

def flOr (a b : Fl) : Fl := ⟨a.inv || b.inv, a.dz || b.dz, a.ovf || b.ovf, a.unf || b.unf, a.inx || b.inx⟩

/-- A rounded result: its code, the flags raised and the INVALID cause (Table 2.9, 0 none). -/
structure Fr where
  code : Nat
  fl : Fl := {}
  cause : Nat := 0
deriving DecidableEq, Repr, Inhabited

/-- Whether a magnitude rounds up, given the kept part, the dropped part out of 2^k, and a sticky remainder below it. -/
def roundsUp (rm : Rm) (neg : Bool) (kept rem k : Nat) (sticky : Bool) : Bool :=
  let inexact := rem != 0 || sticky
  match rm with
  | .zero => false
  | .up => inexact && !neg
  | .down => inexact && neg
  | .nearest => decide (2 * rem > 2 ^ k) || (2 * rem == 2 ^ k && k != 0 && (sticky || kept % 2 == 1))
  | .away => decide (2 * rem ≥ 2 ^ k) && k != 0

/-- A magnitude m * 2^e split at the destination's quantum: (kept, dropped, dropped bits, quantum exponent, tiny).
Tininess is judged before rounding (R456): the exact value lies below the smallest normal. -/
def splitAt (t : Ty) (m : Nat) (e : Int) : Nat × Nat × Nat × Int × Bool :=
  let top : Int := (bitLen m : Int) - 1 + e
  let emin : Int := 1 - tyBias t
  let q : Int := (if top < emin then emin else top) - tyMant t
  if e < q then
    let k := (q - e).toNat
    (m >>> k, m % 2 ^ k, k, q, decide (top < emin))
  else (m <<< (e - q).toNat, 0, 0, q, decide (top < emin))

/-- The code of kept * 2^q with its sign, for a magnitude that does not overflow. -/
def codeOf (t : Ty) (neg : Bool) (kept : Nat) (q : Int) : Nat :=
  (if neg then signBit t else 0) + (((q + tyMant t + tyBias t - 1).toNat <<< tyMant t) + kept)

/-- kept * 2^q exceeds the largest finite magnitude (R457). -/
def overflows (t : Ty) (kept : Nat) (q : Int) : Bool :=
  decide ((q + tyMant t + tyBias t - 1 : Int) ≥ 0) &&
    decide (((q + tyMant t + tyBias t - 1).toNat <<< tyMant t) + kept > maxFinite t)

/-- The result of an overflow (R52): E4M3 and E5M2 follow their saturation setting, every other format IEEE 754. -/
def overflowCode (t : Ty) (rm : Rm) (sat neg : Bool) : Nat :=
  let s := if neg then signBit t else 0
  let ieee :=
    match rm with
    | .zero => s + maxFinite t
    | .up => if neg then s + maxFinite t else infCode t neg
    | .down => if neg then infCode t neg else s + maxFinite t
    | _ => infCode t neg
  match t with
  | .e4m3 => if sat then s + maxFinite t else defaultNan t
  | .e5m2 => if sat then s + maxFinite t else ieee
  | _ => ieee

/-- One rounding of the finite magnitude (m, and a sticky remainder below it) * 2^e (R46, R52, R456, R457). A zero keeps its sign. -/
def roundVal (t : Ty) (rm : Rm) (sat neg : Bool) (m : Nat) (e : Int) (sticky : Bool := false) : Fr :=
  if m = 0 && !sticky then ⟨if neg then signBit t else 0, {}, 0⟩
  else
    let (kept, rem, k, q, tiny) := splitAt t m e
    let inexact := rem != 0 || sticky
    let kept' := if roundsUp rm neg kept rem k sticky then kept + 1 else kept
    if overflows t kept' q then ⟨overflowCode t rm sat neg, { ovf := true, inx := true }, 0⟩
    else ⟨codeOf t neg kept' q, { unf := tiny && inexact, inx := inexact }, 0⟩

/-- A stochastic rounding (R59) with the 32-bit draw u. -/
def roundStoch (t : Ty) (sat neg : Bool) (m : Nat) (e : Int) (u : Nat) : Fr :=
  if m = 0 then ⟨if neg then signBit t else 0, {}, 0⟩
  else
    let (kept, rem, k, q, tiny) := splitAt t m e
    if overflows t kept q || (rem != 0 && overflows t (kept + 1) q) then
      ⟨overflowCode t .nearest sat neg, { ovf := true, inx := true }, 0⟩
    else if rem = 0 then ⟨codeOf t neg kept q, {}, 0⟩
    else
      let g := (rem <<< 32) >>> k
      ⟨codeOf t neg (if g > u then kept + 1 else kept) q, { unf := tiny, inx := true }, 0⟩

/-- How a conversion rounds: in a direction, or stochastically with a draw. -/
inductive Rounding where
  | dir (rm : Rm)
  | stoch (u : Nat)
deriving DecidableEq, Repr, Inhabited

/-- One rounding of a finite exact value in either way (R46, R55). -/
def roundBy (t : Ty) (r : Rounding) (sat neg : Bool) (m : Nat) (e : Int) : Fr :=
  match r with
  | .dir rm => roundVal t rm sat neg m e
  | .stoch u => roundStoch t sat neg m e u

/-- Conversion of a value, scaled by 2^shift (R55, R57): a NaN keeps its sign and takes the default payload (R37),
an infinity converted to E4M3 gives NaN. -/
def convVal (t : Ty) (r : Rounding) (sat : Bool) (shift : Int) (v : Val) : Fr :=
  match v with
  | .nan neg _ _ => ⟨defaultNan t + (if neg then signBit t else 0), {}, 0⟩
  | .inf neg => ⟨infCode t neg, {}, 0⟩
  | .fin neg m e => roundBy t r sat neg m (e + shift)

/-- The default NaN with INVALID and its cause (R458). -/
def invalidFr (t : Ty) (cause : Nat) : Fr := ⟨defaultNan t, { inv := true }, cause⟩

/-- Cases 2 and 3 of R458: the first NaN operand in operand order, made quiet; INVALID when any operand signals. -/
def nanCase (t : Ty) (codes : List Nat) : Option Fr :=
  let vs := codes.map fun c => (c, decodeVal t c)
  match vs.find? (fun p => p.2.isNan) with
  | none => none
  | some (c, _) =>
    if vs.any (fun p => p.2.isSnan) then some ⟨quietNan t c, { inv := true }, 3⟩
    else some ⟨quietNan t c, {}, 0⟩

/-- A signed exact value as an integer multiple of 2^e. -/
def signedOf (neg : Bool) (m : Nat) : Int := if neg then -(m : Int) else (m : Int)

/-- The exact sum of two finite values: (mantissa, exponent). -/
def addExact (m1 : Int) (e1 : Int) (m2 : Int) (e2 : Int) : Int × Int :=
  if e1 ≤ e2 then (m1 + m2 * ((2 ^ (e2 - e1).toNat : Nat) : Int), e1)
  else (m1 * ((2 ^ (e1 - e2).toNat : Nat) : Int) + m2, e2)

/-- Rounding of an exact signed value; an exact zero is `zeroNeg`. -/
def roundSigned (t : Ty) (rm : Rm) (m : Int) (e : Int) (zeroNeg : Bool) : Fr :=
  if m = 0 then ⟨if zeroNeg then signBit t else 0, {}, 0⟩
  else roundVal t rm false (decide (m < 0)) m.natAbs e

/-- The sign of an exact zero sum of two terms (IEEE 754): both negative, or opposite signs rounding toward -infinity. -/
def zeroSumNeg (rm : Rm) (n1 n2 : Bool) : Bool := if n1 == n2 then n1 else rm == .down

/-- Sum of two finite values or infinities, after the NaN cases (R458 case 5). -/
def addVals (t : Ty) (rm : Rm) (a b : Val) : Fr :=
  match a, b with
  | .inf n1, .inf n2 => if n1 == n2 then ⟨infCode t n1, {}, 0⟩ else invalidFr t 2
  | .inf n1, _ => ⟨infCode t n1, {}, 0⟩
  | _, .inf n2 => ⟨infCode t n2, {}, 0⟩
  | .fin n1 m1 e1, .fin n2 m2 e2 =>
    let (m, e) := addExact (signedOf n1 m1) e1 (signedOf n2 m2) e2
    roundSigned t rm m e (zeroSumNeg rm n1 n2)
  | _, _ => invalidFr t 4

/-- a + b, rounded (R458). -/
def fAdd (t : Ty) (rm : Rm) (a b : Nat) : Fr :=
  match nanCase t [a, b] with
  | some r => r
  | none => addVals t rm (decodeVal t a) (decodeVal t b)

/-- The value with its sign inverted. -/
def negVal : Val → Val
  | .nan n p s => .nan (!n) p s
  | .inf n => .inf (!n)
  | .fin n m e => .fin (!n) m e

/-- a - b, rounded. -/
def fSub (t : Ty) (rm : Rm) (a b : Nat) : Fr :=
  match nanCase t [a, b] with
  | some r => r
  | none => addVals t rm (decodeVal t a) (negVal (decodeVal t b))

/-- The product of two values that are not NaN, unrounded; `none` for zero times infinity. -/
def mulVals (a b : Val) : Option Val :=
  match a, b with
  | .fin n1 m1 e1, .fin n2 m2 e2 => some (.fin (n1 != n2) (m1 * m2) (e1 + e2))
  | .inf n1, .inf n2 => some (.inf (n1 != n2))
  | .inf n1, .fin n2 m2 _ => if m2 = 0 then none else some (.inf (n1 != n2))
  | .fin n1 m1 _, .inf n2 => if m1 = 0 then none else some (.inf (n1 != n2))
  | _, _ => none

/-- A value rounded to a format. -/
def roundTo (t : Ty) (rm : Rm) (v : Val) : Fr :=
  match v with
  | .nan n _ _ => ⟨defaultNan t + (if n then signBit t else 0), {}, 0⟩
  | .inf n => ⟨infCode t n, {}, 0⟩
  | .fin n m e => roundVal t rm false n m e

/-- a × b, rounded (R458 case 4). -/
def fMul (t : Ty) (rm : Rm) (a b : Nat) : Fr :=
  match nanCase t [a, b] with
  | some r => r
  | none =>
    match mulVals (decodeVal t a) (decodeVal t b) with
    | none => invalidFr t 1
    | some v => roundTo t rm v

/-- a × b + c with one rounding (R458 cases 1 to 5). -/
def fFma (t : Ty) (rm : Rm) (a b c : Nat) : Fr :=
  let va := decodeVal t a
  let vb := decodeVal t b
  if (va.isZero && vb.isInf) || (va.isInf && vb.isZero) then invalidFr t 1
  else
    match nanCase t [a, b, c] with
    | some r => r
    | none =>
      match mulVals va vb with
      | none => invalidFr t 1
      | some p => addVals t rm p (decodeVal t c)

/-- a / b, rounded (IEEE 754; R458 case 6 for 0/0 and infinity over infinity). -/
def fDiv (t : Ty) (rm : Rm) (a b : Nat) : Fr :=
  match nanCase t [a, b] with
  | some r => r
  | none =>
    match decodeVal t a, decodeVal t b with
    | .inf _, .inf _ => invalidFr t 4
    | .inf n1, .fin n2 _ _ => ⟨infCode t (n1 != n2), {}, 0⟩
    | .fin n1 _ _, .inf n2 => ⟨if n1 != n2 then signBit t else 0, {}, 0⟩
    | .fin n1 m1 e1, .fin n2 m2 e2 =>
      if m2 = 0 then
        (if m1 = 0 then invalidFr t 4 else ⟨infCode t (n1 != n2), { dz := true }, 0⟩)
      else if m1 = 0 then ⟨if n1 != n2 then signBit t else 0, {}, 0⟩
      else
        let k := tyMant t + 4 + bitLen m2
        let num := m1 <<< k
        roundVal t rm false (n1 != n2) (num / m2) (e1 - e2 - k) (num % m2 != 0)
    | _, _ => invalidFr t 4

/-- Newton's iteration from above for the integer square root. -/
def isqrtLoop (n : Nat) : Nat → Nat → Nat
  | 0, x => x
  | fuel + 1, x =>
    let y := (x + n / x) / 2
    if y < x then isqrtLoop n fuel y else x

/-- floor(√n). -/
def isqrt (n : Nat) : Nat := if n = 0 then 0 else isqrtLoop n (bitLen n + 2) (2 ^ ((bitLen n + 1) / 2))

/-- √a, rounded. -/
def fSqrt (t : Ty) (rm : Rm) (a : Nat) : Fr :=
  match nanCase t [a] with
  | some r => r
  | none =>
    match decodeVal t a with
    | .inf false => ⟨infCode t false, {}, 0⟩
    | .inf true => invalidFr t 4
    | .fin n m e =>
      if m = 0 then ⟨if n then signBit t else 0, {}, 0⟩
      else if n then invalidFr t 4
      else
        let k := 2 * (tyMant t + 4)
        let k := if (e - k) % 2 = 0 then k else k + 1
        let x := m <<< k
        let r := isqrt x
        roundVal t rm false false r ((e - k) / 2) (r * r != x)
    | _ => invalidFr t 4

/-- Comparison of two values that are not NaN; −0 equals +0. -/
def cmpVals (a b : Val) : Ordering :=
  match a, b with
  | .inf n1, .inf n2 => if n1 == n2 then .eq else if n1 then .lt else .gt
  | .inf n1, _ => if n1 then .lt else .gt
  | _, .inf n2 => if n2 then .gt else .lt
  | .fin n1 m1 e1, .fin n2 m2 e2 => compare (addExact (signedOf n1 m1) e1 (-(signedOf n2 m2)) e2).1 0
  | _, _ => .eq

/-- a is below b in the order of IEEE 754 maximum and minimum, in which −0 is below +0 (R54). -/
def ltMaxMin (a b : Val) : Bool :=
  match cmpVals a b with
  | .lt => true
  | .gt => false
  | .eq => a.neg? && !b.neg?

/-- IEEE 754-2019 maximum (max) or minimum of codes; NaN by R54. -/
def fMaxMin (t : Ty) (max : Bool) (a b : Nat) : Fr :=
  match nanCase t [a, b] with
  | some r => r
  | none =>
    let lt := ltMaxMin (decodeVal t a) (decodeVal t b)
    ⟨if lt == max then b else a, {}, 0⟩

/-- IEEE 754-2019 maximumNumber or minimumNumber: a NaN gives way to a number; a signalling NaN raises INVALID. -/
def fMaxMinNum (t : Ty) (max : Bool) (a b : Nat) : Fr :=
  let va := decodeVal t a
  let vb := decodeVal t b
  let s := va.isSnan || vb.isSnan
  let fl : Fl := { inv := s }
  let c := if s then 3 else 0
  if va.isNan && vb.isNan then ⟨quietNan t a, fl, c⟩
  else if va.isNan then ⟨b, fl, c⟩
  else if vb.isNan then ⟨a, fl, c⟩
  else ⟨if ltMaxMin va vb == max then b else a, {}, 0⟩

/-- The code with its sign bit cleared. -/
def absCode (t : Ty) (c : Nat) : Nat := c % signBit t

/-- Stream MAX, MIN and AMAX, and every gathered amax (R54): a NaN gives the default NaN and no flag. -/
def quietMax (t : Ty) (max : Bool) (a b : Nat) : Nat :=
  if (decodeVal t a).isNan || (decodeVal t b).isNan then defaultNan t
  else if ltMaxMin (decodeVal t a) (decodeVal t b) == max then b else a

/-- The canonical tree of R49 over a list, for any pair operation; `fuel` bounds the depth. -/
def treeFold {α : Type} (op : α → α → α) (d : α) : Nat → List α → α
  | 0, l => l.headD d
  | fuel + 1, l =>
    if l.length ≤ 1 then l.headD d
    else
      let k := 2 ^ (ceilLog2 l.length - 1)
      op (treeFold op d fuel (l.take k)) (treeFold op d fuel (l.drop k))

/-- The canonical tree of R49. -/
def canonTree {α : Type} (op : α → α → α) (d : α) (l : List α) : α := treeFold op d (bitLen l.length + 1) l

/-- A pair operation on results that keeps the flags of both sides and the first INVALID cause. -/
def frPair (op : Nat → Nat → Fr) (a b : Fr) : Fr :=
  let r := op a.code b.code
  ⟨r.code, flOr (flOr a.fl b.fl) r.fl, if a.cause != 0 then a.cause else if b.cause != 0 then b.cause else r.cause⟩

/-- E for an amax t (R57): none when t is NaN or infinite; 127 when t is zero. -/
def tileScale (dst : Ty) (t : Val) : Option Nat :=
  match t with
  | .fin _ m e =>
    if m = 0 then some 127
    else
      let emax : Int := if dst == .e4m3 then 8 else 15
      let x : Int := (bitLen m : Int) - 1 + e - emax + 127
      some (min 254 x.toNat)
  | _ => none

end Sys2Proof
end

