-- ==== Sys2Proof/Machine/State.lean ====
section
/-! DEFINITION. The state of the TG3 block: plain data, every piece of state the spec names (INVENTORY.md lists
each with its rule and reset value). Registers and table entries are held as raw words of their tables' layouts. -/

namespace Sys2Proof.Machine

/-- Part number and grade (00 R1, Table 0.1). -/
inductive Grade where
  | x | m | f
deriving DecidableEq, Repr, Inhabited

/-- Device states (12 Table 12.7). -/
inductive Mode where
  | off | aux | boot | ready | joined | active | frozen | fenced | safe
deriving DecidableEq, Repr, Inhabited

/-- The code of a device state (Table 12.7). -/
def Mode.code : Mode → Nat
  | .off => 0
  | .aux => 1
  | .boot => 2
  | .ready => 3
  | .joined => 4
  | .active => 5
  | .frozen => 6
  | .fenced => 7
  | .safe => 8

/-- Fixed at manufacture, or outside the module (contacts and EEPROM), and what boot latches of them. -/
structure Ident where
  grade : Grade := .x
  serial : Word := 0
  /-- Grade M (R1): the cluster of compute die d that is fused off, in bits [3d+2:3d]. -/
  clusterFuse : BitVec 12 := 0
  calBad : List Nat := []
  slotStrap : BitVec 5 := 0
  hivePresentN : Bool := false
  twinPresentN : Bool := true
  eeprom : Option (List Byte) := none
  /-- R446, R453: latched at boot stage 0x03. -/
  latched : Bool := false
  slot : BitVec 5 := 0
  hivePresent : Bool := true
  twinPresent : Bool := false
  eepromOk : Bool := false
  hive : BitVec 10 := 0
  side : Bool := false
  /-- Fibre-length class of port p in bits [3p+2:3p] (Table 16.7). -/
  flc : BitVec 192 := 0
  /-- R341: CLUSTERS and SUNITS as fixed at the end of BOOT. -/
  units : Option (BitVec 32 × BitVec 32) := none
deriving DecidableEq, Repr, Inhabited

/-- An entry of the safety log (13 Table 13.7): mechanism, time and locator. -/
structure SafetyEntry where
  mech : Nat
  time : Nat
  loc : Nat
deriving DecidableEq, Repr, Inhabited

/-- Device state and the AON domain (12 R342, R355; 14; 16 Table 16.2). -/
structure Dev where
  mode : Mode := .aux
  remembered : Mode := .ready
  degraded : Bool := false
  replaceRequest : Bool := false
  testMode : Bool := false
  detStrict : Bool := false
  safety : Bool := false
  keepInService : Bool := false
  eid : BitVec 16 := 0
  epoch : BitVec 32 := 0
  bootStage : Byte := 0
  bootFail : Byte := 0
  /-- R428: only the boot ROM runs. -/
  recovery : Bool := false
  /-- R412: the stage in progress has completed and boot holds while frozen. -/
  stageHeld : Bool := false
  /-- R410, R425: the next BOOT needs PWR_EN deasserted and asserted again. -/
  needPwrToggle : Bool := false
  pwrEnLowAt : Option Nat := none
  /-- Contacts, seen as levels (Table 16.2). -/
  aux12Good : Bool := true
  main54Good : Bool := false
  pwrEn : Bool := false
  pwrGood : Bool := false
  leakN : Bool := true
  thermtripN : Bool := true
  safeN : Bool := true
  alertN : Bool := true
  frozenPin : Bool := false
  /-- R411: FREEZE_N held low from outside; the ids held, each with "taken with propagate clear". -/
  freezeNLow : Bool := false
  freezeIds : List (Nat × Bool) := []
  /-- R415: POISON and FENCE sets held while frozen. -/
  heldSets : List SetRx := []
  frozenRx : Nat := 0
  /-- When the clocks stopped, in 1/48 ns. -/
  frozeAt : Nat := 0
  /-- R424, R425, R450: when main conversion stops, in swarm time. -/
  stopAt : Option Nat := none
  /-- R425: a leak holds the module in AUX; PWR_EN has since been deasserted and asserted again. -/
  leakHold : Bool := false
  leakToggled : Bool := false
  safetyLog : List SafetyEntry := []
  /-- Other log entries: neighbour, smoker and integrity events (R388, R394, R215), as kind, subject, time. -/
  eventLog : List (Nat × Nat × Nat) := []
deriving DecidableEq, Repr, Inhabited

/-- Swarm time (14 R398-R404). `t48` counts 1/48 ns; a root cycle is 10 of them. `logic` counts the root cycles
in which CCLK, SCLK and MCLK ran (R416). -/
structure Clock where
  t48 : Nat := 0
  logic : Nat := 0
  /-- Root cycles since AUX, of which PCLK counts every eighth. -/
  ticks : Nat := 0
  slew : Int := 0
  slewPhase : Nat := 0
  timeFault : Bool := false
  offset : BitVec 32 := 0
  parent : Nat := 127
  root : Bool := true
  /-- R403: departure of the TIME set whose answer is awaited. -/
  asked : Option Nat := none
  /-- When a TIME set last went to the parent. -/
  askAt : Nat := 0
  /-- R403: answers due, as port and time. -/
  due : List (Nat × Nat) := []
  /-- R402: when the parent's sideband went down. -/
  parentLost : Option Nat := none
deriving DecidableEq, Repr, Inhabited

/-- A token record staged or held (12 Table 12.11). -/
structure TokenRec where
  sample : BitVec 128
  launchId : BitVec 32
  s : BitVec 32
  time : Word
deriving DecidableEq, Repr, Inhabited

/-- The host interface (12 R340-R348, R365-R367). -/
structure HostIf where
  tokenRptr : Word := 0
  cmplRptr : Word := 0
  win : Word := 0
  msixTable : Mem := []
  msixPending : BitVec 72 := 0
  /-- BAR2: the 64 host mailboxes, STATUS of each at IDLE, 0x8000 (Table 12.4). -/
  bar2 : Mem := (List.range 64).map fun n => (4096 * n + 13, 0x80#8)
  ringsSet : Bool := false
  tokenBase : Word := 0
  cmplBase : Word := 0
  tlog : Nat := 12
  clog : Nat := 12
  ptrAddr : Word := 0
  tokenWptr : Word := 0
  cmplWptr : Word := 0
  tokenHeld : List TokenRec := []
  /-- Completion records held, as the bytes of Table 12.12 and its amax entries. -/
  cmplHeld : List (List Byte) := []
  busMaster : Bool := true
deriving DecidableEq, Repr, Inhabited

/-- A session (12 R352): the transport it is bound to, as its kind and the EID or address. -/
structure Session where
  id : BitVec 32
  kind : Nat
  peer : BitVec 32
  major : Nat
deriving DecidableEq, Repr, Inhabited

/-- An accepted request (12 R346): its header words W0 to W3 and argument words. -/
structure Req where
  src : ReqSrc
  peer : BitVec 32
  w0 : Word
  w1 : Word
  w2 : Word
  args : List Word
  /-- Swarm time of acceptance, ns, and the PCLK cycle of it (R347). -/
  at_ : Nat := 0
  cycle : Nat := 0
deriving DecidableEq, Repr, Inhabited

/-- A FORWARD that waits for its response (12 R349). -/
structure Fwd where
  req : Req
  target : Nat
  viaPort : Bool
  mailbox : Nat
  sentAt : Nat
deriving DecidableEq, Repr, Inhabited

/-- The Sceuf service (12 R347-R352). -/
structure Sceuf where
  sessions : List Session := []
  nextSession : Nat := 1
  accepted : List Req := []
  /-- Responses kept for repeated TAGs (R350): session, TAG, response words (header first). -/
  kept : List (BitVec 32 × BitVec 32 × List Word) := []
  forward : Option Fwd := none
  ipv4 : Option (BitVec 32) := none
  /-- R339: the management SRAM and the latent errors in its words; true: double-bit. No command reads it (assumption 116). -/
  sram : Mem := []
  sramErrs : Tbl (Option Bool) := []
deriving DecidableEq, Repr, Inhabited

/-- States of a route bank (08 R249, Table 8.5). -/
inductive Bank where
  | inactive | armed | active | draining
deriving DecidableEq, Repr, Inhabited

/-- A guard's buckets (07 R226), in units of 1/9,600 byte, and the SC at which they were last brought up to date. -/
structure Bucket where
  committed : Nat := 0
  peak : Nat := 0
  at_ : Nat := 0
deriving DecidableEq, Repr, Inhabited

/-- Tables of the switch core and the fabric (07, 08, 13 Table 13.4). -/
structure Fab where
  route0 : Tbl (BitVec 32) := []
  route1 : Tbl (BitVec 32) := []
  mcast0 : Tbl (BitVec 128) := []
  mcast1 : Tbl (BitVec 128) := []
  bank0 : Bank := .active
  bank1 : Bank := .inactive
  srcEpoch : Bool := false
  swapTime : Word := 0
  /-- R250: Ts of the last swap, 0 before any. -/
  lastSwap : Word := 0
  circuits : Tbl (BitVec 192) := []
  teardown : List Nat := []
  calCur : Tbl (BitVec 16) := []
  calShadow : Tbl (BitVec 16) := []
  rankmap : Tbl (BitVec 32) := []
  windows : Tbl (BitVec 64) := []
  /-- Key maps: bit key of port p at 4,096p + key (R228); bit 0 reads 1 whatever is listed (R238). -/
  keyIn : Tbl Bool := []
  keyOut : Tbl Bool := []
  fence : Tbl Bool := []
  guards : Tbl (BitVec 192) := []
  buckets : Tbl Bucket := []
  thresholds : Tbl (BitVec 64) := []
  portCfg : Tbl (BitVec 32) := []
  poolWait : Tbl Nat := []
  lifetime : Nat := 20
  mirror : Tbl (BitVec 64) := []
  mirrorCnt : Tbl Nat := []
  ringBase : Word := 0
  ringSize : Nat := 0
  ringMode : Bool := false
  ringWptr : Nat := 0
  ringRptr : Nat := 0
  /-- TIME of the newest mirror records, and those records in ascending RULE (R234). -/
  mirrorAt : Nat := 0
  mirrorRun : List (Nat × List Byte) := []
deriving DecidableEq, Repr, Inhabited

/-- A frame held in the comb (07 R199, R200): the chain of its cells, of which the first names it (R201); its words as received,
reference count, owner, input, class, ARRIVAL and colour, and the words with a latent error (R198). -/
structure CFrame where
  chain : List Nat
  frame : Frame
  /-- EPOCH as the frame is routed and sent on (08 R239, R270). -/
  epoch : Bool
  ref : Nat
  owner : Nat
  input : Nat
  cls : Nat
  arrival : Nat
  colour : Nat
  marks : List (Nat × Bool)
  /-- R243: a condition of R242 found after the first word left. -/
  stomp : Bool
deriving DecidableEq, Repr, Inhabited

/-- A frame copy at an output: staged or in the transmitter (07 R220); `doneAt` in units of 1/2,016,000 SCLK cycle
(assumption 13). -/
structure Copy where
  frame : Nat
  circuit : Option Nat
  stomp : Bool
  doneAt : Nat
deriving DecidableEq, Repr, Inhabited

/-- An output's egress stage and transmitter (R220), oldest first: the transmitter, then the stage. -/
structure Egress where
  copies : List Copy := []
  freeAt : Nat := 0
  lastStart : Nat := 0
  /-- SC + 1 of the last slot that was skipped (R222). -/
  skipAt : Nat := 0
deriving DecidableEq, Repr, Inhabited

/-- A P1, P2 or P3 buffer (07 R214). -/
structure Buf where
  pool : Nat
  id : Nat
  owner : Nat
  ref : Nat
deriving DecidableEq, Repr, Inhabited

/-- A frame that a unit of the module has waiting at its input (07 R461), and whether it waits in its pool (R210). -/
structure Orig where
  input : Nat
  owner : Nat
  frame : Frame
  /-- Place in the rotation of input 113: foragers 0 to 63, the collective engine 64, management 65. -/
  who : Nat := 0
  /-- R328: the frame of a HIGH MOVE. -/
  high : Bool := false
  /-- R181: the output that DKIND 3 names, without a route lookup. -/
  toOut : Option Nat := none
  waiting : Bool := false
deriving DecidableEq, Repr, Inhabited

/-- What a pool waiter waits for (07 R210): a frame at its input, or a buffer of a stream chunk. -/
inductive WaitFor where
  | origin (input : Nat)
  | buffer (ctx seq chunk : Nat)
deriving DecidableEq, Repr, Inhabited

/-- A request that waits in its pool (07 R210), with the SC of its request. -/
structure Waiter where
  pool : Nat
  owner : Nat
  what : WaitFor
  since : Nat
deriving DecidableEq, Repr, Inhabited

/-- Pause state that a port sends (07 R227, 08 R260, R261) or has received (R262). -/
structure Pause where
  xoff : Byte := 0
  pseq : Byte := 0
  last : Nat := 0
  /-- R260: one more than the number of the period in which the last word was sent; a change has not been sent yet. -/
  period : Nat := 0
  due : Bool := false
  /-- Classes held off by the red rule of R227 until below XON. -/
  red : Byte := 0
deriving DecidableEq, Repr, Inhabited

/-- A queue sample record in progress (07 R230): depth minimum, maximum, sum; delay minimum, maximum, sum; samples. -/
structure Sample where
  dMin : Nat := 0
  dMax : Nat := 0
  dSum : Nat := 0
  lMin : Nat := 0
  lMax : Nat := 0
  lSum : Nat := 0
  n : Nat := 0
deriving DecidableEq, Repr, Inhabited

/-- What the comb holds about its storage (07 R216): the metadata of a cell or a buffer, the entry of an output's lists that names a
frame's first cell, or the account of an owner in a pool. -/
inductive CombMeta where
  | cell (k : Nat)
  | buffer (h : Nat)
  | entry (o k : Nat)
  | account (owner pool : Nat)
deriving DecidableEq, Repr, Inhabited

/-- The comb and the switch core (07). Lists are keyed (input·113 + output)·8 + class and circuit·113 + output. -/
structure Comb where
  frames : List CFrame := []
  queues : Tbl (List Nat) := []
  circuitQ : Tbl (List Nat) := []
  egress : Tbl Egress := []
  bufs : List Buf := []
  used : Tbl Nat := []
  /-- MIN and MAX as written by SET_COMB (20 bits each), where it differs from Table 7.5. -/
  limits : Tbl (Option (BitVec 40)) := []
  waiters : List Waiter := []
  /-- HDRM SIZE and LEN_M of an external port (R263), 0 until its link is up; cells used per port·8 + class. -/
  hdrmSize : Tbl Nat := []
  hdrmLen : Tbl Nat := []
  hdrmUsed : Tbl Nat := []
  gp : Tbl Nat := []
  ap : Tbl Nat := []
  orig : List Orig := []
  rot113 : Nat := 0
  pauseTx : Tbl Pause := []
  pauseRx : Tbl Pause := []
  /-- Frames delivered to their target of Table 8.2 and not yet taken by it. -/
  localIn : List Frame := []
  samples : Tbl Sample := []
  doubleFree : Bool := false
  /-- OWNER as free storage still holds it (R214, R215): by cell, and by buffer handle + 2^20. -/
  lastOwner : Tbl Nat := []
  /-- Errors in metadata, queue entries and accounts, and whether double-bit (R216). -/
  metaErrs : List (CombMeta × Bool) := []
  /-- The die arbiters' places (11 R328), by (input·2 + HIGH)·9: the next group, then the next channel of each group. -/
  dieRot : Tbl Nat := []
  /-- SC + 1 of the last arbitration, SC / 1,024 of the last calendar wrap and of the last queue sample. -/
  arbAt : Nat := 0
  wrapAt : Nat := 0
  sampAt : Nat := 0
deriving DecidableEq, Repr, Inhabited

/-- Lane states (10 Table 10.3). -/
inductive Lane where
  | off | locking | active | standby | failed
deriving DecidableEq, Repr, Inhabited

/-- Port states (10 Table 10.3). -/
inductive PState where
  | down | negotiate | train | probe | up | sparing | narrow
deriving DecidableEq, Repr, Inhabited

/-- The code of a port state (Table 10.4). -/
def PState.code : PState → Nat
  | .down => 0
  | .negotiate => 1
  | .train => 2
  | .probe => 3
  | .up => 4
  | .sparing => 5
  | .narrow => 6

/-- What a port direction has spent (13 Table 13.8). -/
inductive Worn where
  | none | spare | narrow
deriving DecidableEq, Repr, Inhabited

/-- Faults that keep a port down and count for health (13 Table 13.8). -/
inductive PFault where
  | linkNoVersion | wiringFault | skewFault | calBad | hdrmShort | sbLost
deriving DecidableEq, Repr, Inhabited

/-- An external port (10; 08 R256, R269; 13 R388). -/
structure Port where
  tx : PState := .down
  rx : PState := .down
  mfp : Nat := 0
  flc : Nat := 0
  sb : Bool := false
  deskew : Nat := 0
  txMap : BitVec 32 := 0x76543210
  rxMap : BitVec 32 := 0x76543210
  txLanes : List Lane := List.replicate 9 .off
  rxLanes : List Lane := List.replicate 9 .off
  linkDelay : Nat := 0
  /-- R256: probes sent and the delays that came back. -/
  probesSent : Nat := 0
  probes : List Nat := []
  probeAt : List Nat := []
  /-- R269: CHOSEN and peer serial of the ACCEPT sent and received. -/
  sentAccept : Option (Nat × Word) := none
  recvAccept : Option (Nat × Word) := none
  acceptAt : Nat := 0
  /-- R268: the peer's SERIAL and PORT recorded when the data lanes came up. -/
  linkUp : Option (Word × Nat) := none
  /-- R271: TWIN of the peer's last ANNOUNCE. -/
  peerTwin : Bool := false
  /-- R302: the settings of each lane in force: bias, swing, FFE taps 0-4, CTLE, DFE taps 0-2, LOS_TH. -/
  settings : List (List Int) := []
  lastAnnounce : Nat := 0
  /-- Neighbour table entry W0, W1 (12 R360), and the state its last BEACON showed. -/
  nbSerial : Word := 0
  nbW1 : Word := 0
  nbState : Nat := 0
  beaconRx : Nat := 0
  beaconSeq : BitVec 16 := 0
  beaconTx : Nat := 0
  /-- R304: the failed logical lane being spared, for each direction; when the next message is due. -/
  rxSparing : Option Nat := none
  txSparing : Option Nat := none
  txNarrow : Bool := false
  txMoved : Bool := false
  rxSince : Option Nat := none
  txSince : Option Nat := none
  /-- R395: the failed lane was forced by a rehearsal. -/
  rehearsed : Bool := false
  /-- R298: a codeword was lost, and words are discarded until an FPOS names one. -/
  resync : Bool := false
  /-- R310: the root cycles until which a set, and a waggle frame, occupy the sideband. -/
  sbBusy : Nat := 0
  wagEnd : Nat := 0
  /-- 13 R390: a direction uses its spare, or is NARROW, since its nine lanes last trained. -/
  txWorn : Worn := .none
  rxWorn : Worn := .none
  fault : Option PFault := none
  /-- R310: sets acted on, with the time. -/
  recent : List (Byte × BitVec 40 × Nat) := []
deriving DecidableEq, Repr, Inhabited

/-- A stream program in the store (06 R164): its instructions. -/
structure SProg where
  code : List Word
deriving DecidableEq, Repr, Inhabited

/-- An armed stream context (06 R160): the record, its job's key, the group that armed it, the AUX buffer and bytes. -/
structure Ctx where
  word : BitVec 1024
  pkey : Nat
  group : Option Nat
  auxBuf : Option Nat
  aux : List Byte
deriving DecidableEq, Repr, Inhabited

/-- An exact accumulator with its tag (06 Table 6.5): `value` counts least bits. -/
structure SAcc where
  value : Int := 0
  residue : Nat := 0
  nan : Bool := false
  pinf : Bool := false
  ninf : Bool := false
  allNegZero : Bool := true
  allPosZero : Bool := true
  seen : Bool := false
deriving DecidableEq, Repr, Inhabited

/-- A piece held by a chunk: source, piece, LAST, STAT, SCALE, number of elements, data bytes. -/
structure Piece where
  src : Nat
  piece : Nat
  last : Bool
  stat : Nat
  scale : Nat
  nelem : Nat
  data : List Byte
  /-- A reserved bit of the prefix was set (Table 6.11, check 1). -/
  rsv : Bool := false
deriving DecidableEq, Repr, Inhabited

/-- An ordering record (06 R176): score bits, index, source. -/
structure Ord where
  score : Nat
  index : Nat
  src : Nat
deriving DecidableEq, Repr, Inhabited

/-- What a chunk holds in reduction memory, tags and its result buffer (06 R161, R162, R166, R189). -/
structure SRun where
  /-- Exact accumulators with their tags, by entry. -/
  acc : Tbl SAcc := []
  /-- Running values of MAX, MIN, AMAX and of ARRIVAL sums, by entry. -/
  vals : Tbl (Option Nat) := []
  kept : List Ord := []
  /-- RES, how many of its bytes have been written, and the bytes of a unit when it holds a list (0: elements), of pairs or not. -/
  res : Mem := []
  high : Nat := 0
  unit : Nat := 0
  pairs : Bool := false
  /-- E8M0 scale of FP8 elements of RES, and of the chunk's contributions (R47). -/
  resScale : Nat := 127
  /-- The first 16 bytes of RES hold a SAMPLE result (R185). -/
  sampled : Bool := false
  scale : Option Nat := none
  scaleBad : Bool := false
  stat : BitVec 8 := 0
  /-- The check of Table 6.11 that made the chunk malformed, 0 when none did. -/
  check : Nat := 0
deriving DecidableEq, Repr, Inhabited

/-- A combined node of a canonical tree that waits for its sibling in a comb buffer (06 R161): its sources lo to lo + n - 1, the
piece that it is (0 for SPSUM) and the buffer's handle. -/
structure TNode where
  lo : Nat
  n : Nat
  piece : Nat
  handle : Nat
deriving DecidableEq, Repr, Inhabited

/-- A frame that stays in the comb as part of a leaf of a canonical tree (06 R161), and the piece that it carries. -/
structure Leaf where
  frame : Nat
  ctx : Nat
  seq : Nat
  chunk : Nat
  src : Nat
  piece : Nat
deriving DecidableEq, Repr, Inhabited

/-- A chunk of a stream unit (06 R156, R161-R190); `unit` is a physical unit. -/
structure Chunk where
  ctx : Nat
  seq : Nat
  chunk : Nat
  unit : Nat
  pages : Nat
  /-- Taken from unreserved pages as an early arrival (09 R282). -/
  early : Bool := false
  startT : Nat
  /-- Step in progress of the context's job when the entry was taken (R182). -/
  stepSeq : Option Nat
  /-- Pieces received: SRC, PIECE, LAST, NELEM. -/
  got : List (Nat × Nat × Bool × Nat) := []
  /-- Pieces whose data the operation still needs, and how many of them phase 0 has run on. -/
  pieces : List Piece := []
  ran : Nat := 0
  run : SRun := {}
  complete : Bool := false
  /-- Comb buffers held. -/
  bufs : List Nat := []
  /-- R161: source and piece of the leaves that wait for their siblings, and the combined nodes that do. -/
  held : List (Nat × Nat) := []
  nodes : List TNode := []
  /-- SEQ of the frames of its result pieces that have not left the unit (R161, R182), and whether a frame is the last that an OUT
  sends from RES (07 R214). -/
  out : List (Nat × Bool) := []
deriving DecidableEq, Repr, Inhabited

/-- A unit's stream locator (06 Table 6.12). -/
structure Sloc where
  s0 : Word := 0
  s1 : Word := 0
deriving DecidableEq, Repr, Inhabited

/-- Where a unit's memories hold a word (06 R194): the program store, the chunk state, or the accumulator of an element in
reduction memory with its tag. -/
inductive UMem where
  | program (n : Nat)
  | entry (ctx seq chunk : Nat)
  | acc (ctx seq chunk off : Nat)
deriving DecidableEq, Repr, Inhabited

/-- The stream compute units (06). -/
structure Su where
  programs : Tbl (Option SProg) := []
  ctxs : Tbl (Option Ctx) := []
  /-- Physical unit of each logical unit (R157). -/
  map : List Nat := List.range 32
  /-- Units that have failed and are not yet retired, and retired units (R195). -/
  failed : List Nat := []
  retired : List Nat := []
  /-- Pieces queued to units: physical unit and frame. -/
  queue : List (Nat × Frame) := []
  /-- Frames kept in the comb as leaves of canonical trees (R161). -/
  leaves : List Leaf := []
  /-- Buffers granted to a chunk that waited: CTX, SEQ, CHUNK, handle (07 R210). -/
  granted : List (Nat × Nat × Nat × Nat) := []
  chunks : List Chunk := []
  slocs : Tbl Sloc := []
  lastPatrol : Tbl Nat := []
  /-- Words of a unit's memories with an error, and whether double-bit (R194). -/
  errs : List (Nat × UMem × Bool) := []
  /-- Sequence number of the next result frame (08 Table 8.1, W1[63:32]). -/
  frameSeq : BitVec 32 := 0
deriving DecidableEq, Repr, Inhabited

/-- A read of a source's elements of a chunk that travels in MREAD and MRDATA frames (11 R313). -/
structure CRead where
  /-- SEQ of the MREAD. -/
  seq : Nat
  chunk : Nat
  left : Nat
  data : List Byte := []
deriving DecidableEq, Repr, Inhabited

/-- An operation that the collective engine has outstanding (09 R277-R289). -/
structure COp where
  gid : Nat
  seq : Nat
  lsrc : Nat
  word : BitVec 320
  issuedAt : Nat
  inStep : Bool
  /-- The first chunk whose pieces have not been sent. -/
  nextChunk : Nat := 0
  /-- Chunks whose result or credit has come. -/
  done : List Nat := []
  /-- SEQ of the result writes whose acknowledgement is awaited. -/
  acks : List Nat := []
  /-- Source elements on their way from another die. -/
  reads : List CRead := []
deriving DecidableEq, Repr, Inhabited

/-- The collective engine (09). -/
structure Coll where
  groups : Tbl (BitVec 320) := []
  /-- Operations that source l of group g (key 4g + l) has issued; modulo 2^32 its next sequence number (R277). -/
  nextSeq : Tbl Nat := []
  stepSeq : Tbl Nat := []
  ops : List COp := []
  /-- Issue records that have reached the engine and are not yet issued. -/
  queue : List (BitVec 320) := []
  /-- SEQ of the engine's next result write. -/
  writeSeq : Nat := 0
  /-- Frames that each die's local source has sent: its place in the rotation over the die's ports (R283). -/
  turns : Tbl Nat := []
  /-- The last operation of source l of group g (key 4g + l) that ended with a status other than OK: its sequence number
  and the status (R237, R273, R289). -/
  results : Tbl (Option (Nat × Nat)) := []
  flat : Tbl Bool := []
deriving DecidableEq, Repr, Inhabited

/-- HBM and its controllers (11). -/
structure Hbm where
  mem : Mem := []
  /-- Contents undefined until boot stage 0x15 (14 R408). -/
  undef : Bool := true
  /-- Words with an error, by address; true: a double-bit error (R316). -/
  errs : Tbl (Option Bool) := []
  corrLog : List Nat := []
  errLog : List Nat := []
  integrityLog : List (Nat × Nat) := []
  /-- R318: addresses of errors logged in the pass, per pseudo-channel stack·64 + pc, and whether double. -/
  pcErrs : List (Nat × Nat × Bool) := []
  spared : List Nat := []
  copying : List Nat := []
  keptBad : List Nat := []
  scrubAt : Nat := 0
  regions : Tbl (BitVec 320) := []
  /-- SEL and DIRTY of page region·2^20 + page (R321). -/
  sel : Tbl Bool := []
  dirty : Tbl Bool := []
  /-- R325: latent errors in SEL and DIRTY of a page, and in CLEN and PLEN of a region; true: double-bit. -/
  selErrs : Tbl (Option Bool) := []
  lenErrs : Tbl (Option Bool) := []
deriving DecidableEq, Repr, Inhabited

/-- FSTATUS.STATE (11 Table 11.5). -/
inductive FState where
  | idle | run | wait | done | fault
deriving DecidableEq, Repr, Inhabited

/-- The code of a channel state (Table 11.5). -/
def FState.code : FState → Nat
  | .idle => 0
  | .run => 1
  | .wait => 2
  | .done => 3
  | .fault => 4

/-- A level of a channel's loop state (11 R335). -/
structure FLoop where
  start : Nat
  last : Nat
  remaining : Nat
  r1 : Option (Nat × Word)
  r2 : Option (Nat × Word)
deriving DecidableEq, Repr, Inhabited

/-- A channel's checkpoint (11 R338). -/
structure FCkpt where
  pc : Nat
  loops : List FLoop
  cur : List Word
  inc : List Word
deriving DecidableEq, Repr, Inhabited

/-- A remote read that a channel has outstanding (11 R333): the MREAD's SEQ, the bytes still to come, where they go
(address, one word throughout, and the EID of a destination that lies behind frames) and how. -/
structure FRead where
  seq : Nat
  left : Nat
  dst : Nat
  dfix : Bool
  eid : Option Nat
  cls : Nat
  circ : Option Nat
  ack : Bool
  high : Bool := false
  /-- How often the data are written one after another: five words of one read form an issue record (R332). -/
  copies : Nat := 1
deriving DecidableEq, Repr, Inhabited

/-- A forager channel (11 R327). -/
structure Chan where
  st : FState := .idle
  pc : Nat := 0
  cause : Nat := 0
  pkey : Nat := 0
  code : List (BitVec 256) := []
  cur : List Word := List.replicate 8 0
  inc : List Word := List.replicate 8 0
  loops : List FLoop := []
  bound : Bool := false
  ckpt : Option FCkpt := none
  /-- R334: SEQ of the writes whose acknowledgement is awaited, reads outstanding, and since when. -/
  acks : List Nat := []
  reads : List FRead := []
  moveSince : Option Nat := none
  /-- R336: SEQ of the writes in flight to the module's own dies, and the signals (W0) that wait for some of them. -/
  ownWrites : List Nat := []
  signals : List (List Nat × Word) := []
  waitSince : Option Nat := none
  seq : BitVec 32 := 0
  /-- R329: SEQ of the MREAD whose index or count word is awaited, and that word once it has come. -/
  idxRead : Option Nat := none
  idxVal : Option Nat := none
deriving DecidableEq, Repr, Inhabited

/-- A stream descriptor and its position (05 Table 5.2, R125). -/
structure SDesc where
  word : BitVec 192 := 0
  pos : Nat := 0
  off : Nat := 0
  u : Nat := 0
  /-- R143: the address of the tile that the stream last received. -/
  last : Nat := 0
deriving DecidableEq, Repr, Inhabited

/-- A conversion context and its amax, an FP32 code (05 Table 5.4). -/
structure Cx where
  word : BitVec 256 := 0
  amax : BitVec 32 := 0
deriving DecidableEq, Repr, Inhabited

/-- A worker core (02, 04, 05 Table 5.1). -/
structure Core where
  s : Tbl SDesc := []
  cx : Tbl Cx := []
  v : Tbl (BitVec 2048) := []
  /-- Fold entries (04 Table 4.2); an entry not listed is cleared: ALL_NEG_ZERO and ALL_POS_ZERO set. -/
  fold : Tbl (BitVec 384) := []
  vctrl : BitVec 16 := 0x0010
  vflags : BitVec 16 := 0
  invloc0 : Word := 0
  invloc1 : Word := 0
  /-- R65: the place in its bundle's time of the occurrence that INVLOC holds. -/
  invAt : Nat := 0
  /-- R103: raw records of MODE 1 that arrived early and are held until their turn, by entry. -/
  early : List (Nat × BitVec 384) := []
  /-- R85: TENSOR_ID, tile index and check of the first malformed tile. -/
  mtile : Option (BitVec 32 × BitVec 32 × BitVec 3) := none
  rot : Nat := 0
deriving DecidableEq, Repr, Inhabited

/-- A level of a queen's loop state (05 R146); its remaining count is LC of that level. -/
structure QLoop where
  start : Nat
  last : Nat
  x : Bool
  ev : Nat
deriving DecidableEq, Repr, Inhabited

/-- What a queen does (05 R136, R149, R151). -/
inductive QState where
  | idle | run | held | ended
deriving DecidableEq, Repr, Inhabited

/-- A queen's checkpoint (05 R149): PC, loops, LC, EVT, SEM, and per core VCTRL, S and CX with the place of EOP's rotation (R142). -/
structure QCkpt where
  pc : Nat
  loops : List QLoop
  lc : List (BitVec 32)
  evt : BitVec 16
  sem : Tbl Nat
  vctrl : List (BitVec 16)
  s : List (Tbl SDesc)
  cx : List (Tbl Cx)
  rot : List Nat
deriving DecidableEq, Repr, Inhabited

/-- A queen (05 Table 5.1, R110). -/
structure Queen where
  st : QState := .idle
  pc : Nat := 0
  loops : List QLoop := []
  /-- LC[0..3]: the remaining count of each loop level. -/
  lc : List (BitVec 32) := List.replicate 4 0
  evt : BitVec 16 := 0
  sem : Tbl Nat := []
  /-- R145: since when a WAIT holds. -/
  waitSince : Option Nat := none
  /-- The bundle in issue: slots done (bit per slot, Table 5.5), and its cores as they stood before it (R133). -/
  done : BitVec 5 := 0
  snap : List Core := []
  ckpt : Option QCkpt := none
  lastPatrol : Nat := 0
deriving DecidableEq, Repr, Inhabited

/-- A program slot (05 R152, 12 R359): PHYS, initial VCTRL, NPARAM, its bundles, resident regions, and the image address. -/
structure Slot where
  phys : Bool
  vctrl : BitVec 16
  nparam : Nat
  bundles : List (BitVec 256)
  res : List (BitVec 192)
  base : Nat
deriving DecidableEq, Repr, Inhabited

/-- The compute dies (02-05). Cores by logical core; stores by address within the whole bank of stores. -/
structure Comp where
  /-- Physical cluster of each logical cluster; none: a hole (R117). -/
  clusters : List (Option Nat) := (List.range 32).map some
  retired : List Nat := []
  /-- Physical core of each logical core of a physical cluster (R115); clusters whose spare is unavailable (R120). -/
  coreMap : Tbl (List Nat) := []
  spareBad : List Nat := []
  /-- Physical cores that have failed and await R116, as cluster and core; physical clusters whose queens failed at boot. -/
  failed : List (Nat × Nat) := []
  failedQueens : List Nat := []
  slots : Tbl (Option Slot) := []
  p : Tbl Word := []
  sched : List (Nat × Nat × List Word) := []
  queens : Tbl Queen := []
  cores : Tbl Core := []
  ls : Mem := []
  cs : Mem := []
  /-- R108: the CCLK cycle of the last write to a store, and the words of local stores that cores wrote in it, those that foragers
  wrote, and those of cluster stores, with what stood there before. -/
  writeCycle : Nat := 0
  coreWords : List (Nat × Word) := []
  foragerWords : List (Nat × Word) := []
  csWords : List (Nat × Word) := []
  lsErrs : Tbl (Option Bool) := []
  csErrs : Tbl (Option Bool) := []
  walkAt : Nat := 0
deriving DecidableEq, Repr, Inhabited

/-- A launch (12 Table 12.10). -/
structure Launch where
  id : BitVec 32
  pkey : Nat
  slot : Nat
  det : Bool
  safety : Bool
  trap : Bool
  autocommit : Bool
  seed : Word
  cmask : BitVec 32
  waitLimit : Nat
  firstSeq : Nat
  stepLimit : Nat
  isRun : Bool
  test : Bool
  /-- SAMPLE_CTX of a run (R363). -/
  sampleCtx : Nat := 0
  /-- Channels started under the launch; issue records of the first step. -/
  channels : List Nat
  issues : List (BitVec 320)
deriving DecidableEq, Repr, Inhabited

/-- What ends a step without replay (12 Table 12.12): STATUS, ECAUSE, ADDR, UNIT, FPC, FCAUSE. -/
structure Fail where
  status : Nat
  ecause : Nat
  addr : Nat := 0
  unit : Nat := 0
  fpc : Nat := 0
  fcause : Nat := 0
deriving DecidableEq, Repr, Inhabited

/-- A step in progress (13 R372-R383). Times are logic root ticks. -/
structure Step where
  seq : Nat
  startL : Nat
  attempt : Nat := 0
  poisoned : Option (Nat × Nat) := none
  /-- R389: the replay is held. -/
  held : Bool := false
  authorised : Bool := false
  voted : Bool := false
  abortPending : Bool := false
  fail : Option Fail := none
  invalid : Bool := false
  /-- R319: the HBM words whose double-bit errors the first attempt logged. -/
  dbe : List Nat := []
  staged : Option (BitVec 128) := none
  endOfRun : Bool := false
  full : Word := 0
  replica : Word := 0
  twinSent : Option Nat := none
  twinRx : Option (Word × Word × BitVec 32) := none
  twinMatched : Bool := false
  committing : Bool := false
deriving DecidableEq, Repr, Inhabited

/-- A vote held at the commit rank (13 Table 13.5): rank, outcome, INVALID, DET, STATUS, REPLICA. -/
structure Vote where
  rank : Nat
  fail : Bool
  invalid : Bool
  det : Bool
  status : Nat
  replica : Word
deriving DecidableEq, Repr, Inhabited

/-- The job (12 R361-R367, 13 R372-R389). -/
structure Job where
  launch : Option Launch := none
  ended : List Nat := []
  step : Option Step := none
  votes : List Vote := []
  /-- The last step committed here, and its job's key (R374). -/
  lastCommit : Option (Nat × Nat) := none
  /-- Amax contributions of the step by tensor id, FP32 codes; stream flags of the step. -/
  amax : Tbl (Option (BitVec 32)) := []
  streamFlags : BitVec 5 := 0
  /-- R389: the next step is poisoned with MEMBERSHIP at its start. -/
  membershipNext : Bool := false
  chargeNext : Option Nat := none
  /-- R379: a failure found after the vote, charged to the next step. -/
  failNext : Option Fail := none
  /-- R384, R383: mismatching attempts of this step. -/
  replicaMiss : Nat := 0
  twinMiss : Nat := 0
  stopRun : Bool := false
  /-- The launch has had its last step (05 R151, 01 R28); LAUNCH_COMPLETE ends it. -/
  jobOver : Bool := false
deriving DecidableEq, Repr, Inhabited

/-- Statistics (13 R396, R397). Counters are keyed by their word offset in the statistics window. -/
structure Stats where
  counters : Tbl Nat := []
  snapCounters : Tbl Nat := []
  snapSamples : Tbl Sample := []
  snapSeq : Word := 0
  snapStart : Nat := 0
  snapEnd : Nat := 0
  snapMode : Bool := false
  start : Nat := 0
  stepMode : Bool := false
  /-- A boundary of STEP mode is due. -/
  stepDue : Bool := false
deriving DecidableEq, Repr, Inhabited

/-- Health and rehearsals (13 R390-R395). -/
structure Health where
  score : Nat := 1000
  /-- R390: times of twin and replica mismatches cleared by replay. -/
  mismatches : List Nat := []
  pendingMiss : Nat := 0
  spareCores : List Nat := []
  /-- R271, R383. -/
  twinLost : Bool := false
  twinMismatch : Bool := false
  paired : Bool := false
  twinTimeouts : Nat := 0
  readyAt : Option Nat := none
  /-- R271: since READY port 31 has come up, or TWIN_LOST was counted. -/
  twinSettled : Bool := false
  /-- R416: rehearsals whose times fell in a freeze. -/
  missed : Nat := 0
  /-- SET_SMOKER word (Table 13.9); next type in rotation, last rehearsal number done, a rehearsal in progress. -/
  smoker : Word := 0x3E1C21
  nextType : Nat := 0
  lastRehearsal : Nat := 0
  rehearsing : Option Nat := none
  /-- R395: the core, as physical cluster and core, that a rehearsal forced to fail. -/
  rehearsedCore : Option (Nat × Nat) := none
deriving DecidableEq, Repr, Inhabited

/-- Power (14 R420-R426). -/
structure Power where
  cap : Nat := 3600
  levelCap : Nat := 0
  levelCur : Nat := 0
  levelTherm : Nat := 0
  vin : BitVec 16 := 0
  iin : BitVec 16 := 0
  pin : BitVec 16 := 0
  tj : List Byte := [0, 0, 0, 0, 0]
  th : Byte := 0
  thermtrip : Bool := false
  lowPeriods : Nat := 0
  capAt : Nat := 0
  thermAt : Nat := 0
  coolSince : Option Nat := none
  currentLowSince : Option Nat := none
deriving DecidableEq, Repr, Inhabited

/-- An SPDM exchange on a path (15 R434): how far it has come, the version it runs, and its transcript. -/
structure SpdmEx where
  path : SpdmPath
  stage : Nat
  version : Byte
  log : List Byte
deriving DecidableEq, Repr, Inhabited

/-- Security (15). -/
structure Sec where
  keyHash0 : BitVec 384 := 0
  keyHash1 : BitVec 384 := 0
  revoked0 : Bool := false
  revoked1 : Bool := false
  svn : BitVec 64 := 0
  debugKeyHash : BitVec 384 := 0
  /-- Flash slots: bytes staged, held as their difference from what stood there (assumption 47), and whether a slot still
  holds the image it shipped with (16 R455; assumption 48), with that image's header. -/
  flash0 : Mem := []
  flash1 : Mem := []
  shipped0 : Bool := true
  shipped1 : Bool := true
  /-- Bytes of a slot that have not been staged are still those of the image that it shipped with (R429). -/
  base0 : Bool := true
  base1 : Bool := true
  shippedFw : BitVec 32 := 0
  shippedSvn : Nat := 0
  shippedKey : Bool := false
  preferred : Bool := false
  running : Bool := false
  m1 : BitVec 384 := 0
  m2 : BitVec 384 := 0
  m3 : BitVec 384 := 0
  m4 : BitVec 384 := 0
  m5 : BitVec 384 := 0
  fwVersion : BitVec 32 := 0
  nonce : Option (BitVec 256 × Nat) := none
  scopes : BitVec 4 := 0
  scopeEnd : Option Nat := none
  refusals : Nat := 0
  spdm : List SpdmEx := []
  /-- R434: requests that came while a Sceuf command ran. -/
  spdmWait : List (SpdmPath × Byte × SpdmRequest) := []
  jtag : JtagIr := .bypass
  /-- R441: the scope of the private instruction in progress has ended, and it shifts zeros. -/
  jtagEnded : Bool := false
deriving DecidableEq, Repr, Inhabited

/-- What leaves the module, in order (assumption 5). -/
inductive OutEvent where
  | frame (output : Nat) (f : Frame) (circuit : Option Nat)
  | pause (output : Nat) (w : Word)
  | ordered (port : Nat) (code : Byte) (payload : BitVec 40)
  | waggle (port : Nat) (bits : BitVec 512)
  | hostWrite (addr : Word) (data : List Byte)
  | hostRead (data : List Byte)
  | msix (vector : Nat)
  | datagram (peer : BitVec 32) (port : Nat) (message : List Word)
  | spdm (path : SpdmPath) (response : List Byte)
  | lanes (port : Nat) (markers : Nat)
  | dhcp (client : Word)
deriving DecidableEq, Repr, Inhabited

/-- The whole block. -/
structure State where
  pending : List Instr := []
  freeCount : Nat := 0
  out : List OutEvent := []
  /-- 10 R310: ordered sets and waggle frames that wait for their sideband. -/
  sbq : List OutEvent := []
  ident : Ident := {}
  dev : Dev := {}
  clk : Clock := {}
  host : HostIf := {}
  sceuf : Sceuf := {}
  fab : Fab := {}
  comb : Comb := {}
  ports : Tbl Port := []
  su : Su := {}
  coll : Coll := {}
  hbm : Hbm := {}
  fgr : Tbl Chan := []
  comp : Comp := {}
  job : Job := {}
  stats : Stats := {}
  health : Health := {}
  power : Power := {}
  sec : Sec := {}
deriving DecidableEq, Repr

/-- The machine right after reset: AUX, boot stage 0 (12 Table 12.3), every other register at the reset value of
its table, or as the log names it (INVENTORY.md). -/
def State.reset : State := {}

/-- No command of this block stops with a fault: every fault the spec describes is an effect on state. -/
inductive Fault where
deriving DecidableEq, Repr

/-- Why a command has no meaning. -/
inductive Refusal where
  /-- A command whose meaning is not written; raised by a refused arm of `exec` only; safe. -/
  | notModelled (mnemonic : String)
deriving DecidableEq, Repr

end Sys2Proof.Machine
end

