-- ==== Sys2Proof/Machine/Counters.lean ====
section
/-! DEFINITION. The counters of the statistics window (13 R396, R397; 07 R229; 12 R360): their names, units and
word offsets. Counters saturate at 2^48 - 1. -/

namespace Sys2Proof.Machine

/-- The counters that the spec names. `discard` is counted per index (Table 7.1), class and cause (R229). -/
inductive Ctr where
  | discard | frameStomped | txUnderrun | combSbe | combDoubleFree | calOverrun | mirrorLost | pauseExpired
  | linkUnstable | hdrmShort | linkNoVersion | wiringFault | skewFault | calBad | sbLost | sbError
  | fecUncorr | fecCorrSym | losEvent | lolEvent
  | streamNoSpace | streamRunt | streamNoContext | streamStale | streamTail | streamDup | streamExcess
  | streamTimeout | streamUnitDown | streamSbe | circuitMissing
  | hbmSbe | hbmDbePatrol | memStale | storeSbe | writeCollision | warmResetDiscard
  | mboxLocked | doorbellIgnored | winDenied | ringFull
  | poisonLate | poisonStale | voteStale | releaseStray | digestMismatch | twinLost | twinMismatch
  | neighbourSilent | frozenRxDiscard | slotChanged | slotEepromBad | rehearsal
deriving DecidableEq, Repr, Inhabited

/-- Every counter with its name and number of units, in the order of the statistics window (assumption 14). -/
def ctrTable : List (Ctr × List Char × Nat) := [
  (.discard, "DISCARD".toList, 16384), (.frameStomped, "FRAME_STOMPED".toList, 114),
  (.txUnderrun, "TX_UNDERRUN".toList, 114), (.combSbe, "COMB_SBE".toList, 1),
  (.combDoubleFree, "COMB_DOUBLE_FREE".toList, 1), (.calOverrun, "CAL_OVERRUN".toList, 113),
  (.mirrorLost, "MIRROR_LOST".toList, 1), (.pauseExpired, "PAUSE_EXPIRED".toList, 81)] ++ [
  (.linkUnstable, "LINK_UNSTABLE".toList, 64), (.hdrmShort, "HDRM_SHORT".toList, 64),
  (.linkNoVersion, "LINK_NO_VERSION".toList, 64), (.wiringFault, "WIRING_FAULT".toList, 64),
  (.skewFault, "SKEW_FAULT".toList, 64), (.calBad, "CAL_BAD".toList, 64), (.sbLost, "SB_LOST".toList, 64),
  (.sbError, "SB_ERROR".toList, 64), (.fecUncorr, "FEC_UNCORR".toList, 576), (.fecCorrSym, "FEC_CORR_SYM".toList, 576),
  (.losEvent, "LOS_EVENT".toList, 576), (.lolEvent, "LOL_EVENT".toList, 576)] ++ [
  (.streamNoSpace, "STREAM_NO_SPACE".toList, 32), (.streamRunt, "STREAM_RUNT".toList, 32),
  (.streamNoContext, "STREAM_NO_CONTEXT".toList, 32), (.streamStale, "STREAM_STALE".toList, 32),
  (.streamTail, "STREAM_TAIL".toList, 32), (.streamDup, "STREAM_DUP".toList, 32),
  (.streamExcess, "STREAM_EXCESS".toList, 32), (.streamTimeout, "STREAM_TIMEOUT".toList, 32),
  (.streamUnitDown, "STREAM_UNIT_DOWN".toList, 32), (.streamSbe, "STREAM_SBE".toList, 32),
  (.circuitMissing, "CIRCUIT_MISSING".toList, 1)] ++ [
  (.hbmSbe, "HBM_SBE".toList, 1024), (.hbmDbePatrol, "HBM_DBE_PATROL".toList, 1024), (.memStale, "MEM_STALE".toList, 1),
  (.storeSbe, "STORE_SBE".toList, 1), (.writeCollision, "WRITE_COLLISION".toList, 32),
  (.warmResetDiscard, "WARM_RESET_DISCARD".toList, 1)] ++ [
  (.mboxLocked, "MBOX_LOCKED".toList, 1), (.doorbellIgnored, "DOORBELL_IGNORED".toList, 1),
  (.winDenied, "WIN_DENIED".toList, 1), (.ringFull, "RING_FULL".toList, 1), (.poisonLate, "POISON_LATE".toList, 1),
  (.poisonStale, "POISON_STALE".toList, 1), (.voteStale, "VOTE_STALE".toList, 1),
  (.releaseStray, "RELEASE_STRAY".toList, 1), (.digestMismatch, "DIGEST_MISMATCH".toList, 1),
  (.twinLost, "TWIN_LOST".toList, 1), (.twinMismatch, "TWIN_MISMATCH".toList, 1),
  (.neighbourSilent, "NEIGHBOUR_SILENT".toList, 64), (.frozenRxDiscard, "FROZEN_RX_DISCARD".toList, 1),
  (.slotChanged, "SLOT_CHANGED".toList, 1), (.slotEepromBad, "SLOT_EEPROM_BAD".toList, 1),
  (.rehearsal, "REHEARSAL".toList, 4)]

/-- The word offset of a counter's first unit, from a starting offset on. -/
def ctrBaseFrom (c : Ctr) : List (Ctr × List Char × Nat) → Nat → Nat
  | [], o => o
  | (c', _, n) :: r, o => if c' = c then o else ctrBaseFrom c r (o + n)

/-- The word offset of a counter in the statistics window; counters start at word 8 (R397). -/
def ctrOffset (c : Ctr) (unit : Nat) : Nat := ctrBaseFrom c ctrTable 8 + unit

/-- The statistics-map entry `i` (12 R360): offset, unit index and name; counters are numbered in window order. -/
def ctrEntry : List (Ctr × List Char × Nat) → Nat → Nat → Option (Nat × Nat × List Char)
  | [], _, _ => none
  | (_, name, n) :: r, o, i =>
    if i < n then some (o + i, if n = 1 then 0xFFFFFFFF else i, name) else ctrEntry r (o + n) (i - n)

/-- How many statistics-map entries there are. -/
def ctrCount : Nat := (ctrTable.map fun e => e.2.2).foldl (· + ·) 0

/-- A counter's value in the current period. -/
def ctrGet (s : State) (c : Ctr) (unit : Nat) : Nat := tblGet 0 s.stats.counters (ctrOffset c unit)

/-- `n` more events of a counter (R396: counters saturate). -/
def countN (s : State) (c : Ctr) (unit n : Nat) : State :=
  let bump := fun v : Nat => min (v + n) (2 ^ 48 - 1)
  { s with stats := { s.stats with counters := tblMod 0 s.stats.counters (ctrOffset c unit) bump } }

/-- One more event of a counter. -/
def count (s : State) (c : Ctr) (unit : Nat := 0) : State := countN s c unit 1

/-- Discard causes (07 Table 7.9). -/
inductive Cause where
  | redDrop | pkeyIngress | pkeyEgress | fenced | noCell | aged | combDbe | routeDrop | frameError | losslessOverrun | portDown
deriving DecidableEq, Repr, Inhabited

/-- The code of a discard cause (Table 7.9). -/
def Cause.code : Cause → Nat
  | .redDrop => 1
  | .pkeyIngress => 2
  | .pkeyEgress => 3
  | .fenced => 4
  | .noCell => 5
  | .aged => 6
  | .combDbe => 7
  | .routeDrop => 8
  | .frameError => 9
  | .losslessOverrun => 10
  | .portDown => 11

/-- A discard counted per port (input or output index), class and cause (R229). -/
def countDiscard (s : State) (index cls : Nat) (c : Cause) : State := count s .discard (index * 128 + cls * 16 + c.code)

end Sys2Proof.Machine
end

