-- ==== Sys2Proof/Machine/Ops.lean ====
section
/-! DEFINITION. Operations that every family shares: time, outputs, device state, ports and the sideband, health,
free values (00, 10, 12 R348, 13 R390, 14 R398-R403). -/

namespace Sys2Proof.Machine

/-- A command's outcome when it leads to state `s`. -/
abbrev ok (s : State) : Host.Outcome State Fault Refusal := .next s

/-- `s'` when the command's condition holds; a row whose condition does not hold leaves the state as it is (assumption 1). -/
def when (c : Bool) (s s' : State) : State := if c then s' else s

/-- Swarm time T in ns (14 R401). -/
def nowNs (s : State) : Nat := s.clk.t48 / 48

/-- SC = floor(T × 6/5) (07 R218). -/
def scNow (s : State) : Nat := s.clk.t48 / 40

/-- Time in ns counted by clocks that stop in a freeze (14 R416). -/
def logicNs (s : State) : Nat := s.clk.logic * 10 / 48

/-- SCLK cycles that ran. -/
def logicSc (s : State) : Nat := s.clk.logic / 4

/-- T as a register word. -/
def nowW (s : State) : Word := BitVec.ofNat 64 (nowNs s)

/-- The module is frozen (R411). -/
def isFrozen (s : State) : Bool := s.dev.freezeNLow || !s.dev.freezeIds.isEmpty

/-- CCLK, SCLK and MCLK run (Table 14.1): from boot stage 0x11 until a freeze. -/
def clocksRun (s : State) : Bool :=
  s.dev.pwrGood && decide (0x11 ≤ s.dev.bootStage.toNat) &&
    !(s.dev.frozenPin && (s.dev.mode == .frozen || s.dev.mode == .safe))

/-- Units may issue work: clocks run, and the module is not in SAFE (13 R386). -/
def unitsRun (s : State) : Bool := clocksRun s && s.dev.mode != .safe

/-- AUX power is present. -/
def auxOn (s : State) : Bool := s.dev.mode != .off

/-- An event that leaves the module. -/
def emit (s : State) (e : OutEvent) : State := { s with out := s.out ++ [e] }

/-- A free value (assumption 2). -/
def drawFree (s : State) : BitVec 64 × State := (Config.freeValue s.freeCount, { s with freeCount := s.freeCount + 1 })

/-- An MSI-X vector is signalled (12 R348); while bus mastering is held after PERST_N it stays pending (R406). -/
def msix (s : State) (v : Nat) : State :=
  if s.host.busMaster then emit s (.msix v)
  else { s with host := { s.host with msixPending := s.host.msixPending ||| (BitVec.ofNat 72 (2 ^ v)) } }

/-- The device state changes (R355); vector 66 signals a change of STATE (R348). -/
def setMode (s : State) (m : Mode) : State :=
  if s.dev.mode == m then s else msix { s with dev := { s.dev with mode := m } } 66

/-- How often swarm time modulo 500,000 ns has passed an offset by a time, and by now (04 R119, 06 R193). -/
def passesAt (t offset : Nat) : Nat := if t < offset then 0 else (t - offset) / 500000 + 1
def passesOf (s : State) (offset : Nat) : Nat := passesAt (nowNs s) offset

/-- Fields of the smoker's schedule (13 Table 13.9). -/
def smokerPeriod (s : State) : Nat := fld s.health.smoker 1 16 * 1000000000

/-- Port p. -/
def portOf (s : State) (p : Nat) : Port := tblGet {} s.ports p

/-- The state with port p changed. -/
def modPort (s : State) (p : Nat) (f : Port → Port) : State := { s with ports := tblMod {} s.ports p f }

/-- The ports whose sideband is up. -/
def sbPorts (s : State) : List Nat := (List.range 64).filter fun p => (portOf s p).sb

/-- An ordered set is to go out `n` times on a port (10 R309, R310): each copy waits for the sideband. -/
def sendSet (s : State) (p : Nat) (code : Byte) (payload : BitVec 40) : Nat → State
  | 0 => s
  | n + 1 => sendSet { s with sbq := s.sbq ++ [.ordered p code payload] } p code payload n

/-- An ordered set goes out on every port of a list. -/
def sendSets (s : State) (ps : List Nat) (code : Byte) (payload : BitVec 40) (n : Nat) : State :=
  ps.foldl (fun t p => sendSet t p code payload n) s

/-- Codes of the device ordered sets (Table 10.7). -/
def codeWaggle : Byte := 0x21
def codeBeacon : Byte := 0x43
def codeFreeze : Byte := 0x64
def codeThaw : Byte := 0x85
def codeFence : Byte := 0xA6
def codePoison : Byte := 0xC7
def codeTime : Byte := 0xE8

/-- A BEACON goes out on a port (Table 10.7, 13 R388). -/
def sendBeacon (s : State) (p : Nat) : State :=
  let q := portOf s p
  let pay := BitVec.ofNat 40 (pack [(0, 16, q.beaconSeq.toNat), (16, 16, s.dev.eid.toNat), (32, 8, s.dev.mode.code)])
  let bump := fun q : Port => { q with beaconSeq := q.beaconSeq + 1, beaconTx := nowNs s }
  sendSet (modPort s p bump) p codeBeacon pay 1

/-- TX_STATE lets output o carry data: up(o) of 08 R245, R303. -/
def outUp (s : State) (o : Nat) : Bool :=
  if o < 64 then (portOf s o).tx == .up || (portOf s o).tx == .narrow else o ≤ 80

/-- Clusters per module of the grade (Table 0.1). -/
def clusterCount (s : State) : Nat :=
  match s.ident.grade with
  | .x => 32
  | .m => 28
  | .f => 0

/-- Bytes of HBM per die, Q (11 Table 11.1). -/
def dieBytes (s : State) : Nat :=
  match s.ident.grade with
  | .x => 0x3000000000
  | .m => 0x2400000000
  | .f => 0x1800000000

/-- HBM capacity of the grade. -/
def hbmBytes (s : State) : Nat := 4 * dieBytes s

/-- The deduction of a port direction (Table 13.8). -/
def wornPoints : Worn → List (Nat × Bool)
  | .none => []
  | .spare => [(20, false)]
  | .narrow => [(100, true)]

/-- The deductions of Table 13.8 that are present, as (points, marks DEGRADED). -/
def deductions (s : State) : List (Nat × Bool) :=
  let perPort := (List.range 64).flatMap fun p =>
    let q := portOf s p
    wornPoints q.txWorn ++ wornPoints q.rxWorn ++
    (if q.fault.isSome && (s.ident.hivePresent || 32 ≤ p) then [(60, true)] else [])
  s.health.spareCores.map (fun _ => (20, false)) ++
  s.comp.retired.map (fun _ => (150, true)) ++
  s.comp.spareBad.map (fun _ => (20, false)) ++
  s.su.retired.map (fun _ => (80, true)) ++
  perPort ++
  s.hbm.spared.map (fun _ => (20, false)) ++
  s.hbm.keptBad.map (fun _ => (150, true)) ++
  (if (s.health.twinLost || s.health.twinMismatch) && s.ident.twinPresent && s.ident.hivePresent then [(100, true)] else []) ++
  (if s.comb.doubleFree then [(250, false)] else []) ++
  s.health.mismatches.map (fun _ => (50, false))

/-- HEALTH (R390). -/
def healthScore (s : State) : Nat := 1000 - ((deductions s).map (·.1)).foldl (· + ·) 0

/-- The band of a score (R391): below 300, below 800, or above. -/
def healthBand (h : Nat) : Nat := if h < 300 then 0 else if h < 800 then 1 else 2

/-- HEALTH, DEGRADED, REPLACE_REQUEST and ALERT_N follow the conditions present (R390, R391, R348). -/
def recomputeHealth (s : State) : State :=
  let h := healthScore s
  let d := (deductions s).any (·.2)
  let req := decide (h < 800) && !s.dev.keepInService
  let s1 := { s with
    health := { s.health with score := h }
    dev := { s.dev with degraded := d, replaceRequest := req, alertN := !req } }
  let s2 := if d != s.dev.degraded then msix s1 66 else s1
  if healthBand h != healthBand s.health.score || req == s.dev.alertN then msix s2 67 else s2

/-- An entry of the event log. -/
def logEvent (s : State) (kind subject : Nat) : State :=
  { s with dev := { s.dev with eventLog := s.dev.eventLog ++ [(kind, subject, nowNs s)] } }

/-- The key window of a partition key (13 Table 13.4). -/
def windowOf (s : State) (key : Nat) : BitVec 64 := tblGet 0 s.fab.windows key

/-- The EID of rank r under key k (08 R237); none when the rank or its entry is not valid. -/
def rankEid (s : State) (key r : Nat) : Option Nat :=
  let w := windowOf s key
  if fld w 15 16 ≤ r then none
  else
    let e := tblGet 0 s.fab.rankmap (fld w 0 15 + r)
    if flag e 16 then some (fld e 0 16) else none

/-- The rank of this module under a key: the lowest rank whose entry names its EID (assumption 15). -/
def myRank (s : State) (key : Nat) : Option Nat :=
  let n := fld (windowOf s key) 15 16
  (List.range n).find? fun r => rankEid s key r == some s.dev.eid.toNat

/-- This module holds COMMIT_RANK of a key (R376). -/
def isCommitRank (s : State) (key : Nat) : Bool :=
  rankEid s key (fld (windowOf s key) 31 15) == some s.dev.eid.toNat

/-- The step in progress of the job with a key (R372). -/
def stepOf (s : State) (key : Nat) : Option Step :=
  match s.job.launch, s.job.step with
  | some l, some st => if l.pkey == key then some st else none
  | _, _ => none

/-- A step of the key's job is in progress for a rule that refuses a write during a step: a held step is not (R372). -/
def stepBlocks (s : State) (key : Nat) : Bool :=
  match stepOf s key with
  | some st => !st.held
  | none => false

/-- The STEP field that a unit of the job writes (Table 8.1): low 16 bits of the step's number, 0 outside steps. -/
def stepField (s : State) (key : Nat) : Nat :=
  match stepOf s key with
  | some st => st.seq % 65536
  | none => 0

/-- The job's step is in progress and not waiting for its replay. -/
def stepRuns (s : State) : Bool :=
  match s.job.step with
  | some st => st.poisoned.isNone && !st.held && st.fail.isNone && !s.job.jobOver
  | none => false

/-- The step in progress with a change. -/
def modStep (s : State) (f : Step → Step) : State := { s with job := { s.job with step := s.job.step.map f } }

/-- Header bytes and payload under the CRC (08 R239): VER and EPOCH read as zero. -/
def frameCrc (f : Frame) : BitVec 32 :=
  crc32c (bytesOfWords [setFld (setFld f.w0 0 8 0) 11 1 0, f.w1, f.w2, f.w3] ++ f.payload)

/-- A frame with its LEN and CRC (Table 8.1). -/
def mkFrame (cls pkey dtype op dest src cfid step seq : Nat) (ack : Bool) (argW : Word) (payload : List Byte) : Frame :=
  let f : Frame := {
    w0 := packW [(0, 8, 0x31), (8, 3, cls), (12, 12, pkey), (24, 2, dtype), (26, 6, op), (32, 16, dest), (48, 16, src)]
    w1 := packW [(0, 16, cfid), (16, 16, step), (32, 32, seq)]
    w2 := packW [(0, 13, payload.length), (13, 1, ack.toNat)]
    w3 := argW
    payload := payload
    crc := 0 }
  { f with crc := frameCrc f }

/-- Fields of a frame's header (Table 8.1). -/
def frmCls (f : Frame) : Nat := fld f.w0 8 3
def frmEpoch (f : Frame) : Bool := flag f.w0 11
def frmPkey (f : Frame) : Nat := fld f.w0 12 12
def frmDtype (f : Frame) : Nat := fld f.w0 24 2
def frmOp (f : Frame) : Nat := fld f.w0 26 6
def frmDest (f : Frame) : Nat := fld f.w0 32 16
def frmSrc (f : Frame) : Nat := fld f.w0 48 16
def frmCfid (f : Frame) : Nat := fld f.w1 0 16
def frmStep (f : Frame) : Nat := fld f.w1 16 16
def frmSeq (f : Frame) : Nat := fld f.w1 32 32
def frmLen (f : Frame) : Nat := fld f.w2 0 13
def frmAckreq (f : Frame) : Bool := flag f.w2 13

/-- A unit of the module offers a frame at its input (07 R461, R206); FRAME_INGRESS takes it in. -/
def originate (s : State) (input owner who : Nat) (f : Frame) (high : Bool := false) : State :=
  { s with comb := { s.comb with orig := s.comb.orig ++ [{ input := input, owner := owner, frame := f, who := who, high := high }] } }

/-- Management's frames enter through input 113, charged to owner 1000. -/
def originateMgmt (s : State) (f : Frame) : State := originate s 113 1000 65 f

/-- The collective engine's frames enter through input 113, charged to management's account (assumption 17). -/
def originateColl (s : State) (f : Frame) : State := originate s 113 1000 64 f

/-- A forager's frames: a compute-die channel's through its die's internal ports in rotation (R328), a fabric-die
channel's through input 113. -/
def originateForager (s : State) (ch turn : Nat) (f : Frame) (high : Bool := false) : State :=
  if ch < 256 then originate s (64 + 4 * (ch / 64) + turn % 4) (680 + ch) 0 f high else originate s 113 (680 + ch) (ch - 256) f high

/-- A frame that a unit of the module sends to itself or by route (DTYPE 0). -/
def frameTo (s : State) (cls pkey op dest cfid seq : Nat) (ack : Bool) (argW : Word) (payload : List Byte) : Frame :=
  mkFrame cls pkey 0 op dest s.dev.eid.toNat cfid (stepField s pkey) seq ack argW payload

end Sys2Proof.Machine
end

