-- ==== Sys2Proof/Machine/Pool.lean ====
section
/-! DEFINITION. The buffer pool manager (07 R204-R214), headroom accounts (08 R261, R263) and the pause state that
they set (R227, R260, R261). -/

namespace Sys2Proof.Machine

/-- Buffers of a pool (Table 7.3). -/
def poolCount : Nat → Nat
  | 0 => 655360
  | 1 => 4096
  | 2 => 128
  | _ => 8

/-- Default MIN and MAX of an owner in a pool (Table 7.5, R213). -/
def defaultLimit (owner pool : Nat) : Nat × Nat :=
  if owner < 648 then (if pool = 0 then (32, 131072) else (0, 0))
  else if owner < 680 then
    (match pool with
    | 0 => (256, 16384)
    | 1 => (4, 512)
    | 2 => (2, 16)
    | _ => (0, 2))
  else if owner < 1000 then
    (match pool with
    | 0 => (16, 4096)
    | 1 => (4, 64)
    | 2 => (0, 8)
    | _ => (0, 2))
  else if owner = 1000 then
    (match pool with
    | 0 => (256, 1024)
    | 1 => (64, 256)
    | 2 => (4, 8)
    | _ => (1, 2))
  else if owner = 1001 && pool = 0 then (64, 1024)
  else (0, 0)

/-- MIN and MAX of an owner in a pool (Table 7.4). -/
def limitOf (s : State) (owner pool : Nat) : Nat × Nat :=
  match tblGet none s.comb.limits (owner * 4 + pool) with
  | some w => (fld w 0 20, fld w 20 20)
  | none => defaultLimit owner pool

/-- USED of an owner in a pool (Table 7.4). -/
def usedOf (s : State) (owner pool : Nat) : Nat := tblGet 0 s.comb.used (owner * 4 + pool)

/-- HDRM SIZE of input p (R263): internal ports and H are sized from reset with m = 0 and t = 40 ns. -/
def hdrmSizeOf (s : State) (p : Nat) : Nat := if p < 64 then tblGet 0 s.comb.hdrmSize p else if p ≤ 80 then 130 else 0

/-- Cells of port p and class c charged to HDRM (R261). -/
def hdrmUsedOf (s : State) (p c : Nat) : Nat := tblGet 0 s.comb.hdrmUsed (p * 8 + c)

/-- Cells of port p charged to HDRM. -/
def hdrmUsedAll (s : State) (p : Nat) : Nat := ((List.range 8).map (hdrmUsedOf s p)).foldl (· + ·) 0

/-- The sum of a pool's MIN values with the headroom accounts of P0 (R207, R213). -/
def reservedTotal (s : State) (pool : Nat) : Nat :=
  let base : Int := match pool with
    | 0 => 34368
    | 1 => 1472
    | 2 => 68
    | _ => 1
  let delta := s.comb.limits.foldl (fun (a : Int) e =>
    if e.1 % 4 = pool then
      match e.2 with
      | some w => a + (fld w 0 20 : Int) - ((defaultLimit (e.1 / 4) pool).1 : Int)
      | none => a
    else a) 0
  let hd : Nat := if pool = 0 then 17 * 130 + (s.comb.hdrmSize.map (·.2)).foldl (· + ·) 0 else 0
  (base + delta).toNat + hd

/-- SHARED_USED of a pool (R207). -/
def sharedUsed (s : State) (pool : Nat) : Nat :=
  s.comb.used.foldl (fun a e => if e.1 % 4 = pool then a + (e.2 - (limitOf s (e.1 / 4) pool).1) else a) 0

/-- The shared size of a pool (R207). -/
def sharedSize (s : State) (pool : Nat) : Nat := poolCount pool - reservedTotal s pool

/-- try (R208) for n buffers at once: whether every one of them is granted. -/
def canTake (s : State) (owner pool n : Nat) : Bool :=
  let (mn, mx) := limitOf s owner pool
  let u := usedOf s owner pool
  let shared := (u + n) - max u mn
  if u + n ≤ mn then true
  else decide (u + n ≤ mx) && decide (sharedUsed s pool + shared ≤ sharedSize s pool)

/-- USED changes by n buffers taken (R208). -/
def charge (s : State) (owner pool n : Nat) : State :=
  { s with comb := { s.comb with used := tblMod 0 s.comb.used (owner * 4 + pool) (· + n) } }

/-- release (R208) of n buffers. -/
def uncharge (s : State) (owner pool n : Nat) : State :=
  { s with comb := { s.comb with used := tblMod 0 s.comb.used (owner * 4 + pool) (· - n) } }

/-- The number of a free buffer of a pool. -/
def freeBuf (s : State) (pool : Nat) : Nat → Nat → Nat
  | 0, k => k
  | fuel + 1, k => if s.comb.bufs.any (fun b => b.pool == pool && b.id == k) then freeBuf s pool fuel (k + 1) else k

/-- A P1, P2 or P3 buffer for an owner with REF 1 (R208, R214): its handle pool·65,536 + number. -/
def takeBuf (s : State) (owner pool : Nat) : Option (Nat × State) :=
  if canTake s owner pool 1 then
    let k := freeBuf s pool s.comb.bufs.length 0
    some (pool * 65536 + k, charge { s with comb := { s.comb with
      bufs := s.comb.bufs ++ [{ pool := pool, id := k, owner := owner, ref := 1 }] } } owner pool 1)
  else none

/-- A held buffer of a handle. -/
def bufOf (s : State) (h : Nat) : Option Buf := s.comb.bufs.find? fun b => b.pool * 65536 + b.id == h

/-- A double free (R215), the poison apart: OWNER and the requester are logged, and COMB_DOUBLE_FREE is counted. -/
def noteDoubleFree (s : State) (owner requester : Nat) : State :=
  recomputeHealth (count { s with
    hbm := { s.hbm with integrityLog := s.hbm.integrityLog ++ [(owner, requester)] }
    comb := { s.comb with doubleFree := true } } .combDoubleFree)

/-- OWNER as the free buffer of a handle still holds it (R214). -/
def bufOwner (s : State) (h : Nat) : Nat := tblGet 0 s.comb.lastOwner (2 ^ 20 + h)

/-- A buffer goes back to its pool (R214), whichever readers it had: OWNER stays in its metadata. One that is not held is a double free,
of its former owner (R215). -/
def freeBufHandle (s : State) (h : Nat) : State :=
  match bufOf s h with
  | none => noteDoubleFree s (bufOwner s h) (bufOwner s h)
  | some b =>
    uncharge { s with comb := { s.comb with
      bufs := s.comb.bufs.filter fun x => !(x.pool * 65536 + x.id == h)
      lastOwner := tblSet 0 s.comb.lastOwner (2 ^ 20 + h) b.owner } } b.owner b.pool 1

/-- A further reader of a buffer (R214): none above 255. -/
def addReader (s : State) (h : Nat) : Option State :=
  match bufOf s h with
  | none => none
  | some b =>
    if 255 ≤ b.ref then none
    else some { s with comb := { s.comb with bufs := modWhere (fun x => x.pool * 65536 + x.id == h) (fun x => { x with ref := x.ref + 1 }) s.comb.bufs } }

/-- The pool that serves a contiguous request of n bytes; none above 1 MiB (R205). -/
def poolFor (n : Nat) : Option Nat := if n ≤ 4096 then some 1 else if n ≤ 65536 then some 2 else if n ≤ 1048576 then some 3 else none

/-- XOFF_TH and XON_TH of port p and class c (Table 8.9). -/
def xoffTh (s : State) (p c : Nat) : Nat := fld (tblGet (4096 + 2048 * 2 ^ 20) s.fab.thresholds (p * 8 + c)) 0 20
def xonTh (s : State) (p c : Nat) : Nat := fld (tblGet (4096 + 2048 * 2 ^ 20) s.fab.thresholds (p * 8 + c)) 20 20

/-- USED of port p and class c with its cells charged to HDRM (R227). -/
def portUsed (s : State) (p c : Nat) : Nat := usedOf s (8 * p + c) 0 + hdrmUsedOf s p c

/-- Whether class c of port p is paused (R261), from its state before. -/
def pauseClass (s : State) (p c : Nat) (was red : Bool) : Bool :=
  if c < 3 then false
  else
    let u := portUsed s p c
    if decide (xoffTh s p c ≤ u) || decide (0 < hdrmUsedAll s p) || red then true
    else was && !(decide (u < xonTh s p c))

/-- Bits of a byte from a predicate on bit numbers. -/
def byteOf (f : Nat → Bool) : Byte := BitVec.ofNat 8 (((List.range 8).map fun c => if f c then 2 ^ c else 0).foldl (· + ·) 0)

/-- A pause word (R260). -/
def pauseWordOf (q : Pause) : Word := packW [(0, 8, q.xoff.toNat), (8, 8, q.pseq.toNat)]

/-- The period in which a port sends at most one pause word (R260, 10 R296, R297), in 1/240 ns: a codeword of its link (6.4 ns on a
hive port, 12.8 ns on a global one, 25.6 ns under MFP 2.4: 10 R306), an SCLK cycle at an internal port and H. -/
def pausePeriod (s : State) (p : Nat) : Nat :=
  if 64 ≤ p then 200 else if (portOf s p).mfp = 1 then 6144 else if p < 32 then 1536 else 3072

/-- The number of the period in force, from 1 (assumption 109). -/
def periodNow (s : State) (p : Nat) : Nat := s.clk.t48 * 5 / pausePeriod s p + 1

/-- A pause word can leave port p now: its output is up, and has sent none in this period (R260). -/
def pauseOpen (s : State) (p : Nat) : Bool := outUp s p && (tblGet {} s.comb.pauseTx p).period != periodNow s p

/-- Port p sends a pause word with its pause state (R260), at once or in the next period that allows one. -/
def sendPause (s : State) (p : Nat) : State :=
  let q := tblGet {} s.comb.pauseTx p
  if pauseOpen s p then
    let q' := { q with pseq := q.pseq + 1, last := logicSc s, period := periodNow s p, due := false }
    emit { s with comb := { s.comb with pauseTx := tblSet {} s.comb.pauseTx p q' } } (.pause p (pauseWordOf q'))
  else { s with comb := { s.comb with pauseTx := tblSet {} s.comb.pauseTx p { q with due := true } } }

/-- The pause words that are due leave, as a period begins that allows them (R260). -/
def duePauses (s : State) : State :=
  (s.comb.pauseTx.filter fun e => e.2.due && pauseOpen s e.1).foldl (fun t e => sendPause t e.1) s

/-- The pause state of input p follows its cells (R261); a change of state sends a pause word (R260). -/
def updatePause (s : State) (p : Nat) : State :=
  if 80 < p then s
  else
    let q := tblGet {} s.comb.pauseTx p
    let red := byteOf fun c => flag q.red c && !decide (portUsed s p c < xonTh s p c)
    let xoff := byteOf fun c => pauseClass s p c (flag q.xoff c) (flag red c)
    let s1 := { s with comb := { s.comb with pauseTx := tblSet {} s.comb.pauseTx p { q with xoff := xoff, red := red } } }
    if xoff != q.xoff then sendPause s1 p else s1

/-- n cells of an owner are released (R208, R261): off its class's share of HDRM first, the rest off its account. -/
def releaseCells (s : State) (owner n : Nat) : State :=
  if owner < 648 then
    let h := tblGet 0 s.comb.hdrmUsed owner
    let d := min n h
    let s1 := { s with comb := { s.comb with hdrmUsed := tblSet 0 s.comb.hdrmUsed owner (h - d) } }
    updatePause (uncharge s1 owner 0 (n - d)) (owner / 8)
  else uncharge s owner 0 n

/-- The number of a frame in the comb: its first cell (R201). -/
def frameId (f : CFrame) : Nat := f.chain.headD 0

/-- The first n cells from k on that are not in use (R199); which free cells a frame takes is the model's choice (assumption 106). -/
def freeCells (used : List Nat) : Nat → Nat → Nat → List Nat
  | 0, _, _ => []
  | _, _, 0 => []
  | fuel + 1, k, n + 1 => if used.contains k then freeCells used fuel (k + 1) (n + 1) else k :: freeCells used fuel (k + 1) n

/-- The cells that frames hold. -/
def usedCells (s : State) : List Nat := s.comb.frames.flatMap (·.chain)

/-- The metadata of a cell (Table 7.2): of a held one by its frame; of a free one OWNER as it was left. -/
def cellMeta (s : State) (k : Nat) : BitVec 128 :=
  match s.comb.frames.find? fun f => f.chain.contains k with
  | none => BitVec.ofNat 128 (pack [(31, 10, tblGet 0 s.comb.lastOwner k)])
  | some f =>
    let i := (findAt (· == k) f.chain).getD 0
    let first := i == 0
    let one := fun x : Nat => if first then x else 0
    BitVec.ofNat 128 (pack [(0, 20, f.chain.getD (i + 1) 0), (20, 1, 1), (21, 1, first.toNat), (22, 1, (decide (i + 1 = f.chain.length)).toNat),
      (23, 8, one f.ref), (31, 10, f.owner), (41, 13, one (32 + f.frame.payload.length)), (64, 32, one f.arrival), (96, 32, one f.frame.crc.toNat)])

/-- The metadata of a P1, P2 or P3 buffer (R214). -/
def bufMeta (s : State) (h : Nat) : Word :=
  match bufOf s h with
  | none => packW [(9, 10, tblGet 0 s.comb.lastOwner (2 ^ 20 + h))]
  | some b => packW [(0, 8, b.ref), (8, 1, 1), (9, 10, b.owner)]

/-- The last reference to a frame is gone (R214): its cells go back to P0, and OWNER stays in their metadata. -/
def releaseFrame (s : State) (f : CFrame) : State :=
  releaseCells { s with comb := { s.comb with
    frames := s.comb.frames.filter fun x => frameId x != frameId f
    lastOwner := f.chain.foldl (fun t k => tblSet 0 t k f.owner) s.comb.lastOwner } } f.owner f.chain.length

/-- Cells of a frame with a payload of n bytes (R199). -/
def cellsFor (n : Nat) : Nat := max 1 (ceilDiv (32 + n) 256)

end Sys2Proof.Machine
end

