-- ==== Sys2Proof/Machine/Clock.lean ====
section
/-! DEFINITION. The passage of time (14 R398, R401, R403, R416): what a step does when no command waits. -/

namespace Sys2Proof.Machine

/-- Advance of swarm time in one root cycle, in 1/48 ns: 10, and one more or less each 1,000 cycles while slewing,
a rate within ± 100 ppm (R403). -/
def tickUnits (c : Clock) : Nat :=
  if c.slewPhase + 1 < 1000 || c.slew == 0 then 10 else if 0 < c.slew then 11 else 9

/-- The slewing state after one root cycle. -/
def tickSlew (c : Clock) : Clock :=
  if c.slew == 0 then { c with slewPhase := 0 }
  else if c.slewPhase + 1 < 1000 then { c with slewPhase := c.slewPhase + 1 }
  else { c with slewPhase := 0, slew := if 0 < c.slew then c.slew - 1 else c.slew + 1 }

/-- Low 40 bits of swarm time in ns (10 Table 10.7). -/
def timePayload (t48 : Nat) : BitVec 40 := BitVec.ofNat 40 (t48 / 48)

/-- Root cycles that a set and a waggle frame take: 8 and 64 characters of 20 (10 R308, R309; 08 R267). -/
def setTicks : Nat := 160
def waggleTicks : Nat := 1280

/-- The port of a set or a waggle frame, and its place in the priority order (10 R310). -/
def sidePort : OutEvent → Nat
  | .ordered p _ _ => p
  | .waggle p _ => p
  | _ => 64
def sideRank : OutEvent → Nat
  | .ordered _ c _ =>
    if c == codeFreeze || c == codeThaw then 0 else if c == codePoison then 1 else if c == codeFence then 2 else if c == codeTime then 3 else 4
  | _ => 5

/-- A set or waggle frame may start on a free sideband (10 R310; R403): TIME and waggle frames not within a waggle frame; no waggle frame
while a TIME answer is due, and neither TIME nor BEACON within 8 BCLK cycles before it. -/
def sideMay (s : State) (e : OutEvent) : Bool :=
  let p := sidePort e
  let wag := decide (s.clk.ticks < (portOf s p).wagEnd)
  let due := s.clk.due.filter fun d => d.1 == p
  let soon := due.any fun d => decide (s.clk.t48 ≤ d.2) && decide (d.2 < s.clk.t48 + 10 * setTicks)
  match sideRank e with
  | 3 => !wag && !soon
  | 4 => !soon
  | 5 => !wag && due.isEmpty
  | _ => true

/-- What a port's sideband sends next: the highest priority first, and the oldest of it (10 R310). -/
def sideNext (s : State) (p : Nat) : Option OutEvent :=
  (List.range 6).findSome? fun k => s.sbq.find? fun e => sidePort e == p && sideRank e == k && sideMay s e

/-- The sideband of a port is taken by a set, within a waggle frame that it makes longer, or by a waggle frame behind its set. -/
def sideTaken (s : State) (p : Nat) (waggle : Bool) : State :=
  let t := s.clk.ticks
  modPort s p fun q => { q with
    sbBusy := t + setTicks
    wagEnd := if waggle then t + setTicks + waggleTicks else if t < q.wagEnd then q.wagEnd + setTicks else q.wagEnd }

/-- A free sideband starts what it sends next (10 R310). TIME carries the time at which it leaves, from which a child counts its exchange
(R403); a waggle frame follows its WAGGLE set (08 R267). -/
def sideSend (s : State) (p : Nat) : State :=
  if !(portOf s p).sb || s.clk.ticks < (portOf s p).sbBusy then s
  else
    match sideNext s p with
    | none => s
    | some e =>
      let s1 := { s with sbq := eraseFirst (fun x => x == e) s.sbq }
      match e with
      | .ordered _ c y =>
        if c == codeTime then
          emit (sideTaken { s1 with clk := { s1.clk with asked := if p = s1.clk.parent then some s1.clk.t48 else s1.clk.asked } } p false)
            (.ordered p c (timePayload s1.clk.t48))
        else emit (sideTaken s1 p false) (.ordered p c y)
      | e => emit (emit (sideTaken s1 p true) (.ordered p codeWaggle 0)) e

/-- Every sideband that is free starts what it sends next. -/
def sideSends (s : State) : State := if s.sbq.isEmpty then s else (List.range 64).foldl sideSend s

/-- One root cycle: swarm time advances from AUX onward, the logic clocks unless they are stopped (R401, R416), and with these
pause words that were due leave (08 R260). The sidebands send (10 R310). -/
def tick (s : State) : State :=
  if !auxOn s then s
  else
    let c := tickSlew s.clk
    let run := clocksRun s
    let s1 := { s with clk := { c with
      t48 := s.clk.t48 + tickUnits s.clk, ticks := s.clk.ticks + 1, logic := if run then s.clk.logic + 1 else s.clk.logic } }
    sideSends (if run then duePauses s1 else s1)

end Sys2Proof.Machine
end

