-- ==== Sys2Proof/Machine/Memory.lean ====
section
/-! DEFINITION. HBM with its controllers, step-versioned regions and errors (11 R312-R325), local and cluster
stores (04 R106-R109), and the step digests of writes (13 R382). -/

namespace Sys2Proof.Machine

/-- Statuses of commands (12 Table 12.5). -/
inductive Status where
  | ok | stateConflict | absentUnit | badVersion | badArg | noResource | timeout | denied | fenced
deriving DecidableEq, Repr, Inhabited

/-- The code of a status (Table 12.5). -/
def Status.code : Status → Nat
  | .ok => 0
  | .stateConflict => 1
  | .absentUnit => 2
  | .badVersion => 3
  | .badArg => 4
  | .noResource => 5
  | .timeout => 6
  | .denied => 7
  | .fenced => 8

/-- Stack and pseudo-channel of an HBM byte address, as stack·64 + pseudo-channel (R312). -/
def locatePc (s : State) (a : Nat) : Nat :=
  let q := dieBytes s
  let d := a / q
  let g := (a - d * q) >>> 8
  let j := (nfld g 0 2 ^^^ nfld g 8 2) ^^^ nfld g 16 2
  let pc := nfld g 2 6 ^^^ nfld g 10 6
  (4 * d + j) * 64 + pc

/-- The byte of its pseudo-channel that an HBM address names (R312). -/
def locateByte (s : State) (a : Nat) : Nat := ((a % dieBytes s) >>> 16) * 256 + a % 256

/-- Fields of a region entry (Table 11.3). -/
def rgBase (r : BitVec 320) : Nat := fld r 0 40
def rgValid (r : BitVec 320) : Bool := flag r 40
def rgAppend (r : BitVec 320) : Bool := flag r 41
def rgPage (r : BitVec 320) : Nat := if flag r 42 then 65536 else 4096
def rgKey (r : BitVec 320) : Nat := fld r 43 12
def rgLen (r : BitVec 320) : Nat := fld r 64 40
def rgShadow (r : BitVec 320) : Nat := fld r 128 40
def rgClen (r : BitVec 320) : Nat := fld r 192 40
def rgPlen (r : BitVec 320) : Nat := fld r 256 40
def rgSetLens (r : BitVec 320) (c p : Nat) : BitVec 320 := setFld (setFld r 192 40 c) 256 40 p

/-- The region that holds an address. -/
def regionAt (s : State) (a : Nat) : Option (Nat × BitVec 320) :=
  s.hbm.regions.find? fun e => rgValid e.2 && decide (rgBase e.2 ≤ a) && decide (a < rgBase e.2 + rgLen e.2)

/-- The key of page i of region n in the SEL and DIRTY tables. -/
def pageKey (n i : Nat) : Nat := n * 2 ^ 20 + i

/-- The address of the copy of a FULL page that reads see: the other copy of a DIRTY page, else the current one (R321). -/
def physOf (s : State) (a : Nat) : Nat :=
  match regionAt s a with
  | none => a
  | some (n, r) =>
    if rgAppend r then a
    else
      let i := (a - rgBase r) / rgPage r
      let sel := tblGet false s.hbm.sel (pageKey n i)
      let dirty := tblGet false s.hbm.dirty (pageKey n i)
      if sel != dirty then rgShadow r + (a - rgBase r) else a

/-- The byte that a read of an HBM address sees. -/
def hbmByte (s : State) (a : Nat) : Byte := memByte s.hbm.mem (physOf s a)

/-- n bytes as reads see them. -/
def hbmBytes' (s : State) (a : Nat) : Nat → List Byte
  | 0 => []
  | n + 1 => hbmByte s a :: hbmBytes' s (a + 1) n

/-- A word as reads see it. -/
def hbmWord (s : State) (a : Nat) : Word := BitVec.ofNat 64 (natOfBytes (hbmBytes' s a 8))

/-- Whether a pseudo-channel qualifies for sparing (R318). -/
def pcQualifies (errs : List (Nat × Nat × Bool)) (pc : Nat) : Bool :=
  let mine := errs.filter fun e => e.1 == pc
  decide (16 ≤ ((mine.filter fun e => !e.2.2).map (·.2.1)).eraseDups.length) ||
    decide (2 ≤ ((mine.filter fun e => e.2.2).map (·.2.1)).eraseDups.length)

/-- A pseudo-channel that qualifies is copied into its stack's spare, or stays in service with DEGRADED (R318). -/
def considerSparing (s : State) (pc : Nat) : State :=
  if s.hbm.copying.contains pc || s.hbm.keptBad.contains pc then s
  else if pcQualifies s.hbm.pcErrs pc then
    if (s.hbm.spared ++ s.hbm.copying).any (fun x => x / 64 == pc / 64) then
      recomputeHealth { s with hbm := { s.hbm with keptBad := s.hbm.keptBad ++ [pc] } }
    else { s with hbm := { s.hbm with copying := s.hbm.copying ++ [pc] } }
  else s

/-- A single-bit error found at a physical word: corrected, counted and logged (Table 11.2). -/
def hbmSbe (s : State) (w : Nat) : State :=
  let pc := locatePc s w
  let s1 := count s .hbmSbe pc
  let log := s.hbm.corrLog ++ [w]
  considerSparing { s1 with hbm := { s1.hbm with
    errs := tblSet none s1.hbm.errs w none
    corrLog := log.drop (log.length - 64)
    pcErrs := s1.hbm.pcErrs ++ [(pc, w, false)] } } pc

/-- A double-bit error found at a physical word: logged (Table 11.2, R318). -/
def hbmDbe (s : State) (w : Nat) : State :=
  let pc := locatePc s w
  considerSparing { s with hbm := { s.hbm with
    errLog := s.hbm.errLog ++ [w]
    pcErrs := s.hbm.pcErrs ++ [(pc, w, true)] } } pc

/-- The physical words that a read of n bytes touches. -/
def physWords (s : State) (a n : Nat) : List Nat :=
  ((List.range ((a + n + 7) / 8 - a / 8)).map fun k => physOf s ((a / 8 + k) * 8))

/-- The physical words with a double-bit error that a read of n bytes touches. -/
def hbmDbes (s : State) (a n : Nat) : List Nat := (physWords s a n).filter fun w => tblGet none s.hbm.errs w == some true

/-- Errors met by a read: corrections made, and the first double-bit error, if any (Table 11.2). -/
def hbmCheck (s : State) (a n : Nat) : Option Nat × State :=
  if s.hbm.errs.isEmpty then (none, s)
  else
    (physWords s a n).foldl (fun acc w =>
      match tblGet none acc.2.hbm.errs w with
      | some false => (acc.1, hbmSbe acc.2 w)
      | some true => (if acc.1.isSome then acc.1 else some w, hbmDbe acc.2 w)
      | none => acc) (none, s)

/-- A read of n bytes: none is delivered when a word has a double-bit error (Table 11.2). -/
def hbmRead (s : State) (a n : Nat) : Option (List Byte) × State :=
  match hbmCheck s a n with
  | (some _, s1) => (none, s1)
  | (none, s1) => (some (hbmBytes' s1 a n), s1)

/-- The digest term of a word (R382). -/
def digestTerm (key w : Word) : Word := mix (mix key ^^^ w)

/-- FULL takes in words written at consecutive keys (R382). -/
def digestWords (d : Word) (key : Nat) : List Word → Word
  | [] => d
  | w :: ws => digestWords (d + digestTerm (BitVec.ofNat 64 key) w) (key + 8) ws

/-- A forager address (Table 11.4). -/
def faddr (space unit off : Nat) : Nat := off + space * 2 ^ 40 + unit * 2 ^ 43

/-- The step's digests take in words written (R382). -/
def digestWrite (s : State) (key : Nat) (ws : List Word) : State :=
  modStep s fun st => { st with full := digestWords st.full key ws }

/-- The words that now stand where bytes were written, from the aligned address below `a`. -/
def hbmWordsAt (s : State) (a n : Nat) : List Word :=
  (List.range ((a + n + 7) / 8 - a / 8)).map fun k => hbmWord s ((a / 8 + k) * 8)

/-- DIRTY pages of a die (R323). -/
def dirtyOnDie (s : State) (d : Nat) : Nat :=
  (s.hbm.dirty.filter fun e => rgBase (tblGet 0 s.hbm.regions (e.1 / 2 ^ 20)) / dieBytes s == d).length

/-- What ends the step in progress without replay (R86); the first one stands. One found after the vote is charged to the next
step (R379). -/
def failStep (s : State) (f : Fail) : State :=
  match s.job.step with
  | none => s
  | some st =>
    if st.voted || st.committing then { s with job := { s.job with failNext := some (s.job.failNext.getD f) } }
    else modStep s fun st => { st with fail := some (st.fail.getD f) }

/-- Errors at words that a write covers are gone. -/
def clearErrs (t : Tbl (Option Bool)) (a n : Nat) : Tbl (Option Bool) :=
  if t.isEmpty then t else t.filter fun e => !(decide (a ≤ e.1) && decide (e.1 + 8 ≤ a + n))

/-- Bytes put at a physical address. -/
def hbmRaw (s : State) (a : Nat) (bs : List Byte) : State :=
  { s with hbm := { s.hbm with mem := memWrite s.hbm.mem a bs, errs := clearErrs s.hbm.errs a bs.length } }

/-- Error marks after n bytes at `cur` have been copied, bits unchanged, over those at `dst` (R316). -/
def copyErrs (t : Tbl (Option Bool)) (cur dst n : Nat) : Tbl (Option Bool) :=
  let moved := t.filter fun e => decide (cur ≤ e.1) && decide (e.1 < cur + n)
  moved.foldl (fun u e => tblSet none u (e.1 - cur + dst) e.2) (t.filter fun e => !(decide (dst ≤ e.1) && decide (e.1 < dst + n)))

/-- A page of a FULL region is copied to its other copy and set DIRTY by the first write of a step (R321). Words with an error
are copied as they are (assumption 101). -/
def dirtyPage (s : State) (n : Nat) (r : BitVec 320) (i : Nat) : State :=
  let p := rgPage r
  let base := rgBase r + i * p
  let other := rgShadow r + i * p
  let sel := tblGet false s.hbm.sel (pageKey n i)
  let cur := if sel then other else base
  let dst := if sel then base else other
  { s with hbm := { s.hbm with
    mem := memWrite s.hbm.mem dst (memRead s.hbm.mem cur p)
    errs := if s.hbm.errs.isEmpty then [] else copyErrs s.hbm.errs cur dst p
    dirty := tblSet false s.hbm.dirty (pageKey n i) true } }

/-- A step of the key's job is in progress for a write to a region: one that is committing has flipped its pages already (R321, R323). -/
def writeInStep (s : State) (key : Nat) : Bool :=
  match stepOf s key with
  | some st => !st.committing
  | none => false

/-- One write that stays inside a 4 KiB block (R321, R322). -/
def hbmWriteBlock (s : State) (a : Nat) (bs : List Byte) : State :=
  match regionAt s a with
  | none => hbmRaw s a bs
  | some (n, r) =>
    let inStep := writeInStep s (rgKey r)
    if rgAppend r then
      let o := a - rgBase r
      let e := o + bs.length
      if inStep then
        if rgClen r ≤ o && decide (e ≤ rgLen r) then
          let r' := rgSetLens r (rgClen r) (max (rgPlen r) e)
          let s1 := hbmRaw s a bs
          { s1 with hbm := { s1.hbm with regions := tblSet 0 s1.hbm.regions n r' } }
        else failStep s { status := Status.badArg.code, ecause := 5, addr := a }
      else
        let r' := rgSetLens r (max (rgClen r) e) (max (rgPlen r) e)
        let s1 := hbmRaw s a bs
        { s1 with hbm := { s1.hbm with regions := tblSet 0 s1.hbm.regions n r' } }
    else
      let i := (a - rgBase r) / rgPage r
      if inStep && !(tblGet false s.hbm.dirty (pageKey n i)) then
        if 65536 ≤ dirtyOnDie s (a / dieBytes s) then
          failStep s { status := Status.badArg.code, ecause := 6, addr := a }
        else
          let s1 := dirtyPage s n r i
          hbmRaw s1 (physOf s1 a) bs
      else hbmRaw s (physOf s a) bs

/-- A write of bytes, block by block. -/
def hbmWriteFuel (s : State) (a : Nat) (bs : List Byte) : Nat → State
  | 0 => s
  | fuel + 1 =>
    if bs.isEmpty then s
    else
      let k := 4096 - a % 4096
      hbmWriteFuel (hbmWriteBlock s a (bs.take k)) (a + k) (bs.drop k) fuel

/-- A write to HBM (R314, R321, R322, R382). -/
def hbmWrite (s : State) (a : Nat) (bs : List Byte) : State :=
  let s1 := hbmWriteFuel s a bs (bs.length / 4096 + 2)
  if s.job.step.isSome then digestWrite s1 (a / 8 * 8) (hbmWordsAt s1 a bs.length) else s1

/-- A set of changes to every region of a key: commit or poison (R323). -/
def regionsEnd (s : State) (key : Nat) (commit : Bool) : State :=
  let mine := fun n : Nat => rgKey (tblGet 0 s.hbm.regions n) == key
  let dirty := s.hbm.dirty.filter fun e => mine (e.1 / 2 ^ 20)
  let sel := if commit then dirty.foldl (fun t e => tblMod false t e.1 (!·)) s.hbm.sel else s.hbm.sel
  let regions := s.hbm.regions.map fun e =>
    if rgValid e.2 && rgAppend e.2 && rgKey e.2 == key then
      (e.1, if commit then rgSetLens e.2 (rgPlen e.2) (rgPlen e.2) else rgSetLens e.2 (rgClen e.2) (rgClen e.2))
    else e
  { s with hbm := { s.hbm with sel := sel, dirty := s.hbm.dirty.filter (fun e => !mine (e.1 / 2 ^ 20)), regions := regions } }

/-- Bytes of a local store and of a cluster store (R106, R107). -/
def lsBytes : Nat := 196608
def csBytes : Nat := 4194304

/-- Errors met by a read of a bank of stores: corrected bits and whether a double-bit error was met (R109). -/
def storeErrs (t : Tbl (Option Bool)) (a n : Nat) : Bool × Nat × Tbl (Option Bool) :=
  let hit := t.filter fun e => decide (a < e.1 + 8) && decide (e.1 < a + n)
  (hit.any (fun e => e.2 == some true), (hit.filter fun e => e.2 == some false).length,
    t.filter fun e => !(decide (a < e.1 + 8) && decide (e.1 < a + n) && e.2 == some false))

/-- The CCLK cycle (14 R398): three root cycles. -/
def cclkNow (s : State) : Nat := s.clk.logic / 3

/-- Words written in the CCLK cycle in progress, with what stood there before it. -/
def inCycle (s : State) (old : List (Nat × Word)) : List (Nat × Word) := if s.comp.writeCycle = cclkNow s then old else []

/-- n bytes of a bank of stores, words of a list with the value that it gives. -/
def bytesBefore (m : Mem) (old : List (Nat × Word)) (a n : Nat) : List Byte :=
  (List.range n).map fun k => match old.find? fun e => e.1 == (a + k) / 8 with
    | some e => BitVec.ofNat 8 (fld e.2 (8 * ((a + k) % 8)) 8)
    | none => memByte m (a + k)

/-- n bytes of a bank of stores as they stood before the writes of the cycle in `old` (R108). -/
def bankRead (s : State) (m : Mem) (old : List (Nat × Word)) (a n : Nat) : List Byte :=
  if (inCycle s old).isEmpty then memRead m a n else bytesBefore m (inCycle s old) a n

/-- n bytes of a core's local store, before what `old` says was written in the cycle; the flag says that a double-bit error was met. -/
def lsRead (s : State) (old : List (Nat × Word)) (core off n : Nat) : List Byte × Bool × State :=
  let a := core * lsBytes + off
  if s.comp.lsErrs.isEmpty then (bankRead s s.comp.ls old a n, false, s)
  else
    let (dbe, k, t) := storeErrs s.comp.lsErrs a n
    (bankRead s s.comp.ls old a n, dbe, countN { s with comp := { s.comp with lsErrs := t } } .storeSbe 0 k)

/-- n bytes of a cluster store, likewise. -/
def csRead (s : State) (old : List (Nat × Word)) (cl off n : Nat) : List Byte × Bool × State :=
  let a := cl * csBytes + off
  if s.comp.csErrs.isEmpty then (bankRead s s.comp.cs old a n, false, s)
  else
    let (dbe, k, t) := storeErrs s.comp.csErrs a n
    (bankRead s s.comp.cs old a n, dbe, countN { s with comp := { s.comp with csErrs := t } } .storeSbe 0 k)

/-- The words of a memory where bytes were written. -/
def memWordsAt (m : Mem) (a n : Nat) : List Word :=
  (List.range ((a + n + 7) / 8 - a / 8)).map fun k => memWord m ((a / 8 + k) * 8)

/-- A write to a core's local store (R108, R382). -/
def lsWrite (s : State) (core off : Nat) (bs : List Byte) : State :=
  let a := core * lsBytes + off
  let s1 := { s with comp := { s.comp with
    ls := memWrite s.comp.ls a bs, lsErrs := clearErrs s.comp.lsErrs a bs.length } }
  if s.job.step.isSome then digestWrite s1 (faddr 2 core (off / 8 * 8)) (memWordsAt s1.comp.ls a bs.length) else s1

/-- The 64-bit words of a bank of stores that bytes touch. -/
def wordsOf (a n : Nat) : List Nat := (List.range ((a + n + 7) / 8 - a / 8)).map (a / 8 + ·)

/-- Words that cores and foragers wrote to stores in the CCLK cycle in progress; those of an earlier cycle are gone. -/
def freshCycle (s : State) : State :=
  if s.comp.writeCycle = cclkNow s then s
  else { s with comp := { s.comp with writeCycle := cclkNow s, coreWords := [], foragerWords := [], csWords := [] } }

/-- Words of a bank of stores that no list holds yet, with what stands there. -/
def wordsThere (m : Mem) (old : List (Nat × Word)) (ws : List Nat) : List (Nat × Word) :=
  (ws.filter fun w => !old.any fun e => e.1 == w).map fun w => (w, BitVec.ofNat 64 (memNat m (8 * w) 8))

/-- A forager's write of a word is undone: the word is as it was, and FULL without the term of the write (R382). -/
def undoForager (s : State) (core : Nat) (e : Nat × Word) : State :=
  let key := BitVec.ofNat 64 (faddr 2 core (8 * e.1 - core * lsBytes))
  let now := BitVec.ofNat 64 (memNat s.comp.ls (8 * e.1) 8)
  modStep { s with comp := { s.comp with ls := memWrite s.comp.ls (8 * e.1) (bytesOfWords [e.2]) } } fun st =>
    { st with full := st.full - digestTerm key now }

/-- A core's write to its local store: it stands over a forager's of the same CCLK cycle, and collisions are counted (R108). -/
def lsCoreWrite (s : State) (core off : Nat) (bs : List Byte) : State :=
  let s0 := freshCycle s
  let ws := wordsOf (core * lsBytes + off) bs.length
  let hits := s0.comp.foragerWords.filter fun e => ws.contains e.1
  let s1 := hits.foldl (undoForager · core ·) s0
  let s2 := { s1 with comp := { s1.comp with
    coreWords := s1.comp.coreWords ++ wordsThere s1.comp.ls s1.comp.coreWords ws
    foragerWords := s1.comp.foragerWords.filter fun e => !ws.contains e.1 } }
  lsWrite (countN s2 .writeCollision (core / 16) hits.length) core off bs

/-- A forager's bytes, where a core wrote the word in the same CCLK cycle the core's (R108). -/
def keepCore (s : State) (a : Nat) (bs : List Byte) : List Byte :=
  bs.zipIdx.map fun e => if s.comp.coreWords.any (fun x => x.1 == (a + e.2) / 8) then memByte s.comp.ls (a + e.2) else e.1

/-- A forager's write to a local store: a core's write of the same CCLK cycle stands, and collisions are counted (R108). -/
def lsForagerWrite (s : State) (core off : Nat) (bs : List Byte) : State :=
  let s0 := freshCycle s
  let a := core * lsBytes + off
  let ws := wordsOf a bs.length
  let hits := ws.filter fun w => s0.comp.coreWords.any fun e => e.1 == w
  let fresh := wordsThere s0.comp.ls s0.comp.foragerWords (ws.filter fun w => !hits.contains w)
  let s1 := countN { s0 with comp := { s0.comp with foragerWords := s0.comp.foragerWords ++ fresh } } .writeCollision (core / 16) hits.length
  lsWrite s1 core off (keepCore s0 a bs)

/-- A write to a cluster store, which only foragers make. -/
def csWrite (s : State) (cl off : Nat) (bs : List Byte) : State :=
  let a := cl * csBytes + off
  let s0 := freshCycle s
  let s1 := { s0 with comp := { s0.comp with
    csWords := s0.comp.csWords ++ wordsThere s0.comp.cs s0.comp.csWords (wordsOf a bs.length)
    cs := memWrite s0.comp.cs a bs
    csErrs := clearErrs s0.comp.csErrs a bs.length } }
  if s.job.step.isSome then digestWrite s1 (faddr 1 cl (off / 8 * 8)) (memWordsAt s1.comp.cs a bs.length) else s1

/-- Logical cluster l is present and not retired (R114, R117). -/
def clusterPresent (s : State) (l : Nat) : Bool := ((s.comp.clusters.getD l none)).isSome

/-- Logical core c is present. -/
def corePresent (s : State) (c : Nat) : Bool := clusterPresent s (c / 16)

/-- The compute die of logical cluster l. -/
def dieOfCluster (s : State) (l : Nat) : Nat := ((s.comp.clusters.getD l none).getD 0) / 8

/-- A forager address that names no location (R312, R329, R337): 1 BAD_ARG, 2 ABSENT_UNIT; 0 when it is good. -/
def addrFault (s : State) (a n : Nat) : Nat :=
  let off := nfld a 0 40
  let sp := nfld a 40 3
  let u := nfld a 43 9
  if nfld a 52 12 != 0 then 1
  else if sp = 0 then (if u != 0 || hbmBytes s < off + n then 1 else 0)
  else if sp = 1 then (if !clusterPresent s u then 2 else if csBytes < off + n then 1 else 0)
  else if sp = 2 then (if !corePresent s u then 2 else if lsBytes < off + n then 1 else 0)
  else if sp = 3 then (if u != 0 then 1 else 0)
  else 1

/-- The die that owns a forager address. -/
def dieOfAddr (s : State) (a : Nat) : Nat :=
  let sp := nfld a 40 3
  let u := nfld a 43 9
  if sp = 0 then nfld a 0 40 / dieBytes s
  else if sp = 1 then dieOfCluster s u
  else if sp = 2 then dieOfCluster s (u / 16)
  else 4

/-- The regions that n bytes at an HBM address touch, each with its first and last page there. -/
def regionsHit (s : State) (a n : Nat) : List (Nat × Nat × Nat) :=
  s.hbm.regions.filterMap fun e =>
    let r := e.2
    let lo := max a (rgBase r)
    let hi := min (a + n) (rgBase r + rgLen r)
    if rgValid r && decide (lo < hi) then some (e.1, (lo - rgBase r) / rgPage r, (hi - 1 - rgBase r) / rgPage r) else none

/-- The keys of the pages, and the regions, whose SEL, DIRTY, CLEN and PLEN an access of n bytes reads (R325). -/
def pagesRead (s : State) (a n : Nat) : List Nat :=
  (regionsHit s a n).flatMap fun h => (List.range (h.2.2 - h.2.1 + 1)).map fun k => pageKey h.1 (h.2.1 + k)

/-- An access of n bytes at a forager address meets a double-bit error in SEL, DIRTY, CLEN or PLEN (R325). -/
def metaBad (s : State) (a n : Nat) : Bool :=
  nfld a 40 3 == 0 && ((pagesRead s (nfld a 0 40) n).any (fun k => tblGet none s.hbm.selErrs k == some true) ||
    (regionsHit s (nfld a 0 40) n).any fun h => tblGet none s.hbm.lenErrs h.1 == some true)

/-- Single-bit errors that an access meets in SEL, DIRTY, CLEN and PLEN are corrected (R325). -/
def metaFix (s : State) (a n : Nat) : State :=
  if s.hbm.selErrs.isEmpty && s.hbm.lenErrs.isEmpty || nfld a 40 3 != 0 then s
  else
    let ps := pagesRead s (nfld a 0 40) n
    let rs := regionsHit s (nfld a 0 40) n
    { s with hbm := { s.hbm with
      selErrs := s.hbm.selErrs.filter fun e => !(e.2 == some false && ps.contains e.1)
      lenErrs := s.hbm.lenErrs.filter fun e => !(e.2 == some false && rs.any fun h => h.1 == e.1) } }

/-- A read of a forager address: the bytes (none on a double-bit error of HBM or a store) and the state. -/
def spaceRead (s : State) (a n : Nat) : Option (List Byte) × State :=
  let off := nfld a 0 40
  let u := nfld a 43 9
  if nfld a 40 3 = 0 then hbmRead s off n
  else if nfld a 40 3 = 1 then
    let (bs, dbe, s1) := csRead s [] u off n
    (if dbe then none else some bs, s1)
  else
    let (bs, dbe, s1) := lsRead s s.comp.coreWords u off n
    (if dbe then none else some bs, s1)

/-- A write to a forager address of SPACE 0 to 2. -/
def spaceWrite (s : State) (a : Nat) (bs : List Byte) : State :=
  let off := nfld a 0 40
  let u := nfld a 43 9
  if nfld a 40 3 = 0 then hbmWrite s off bs
  else if nfld a 40 3 = 1 then csWrite s u off bs
  else lsForagerWrite s u off bs

end Sys2Proof.Machine
end

