-- ==== Sys2Proof/Machine/StreamWord.lean ====
section
/-! DEFINITION. Words of stream programs, contexts and pieces (06 R160, R164-R167; Tables 6.1, 6.3, 6.7, 6.8), and the frames that
a canonical tree's leaves keep in the comb (R161). -/

namespace Sys2Proof.Machine

/-- Fields of a stream instruction (Table 6.7). -/
def siOp (w : Word) : Nat := fld w 0 6
def siPh (w : Word) : Bool := flag w 6
def siTy (w : Word) : Option Ty := tyOf (fld w 7 3)
def siDt (w : Word) : Option Ty := tyOf (fld w 10 3)
def siSrc (w : Word) : Nat := fld w 13 3
def siDst (w : Word) : Nat := fld w 16 3
def siRm (w : Word) : Nat := fld w 19 3
def siSat (w : Word) : Bool := flag w 22
def siVar (w : Word) : Nat := fld w 23 5
def siCp (w : Word) : Nat := fld w 28 3
def siImm (w : Word) : Nat := fld w 32 32

/-- Operations (Table 6.8). -/
def opIn : Nat := 0x01
def opOut : Nat := 0x02
def opSLoop : Nat := 0x03
def opEmit : Nat := 0x04
def opPass : Nat := 0x05
def opSum : Nat := 0x08
def opMax : Nat := 0x09
def opMin : Nat := 0x0A
def opAmax : Nat := 0x0B
def opCount : Nat := 0x0C
def opCvt : Nat := 0x0D
def opSpsum : Nat := 0x10
def opMerge : Nat := 0x11
def opTopk : Nat := 0x12
def opFilter : Nat := 0x13
def opGather : Nat := 0x14
def opAttnm : Nat := 0x15
def opSample : Nat := 0x16

/-- Operand codes (R166). -/
def opndInp : Nat := 1
def opndAcc : Nat := 2
def opndRes : Nat := 3

/-- An accumulating operation (R167). -/
def accumulates (w : Word) : Bool := (!siPh w && siDst w == opndAcc) || siOp w == opGather

/-- The accumulating instruction of a program, a word of zeros when it has none. -/
def accOf (prog : List Word) : Word := (prog.find? accumulates).getD 0

/-- How a program accumulates. -/
inductive AccKind where
  | none | exact | tree | arrival | extreme | list | attn | gather
deriving DecidableEq, Repr, Inhabited

/-- The kind of a program's accumulating operation (Table 6.8, R171-R179). -/
def accKind (prog : List Word) (t : Ty) : AccKind :=
  let a := accOf prog
  let op := siOp a
  if op = opSum || op = opSpsum then (if t != .fp64 then .exact else if siVar a % 2 = 1 then .arrival else .tree)
  else if op = opMax || op = opMin || op = opAmax then .extreme
  else if op = opMerge || op = opTopk then .list
  else if op = opAttnm then .attn
  else if op = opGather then .gather
  else .none

/-- The instructions of stream program n. -/
def progOf (s : State) (n : Nat) : List Word :=
  match tblGet none s.su.programs n with
  | some p => p.code
  | none => []

/-- Fields of a context (Table 6.3). -/
def cxtProg (x : Ctx) : Nat := fld x.word 12 8
def cxtTy (x : Ctx) : Ty := (tyOf (fld x.word 25 3)).getD .fp32
def cxtNsrc (x : Ctx) : Nat := fld x.word 28 12 + 1
def cxtOutCtx (x : Ctx) : Nat := fld x.word 52 12
def cxtClass (x : Ctx) : Nat := fld x.word 82 3
def cxtTid (x : Ctx) : Nat := fld x.word 160 32
def cxtTimeout (x : Ctx) : Nat := let t := fld x.word 128 32; if t = 0 then 100000 else t

/-- The context armed under a number. -/
def ctxOf (s : State) (c : Nat) : Option Ctx := tblGet none s.su.ctxs c

/-- Words of the stream prefix of a frame (Table 6.1). -/
def sp0 (f : Frame) : Word := arg (wordsOfBytes f.payload 2) 0
def sp1 (f : Frame) : Word := arg (wordsOfBytes f.payload 2) 1
def spCtx (f : Frame) : Nat := fld (sp0 f) 0 12
def spChunk (f : Frame) : Nat := fld (sp0 f) 16 16
def spSeq (f : Frame) : Nat := fld (sp1 f) 0 32

/-- The logical unit that a physical unit is (R157). -/
def logicalUnit (s : State) (u : Nat) : Nat := (findAt (· == u) s.su.map).getD u

/-- The piece that a frame carries (Table 6.1). -/
def pieceOf (f : Frame) : Piece :=
  { src := fld (sp0 f) 32 12, piece := fld (sp1 f) 32 6, last := flag (sp0 f) 44, stat := fld (sp0 f) 56 8, scale := fld (sp0 f) 48 8
    nelem := fld (sp1 f) 40 12, data := f.payload.drop 16
    rsv := fld (sp0 f) 12 4 != 0 || fld (sp0 f) 45 3 != 0 || fld (sp1 f) 38 2 != 0 || fld (sp1 f) 52 12 != 0 }

/-- A context's chunks combine by a canonical tree that keeps its nodes in the comb (R161). -/
def keepsTree (s : State) (x : Ctx) : Bool :=
  let k := accKind (progOf s (cxtProg x)) (cxtTy x)
  k == .tree || k == .attn

/-- The leaf that a piece's frame is, when its context keeps a tree (R161). -/
def leafOf (s : State) (id : Nat) (f : Frame) : Option Leaf :=
  match ctxOf s (spCtx f) with
  | some x =>
    if keepsTree s x then some { frame := id, ctx := spCtx f, seq := spSeq f, chunk := spChunk f, src := (pieceOf f).src, piece := (pieceOf f).piece }
    else none
  | none => none

/-- A leaf's frame carries this piece. -/
def leafIs (l : Leaf) (f : Frame) : Bool :=
  l.ctx == spCtx f && l.seq == spSeq f && l.chunk == spChunk f && l.src == (pieceOf f).src && l.piece == (pieceOf f).piece

/-- How many frames of a leaf's piece stay in the comb: those that wait at a unit, and one that waits in its chunk (R161). -/
def leafKept (s : State) (l : Leaf) : Nat :=
  (s.su.queue.filter fun e => leafIs l e.2).length +
    (s.su.chunks.any fun c => c.ctx == l.ctx && c.seq == l.seq && c.chunk == l.chunk && c.held.contains (l.src, l.piece)).toNat

/-- The leaves that stay and those that go, in order. -/
def sortLeaves (s : State) : List Leaf → List Leaf × List Leaf → List Leaf × List Leaf
  | [], a => a
  | l :: r, a =>
    let same := fun x : Leaf => { x with frame := l.frame } == l
    if (a.1.filter same).length < leafKept s l then sortLeaves s r (a.1 ++ [l], a.2) else sortLeaves s r (a.1, a.2 ++ [l])

/-- A unit has done with a frame that it kept: REF falls by one, and the cells go with the last reference (07 R214); a frame that is
not held is a double free (R215). -/
def dropLeaf (s : State) (id : Nat) : State :=
  match s.comb.frames.find? (fun f => frameId f == id) with
  | none => noteDoubleFree s (tblGet 0 s.comb.lastOwner id) (tblGet 0 s.comb.lastOwner id)
  | some f =>
    if f.ref ≤ 1 then releaseFrame s f
    else { s with comb := { s.comb with frames := modWhere (fun x => frameId x == id) (fun x => { x with ref := x.ref - 1 }) s.comb.frames } }

/-- The frames of leaves that no unit waits for any more leave the comb (R161). -/
def settleLeaves (s : State) : State :=
  let (stay, go) := sortLeaves s s.su.leaves ([], [])
  go.foldl (fun t l => dropLeaf t l.frame) { s with su := { s.su with leaves := stay } }

end Sys2Proof.Machine
end

