-- ==== Sys2Proof/Machine/StepEnd.lean ====
section
/-! DEFINITION. How a step ends: poison (13 R372-R375), failures without replay (R378, R381), commit (11 R323,
13 R381), completion and token records (12 R366, R367), and the safe state (13 R386). -/

namespace Sys2Proof.Machine

/-- Poison causes (13 Table 13.3). -/
inductive PCause where
  | waitTimeout | streamDup | streamTimeout | combWait | collTimeout | foragerTimeout | hbmDbe | storeDbe | coreFail
  | unitFail | clusterFail | combDoubleFree | digestMismatch | digestTimeout | replicaMismatch | membership
  | stepWatchdog | safeEntry | hostAbort | hostReplay | streamExcess
deriving DecidableEq, Repr, Inhabited

/-- The code of a poison cause (Table 13.3). -/
def PCause.code : PCause → Nat
  | .waitTimeout => 1
  | .streamDup => 2
  | .streamTimeout => 3
  | .combWait => 4
  | .collTimeout => 5
  | .foragerTimeout => 6
  | .hbmDbe => 7
  | .storeDbe => 8
  | .coreFail => 9
  | .unitFail => 10
  | .clusterFail => 11
  | .combDoubleFree => 12
  | .digestMismatch => 13
  | .digestTimeout => 14
  | .replicaMismatch => 15
  | .membership => 16
  | .stepWatchdog => 17
  | .safeEntry => 18
  | .hostAbort => 19
  | .hostReplay => 20
  | .streamExcess => 21

/-- The logical clusters that a mask names and that are present (04 R112). -/
def maskClusters (s : State) (m : BitVec 32) : List Nat := (List.range 32).filter fun l => flag m l && clusterPresent s l

/-- The cores of a logical cluster: logical cores 16q to 16q + 15, and 512 + q, its idle physical core, which only an
image with PHYS reaches (R110, R115). -/
def clusterKeys (q : Nat) : List Nat := (List.range 16).map (16 * q + ·) ++ [512 + q]

/-- The cores of a launch, logical cores first and ascending. -/
def launchCores (s : State) (l : Launch) : List Nat :=
  let ks := (maskClusters s l.cmask).flatMap clusterKeys
  ks.filter (· < 512) ++ ks.filter (512 ≤ ·)

/-- Logical core c. -/
def coreOf (s : State) (c : Nat) : Core := tblGet {} s.comp.cores c

/-- Queen of logical cluster l. -/
def queenOf (s : State) (l : Nat) : Queen := tblGet {} s.comp.queens l

/-- The state with a queen changed. -/
def modQueen (s : State) (l : Nat) (f : Queen → Queen) : State :=
  { s with comp := { s.comp with queens := tblMod {} s.comp.queens l f } }

/-- The state with a core changed. -/
def modCore (s : State) (c : Nat) (f : Core → Core) : State :=
  { s with comp := { s.comp with cores := tblMod {} s.comp.cores c f } }

/-- Channel n. -/
def chanOf (s : State) (n : Nat) : Chan := tblGet {} s.fgr n

/-- The state with a channel changed. -/
def modChan (s : State) (n : Nat) (f : Chan → Chan) : State := { s with fgr := tblMod {} s.fgr n f }

/-- An amax joins a tensor's (R54, R56): the larger, or the default NaN. -/
def mergeAmax (t : Tbl (Option (BitVec 32))) (id : Nat) (a : BitVec 32) : Tbl (Option (BitVec 32)) :=
  let v := match tblGet none t id with
    | some old => BitVec.ofNat 32 (quietMax .fp32 true old.toNat a.toNat)
    | none => a
  tblSet none t id (some v)

/-- Every amax of the step: those already contributed, and those of the job's conversion contexts (05 R130). -/
def stepAmax (s : State) (l : Launch) : Tbl (Option (BitVec 32)) :=
  (launchCores s l).foldl (fun t c =>
    (List.range 4).foldl (fun t k => let x := tblGet {} (coreOf s c).cx k; mergeAmax t (fld x.word 0 32) x.amax) t) s.job.amax

/-- The OR of the VFLAGS of the job's cores and the stream flags (R67, R190). -/
def stepFlags (s : State) (l : Launch) : BitVec 5 :=
  (launchCores s l).foldl (fun a c => a ||| BitVec.ofNat 5 (fld (coreOf s c).vflags 0 5)) s.job.streamFlags

/-- INVALID was raised on the module in this attempt (R68, Table 13.5). -/
def stepInvalid (s : State) (l : Launch) : Bool := flag (stepFlags s l) 0

/-- INVLOC of the lowest-numbered core whose VALID is set (R67). -/
def stepInvloc (s : State) (l : Launch) : Word × Word :=
  match (launchCores s l).find? fun c => flag (coreOf s c).invloc1 32 with
  | some c => ((coreOf s c).invloc0, (coreOf s c).invloc1)
  | none => (0, 0)

/-- The order key of a stream locator (06 R190). -/
def slocKey (x : Sloc) : Nat :=
  ((fld x.s0 0 32 * 2 ^ 12 + fld x.s0 32 12) * 2 ^ 16 + fld x.s0 44 16) * 2 ^ 14 + fld x.s1 0 14

/-- The locator with the lowest key over all units (R190). -/
def stepSloc (s : State) : Sloc :=
  let vs := (s.su.slocs.map (·.2)).filter fun x => flag x.s1 22
  vs.foldl (fun a x => if flag a.s1 22 && decide (slocKey a ≤ slocKey x) then a else x) {}

/-- The malformed tile of the lowest-numbered core that has one (R85): its two record words. -/
def stepMtile (s : State) (l : Launch) : Word × Word :=
  match (launchCores s l).find? fun c => (coreOf s c).mtile.isSome with
  | some c =>
    (match (coreOf s c).mtile with
    | some (t, i, k) => (packW [(0, 32, t.toNat), (32, 32, i.toNat)], packW [(0, 3, k.toNat), (3, 9, c), (12, 1, 1)])
    | none => (0, 0))
  | none => (0, 0)

/-- Outcomes of a step (Table 12.12). -/
inductive Outcome' where
  | committed | trapped | failed | aborted
deriving DecidableEq, Repr, Inhabited

/-- The code of an outcome (Table 12.12). -/
def Outcome'.code : Outcome' → Nat
  | .committed => 0
  | .trapped => 1
  | .failed => 2
  | .aborted => 3

/-- The bytes of a step completion record (Table 12.12), rounded up to a multiple of 128. -/
def completionBytes (s : State) (l : Launch) (st : Step) (o : Outcome') (f : Fail) : List Byte :=
  let am := stepAmax s l
  let kept := am.take 496
  let inv := stepInvloc s l
  let sl := stepSloc s
  let mt := stepMtile s l
  let w0 := packW [(0, 4, o.code), (4, 16, f.status), (20, 5, (stepFlags s l).toNat), (25, 1, (decide (496 < am.length)).toNat),
    (26, 6, min 63 st.attempt), (32, 16, kept.length)]
  let w3 := packW [(0, 9, f.unit), (9, 8, f.fpc), (17, 4, f.fcause), (24, 8, f.ecause), (32, 32, l.id.toNat)]
  let ws : List Word := [w0, BitVec.ofNat 64 st.seq, BitVec.ofNat 64 f.addr, w3, inv.1, inv.2, sl.s0, sl.s1, mt.1, mt.2,
    nowW s, 0, 0, 0, 0, 0]
  let am := kept.map fun e => packW [(0, 32, e.1), (32, 32, (e.2.getD 0).toNat)]
  let bs := bytesOfWords (ws ++ am)
  bs ++ List.replicate (roundUp bs.length 128 - bs.length) 0

/-- Used space of a ring of 2^lg bytes (R365). -/
def ringUsed (wptr rptr : Word) (lg : Nat) : Nat := (wptr - rptr).toNat % 2 ^ lg

/-- How far a completion record of n bytes at offset o is padded to: the PAD before it (R365). -/
def padBefore (o n size : Nat) : Nat := if size < o + n then size - o else 0

/-- Whether token records, written in turn, all fit (R365). -/
def tokensFit (s : State) (n : Nat) : Bool :=
  decide (ringUsed s.host.tokenWptr s.host.tokenRptr s.host.tlog + 32 * n + 32 ≤ 2 ^ s.host.tlog)

/-- The bytes that completion records take when written in turn from offset o, PADs included (R365). -/
def cmplTake (size : Nat) : Nat → List (List Byte) → Nat
  | _, [] => 0
  | o, r :: rs =>
    let n := padBefore o r.length size + r.length
    n + cmplTake size ((o + n) % size) rs

/-- Whether completion records, written in turn, all fit (R365). -/
def cmplFit (s : State) (rs : List (List Byte)) : Bool :=
  let size := 2 ^ s.host.clog
  decide (ringUsed s.host.cmplWptr s.host.cmplRptr s.host.clog + cmplTake size (s.host.cmplWptr.toNat % size) rs + 128 ≤ size)

/-- The module's completion record of the step is formed; it is held while it does not fit, counting RING_FULL (R367, R365). -/
def writeCompletion (s : State) (o : Outcome') (f : Fail) : State :=
  match s.job.launch, s.job.step with
  | some l, some st =>
    let s1 := { s with host := { s.host with cmplHeld := s.host.cmplHeld ++ [completionBytes s l st o f] } }
    if cmplFit s1 s1.host.cmplHeld then s1 else count s1 .ringFull
  | _, _ => s

/-- A staged token record is released to port H; it is held while it does not fit (R26, R365, R366). -/
def releaseToken (s : State) (t : List TokenRec) : State :=
  let s1 := { s with host := { s.host with tokenHeld := s.host.tokenHeld ++ t } }
  if t.isEmpty || tokensFit s1 s1.host.tokenHeld.length then s1 else count s1 .ringFull

/-- Collective operations of a key's groups that belong to the step (09 R290). -/
def collKey (s : State) (gid : Nat) : Nat := fld (tblGet 0 s.coll.groups gid) 4 12

/-- The chunks of the job's contexts for the step, and whether a chunk is one of them. -/
def chunkOfJob (s : State) (key : Nat) (c : Chunk) : Bool :=
  c.stepSeq.isSome && (match tblGet none s.su.ctxs c.ctx with
    | some x => x.pkey == key
    | none => false)

/-- A buffer of a chunk of the job has a double-bit error in its metadata (07 R216). -/
def chunkMetaBad (s : State) (key : Nat) : Bool :=
  (s.su.chunks.filter (chunkOfJob s key)).any fun c => (c.bufs ++ c.nodes.map (·.handle)).any fun h => s.comb.metaErrs.contains (.buffer h, true)

/-- The buffers of chunks are returned. -/
def freeChunks (s : State) (cs : List Chunk) : State :=
  cs.foldl (fun t c => (c.bufs ++ c.nodes.map (·.handle)).foldl freeBufHandle t) s

/-- A chunk that is complete and whose last result piece has left its unit (06 R161, R182): its pages and buffers go; its entry
stays for the step in progress when it was taken. -/
def releaseChunk (s : State) (c : Chunk) : State :=
  let same := fun x : Chunk => x.ctx == c.ctx && x.seq == c.seq && x.chunk == c.chunk && x.unit == c.unit
  let s1 := freeChunks s [c]
  let rest := if c.stepSeq.isSome then modWhere same (fun x => { x with pages := 0, bufs := [], nodes := [], out := [] }) s1.su.chunks
    else eraseFirst same s1.su.chunks
  { s1 with su := { s1.su with chunks := rest } }

/-- The frames of a job's step that have not entered the comb yet, or wait at their target, are abandoned, with the waiters that stand
for them (09 R290, 11 R338): writes, reads, stream pieces and events, but no digest (assumption 67). -/
def dropOrigs (s : State) (key : Nat) : State :=
  let mine := fun f : Frame => frmPkey f == key && frmStep f == stepField s key && decide (1 ≤ frmOp f) && decide (frmOp f ≤ 6)
  let kept := s.comb.orig.filter fun o => !mine o.frame
  { s with comb := { s.comb with
    orig := kept
    localIn := s.comb.localIn.filter fun f => !mine f
    waiters := s.comb.waiters.filter fun w => match w.what with
      | .origin i => kept.any fun o => o.input == i && o.owner == w.owner && o.waiting
      | .buffer _ _ _ => true } }

/-- The step's provisional work is discarded (R32): shadow writes (R323), chunks and staged records (R187),
collectives (R290), bundles in issue (R150) and transfers (R338). -/
def discardStep (s : State) (l : Launch) : State :=
  let s1 := regionsEnd s l.pkey false
  let gone := s1.su.chunks.filter (chunkOfJob s1 l.pkey)
  let mine := fun g : Nat => collKey s1 g == l.pkey
  let isGone := fun (c q k : Nat) => gone.any fun x => x.ctx == c && x.seq == q && x.chunk == k
  let lost := s1.su.granted.filter fun g => isGone g.1 g.2.1 g.2.2.1
  let s2 := lost.foldl (fun t g => freeBufHandle t g.2.2.2) (freeChunks s1 gone)
  let s3 := { s2 with
    su := { s2.su with
      chunks := s2.su.chunks.filter fun c => !chunkOfJob s1 l.pkey c
      queue := s2.su.queue.filter fun q => !(frmPkey q.2 == l.pkey && frmStep q.2 == stepField s l.pkey)
      granted := s2.su.granted.filter fun g => !isGone g.1 g.2.1 g.2.2.1
      slocs := [] }
    coll := { s2.coll with
      ops := s2.coll.ops.filter fun o => !(o.inStep && mine o.gid)
      queue := s2.coll.queue.filter fun r => !mine (fld r 0 12)
      nextSeq := (s2.coll.stepSeq.filter fun e => mine (e.1 / 4)).foldl (fun t e => tblSet 0 t e.1 e.2)
        (s2.coll.nextSeq.filter fun e => !mine (e.1 / 4)) }
    comb := { s2.comb with waiters := s2.comb.waiters.filter fun w =>
      match w.what with
      | .buffer c q k => !isGone c q k
      | .origin _ => true }
    job := { s2.job with votes := [], amax := [], streamFlags := 0 } }
  let s3 := dropOrigs (settleLeaves s3) l.pkey
  let qs := maskClusters s3 l.cmask
  let s4 := qs.foldl (fun t q => modQueen t q fun x => { x with done := 0, snap := [], waitSince := none }) s3
  l.channels.foldl (fun t c => modChan t c fun x =>
    { x with acks := [], reads := [], moveSince := none, idxRead := none, idxVal := none, waitSince := none, ownWrites := [], signals := [] }) s4

/-- The launch is over: queens and bound channels stop, and ACTIVE gives way to JOINED (Table 12.8). -/
def endLaunch (s : State) : State :=
  match s.job.launch with
  | none => s
  | some l =>
    let s1 := (List.range 32).foldl (fun t q => modQueen t q fun x => { x with st := .idle, done := 0, snap := [] }) s
    let s2 := l.channels.foldl (fun t c => modChan t c fun x =>
      { x with bound := false, st := if x.st == .run || x.st == .wait then .idle else x.st }) s1
    let s3 := { s2 with
      job := { lastCommit := s.job.lastCommit }
      health := { s2.health with rehearsing := none }
      dev := if l.test then { s2.dev with detStrict := false, safety := false } else s2.dev }
    if s3.dev.mode == .active then setMode s3 .joined
    else if s3.dev.mode == .frozen && s3.dev.remembered == .active then { s3 with dev := { s3.dev with remembered := .joined } }
    else s3

/-- A statistics boundary of STEP mode is due (R396): a step of the running launch has ended while STEP mode stands. -/
def stepBoundary (s : State) : State := { s with stats := { s.stats with stepDue := s.stats.stepMode } }

/-- The step ends without commit and without replay, and the launch ends (R86, R375, R381, R364). A step that has committed
has its record already (R367), and nothing of it is discarded. -/
def endStep (s : State) (o : Outcome') (f : Fail) : State :=
  match s.job.launch with
  | none => s
  | some l =>
    if s.job.step.any (·.committing) then endLaunch s
    else endLaunch (stepBoundary (discardStep (writeCompletion s o f) l))

/-- Mechanisms that enter the safe state (13 Table 13.6), as the safety log numbers them (assumption 16). -/
inductive Mech where
  | metadata | management | clock | voltage | twin | replica | thermal | leak | main54
deriving DecidableEq, Repr, Inhabited

/-- The number of a mechanism in the safety log. -/
def Mech.no : Mech → Nat
  | .metadata => 1
  | .management => 2
  | .clock => 3
  | .voltage => 4
  | .twin => 5
  | .replica => 6
  | .thermal => 7
  | .leak => 8
  | .main54 => 9

/-- Swarm time in units of transmitter time, 1/2,016,000 of an SCLK cycle. -/
def unitNow (s : State) : Nat := s.clk.t48 * 50400

/-- A copy carries a frame of TC7. -/
def copyTc7 (s : State) (c : Copy) : Bool := s.comb.frames.any fun f => frameId f == c.frame && f.cls == 7

/-- A staged copy goes back to the head of its list. -/
def unstage (s : State) (o : Nat) (c : Copy) : State :=
  match c.circuit with
  | some id => { s with comb := { s.comb with circuitQ := tblMod [] s.comb.circuitQ (id * 113 + o) (c.frame :: ·) } }
  | none =>
    match s.comb.frames.find? fun f => frameId f == c.frame with
    | none => s
    | some f => { s with comb := { s.comb with queues := tblMod [] s.comb.queues ((f.input * 113 + o) * 8 + f.cls) (c.frame :: ·) } }

/-- An output of the switch sends only TC7 from now on (Table 13.7): the frame that it is sending is ended (08 R243), and one staged
behind it goes back to its list (assumption 123). -/
def fenceOutput (s : State) (o : Nat) : State :=
  let e := tblGet {} s.comb.egress o
  let sent := e.copies.filter fun c => decide (c.doneAt ≤ unitNow s)
  match e.copies.filter fun c => decide (unitNow s < c.doneAt) with
  | [] => s
  | c :: r =>
    let back := r.filter fun x => !copyTc7 s x
    let s1 := back.reverse.foldl (fun t x => unstage t o x) s
    { s1 with comb := { s1.comb with egress := tblSet {} s1.comb.egress o { e with
      copies := sent ++ { c with stomp := c.stomp || !copyTc7 s c } :: r.filter (copyTc7 s) } } }

/-- Every port sends only TC7 (Table 13.7). -/
def fenceOutputs (s : State) : State := (s.comb.egress.filter (·.1 ≤ 80)).foldl (fun t e => fenceOutput t e.1) s

/-- Safe-state entry (R386, Table 13.7), from every state of Table 12.8 that a dangerous fault leaves; `alarm` is what it does to
the step in progress. -/
def enterSafe (s : State) (alarm : State → State) (m : Mech) (loc : Nat) : State :=
  if s.dev.mode.code < 2 || s.dev.mode == .safe then s
  else
    let s1 := fenceOutputs { s with dev := { s.dev with safeN := false } }
    let s3 := setMode (alarm s1) .safe
    let s4 := (sbPorts s3).foldl sendBeacon s3
    { s4 with dev := { s4.dev with safetyLog := s4.dev.safetyLog ++ [{ mech := m.no, time := nowNs s4, loc := loc }] } }

/-- A double-bit error in the DIRTY bits, CLEN or PLEN that a commit or a poison reads (R325): the pages DIRTY and the regions of the
key. -/
def commitMetaBad (s : State) (key : Nat) : Bool :=
  let mine := fun n : Nat => rgKey (tblGet 0 s.hbm.regions n) == key
  (s.hbm.selErrs.any fun e => e.2 == some true && mine (e.1 / 2 ^ 20)) || s.hbm.lenErrs.any fun e => e.2 == some true && mine e.1

/-- The POISON set of the step in progress (Table 10.7). -/
def poisonPayload (pkey seq cause : Nat) : BitVec 40 := BitVec.ofNat 40 (pack [(0, 12, pkey), (16, 16, seq), (32, 8, cause)])

/-- POISON with SAFE_ENTRY for a step that is poisoned already (Table 13.7). -/
def safeAlarm (l : Launch) (st : Step) (s : State) : State :=
  sendSets s (sbPorts s) codePoison (poisonPayload l.pkey st.seq PCause.safeEntry.code) 3

/-- What an attempt leaves to the next one: nothing but the attempt's number and the errors logged (R375). -/
def nextAttempt (st : Step) (now cause : Nat) : Step :=
  { st with
    poisoned := some (now, cause), attempt := st.attempt + 1, voted := false, fail := none
    staged := none, endOfRun := false, full := 0, replica := 0, twinSent := none, twinRx := none
    twinMatched := false, invalid := false }

/-- The module acts on a poison of its step (R32, R374, R375): after 8 poisoned attempts the step fails.
An attempt that ends otherwise than by DIGEST_TIMEOUT breaks a row of those (R383). -/
def actPoison (s : State) (cause : Nat) : State :=
  match s.job.launch, s.job.step with
  | some l, some st =>
    if cause % 128 = PCause.hostAbort.code then endStep s .aborted { status := Status.ok.code, ecause := 8 }
    else if st.poisoned.isSome || st.committing then s
    else
      let st' := nextAttempt st (logicNs s) cause
      let h := if cause % 128 = PCause.digestTimeout.code then s.health else { s.health with twinTimeouts := 0 }
      let s0 := { s with job := { s.job with step := some st' }, health := h }
      if 8 ≤ st'.attempt then endStep s0 .failed { status := Status.timeout.code, ecause := 0 }
      else
        let s1 := discardStep s0 l
        if commitMetaBad s0 l.pkey || chunkMetaBad s0 l.pkey then enterSafe s1 (safeAlarm l st) .metadata 0 else s1
  | _, _ => s

/-- The hold of a poisoned step's replay is released (R389): the step is in progress again from now on (R372, R385; assumption 72). -/
def releaseHold (s : State) : State :=
  modStep s fun st => { st with held := false, startL := if st.held then logicNs s else st.startL }

/-- The step of a key is poisoned, and less than 20 µs have passed since: what arrives of it belongs to the abandoned attempt and is
discarded (01 R32, 09 R290, 11 R338; assumption 67). -/
def attemptGone (s : State) (key : Nat) : Bool :=
  match stepOf s key with
  | some st => st.poisoned.any fun p => decide (logicNs s < p.1 + 20000)
  | none => false

/-- A poison with this cause is what a rehearsal of type t leads to (R395, Table 13.10). -/
def rehearsalCause (t : Nat) : PCause → Bool
  | .coreFail => t == 2
  | .unitFail => t == 3
  | .waitTimeout | .streamTimeout | .collTimeout | .foragerTimeout | .digestTimeout | .stepWatchdog | .combWait => t ≤ 1
  | _ => false

/-- The module raises STEP_POISON (R373): the set goes out on every sideband that is up, and the module acts on it.
A module that has voted charges the fault to the next step, the commit rank excepted (R379). -/
def raisePoison (s : State) (c : PCause) : State :=
  match s.job.launch, s.job.step with
  | some l, some st =>
    let code := c.code + (if s.health.rehearsing.any fun t => rehearsalCause t c then 128 else 0)
    if st.committing || (st.voted && !isCommitRank s l.pkey) then
      { s with job := { s.job with chargeNext := some code } }
    else actPoison (sendSets s (sbPorts s) codePoison (poisonPayload l.pkey st.seq code) 3) code
  | _, _ => s

/-- Words with a double-bit HBM error were read in a step (Table 11.2, R319): poison, or the end of the step when its replay meets a
word that the first attempt already logged, with its address. -/
def stepHbmDbe (s : State) (ws : List Nat) : State :=
  match s.job.step with
  | some st =>
    if st.poisoned.isSome then s
    else
    match ws.find? st.dbe.contains with
    | some a => failStep s { status := Status.badArg.code, ecause := 4, addr := a }
    | none => raisePoison (modStep s fun x => { x with dbe := if x.attempt = 0 then x.dbe ++ ws else x.dbe }) .hbmDbe
  | none => s

/-- A double free (07 R215). -/
def doubleFree (s : State) (owner requester : Nat) : State := raisePoison (noteDoubleFree s owner requester) .combDoubleFree

/-- Double frees that came up between two states poison the step (07 R215), unless it is poisoned already. -/
def checkFree (s t : State) : State :=
  if s.hbm.integrityLog.length < t.hbm.integrityLog.length && t.job.step.any (·.poisoned.isNone) then raisePoison t .combDoubleFree else t

/-- Safe-state entry (R386, Table 13.7): the step in progress is poisoned, unless the module has voted for it (R379). -/
def safeEntry (s : State) (m : Mech) (loc : Nat) : State :=
  enterSafe s (fun t => if t.job.step.all (·.voted) then t else raisePoison t .safeEntry) m loc

/-- The comb reads metadata, queue entries or accounts (07 R216): single-bit errors are corrected and counted; after a double-bit
one (true) the module is in the safe state. -/
def combRead (s : State) (p : CombMeta → Bool) : State × Bool :=
  let hit := s.comb.metaErrs.filter fun e => p e.1
  if hit.isEmpty then (s, false)
  else
    let s1 := countN { s with comb := { s.comb with metaErrs := s.comb.metaErrs.filter fun e => e.2 || !p e.1 } } .combSbe 0
      (hit.filter fun e => !e.2).length
    if hit.any (·.2) then (safeEntry s1 .metadata 0, true) else (s1, false)

/-- Leaves that no unit waits for leave the comb (06 R161), and a double free among them is one (07 R215). -/
def settleFree (s : State) : State := checkFree s (settleLeaves s)

/-- The metadata of a buffer are read (07 R216): true where they have a double-bit error. -/
def bufRead (s : State) (h : Nat) : State × Bool := combRead s fun m => m == .buffer h

/-- A reader of a buffer finishes (07 R214, R215): with the last one the buffer goes back; a buffer that is not held, or has no
readers, is a double free. -/
def dropReader (s : State) (requester h : Nat) : State :=
  let (s, bad) := bufRead s h
  if bad then s
  else
    match bufOf s h with
    | none => doubleFree s (bufOwner s h) requester
    | some b =>
      if b.ref = 0 then doubleFree s b.owner requester
      else if b.ref = 1 then freeBufHandle s h
      else { s with comb := { s.comb with bufs := modWhere (fun x => x.pool * 65536 + x.id == h) (fun x => { x with ref := x.ref - 1 }) s.comb.bufs } }

/-- A buffer gets a further reader (07 R214). -/
def moreReaders (s : State) (h : Nat) : State :=
  let (s, bad) := bufRead s h
  if bad then s else (addReader s h).getD s

/-- A buffer goes back to its pool whichever readers it has (07 R214-R216). -/
def returnBuf (s : State) (h : Nat) : State :=
  let (t, bad) := bufRead s h
  if bad then t else checkFree t (freeBufHandle t h)

/-- A complete chunk gives up what it holds (06 R182): the readers that its result buffer still has finish (07 R214). -/
def releaseReaders (s : State) (c : Chunk) : State :=
  let s1 := c.bufs.foldl (fun t h => (List.range (((bufOf t h).map (·.ref)).getD 1)).foldl (fun t _ => dropReader t (648 + c.unit) h) t) s
  releaseChunk s1 { c with bufs := [] }

/-- The step commits (R381, R323, R26, R28, R148): pages flip, the token record goes to port H, the completion
record is written; COMMIT_COMPLETE starts what follows. -/
def commitStep (s : State) : State :=
  match s.job.launch, s.job.step with
  | some l, some st =>
    if commitMetaBad s l.pkey then safeEntry s .metadata 0
    else
    let s1 := regionsEnd (writeCompletion s .committed { status := 0, ecause := 0 }) l.pkey true
    let tok : List TokenRec := match st.staged with
      | some x => [{ sample := x, launchId := l.id, s := BitVec.ofNat 32 (st.seq - l.firstSeq + 1), time := nowW s }]
      | none => []
    let s1 := releaseToken s1 tok
    let ended := fun c : Chunk => chunkOfJob s1 l.pkey c && c.complete
    let s1 := stepBoundary s1
    let s2 := { s1 with
      su := { s1.su with
        chunks := (s1.su.chunks.filter fun c => !(ended c && c.out.isEmpty)).map fun c => if ended c then { c with stepSeq := none } else c
        slocs := [] }
      health := { s1.health with
        mismatches := s1.health.mismatches ++ List.replicate s1.health.pendingMiss (nowNs s)
        pendingMiss := 0, rehearsing := none }
      job := { s1.job with
        step := some { st with committing := true }
        lastCommit := some (l.pkey, st.seq), votes := [], amax := [], streamFlags := 0, replicaMiss := 0, twinMiss := 0
        stopRun := s1.job.stopRun || st.endOfRun || st.abortPending } }
    let s3 := if st.endOfRun then (List.range 32).foldl (fun t q => modQueen t q fun x => { x with evt := x.evt ||| 1 }) s2 else s2
    recomputeHealth s3
  | _, _ => s

/-- The module ends its launch on entering FENCED from ACTIVE (R355). -/
def fenceLaunch (s : State) : State := endStep s .failed { status := Status.fenced.code, ecause := 9 }

end Sys2Proof.Machine
end

