-- ==== Sys2Proof/Machine/Route.lean ====
section
/-! DEFINITION. Checks of an arriving frame, keys, guards, routes, multicast and circuits, and mirroring
(07 R217, R226-R234; 08 R238-R253). -/

namespace Sys2Proof.Machine

/-- VER of an MFP version code of PORT_STATUS (08 Table 8.1). -/
def verOf (mfp : Nat) : Nat := if mfp = 1 then 0x24 else if mfp = 2 then 0x30 else 0x31

/-- A reserved header bit is set, or the op or a reserved combination is not allowed (R242). -/
def headerBad (f : Frame) : Bool :=
  fld f.w2 14 50 != 0 || (frmDtype f == 2 && frmCfid f / 4096 != 0) || frmOp f == 0 || decide (0x0A ≤ frmOp f) ||
    (frmDtype f == 3 && (frmCls f != 7 || frmPkey f != 0))

/-- A condition of R242 that a frame's header shows. -/
def headBad (s : State) (p : Nat) (f : Frame) : Bool :=
  let mfp := (portOf s p).mfp
  fld f.w0 0 8 != verOf mfp || (frmDtype f == 2 && mfp == 1) || decide (4096 < frmLen f) || headerBad f

/-- A condition of R242 that shows when a frame's header has gone by (R243): a lost codeword, its word count, its CRC. -/
def lateBad (a : Arrival) : Bool := a.fec || a.frame.crc != frameCrc a.frame || a.frame.payload.length != frmLen a.frame

/-- A frame from a link meets a condition of R242. -/
def ingressBad (s : State) (p : Nat) (a : Arrival) : Bool := headBad s p a.frame || lateBad a

/-- The trailer is the inverse of the frame's CRC: another hop ended it (R243). -/
def stomped (f : Frame) : Bool := f.crc == ~~~(frameCrc f)

/-- Bit `key` of the ingress and egress key maps of port p (R228, R238). -/
def keyInBit (s : State) (p key : Nat) : Bool := key == 0 || tblGet false s.fab.keyIn (p * 4096 + key)
def keyOutBit (s : State) (p key : Nat) : Bool := key == 0 || tblGet false s.fab.keyOut (p * 4096 + key)

/-- The FENCE bit of port p (R228). -/
def fenceBit (s : State) (p : Nat) : Bool := tblGet false s.fab.fence p

/-- A host-access frame: a TC1 frame of key 0 that port H takes in (R238). -/
def hostAccess (input : Nat) (f : Frame) : Bool := input == 80 && frmCls f == 1 && frmPkey f == 0

/-- The key check at ingress (R228, R238): the cause of a discard, if any. -/
def keyCheck (s : State) (input : Nat) (f : Frame) : Option Cause :=
  let key := frmPkey f
  let c := frmCls f
  if (c == 7) != (key == 0) && !hostAccess input f then some .pkeyIngress
  else if input ≤ 80 && !keyInBit s input key then some .pkeyIngress
  else if input ≤ 80 && fenceBit s input && c != 7 then some .fenced
  else none

/-- Frame bytes (R461): header, payload and trailer. -/
def frameBytes (f : Frame) : Nat := 36 + f.payload.length

/-- Wire bytes (R461). -/
def wireBytes (f : Frame) : Nat := 8 * (5 + ceilDiv f.payload.length 8)

/-- The buckets of a guard brought up to the SCLK cycle (R226). -/
def refill (w : BitVec 192) (b : Bucket) (sc : Nat) : Bucket :=
  let n := sc - b.at_
  { committed := min (fld w 64 24 * 9600) (b.committed + n * fld w 0 22)
    peak := min (fld w 88 24 * 9600) (b.peak + n * fld w 22 22)
    at_ := sc }

/-- Colour of a frame of port p and class c: 0 green, 1 yellow, 2 red; the meter takes its units (R226). -/
def meter (s : State) (p c bytes : Nat) : Nat × State :=
  let k := p * 8 + c
  let w := tblGet 0 s.fab.guards k
  if !flag w 44 then (0, s)
  else
    let b := refill w (tblGet {} s.fab.buckets k) (logicSc s)
    let u := 9600 * bytes
    let put := fun b : Bucket => { s with fab := { s.fab with buckets := tblSet {} s.fab.buckets k b } }
    if b.peak < u then (2, put b)
    else if b.committed < u then (1, put { b with peak := b.peak - u })
    else (0, put { b with peak := b.peak - u, committed := b.committed - u })

/-- The logical unit that a stream frame goes to (06 R157, Table 7.1): the one that its chunk runs on. -/
def streamUnitOf (s : State) (f : Frame) : Nat :=
  let w0 := (wordsOfBytes f.payload 1).getD 0 0
  let base := match tblGet none s.su.ctxs (fld w0 0 12) with
    | some x => fld x.word 20 5
    | none => 0
  (base + fld w0 16 16) % max 1 s.su.map.length

/-- Where a frame goes: an output's queue of its class, a circuit's list at an output, or a target on the fabric die. -/
inductive Target where
  | queue (o : Nat)
  | circuit (o : Nat)
  | direct
deriving DecidableEq, Repr, Inhabited

/-- The local target of a frame (Table 8.2): the internal port of the die that owns it, a stream-unit queue, or
the fabric die itself. Which of a die's four ports carries it is the model's choice (assumption 18). -/
def localTarget (s : State) (input : Nat) (f : Frame) : Target :=
  let a := f.w3.toNat
  let op := frmOp f
  if op = 1 || op = 3 then
    (if addrFault s a 1 != 0 || dieOfAddr s a ≥ 4 then .direct else .queue (64 + 4 * dieOfAddr s a + input % 4))
  else if op = 2 || op = 4 then
    (if a % 512 < 256 then .queue (64 + 4 * (a % 512 / 64) + input % 4) else .direct)
  else if op = 5 then .queue (81 + streamUnitOf s f)
  else .direct

/-- Frames named by the lists of a queue of an output and class, in every input's list. -/
def queueIds (s : State) (o c : Nat) : List Nat :=
  (List.range 114).flatMap fun i => tblGet [] s.comb.queues ((i * 113 + o) * 8 + c)

/-- Cells of a held frame. -/
def cellsOf (s : State) (id : Nat) : Nat :=
  match s.comb.frames.find? (fun f => frameId f == id) with
  | some f => f.chain.length
  | none => 0

/-- The depth of an output's queue for a class, in cells (R230). -/
def queueDepth (s : State) (o c : Nat) : Nat := ((queueIds s o c).map (cellsOf s)).foldl (· + ·) 0

/-- SPILL_TH of port p (R246). -/
def spillTh (s : State) (p : Nat) : Nat := fld (tblGet (7 + 2048 * 256) s.fab.portCfg p) 8 24

/-- The route table of a bank, and its state. -/
def routeOf (s : State) (b : Bool) (eid : Nat) : BitVec 32 :=
  tblGet (127 + 127 * 128 + 65536) (if b then s.fab.route1 else s.fab.route0) eid
def bankOf (s : State) (b : Bool) : Bank := if b then s.fab.bank1 else s.fab.bank0
def mcastOf (s : State) (b : Bool) (g : Nat) : BitVec 128 := tblGet 0 (if b then s.fab.mcast1 else s.fab.mcast0) g

/-- spill(e, f) (R246). -/
def spills (s : State) (e : BitVec 32) (f : Frame) : Bool :=
  flag e 17 && !s.dev.detStrict && decide (frmCls f < 3) &&
    decide (spillTh s (fld e 0 7) ≤ queueDepth s (fld e 0 7) (frmCls f))

/-- route(f, in) (R245): the target of a frame with DTYPE 0. -/
def routeEid (s : State) (input : Nat) (f : Frame) : Option Target :=
  let b := frmEpoch f
  if bankOf s b == .inactive then none
  else
    let e := routeOf s b (frmDest f)
    let pri := fld e 0 7
    let alt := fld e 7 7
    if flag e 16 || flag e 15 then none
    else if flag e 14 then some (localTarget s input f)
    else
      let out := if outUp s pri && !spills s e f then some pri
        else if alt != 127 && outUp s alt then some alt else none
      match out with
      | some o => if o = input then none else some (.queue o)
      | none => none

/-- Outputs that an EGRESS field of 81 bits names (Table 8.4). -/
def egressOf (w : BitVec 128) : List Nat := (List.range 81).filter fun o => flag w o

/-- A circuit is VALID (Table 8.7). -/
def circuitValid (s : State) (id : Nat) : Bool := flag (tblGet 0 s.fab.circuits id) 7

/-- TARGETS of a circuit, in the form of Table 8.4. -/
def circuitTargets (s : State) (id : Nat) : BitVec 128 := BitVec.ofNat 128 ((tblGet 0 s.fab.circuits id).toNat >>> 64)

/-- Targets of a frame, or none with cause ROUTE_DROP (R245, R247, R248, R253). -/
def targetsOf (s : State) (input : Nat) (wire : Bool) (f : Frame) : Option (List Target) :=
  if hostAccess input f then some [localTarget s input f]
  else
    match frmDtype f with
    | 0 => (routeEid s input f).map fun t => [t]
    | 1 =>
      let b := frmEpoch f
      let e := mcastOf s b (frmDest f % 4096)
      if bankOf s b == .inactive || !flag e 83 then none
      else
        some (((egressOf e).filter (· != input)).map Target.queue ++
          (if flag e 82 && !(frmOp f == 5 && flag e 81) then [localTarget s input f] else []) ++
          (if flag e 81 then [.queue (81 + streamUnitOf s f)] else []))
    | 2 =>
      let id := frmCfid f % 4096
      let c := tblGet 0 s.fab.circuits id
      let ing := if input ≤ 80 then input else 127
      if !flag c 7 || fld c 0 7 != ing || fld c 8 12 != frmPkey f || frmCls f != 6 then none
      else
        let t := circuitTargets s id
        some ((egressOf t).map Target.circuit ++
          (if flag t 81 then [.circuit (81 + streamUnitOf s f)] else []) ++
          (if flag t 82 && !(frmOp f == 5 && flag t 81) then [localTarget s input f] else []))
    | _ => if wire then some [localTarget s input f] else some [.queue (frmDest f % 64)]

/-- An event of a mirror rule (Table 7.11). -/
def ruleMatches (r : BitVec 64) (ev inp out cls key : Nat) : Bool :=
  flag r 42 && (fld r 0 7 == 127 || fld r 0 7 == inp) && (fld r 7 7 == 127 || fld r 7 7 == out) && flag r (14 + cls) &&
    (flag r 34 || fld r 22 12 == key) && flag r (35 + ev)

/-- The mirror ring is full (R234). -/
def ringFull (s : State) : Bool :=
  s.fab.ringSize == 0 || (s.fab.ringWptr + 128) % s.fab.ringSize == s.fab.ringRptr % s.fab.ringSize

/-- The bytes of a mirror record (Table 7.12). -/
def mirrorRecord (s : State) (f : Frame) (ev inp out rule cause colour depth : Nat) : List Byte :=
  let t := scNow s * 5 / 6
  let w1 := packW [(0, 7, inp), (7, 7, out), (14, 3, frmCls f), (17, 2, ev), (19, 4, rule), (23, 5, cause), (28, 2, colour),
    (30, 20, depth), (50, 13, 32 + f.payload.length)]
  let data := (f.payload ++ List.replicate 80 0).take 80
  bytesOfWords [BitVec.ofNat 64 t, w1, f.w0, f.w1, f.w2, f.w3] ++ data

/-- A record among those of one TIME, in ascending RULE (R234). -/
def insertRule (x : Nat × List Byte) : List (Nat × List Byte) → List (Nat × List Byte)
  | [] => [x]
  | y :: r => if x.1 < y.1 then x :: y :: r else y :: insertRule x r

/-- Records at consecutive places of the ring from an offset on. -/
def putRecords (s : State) (off : Nat) : List (Nat × List Byte) → State
  | [] => s
  | x :: r => putRecords (hbmWriteFuel s (s.fab.ringBase.toNat + off % s.fab.ringSize) x.2 3) (off + 128) r

/-- The terms of FULL (13 R382) of records at consecutive places of the ring from an offset on. -/
def recordsDigest (s : State) (off : Nat) : List (Nat × List Byte) → Word
  | [] => 0
  | x :: r => digestWords (recordsDigest s (off + 128) r) (s.fab.ringBase.toNat + off % s.fab.ringSize) (wordsOfBytes x.2 16)

/-- A record joins the ring (R234): in order of TIME, and with the records of its TIME in ascending RULE, which are written once in
that order (13 R382). -/
def ringPut (s : State) (rule : Nat) (bs : List Byte) : State :=
  let t := scNow s * 5 / 6
  let old := if s.fab.mirrorAt = t then s.fab.mirrorRun else []
  let run := insertRule (rule, bs) old
  let off := s.fab.ringWptr + s.fab.ringSize * old.length - 128 * old.length
  let s1 := modStep (putRecords s off run) fun st => { st with full := st.full - recordsDigest s off old + recordsDigest s off run }
  { s1 with fab := { s1.fab with ringWptr := (s1.fab.ringWptr + 128) % s1.fab.ringSize, mirrorAt := t, mirrorRun := run } }

/-- An event on a frame reaches the mirror rules (R231, R232, R234). -/
def mirror (s : State) (f : Frame) (ev inp out cause colour depth : Nat) : State :=
  if s.fab.mirror.isEmpty then s
  else
    let hit := s.fab.mirror.filter fun e => ruleMatches e.2 ev inp out (frmCls f) (frmPkey f)
    let sel := hit.find? fun e => tblGet 0 s.fab.mirrorCnt e.1 % 2 ^ fld e.2 38 4 == 0
    let cnt := hit.foldl (fun t e => tblMod 0 t e.1 (· + 1)) s.fab.mirrorCnt
    let s1 := { s with fab := { s.fab with mirrorCnt := cnt } }
    match sel with
    | none => s1
    | some (n, _) =>
      if !canTake s1 1001 0 1 || s1.fab.ringSize == 0 || (!s1.fab.ringMode && ringFull s1) then count s1 .mirrorLost
      else
        ringPut s1 n (mirrorRecord s1 f ev inp out n cause colour depth)

/-- A frame is discarded with a cause counted at an index, and the mirror sees it (R229, R231). -/
def discard (s : State) (index : Nat) (f : Frame) (c : Cause) (inp out colour depth : Nat) : State :=
  mirror (countDiscard s index (frmCls f) c) f 2 inp out c.code colour depth

/-- The reference count of a held frame falls by one; at zero its cells are released (R214); a frame that is not
held is a double free (R215). -/
def decRef (s : State) (id requester : Nat) : State :=
  match s.comb.frames.find? (fun f => frameId f == id) with
  | none => doubleFree s (tblGet 0 s.comb.lastOwner id) requester
  | some f =>
    if f.ref = 0 then doubleFree s f.owner requester
    else if f.ref = 1 then releaseFrame s f
    else { s with comb := { s.comb with frames := modWhere (fun x => frameId x == id) (fun x => { x with ref := x.ref - 1 }) s.comb.frames } }

/-- Queue entries in use (R201). -/
def entriesUsed (s : State) : Nat :=
  (s.comb.queues.map fun e => e.2.length).foldl (· + ·) 0 + (s.comb.circuitQ.map fun e => e.2.length).foldl (· + ·) 0

end Sys2Proof.Machine
end

