-- ==== Sys2Proof/Machine/Mailbox.lean ====
section
/-! DEFINITION. The mailboxes (12 R344-R350): how a request is accepted, and how its response goes back. -/

namespace Sys2Proof.Machine

/-- Firmware runs: boot stage 0x02 has passed (14 R409). -/
def fwRuns (s : State) : Bool := auxOn s && !s.dev.recovery && decide (2 ≤ s.dev.bootStage.toNat)

/-- Host mailboxes and the management port are served: by firmware, or by the boot ROM in recovery (15 R428). -/
def mailServed (s : State) : Bool := fwRuns s || (auxOn s && s.dev.recovery)

/-- STATUS of host mailbox n (Table 12.4). -/
def mboxStatus (s : State) (n : Nat) : Nat := memNat s.host.bar2 (4096 * n + 12) 2

/-- Argument bytes of a request (Table 12.4). -/
def reqLen (w1 : Word) : Nat := fld w1 16 12

/-- Fields of a request's header. -/
def reqCmd (r : Req) : Nat := fld r.w0 0 16
def reqVer (r : Req) : Nat := fld r.w0 16 8
def reqTag (r : Req) : BitVec 32 := BitVec.ofNat 32 (fld r.w0 32 32)
def reqSession (r : Req) : BitVec 32 := BitVec.ofNat 32 (fld r.w2 0 32)

/-- The argument words of a message of LENGTH bytes: bytes beyond LENGTH read zero (R353). -/
def argWords (ws : List Word) (n : Nat) : List Word :=
  wordsOfBytes ((bytesOfWords ws).take n) (ceilDiv n 8)

/-- A request from the words of a message: header, then arguments (R344). -/
def reqOf (src : ReqSrc) (peer : BitVec 32) (ws : List Word) : Req :=
  { src := src, peer := peer, w0 := arg ws 0, w1 := arg ws 1, w2 := arg ws 2
    args := argWords (ws.drop 8) (reqLen (arg ws 1)) }

/-- A request from this mailbox or port is accepted and not complete. -/
def srcBusy (s : State) (src : ReqSrc) : Bool :=
  s.sceuf.accepted.any (fun r => r.src == src) || (match s.sceuf.forward with
    | some f => f.req.src == src
    | none => false)

/-- The header words of a response (Table 12.4); `rlen` counts its bytes. Reserved bits read 0. -/
def respHeader (s : State) (r : Req) (status detail rlen : Nat) : List Word :=
  [setFld r.w0 24 8 0, packW [(0, 28, fld r.w1 0 28), (32, 16, status), (48, 4, s.dev.mode.code)],
    packW [(0, 32, fld r.w2 0 32), (32, 12, rlen)], BitVec.ofNat 64 detail, 0, 0, 0, 0]

/-- The kept responses of a session are the last 16 (R350). -/
def keepResp (s : State) (r : Req) (msg : List Word) : State :=
  let sess := reqSession r
  let mine := s.sceuf.kept.filter fun k => k.1 == sess
  let others := s.sceuf.kept.filter fun k => k.1 != sess
  let next := mine ++ [(sess, reqTag r, msg)]
  { s with sceuf := { s.sceuf with kept := others ++ next.drop (next.length - 16) } }

/-- A response message goes out on a fabric mailbox or the management port (R349, R350). -/
def sendMsg (s : State) (src : ReqSrc) (peer : BitVec 32) (msg : List Word) : State :=
  match src with
  | .host _ => s
  | .fabric n =>
    let m := match msg with
      | a :: b :: rest => a :: setFlag b 1 true :: rest
      | l => l
    originateMgmt s (frameTo s 7 0 7 peer.toNat 0 0 false (BitVec.ofNat 64 n.val) (bytesOfWords m))
  | .mgmt => emit s (.datagram peer 49320 msg)

/-- A session by its id, bound to the transport of a request (R352). -/
def sessionOf (s : State) (r : Req) : Option Session :=
  let kind := match r.src with
    | .host _ => 0
    | .fabric _ => 1
    | .mgmt => 2
  s.sceuf.sessions.find? fun x => x.id == reqSession r && x.kind == kind && (kind == 0 || x.peer == r.peer)

/-- A command completes (R346, R349, R350): its response goes back, and IRQ signals the mailbox's vector. -/
def respond (s : State) (r : Req) (status detail : Nat) (resp : List Word) : State :=
  let hdr := respHeader s r status detail (8 * resp.length)
  match r.src with
  | .host n =>
    let a := 4096 * n.val
    let cleared := s.host.bar2.filter fun e => !(decide (a ≤ e.1) && decide (e.1 < a + 4096))
    let m := memWrite cleared a (bytesOfWords (hdr ++ resp))
    let s1 := { s with host := { s.host with bar2 := m } }
    if flag r.w1 0 then msix s1 n.val else s1
  | src =>
    let s1 := if (sessionOf s r).isSome then keepResp s r (hdr ++ resp) else s
    sendMsg s1 src r.peer (hdr ++ resp)

/-- The lowest and the highest Sceuf version that a status word names (Table 12.5). -/
def versionDetail (lo hi : Nat) : Nat := lo + 256 * hi

/-- The first check of R357: the session is known and bound to the transport, and VER is its major (R352). OPEN_SESSION has none. -/
def sessionCheck (s : State) (r : Req) : Option (Status × Nat) :=
  if reqCmd r = 1 then none
  else
    match sessionOf s r with
    | none => some (.denied, 0)
    | some x => if reqVer r = x.major then none else some (.badVersion, versionDetail x.major x.major)

/-- The command codes of Table 12.9. -/
def cmdKnown (c : Nat) : Bool :=
  let n := match c / 256 with
    | 0 => 6
    | 1 => 0x14
    | 2 => 4
    | 3 => 6
    | 4 => 7
    | 5 => 5
    | 6 => 2
    | 7 => 6
    | 8 => 5
    | _ => 0
  decide (1 ≤ c % 256) && decide (c % 256 ≤ n)

/-- Families that a fabric mailbox carries (R351). -/
def fabricCarries (c : Nat) : Bool :=
  [0, 1, 5, 7].contains (c / 256) && c != 0x0703 && c != 0x0705

/-- The command arrived by a fabric mailbox. -/
def byFabric (r : Req) : Bool := match r.src with
  | .fabric _ => true
  | _ => false

/-- The place of a transport among the requests of one PCLK cycle (R347): host mailboxes, fabric mailboxes, the management port. -/
def srcRank : ReqSrc → Nat
  | .host n => n.val
  | .fabric n => 64 + n.val
  | .mgmt => 80

/-- A request takes its place in the order of acceptance (R347): behind all of earlier PCLK cycles, and within its own by transport. -/
def insertReq (r : Req) (l : List Req) : List Req :=
  let after := fun x : Req => x.cycle == r.cycle && decide (srcRank r.src < srcRank x.src)
  l.filter (fun x => !after x) ++ r :: l.filter after

/-- A request is accepted (R347). A code that Table 12.9 does not list is answered at once, DENIED where a fabric mailbox does not
carry it (R351; assumption 50). -/
def acceptReq (s : State) (r : Req) : State :=
  if cmdKnown (reqCmd r) then
    { s with sceuf := { s.sceuf with accepted := insertReq { r with at_ := nowNs s, cycle := s.clk.ticks / 8 } s.sceuf.accepted } }
  else
    let (st, d) := (sessionCheck s r).getD (if byFabric r && !fabricCarries (reqCmd r) then .denied else .badArg, 0)
    respond s r st.code d []

/-- The kept response to a repeated TAG (R350). -/
def keptResp (s : State) (r : Req) : Option (List Word) :=
  match sessionOf s r with
  | none => none
  | some _ => (s.sceuf.kept.find? fun k => k.1 == reqSession r && k.2.1 == reqTag r).map (·.2.2)

/-- DOORBELL (R346): firmware latches host mailbox n and sets it BUSY; a BUSY mailbox ignores the doorbell. -/
def doorbell (v : Word) (s : State) : State :=
  let n := v.toNat % 64
  if !mailServed s then s
  else if mboxStatus s n == 0x8001 then count s .doorbellIgnored
  else
    let ws := memWords s.host.bar2 (4096 * n) 512
    let busy := memWrite s.host.bar2 (4096 * n + 12) (bytesOfNat 0x8001 2)
    acceptReq { s with host := { s.host with bar2 := busy } } (reqOf (.host (Fin.ofNat 64 n)) 0 ws)

/-- MGMT_DATAGRAM (R350): a request on the management port, at the address that DHCPv4 gave. -/
def mgmtDatagram (peer : BitVec 32) (msg : List Word) (s : State) : State :=
  if !mailServed s || s.sceuf.ipv4.isNone then s
  else
    let r := reqOf .mgmt peer msg
    match keptResp s r with
    | some m => sendMsg s .mgmt peer m
    | none => acceptReq s r

/-- DHCPV4_REPLY (R350): the module's management address. -/
def dhcpv4Reply (a : BitVec 32) (s : State) : State :=
  when (mailServed s) s { s with sceuf := { s.sceuf with ipv4 := some a } }

def execDoorbell (v : Word) (s : State) := ok (doorbell v s)
def execMgmtDatagram (peer : BitVec 32) (msg : List Word) (s : State) := ok (mgmtDatagram peer msg s)
def execDhcpv4Reply (a : BitVec 32) (s : State) := ok (dhcpv4Reply a s)

end Sys2Proof.Machine
end

