-- ==== Sys2Proof/Machine/Debug.lean ====
section
/-! DEFINITION. SPDM, JTAG, and the ends of debug scopes and nonces (15 R432-R434, R439-R442). -/

namespace Sys2Proof.Machine

/-- Measurement k of Table 15.2. -/
def measurementOf (s : State) (k : Nat) : BitVec 384 :=
  match k with
  | 1 => s.sec.m1
  | 2 => s.sec.m2
  | 3 => s.sec.m3
  | 4 => s.sec.m4
  | _ => s.sec.m5

/-- The five measurements. -/
def measurements (s : State) : List (BitVec 384) := (List.range 5).map fun k => measurementOf s (k + 1)

/-- The certificate chain of slot 0 (R433). -/
def certChain (s : State) : List Byte := Config.aliasChain s.sec.m2 s.sec.m3

/-- The code byte of an SPDM request (DMTF SPDM; assumption 12). -/
def spdmCode : SpdmRequest → Byte
  | .getVersion => 0x84
  | .getCapabilities => 0xE1
  | .negotiateAlgorithms => 0xE3
  | .getDigests => 0x81
  | .getCertificate _ _ _ => 0x82
  | .challenge _ _ => 0x83
  | .getMeasurements _ _ => 0xE0
  | .other c => c

/-- The operand bytes of an SPDM request. -/
def spdmOperands : SpdmRequest → List Byte
  | .getCertificate slot off len => bytesOfNat slot 1 ++ bytesOfNat off 2 ++ bytesOfNat len 2
  | .challenge slot nonce => bytesOfNat slot 1 ++ bytesOfNat nonce.toNat 32
  | .getMeasurements idx nonce => bytesOfNat idx 1 ++ bytesOfNat nonce.toNat 32
  | _ => []

/-- An ERROR response: version, 0x7F, code and data. -/
def spdmError (version code data : Byte) : List Byte := [version, 0x7F, code, data]

/-- The exchange on a path, if one has begun. -/
def spdmEx (s : State) (path : SpdmPath) : SpdmEx :=
  (s.sec.spdm.find? fun x => x.path == path).getD { path := path, stage := 0, version := 0x10, log := [] }

/-- How far the exchange on a path has come: 1 after GET_VERSION, 2 after GET_CAPABILITIES, 3 after NEGOTIATE_ALGORITHMS. -/
def spdmStage (s : State) (path : SpdmPath) : Nat := (spdmEx s path).stage

/-- The state with the exchange on its path put down. -/
def putSpdm (s : State) (x : SpdmEx) : State :=
  { s with sec := { s.sec with spdm := s.sec.spdm.filter (fun y => y.path != x.path) ++ [x] } }

/-- The version of a request suits its exchange (R434): 1.0 for GET_VERSION, then 1.2 or 1.3, the same throughout. -/
def spdmVersionOk (x : SpdmEx) (version : Byte) (r : SpdmRequest) : Bool :=
  match r with
  | .getVersion => version == 0x10
  | .getCapabilities => version == 0x12 || version == 0x13
  | _ => version == x.version

/-- Bytes of a response that the spec does not give (assumption 12). -/
def spdmOpen (k n : Nat) : List Byte := bytesOfNat (Config.openValue 12 [k]) n

/-- VERSION: 1.2 and 1.3 (R434). -/
def spdmVersions : List Byte := [0x10, 0x04, 0, 0, 0, 2, 0x00, 0x12, 0x00, 0x13]

/-- CAPABILITIES: CERT_CAP, CHAL_CAP and MEAS_CAP with signature, and no other (R434). -/
def spdmCapabilities (version : Byte) : List Byte := [version, 0x61, 0, 0, 0] ++ spdmOpen 0 1 ++ [0, 0, 0x16, 0, 0, 0] ++ spdmOpen 1 8

/-- ALGORITHMS: SHA-384 for measurements, ECDSA P-384, SHA-384 (R434). -/
def spdmAlgorithms (version : Byte) : List Byte :=
  [version, 0x63, 0, 0, 36, 0, 1, 0, 4, 0, 0, 0, 0x80, 0, 0, 0, 2, 0, 0, 0] ++ List.replicate 16 0

/-- The stage that a request needs, and the stage that it leads to. -/
def spdmNeeds : SpdmRequest → Nat × Nat
  | .getVersion => (0, 1)
  | .getCapabilities => (1, 2)
  | .negotiateAlgorithms => (2, 3)
  | _ => (3, 3)

/-- Certificate slots other than 0 are not offered. -/
def spdmSlotBad : SpdmRequest → Bool
  | .getCertificate slot _ _ => slot != 0
  | .challenge slot _ => slot != 0
  | _ => false

/-- A CHALLENGE_AUTH or a MEASUREMENTS response is signed by the Alias key over the transcript (R434). -/
def spdmSigned : SpdmRequest → Bool
  | .challenge _ _ => true
  | .getMeasurements _ _ => true
  | _ => false

/-- The response to a request in order, over the measurements as they stand (R434). -/
def spdmResponse (s : State) (version : Byte) (r : SpdmRequest) (log : List Byte) : List Byte :=
  let body := Config.spdmBody (spdmCode r) (version :: spdmOperands r) (measurements s)
  match r with
  | .getVersion => spdmVersions
  | .getCapabilities => spdmCapabilities version
  | .negotiateAlgorithms => spdmAlgorithms version
  | .getDigests => body ++ bytesOfNat (Config.sha384 (certChain s)).toNat 48
  | .getCertificate _ off len => body ++ ((certChain s).drop off).take len
  | .challenge _ _ => body ++ Config.aliasSign s.sec.m2 s.sec.m3 (Config.sha384 (log ++ body))
  | .getMeasurements _ _ => body ++ Config.aliasSign s.sec.m2 s.sec.m3 (Config.sha384 (log ++ body))
  | _ => body

/-- A request that SPDM does not offer here. -/
def spdmUnknown : SpdmRequest → Bool
  | .other _ => true
  | _ => false

/-- A request is served (R434): an exchange begins with GET_VERSION, and each path has its own. -/
def spdmServe (path : SpdmPath) (version : Byte) (r : SpdmRequest) (s : State) : State :=
  let x := spdmEx s path
  let (need, next) := spdmNeeds r
  if spdmUnknown r then emit s (.spdm path (spdmError x.version 0x07 (spdmCode r)))
  else if x.stage < need then emit s (.spdm path (spdmError x.version 0x04 0))
  else if !spdmVersionOk x version r then emit s (.spdm path (spdmError x.version 0x41 0))
  else if spdmSlotBad r then emit s (.spdm path (spdmError x.version 0x01 0))
  else
    let log := (if need = 0 then [] else x.log) ++ version :: spdmCode r :: spdmOperands r
    let resp := spdmResponse s version r log
    let log' := if spdmSigned r then [] else log ++ resp
    emit (putSpdm s { path := path, stage := next, version := version, log := log' }) (.spdm path resp)

/-- The requests that waited for a Sceuf command are served when it has ended (R434). -/
def serveWaiting (s : State) : State :=
  s.sec.spdmWait.foldl (fun t e => spdmServe e.1 e.2.1 e.2.2 t) { s with sec := { s.sec with spdmWait := [] } }

/-- SPDM_REQUEST (R434): from AUX onward, also frozen and in SAFE; one that comes while a Sceuf command runs waits for its end. -/
def spdmRequest (path : SpdmPath) (version : Byte) (r : SpdmRequest) (s : State) : State :=
  let heard := match path with
    | .doe => true
    | .udp _ => s.sceuf.ipv4.isSome
  if !fwRuns s || !heard then s
  else if s.sceuf.forward.isSome then { s with sec := { s.sec with spdmWait := s.sec.spdmWait ++ [(path, version, r)] } }
  else spdmServe path version r s

/-- The debug scope JTAG_PRIVATE is unlocked. -/
def scopeJtag (s : State) : Bool := flag s.sec.scopes 2

/-- JTAG_INSTRUCTION (R442): a private one without JTAG_PRIVATE decodes as BYPASS. -/
def jtagInstruction (ir : JtagIr) (s : State) : State :=
  let ir' := match ir with
    | .priv c => if scopeJtag s then .priv c else .bypass
    | i => i
  when (auxOn s) s { s with sec := { s.sec with jtag := ir', jtagEnded := false } }

/-- What scan and READOUT read of a stopped module (14 R417): stores, comb, reduction memory, tables and registers. -/
def scanHeld (s : State) := (s.fab, s.comb, s.ports, s.su, s.coll, s.hbm.regions, s.fgr, s.comp, s.job)

/-- Bit k that a private instruction shifts out of the scan chains of a stopped module (14 R417, R441): zeros once its scope has ended. -/
def jtagShift (s : State) (k : Nat) : Bool :=
  match s.sec.jtag with
  | .priv c => scopeJtag s && !s.sec.jtagEnded && (s.dev.mode == .frozen || s.dev.mode == .safe) &&
      (Config.scanWord (scanHeld s) (c + 2) (k / 64)).getLsbD (k % 64)
  | _ => false

/-- PCLK cycles in so many seconds, and those since AUX (14 R398). -/
def pclkCycles (seconds : Nat) : Nat := seconds * 600000000
def pclkNow (s : State) : Nat := s.clk.ticks / 8

/-- The scopes in force change (R441): a private instruction in progress whose scope ends shifts zeros from then on. -/
def setScopes (s : State) (scopes : BitVec 4) (scopeEnd : Option Nat) : State :=
  let lost := !flag scopes 2 && (match s.sec.jtag with
    | .priv _ => true
    | _ => false)
  { s with sec := { s.sec with scopes := scopes, scopeEnd := scopeEnd, jtagEnded := s.sec.jtagEnded || lost } }

/-- DEBUG_SCOPE_EXPIRY (R441): DURATION is counted in PCLK cycles. -/
def debugScopeExpiry (s : State) : State :=
  match s.sec.scopeEnd with
  | some t => when (decide (t ≤ pclkNow s)) s (setScopes s 0 none)
  | none => s

/-- NONCE_EXPIRY (R439): 60 s after issue. -/
def nonceExpiry (s : State) : State :=
  match s.sec.nonce with
  | some n => when (decide (n.2 + 60000000000 ≤ nowNs s)) s { s with sec := { s.sec with nonce := none } }
  | none => s

def execSpdmRequest (path : SpdmPath) (m : SpdmMsg) (s : State) := ok (spdmRequest path m.version m.request s)
def execJtagInstruction (ir : JtagIr) (s : State) := ok (jtagInstruction ir s)
def execDebugScopeExpiry (s : State) := ok (debugScopeExpiry s)
def execNonceExpiry (s : State) := ok (nonceExpiry s)

end Sys2Proof.Machine
end

