-- ==== Sys2Proof/Machine/Frames.lean ====
section
/-! DEFINITION. Frames at their local targets (08 Table 8.2): memory writes and reads, acknowledgements, events and
fabric mailboxes (11 R324, R333, R334, R336; 05 R148; 12 R349). A row takes a frame that has been delivered. -/

namespace Sys2Proof.Machine

/-- A delivered frame of op n is taken from where it waits for its target. -/
def takeLocal (s : State) (f : Frame) (n : Nat) : Option State :=
  if frmOp f == n && s.comb.localIn.contains f then
    some { s with comb := { s.comb with localIn := eraseFirst (fun x => x == f) s.comb.localIn } }
  else none

/-- The number by which the collective engine names itself where a frame names a forager (assumption 19). -/
def engineNo : Nat := 320

/-- The final EID that DEST of a frame on a circuit carries where the circuit ends on several modules, or the sender knows none (Table
8.1): the spec gives it no value, and no unit reads it (assumption 126). -/
def circuitEnd (id : Nat) : Nat := Config.openValue 126 [id] % 65536

/-- The forager that a request frame names (assumption 19): CFID[8:0], or SEQ[31:23] on a circuit. -/
def requester (f : Frame) : Nat := if frmDtype f == 2 then frmSeq f / 2 ^ 23 else frmCfid f % 512

/-- A frame that a compute die sends, through its internal ports in rotation (R313). -/
def originateDie (s : State) (d turn : Nat) (f : Frame) : State :=
  let p := 64 + 4 * (d % 4) + turn % 4
  originate s p (8 * p + frmCls f) 0 f

/-- A semaphore after a forager's signal; past 65,535 the spec gives no value (assumption 36). -/
def semSum (v amt : Nat) : Nat := if v + amt ≤ 65535 then v + amt else Config.openValue 36 [v, amt] % 65536

/-- A signal of a channel takes effect (R336): a semaphore of a cluster of its die, or an event frame to a rank. -/
def foragerSignalNow (s : State) (ch : Nat) (w0 : Word) : State :=
  let c := chanOf s ch
  if flag w0 4 then
    match rankEid s c.pkey (fld w0 28 15) with
    | none => s
    | some e =>
      let f := mkFrame (fld w0 43 3) c.pkey 0 6 e s.dev.eid.toNat ch (stepField s c.pkey) c.seq.toNat false 0
        (bytesOfNat (fld w0 24 4) 8)
      originateForager (modChan s ch fun x => { x with seq := x.seq + 1 }) ch c.seq.toNat f
  else
    modQueen s (fld w0 19 5) fun q =>
      { q with sem := tblSet 0 q.sem (fld w0 5 6) (semSum (tblGet 0 q.sem (fld w0 5 6)) (fld w0 11 8)) }

/-- A write of a channel to its own module has taken effect: the signals that waited for it go on in order (R336). -/
def ownWriteDone (s : State) (ch seq : Nat) : State :=
  let c := chanOf s ch
  if !c.ownWrites.contains seq then s
  else
    let sigs := c.signals.map fun e => (e.1.filter (· != seq), e.2)
    let s1 := modChan s ch fun x => { x with
      ownWrites := eraseFirst (· == seq) x.ownWrites, signals := sigs.filter fun e => !e.1.isEmpty }
    (sigs.filter fun e => e.1.isEmpty).foldl (fun t e => foragerSignalNow t ch e.2) s1

/-- REPLICA takes in the words that the collective engine's result writes put into the module (13 R382). -/
def replicaWrite (s : State) (key : Nat) (ws : List Word) : State :=
  modStep s fun st => { st with replica := digestWords st.replica key ws }

/-- The acknowledgement of a write goes back to its source (Table 8.2). -/
def ackWrite (s : State) (f : Frame) : State :=
  let a := BitVec.ofNat 64 (requester f + frmSeq f * 2 ^ 32)
  let g := mkFrame (frmCls f) (frmPkey f) 0 2 (frmSrc f) s.dev.eid.toNat (frmCfid f % 4096) (stepField s (frmPkey f)) (frmSeq f)
    false a []
  let d := dieOfAddr s f.w3.toNat
  let g := if frmCls f == 6 then { g with w0 := setFld g.w0 8 3 5 } else g
  let g := { g with crc := frameCrc g }
  if d < 4 then originateDie s d (frmSeq f) g else originateMgmt s g

/-- What an MWRITE meets (R324): its job's next step (held until the commit), a stale step, or nothing. -/
inductive WriteStep where
  | held | stale | now
deriving DecidableEq, Repr, Inhabited

/-- Comparison of STEP with the running launch's step (R324, R26); a host access of key 0 is never compared. -/
def writeStep (s : State) (f : Frame) : WriteStep :=
  match stepOf s (frmPkey f) with
  | none => .now
  | some st =>
    if frmPkey f == 0 then .now
    else if frmStep f == (st.seq + 1) % 65536 then .held
    else if frmStep f != st.seq % 65536 || st.committing then .stale
    else .now

/-- The write of an MWRITE whose address exists: HBM, a store, or an issue record (11 R321, R322; 09 R277). -/
def applyWrite (s : State) (f : Frame) : State :=
  let a := f.w3.toNat
  let ownEngine := frmSrc f == s.dev.eid.toNat && requester f == engineNo && frmDtype f == 0
  let s1 :=
    if nfld a 40 3 = 3 then { s with coll := { s.coll with queue := s.coll.queue ++ [ofWords 320 (wordsOfBytes f.payload 5)] } }
    else spaceWrite s a f.payload
  let s2 := if ownEngine then replicaWrite s1 a (wordsOfBytes f.payload (ceilDiv f.payload.length 8)) else s1
  let s3 := if frmSrc f == s.dev.eid.toNat && requester f < 320 then ownWriteDone s2 (requester f) (frmSeq f) else s2
  if frmAckreq f then ackWrite s3 f else s3

/-- A result of the module's own engine that no operation awaits any more (09 R290). -/
def abandoned (s : State) (f : Frame) : Bool :=
  frmSrc f == s.dev.eid.toNat && requester f == engineNo && frmDtype f == 0 && !s.coll.ops.any fun o => o.acks.contains (frmSeq f)

/-- MWRITE (R324). A write to an address that does not exist is dropped (assumption 20). -/
def mwrite (f : Frame) (s : State) : State :=
  match takeLocal s f 1 with
  | none => s
  | some s1 =>
    if !clocksRun s then s
    else
      match writeStep s f with
      | .held => s
      | .stale => count s1 .memStale
      | .now =>
        if abandoned s f || attemptGone s (frmPkey f) then s1
        else if addrFault s f.w3.toNat f.payload.length != 0 then s1
        else if metaBad s f.w3.toNat f.payload.length then safeEntry s1 .metadata f.w3.toNat
        else applyWrite (metaFix s1 f.w3.toNat f.payload.length) f

/-- MWACK (R334, 09 R288): the acknowledgement reaches the forager or the collective engine that asked. -/
def mwack (f : Frame) (s : State) : State :=
  match takeLocal s f 2 with
  | none => s
  | some s1 =>
    let who := fld f.w3 0 9
    let seq := fld f.w3 32 32
    if !clocksRun s then s
    else if who < 320 then modChan s1 who fun c => { c with acks := eraseFirst (· == seq) c.acks }
    else if who = engineNo then
      { s1 with coll := { s1.coll with ops := s1.coll.ops.map fun o => { o with acks := eraseFirst (· == seq) o.acks } } }
    else s1

/-- The MRDATA frames that answer a read (R333): at most 4,096 bytes each, in order. -/
def answerRead (s : State) (f : Frame) (bs : List Byte) : State :=
  let ch := requester f
  let cls := if frmCls f == 6 then 5 else frmCls f
  let d := dieOfAddr s f.w3.toNat
  (chunksOf 4096 (bs.length / 4096 + 1) bs).foldl (fun t b =>
    originateDie t d (frmSeq f) (mkFrame cls (frmPkey f) 0 4 (frmSrc f) s.dev.eid.toNat (frmCfid f) (stepField s (frmPkey f))
      (frmSeq f) false (BitVec.ofNat 64 ch) b)) s

/-- A double-bit error met by a read of n bytes (Table 11.2, 04 R109): poison for a read in a step; outside one the channel that read
enters FAULT. -/
def readFailed (s : State) (a n : Nat) (ch : Option Nat) (inStep : Bool) : State :=
  let hbm := nfld a 40 3 == 0
  if inStep then (if hbm then stepHbmDbe s (hbmDbes s (nfld a 0 40) n) else raisePoison s .storeDbe)
  else
    match ch with
    | some c => modChan s c fun x => { x with st := .fault, cause := 5 }
    | none => s

/-- MREAD (R333): the owner reads and answers; a BAR4 access is answered to the host, and the data of a HOST_COPY (CFID 1, assumption 21)
are written to host memory, held while bus mastering is off (14 R406). -/
def mread (f : Frame) (s : State) : State :=
  match takeLocal s f 3 with
  | none => s
  | some s1 =>
    let a := f.w3.toNat
    let n := fld ((wordsOfBytes f.payload 1).getD 0 0) 0 32
    let host := frmPkey f == 0 && frmCls f == 1
    if !clocksRun s then s
    else if addrFault s a n != 0 || nfld a 40 3 == 3 then s1
    else if metaBad s a n then safeEntry s1 .metadata a
    else
      match spaceRead (metaFix s1 a n) a n with
      | (none, s2) =>
        let own := if frmSrc f == s.dev.eid.toNat && !host && requester f < 320 then some (requester f) else none
        readFailed s2 a n own ((stepOf s (frmPkey f)).isSome && own.all fun c => (chanOf s c).bound)
      | (some bs, s2) =>
        if !host then answerRead s2 f bs
        else if frmCfid f == 1 then
          (if s.host.busMaster then emit s2 (.hostWrite ((wordsOfBytes f.payload 2).getD 1 0) bs) else s)
        else emit s2 (.hostRead bs)

/-- Where a channel reaches an address of its own module: directly on its own die, else by frames to its own EID (R313, R329). -/
def ownDie (s : State) (ch a : Nat) : Bool := ch < 256 && dieOfAddr s a == ch / 64

/-- The channel's MWRITE frames for bytes at a destination (R333): at most 4,096 B, none across a 4 KiB boundary. -/
def writeFrames (s : State) (ch eid dst cls : Nat) (circ : Option Nat) (dfix ack high : Bool) : List Byte → Nat → State
  | _, 0 => s
  | [], _ => s
  | bs, fuel + 1 =>
    let k := if dfix then (if nfld dst 40 3 = 3 then 40 else 8) else 4096 - dst % 4096
    let c := chanOf s ch
    let seq := (if circ.isSome then ch * 2 ^ 23 + c.seq.toNat % 2 ^ 23 else c.seq.toNat)
    let f := mkFrame (if circ.isSome then 6 else cls) c.pkey (if circ.isSome then 2 else 0) 1 eid s.dev.eid.toNat (circ.getD ch)
      (stepField s c.pkey) seq ack (BitVec.ofNat 64 dst) (bs.take k)
    let own := eid == s.dev.eid.toNat
    let s1 := modChan s ch fun x => { x with
      seq := x.seq + 1
      acks := if ack then x.acks ++ [seq] else x.acks
      ownWrites := if own then x.ownWrites ++ [seq] else x.ownWrites }
    let s2 := match circ with
      | some id =>
        let ing := fld (tblGet 0 s.fab.circuits id) 0 7
        originate s1 (if 64 ≤ ing && ing ≤ 79 then ing else if ch < 256 then 64 + 4 * (ch / 64) else 113) (680 + ch)
          (if ch < 256 then 0 else ch - 256) f high
      | none => originateForager s1 ch c.seq.toNat f high
    writeFrames s2 ch eid (if dfix then dst else dst + k) cls circ dfix ack high (bs.drop k) fuel

/-- Bytes written by a channel where they go: at once on its own die, else by frames. -/
def channelWrite (s : State) (ch : Nat) (r : FRead) (bs : List Byte) : State :=
  match r.eid with
  | some e => writeFrames s ch e r.dst r.cls r.circ r.dfix r.ack r.high bs (bs.length / 8 + 2)
  | none =>
    if r.dfix then (chunksOf 8 (bs.length / 8 + 1) bs).foldl (fun t b => spaceWrite t r.dst b) s
    else spaceWrite s r.dst bs

/-- MRDATA for a forager (R333): the data go to the destination of the read that asked for them. -/
def chanData (f : Frame) (s : State) : State :=
  match takeLocal s f 4 with
  | none => s
  | some s1 =>
    let ch := fld f.w3 0 9
    if !unitsRun s then s
    else if (chanOf s1 ch).idxRead == some (frmSeq f) then
      modChan s1 ch fun c => { c with idxRead := none, idxVal := some (natOfBytes (f.payload.take 4)), moveSince := none }
    else
      match (chanOf s1 ch).reads.find? fun r => r.seq == frmSeq f with
      | none => s1
      | some r =>
        let n := min f.payload.length r.left
        let s2 := channelWrite s1 ch r (List.replicate r.copies (f.payload.take n)).flatten
        let r' := { r with left := r.left - n, dst := if r.dfix then r.dst else r.dst + n }
        modChan s2 ch fun c =>
          let rs := if r'.left = 0 then c.reads.filter (fun x => x.seq != r.seq)
            else modWhere (fun x => x.seq == r.seq) (fun _ => r') c.reads
          { c with reads := rs, moveSince := if rs.isEmpty then some (logicNs s) else c.moveSince }

/-- EVENT (05 R148): EVT[n], n from 1 to 15, is set in every queen of the module. -/
def event (f : Frame) (s : State) : State :=
  match takeLocal s f 6 with
  | none => s
  | some s1 =>
    let n := fld ((wordsOfBytes f.payload 1).getD 0 0) 0 4
    if !clocksRun s then s
    else if n = 0 then s1
    else (maskClusters s1 0xFFFFFFFF).foldl (fun t q => modQueen t q fun x => { x with evt := x.evt ||| BitVec.ofNat 16 (2 ^ n) }) s1

/-- The message words of an MBOX frame. -/
def mboxWords (f : Frame) : List Word := wordsOfBytes f.payload (ceilDiv f.payload.length 8)

/-- An MBOX frame has the form of R349: DTYPE 0 or 3, TC7, key 0. -/
def mboxForm (f : Frame) : Bool := (frmDtype f == 0 || frmDtype f == 3) && frmCls f == 7 && frmPkey f == 0

/-- MBOX (12 R349, R350): a request reaches a fabric mailbox; a BUSY one answers NO_RESOURCE at once. -/
def mbox (f : Frame) (s : State) : State :=
  match takeLocal s f 7 with
  | none => s
  | some s1 =>
    let n := f.w3.toNat
    let ws := mboxWords f
    if !fwRuns s || flag (arg ws 1) 1 then s
    else if !mboxForm f then s1
    else if 16 ≤ n then s1
    else
      let src := ReqSrc.fabric (Fin.ofNat 16 n)
      let r := reqOf src (BitVec.ofNat 32 (frmSrc f)) ws
      match keptResp s1 r with
      | some m => sendMsg s1 src r.peer m
      | none =>
        if srcBusy s1 src then sendMsg s1 src r.peer (respHeader s1 r Status.noResource.code 0 0)
        else acceptReq s1 r

/-- A FORWARD completes (R349): with the remote response, or with TIMEOUT. A response that a mailbox does not hold is cut
(assumption 53). -/
def endForward (s : State) (fw : Fwd) (st : Status) (detail : Nat) (resp : List Word) : State :=
  serveWaiting (respond { s with sceuf := { s.sceuf with forward := none } } fw.req st.code detail (resp.take 504))

/-- A frame answers the FORWARD that waits (R349): its mailbox, the inner TAG, and its source. -/
def answersForward (s : State) (fw : Fwd) (f : Frame) : Bool :=
  let nb := (portOf s fw.target).nbW1
  f.w3.toNat == fw.mailbox && fld (arg (mboxWords f) 0) 32 32 == fld (arg fw.req.args 2) 32 32 &&
    (if fw.viaPort then !flag nb 48 || frmSrc f == fld nb 0 16 else frmSrc f == fw.target)

/-- MBOX_RESPONSE (R349): a response with RESP set completes the FORWARD that waits for it. -/
def mboxResponse (f : Frame) (s : State) : State :=
  match takeLocal s f 7 with
  | none => s
  | some s1 =>
    let ws := mboxWords f
    if !fwRuns s || !flag (arg ws 1) 1 then s
    else if !mboxForm f then s1
    else
      match s1.sceuf.forward with
      | none => s1
      | some fw =>
        if answersForward s1 fw f then endForward s1 fw .ok 0 ws else s1

/-- FORWARD_TIMEOUT (R349): 10 ms without a response. -/
def forwardTimeout (s : State) : State :=
  match s.sceuf.forward with
  | none => s
  | some fw =>
    if !fwRuns s || nowNs s < fw.sentAt + 10000000 then s
    else endForward s fw .timeout (nowNs s - fw.sentAt) []

def execMwrite (f : Frame) (s : State) := ok (mwrite f s)
def execMwack (f : Frame) (s : State) := ok (mwack f s)
def execMread (f : Frame) (s : State) := ok (mread f s)
def execEvent (f : Frame) (s : State) := ok (event f s)
def execMbox (f : Frame) (s : State) := ok (mbox f s)
def execMboxResponse (f : Frame) (s : State) := ok (mboxResponse f s)
def execForwardTimeout (s : State) := ok (forwardTimeout s)

end Sys2Proof.Machine
end

