-- ==== Sys2Proof/Machine/Steps.lean ====
section
/-! DEFINITION. Steps, votes, releases, digests, replays and the records of a launch (13 R372-R385; 01 R26-R32;
12 R361-R367; 05 R149-R151; 11 R338; 09 R286). -/

namespace Sys2Proof.Machine

/-- FULL with the staged token record taken in (R382): SAMPLE, LAUNCH_ID and S; its TIME is not known before the
commit, and word 3 counts as an open value (assumption 72). -/
def fullDigest (l : Launch) (st : Step) : Word :=
  match st.staged with
  | some x =>
    digestWords st.full (faddr 7 0 0) (toWords x 2 ++ [packW [(0, 32, l.id.toNat), (32, 32, st.seq - l.firstSeq + 1)],
      BitVec.ofNat 64 (Config.openValue 72 [l.id.toNat, st.seq])])
  | none => st.full

/-- The clusters that a launch names; one retired since the launch (04 R117) is never held and never ends (assumption 34). -/
def namedClusters (l : Launch) : List Nat := (List.range 32).filter fun q => flag l.cmask q

/-- Every cluster of the launch is held at STEPB or has completed END (R378, R151). -/
def clustersHeld (s : State) (l : Launch) : Bool :=
  (namedClusters l).all fun q => (queenOf s q).st == .held || (queenOf s q).st == .ended

/-- Every cluster of the launch has completed END (R151). -/
def clustersEnded (s : State) (l : Launch) : Bool := (namedClusters l).all fun q => (queenOf s q).st == .ended

/-- A channel waits for a commit (11 R336): it stands in WAIT at a WAIT with COND 1. -/
def atCommitWait (s : State) (ch : Nat) : Bool :=
  let c := chanOf s ch
  let w := wordAt (c.code.getD c.pc 0) 0
  c.st == .wait && fld w 0 4 == 3 && fld w 4 2 == 1

/-- Every channel started under the launch is at a WAIT with COND 1, DONE or IDLE (R378). -/
def channelsQuiet (s : State) (l : Launch) : Bool :=
  l.channels.all fun ch => let c := chanOf s ch; c.st == .done || c.st == .idle || atCommitWait s ch

/-- Every chunk and collective operation of the step is complete (R378). -/
def fabricQuiet (s : State) (l : Launch) : Bool :=
  (s.su.chunks.all fun c => !chunkOfJob s l.pkey c || c.complete) &&
    (s.coll.ops.all fun o => !(o.inStep && collKey s o.gid == l.pkey)) && (s.coll.queue.all fun r => collKey s (fld r 0 12) != l.pkey) &&
    !(s.su.queue.any fun q => frmPkey q.2 == l.pkey && frmStep q.2 == stepField s l.pkey)

/-- The step's work is complete on the module (R378). -/
def workDone (s : State) (l : Launch) : Bool := clustersHeld s l && channelsQuiet s l && fabricQuiet s l

/-- The attempt in progress can act: neither poisoned, held, voted nor committing. -/
def attemptOpen (st : Step) : Bool := st.poisoned.isNone && !st.held && !st.voted && !st.committing

/-- Words of a DIGEST payload (Table 13.5). -/
def digestPayload (s : State) (l : Launch) (kind outcome : Nat) (inv det : Bool) (rank : Nat) (safeClass : Bool)
    (status : Nat) (full replica : Word) : List Byte :=
  bytesOfWords [
    packW [(0, 4, kind), (4, 2, outcome), (6, 1, inv.toNat), (7, 1, det.toNat), (8, 12, l.pkey), (20, 15, rank),
      (35, 1, safeClass.toNat), (36, 16, status)],
    full, replica, packW [(0, 32, l.id.toNat), (32, 32, s.dev.epoch.toNat)]]

/-- Word k of a DIGEST frame's payload. -/
def digestWord (f : Frame) (k : Nat) : Word := (wordsOfBytes f.payload 4).getD k 0

/-- The comparison of the twin digests, once both are at hand (R383). -/
def twinCompare (s : State) : State :=
  match s.job.launch, s.job.step with
  | some l, some st =>
    (match st.twinSent, st.twinRx with
    | some _, some (full, argW, lid) =>
      if full == fullDigest l st && argW == BitVec.ofNat 64 st.seq && lid == l.id then
        let s1 := modStep s fun x => { x with twinMatched := true }
        { s1 with health := { s1.health with twinTimeouts := 0 } }
      else if !l.safety then count (modStep s fun x => { x with twinMatched := true }) .digestMismatch
      else if s.job.twinMiss = st.attempt && st.attempt != 0 then safeEntry s .twin 0
      else
        let s1 := { s with
          job := { s.job with twinMiss := st.attempt + 1 }
          health := { s.health with pendingMiss := s.health.pendingMiss + 1 } }
        raisePoison s1 .digestMismatch
    | _, _ => s)
  | _, _ => s

/-- The twin digest of the attempt can still go out: before the vote, and after it where the comparison gates nothing (R383). -/
def twinOpen (l : Launch) (st : Step) : Bool := attemptOpen { st with voted := st.voted && l.safety }

/-- TWIN_SEND (R383): the digest goes out on port 31 as soon as the step's work is complete. -/
def twinSend (s : State) : State :=
  match s.job.launch, s.job.step with
  | some l, some st =>
    if unitsRun s && s.health.paired && twinOpen l st && st.fail.isNone && st.twinSent.isNone && workDone s l then
      let pay := digestPayload s l 1 0 st.invalid l.det 0 false 0 (fullDigest l st) st.replica
      let f := mkFrame 7 0 3 8 31 s.dev.eid.toNat 0 (stepField s l.pkey) 0 false (BitVec.ofNat 64 st.seq) pay
      twinCompare (originateMgmt (modStep s fun x => { x with twinSent := some (logicNs s) }) f)
    else s
  | _, _ => s

/-- TWIN (R383): a twin digest arrives on port 31; it waits until the module's own has been sent. -/
def twin (f : Frame) (s : State) : State :=
  match takeLocal s f 8 with
  | none => s
  | some s1 =>
    if !clocksRun s || fld (digestWord f 0) 0 4 != 1 then s
    else if s1.job.step.isNone || !s1.health.paired || s1.job.launch.any (fun l => attemptGone s1 l.pkey) then s1
    else twinCompare (modStep s1 fun x => { x with twinRx := some (digestWord f 1, f.w3, BitVec.ofNat 32 (fld (digestWord f 3) 0 32)) })

/-- DIGEST_TIMEOUT (R383): 10 µs without a TWIN frame; after three attempts in a row the module runs unpaired. -/
def digestTimeout (s : State) : State :=
  match s.job.launch, s.job.step with
  | some l, some st =>
    (match st.twinSent with
    | some t =>
      if unitsRun s && l.safety && s.health.paired && attemptOpen st && st.twinRx.isNone && decide (t + 10000 ≤ logicNs s) then
        let n := s.health.twinTimeouts + 1
        let s1 := { s with health := { s.health with twinTimeouts := n } }
        let s2 := if 3 ≤ n then
          recomputeHealth (count { s1 with health := { s1.health with twinLost := true, paired := false, twinTimeouts := 0 } } .twinLost)
          else s1
        raisePoison s2 .digestTimeout
      else s
    | none => s)
  | _, _ => s

/-- The entry of COMMIT_RANK of a key, and REPL_EN, REPL_LOG and COMMIT_CIRCUIT (Table 13.4). -/
def commitRank (s : State) (key : Nat) : Nat := fld (windowOf s key) 31 15
def commitCircuit (s : State) (key : Nat) : Nat := fld (windowOf s key) 46 12
def replEn (s : State) (key : Nat) : Bool := flag (windowOf s key) 58
def replLog (s : State) (key : Nat) : Nat := fld (windowOf s key) 59 4
def rankCount (s : State) (key : Nat) : Nat := fld (windowOf s key) 15 16

/-- A module acts on a RELEASE for the attempt it voted for (R381, R68, R384): 0 COMMIT, 1 FAIL, 2 TRAP. -/
def actRelease (s : State) (l : Launch) (outcome status : Nat) (safeClass : Bool) (cls : Nat) : State :=
  if outcome = 0 then commitStep s
  else if outcome = 2 then endStep s .trapped { status := Status.ok.code, ecause := 7 }
  else
    let mine := match myRank s l.pkey with
      | some r => r % 2 ^ replLog s l.pkey == cls
      | none => false
    if safeClass && mine then safeEntry s .replica cls
    else
      let f := match s.job.step with
        | some st => st.fail.getD { status := status, ecause := 0 }
        | none => { status := status, ecause := 0 }
      endStep s .failed { f with status := status }

/-- The lowest mismatching class, looked for only among the classes of the votes held. -/
def lowestMismatch (vs : List Vote) (lg : Nat) : Option Nat :=
  vs.foldl (fun a v =>
    if vs.any fun w => w.rank % 2 ^ lg == v.rank % 2 ^ lg && w.replica != v.replica then
      (match a with
      | some b => some (min b (v.rank % 2 ^ lg))
      | none => some (v.rank % 2 ^ lg))
    else a) none

/-- The lowest class whose REPLICA digests differ among the votes held, where REPL_EN is set (R384). -/
def replicaClass (s : State) (key : Nat) : Option Nat :=
  if replEn s key then lowestMismatch s.job.votes (replLog s key) else none

/-- The commit rank decides the release (R380): outcome, STATUS, SAFE_CLASS and class. A mismatch that stands when every vote is held
is the second of the step in a row, and SAFE_CLASS goes with any FAIL (R384). -/
def decideRelease (s : State) (l : Launch) : Nat × Nat × Bool × Nat :=
  let vs := s.job.votes
  let cls := replicaClass s l.pkey
  match vs.find? (·.fail) with
  | some v => (1, v.status, cls.isSome, cls.getD 0)
  | none =>
    if vs.any fun v => v.det != l.det then (1, Status.stateConflict.code, cls.isSome, cls.getD 0)
    else
      match cls with
      | some c => (1, Status.ok.code, true, c)
      | none => if l.trap && vs.any (·.invalid) then (2, Status.ok.code, false, 0) else (0, Status.ok.code, false, 0)

/-- With a vote from every rank, the commit rank sends the RELEASE and acts on it (R380). -/
def tryRelease (s : State) (l : Launch) (st : Step) : State :=
  let n := rankCount s l.pkey
  if (List.range n).all fun r => s.job.votes.any fun v => v.rank == r then
    let (o, status, sc, c) := decideRelease s l
    let pay := digestPayload s l 3 o false l.det c sc status (fullDigest l st) st.replica
    let f := mkFrame 6 l.pkey 2 8 (circuitEnd (commitCircuit s l.pkey)) s.dev.eid.toNat (commitCircuit s l.pkey) (stepField s l.pkey) 0 false (BitVec.ofNat 64 st.seq) pay
    actRelease (originateMgmt s f) l o status sc c
  else s

/-- The commit rank takes a vote (R380, R384). -/
def takeVote (s : State) (l : Launch) (st : Step) (v : Vote) : State :=
  if s.job.votes.any (fun x => x.rank == v.rank) || rankCount s l.pkey ≤ v.rank then s
  else
    let s1 := { s with job := { s.job with votes := s.job.votes ++ [v] } }
    let mismatch := (replicaClass s1 l.pkey).isSome
    if mismatch && !(s.job.replicaMiss = st.attempt && st.attempt != 0) then
      let s2 := { s1 with
        job := { s1.job with votes := [], replicaMiss := st.attempt + 1 }
        health := { s1.health with pendingMiss := s1.health.pendingMiss + 1 } }
      raisePoison s2 .replicaMismatch
    else tryRelease s1 l st

/-- The conditions of a vote other than a failure's (R378). -/
def voteReady (s : State) (l : Launch) (st : Step) : Bool :=
  workDone s l && (st.authorised || l.autocommit) && (!(l.safety && s.health.paired) || st.twinMatched)

/-- VOTE_SEND (R378): once per attempt. The commit rank holds its own vote without a frame (assumption 22).
Where the commit rank has no EID no frame is sent, and the module reports BAD_ARG in its completion record (08 R237). -/
def voteSend (s : State) : State :=
  match s.job.launch, s.job.step with
  | some l, some st =>
    if unitsRun s && attemptOpen st && (st.fail.isSome || voteReady s l st) then
      let inv := stepInvalid s l
      let status := match st.fail with
        | some f => f.status
        | none => 0
      let r := (myRank s l.pkey).getD (Config.openValue 15 [l.pkey, st.seq] % 2 ^ 15)
      let s1 := modStep s fun x => { x with voted := true, invalid := inv }
      if isCommitRank s l.pkey then
        takeVote s1 l st { rank := r, fail := st.fail.isSome, invalid := inv, det := l.det, status := status, replica := st.replica }
      else
        match rankEid s l.pkey (commitRank s l.pkey) with
        | none => endStep s1 .failed (st.fail.getD { status := Status.badArg.code, ecause := 0 })
        | some e =>
          let pay := digestPayload s l 2 st.fail.isSome.toNat inv l.det r false status (fullDigest l st) st.replica
          originateMgmt s1 (mkFrame 7 0 0 8 e s.dev.eid.toNat 0 (stepField s l.pkey) 0 false (BitVec.ofNat 64 st.seq) pay)
    else s
  | _, _ => s

/-- VOTE (R380): a vote reaches the commit rank, which keeps those for the attempt in progress; one of an attempt abandoned less than
20 µs ago is dropped (assumption 67), and a module in SAFE commits nothing (R379). -/
def vote (f : Frame) (s : State) : State :=
  match takeLocal s f 8 with
  | none => s
  | some s1 =>
    let w := digestWord f 0
    let w3 := digestWord f 3
    if !clocksRun s || fld w 0 4 != 2 then s
    else
      match s1.job.launch, s1.job.step with
      | some l, some st =>
        if fld w 8 12 != l.pkey || !isCommitRank s1 l.pkey || f.w3 != BitVec.ofNat 64 st.seq || fld w3 0 32 != l.id.toNat then s1
        else if fld w3 32 32 < s1.dev.epoch.toNat then count s1 .voteStale
        else if attemptGone s1 l.pkey || st.committing || s1.dev.mode == .safe then s1
        else
          takeVote s1 l st { rank := fld w 20 15, fail := fld w 4 2 == 1, invalid := flag w 6, det := flag w 7, status := fld w 36 16, replica := digestWord f 2 }
      | _, _ => s1

/-- RELEASE (R381): for the attempt the module voted for; any other is counted RELEASE_STRAY. The commit rank's own
copy is dropped, since it has acted on the release itself. -/
def release (f : Frame) (s : State) : State :=
  match takeLocal s f 8 with
  | none => s
  | some s1 =>
    let w := digestWord f 0
    if !clocksRun s || fld w 0 4 != 3 then s
    else if frmSrc f == s.dev.eid.toNat || s.dev.mode == .safe then s1
    else
      match s1.job.launch, s1.job.step with
      | some l, some st =>
        if st.voted && !st.committing && st.poisoned.isNone && fld w 8 12 == l.pkey && f.w3 == BitVec.ofNat 64 st.seq &&
          fld (digestWord f 3) 0 32 == l.id.toNat then
          actRelease s1 l (fld w 4 2) (fld w 36 16) (flag w 35) (fld w 20 15)
        else count s1 .releaseStray
      | _, _ => count s1 .releaseStray

/-- A core at a step boundary (R149, R65): V registers, fold entries, VFLAGS and the locators are cleared. -/
def clearCore (c : Core) : Core :=
  { c with v := [], fold := [], early := [], vflags := 0, invloc0 := 0, invloc1 := 0, mtile := none }

/-- The checkpoint of a cluster (R149): PC, loops, EVT, SEM, and VCTRL, S, CX and EOP's rotation of its cores. -/
def takeCkpt (s : State) (q : Nat) : QCkpt :=
  let x := queenOf s q
  let cs := (clusterKeys q).map (coreOf s)
  { pc := x.pc, loops := x.loops, lc := x.lc, evt := x.evt, sem := x.sem
    vctrl := cs.map (·.vctrl), s := cs.map (·.s), cx := cs.map (·.cx), rot := cs.map (·.rot) }

/-- The next address after a bundle, with the open loops, innermost first, and LC (R147). -/
def nextPc (pc : Nat) (evt : BitVec 16) (lc : List (BitVec 32)) : List QLoop → Nat × List QLoop × List (BitVec 32)
  | [] => (pc + 1, [], lc)
  | lp :: outer =>
    if lp.last != pc then (pc + 1, lp :: outer, lc)
    else
      let n := (lc.getD outer.length 0).toNat - 1
      let lc' := setAt lc outer.length (BitVec.ofNat 32 n)
      if 0 < n && !(lp.x && flag evt lp.ev) then (lp.start + 1, lp :: outer, lc') else nextPc pc evt lc' outer

/-- The queen goes on past the bundle in issue. Loops are held innermost first. -/
def advanceQueen (s : State) (q : Nat) : State :=
  modQueen s q fun x =>
    let r := nextPc x.pc x.evt x.lc x.loops
    { x with pc := r.1, loops := r.2.1, lc := r.2.2, done := 0, snap := [] }

/-- Physical core of each logical core of logical cluster q (R115). -/
def coreMapOf (s : State) (q : Nat) : List Nat :=
  tblGet (List.range 16) s.comp.coreMap ((s.comp.clusters.getD q none).getD q)

/-- The core that physical core k of a cluster is: logical core 16q + i that is mapped to it, else the spare's own
state, 512 + q. -/
def physKey (s : State) (q k : Nat) : Nat :=
  match findAt (fun p => p == k) (coreMapOf s q) with
  | some i => 16 * q + i
  | none => 512 + q

/-- The bundle at a queen's PC, and whether its image addresses physical cores. -/
def bundleOf (s : State) (l : Launch) (q : Nat) : BitVec 256 × Bool :=
  match tblGet none s.comp.slots l.slot with
  | none => (0, false)
  | some sl => (sl.bundles.getD (queenOf s q).pc 0, sl.phys)

/-- The cores that the bundle at a queen's PC masks (R110, R115). -/
def bundleMask (s : State) (l : Launch) (q : Nat) : List Nat :=
  let (b, phys) := bundleOf s l q
  if phys then ((List.range 16).filter (fun i => flag b i) ++ (if flag b 63 then [16] else [])).map (physKey s q)
  else ((List.range 16).filter fun i => flag b i).map (16 * q + ·)

/-- A queen held at STEPB passes (R149): its masked cores are cleared and a checkpoint is taken past the bundle. -/
def passStepb (s : State) (l : Launch) (q : Nat) : State :=
  let s1 := (bundleMask s l q).foldl (fun t i => modCore t i clearCore) s
  let s2 := modQueen (advanceQueen s1 q) q fun x => { x with st := .run }
  let k := takeCkpt s2 q
  modQueen s2 q fun x => { x with ckpt := some k }

/-- The checkpoint of a channel (11 R338). -/
def chanCkpt (c : Chan) : FCkpt := { pc := c.pc, loops := c.loops, cur := c.cur, inc := c.inc }

/-- The next instruction of a channel (11 R335, after R147), with the loop's address adjustments before the repeat test. -/
def chanNext (pc : Nat) (cur : List Word) : List FLoop → Nat × List FLoop × List Word
  | [] => (pc + 1, [], cur)
  | lp :: outer =>
    if lp.last != pc then (pc + 1, lp :: outer, cur)
    else
      let adj := fun (c : List Word) (r : Option (Nat × Word)) => match r with
        | some (i, d) => setAt c i (c.getD i 0 + d)
        | none => c
      let cur' := adj (adj cur lp.r1) lp.r2
      if 0 < lp.remaining - 1 then (lp.start + 1, { lp with remaining := lp.remaining - 1 } :: outer, cur')
      else chanNext pc cur' outer

/-- A channel goes on past its current instruction. -/
def advanceChan (c : Chan) : Chan :=
  let r := chanNext c.pc c.cur c.loops
  { c with pc := r.1, loops := r.2.1, cur := r.2.2, st := .run, waitSince := none, moveSince := none }

/-- A channel's WAIT with COND 1 passes at a commit, and takes a checkpoint (11 R336, R338). -/
def passCommitWait (s : State) (ch : Nat) : State :=
  if atCommitWait s ch then
    modChan s ch fun c =>
      let c1 := advanceChan c
      { c1 with ckpt := if c1.bound then some (chanCkpt c1) else c1.ckpt }
  else s

/-- P values that take effect at the boundary that begins a step (R122). -/
def applyParams (s : State) (seq : Nat) : State :=
  let now := s.comp.sched.filter fun e => e.1 == seq
  let p := now.foldl (fun t e => tblSetAll 0 t e.2.1 e.2.2) s.comp.p
  { s with comp := { s.comp with p := p, sched := s.comp.sched.filter fun e => seq < e.1 } }

/-- The entries of CMAP that this module needs as member `me` of a group (09 R276, assumption 104): from its own source position to
every other node position of its block, and as a top node its result entry. -/
def cmapNeeded (w : BitVec 320) : List Nat :=
  let me := fld w 16 16
  let n := fld w 32 15 + 1
  let blk := 2 ^ fld w 78 3
  if n ≤ me then []
  else
    let i := me % blk
    (((List.range (min blk (n - (me - i)))).filter (· != i)).map (32 * i + ·)) ++ (if me < blk then [1024 + i] else [])

/-- What a read of a word of MLIST or CMAP comes to (R312, R316, R325): the word; none, with the state, where the engine stops there. -/
def tableRead (s : State) (a n : Nat) (inStep : Bool) (bad : State → State) : Option Nat × State :=
  if hbmBytes s < a + n then (none, bad s)
  else if metaBad s a n then (none, safeEntry s .metadata a)
  else
    match hbmRead (metaFix s a n) a n with
    | (some bs, s1) => (some (natOfBytes bs), s1)
    | (none, s1) => (none, readFailed s1 a n none inStep)

/-- A program fault of the collective engine in a step (R312). -/
def engineFault (a : Nat) (s : State) : State := failStep s { status := Status.badArg.code, ecause := 2, addr := a }

/-- A word of CMAP as the choice of an algorithm reads it. -/
def cmapRead (s : State) (w : BitVec 320) (k : Nat) (inStep : Bool) : Option Nat × State :=
  let a := fld w 192 64 + 2 * k
  tableRead s a 2 inStep (if inStep then engineFault a else id)

/-- The entries of CMAP that a group needs are good: VALID, each with a circuit that is VALID (Table 9.5). -/
def circuitsThere (w : BitVec 320) (inStep : Bool) : List Nat → State → Bool × State
  | [], s => (true, s)
  | k :: r, s =>
    match cmapRead s w k inStep with
    | (none, s1) => (false, s1)
    | (some x, s1) => if x.testBit 15 && circuitValid s1 (x % 4096) then circuitsThere w inStep r s1 else (false, s1)

/-- CLASS, DKIND, DEST, OUT_CTX and OUT_SRC of a group's context (R286, 06 Table 6.3; assumption 125): partials go up to context g + 1
of a member, results to the delivery context: of each member under the flat algorithm, to all at once under the pipelined one, by
circuit `dest` or by a multicast group. -/
def routedWord (g : Nat) (w : BitVec 320) (flat : Bool) (dest : Nat) (id : Nat) (word : BitVec 1024) : BitVec 1024 :=
  let hier := flag w 1
  let blk := 2 ^ fld w 78 3
  let last := g + (if hier then 2 else 1)
  let put := fun (cls kind dest ctx src : Nat) =>
    setFld (setFld (setFld (setFld (setFld word 82 3 cls) 80 2 kind) 64 16 dest) 52 12 ctx) 40 12 src
  if id == last then word
  else if hier && id == g then put 5 0 0 (g + 1) (fld w 16 16 / blk)
  else if flat then put 5 0 0 last 0
  else if flag w 3 then put 6 2 dest last 0
  else put 5 1 (fld w 256 12 + fld w 16 16 % blk) last 0

/-- The engine rewrites the context records of a group (R286). -/
def routeContexts (s : State) (g : Nat) (w : BitVec 320) (flat : Bool) (dest : Nat) : State :=
  let ids := if flag w 1 then [g, g + 1] else [g]
  let put := fun (id : Nat) (x : Ctx) => { x with word := routedWord g w flat dest id x.word }
  let t := s.su.ctxs.map fun e => if ids.contains e.1 then (e.1, e.2.map (put e.1)) else e
  { s with su := { s.su with ctxs := t } }

/-- The choice between the flat and the pipelined algorithm for a group (09 Table 9.5): its flag, CIRCUIT_MISSING, and its context
records when the choice has changed, or `anew`. -/
def chooseAlgorithm (replay inStep anew : Bool) (t : State) (e : Nat × BitVec 320) : State :=
  let w := e.2
  if !flag w 0 then t
  else
    let forced := t.dev.mode != .active || replay || flag w 2
    let byCircuit := flag w 3 && !forced
    let (there, t1) := if byCircuit then circuitsThere w inStep (cmapNeeded w) t else (true, t)
    let t2 := if there then t1 else count t1 .circuitMissing
    let flat := forced || !there
    let t3 := { t2 with coll := { t2.coll with flat := tblSet false t2.coll.flat e.1 flat } }
    if !anew && tblGet false t.coll.flat e.1 == flat then t3
    else if byCircuit && there then
      let (x, t4) := cmapRead t3 w (1024 + fld w 16 16 % 2 ^ fld w 78 3) inStep
      routeContexts t4 e.1 w flat (x.getD 0 % 4096)
    else routeContexts t3 e.1 w flat 0

/-- The algorithms of the groups are chosen at a step boundary (R286). -/
def chooseAlgorithms (s : State) (replay : Bool) : State := s.coll.groups.foldl (chooseAlgorithm replay true false) s

/-- Every core's flags and locators, and every unit's stream locator, are cleared at the start of a step (02 R41, R65; 03 R85;
06 R190). -/
def clearLocators (s : State) : State :=
  { s with
    comp := { s.comp with cores := s.comp.cores.map fun e =>
      (e.1, { e.2 with vflags := 0, invloc0 := 0, invloc1 := 0, mtile := none }) }
    su := { s.su with slocs := [] } }

/-- A step starts (R372): its number, its start and, on the first step of a launch, its issue records (12 R362). -/
def startStep (s : State) (l : Launch) (seq : Nat) : State :=
  let st : Step := { seq := seq, startL := logicNs s, authorised := l.autocommit }
  let s0 := clearLocators s
  let s1 := { s0 with job := { s0.job with step := some st } }
  let s2 := { s1 with coll := { s1.coll with
    stepSeq := s1.coll.nextSeq, queue := s1.coll.queue ++ (if seq = l.firstSeq then l.issues else []) } }
  chooseAlgorithms (applyParams s2 seq) false

/-- A fault charged to the step that starts, or a membership change that holds it (R379, R389). -/
def chargedPoison (s : State) : State :=
  match s.job.launch, s.job.step with
  | some l, some st =>
    if s.job.membershipNext then
      let s1 := { s with job := { s.job with membershipNext := false, chargeNext := none } }
      modStep (raisePoison s1 .membership) fun x => { x with held := true }
    else
      match s.job.chargeNext with
      | some c =>
        let s1 := { s with job := { s.job with chargeNext := none } }
        actPoison (sendSets s1 (sbPorts s1) codePoison (poisonPayload l.pkey st.seq c) 3) c
      | none => s
  | _, _ => s

/-- A step starts with what was charged to it (R379, R389). -/
def chargedStart (s : State) : State :=
  let s1 := chargedPoison s
  match s1.job.failNext with
  | some f => failStep { s1 with job := { s1.job with failNext := none } } f
  | none => s1

/-- Every record held fits (R365). -/
def recordsFit (s : State) : Bool :=
  (s.host.cmplHeld.isEmpty || cmplFit s s.host.cmplHeld) && (s.host.tokenHeld.isEmpty || tokensFit s s.host.tokenHeld.length)

/-- COMMIT_COMPLETE (R372, R149, R365): once the records fit, what waited for the commit goes on and the next step starts;
after the last step none does (R28, R151, R379). A launch's first step that waited for the records starts so too. -/
def commitComplete (s : State) : State :=
  match s.job.launch, s.job.step with
  | some l, some st =>
    if !unitsRun s || !st.committing || s.job.jobOver || !recordsFit s then s
    else
      let held := (maskClusters s l.cmask).filter fun q => (queenOf s q).st == .held
      let s1 := held.foldl (fun t q => passStepb t l q) s
      let s2 := (List.range 320).foldl passCommitWait s1
      let last := s.job.stopRun || ((!l.isRun || l.cmask != 0) && clustersEnded s l)
      if last then { s2 with job := { s2.job with jobOver := true } }
      else chargedStart (startStep s2 l (st.seq + 1))
  | some l, none => when (unitsRun s && !s.job.jobOver && recordsFit s) s (startStep s l l.firstSeq)
  | none, _ => s

/-- STEP_WATCHDOG (R385): 1.0 ms with SAFETY set, otherwise STEP_LIMIT µs unless it is 0, since the step's start, through its replays
(R372). -/
def stepWatchdog (s : State) : State :=
  match s.job.launch, s.job.step with
  | some l, some st =>
    let bound := if l.safety then 1000000 else l.stepLimit * 1000
    when (unitsRun s && attemptOpen st && bound != 0 && decide (st.startL + bound ≤ logicNs s)) s (raisePoison s .stepWatchdog)
  | _, _ => s

/-- A resident region is read again from its HBM copy; one beyond the capacity is a program fault (R312, assumption 102). -/
def reloadRegion (core : Nat) (t : State) (e : BitVec 192) : State :=
  let off := fld e 0 24
  let len := fld e 24 24
  let a := (fld e 64 64 + core * fld e 128 64) % 2 ^ 64
  if hbmBytes t < a + len then failStep t { status := Status.badArg.code, ecause := 2, addr := a, unit := core % 512 }
  else if metaBad t a len then safeEntry t .metadata a
  else
    match hbmRead (metaFix t a len) a len with
    | (some bs, t1) => lsWrite t1 core off bs
    | (none, t1) => stepHbmDbe t1 (hbmDbes t1 a len)

/-- Every resident region is read again from its HBM copy (R116, R150). -/
def reloadResidents (s : State) (sl : Slot) (core : Nat) : State := sl.res.foldl (reloadRegion core) s

/-- The resident regions of every core of a cluster are loaded. -/
def loadCluster (s : State) (l : Launch) (q : Nat) : State :=
  match tblGet none s.comp.slots l.slot with
  | none => s
  | some sl => (List.range 16).foldl (fun t i => reloadResidents t sl (16 * q + i)) s

/-- A cluster goes back to its checkpoint (R150). -/
def restoreCluster (s : State) (q : Nat) : State :=
  match (queenOf s q).ckpt with
  | none => s
  | some k =>
    let s1 := (List.range 17).foldl (fun t i => modCore t ((clusterKeys q).getD i 0) fun c =>
      { clearCore c with vctrl := k.vctrl.getD i 0, s := k.s.getD i [], cx := k.cx.getD i [], rot := k.rot.getD i 0 }) s
    modQueen s1 q fun x => { x with
      st := .run, pc := k.pc, loops := k.loops, lc := k.lc, evt := k.evt, sem := k.sem, waitSince := none, done := 0, snap := [] }

/-- A channel goes back to its checkpoint (11 R338). -/
def restoreChan (c : Chan) : Chan :=
  match c.ckpt with
  | none => c
  | some k => { c with
    st := .run, pc := k.pc, loops := k.loops, cur := k.cur, inc := k.inc, acks := [], reads := [], moveSince := none
    idxRead := none, idxVal := none, waitSince := none, ownWrites := [], signals := [] }

/-- REPLAY_START (R375, R150): 20 µs after the poison, with every spare in place and no hold, the step runs again
from its checkpoint. -/
def replayStart (s : State) : State :=
  match s.job.launch, s.job.step with
  | some l, some st =>
    (match st.poisoned with
    | some (t, _) =>
      if unitsRun s && !st.held && decide (t + 20000 ≤ logicNs s) && s.comp.failed.isEmpty && s.su.failed.isEmpty then
        let s1 := modStep s fun x => { x with poisoned := none }
        let qs := maskClusters s1 l.cmask
        let s2 := qs.foldl (fun t q => restoreCluster (loadCluster t l q) q) s1
        let s3 := l.channels.foldl (fun t ch => modChan t ch fun c => if c.bound then restoreChan c else c) s2
        let s4 := { s3 with
          coll := { s3.coll with queue := s3.coll.queue ++ (if st.seq = l.firstSeq then l.issues else []) }
          health := { s3.health with rehearsing := none } }
        chooseAlgorithms s4 true
      else s
    | none => s)
  | _, _ => s

/-- LAUNCH_COMPLETE (R151, R28): the launch is over, and ACTIVE gives way to JOINED. -/
def launchComplete (s : State) : State := when (unitsRun s && s.job.jobOver) s (endLaunch s)

/-- The bytes of a token record (Table 12.11). -/
def tokenBytes (t : TokenRec) : List Byte :=
  bytesOfWords (toWords t.sample 2 ++ [packW [(0, 32, t.launchId.toNat), (32, 32, t.s.toNat)], t.time])

/-- Port H writes records to the host: bus mastering is enabled, and the module is not in SAFE (14 R406, Table 13.7). -/
def ringsRun (s : State) : Bool := clocksRun s && s.host.busMaster && s.dev.mode != .safe

/-- TOKEN_RECORD (R366, R365): the oldest record is written once it fits, then TOKEN_WPTR; vector 64. -/
def tokenRecord (s : State) : State :=
  match s.host.tokenHeld with
  | [] => s
  | t :: r =>
    if !ringsRun s || !tokensFit s 1 then s
    else
      let off := s.host.tokenWptr.toNat
      let w := BitVec.ofNat 64 ((off + 32) % 2 ^ s.host.tlog)
      let s1 := emit s (.hostWrite (s.host.tokenBase + s.host.tokenWptr) (tokenBytes t))
      let s2 := { s1 with host := { s1.host with tokenHeld := r, tokenWptr := w } }
      msix (emit s2 (.hostWrite s.host.ptrAddr (bytesOfNat w.toNat 8))) 64

/-- A PAD record of n bytes (R367). -/
def padRecord (n : Nat) : List Byte :=
  bytesOfWords [packW [(0, 4, 0xF), (32, 16, (n - 128) / 8)]] ++ List.replicate (n - 8) 0

/-- COMPLETION_RECORD (R367, R365): the oldest record is written once it fits, a PAD before it when it would cross
the ring's end, then CMPL_WPTR; vector 65. -/
def completionRecord (s : State) : State :=
  match s.host.cmplHeld with
  | [] => s
  | bs :: r =>
    if !ringsRun s || !cmplFit s [bs] then s
    else
      let size := 2 ^ s.host.clog
      let off := s.host.cmplWptr.toNat % size
      let pad := padBefore off bs.length size
      let s1 := if pad = 0 then s else emit s (.hostWrite (s.host.cmplBase + BitVec.ofNat 64 off) (padRecord pad))
      let off' := (off + pad) % size
      let w := BitVec.ofNat 64 ((off' + bs.length) % size)
      let s2 := emit s1 (.hostWrite (s.host.cmplBase + BitVec.ofNat 64 off') bs)
      let s3 := { s2 with host := { s2.host with cmplHeld := r, cmplWptr := w } }
      msix (emit s3 (.hostWrite (s.host.ptrAddr + 8) (bytesOfNat w.toNat 8))) 65

def execTwin (f : Frame) (s : State) := ok (twin f s)
def execTwinSend (s : State) := ok (twinSend s)
def execDigestTimeout (s : State) := ok (digestTimeout s)
def execVoteSend (s : State) := ok (voteSend s)
def execVote (f : Frame) (s : State) := ok (vote f s)
def execRelease (f : Frame) (s : State) := ok (release f s)
def execCommitComplete (s : State) := ok (commitComplete s)
def execStepWatchdog (s : State) := ok (stepWatchdog s)
def execReplayStart (s : State) := ok (replayStart s)
def execLaunchComplete (s : State) := ok (launchComplete s)
def execTokenRecord (s : State) := ok (tokenRecord s)
def execCompletionRecord (s : State) := ok (completionRecord s)

end Sys2Proof.Machine
end

