-- ==== Sys2Proof/Machine/Switch.lean ====
section
/-! DEFINITION. The switch core: ingress, scheduling, release, pause, pools, calendars, sampling and route epochs
(07; 08 R239-R262; 13 R396). -/

namespace Sys2Proof.Machine

/-- A frame reaches its target on the fabric die, or on the die of an internal port. -/
def deliver (s : State) (f : Frame) : State := { s with comb := { s.comb with localIn := s.comb.localIn ++ [f] } }

/-- A stream piece reaches the queue of logical unit l (Table 7.1), unless the unit has failed or is retired (06 R195). -/
def toUnit (s : State) (l : Nat) (f : Frame) : State :=
  let u := s.su.map.getD l l
  if attemptGone s (frmPkey f) && frmStep f == stepField s (frmPkey f) then s
  else if s.su.map.length ≤ l || s.su.failed.contains u || s.su.retired.contains u then count s .streamUnitDown u
  else { s with su := { s.su with queue := s.su.queue ++ [(u, f)] } }

/-- Output o is the queue of a stream unit that has failed and is still mapped: no piece is queued to it (06 R195). -/
def unitDown (s : State) (o : Nat) : Bool := decide (81 ≤ o) && s.su.failed.contains (s.su.map.getD (o - 81) (o - 81))

/-- An external link that negotiated MFP 2.4 (08 R270). -/
def oldLink (s : State) (p : Nat) : Bool := p < 64 && (portOf s p).mfp == 1

/-- A port's words are taken: at an external one unless its RX_STATE is SPARING or its lanes are not up (10 R303, R304). -/
def takesWords (s : State) (o : Nat) : Bool := 64 ≤ o || (portOf s o).rx == .up || (portOf s o).rx == .narrow

/-- Cells on a circuit's list at an output (R233). -/
def circuitDepth (s : State) (k : Nat) : Nat := ((tblGet [] s.comb.circuitQ k).map (cellsOf s)).foldl (· + ·) 0

/-- Admission of a frame at one target (07 R217, R228, R238, R201, R460): the state, and whether it is admitted. -/
def admitAt (s : State) (cf : CFrame) (hostAcc : Bool) (t : Target) : State × Bool :=
  let f := cf.frame
  let refuse := fun (o : Nat) (c : Cause) => (discard s o f c cf.input o cf.colour 0, false)
  let full := decide (1048576 ≤ entriesUsed s)
  let portCheck := fun o : Nat =>
    if 80 < o then none
    else if hostAcc && o < 64 then some Cause.pkeyEgress
    else if !keyOutBit s o (frmPkey f) then some Cause.pkeyEgress
    else if (fenceBit s o || s.dev.mode == .safe) && frmCls f != 7 then some Cause.fenced
    else none
  match t with
  | .direct => (s, true)
  | .queue o =>
    if unitDown s o then (count s .streamUnitDown (s.su.map.getD (o - 81) (o - 81)), false)
    else
    (match portCheck o with
    | some c => refuse o c
    | none =>
      if o < 64 && (portOf s o).tx == .down then refuse o .portDown
      else if full then refuse o .noCell
      else
        let k := (cf.input * 113 + o) * 8 + frmCls f
        let s1 := { s with comb := { s.comb with queues := tblMod [] s.comb.queues k (· ++ [frameId cf]) } }
        (mirror s1 f 0 cf.input o 0 cf.colour (queueDepth s1 o (frmCls f)), true))
  | .circuit o =>
    if unitDown s o then (count s .streamUnitDown (s.su.map.getD (o - 81) (o - 81)), false)
    else
    (match portCheck o with
    | some c => refuse o c
    | none =>
      if o < 64 && !(outUp s o || (portOf s o).tx == .sparing) then refuse o .portDown
      else if oldLink s o then refuse o .routeDrop
      else if full then refuse o .noCell
      else
        let k := frmCfid f % 4096 * 113 + o
        let s1 := { s with comb := { s.comb with circuitQ := tblMod [] s.comb.circuitQ k (· ++ [frameId cf]) } }
        (mirror s1 f 0 cf.input o 0 cf.colour (circuitDepth s1 k), true))

/-- A frame goes to a target on the fabric die, which reads it as an output would (R198): single-bit errors are corrected and
counted, a frame whose first word has a double-bit error is discarded, and one with a later one arrives ended (08 R243). -/
def deliverDirect (s : State) (cf : CFrame) : State :=
  let s1 := countN s .combSbe 0 (cf.marks.filter fun m => !m.2).length
  if cf.marks.any fun m => m.2 && m.1 == 0 then discard s1 cf.input cf.frame .combDbe cf.input 127 cf.colour 0
  else if cf.stomp || cf.marks.any (·.2) then countDiscard (count s1 .frameStomped cf.input) cf.input cf.cls .frameError
  else deliver s1 cf.frame

/-- A frame that holds its cells goes to its targets (R217): REF is the number of targets that take it. -/
def enqueue (s : State) (cf : CFrame) (hostAcc : Bool) (ts : List Target) : State :=
  let s0 := { s with comb := { s.comb with frames := s.comb.frames ++ [cf] } }
  let (s1, n, d) := ts.foldl (fun acc t =>
    let (s', okay) := admitAt acc.1 cf hostAcc t
    (s', acc.2.1 + (okay && t != .direct).toNat, acc.2.2 + (okay && t == .direct).toNat)) (s0, 0, 0)
  let s2 := if 0 < d then deliverDirect s1 cf else s1
  if n = 0 then releaseFrame s2 cf
  else
    { s2 with comb := { s2.comb with frames := modWhere (fun x => frameId x == frameId cf) (fun x => { x with ref := n }) s2.comb.frames } }

/-- The cells of a frame are taken (R208, R209): none when they cannot be; a lossless frame of a port may be charged
to HDRM. -/
def takeCells (s : State) (owner cls n : Nat) : Option State :=
  if canTake s owner 0 n then some (charge s owner 0 n)
  else if owner < 648 && 3 ≤ cls && hdrmUsedAll s (owner / 8) + n ≤ hdrmSizeOf s (owner / 8) then
    some { s with comb := { s.comb with hdrmUsed := tblMod 0 s.comb.hdrmUsed owner (· + n) } }
  else none

/-- RED_TH of port p and class c (Table 7.7). -/
def redTh (s : State) (p c : Nat) : Nat := fld (tblGet 0 s.fab.guards (p * 8 + c)) 128 20

/-- A frame that passed the checks of its link enters the comb (R226-R228, R208, R217). `owner` is charged. `stomp`: a condition of R242
was found after its first word had left (08 R243). -/
def takeIn (s : State) (input owner : Nat) (wire : Bool) (toOut : Option Nat) (f : Frame) (marks : List (Nat × Bool)) (stomp : Bool) : State :=
  let c := frmCls f
  let ep := if wire && oldLink s input then s.fab.srcEpoch else frmEpoch f
  match keyCheck s input f with
  | some cause => discard s input f cause input 127 0 0
  | none =>
    let (s, bad) := combRead s fun m => m == .account owner 0
    if bad then s
    else
    let (col, s1) := if input ≤ 80 then meter s input c (frameBytes f) else (0, s)
    if col = 2 && c < 3 then discard s1 input f .redDrop input 127 col 0
    else
      let n := cellsFor f.payload.length
      let red := decide (col = 2) && decide (redTh s1 input c ≤ portUsed s1 input c)
      match takeCells s1 owner c n with
      | none =>
        if owner < 648 then discard s1 input f (if c < 3 then .noCell else .losslessOverrun) input 127 col 0 else s1
      | some s2 =>
        let setRed := fun q : Pause => if red then { q with red := q.red ||| BitVec.ofNat 8 (2 ^ c) } else q
        let s3 := { s2 with comb := { s2.comb with pauseTx := tblMod {} s2.comb.pauseTx input setRed } }
        let cf : CFrame := {
          chain := freeCells (usedCells s2) ((usedCells s2).length + n) 0 n, frame := f, epoch := ep, ref := 0, owner := owner, input := input
          cls := c, arrival := scNow s, colour := col, marks := marks, stomp := stomp }
        let ts := match toOut with
          | some o => some [.queue o]
          | none => targetsOf s3 input wire { f with w0 := setFlag f.w0 11 ep }
        let s4 := match ts with
          | none => releaseCells (discard s3 input f .routeDrop input 127 col 0) owner n
          | some ts => enqueue s3 cf (hostAccess input f) ts
        updatePause s4 input

/-- The numbers below n in rotation from k on. -/
def turn (n k : Nat) : List Nat := (List.range n).map fun i => (k + i) % n

/-- The group and the channel of a die that a frame at one of its internal ports comes from (11 R327); what is no forager's stands
as a ninth group (assumption 107). -/
def dieSource (o : Orig) : Nat × Nat := if 680 ≤ o.owner && o.owner < 936 then ((o.owner - 680) / 8 % 8, (o.owner - 680) % 8) else (8, 0)

/-- Where the die arbiter of an internal port keeps its places for a priority. -/
def dieKey (input : Nat) (high : Bool) : Nat := (input * 2 + high.toNat) * 9

/-- The frame that the die arbiter of an internal port starts next (11 R328, R225): HIGH before NORMAL, then the groups in
rotation, and within a group the channels. -/
def pickDie (s : State) (input : Nat) (mine : List Orig) : Option Orig :=
  let high := mine.any (·.high)
  let k := dieKey input high
  let ready := mine.filter fun o => o.high == high
  (turn 9 (tblGet 0 s.comb.dieRot k)).findSome? fun g =>
    let here := ready.filter fun o => (dieSource o).1 == g
    if g = 8 then here.head?
    else (turn 8 (tblGet 0 s.comb.dieRot (k + 1 + g))).findSome? fun c => here.find? fun o => (dieSource o).2 == c

/-- The places of the die arbiter after a frame has started. -/
def dieNext (s : State) (o : Orig) : Tbl Nat :=
  if 64 ≤ o.input && o.input ≤ 79 then
    let k := dieKey o.input o.high
    let (g, c) := dieSource o
    let t := tblSet 0 s.comb.dieRot k ((g + 1) % 9)
    if g = 8 then t else tblSet 0 t (k + 1 + g) ((c + 1) % 8)
  else s.comb.dieRot

/-- The frame that is taken in next at an input: by the die arbiter of an internal port, by input 113's rotation (R461), else the
oldest. -/
def pickOrig (s : State) (input : Nat) : Option Orig :=
  let mine := s.comb.orig.filter fun o => o.input == input && !o.waiting
  if input = 113 then (turn 66 s.comb.rot113).findSome? fun w => mine.find? fun o => o.who == w
  else if 64 ≤ input && input ≤ 79 then pickDie s input mine
  else mine.head?

/-- A frame of a stream unit has left it (06 R161, R182): with the last piece of an OUT of RES a reader finishes (R214), and with the
last of its chunk's result pieces the chunk gives up what it holds. -/
def leftUnit (s : State) (owner : Nat) (f : Frame) : State :=
  if owner < 648 || 680 ≤ owner then s
  else
    match s.su.chunks.find? fun c => c.unit + 648 == owner && c.out.any fun x => x.1 == frmSeq f with
    | none => s
    | some c =>
      let c' := { c with out := eraseFirst (fun x => x.1 == frmSeq f) c.out }
      let s1 := { s with su := { s.su with chunks := modWhere (· == c) (fun _ => c') s.su.chunks } }
      let s2 := if c.out.contains (frmSeq f, true) then c.bufs.foldl (dropReader · owner) s1 else s1
      if c.complete && c'.out.isEmpty then releaseReaders s2 { c' with bufs := c'.bufs.filter fun h => (bufOf s2 h).isSome } else s2

/-- An originated frame takes its cells and enters, or waits in its pool's line (R210). -/
def takeOrig (s : State) (o : Orig) : State :=
  let f := { o.frame with w0 := setFlag o.frame.w0 11 s.fab.srcEpoch }
  if o.owner < 648 || canTake s o.owner 0 (cellsFor f.payload.length) then
    let s1 := { s with comb := { s.comb with
      orig := eraseFirst (fun x => x == o) s.comb.orig
      rot113 := if o.input = 113 then (o.who + 1) % 66 else s.comb.rot113
      dieRot := dieNext s o } }
    takeIn (leftUnit s1 o.owner o.frame) o.input o.owner false o.toOut f [] false
  else
    { s with comb := { s.comb with
      orig := modWhere (fun x => x == o) (fun x => { x with waiting := true }) s.comb.orig
      waiters := s.comb.waiters ++ [{ pool := 0, owner := o.owner, what := .origin o.input, since := scNow s }] } }

/-- The symbols that FEC corrected on each lane of a port are counted (10 R298). -/
def countCorrected (s : State) (p : Nat) (a : Arrival) : State :=
  a.corrected.foldl (fun t c => if c.1 < 9 then countN t .fecCorrSym (9 * p + c.1) c.2 else t) s

/-- A frame that meets a condition of R242: a stomped one is counted (R243). It is discarded, but one whose first word has left an
output before the condition shows goes on, its copies to end with the inverse of their CRC (R243; assumption 110). -/
def badFrame (s : State) (p : Nat) (a : Arrival) : State :=
  let s1 := if stomped a.frame then count s .frameStomped p else s
  if a.cut && !headBad s p a.frame then
    let f := { a.frame with payload := a.frame.payload.take (frmLen a.frame) }
    takeIn (countDiscard s1 p (frmCls f) .frameError) p (8 * p + frmCls f) true none f [] true
  else discard s1 p a.frame .frameError p 127 0 0

/-- FRAME_INGRESS (R242, R461): a frame arrives from a link, or a unit's oldest frame enters. Between frames a word whose VER bits
are 0 is idle and begins none (10 R297). After a lost codeword words are discarded until an FPOS names one (10 R298). -/
def frameIngress (i : Ingress) (s : State) : State :=
  match i with
  | .wire port a =>
    let p := port.val
    let q := portOf s p
    if fld a.frame.w0 0 8 = 0 then s
    else if s.dev.frozenPin then { s with dev := { s.dev with frozenRx := s.dev.frozenRx + wireBytes a.frame / 8 } }
    else if !clocksRun s || !(takesWords s p || q.rx == .sparing) then s
    else if q.rx == .sparing then discard (countCorrected s p a) p a.frame .frameError p 127 0 0
    else if q.resync && !a.named then countCorrected s p a
    else
      let s1 := countCorrected (modPort s p fun q => { q with resync := false }) p a
      if ingressBad s1 p a then badFrame s1 p a
      else takeIn s1 p (8 * p + frmCls a.frame) true none a.frame [] false
  | .own input =>
    if !clocksRun s then s
    else
      match pickOrig s input.val with
      | none => s
      | some o => takeOrig s o

/-- Units of transmitter time (1/2,016,000 SCLK cycle) that a wire byte takes at an output (Table 7.1, 08 R270). -/
def byteUnits (s : State) (o : Nat) : Nat :=
  if o < 64 then
    let b := if (portOf s o).tx == .narrow then 6912 else 6048
    if (portOf s o).mfp == 1 then 2 * b else b
  else if o = 80 then 20000 else 7875

/-- The egress stage of an output is empty (R220): at most the transmitter holds a copy, and no frame has started
in this SCLK cycle. -/
def stageEmpty (s : State) (o : Nat) : Bool :=
  let e := tblGet {} s.comb.egress o
  decide ((e.copies.filter fun c => decide (unitNow s < c.doneAt)).length ≤ 1) && e.lastStart != scNow s + 1

/-- The calendar entry of an output in a slot (Table 7.6). -/
def calOf (s : State) (o slot : Nat) : BitVec 16 := tblGet 0 s.fab.calCur (o * 1024 + slot)

/-- The time of the next VALID slot of an output after the cycle in force, if any. -/
def nextSlot (s : State) (o : Nat) : Option Nat :=
  if s.fab.calCur.isEmpty then none
  else ((List.range 1024).find? fun k => flag (calOf s o ((scNow s + 1 + k) % 1024)) 12).map fun k => (scNow s + 1 + k) * 2016000

/-- When the transmitter would finish one more frame. -/
def finishAt (s : State) (o : Nat) (f : Frame) : Nat :=
  max (unitNow s) (tblGet {} s.comb.egress o).freeAt + wireBytes f * byteUnits s o

/-- The held frame with an id. -/
def heldFrame (s : State) (id : Nat) : Option CFrame := s.comb.frames.find? fun f => frameId f == id

/-- Class q is paused at output o by the next hop (R222, 10 R304). -/
def pausedAt (s : State) (o q : Nat) : Bool :=
  decide (3 ≤ q) && (flag (tblGet {} s.comb.pauseRx o).xoff q || (o < 64 && (portOf s o).rx == .sparing))

/-- The head of list (i, o, q) is eligible (R222); a fenced output and every output in SAFE sends only TC7 (R228, R386). -/
def eligible (s : State) (i o q : Nat) : Bool :=
  match tblGet [] s.comb.queues ((i * 113 + o) * 8 + q) with
  | [] => false
  | id :: _ =>
    (match heldFrame s id with
    | none => true
    | some cf =>
      !pausedAt s o q && (q == 7 || 80 < o || !(fenceBit s o || s.dev.mode == .safe)) && (80 ≤ o || o ≥ 64 || outUp s o) &&
        (match nextSlot s o with
        | none => true
        | some t => decide (finishAt s o cf.frame ≤ t)))

/-- A frame copy starts leaving output o (R198, R220, R239): a double-bit error in its first word discards it there. -/
def startCopy (s : State) (o id : Nat) (circuit : Option Nat) : State :=
  match heldFrame s id with
  | none => doubleFree s (tblGet 0 s.comb.lastOwner id) o
  | some cf =>
    let (s, bad) := combRead s fun m => m == .entry o id || cf.chain.any fun k => m == .cell k
    if bad then s
    else
    let depth := match circuit with
      | some c => circuitDepth s (c * 113 + o)
      | none => queueDepth s o cf.cls
    let sbe := (cf.marks.filter fun m => !m.2).length
    let s1 := countN s .combSbe 0 sbe
    if cf.marks.any fun m => m.2 && m.1 == 0 then
      decRef (discard s1 o cf.frame .combDbe cf.input o cf.colour depth) id o
    else
      let done := finishAt s1 o cf.frame
      let e := tblGet {} s1.comb.egress o
      let c : Copy := { frame := id, circuit := circuit, stomp := cf.marks.any (·.2), doneAt := done }
      let e' : Egress := { e with copies := e.copies ++ [c], freeAt := done, lastStart := scNow s1 + 1 }
      mirror { s1 with comb := { s1.comb with egress := tblSet {} s1.comb.egress o e' } } cf.frame 1 cf.input o 0 cf.colour depth

/-- The head of list (i, o, q) is staged at o. -/
def stageQueue (s : State) (i o q : Nat) : State :=
  let k := (i * 113 + o) * 8 + q
  match tblGet [] s.comb.queues k with
  | [] => s
  | id :: r => startCopy { s with comb := { s.comb with queues := tblSet [] s.comb.queues k r } } o id none

/-- A circuit frame may leave output o: it is up, carries circuits (08 R270) and is not fenced (R228, R386). -/
def circuitGo (s : State) (o : Nat) : Bool :=
  (o ≥ 64 || outUp s o) && !oldLink s o && (80 < o || !(fenceBit s o || s.dev.mode == .safe))

/-- The calendar's start at output o in a slot (R219, R221, R222, R258), skipped and counted while a frame of the circuit is still
being sent. -/
def slotStart (s : State) (o slot : Nat) : State :=
  let e := calOf s o slot
  let id := fld e 0 12
  let k := id * 113 + o
  if !flag e 12 then s
  else
    match tblGet [] s.comb.circuitQ k with
    | [] => s
    | x :: r =>
      let g := tblGet {} s.comb.egress o
      if g.copies.any fun c => c.circuit == some id && decide (unitNow s < c.doneAt) then
        count { s with comb := { s.comb with egress := tblSet {} s.comb.egress o { g with skipAt := scNow s + 1 } } } .calOverrun o
      else if stageEmpty s o && circuitGo s o then
        startCopy { s with comb := { s.comb with circuitQ := tblSet [] s.comb.circuitQ k r } } o x (some id)
      else s

/-- The calendar's start at output o in the slot in force: once per slot. -/
def calendarStart (s : State) (o : Nat) : State :=
  let g := tblGet {} s.comb.egress o
  if g.lastStart == scNow s + 1 || g.skipAt == scNow s + 1 then s else slotStart s o (scNow s % 1024)

/-- The first of `ks` (taken cyclically from `start`) that satisfies `p`. -/
def rotFind (n start : Nat) (p : Nat → Bool) : Option Nat := ((List.range n).map fun k => (start + k) % n).find? p

/-- The lists with entries, as (input, output, class), highest class last; what arbitration looks at. -/
def activeLists (s : State) : List (Nat × Nat × Nat) :=
  s.comb.queues.map fun e => (e.1 / 904, e.1 / 8 % 113, e.1 % 8)

/-- The greatest class of a list of classes. -/
def topClass (l : List Nat) : Option Nat := l.foldl (fun a q => match a with
  | none => some q
  | some b => some (max b q)) none

/-- One iteration of request, grant and accept (R221): the pairs accepted as (input, output, class). -/
def arbIteration (s : State) (lists : List (Nat × Nat × Nat)) (outs ins : List Nat) : List (Nat × Nat × Nat) :=
  let live := lists.filter fun (i, o, q) => !outs.contains o && !ins.contains i && stageEmpty s o && eligible s i o q
  let req := live.filter fun (i, o, q) => topClass ((live.filter fun x => x.1 == i && x.2.1 == o).map (·.2.2)) == some q
  let os := (req.map (·.2.1)).eraseDups
  let grants := os.filterMap fun o =>
    let mine := req.filter fun x => x.2.1 == o
    match topClass (mine.map (·.2.2)) with
    | none => none
    | some q =>
      let asking := (mine.filter fun x => x.2.2 == q).map (·.1)
      (rotFind 114 (tblGet 0 s.comb.gp (o * 8 + q)) asking.contains).map fun i => (i, o, q)
  let is := (grants.map (·.1)).eraseDups
  is.filterMap fun i =>
    let mine := grants.filter fun x => x.1 == i
    match topClass (mine.map (·.2.2)) with
    | none => none
    | some q =>
      let os := (mine.filter fun x => x.2.2 == q).map (·.2.1)
      (rotFind 113 (tblGet 0 s.comb.ap (i * 8 + q)) os.contains).map fun o => (i, o, q)

/-- The iterations 1 to 4 of a scheduler cycle (R221). -/
def arbLoop (s : State) (lists : List (Nat × Nat × Nat)) (it : Nat) (outs ins : List Nat) : Nat → State
  | 0 => s
  | fuel + 1 =>
    let acc := arbIteration s lists outs ins
    let s1 := acc.foldl (fun t (i, o, q) =>
      let t1 := stageQueue t i o q
      if it = 1 then
        { t1 with comb := { t1.comb with
          gp := tblSet 0 t1.comb.gp (o * 8 + q) ((i + 1) % 114), ap := tblSet 0 t1.comb.ap (i * 8 + q) ((o + 1) % 113) } }
      else t1) s
    arbLoop s1 lists (it + 1) (outs ++ acc.map (·.2.1)) (ins ++ acc.map (·.1)) fuel

/-- EGRESS_ARBITRATION (R221): one scheduler cycle, at most one per SCLK cycle: calendar starts, then arbitration. -/
def egressArbitration (s : State) : State :=
  if !clocksRun s || s.comb.arbAt == scNow s + 1 then s
  else
    let s0 := { s with comb := { s.comb with arbAt := scNow s + 1 } }
    let s1 := (List.range 113).foldl calendarStart s0
    let staged := (List.range 113).filter fun o => (tblGet {} s1.comb.egress o).lastStart == scNow s + 1
    arbLoop s1 (activeLists s1) 1 staged [] 4

/-- CALENDAR_SLOT_START (R219): the circuit of the slot in force starts at an output. -/
def calendarSlotStart (o : Nat) (s : State) : State := if clocksRun s then calendarStart s o else s

/-- The frame as it leaves output o: VER of the link, EPOCH 0 on MFP 2.4 (R239, R270), an inverted trailer when the
copy is ended by R243. -/
def leaving (s : State) (o : Nat) (f : Frame) (epoch stomp : Bool) : Frame :=
  let mfp := if o < 64 then (portOf s o).mfp else 3
  let w := setFld f.w0 0 8 (verOf mfp)
  let w := setFlag w 11 (mfp != 1 && epoch)
  { f with w0 := w, crc := if stomp then ~~~(frameCrc f) else f.crc }

/-- The leaf that keeps a frame in the comb when it goes to a stream unit by output o (06 R161). -/
def unitLeaf (s : State) (o id : Nat) (f : Frame) : Option Leaf :=
  let l := if 81 ≤ o then o - 81 else streamUnitOf s f
  let u := s.su.map.getD l l
  if o < 64 || o = 80 || (o < 81 && frmOp f != 5) || s.su.failed.contains u || s.su.retired.contains u then none else leafOf s id f

/-- A sent copy gives back its reference, which a leaf keeps. -/
def sentRef (s : State) (l : Option Leaf) (id o : Nat) : State :=
  match l with
  | some l => { s with su := { s.su with leaves := s.su.leaves ++ [l] } }
  | none => decRef s id o

/-- A frame with a zero word in the place of one that was not there in time (10 R297). Which it was is open (assumption 87). -/
def underrun (s : State) (o : Nat) (f : Frame) : Frame :=
  let k := Config.openValue 87 [o, scNow s] % max 1 (f.payload.length / 8)
  { f with payload := f.payload.take (8 * k) ++ List.replicate (min 8 (f.payload.length - 8 * k)) 0 ++ f.payload.drop (8 * k + 8) }

/-- FRAME_SENT (R214; 06 R161 for a leaf of a canonical tree): the copy in the transmitter of output o has left; none leaves while
the port's TX_STATE is SPARING (10 R304). A copy of a port with a word that came `late` is ended by R243 and counted (10 R297). -/
def frameSent (o : Nat) (late : Bool) (s : State) : State :=
  let e := tblGet {} s.comb.egress o
  match e.copies with
  | [] => s
  | c :: r =>
    if !clocksRun s || unitNow s < c.doneAt || (o < 64 && (portOf s o).tx == .sparing) then s
    else
      let s1 := { s with comb := { s.comb with egress := tblSet {} s.comb.egress o { e with copies := r } } }
      match heldFrame s1 c.frame with
      | none => doubleFree s1 (tblGet 0 s1.comb.lastOwner c.frame) o
      | some cf =>
        let (s1, safe) := combRead s1 fun m => m == .cell c.frame
        if safe then s1
        else
        let under := late && o < 64
        let bad := c.stomp || cf.stomp || under
        let f := leaving s1 o (if under then underrun s1 o cf.frame else cf.frame) cf.epoch bad
        let s1 := if under then count s1 .txUnderrun o else s1
        let s2 :=
          if o < 64 || o = 80 then emit s1 (.frame o f c.circuit)
          else if bad then countDiscard (count s1 .frameStomped o) o cf.cls .frameError
          else if 81 ≤ o then toUnit s1 (o - 81) cf.frame
          else if frmOp cf.frame = 5 then toUnit s1 (streamUnitOf s1 cf.frame) cf.frame
          else deliver s1 cf.frame
        sentRef s2 (if bad then none else unitLeaf s1 o c.frame cf.frame) c.frame o

/-- Copies that start anew one after another from now on, and when the last of them is sent. -/
def restarted (s : State) (o : Nat) (cs : List Copy) : List Copy × Nat :=
  cs.foldl (fun acc c =>
    let t := acc.2 + (match heldFrame s c.frame with
      | some cf => wireBytes cf.frame * byteUnits s o
      | none => 0)
    (acc.1 ++ [{ c with doneAt := t }], t)) ([], unitNow s)

/-- The first word of a copy had not left at time t. -/
def unstarted (s : State) (o t : Nat) (c : Copy) : Bool :=
  match heldFrame s c.frame with
  | some cf => decide (t ≤ c.doneAt - wireBytes cf.frame * byteUnits s o)
  | none => false

/-- The copy that an output was sending at time t is cut, and is not sent again; a staged one, of which nothing had left, starts anew
(10 R304; 14 R413, R418). -/
def cutCopy (s : State) (o t : Nat) : State :=
  let e := tblGet {} s.comb.egress o
  match e.copies.filter fun c => decide (t < c.doneAt) with
  | [] => s
  | c :: r =>
    let sent := e.copies.filter fun c => decide (c.doneAt ≤ t)
    let (r', free) := restarted s o (if unstarted s o t c then c :: r else r)
    if unstarted s o t c then { s with comb := { s.comb with egress := tblSet {} s.comb.egress o { e with copies := sent ++ r', freeAt := free } } }
    else
    decRef { s with comb := { s.comb with egress := tblSet {} s.comb.egress o { e with copies := sent ++ r', freeAt := free } } } c.frame o

/-- The copies at an output start anew (10 R304). -/
def restartCopies (s : State) (o : Nat) : State :=
  let e := tblGet {} s.comb.egress o
  let (cs, free) := restarted s o e.copies
  if e.copies.isEmpty then s
  else { s with comb := { s.comb with egress := tblSet {} s.comb.egress o { e with copies := cs, freeAt := free } } }

/-- The head of a list, its output and the state without it. -/
def popList (s : State) (k : ListKey) : Option (Nat × Nat × State) :=
  match k with
  | .queue i o q =>
    let n := (i.val * 113 + o.val) * 8 + q.val
    (match tblGet [] s.comb.queues n with
    | [] => none
    | x :: r => some (x, o.val, { s with comb := { s.comb with queues := tblSet [] s.comb.queues n r } }))
  | .circuit id o =>
    let n := id.val * 113 + o.val
    (match tblGet [] s.comb.circuitQ n with
    | [] => none
    | x :: r => some (x, o.val, { s with comb := { s.comb with circuitQ := tblSet [] s.comb.circuitQ n r } }))

/-- Cells on the queue or the circuit's list that a list belongs to. -/
def listDepth (s : State) (k : ListKey) (cls : Nat) : Nat :=
  match k with
  | .queue _ o _ => queueDepth s o.val cls
  | .circuit id o => circuitDepth s (id.val * 113 + o.val)

/-- FRAME_AGED (R203): a head frame that has been in the comb for LIFETIME is discarded from its list. -/
def frameAged (k : ListKey) (s : State) : State :=
  if !clocksRun s then s
  else
    match popList s k with
    | none => s
    | some (id, o, s1) =>
      (match heldFrame s id with
      | none => doubleFree s1 (tblGet 0 s1.comb.lastOwner id) o
      | some cf =>
        if scNow s < cf.arrival + s.fab.lifetime * 1200 then s
        else
          let (s1, safe) := combRead s1 fun m => m == .cell id || m == .entry o id
          if safe then s1 else decRef (discard s1 o cf.frame .aged cf.input o cf.colour (listDepth s1 k cf.cls)) id o)

/-- PAUSE_WORD (R260): the pause state of every class at an output. -/
def pauseWord (o : Nat) (w : Word) (s : State) : State :=
  let q := tblGet {} s.comb.pauseRx o
  when (clocksRun s && takesWords s o) s { s with comb := { s.comb with
    pauseRx := tblSet {} s.comb.pauseRx o { q with xoff := w.setWidth 8, pseq := (w >>> 8).setWidth 8, last := logicSc s } } }

/-- PAUSE_WORD_REPEAT (R260): while any class is paused, every 1,024 SCLK cycles. -/
def pauseWordRepeat (p : Nat) (s : State) : State :=
  let q := tblGet {} s.comb.pauseTx p
  when (clocksRun s && q.xoff != 0 && decide (q.last + 1024 ≤ logicSc s)) s (sendPause s p)

/-- PAUSE_EXPIRED (R262): on an MFP 3.1 link a paused class resumes 4,096 SCLK cycles after the last pause word. -/
def pauseExpired (o c : Nat) (s : State) : State :=
  let q := tblGet {} s.comb.pauseRx o
  let due := clocksRun s && (portOf s o).mfp == 3 && flag q.xoff c && decide (q.last + 4096 ≤ logicSc s) && (portOf s o).rx != .sparing
  when due s (count { s with comb := { s.comb with
    pauseRx := tblSet {} s.comb.pauseRx o { q with xoff := q.xoff &&& ~~~(BitVec.ofNat 8 (2 ^ c)) } } } .pauseExpired o)

/-- The oldest frame that waits at an input. -/
def waitingOrig (s : State) (input owner : Nat) : Option Orig :=
  s.comb.orig.find? fun o => o.input == input && o.owner == owner && o.waiting

/-- Whether a waiter would be served now (R208, R210). -/
def waiterOk (s : State) (w : Waiter) : Bool :=
  match w.what with
  | .origin i => (match waitingOrig s i w.owner with
    | some o => canTake s w.owner 0 (cellsFor o.frame.payload.length)
    | none => true)
  | .buffer _ _ _ => canTake s w.owner w.pool 1

/-- POOL_WAITER_GRANT (R210): the oldest waiter that does not fail is served. -/
def poolWaiterGrant (pool : Nat) (s : State) : State :=
  match (s.comb.waiters.filter fun w => w.pool == pool).find? (waiterOk s) with
  | none => s
  | some w =>
    if !clocksRun s then s
    else
      let s1 := { s with comb := { s.comb with waiters := eraseFirst (fun x => x == w) s.comb.waiters } }
      match w.what with
      | .origin i =>
        (match waitingOrig s1 i w.owner with
        | some o => takeOrig s1 o
        | none => s1)
      | .buffer c q k =>
        let (s1, bad) := combRead s1 fun m => m == .account w.owner pool
        if bad then s1
        else
        (match takeBuf s1 w.owner pool with
        | some (h, s2) => { s2 with su := { s2.su with granted := s2.su.granted ++ [(c, q, k, h)] } }
        | none => s1)

/-- A stream unit abandons a chunk: its pages and buffers are freed (06 R186, 07 R211). -/
def dropChunk (s : State) (c q k : Nat) : State :=
  let p := fun x : Chunk => x.ctx == c && x.seq == q && x.chunk == k
  let s1 := ((s.su.chunks.filter p).flatMap fun x => x.bufs ++ x.nodes.map (·.handle)).foldl returnBuf s
  let mine := s1.su.granted.filter fun g => g.1 == c && g.2.1 == q && g.2.2.1 == k
  let s2 := mine.foldl (fun t g => returnBuf t g.2.2.2) s1
  { s2 with su := { s2.su with
    chunks := s2.su.chunks.filter (fun x => !p x)
    granted := s2.su.granted.filter fun g => !(g.1 == c && g.2.1 == q && g.2.2.1 == k) } }

/-- The pieces of a chunk that wait at its unit are discarded with it. -/
def dropPieces (s : State) (c q k : Nat) : State :=
  let mine := fun f : Frame =>
    let ws := wordsOfBytes f.payload 2
    fld (arg ws 0) 0 12 == c && fld (arg ws 1) 0 32 == q && fld (arg ws 0) 16 16 == k
  settleFree { s with su := { s.su with queue := s.su.queue.filter fun e => !mine e.2 } }

/-- A stream unit whose frame gets no cells abandons the chunk that sent it (R211). -/
def dropSender (s : State) (owner : Nat) (o : Option Orig) : State :=
  match o with
  | none => s
  | some o =>
    match s.su.chunks.find? fun c => c.unit + 648 == owner && c.out.any fun x => x.1 == frmSeq o.frame with
    | none => s
    | some c => dropChunk s c.ctx c.seq c.chunk

/-- The MBOX frame of the FORWARD in progress (12 R349). -/
def forwardFrame (fw : Fwd) (f : Frame) : Bool :=
  frmOp f == 7 && frmDest f == fw.target && f.w3.toNat == fw.mailbox && !flag ((wordsOfBytes f.payload 2).getD 1 0) 1

/-- POOL_WAIT_EXPIRED (R210, R211, 11 R333): the oldest waiter older than POOL_WAIT fails with NO_RESOURCE. -/
def poolWaitExpired (pool : Nat) (s : State) : State :=
  let us := tblGet 20 s.fab.poolWait pool
  match (s.comb.waiters.filter fun w => w.pool == pool).find? fun w => decide (w.since + us * 1200 ≤ scNow s) with
  | none => s
  | some w =>
    if !clocksRun s then s
    else
      let s1 := { s with comb := { s.comb with waiters := eraseFirst (fun x => x == w) s.comb.waiters } }
      let inStep := s.job.step.isSome
      match w.what with
      | .buffer c q k => raisePoison (dropPieces (dropChunk s1 c q k) c q k) .combWait
      | .origin i =>
        let s2 := match waitingOrig s1 i w.owner with
          | some o => { s1 with comb := { s1.comb with orig := eraseFirst (fun x => x == o) s1.comb.orig } }
          | none => s1
        if w.owner < 680 then raisePoison (dropSender s2 w.owner (waitingOrig s1 i w.owner)) .combWait
        else if w.owner < 1000 then
          if inStep && (chanOf s2 (w.owner - 680)).bound then raisePoison s2 .combWait
          else modChan s2 (w.owner - 680) fun x => { x with st := .fault, cause := 4 }
        else
          match s2.sceuf.forward, waitingOrig s1 i w.owner with
          | some fw, some o => if forwardFrame fw o.frame then endForward s2 fw .noResource 0 [] else s2
          | _, _ => s2

/-- Frames of a circuit's lists are discarded (08 R255), or of an output's lists (07 R460); a frame that is not held is a double free
(R215). -/
def dropIds (s : State) (o : Nat) (c : Cause) (depth : Nat) (ids : List Nat) : State :=
  ids.foldl (fun t id =>
    match heldFrame t id with
    | some cf =>
      let (t, bad) := combRead t fun m => m == .cell id || m == .entry o id
      if bad then t else decRef (discard t o cf.frame c cf.input o cf.colour depth) id o
    | none => doubleFree t (tblGet 0 t.comb.lastOwner id) o) s

/-- A torn-down circuit becomes not VALID, and its lists empty (R255). -/
def circuitGone (s : State) (id : Nat) : State :=
  let s1 := { s with fab := { s.fab with circuits := tblMod 0 s.fab.circuits id fun w => setFlag w 7 false } }
  let mine := s1.comb.circuitQ.filter fun e => e.1 / 113 == id
  let s2 := { s1 with comb := { s1.comb with circuitQ := s1.comb.circuitQ.filter fun e => e.1 / 113 != id } }
  mine.foldl (fun t e => dropIds t (e.1 % 113) .routeDrop (circuitDepth s e.1) e.2) s2

/-- CALENDAR_WRAP (R219, R255): once per 1,024 SC. -/
def calendarWrap (s : State) : State :=
  if !clocksRun s || scNow s / 1024 ≤ s.comb.wrapAt then s
  else
    let s1 := { s with
      fab := { s.fab with calCur := s.fab.calShadow, teardown := [] }
      comb := { s.comb with wrapAt := scNow s / 1024 } }
    s.fab.teardown.foldl circuitGone s1

/-- Delay of a queue in ns (R230): from the oldest head frame among its lists. -/
def queueDelay (s : State) (o c : Nat) : Nat :=
  let heads := (List.range 114).filterMap fun i => (tblGet [] s.comb.queues ((i * 113 + o) * 8 + c)).head?
  let arr := heads.filterMap fun id => (heldFrame s id).map (·.arrival)
  match arr with
  | [] => 0
  | a :: r => (scNow s - r.foldl min a) * 5 / 6

/-- A sample joins a record (R230, Table 7.10). -/
def addSample (x : Sample) (d l : Nat) : Sample :=
  { dMin := if x.n = 0 then d else min x.dMin d, dMax := max x.dMax d, dSum := x.dSum + d
    lMin := if x.n = 0 then l else min x.lMin l, lMax := max x.lMax l, lSum := x.lSum + l, n := x.n + 1 }

/-- QUEUE_SAMPLE (R230): at every SC that is a multiple of 1,024, each of the 904 output queues is sampled. -/
def queueSample (s : State) : State :=
  if !clocksRun s || scNow s / 1024 ≤ s.comb.sampAt then s
  else
    let t := (List.range 904).foldl (fun t k =>
      tblMod {} t k fun x => addSample x (queueDepth s (k / 8) (k % 8)) (queueDelay s (k / 8) (k % 8))) s.comb.samples
    { s with comb := { s.comb with samples := t, sampAt := scNow s / 1024 } }

/-- The latched record of a queue (Table 7.10). -/
def sampleRecord (x : Sample) : List Word :=
  let d := if x.n = 0 then 0 else x.dSum / x.n
  let l := if x.n = 0 then 0 else x.lSum / x.n
  [packW [(0, 20, x.dMin), (20, 20, x.dMax), (40, 20, d)], packW [(0, 15, x.lMin), (15, 15, x.lMax), (30, 15, l), (45, 19, x.n)]]

/-- A statistics boundary is due (13 R396): by period, or by step while a launch runs in STEP mode. -/
def boundaryDue (s : State) : Bool :=
  if s.stats.stepMode && s.job.launch.isSome then s.stats.stepDue
  else s.stats.stepDue && s.stats.stepMode || decide (s.stats.start / 1000000 < nowNs s / 1000000)

/-- Counters and queue samples are copied to the snapshot bank and restart (R396, R397), at a swarm time. -/
def takeSnapshot (s : State) (now : Nat) (step : Bool) : State :=
  { s with
    comb := { s.comb with samples := [] }
    stats := { s.stats with
      snapCounters := s.stats.counters, snapSamples := s.comb.samples, counters := []
      snapSeq := s.stats.snapSeq + 1, snapStart := s.stats.start, snapEnd := now, start := now, snapMode := step } }

/-- STATS_BOUNDARY (R396, R397): a boundary that is due. -/
def statsBoundary (s : State) : State :=
  if !clocksRun s || !boundaryDue s then s
  else takeSnapshot { s with stats := { s.stats with stepDue := false } } (nowNs s) (s.stats.stepMode && s.stats.stepDue)

/-- EPOCH_SWAP (08 R249): at Ts the ARMED bank becomes ACTIVE and the ACTIVE bank DRAINING. -/
def epochSwap (s : State) : State :=
  let due := clocksRun s && decide (s.fab.swapTime.toNat ≤ nowNs s)
  if due && s.fab.bank1 == .armed then
    { s with fab := { s.fab with bank1 := .active, bank0 := .draining, srcEpoch := true, lastSwap := s.fab.swapTime } }
  else if due && s.fab.bank0 == .armed then
    { s with fab := { s.fab with bank0 := .active, bank1 := .draining, srcEpoch := false, lastSwap := s.fab.swapTime } }
  else s

/-- EPOCH_DRAIN_END (R249): at Ts + 64 µs the DRAINING bank becomes INACTIVE. -/
def epochDrainEnd (s : State) : State :=
  let off := fun b : Bank => if b == .draining then .inactive else b
  when (clocksRun s && decide (s.fab.swapTime.toNat + 64000 ≤ nowNs s)) s
    { s with fab := { s.fab with bank0 := off s.fab.bank0, bank1 := off s.fab.bank1 } }

def execFrameIngress (i : Ingress) (s : State) := ok (frameIngress i s)
def execEgressArbitration (s : State) := ok (egressArbitration s)
def execCalendarSlotStart (o : Fin 113) (s : State) := ok (calendarSlotStart o.val s)
def execFrameSent (x : Sent) (s : State) := ok (frameSent x.output.val x.late s)
def execFrameAged (k : ListKey) (s : State) := ok (frameAged k s)
def execPauseWord (o : Fin 81) (w : Word) (s : State) := ok (pauseWord o.val w s)
def execPauseWordRepeat (p : Fin 81) (s : State) := ok (pauseWordRepeat p.val s)
def execPauseExpired (o : Fin 64) (c : Fin 8) (s : State) := ok (pauseExpired o.val c.val s)
def execPoolWaiterGrant (p : Fin 4) (s : State) := ok (poolWaiterGrant p.val s)
def execPoolWaitExpired (p : Fin 4) (s : State) := ok (poolWaitExpired p.val s)
def execCalendarWrap (s : State) := ok (calendarWrap s)
def execQueueSample (s : State) := ok (queueSample s)
def execStatsBoundary (s : State) := ok (statsBoundary s)
def execEpochSwap (s : State) := ok (epochSwap s)
def execEpochDrainEnd (s : State) := ok (epochDrainEnd s)

end Sys2Proof.Machine
end

