-- ==== Sys2Proof/Machine/Sideband.lean ====
section
/-! DEFINITION. The sideband's ordered sets (10 R309, R310): poison, fence, beacons, freeze and thaw, and swarm time
(13 R373, R374, R387-R389; 12 R355; 14 R402, R403, R411-R418). -/

namespace Sys2Proof.Machine

/-- A set passes CHK, holds no code violation and sets no bit that Table 10.7 leaves at 0 (R309). -/
def setOk (code : Byte) (zero : BitVec 40) (rx : SetRx) : Bool :=
  rx.chk == crc8 (code :: bytesOfNat rx.payload.toNat 5) && !rx.violation && rx.payload &&& zero == 0

/-- An identical set has been acted on within 1 µs (R310). -/
def isRepeat (s : State) (code : Byte) (rx : SetRx) : Bool :=
  s.ports.any fun e => e.2.recent.any fun r => r.1 == code && r.2.1 == rx.payload && decide (nowNs s < r.2.2 + 1000)

/-- A set is noted as acted on (R310). -/
def noteSet (s : State) (code : Byte) (rx : SetRx) : State :=
  modPort s rx.port.val fun q => { q with
    recent := (q.recent.filter fun r => decide (nowNs s < r.2.2 + 1000)) ++ [(code, rx.payload, nowNs s)] }

/-- A set as it arrives on a sideband that is up (R309): acted on by `f`, or ignored and counted SB_ERROR. -/
def onSet (s : State) (code : Byte) (zero : BitVec 40) (rx : SetRx) (f : State → State) : State :=
  if !auxOn s || !(portOf s rx.port.val).sb then s
  else if !setOk code zero rx then count s .sbError rx.port.val
  else f s

/-- As `onSet`, for the sets that are sent three times: a repeat within 1 µs is ignored (R310). -/
def onTriple (s : State) (code : Byte) (zero : BitVec 40) (rx : SetRx) (f : State → State) : State :=
  onSet s code zero rx fun t => if isRepeat t code rx then t else f (noteSet t code rx)

/-- The sidebands that are up, but for one. -/
def otherPorts (s : State) (p : Nat) : List Nat := (sbPorts s).filter (· != p)

/-- The clocks are stopped by a freeze (R415). -/
def clocksHeld (s : State) : Bool := s.dev.frozenPin && (s.dev.mode == .frozen || s.dev.mode == .safe)

/-- A POISON that matches no step in progress is counted (R374): LATE for a step that the module has committed under the key, of which
it knows the last (assumption 124), STALE otherwise. -/
def countPoison (s : State) (pay : BitVec 40) : State :=
  let past := match s.job.lastCommit with
    | some (k, n) => k == fld pay 0 12 && decide ((n + 65536 - fld pay 16 16) % 65536 < 32768)
    | none => false
  count s (if past then .poisonLate else .poisonStale)

/-- A POISON set (R373, R374): it goes on where its key runs. On a poisoned step HOST_REPLAY releases the hold (R389), HOST_ABORT ends
it. -/
def poisonSet (s : State) (port : Nat) (pay : BitVec 40) : State :=
  match s.job.launch with
  | none => countPoison s pay
  | some l =>
    if fld pay 0 12 != l.pkey then countPoison s pay
    else
      let step := fld pay 16 16
      let s1 := sendSets s (otherPorts s port) codePoison pay 3
      match s1.job.step with
      | some st =>
        if st.seq % 65536 == step && !st.committing then
          (if st.poisoned.isNone then actPoison s1 (fld pay 32 8)
          else if fld pay 32 8 % 128 = PCause.hostReplay.code then releaseHold s1
          else if fld pay 32 8 % 128 = PCause.hostAbort.code then actPoison s1 (fld pay 32 8)
          else s1)
        else countPoison s1 pay
      | none => countPoison s1 pay

/-- A FENCE set (R389, Table 12.8): it acts with an epoch above MEMBERSHIP_EPOCH, which it then becomes. -/
def fenceSet (s : State) (pay : BitVec 40) : State :=
  let epoch := fld pay 0 32
  if epoch ≤ s.dev.epoch.toNat then s
  else
    let s1 := { s with dev := { s.dev with epoch := BitVec.ofNat 32 epoch } }
    if flag pay 32 then
      (match s.dev.mode with
      | .joined => setMode s1 .fenced
      | .active => fenceLaunch (setMode s1 .fenced)
      | _ => s)
    else if s.dev.mode == .fenced then setMode s1 .joined
    else s

/-- POISON (R374): held while frozen (14 R415). -/
def poison (rx : SetRx) (s : State) : State :=
  onTriple s codePoison 0xF000 rx fun t =>
    if clocksHeld t then { t with dev := { t.dev with heldSets := t.dev.heldSets ++ [rx] } } else poisonSet t rx.port.val rx.payload

/-- FENCE (12 R355): held while frozen (14 R415). -/
def fence (rx : SetRx) (s : State) : State :=
  onTriple s codeFence 0xFE00000000 rx fun t =>
    if clocksHeld t then { t with dev := { t.dev with heldSets := t.dev.heldSets ++ [rx] } } else fenceSet t rx.payload

/-- The sets held during a freeze act in their order of arrival (14 R415). CHK tells a POISON from a FENCE. -/
def actHeld (s : State) : State :=
  let held := s.dev.heldSets
  held.foldl (fun t rx => if setOk codePoison 0xF000 rx then poisonSet t rx.port.val rx.payload else fenceSet t rx.payload)
    { s with dev := { s.dev with heldSets := [] } }

/-- Event-log kinds: a neighbour falls silent, is heard again; a rehearsal runs, is skipped. -/
def evSilent : Nat := 1
def evHeard : Nat := 2
def evRehearsal : Nat := 3
def evSkipped : Nat := 4

/-- BEACON (13 R387, R388): the neighbour is alive; with state 8 the port is fenced. -/
def beacon (rx : SetRx) (s : State) : State :=
  onSet s codeBeacon 0 rx fun t =>
    let p := rx.port.val
    let q := portOf t p
    let st := fld rx.payload 32 8
    let t1 := modPort t p fun q => { q with beaconRx := nowNs t, nbState := st, nbW1 := setFlag q.nbW1 49 false }
    let t2 := if flag q.nbW1 49 then logEvent t1 evHeard p else t1
    if st = 8 then { t2 with fab := { t2.fab with fence := tblSet false t2.fab.fence p true } } else t2

/-- BEACON_SEND (R388): every 10 µs, from BOOT onward, while the management complex services its watchdog. -/
def beaconSend (s : State) : State :=
  if s.dev.mode.code < 2 || s.dev.recovery then s
  else ((sbPorts s).filter fun p => decide ((portOf s p).beaconTx + 10000 ≤ nowNs s)).foldl sendBeacon s

/-- NEIGHBOUR_SILENT (R388): three 10 µs intervals without a BEACON. -/
def neighbourSilent (p : Nat) (s : State) : State :=
  let q := portOf s p
  when (auxOn s && q.sb && !flag q.nbW1 49 && decide (q.beaconRx + 30000 ≤ nowNs s)) s
    (logEvent (count (modPort s p fun q => { q with nbW1 := setFlag q.nbW1 49 true }) .neighbourSilent p) evSilent p)

/-- The module freezes (R412, R413): its clocks stop, and STATE is FROZEN but in AUX, BOOT and SAFE. -/
def freezeNow (s : State) : State :=
  if s.dev.frozenPin then s
  else
    let s1 := { s with dev := { s.dev with frozenPin := true, frozeAt := s.clk.t48, frozenRx := 0 } }
    match s.dev.mode with
    | .ready | .joined | .active | .fenced => setMode { s1 with dev := { s1.dev with remembered := s.dev.mode } } .frozen
    | .safe => msix s1 66
    | _ => s1

/-- O of R393 (13). -/
def smokerOffset (s : State) : Nat :=
  let p := smokerPeriod s
  (if s.ident.side then p / 2 else 0) + (mix s.ident.serial).toNat % (p / 2 - 1000000000)

/-- How many rehearsals have fallen up to a time, and up to now (13 R393). -/
def rehearsalsAt (s : State) (t : Nat) : Nat := if t < smokerOffset s then 0 else (t - smokerOffset s) / smokerPeriod s + 1
def rehearsalsDue (s : State) : Nat := rehearsalsAt s (nowNs s)

/-- Patrols whose times fell in a freeze, which began at time t of swarm time in ns, are not run (R416). -/
def skipPatrols (s : State) (t : Nat) : State :=
  let skip := fun (ph n : Nat) => if passesAt t (ph * 15625) < passesOf s (ph * 15625) then passesOf s (ph * 15625) else n
  let queens := (List.range s.comp.clusters.length).foldl (fun u q => match s.comp.clusters.getD q none with
    | some ph => tblMod {} u q fun x => { x with lastPatrol := skip ph x.lastPatrol }
    | none => u) s.comp.queens
  let units := (List.range 32).foldl (fun u k => tblMod 0 u k (skip k)) s.su.lastPatrol
  let late := fun (period n : Nat) => if t / period < nowNs s / period then nowNs s / period else n
  { s with
    comp := { s.comp with queens := queens, walkAt := late 10000000 s.comp.walkAt }
    su := { s.su with lastPatrol := units }
    hbm := { s.hbm with scrubAt := if t / 86400000000000 < nowNs s / 86400000000000 then nowNs s / 86400000000000 + 1 else s.hbm.scrubAt } }

/-- What is keyed to swarm time and fell in a freeze takes effect once each, in order of time (R416): the calendar slots, the 1 ms
boundaries of statistics, and smoker times, which SMOKER_REHEARSAL then takes one by one. Frame age, queue delay, epoch swaps and
drains go by the time that has elapsed. `t48` is when the freeze began. -/
def missedEvents (s : State) (t48 : Nat) : State :=
  let t := t48 / 48
  let s1 := skipPatrols s t
  let slots := (List.range (scNow s - t48 / 40 - 1)).map fun k => t48 / 40 + 1 + k
  let s2 := slots.foldl (fun u sc => (List.range 113).foldl (fun v o => slotStart v o (sc % 1024)) u) s1
  let ends := (List.range (nowNs s / 1000000 - t / 1000000)).map fun k => (t / 1000000 + 1 + k) * 1000000
  let s3 := if s.stats.stepMode && s.job.launch.isSome then s2 else ends.foldl (fun u b => takeSnapshot u b false) s2
  let n := if flag s.health.smoker 0 then rehearsalsDue s - max s.health.lastRehearsal (rehearsalsAt s t) else 0
  { s3 with health := { s3.health with missed := s3.health.missed + n, lastRehearsal := s3.health.lastRehearsal + n } }

/-- The module resumes when it holds no id and FREEZE_N is high (R418, R415). -/
def resume (s : State) : State :=
  if isFrozen s || !s.dev.frozenPin then s
  else
    let s1 := { s with dev := { s.dev with frozenPin := false, frozenRx := 0, stageHeld := false } }
    let s2 := countN (if s.dev.mode == .frozen then setMode s1 s.dev.remembered else s1) .frozenRxDiscard 0 s.dev.frozenRx
    if clocksHeld s then
      let cut := (List.range 113).filter fun o => !(decide (o < 64) && (portOf s o).tx == .sparing)
      actHeld (missedEvents (cut.foldl (fun t o => cutCopy t o (s.dev.frozeAt * 50400)) s2) s.dev.frozeAt)
    else s2

/-- A freeze id is taken (R411); `quiet` when it came from a command with propagate clear. -/
def takeFreeze (s : State) (id : Nat) (quiet : Bool) : State :=
  freezeNow { s with dev := { s.dev with freezeIds := s.dev.freezeIds ++ [(id, quiet)] } }

/-- A FREEZE or THAW payload with its hop count raised, unless it is 255 already (R414). -/
def hopOn (pay : BitVec 40) : Option (BitVec 40) := if fld pay 32 8 = 255 then none else some (setFld pay 32 8 (fld pay 32 8 + 1))

/-- A received set is forwarded on the other sidebands (R414). -/
def forwardSet (s : State) (code : Byte) (port : Nat) (pay : BitVec 40) : State :=
  match hopOn pay with
  | some p => sendSets s (otherPorts s port) code p 3
  | none => s

/-- The payload of a FREEZE or THAW set that this module originates (10 Table 10.7, R414). -/
def freezePayload (s : State) (id : Nat) : BitVec 40 := BitVec.ofNat 40 (pack [(0, 16, id), (16, 16, s.dev.eid.toNat)])

/-- A set is forwarded, and the module sends its own on every sideband that is up (R414). -/
def passSet (s : State) (code : Byte) (port : Nat) (pay : BitVec 40) : State :=
  sendSets (forwardSet s code port pay) (sbPorts s) code (freezePayload s (fld pay 0 16)) 3

/-- The module drives FREEZE_N low while it holds an id that it did not take with propagate clear (R411), and the contact is low while
the module or one outside drives it (16 Table 16.2). -/
def drivesFreezeN (s : State) : Bool := auxOn s && s.dev.freezeIds.any fun h => !h.2
def freezeNPin (s : State) : Bool := !(s.dev.freezeNLow || drivesFreezeN s)

/-- FREEZE_ORDERED_SET (R414): an id that the module does not hold is taken and passed on. -/
def freezeOrderedSet (rx : SetRx) (s : State) : State :=
  onTriple s codeFreeze 0 rx fun t =>
    let id := fld rx.payload 0 16
    if t.dev.freezeIds.any fun h => h.1 == id then t
    else takeFreeze (passSet t codeFreeze rx.port.val rx.payload) id false

/-- Ids are cleared (R411): one, or all by 0xFFFF. -/
def clearFreeze (s : State) (id : Nat) : State :=
  { s with dev := { s.dev with freezeIds := if id = 0xFFFF then [] else s.dev.freezeIds.filter fun h => h.1 != id } }

/-- The module holds an id that a THAW names (R411). -/
def holdsFreeze (s : State) (id : Nat) : Bool := s.dev.freezeIds.any fun h => h.1 == id || id == 0xFFFF

/-- THAW_ORDERED_SET (R414): a held id is cleared and the set passed on; the module resumes when none remains. -/
def thawOrderedSet (rx : SetRx) (s : State) : State :=
  onTriple s codeThaw 0 rx fun t =>
    let id := fld rx.payload 0 16
    if holdsFreeze t id then resume (clearFreeze (passSet t codeThaw rx.port.val rx.payload) id) else t

/-- FREEZE_N_ASSERT (R413): the level at the contact is there without AUX power too (16 R445). -/
def freezeNAssert (s : State) : State :=
  let t := { s with dev := { s.dev with freezeNLow := true } }
  if auxOn s then freezeNow t else t

/-- FREEZE_N_RELEASE (R418). -/
def freezeNRelease (s : State) : State :=
  let t := { s with dev := { s.dev with freezeNLow := false } }
  if auxOn s then resume t else t

/-- Fields of a neighbour-table entry's W1 (12 R360). -/
def nbHive (q : Port) : Nat := fld q.nbW1 29 10
def nbValid (q : Port) : Bool := flag q.nbW1 48

/-- Of two candidates the one with the lower (hive, port). -/
def lowerHive (a : Option (Nat × Nat)) (b : Nat × Nat) : Option (Nat × Nat) :=
  match a with
  | none => some b
  | some x => if x.1 < b.1 || (x.1 == b.1 && decide (x.2 ≤ b.2)) then some x else some b

/-- Port 31 is up to the twin (08 R271). -/
def twinUp (s : State) : Bool := s.ident.twinPresent && (portOf s 31).peerTwin && outUp s 31

/-- The time parent by the first rule of R402 that applies; 127: a root. -/
def timeParent (s : State) : Nat :=
  let early := s.dev.mode == .aux || s.dev.mode == .boot
  let slot := s.ident.slot.toNat
  match if early then (sbPorts s).find? fun p => decide (3 ≤ (portOf s p).nbState) else none with
  | some p => p
  | none =>
    if s.ident.side && twinUp s && (portOf s 31).sb then 31
    else if slot != 0 && (portOf s (31 - slot)).sb then 31 - slot
    else if slot != 0 then 127
    else
      let up := (sbPorts s).filter fun p => decide (32 ≤ p) && outUp s p && nbValid (portOf s p) && decide (nbHive (portOf s p) < s.ident.hive.toNat)
      match (up.map fun p => (nbHive (portOf s p), p)).foldl lowerHive none with
      | some x => x.2
      | none => 127

/-- TIME_PARENT_CHANGE (R402): the parent that the rules give is taken. -/
def timeParentChange (s : State) : State :=
  let p := timeParent s
  when (auxOn s && p != s.clk.parent) s
    { s with clk := { s.clk with parent := p, root := p == 127, asked := none, parentLost := none } }

/-- TIME_SEND (R403): every 1 µs to the time parent; the exchange counts from when the set leaves. -/
def timeSend (s : State) : State :=
  let p := s.clk.parent
  when (auxOn s && p < 64 && (portOf s p).sb && decide (s.clk.askAt + 48000 ≤ s.clk.t48)) s
    (sendSet { s with clk := { s.clk with askAt := s.clk.t48 } } p codeTime 0 1)

/-- 64 and 128 BCLK cycles in 1/48 ns. -/
def answerDelay : Nat := 12800
def answerLimit : Nat := 25600

/-- No set and no waggle frame occupies a port's sideband, and none of higher priority waits for it (10 R310, R403). -/
def sideFree (s : State) (p : Nat) : Bool :=
  (portOf s p).sb && decide ((portOf s p).sbBusy ≤ s.clk.ticks) && decide ((portOf s p).wagEnd ≤ s.clk.ticks) &&
    !s.sbq.any fun e => sidePort e == p && decide (sideRank e < 3)

/-- TIME_ANSWER (R403): exactly 64 BCLK cycles after the child's set arrived; an answer that is late, or that finds the sideband
occupied, is not sent. -/
def timeAnswer (p : Nat) (s : State) : State :=
  match s.clk.due.find? fun d => d.1 == p && decide (d.2 ≤ s.clk.t48) with
  | none => s
  | some d =>
    let s1 := { s with clk := { s.clk with due := eraseFirst (· == d) s.clk.due } }
    if s.clk.t48 < d.2 + 200 && sideFree s p then emit (sideTaken s1 p false) (.ordered p codeTime (timePayload d.2)) else s1

/-- The signed offset of an answer in 1/48 ns (R403): sent at t1, arrived at t4, payload p in ns. -/
def timeOffset (t1 t4 : Nat) (p : BitVec 40) : Int :=
  let m : Int := ((2 ^ 40 * 48 : Nat) : Int)
  let rtt : Int := (t4 : Int) - (t1 : Int) - (answerDelay : Int)
  let d := (48 * (p.toNat : Int) + rtt / 2 - (t4 : Int)) % m
  if d < m / 2 then d else d - m

/-- The parent's answer is used (R403): a step before READY, a slew from READY onward. -/
def useAnswer (s : State) (t1 : Nat) (p : BitVec 40) : State :=
  let d := timeOffset t1 s.clk.t48 p
  let c := { s.clk with asked := none, offset := BitVec.ofInt 32 (d / 3) }
  let step := fun t : Nat => ((t : Int) + d).toNat
  if s.dev.mode.code < 3 then
    { s with clk := { c with t48 := step c.t48, askAt := step c.askAt, due := c.due.map fun e => (e.1, step e.2) } }
  else { s with clk := { c with slew := d, timeFault := decide (48000 < d.natAbs) } }

/-- TIME (R403): the set of a child, which is to be answered, or the parent's answer; a late one is discarded (assumption 129). -/
def time (rx : SetRx) (s : State) : State :=
  onSet s codeTime 0 rx fun t =>
    if rx.port.val != t.clk.parent then { t with clk := { t.clk with due := t.clk.due ++ [(rx.port.val, t.clk.t48 + answerDelay)] } }
    else
      match t.clk.asked with
      | some t1 =>
        if t1 + answerLimit < t.clk.t48 then { t with clk := { t.clk with asked := none } } else useAnswer t t1 rx.payload
      | none => t

/-- TIME_ANSWER_MISSING (R403): no answer within 128 BCLK cycles of sending. -/
def timeAnswerMissing (s : State) : State :=
  match s.clk.asked with
  | some t => when (auxOn s && decide (t + answerLimit < s.clk.t48)) s { s with clk := { s.clk with asked := none } }
  | none => s

def execPoison (rx : SetRx) (s : State) := ok (poison rx s)
def execFence (rx : SetRx) (s : State) := ok (fence rx s)
def execBeacon (rx : SetRx) (s : State) := ok (beacon rx s)
def execBeaconSend (s : State) := ok (beaconSend s)
def execNeighbourSilent (p : Fin 64) (s : State) := ok (neighbourSilent p.val s)
def execFreezeOrderedSet (rx : SetRx) (s : State) := ok (freezeOrderedSet rx s)
def execThawOrderedSet (rx : SetRx) (s : State) := ok (thawOrderedSet rx s)
def execFreezeNAssert (s : State) := ok (freezeNAssert s)
def execFreezeNRelease (s : State) := ok (freezeNRelease s)
def execTimeSend (s : State) := ok (timeSend s)
def execTimeAnswer (p : Fin 64) (s : State) := ok (timeAnswer p.val s)
def execTime (rx : SetRx) (s : State) := ok (time rx s)
def execTimeAnswerMissing (s : State) := ok (timeAnswerMissing s)
def execTimeParentChange (s : State) := ok (timeParentChange s)

end Sys2Proof.Machine
end

