-- ==== Sys2Proof/Machine/Ports.lean ====
section
/-! DEFINITION. External ports: the waggle and negotiation, bring-up and measurement, lane failures and sparing, and the
port's going down (08 R256, R263, R267-R271; 10 R299-R307; 07 R460; 13 R388). -/

namespace Sys2Proof.Machine

/-- The part number of the grade (00 R1). -/
def partName (g : Grade) : List Char :=
  match g with
  | .x => "UBL-TG3X-768".toList
  | .m => "UBL-TG3M-576".toList
  | .f => "UBL-TG3F-384".toList

/-- Word k of a waggle frame, and its bytes 0 to 55 (Table 8.11). -/
def wagWord (w : BitVec 512) (k : Nat) : Word := wordAt w k
def wagBytes (w : BitVec 512) : List Byte := bytesOfNat (w.toNat % 2 ^ 448) 56

/-- CRC of a waggle frame (R267). -/
def wagOk (w : BitVec 512) : Bool := crc32c (wagBytes w) == BitVec.ofNat 32 (fld w 448 32)

/-- Fields of a waggle frame (Table 8.11). -/
def wgType (w : BitVec 512) : Nat := fld w 0 8
def wgPort (w : BitVec 512) : Nat := fld w 8 8
def wgSlot (w : BitVec 512) : Nat := fld w 16 5
def wgHive (w : BitVec 512) : Nat := fld w 21 10
def wgSide (w : BitVec 512) : Bool := flag w 31
def wgSet (w : BitVec 512) : Nat := fld w 32 3
def wgChosen (w : BitVec 512) : Nat := fld w 40 8
def wgReason (w : BitVec 512) : Nat := fld w 48 8
def wgTwin (w : BitVec 512) : Bool := flag w 56
def wgSerial (w : BitVec 512) : Word := wagWord w 1
def wgPeer (w : BitVec 512) : Word := wagWord w 2
def wgPart (w : BitVec 512) : Nat := fld w 192 128
def wgFw (w : BitVec 512) : Nat := fld w 320 32
def wgEid (w : BitVec 512) : Nat := fld w 384 16

/-- A waggle frame with its CRC. -/
def withWagCrc (w : BitVec 512) : BitVec 512 := setFld w 448 32 (crc32c (wagBytes w)).toNat

/-- The MFP versions that a port offers (R269). -/
def mfpMask (s : State) (p : Nat) : Nat := fld (tblGet (7 + 2048 * 256) s.fab.portCfg p) 0 3

/-- A waggle frame of this module from port p (Table 8.11). -/
def myWaggle (s : State) (p type chosen reason : Nat) (peer : Word) : BitVec 512 :=
  let part := natOfBytes (asciiBytes (partName s.ident.grade) 16)
  withWagCrc (BitVec.ofNat 512 (pack [(0, 8, type), (8, 8, p), (16, 5, s.ident.slot.toNat), (21, 10, s.ident.hive.toNat),
    (31, 1, s.ident.side.toNat), (32, 3, mfpMask s p), (40, 8, chosen), (48, 8, reason), (56, 1, s.ident.twinPresent.toNat),
    (64, 64, s.ident.serial.toNat), (128, 64, peer.toNat), (192, 128, part), (320, 32, s.sec.fwVersion.toNat), (384, 16, s.dev.eid.toNat)]))

/-- A waggle frame is to go out behind its WAGGLE set (R267, 10 R310). -/
def sendWaggle (s : State) (p : Nat) (w : BitVec 512) : State := { s with sbq := s.sbq ++ [.waggle p w] }

/-- A sparing frame (Table 10.6). -/
def sendSparing (s : State) (p type llane : Nat) (narrow : Bool) : State :=
  sendWaggle s p (withWagCrc (BitVec.ofNat 512 (pack [(0, 8, type), (8, 8, p), (16, 3, llane), (19, 1, narrow.toNat), (64, 64, s.ident.serial.toNat)])))

/-- The data lanes of a port are down (R303). -/
def lanesDown (q : Port) : Bool := q.tx == .down || q.tx == .negotiate

/-- Frames on an output's lists are discarded with cause PORT_DOWN, and the copy in progress is lost (R460). -/
def dropOutput (s : State) (o : Nat) : State :=
  let qs := s.comb.queues.filter fun e => e.1 / 8 % 113 == o
  let cs := s.comb.circuitQ.filter fun e => e.1 % 113 == o
  let copies := (tblGet {} s.comb.egress o).copies
  let s1 := { s with comb := { s.comb with
    queues := s.comb.queues.filter fun e => e.1 / 8 % 113 != o
    circuitQ := s.comb.circuitQ.filter fun e => e.1 % 113 != o
    egress := tblSet {} s.comb.egress o {} } }
  let s2 := qs.foldl (fun t e => dropIds t o .portDown (queueDepth s o (e.1 % 8)) e.2) s1
  let s3 := cs.foldl (fun t e => dropIds t o .portDown (circuitDepth s e.1) e.2) s2
  copies.foldl (fun t c => decRef t c.frame o) s3

/-- Both directions of a port go DOWN (R460, R303, R304): its settings return to those of a port that is down. -/
def portDown (s : State) (p : Nat) : State :=
  let s1 := modPort s p fun q => { q with
    tx := .down, rx := .down, mfp := 0, deskew := 0, txMap := 0x76543210, rxMap := 0x76543210
    txLanes := List.replicate 9 .off, rxLanes := List.replicate 9 .off, linkDelay := 0, probesSent := 0, probes := [], probeAt := []
    sentAccept := none, recvAccept := none, linkUp := none, rxSparing := none, txSparing := none, txNarrow := false
    txMoved := false, rxSince := none, txSince := none, rehearsed := false, resync := false, nbW1 := setFld q.nbW1 40 8 0 }
  let s2 := { s1 with
    comb := { s1.comb with
      hdrmSize := tblSet 0 s1.comb.hdrmSize p 0, hdrmLen := tblSet 0 s1.comb.hdrmLen p 0
      pauseRx := tblSet {} s1.comb.pauseRx p {} }
    health := if p = 31 then { s1.health with paired := false } else s1.health }
  recomputeHealth (dropOutput s2 p)

/-- A port stays down by a fault, which counts and shows in health (Table 13.8). -/
def portFault (s : State) (p : Nat) (f : PFault) (c : Ctr) : State :=
  recomputeHealth (modPort (portDown (count s c p) p) p fun q => { q with fault := some f })

/-- ANNOUNCE_SEND (R268): every 100 µs with the data lanes down, every 1 ms with them up, from BOOT onward. -/
def announceSend (p : Nat) (s : State) : State :=
  let q := portOf s p
  let period := if lanesDown q then 100000 else 1000000
  when (decide (2 ≤ s.dev.mode.code) && q.sb && decide (q.lastAnnounce + period ≤ nowNs s)) s
    (sendWaggle (modPort s p fun q => { q with lastAnnounce := nowNs s }) p (myWaggle s p 1 0 0 0))

/-- The highest version that both ends offer, as a VER code; none when they share none (R269). -/
def commonVersion (a b : Nat) : Option Nat :=
  let c := a &&& b
  if c.testBit 2 then some 0x31 else if c.testBit 1 then some 0x30 else if c.testBit 0 then some 0x24 else none

/-- MFP of PORT_STATUS for a VER code (Table 10.4). -/
def mfpOfVer (v : Nat) : Nat := if v = 0x31 then 3 else if v = 0x30 then 2 else if v = 0x24 then 1 else 0

/-- The peer of port p breaks R265 (R269). -/
def wiringBad (s : State) (p : Nat) (w : BitVec 512) : Bool :=
  let slot := s.ident.slot.toNat
  if 32 ≤ p then false
  else
    wgHive w != s.ident.hive.toNat ||
    (if p = 31 && s.ident.twinPresent then wgSide w == s.ident.side || wgSlot w != slot || wgPort w != 31
    else
      let wantSlot := if p = 31 then (slot + 16) % 32 else (slot + p + 1) % 32
      let wantPort := if p = 31 then 31 else 30 - p
      wgSide w != s.ident.side || wgSlot w != wantSlot || wgPort w != wantPort)

/-- Twins must send the same PART and FW (R271). -/
def twinBad (s : State) (p : Nat) (w : BitVec 512) : Bool :=
  p == 31 && s.ident.twinPresent && wgTwin w &&
    (wgPart w != natOfBytes (asciiBytes (partName s.ident.grade) 16) || wgFw w != s.sec.fwVersion.toNat)

/-- The slot EEPROM's signed offset to setting k of a lane for a fibre-length class (R302, 16 Table 16.7): the row of class 7 for an
unknown class, and none without a usable EEPROM (16 R454). -/
def laneOffset (s : State) (cls k : Nat) : Int :=
  match s.ident.eeprom with
  | some e => if s.ident.eepromOk then ((e.getD (40 + 12 * ((if cls = 0 then 7 else cls) - 1) + k) 0).toInt) else 0
  | none => 0

/-- The fixed settings of a port's nine data lanes (R302): the calibration table's, with the offsets of its class. -/
def laneSettings (s : State) (p cls : Nat) : List (List Int) :=
  (List.range 9).map fun lane => (List.range 12).map fun k => Config.calRow p lane k + laneOffset s cls k

/-- The lanes of a port in TRAIN: all nine, but λ8 stays off under MFP 2.4 (R306). -/
def lockingLanes (ver : Nat) : List Lane := List.replicate 8 .locking ++ [if mfpOfVer ver = 1 then .off else .locking]

/-- A port whose ACCEPTs match enters TRAIN with its fixed settings (R269, R302); the peer and CHOSEN are recorded (R268, R269). -/
def tryTrain (s : State) (p : Nat) : State :=
  let q := portOf s p
  match q.sentAccept, q.recvAccept with
  | some a, some b =>
    if a == b && lanesDown q then
      if s.ident.calBad.contains p then portFault s p .calBad .calBad
      else modPort s p fun q => { q with
        tx := .train, rx := .train, acceptAt := nowNs s, mfp := mfpOfVer a.1, flc := fld s.ident.flc (3 * p) 3
        linkUp := some (a.2, fld q.nbW1 16 8), nbW1 := setFld q.nbW1 40 8 a.1, settings := laneSettings s p (fld s.ident.flc (3 * p) 3)
        txLanes := lockingLanes a.1, rxLanes := lockingLanes a.1 }
    else s
  | _, _ => s

/-- The neighbour entry that an ANNOUNCE gives (R269, 12 R360), and the peer's TWIN (R271); CHOSEN and DEAD stand. -/
def recordPeer (q : Port) (w : BitVec 512) : Port :=
  { q with
    nbSerial := wgSerial w, peerTwin := wgTwin w
    nbW1 := packW [(0, 16, wgEid w), (16, 8, wgPort w), (24, 5, wgSlot w), (29, 10, wgHive w), (39, 1, (wgSide w).toNat),
      (40, 8, fld q.nbW1 40 8), (48, 1, 1), (49, 1, (flag q.nbW1 49).toNat)] }

/-- A REJECT goes out, and the port stays down (R269, R271). -/
def rejectPeer (s : State) (p : Nat) (w : BitVec 512) (reason : Nat) : State :=
  let s1 := sendWaggle s p (myWaggle s p 3 0 reason (wgSerial w))
  if reason = 1 then portFault s1 p .linkNoVersion .linkNoVersion
  else if reason = 2 then portFault s1 p .wiringFault .wiringFault
  else
    let s2 := count s1 .twinMismatch
    recomputeHealth (portDown { s2 with health := { s2.health with twinMismatch := true, paired := false } } p)

/-- A waggle frame of a type is received after a good WAGGLE set, on a sideband that is up, in a state from BOOT onward (R267, R268,
10 R309). -/
def wagHeard (s : State) (rx : WaggleRx) (type : Nat) : Bool :=
  decide (2 ≤ s.dev.mode.code) && (portOf s rx.set.port.val).sb && setOk codeWaggle (~~~0) rx.set && wagOk rx.bits &&
    wgType rx.bits == type

/-- A waggle frame that is not heard is ignored; a bad WAGGLE set counts (10 R309). -/
def wagIgnored (s : State) (rx : WaggleRx) : State := onSet s codeWaggle (~~~0) rx.set fun t => t

/-- ANNOUNCE (R268, R269): recorded, checked and answered. Without HIVE_PRESENT_N, ports E0 to E31 stay DOWN (16 R446). -/
def announce (rx : WaggleRx) (s : State) : State :=
  let p := rx.set.port.val
  let w := rx.bits
  if !wagHeard s rx 1 then wagIgnored s rx
  else
    let q := portOf s p
    let moved := !lanesDown q && q.linkUp != some (wgSerial w, wgPort w)
    let s1 := modPort (if moved then portDown s p else s) p fun q => recordPeer q w
    if p < 32 && !s.ident.hivePresent then s1
    else
      match commonVersion (mfpMask s p) (wgSet w) with
      | none => rejectPeer s1 p w 1
      | some v =>
        if wiringBad s p w then rejectPeer s1 p w 2
        else if twinBad s p w then rejectPeer s1 p w 3
        else
          let s2 := sendWaggle s1 p (myWaggle s p 2 v 0 (wgSerial w))
          let s3 := modPort s2 p fun q =>
            if lanesDown q then { q with sentAccept := some (v, wgSerial w), tx := .negotiate, rx := .negotiate } else q
          tryTrain s3 p

/-- ACCEPT (R269): it names this module's serial. -/
def accept (rx : WaggleRx) (s : State) : State :=
  let p := rx.set.port.val
  if !wagHeard s rx 2 then wagIgnored s rx
  else if wgPeer rx.bits != s.ident.serial || (p < 32 && !s.ident.hivePresent) then s
  else tryTrain (modPort s p fun q => if lanesDown q then { q with recvAccept := some (wgChosen rx.bits, wgSerial rx.bits) } else q) p

/-- REJECT (R269, R271): the port stays down with its fault counted. -/
def reject (rx : WaggleRx) (s : State) : State :=
  let p := rx.set.port.val
  if !wagHeard s rx 3 then wagIgnored s rx
  else if wgPeer rx.bits != s.ident.serial then s
  else if wgReason rx.bits = 1 then portFault s p .linkNoVersion .linkNoVersion
  else if wgReason rx.bits = 2 then portFault s p .wiringFault .wiringFault
  else if wgReason rx.bits = 3 then
    let s1 := count s .twinMismatch
    recomputeHealth (portDown { s1 with health := { s1.health with twinMismatch := true, paired := false } } p)
  else s

/-- LINKPROBE frames of the port's link logic: probe k, or the echo of a frame (Table 8.2, R256). -/
def probeFrame (s : State) (p k : Nat) : Frame := mkFrame 7 0 3 9 p s.dev.eid.toNat 0 0 k false 0 []

/-- The next probe leaves (R256), with the link's VER and the active bank's EPOCH (R239, R249). -/
def sendProbe (s : State) (p : Nat) : State :=
  let f := leaving s p (probeFrame s p (portOf s p).probesSent) s.fab.srcEpoch false
  emit (modPort s p fun q => { q with probesSent := q.probesSent + 1, probeAt := q.probeAt ++ [scNow s] }) (.frame p f none)

/-- Fibre length that a class stands for (Table 10.2, R263). -/
def fibreLen (c : Nat) : Nat := [150, 2, 5, 10, 30, 50, 100, 150].getD c 150

/-- H of R263. -/
def headroom (p mfp flc : Nat) : Nat :=
  let c := if mfp = 1 then 5 else 2
  let t := if p < 32 then 120 else 220
  c * ceilDiv (12 * (10 * fibreLen flc + t)) 10 + 34

/-- A port comes UP when its headroom fits P0 (R263, R212), else HDRM_SHORT; its fault is over (Table 13.8). Port 31 pairs the twins
when both set TWIN; that PART and FW agree was checked before the ACCEPT (R271). -/
def bringUp (s : State) (p delay : Nat) : State :=
  let q := portOf s p
  let h := headroom p q.mfp q.flc
  if poolCount 0 < reservedTotal s 0 + h then portFault s p .hdrmShort .hdrmShort
  else
    let pair := p == 31 && s.ident.twinPresent && q.peerTwin
    let s1 := modPort s p fun q => { q with tx := .up, rx := .up, linkDelay := delay, fault := none }
    let s2 := { s1 with
      comb := { s1.comb with hdrmSize := tblSet 0 s1.comb.hdrmSize p h, hdrmLen := tblSet 0 s1.comb.hdrmLen p (fibreLen q.flc) }
      health :=
        let h := { s1.health with twinSettled := s1.health.twinSettled || p == 31 }
        if pair then { h with paired := true, twinLost := false, twinMismatch := false } else h }
    recomputeHealth s2

/-- The skew D in whole SCLK cycles (R299): the spread of the times, in 1/48 ns, at which the lanes' markers came. -/
def skewOf (marks : List Nat) : Nat := ceilDiv (marks.foldl max 0 - marks.foldl min (marks.headD 0)) 40

/-- TRAIN_COMPLETE (R299, R303): the markers of one period on all lanes give D, which is within 76 SCLK cycles; PROBE on an MFP 3.x
link (R256), UP on an MFP 2.4 link. -/
def trainComplete (p : Nat) (marks : List Nat) (s : State) : State :=
  let q := portOf s p
  let skew := skewOf marks
  if q.tx != .train || !clocksRun s || (q.rxLanes ++ q.txLanes).any (· == .failed) then s
  else if 76 < skew then portFault s p .skewFault .skewFault
  else
    let lanes := List.replicate 8 Lane.active ++ [if q.mfp = 1 then .off else .standby]
    let s1 := modPort s p fun q => { q with deskew := skew, txLanes := lanes, rxLanes := lanes, txWorn := .none, rxWorn := .none }
    if q.mfp = 1 then bringUp s1 p 0
    else sendProbe (modPort s1 p fun q => { q with tx := .probe, rx := .probe }) p

/-- TRAIN_TIMEOUT (R303): TRAIN has not ended within 5 ms of ACCEPT. -/
def trainTimeout (p : Nat) (s : State) : State :=
  let q := portOf s p
  when (q.tx == .train && decide (q.acceptAt + 5000000 ≤ nowNs s)) s (portDown s p)

/-- The fixed turnaround of this module's echoes in SCLK cycles, which the spec does not give (assumption 45). -/
def turnaround : Nat := Config.openValue 45 [] % 2 ^ 10

/-- A LINKPROBE frame that fails the checks of ingress, or comes while RX_STATE is SPARING, is discarded (R242; 10 R304). -/
def probeFrame? (s : State) (p : Nat) (f : Frame) : Option State :=
  if ingressBad s p { frame := f, fec := false } || (portOf s p).rx == .sparing then
    some (discard (if stomped f then count s .frameStomped p else s) p f .frameError p 127 0 0)
  else none

/-- LINKPROBE (R256): a probe is echoed by the port it came to (R247), and the echo reports the turnaround. None is sent while TX_STATE is
SPARING (R304). -/
def linkprobe (p : Nat) (f : Frame) (s : State) : State :=
  let q := portOf s p
  if !clocksRun s || frmOp f != 9 || flag f.w3 0 || q.mfp < 2 || q.tx == .sparing || !(q.rx == .probe || q.rx == .sparing || takesWords s p) then s
  else
    match probeFrame? s p f with
    | some t => t
    | none =>
      let g := { f with w0 := setFld (setFld f.w0 32 16 p) 48 16 s.dev.eid.toNat, w3 := packW [(0, 1, 1), (32, 32, turnaround)] }
      let h := leaving s p g s.fab.srcEpoch false
      emit s (.frame p { h with crc := frameCrc h } none)

/-- LINKPROBE_ECHO (R256): after 16 equal echoes LINK_DELAY is set and the port comes UP. -/
def linkprobeEcho (p : Nat) (f : Frame) (s : State) : State :=
  let q := portOf s p
  let k := frmSeq f
  if !clocksRun s || frmOp f != 9 || !flag f.w3 0 || q.tx != .probe then s
  else if let some t := probeFrame? s p f then t
  else if k != q.probes.length || q.probesSent ≤ k then s
  else
    let d := ceilDiv ((scNow s - q.probeAt.getD k 0) - fld f.w3 32 32) 2
    let s1 := modPort s p fun q => { q with probes := q.probes ++ [d] }
    if q.probes.length + 1 < 16 then sendProbe s1 p
    else if q.probes.all (· == d) then bringUp s1 p d
    else portDown (count s1 .linkUnstable p) p

/-- SIDEBAND_UP (R308): the sideband is up and the waggle starts. -/
def sidebandUp (p : Nat) (s : State) : State :=
  when (auxOn s && !(portOf s p).sb) s (modPort s p fun q => { q with sb := true, beaconRx := nowNs s, recent := [] })

/-- SB_LOST (R307): both directions go DOWN, and the neighbour entry is cleared (R269). -/
def sbLost (p : Nat) (s : State) : State :=
  if !(portOf s p).sb then s
  else
    let s1 := portFault s p .sbLost .sbLost
    let s2 := modPort s1 p fun q => { q with sb := false, nbSerial := 0, nbW1 := 0, nbState := 0 }
    { s2 with
      sbq := s2.sbq.filter fun e => sidePort e != p
      clk := { s2.clk with
        parentLost := if s2.clk.parent = p then some (nowNs s) else s2.clk.parentLost
        due := s2.clk.due.filter fun d => d.1 != p } }

/-- The logical lane that a wavelength carries (Table 10.4). -/
def laneOf (m : BitVec 32) (lane : Nat) : Option Nat := (List.range 8).find? fun n => fld m (4 * n) 4 == lane

/-- A direction's map restriped over the wavelengths that remain ACTIVE (R294). -/
def narrowMap (lanes : List Lane) : BitVec 32 :=
  let act := (List.range 9).filter fun k => lanes.getD k .off == .active
  BitVec.ofNat 32 (pack ((List.range 8).map fun n => (4 * n, 4, if n < 7 then act.getD n 15 else 15)))

/-- A logical lane moves to the wavelength in STANDBY, or the direction restripes (R294, R304): the map and the lanes. A transmitter
that knows none in STANDBY takes the one that its map leaves out: a rehearsal released it at the receiver (13 R395). -/
def moveLane (m : BitVec 32) (lanes : List Lane) (llane : Nat) (narrow : Bool) : BitVec 32 × List Lane :=
  if narrow then
    let l := setAt lanes (fld m (4 * llane) 4) .failed
    (narrowMap l, l)
  else
    match (findAt (· == Lane.standby) lanes).or (findAt (· == Lane.failed) lanes) with
    | some k => (setFld m (4 * llane) 4 k, setAt (setAt lanes (fld m (4 * llane) 4) .failed) k .active)
    | none => (m, lanes)

/-- A lane that a rehearsal has released stands by (13 R395). -/
def releaseRehearsed (lanes : List Lane) : List Lane := lanes.map fun l => if l == .failed then .standby else l

/-- The receive map and lanes from which a failure starts its sequence: a move in progress counts as made, since a second failure
restarts the sequence (R304, assumption 90). -/
def movedRx (q : Port) : BitVec 32 × List Lane :=
  match if q.rx == .sparing then q.rxSparing else none with
  | some n =>
    let r := moveLane q.rxMap q.rxLanes n (q.mfp == 1 || !q.rxLanes.any (· == .standby))
    (r.1, if q.rehearsed then releaseRehearsed r.2 else r.2)
  | none => (q.rxMap, q.rxLanes)

/-- The transmit map and lanes from which a request starts: a move asked for before and not yet made counts as made (R304). -/
def movedTx (q : Port) : BitVec 32 × List Lane :=
  match if q.tx == .sparing && !q.txMoved then q.txSparing else none with
  | some n => moveLane q.txMap q.txLanes n q.txNarrow
  | none => (q.txMap, q.txLanes)

/-- Pieces of a lane's failure that both detectors share (R301, R304, R306): sparing, restriping, or DOWN. -/
def laneFailed (s : State) (p lane : Nat) : State :=
  let q := portOf s p
  if q.rx == .down || q.rx == .negotiate || q.rxLanes.getD lane .off == .failed || q.rxLanes.getD lane .off == .off then s
  else
    let m := movedRx q
    let lanes := setAt m.2 lane .failed
    let failed := (lanes.filter (· == .failed)).length
    let s1 := modPort s p fun q => { q with rxLanes := setAt q.rxLanes lane .failed }
    if q.rx == .train then s1
    else if q.rx == .probe then portDown s1 p
    else
      let dead := if q.mfp = 1 then 2 else 3
      if dead ≤ failed then portDown s1 p
      else
        match laneOf m.1 lane with
        | none => recomputeHealth s1
        | some n =>
          let narrow := q.mfp == 1 || !lanes.any (· == .standby)
          let s2 := modPort s1 p fun q => { q with
            rx := .sparing, rxSparing := some n, rxMap := m.1, rxLanes := lanes, rehearsed := q.rehearsed && q.rx != .sparing
            rxSince := some (nowNs s) }
          sendSparing s2 p 4 n narrow

/-- A lane detector acts from TRAIN onward, while lane clocks run. -/
def lossOfSignal (p lane : Nat) (s : State) : State :=
  let q := portOf s p
  if q.rx == .down || q.rx == .negotiate then s else laneFailed (count s .losEvent (9 * p + lane)) p lane

/-- LOSS_OF_LOCK (R301). -/
def lossOfLock (p lane : Nat) (s : State) : State :=
  let q := portOf s p
  if q.rx == .down || q.rx == .negotiate then s else laneFailed (count s .lolEvent (9 * p + lane)) p lane

/-- FEC_UNCORR (R298): the frames that lost a word are discarded, and words after them until an FPOS names one. Their class is not
known (assumption 46). -/
def fecUncorr (p lane n : Nat) (s : State) : State :=
  let q := portOf s p
  if q.rx == .down || q.rx == .negotiate || q.rx == .train then s
  else
    let s1 := count (modPort s p fun q => { q with resync := true }) .fecUncorr (9 * p + lane)
    let c := Config.openValue 46 [p, lane, n] % 8
    countN s1 .discard (p * 128 + c * 16 + Cause.frameError.code) n

/-- The copies of an output whose last byte is sent have left (R304). -/
def sentBefore (s : State) (o : Nat) : State := (tblGet {} s.comb.egress o).copies.foldl (fun t _ => frameSent o false t) s

/-- SPARE_REQ (R304): the transmitter stops at once, cutting the frame in progress, and is to move the logical lane or to restripe. -/
def spareReq (rx : WaggleRx) (s : State) : State :=
  let p := rx.set.port.val
  let q := portOf s p
  if !wagHeard s rx 4 then wagIgnored s rx
  else if !(q.tx == .up || q.tx == .narrow || q.tx == .sparing) then s
  else
    let t := if clocksHeld s then s.dev.frozeAt * 50400 else unitNow s
    let s0 := if q.tx == .sparing then s else cutCopy (sentBefore s p) p t
    modPort s0 p fun q => { q with
      tx := .sparing, txMap := (movedTx q).1, txLanes := (movedTx q).2, txSparing := some (fld rx.bits 16 3)
      txNarrow := flag rx.bits 19, txMoved := false, txSince := some (nowNs s) }

/-- LANE_MOVE_COMPLETE (R304): 64 codewords with MARK set go out on every lane in use. -/
def laneMoveComplete (p : Nat) (s : State) : State :=
  let q := portOf s p
  match q.txSparing with
  | some n =>
    if q.tx == .sparing && !q.txMoved then
      let (m, l) := moveLane q.txMap q.txLanes n q.txNarrow
      emit (modPort s p fun q => { q with
        txMap := m, txLanes := l, txMoved := true, txSince := some (nowNs s), txWorn := if q.txNarrow then .narrow else .spare }) (.lanes p 64)
    else s
  | none => s

/-- SPARE_RX_ALIGNED (R304): the receiver's direction is UP or NARROW, and SPARE_DONE goes out. -/
def spareRxAligned (p : Nat) (s : State) : State :=
  let q := portOf s p
  match q.rxSparing with
  | some n =>
    if q.rx != .sparing then s
    else
      let narrow := q.mfp == 1 || !q.rxLanes.any (· == .standby)
      let (m, l) := moveLane q.rxMap q.rxLanes n narrow
      let s1 := modPort s p fun q => { q with
        rx := if narrow then .narrow else .up, rxWorn := if narrow then .narrow else if q.rehearsed then q.rxWorn else .spare
        rxMap := m, rxLanes := if q.rehearsed then releaseRehearsed l else l
        rxSparing := none, rehearsed := false, rxSince := none }
      recomputeHealth (sendSparing s1 p 5 n narrow)
  | none => s

/-- SPARE_DONE (R304): the transmitter's state matches, a pause word goes out and frames resume, a staged one from its start. -/
def spareDone (rx : WaggleRx) (s : State) : State :=
  let p := rx.set.port.val
  let q := portOf s p
  if !wagHeard s rx 5 then wagIgnored s rx
  else if q.tx != .sparing || !q.txMoved then s
  else
    let s1 := modPort s p fun q => { q with
      tx := if q.txNarrow then .narrow else .up, txSparing := none, txMoved := false, txSince := none }
    recomputeHealth (sendPause (restartCopies s1 p) p)

/-- A direction's wait for its next sparing message has lasted 20 µs (R304). -/
def waitedLong (s : State) (t : Option Nat) : Bool := t.any fun t => decide (t + 20000 ≤ nowNs s)

/-- SPARING_TIMEOUT (R304): 20 µs without the next message, in either direction. -/
def sparingTimeout (p : Nat) (s : State) : State :=
  let q := portOf s p
  when (waitedLong s q.rxSince || waitedLong s q.txSince) s (portDown s p)

/-- TWIN_LOST (R271): port 31 has not come up within 1 s of READY; once after each READY. -/
def twinLostRow (s : State) : State :=
  match s.health.readyAt with
  | some t =>
    when (s.ident.twinPresent && !s.health.twinSettled && decide (t + 1000000000 ≤ nowNs s)) s
      (recomputeHealth (count { s with health := { s.health with twinLost := true, twinSettled := true } } .twinLost))
  | none => s

def execAnnounceSend (p : Fin 64) (s : State) := ok (announceSend p.val s)
def execAnnounce (rx : WaggleRx) (s : State) := ok (announce rx s)
def execAccept (rx : WaggleRx) (s : State) := ok (accept rx s)
def execReject (rx : WaggleRx) (s : State) := ok (reject rx s)
def execTrainComplete (p : Fin 64) (marks : List Nat) (s : State) := ok (trainComplete p.val marks s)
def execTrainTimeout (p : Fin 64) (s : State) := ok (trainTimeout p.val s)
def execSidebandUp (p : Fin 64) (s : State) := ok (sidebandUp p.val s)
def execSbLost (p : Fin 64) (s : State) := ok (sbLost p.val s)
def execLossOfSignal (p : Fin 64) (lane : Fin 9) (s : State) := ok (lossOfSignal p.val lane.val s)
def execLossOfLock (p : Fin 64) (lane : Fin 9) (s : State) := ok (lossOfLock p.val lane.val s)
def execFecUncorr (p : Fin 64) (lane : Fin 9) (n : Nat) (s : State) := ok (fecUncorr p.val lane.val n s)
def execSpareReq (rx : WaggleRx) (s : State) := ok (spareReq rx s)
def execLaneMoveComplete (p : Fin 64) (s : State) := ok (laneMoveComplete p.val s)
def execSpareRxAligned (p : Fin 64) (s : State) := ok (spareRxAligned p.val s)
def execSpareDone (rx : WaggleRx) (s : State) := ok (spareDone rx s)
def execSparingTimeout (p : Fin 64) (s : State) := ok (sparingTimeout p.val s)
def execLinkprobe (p : Fin 64) (f : Frame) (s : State) := ok (linkprobe p.val f s)
def execLinkprobeEcho (p : Fin 64) (f : Frame) (s : State) := ok (linkprobeEcho p.val f s)
def execTwinLost (s : State) := ok (twinLostRow s)

end Sys2Proof.Machine
end

