-- ==== Sys2Proof/Machine/Tile.lean ====
section
/-! DEFINITION. Tiles and tensor descriptors (03 R70-R90): header, sizes, stored positions in row and column view, the
malformed-tile checks of Table 3.6 and the descriptor checks of R86. -/

namespace Sys2Proof

/-- Fields of a tile header (Table 3.1). -/
def thFormat (h : Word) : Nat := fld h 0 4
def thVtype (h : Word) : Nat := fld h 4 3
def thFb (h : Word) : Bool := flag h 7
def thCount (h : Word) : Nat := fld h 8 11
def thScale (h : Word) : Nat := fld h 19 8

/-- A tile header (Table 3.1). -/
def tileHeader (format vtype count scale : Nat) (fb : Bool) : Word :=
  packW [(0, 4, format), (4, 3, vtype), (7, 1, fb.toNat), (8, 11, count), (19, 8, scale)]

/-- Bytes of a value of a tile's VTYPE. -/
def vtBytes (v : Nat) : Nat := if v < 2 then 1 else 2

/-- Stored values and code width of a format (Table 3.2): ROWK and TRANSK, LIST, DENSE, G16. -/
def valueCount (format count : Nat) : Nat :=
  if format = 0 then 0 else if format = 1 then 1024 else if format = 4 then count else 32 * count
def codeWidth (format : Nat) : Nat :=
  if format = 2 || format = 3 then 5 else if format = 4 then 10 else if format = 5 then 4 else 0

/-- A tile to which R76 gives no size: its FORMAT, or the VTYPE of its values, is reserved. -/
def tileReserved (h : Word) : Bool := 5 < thFormat h || (thFormat h != 0 && 3 < thVtype h)

/-- A tile's size by R76; the spec gives none to a tile whose FORMAT or VTYPE is reserved (assumption 23). -/
def tileLen (h : Word) : Nat :=
  let f := thFormat h
  if tileReserved h then Config.openValue 23 [h.toNat]
  else
    let n := valueCount f (thCount h)
    roundUp (8 + n * vtBytes (thVtype h) + ceilDiv (n * codeWidth f) 8) 8

/-- A stored position: row, column and value code. -/
structure Pos where
  r : Nat
  c : Nat
  v : Nat
deriving DecidableEq, Repr, Inhabited

/-- Value code i of a tile (R74). -/
def tileValue (bs : List Byte) (b i : Nat) : Nat := natOfBytes ((bs.drop (8 + i * b)).take b)

/-- The code array as one bit string (R74). -/
def tileCodes (bs : List Byte) (n b : Nat) : Nat := natOfBytes (bs.drop (8 + n * b))

/-- The stored positions of a tile in the order of R75, whatever its checks say. `rows` and `cols` bound the tensor
from the tile's corner on (R80). -/
def tilePositions (bs : List Byte) (h : Word) (rows cols : Nat) : List Pos :=
  let f := thFormat h
  let b := vtBytes (thVtype h)
  let n := valueCount f (thCount h)
  let codes := tileCodes bs n b
  let code := fun i => nfld codes (codeWidth f * i) (codeWidth f)
  let at_ := fun (i r c : Nat) => ({ r := r, c := c, v := tileValue bs b i } : Pos)
  let k := thCount h
  if f = 1 then
    ((List.range 1024).map fun i => at_ i (i / 32) (i % 32)).filter fun p =>
      decide (p.r < rows) && decide (p.c < cols) && !(thFb h && p.v % 2 ^ (8 * b - 1) == 0)
  else if f = 2 || f = 3 then (List.range n).map fun i => at_ i (i / k) (code i)
  else if f = 4 then (List.range n).map fun i => at_ i (code i / 32) (code i % 32)
  else if f = 5 then (List.range n).map fun i => at_ i (i / k) (code i + (if i % k < k / 2 then 0 else 16))
  else []

/-- A list is strictly ascending. -/
def ascending : List Nat → Bool
  | a :: b :: r => decide (a < b) && ascending (b :: r)
  | _ => true

/-- k is valid for a structured format (R75). -/
def kValid (format k : Nat) : Bool :=
  if format = 2 || format = 3 then [1, 2, 4, 8, 16].contains k
  else if format = 5 then [2, 4, 8, 16].contains k
  else k == 0

/-- Codes ascend where R75 requires it. -/
def codesOk (f k : Nat) (ps : List Pos) : Bool :=
  if f = 2 || f = 3 then
    (List.range 32).all fun r => ascending ((ps.filter fun p => p.r == r).map (·.c))
  else if f = 5 then
    (List.range 32).all fun r =>
      let row := (ps.filter fun p => p.r == r).map (·.c)
      ascending (row.take (k / 2)) && ascending (row.drop (k / 2))
  else if f = 4 then ascending (ps.map fun p => 32 * p.r + p.c)
  else true

/-- The checks of Table 3.6 by number, 0 when none fails, and the lowest number where several do (assumption 93); `more` is
check 2, and `rows` and `cols` are for check 7. -/
def tileCheck (h : Word) (more : Bool) (ps : List Pos) (rows cols : Nat) : Nat :=
  let f := thFormat h
  let k := thCount h
  if 5 < f || 3 < thVtype h || fld h 27 37 != 0 then 1
  else if more then 2
  else if (f = 4 && 1024 < k) || (k != 0 && (f = 0 || (f = 1 && !thFb h))) then 3
  else if f != 0 && 2 ≤ thVtype h && thScale h != 0x7F then 4
  else if !codesOk f k ps then 5
  else if f = 3 && !((List.range 32).all fun c => (ps.filter fun p => p.c == c).length == k) then 6
  else if f = 4 && ps.any (fun p => decide (rows ≤ p.r) || decide (cols ≤ p.c)) then 7
  else 0

/-- A tensor descriptor (Table 3.4). -/
structure TDesc where
  id : Nat
  rows : Nat
  cols : Nat
  format : Nat
  vtype : Nat
  tcopy : Bool
  k : Nat
  base : Nat
  band : Nat
  split : Nat
  reserved : Bool
deriving DecidableEq, Repr, Inhabited

/-- The fields of a descriptor's five words (Table 3.4). -/
def tdescOf (ws : List Word) : TDesc :=
  let w := fun i => ws.getD i 0
  { id := fld (w 0) 0 32, rows := fld (w 0) 32 32, cols := fld (w 1) 0 32, format := fld (w 1) 32 4, vtype := fld (w 1) 36 3
    tcopy := flag (w 1) 39, k := fld (w 1) 40 5, base := (w 2).toNat, band := (w 3).toNat, split := (w 4).toNat
    reserved := fld (w 1) 45 19 != 0 }

/-- A descriptor passes the check of R86; `column` asks for the transposed view. -/
def tdescOk (d : TDesc) (column : Bool) : Bool :=
  let inRange := fun n : Nat => decide (1 ≤ n) && decide (n ≤ 2097152)
  let structured := d.format == 2 || d.format == 3 || d.format == 5
  !d.reserved && decide (1 ≤ d.format) && decide (d.format ≤ 5) && decide (d.vtype ≤ 3) && kValid d.format d.k &&
    inRange d.rows && inRange d.cols && (!structured || (d.rows % 32 == 0 && d.cols % 32 == 0)) &&
    (!d.tcopy || d.format == 4) && (d.split == 0 || d.format == 4) && d.base % 8 == 0 && d.band % 8 == 0 &&
    (!column || d.format == 3)

/-- Tile columns of a tensor, T, and its bands, B (R79). -/
def tileCols (d : TDesc) : Nat := ceilDiv d.cols 32
def tileBands (d : TDesc) : Nat := ceilDiv d.rows 32

/-- The address of entry b of a tensor's band table (R79). -/
def bandEntryAt (d : TDesc) (b : Nat) : Nat := d.band + 8 * b

/-- The address of tile (b, t), by the band's entry and the headers of the band's tiles: they follow one another without gaps (R79). -/
def tileAddr (d : TDesc) (entry : Word) (headers : List Word) (t : Nat) : Nat :=
  d.base + entry.toNat + ((headers.take t).map tileLen).foldl (· + ·) 0

/-- A band word and a segment word of a split table (R82). -/
structure BandWord where
  segs : Nat
  first : Nat
deriving DecidableEq, Repr, Inhabited

structure SegWord where
  start : Nat
  offset : Nat
deriving DecidableEq, Repr, Inhabited

/-- The fields of a band word and of a segment word, and the words of fields (R82). -/
def bandWordOf (w : Word) : BandWord := { segs := fld w 0 16, first := fld w 16 32 }
def bandWord (b : BandWord) : Word := packW [(0, 16, b.segs), (16, 32, b.first)]
def segWordOf (w : Word) : SegWord := { start := fld w 0 16, offset := fld w 16 48 }
def segWord (g : SegWord) : Word := packW [(0, 16, g.start), (16, 48, g.offset)]

/-- The address of segment word j: it lies behind the B band words (R82). -/
def segWordAt (d : TDesc) (j : Nat) : Nat := d.split + 8 * (tileBands d + j)

/-- A band's word and the START values of its segments are as R82 orders them. -/
def bandSegsOk (d : TDesc) (w : Word) (starts : List Nat) : Bool :=
  fld w 48 16 == 0 && decide (1 ≤ starts.length) && decide (starts.length ≤ tileCols d) && (bandWordOf w).segs == starts.length &&
    starts.headD 1 == 0 && ascending starts && starts.all fun t => decide (t < tileCols d)

/-- The tile columns of the segment with split index k: up to the next START, or to the end of the band (R82). -/
def segTiles (d : TDesc) (starts : List Nat) (k : Nat) : List Nat :=
  let a := starts.getD k 0
  (List.range (starts.getD (k + 1) (tileCols d) - a)).map (a + ·)

/-- Stored positions that a row may hold in one segment (R83). -/
def segLimit : Nat := 2048

/-- The sum of two lists of counts, row by row. -/
def addRows (a b : List Nat) : List Nat := a.zipWith (· + ·) b

/-- The greedy rule of R83 from tile column t on: `last` is the last START, `count` what its segment holds of each row, and
each element of the list what a tile stores of each row. It answers the further STARTs. -/
def segmentsFrom (t last : Nat) (count : List Nat) : List (List Nat) → List Nat
  | [] => []
  | x :: r =>
    if last < t && (addRows count x).any (fun n => decide (segLimit < n)) then t :: segmentsFrom (t + 1) t x r
    else segmentsFrom (t + 1) last (addRows count x) r

/-- The START values of a band's segments (R83), by what each of its tiles stores of each of its 32 rows. -/
def segments (tiles : List (List Nat)) : List Nat := 0 :: segmentsFrom 0 0 (List.replicate 32 0) tiles

/-- What a tile stores of each row: stored(r, t) of R83. -/
def storedRows (ps : List Pos) : List Nat := (List.range 32).map fun r => (ps.filter fun p => p.r == r).length

/-- A tile's bytes by R74: its header, the values in order, the codes as one bit string, and padding of zeros. -/
def tileBytes (h : Word) (values codes : List Nat) : List Byte :=
  let b := vtBytes (thVtype h)
  let w := codeWidth (thFormat h)
  let body := bytesOfNat h.toNat 8 ++ values.flatMap (fun v => bytesOfNat v b) ++
    bytesOfNat (codes.foldr (fun c a => c % 2 ^ w + (a <<< w)) 0) (ceilDiv (codes.length * w) 8)
  body ++ List.replicate (roundUp body.length 8 - body.length) 0

/-- A value code that is +0 or −0. -/
def zeroCode (vtype v : Nat) : Bool := v % 2 ^ (8 * vtBytes vtype - 1) == 0

/-- The codes of all 1,024 positions of a tile, +0 where none is given. -/
def denseCodes (ps : List Pos) : List Nat :=
  (List.range 1024).map fun i => ((ps.find? fun p => 32 * p.r + p.c == i).map (·.v)).getD 0

/-- R88 for a DENSE tensor: every position is written, FB is clear, and the tile is never turned into ZERO. -/
def encodeDense (vtype scale : Nat) (ps : List Pos) : List Byte :=
  tileBytes (tileHeader 1 vtype 0 scale false) (denseCodes ps) []

/-- R88 for a LIST tensor, by converted codes in ascending position index: ZERO with SCALE 0x7F where none is stored, DENSE
with FB where the LIST tile is no smaller, else LIST. -/
def encodeList (vtype scale : Nat) (ps : List Pos) : List Byte :=
  let st := ps.filter fun p => !zeroCode vtype p.v
  let n := st.length
  if n = 0 then tileBytes (tileHeader 0 vtype 0 0x7F false) [] []
  else if tileLen (tileHeader 1 vtype n scale true) ≤ tileLen (tileHeader 4 vtype n scale false) then
    tileBytes (tileHeader 1 vtype n scale true) (denseCodes st) []
  else tileBytes (tileHeader 4 vtype n scale false) (st.map (·.v)) (st.map fun p => 32 * p.r + p.c)

/-- Check 2 of Table 3.6: a tile's format, FB, VTYPE or COUNT is not what the descriptor allows (R81). -/
def tileDisallowed (d : TDesc) (h : Word) : Bool :=
  let f := thFormat h
  let okay :=
    if f = 0 then !thFb h
    else if d.format = 1 then f = 1 && !thFb h
    else if d.format = 4 then (f = 4 && !thFb h) || (f = 1 && thFb h)
    else f == d.format && thCount h == d.k && !thFb h
  !okay || thVtype h != d.vtype

/-- Engine time of a product in units of 1/64 CCLK cycle (Table 4.1): 64 products a cycle, or 16 of FP16 and BF16. -/
def prodCost (h : Word) : Nat := if thVtype h < 2 then 1 else 4

/-- When stored position n, at position index p, of a tile meets vector j of nv, from the tile's start on in units of 1/64
CCLK cycle (Table 4.1): a DENSE tile takes all its positions at 8 (or 2) a cycle, a fallback tile is scanned at 64 codes a cycle.
A position meets its vectors one after another (assumption 94). -/
def posTime (h : Word) (nv n p j : Nat) : Nat :=
  let c := prodCost h
  if thFormat h = 1 && !thFb h then 8 * c * (p * nv + j)
  else if thFormat h = 1 then max (c * (n * nv + j)) (64 * (p / 64) * nv)
  else c * (n * nv + j)

/-- Engine time of a tile of n stored positions and nv vectors, in units of 1/64 CCLK cycle (Table 4.1). -/
def tileTime (h : Word) (n nv : Nat) : Nat :=
  let c := prodCost h
  if thFormat h = 1 && !thFb h then 8 * c * 1024 * nv
  else if thFormat h = 1 then max (c * n * nv) (1024 * nv)
  else c * n * nv

/-- An engine's time, with the tiles that it has consumed positions of in that CCLK cycle: where a tile may start, for a
third tile of one cycle only in the next (R95). -/
def tileStart (e : Nat × Nat) : Nat × Nat :=
  if e.1 % 64 = 0 then (e.1, 0) else if 2 ≤ e.2 then (roundUp e.1 64, 0) else e

/-- An engine after a tile of a length of time (R95). -/
def tileEnd (e : Nat × Nat) (time : Nat) : Nat × Nat :=
  let b := tileStart e
  if time = 0 then e else (b.1 + time, if (b.1 + time) / 64 = b.1 / 64 then b.2 + 1 else 1)

/-- A tile's stored positions in the order of a view (R75, R89): in column view column by column, rows ascending. -/
def viewOrder (column : Bool) (ps : List Pos) : List Pos :=
  if column then (List.range 32).flatMap fun c => ps.filter fun p => p.c == c else ps

end Sys2Proof
end

