-- ==== Sys2Proof/Machine/Accum.lean ====
section
/-! DEFINITION. Fold accumulator entries (04 R101-R103, R118; 02 R42-R46, R51-R53): their fields, how partials and raw
records join them, the residue check, and their read-out. -/

namespace Sys2Proof

/-- A fold entry's fields (Table 4.2). `value` is the exact sum in units of 2^-192 (MODE 0), or an FP32 code (MODE 1). -/
structure FoldE where
  value : Int := 0
  nan : Bool := false
  pinf : Bool := false
  ninf : Bool := false
  anz : Bool := true
  apz : Bool := true
  mode : Bool := false
  folds : Nat := 0
  residue : Nat := 0
  split : Nat := 0
deriving DecidableEq, Repr, Inhabited

/-- The fields of a 48-byte record (Table 4.2). -/
def foldOf (w : BitVec 384) : FoldE :=
  let mode := flag w 325
  { value := if mode then ((fld w 0 32 : Nat) : Int) else sextNat 320 (fld w 0 320)
    nan := flag w 320, pinf := flag w 321, ninf := flag w 322, anz := flag w 323, apz := flag w 324, mode := mode
    folds := fld w 326 25, residue := fld w 351 8, split := fld w 360 16 }

/-- The record of an entry (Table 4.2). -/
def foldWord (e : FoldE) : BitVec 384 :=
  BitVec.ofNat 384 (pack [(0, 320, if e.mode then e.value.toNat else (e.value % (2 ^ 320 : Nat)).toNat), (320, 1, e.nan.toNat),
    (321, 1, e.pinf.toNat), (322, 1, e.ninf.toNat), (323, 1, e.anz.toNat), (324, 1, e.apz.toNat), (325, 1, e.mode.toNat),
    (326, 25, e.folds), (351, 8, e.residue), (360, 16, e.split)])

/-- A cleared entry (R101). -/
def clearedFold : BitVec 384 := foldWord {}

/-- The residue check of R118: the entry's value modulo 255 equals its residue. -/
def residueOk (e : FoldE) : Bool := e.mode || (e.value % 255).toNat == e.residue % 255

/-- Terms of one tile row, or of one batch group: the exact sum in units of 2^-48 (or an FP32 code), side flags and the
flags on zeros (R51). -/
structure Partial where
  sum : Int := 0
  nan : Bool := false
  pinf : Bool := false
  ninf : Bool := false
  anz : Bool := true
  apz : Bool := true
  terms : Nat := 0
deriving DecidableEq, Repr, Inhabited

/-- A product of two values (R51): its exact value, or a side flag; the Bool says zero times infinity. -/
def prodVal (a b : Val) : Val × Bool :=
  match a, b with
  | .nan .., _ => (.nan false 0 false, false)
  | _, .nan .. => (.nan false 0 false, false)
  | _, _ =>
    match mulVals a b with
    | some v => (v, false)
    | none => (.nan false 0 false, true)

/-- A term joins a partial exactly; `e0` is the least exponent of the accumulator (-48 for an engine). -/
def addTerm (e0 : Int) (p : Partial) (v : Val) : Partial :=
  match v with
  | .nan .. => { p with nan := true, anz := false, apz := false, terms := p.terms + 1 }
  | .inf n => { p with pinf := p.pinf || !n, ninf := p.ninf || n, anz := false, apz := false, terms := p.terms + 1 }
  | .fin n m e =>
    { p with
      sum := p.sum + signedOf n (m <<< (e - e0).toNat)
      anz := p.anz && m == 0 && n
      apz := p.apz && m == 0 && !n
      terms := p.terms + 1 }

/-- The FP32 code of a term of a BF16 sum (R50). -/
def term32 (v : Val) : Nat := (roundTo .fp32 .nearest v).code

/-- A term joins a BF16 partial (R50): the product rounded to FP32 and added in FP32, nonfinite terms as side flags. ALL_NEG_ZERO and
ALL_POS_ZERO judge the product before that rounding (assumption 117). -/
def addTermBf (p : Partial) (v : Val) : Partial :=
  match v with
  | .fin n m _ =>
    let first := p.anz && p.apz
    let c := term32 v
    { p with
      sum := if first then (c : Int) else (((fAdd .fp32 .nearest p.sum.toNat c).code : Nat) : Int)
      anz := p.anz && m == 0 && n
      apz := p.apz && m == 0 && !n
      terms := p.terms + 1 }
  | v => addTerm 0 p v

/-- The partial folds into an entry (R42, R44, R45, R97): the entry and the cause of an INVALID, 0 for none. A BF16 partial is added
to the FP32 sum that the entry holds, which is +0 once it is cleared (R50, R98). -/
def foldPartial (e : FoldE) (bf : Bool) (s : Int) (p : Partial) : FoldE × Nat :=
  if e.mode != bf then ({ e with nan := true }, 4)
  else if !bf && (s < -144 || 63 < s) then ({ e with nan := true }, 5)
  else if 16777216 ≤ e.folds then ({ e with nan := true }, 6)
  else
    let flags := { e with
      nan := e.nan || p.nan, pinf := e.pinf || p.pinf, ninf := e.ninf || p.ninf
      anz := e.anz && p.anz, apz := e.apz && p.apz, folds := e.folds + 1 }
    if bf then
      let v : Int := (((fAdd .fp32 .nearest e.value.toNat p.sum.toNat).code : Nat) : Int)
      ({ flags with value := v }, 0)
    else
      let add := p.sum * ((2 ^ (s + 144).toNat : Nat) : Int)
      ({ flags with value := wrapSigned 320 (e.value + add), residue := ((e.residue + add) % 255).toNat }, 0)

/-- A raw record joins an entry (R103): the entry, the cause of an INVALID, and whether the record is held as early. The FP32
sums of MODE 1 are added whatever FOLDS holds. -/
def combineRecord (e r : FoldE) : FoldE × Nat × Bool :=
  if e.mode != r.mode then ({ e with nan := true }, 4, false)
  else if e.mode && e.split + 1 < r.split then (e, 0, true)
  else if e.mode && r.split != e.split + 1 then ({ e with nan := true }, 4, false)
  else if 16777216 < e.folds + r.folds then ({ e with nan := true }, 6, false)
  else
    let flags := { e with
      nan := e.nan || r.nan, pinf := e.pinf || r.pinf, ninf := e.ninf || r.ninf
      anz := e.anz && r.anz, apz := e.apz && r.apz, folds := e.folds + r.folds }
    if e.mode then
      let v : Int := (((fAdd .fp32 .nearest e.value.toNat r.value.toNat).code : Nat) : Int)
      ({ flags with value := v, split := r.split }, 0, false)
    else ({ flags with value := wrapSigned 320 (e.value + r.value), residue := (e.residue + r.residue) % 255 }, 0, false)

/-- What an entry reads as, before rounding (Table 2.6, R102): a value, and the cause of an INVALID. With FOLDS 0 it is +0,
but NaN where NAN_SEEN is set (assumption 92). -/
def foldVal (e : FoldE) : Val × Nat :=
  if e.nan then (.nan false 0 false, 0)
  else if e.folds = 0 then (.fin false 0 0, 0)
  else if e.pinf && e.ninf then (.nan false 0 false, 2)
  else if e.pinf then (.inf false, 0)
  else if e.ninf then (.inf true, 0)
  else if e.mode then
    (match decodeVal .fp32 e.value.toNat with
    | .nan .. => (.nan false 0 false, 0)
    | v => (v, 0))
  else (.fin (decide (e.value < 0)) e.value.natAbs (-192), 0)

/-- The sign of an exact zero (R53), for the direction the read-out uses; stochastic rounding is never toward −∞. -/
def zeroNeg (anz apz : Bool) (r : Rounding) : Bool :=
  anz || (match r with
    | .dir .down => !apz
    | _ => false)

/-- Read-out of an entry to a format, scaled by 2^shift (R46, R52, R53, R57). -/
def foldRead (t : Ty) (r : Rounding) (sat : Bool) (shift : Int) (e : FoldE) : Fr :=
  let (v, cause) := foldVal e
  match v with
  | .nan .. => ⟨defaultNan t, { inv := cause != 0 }, cause⟩
  | .inf n => ⟨infCode t n, {}, 0⟩
  | .fin n m x =>
    if m = 0 then ⟨if e.folds != 0 && zeroNeg e.anz e.apz r then signBit t else 0, {}, 0⟩
    else roundBy t r sat n m (x + shift)

end Sys2Proof
end

