-- ==== Sys2Proof/Machine/Operands.lean ====
section
/-! DEFINITION. Operand forms of core programs (05 R121-R131, R133): bundles and their slots, streams of elements and
tiles, P registers, V registers and the stores that streams reach; and how a slot stops. -/

namespace Sys2Proof.Machine

/-- The errors that are left in the stores once reads have corrected what they met (R109). -/
structure Met where
  ls : Tbl (Option Bool)
  cs : Tbl (Option Bool)
deriving DecidableEq, Repr, Inhabited

/-- How a slot on a core stops: an end of the step without replay (R86, R127), a double-bit error of a store (R109), or a residue
mismatch that fails the core (R118); with what its reads have met. -/
inductive Stop where
  | fail (f : Fail) (met : Option Met)
  | storeDbe (met : Option Met)
  | coreFail (met : Option Met)
deriving DecidableEq, Repr, Inhabited

/-- A stop of a slot whose reads have led to state s. -/
def stopAt (s : State) (e : Stop) : Stop :=
  let m : Met := { ls := s.comp.lsErrs, cs := s.comp.csErrs }
  match e with
  | .fail f _ => .fail f (some m)
  | .storeDbe _ => .storeDbe (some m)
  | .coreFail _ => .coreFail (some m)

/-- What the reads of a stopped slot corrected stays corrected, and is counted (R109); nothing else that it did does. -/
def readsMet (s : State) (met : Option Met) : State :=
  match met with
  | none => s
  | some m =>
    if m.ls == s.comp.lsErrs && m.cs == s.comp.csErrs then s
    else countN { s with comp := { s.comp with lsErrs := m.ls, csErrs := m.cs } } .storeSbe 0
      (s.comp.lsErrs.length + s.comp.csErrs.length - (m.ls.length + m.cs.length))

/-- What a slot issues with: the cluster, the launch, the bundle's address and the slot's 48 bits. -/
structure Issue where
  q : Nat
  launch : Launch
  pc : Nat
  slot : Nat
deriving DecidableEq, Repr, Inhabited

/-- A field of a slot. -/
def sf (i : Issue) (lo len : Nat) : Nat := nfld i.slot lo len

/-- The slots of a bundle (Table 5.5): 0 CONTROL, 1 LOAD, 2 ENGINE, 3 VECTOR, 4 MOVE. -/
def slotOf (b : BitVec 256) (k : Nat) : Nat :=
  if k = 0 then fld b 16 47 else fld b (16 + 48 * k) 48

/-- The opcode of a slot (R131). -/
def opOf (slot : Nat) : Nat := nfld slot 0 6

/-- CI of a core (R114); an idle physical core of an image with PHYS reads its number modulo 512 (assumption 24). -/
def ciOf (key : Nat) : Nat := key % 512

/-- The logical cluster of a core. -/
def clusterOf (key : Nat) : Nat := if key < 512 then key / 16 else key - 512

/-- A program fault of a core (R127). -/
def progFault (i : Issue) (key : Nat) : Stop :=
  .fail { status := Status.badArg.code, ecause := 2, addr := i.pc, unit := ciOf key } none

/-- A failed descriptor check (R86, R96), with the descriptor's address. -/
def descFault (addr key : Nat) : Stop :=
  .fail { status := Status.badArg.code, ecause := 1, addr := addr, unit := ciOf key } none

/-- P register n (R121); for one past P[63] the spec gives no value (assumption 26). -/
def pReg (s : State) (n : Nat) : Word := if n < 64 then tblGet 0 s.comp.p n else BitVec.ofNat 64 (Config.openValue 26 [n])

/-- The conversion context, stream and V register of a core. -/
def strOf (c : Core) (n : Nat) : SDesc := tblGet {} c.s n
def cxOf (c : Core) (n : Nat) : Cx := tblGet {} c.cx n
def vOf (c : Core) (n : Nat) : BitVec 2048 := tblGet 0 c.v n

/-- Fields of a stream descriptor (Table 5.2). -/
def sdBase (d : SDesc) : Nat := fld d.word 0 24
def sdSpace (d : SDesc) : Nat := fld d.word 24 2
def sdFixed (d : SDesc) : Bool := flag d.word 26
def sdVtype (d : SDesc) : Nat := fld d.word 27 3
def sdScale (d : SDesc) : Nat := fld d.word 30 8
def sdStep (d : SDesc) : Nat := fld d.word 64 24
def sdCstride (d : SDesc) : Nat := fld d.word 88 24
def sdCount (d : SDesc) : Nat := let n := fld d.word 112 16; if n = 0 then 65536 else n
def sdTidx (d : SDesc) : Nat := fld d.word 128 40
def sdTcs (d : SDesc) : Nat := fld d.word 168 24

/-- element(s) (R125): its address and the stream after it. -/
def element (d : SDesc) (ci : Nat) : Nat × SDesc :=
  (sdBase d + ci * sdCstride d + (if sdFixed d then 0 else d.pos * sdStep d), { d with pos := (d.pos + 1) % sdCount d })

/-- The addresses of n elements, and the stream after them. -/
def elements (d : SDesc) (ci : Nat) : Nat → List Nat × SDesc
  | 0 => ([], d)
  | n + 1 =>
    let (a, d1) := element d ci
    let (r, d2) := elements d1 ci n
    (a :: r, d2)

/-- Where tile(s) finds the next tile: its address and its index (R125). -/
def tileAt (d : SDesc) (ci tinc : Nat) : Nat × Nat := (sdBase d + ci * sdCstride d + d.off, sdTidx d + ci * sdTcs d + d.u * tinc)

/-- The index of the tile that a stream last received, in row view (R125, R143). -/
def lastTile (d : SDesc) (ci : Nat) : Nat := sdTidx d + ci * sdTcs d + (d.u - 1)

/-- The stream after a tile of n bytes (R125). -/
def afterTile (d : SDesc) (ci n : Nat) : SDesc :=
  let u := d.u + 1
  let off := if sdFixed d then d.off else d.off + n
  { d with u := u, off := if u % sdCount d = 0 then 0 else off, last := sdBase d + ci * sdCstride d + d.off }

/-- The SPACE of a stream is reserved, which is a program fault wherever an instruction takes from it (R127). -/
def sdBadSpace (d : SDesc) : Bool := decide (1 < sdSpace d)

/-- An access lies within its space (R127): local store, or cluster store. -/
def inSpace (space a n : Nat) : Bool :=
  if space = 0 then decide (a + n ≤ lsBytes) else if space = 1 then decide (a + n ≤ csBytes) else false

/-- n bytes of a core's stream space, as they stood before a forager's writes of the same CCLK cycle (R108), or the stop of the slot. -/
def coreRead (s : State) (i : Issue) (key space a n : Nat) : Except Stop (List Byte × State) :=
  if !inSpace space a n then .error (stopAt s (progFault i key))
  else
    let (bs, dbe, s1) := 
      if space = 0 then lsRead s s.comp.foragerWords key a n else csRead s s.comp.csWords (clusterOf key) a n
    if dbe then .error (stopAt s1 (.storeDbe none)) else .ok (bs, s1)

/-- A write to a core's local store through a stream; a store to a cluster-store stream is a program fault (R127). -/
def coreWrite (s : State) (i : Issue) (key space a : Nat) (bs : List Byte) : Except Stop State :=
  if space != 0 || !inSpace 0 a bs.length then .error (progFault i key) else .ok (lsCoreWrite s key a bs)

/-- Stream n of a core after an instruction took from it (R126). -/
def putStream (s : State) (key n : Nat) (d : SDesc) : State := modCore s key fun c => { c with s := tblSet {} c.s n d }

/-- V register n of a core is written. -/
def putV (s : State) (key n : Nat) (v : BitVec 2048) : State := modCore s key fun c => { c with v := tblSet 0 c.v n v }

/-- A conversion context of a core is written. -/
def putCx (s : State) (key n : Nat) (x : Cx) : State := modCore s key fun c => { c with cx := tblSet {} c.cx n x }

/-- The first n lanes of w bits of a register. -/
def lanesOf (v : BitVec 2048) (w n : Nat) : List Nat := (List.range n).map fun i => nfld v.toNat (w * i) w

/-- A register from lanes of w bits, packed from byte 0; the remaining bytes are zero. -/
def packLanes (w : Nat) (ls : List Nat) : BitVec 2048 :=
  BitVec.ofNat 2048 (ls.foldr (fun c a => c % 2 ^ w + (a <<< w)) 0)

/-- The bytes of a register. -/
def vBytes (v : BitVec 2048) : List Byte := bytesOfNat v.toNat 256

/-- A register from 256 bytes. -/
def vOfBytes (bs : List Byte) : BitVec 2048 := BitVec.ofNat 2048 (natOfBytes bs)

/-- VCTRL as it is held: bits [15:7] read 0 (Table 2.2). -/
def vctrlKept (v : BitVec 16) : BitVec 16 := v &&& 0x7F

/-- RMODE, FTZ, SR_EN, SAT4, SAT5 and TILE_SCALE of VCTRL (Table 2.2). -/
def vcRm (v : BitVec 16) : Rm := rmOf (fld v 0 2)
def vcFtz (v : BitVec 16) : Bool := flag v 2
def vcSr (v : BitVec 16) : Bool := flag v 3
def vcSat (v : BitVec 16) (t : Ty) : Bool := if t == .e4m3 then flag v 4 else if t == .e5m2 then flag v 5 else false
def vcTileScale (v : BitVec 16) : Bool := flag v 6

/-- Fields of a conversion context (Table 5.4). -/
def cxId (x : Cx) : BitVec 32 := BitVec.ofNat 32 (fld x.word 0 32)
def cxScale (x : Cx) : Nat := fld x.word 32 8
def cxIndex (x : Cx) : Word := wordAt x.word 1
def cxCstride (x : Cx) : Word := wordAt x.word 2
def cxPitch (x : Cx) : Word := wordAt x.word 3
def cxAdvance (x : Cx) (n : Word) : Cx := { x with word := setFld x.word 64 64 (cxIndex x + n).toNat }

/-- The element index of CI (R129). -/
def cxBase (x : Cx) (ci : Nat) : Word := cxIndex x + BitVec.ofNat 64 ci * cxCstride x

/-- How one element is rounded to a type (R46, R55, R58): by RMODE, or stochastically for E4M3, E5M2 and BF16. -/
def roundingOf (vc : BitVec 16) (seed : Word) (x : Cx) (t : Ty) (idx : Word) : Rounding :=
  if vcSr vc && (t == .e4m3 || t == .e5m2 || t == .bf16) then .stoch (draw seed (cxId x) idx) else .dir (vcRm vc)

end Sys2Proof.Machine
end

