-- ==== Sys2Proof/Machine/Flags.lean ====
section
/-! DEFINITION. Exception flags and locators of a worker core (02 R41, R65-R67): VFLAGS, INVLOC0 and INVLOC1, the
malformed-tile latch (03 R85) and the amax of a conversion context (02 R54, R56; 05 R130). -/

namespace Sys2Proof.Machine

/-- An occurrence of INVALID: tensor id, tile index, row, column, lane and cause (Tables 2.7 to 2.9). -/
structure Occur where
  tensor : Nat
  tile : Nat
  row : Nat
  col : Nat
  lane : Nat
  cause : Nat
deriving DecidableEq, Repr, Inhabited

/-- INVLOC0 and INVLOC1 of an occurrence (Tables 2.7, 2.8). -/
def invloc0Of (o : Occur) : Word := packW [(0, 32, o.tensor), (32, 32, o.tile)]
def invloc1Of (o : Occur) (core : Nat) : Word :=
  packW [(0, 5, o.row), (5, 5, o.col), (10, 6, o.lane), (16, 9, core), (28, 4, o.cause), (32, 1, 1)]

/-- An occurrence of INVALID with its place in time: CCLK cycle from its bundle's issue on, row, column and lane (R65). -/
structure Timed where
  cycle : Nat
  at_ : Occur
deriving DecidableEq, Repr, Inhabited

/-- The order of a bundle's occurrences (R65): cycle, then row, column and lane. -/
def timedKey (t : Timed) : Nat := ((t.cycle * 32 + t.at_.row) * 32 + t.at_.col) * 64 + t.at_.lane

/-- The earlier of two occurrences. -/
def earlier (a b : Option Timed) : Option Timed :=
  match a, b with
  | some x, some y => if timedKey y < timedKey x then some y else some x
  | none, y => y
  | x, none => x

/-- INVLOC of a core takes an occurrence (R65): before the bundle the core was `was`; of a bundle's own occurrences, whichever
slot they come from, the earliest stands. -/
def latchInvalid (was c : Core) (x : Timed) (ci : Nat) : Core :=
  if flag was.invloc1 32 || (flag c.invloc1 32 && decide (c.invAt ≤ timedKey x)) then c
  else { c with invloc0 := invloc0Of x.at_, invloc1 := invloc1Of x.at_ ci, invAt := timedKey x }

/-- Flags raised by an operation of a core that was `was` before the bundle, and its first occurrence of INVALID, if any (R41, R65). -/
def raiseFlags (s : State) (key : Nat) (was : Core) (f : Fl) (o : Option Timed) : State :=
  modCore s key fun c =>
    let c1 := { c with vflags := c.vflags ||| (flBits f).setWidth 16 }
    match o with
    | some x => latchInvalid was c1 x (ciOf key)
    | none => c1

/-- An occurrence in the vector unit (Table 2.7), in the cycle in which its bundle issues. -/
def vecOccur (i : Issue) (lane cause : Nat) : Timed :=
  { cycle := 0, at_ := { tensor := 0xFFFFFFFF, tile := i.pc, row := 0, col := 0, lane := lane, cause := cause } }

/-- The flags of a list of results, and the lowest lane whose result raised INVALID with its cause. -/
def flagsOf (rs : List Fr) : Fl := rs.foldl (fun a r => flOr a r.fl) {}
def firstInvalid (rs : List Fr) : Option (Nat × Nat) := (findAt (fun r : Fr => r.cause != 0) rs).map fun k => (k, (rs.getD k ⟨0, {}, 0⟩).cause)

/-- Results of a vector operation raise their flags (R41, R65). -/
def raiseLanes (s : State) (i : Issue) (key : Nat) (was : Core) (rs : List Fr) : State :=
  raiseFlags s key was (flagsOf rs) ((firstInvalid rs).map fun e => vecOccur i e.1 e.2)

/-- A core's first malformed tile of a step (R85). -/
def latchTile (s : State) (key tensor tile check : Nat) : State :=
  modCore s key fun c =>
    if c.mtile.isSome then c
    else { c with mtile := some (BitVec.ofNat 32 tensor, BitVec.ofNat 32 tile, BitVec.ofNat 3 check) }

/-- The absolute value of a value as FP32, to nearest even (R56; assumption 25); every NaN gives the default NaN (R54). -/
def amaxCode (v : Val) : Nat :=
  match v with
  | .nan .. => defaultNan .fp32
  | .inf _ => infCode .fp32 false
  | .fin _ m e => (roundVal .fp32 .nearest false false m e).code

/-- The inputs of a conversion to FP8 or BF16 join the context's amax (R130). -/
def gatherAmax (x : Cx) (t : Ty) (vs : List Val) : Cx :=
  if t == .e4m3 || t == .e5m2 || t == .bf16 then
    { x with amax := BitVec.ofNat 32 (vs.foldl (fun a v => quietMax .fp32 true a (amaxCode v)) x.amax.toNat) }
  else x

/-- The greater of two magnitudes, NaN above all (R54, R57). -/
def maxMag (a b : Val) : Val :=
  if a.isNan then a else if b.isNan then b
  else
    let pos := fun v : Val => match v with
      | .inf _ => Val.inf false
      | .fin _ m e => Val.fin false m e
      | v => v
    if cmpVals (pos a) (pos b) == .lt then pos b else pos a

/-- The place of the first value that is NaN or infinite, where CVT_NONFINITE lies (R57). -/
def nonfiniteAt (vs : List Val) : Nat := (findAt (fun v : Val => v.isNan || v.isInf) vs).getD 0

/-- The scale of an FP8 conversion (R57): the context's, or one chosen from the values; NaN or infinity gives 0xFF. -/
def scaleOf (vc : BitVec 16) (x : Cx) (t : Ty) (vs : List Val) : Nat :=
  if vcTileScale vc then (tileScale t (vs.foldl maxMag (.fin false 0 0))).getD 255 else cxScale x

end Sys2Proof.Machine
end

