-- ==== Sys2Proof/Machine/VecFn.lean ====
section
/-! DEFINITION. The functions of the vector units beyond the basic arithmetic: flush to zero, the remaining IEEE 754
operations of Table 5.9 (02 R38-R40), and exp32, rcp32, rsq32 and logistic32 (02 R62, R63). -/

namespace Sys2Proof

/-- A subnormal code other than zero. -/
def isSubnormal (t : Ty) (c : Nat) : Bool := nfld c (tyMant t) (tyExp t) == 0 && c % 2 ^ tyMant t != 0

/-- The sign bit of a code, kept in place. -/
def signOf (t : Ty) (c : Nat) : Nat := c % 2 ^ tyWidth t - c % signBit t

/-- FTZ of an input (Table 2.2). -/
def ftzIn (ftz : Bool) (t : Ty) (c : Nat) : Nat := if ftz && isSubnormal t c then signOf t c else c

/-- FTZ of a result (Table 2.2): a zero of the same sign, with UNDERFLOW and INEXACT. -/
def ftzOut (ftz : Bool) (t : Ty) (r : Fr) : Fr :=
  if ftz && isSubnormal t r.code then ⟨signOf t r.code, flOr r.fl { unf := true, inx := true }, r.cause⟩ else r

/-- An FP32 code as FP64, exactly; a NaN keeps its sign, its signalling bit and its payload, left-aligned (R38, R37). -/
def widen32 (c : Nat) : Nat :=
  match decodeVal .fp32 c with
  | .nan neg p _ => (if neg then signBit .fp64 else 0) + (0x7FF <<< 52) + (p <<< 29)
  | v => (roundTo .fp64 .nearest v).code

/-- The rounding directions of VMISC 0 to 4 and 19 to 28 (Table 5.9), by its place in each list. -/
def miscRm : Nat → Rm
  | 0 => .nearest
  | 1 => .away
  | 2 => .zero
  | 3 => .up
  | _ => .down

/-- The directions of convertToInteger in the order of VAR 19 to 23: ties-even, toward zero, +∞, −∞, ties-away. -/
def intRm : Nat → Rm
  | 0 => .nearest
  | 1 => .zero
  | 2 => .up
  | 3 => .down
  | _ => .away

/-- A finite magnitude rounded to an integer: the magnitude and whether it is inexact. -/
def roundInt (rm : Rm) (neg : Bool) (m : Nat) (e : Int) : Nat × Bool :=
  if 0 ≤ e then (m <<< e.toNat, false)
  else
    let k := (-e).toNat
    let kept := m >>> k
    let rem := m % 2 ^ k
    (if roundsUp rm neg kept rem k false then kept + 1 else kept, rem != 0)

/-- roundToIntegral and roundToIntegralExact (VMISC 0 to 5); a zero result keeps the sign. -/
def fRoundInt (t : Ty) (rm : Rm) (exact : Bool) (a : Nat) : Fr :=
  match nanCase t [a] with
  | some r => r
  | none =>
    match decodeVal t a with
    | .fin n m e =>
      let (k, inx) := roundInt rm n m e
      ⟨(roundVal t .nearest false n k 0).code, { inx := exact && inx }, 0⟩
    | _ => ⟨a, {}, 0⟩

/-- IEEE 754 remainder x − y·n, n the integer nearest x/y, ties to even (VMISC 6). -/
def fRem (t : Ty) (a b : Nat) : Fr :=
  match nanCase t [a, b] with
  | some r => r
  | none =>
    match decodeVal t a, decodeVal t b with
    | .inf _, _ => invalidFr t 4
    | .fin _ _ _, .inf _ => ⟨a, {}, 0⟩
    | .fin n1 m1 e1, .fin _ m2 e2 =>
      if m2 = 0 then invalidFr t 4
      else
        let e := min e1 e2
        let x := m1 <<< (e1 - e).toNat
        let y := m2 <<< (e2 - e).toNat
        let q := x / y
        let r := x % y
        let up := decide (y < 2 * r) || (2 * r == y && q % 2 == 1)
        let d : Int := if up then (r : Int) - (y : Int) else (r : Int)
        let d := if n1 then -d else d
        if d = 0 then ⟨if n1 then signBit t else 0, {}, 0⟩ else roundSigned t .nearest d e n1
    | _, _ => invalidFr t 4

/-- The integer value of a code, when it is one. -/
def asInteger (t : Ty) (c : Nat) : Option Int :=
  match decodeVal t c with
  | .fin n m e =>
    let (k, inx) := roundInt .zero n m e
    if inx then none else some (signedOf n k)
  | _ => none

/-- scaleB(x, N), N a value of the same format (VMISC 7; assumption 30); for an N that is no integer the spec gives no
result (assumption 31). -/
def fScaleB (t : Ty) (rm : Rm) (a b : Nat) : Fr :=
  match nanCase t [a, b] with
  | some r => r
  | none =>
    match decodeVal t a with
    | .fin n m e =>
      (match asInteger t b with
      | some k => if m = 0 then ⟨a, {}, 0⟩ else roundVal t rm false n m (e + max (-5000) (min 5000 k))
      | none => ⟨Config.openValue 31 [tyCode t, a, b] % 2 ^ tyWidth t, {}, 0⟩)
    | _ => ⟨a, {}, 0⟩

/-- logB(x), a value of the same format (VMISC 8; assumption 30). -/
def fLogB (t : Ty) (a : Nat) : Fr :=
  match nanCase t [a] with
  | some r => r
  | none =>
    match decodeVal t a with
    | .inf _ => ⟨infCode t false, {}, 0⟩
    | .fin _ m e =>
      if m = 0 then ⟨infCode t true, { dz := true }, 0⟩
      else
        let k : Int := (bitLen m : Int) - 1 + e
        roundSigned t .nearest k 0 false
    | _ => ⟨a, {}, 0⟩

/-- nextUp and nextDown (VMISC 9, 10): neighbours in the order of the codes. -/
def fNext (t : Ty) (up : Bool) (a : Nat) : Fr :=
  match nanCase t [a] with
  | some r => r
  | none =>
    let sb := signBit t
    let neg := sb ≤ a % 2 ^ tyWidth t
    let mag := a % sb
    if mag = 0 then ⟨if up then 1 else sb + 1, {}, 0⟩
    else if neg == up then ⟨(if neg then sb else 0) + (mag - 1), {}, 0⟩
    else if mag = infCode t false then ⟨a, {}, 0⟩
    else ⟨(if neg then sb else 0) + (mag + 1), {}, 0⟩

/-- copySign, negate and abs (VMISC 11 to 13): no flags, NaNs included. -/
def fCopySign (t : Ty) (a b : Nat) : Nat := a % signBit t + signOf t b
def fNegate (t : Ty) (a : Nat) : Nat := if signOf t a = 0 then a + signBit t else a - signBit t

/-- The place of a code's class in the list of IEEE 754 clause 5.7.2. -/
def classIndex (t : Ty) (a : Nat) : Nat :=
  match decodeVal t a with
  | .nan _ _ s => if s then 0 else 1
  | .inf n => if n then 2 else 9
  | .fin n m _ =>
    let k := if m = 0 then 2 else if isSubnormal t a then 1 else 0
    if n then 3 + k else 8 - k

/-- class (VMISC 14): the spec gives no number to a class (assumption 32). -/
def fClass (t : Ty) (a : Nat) : Nat := Config.openValue 32 [classIndex t a] % 2 ^ tyWidth t

/-- convertToInteger to 64 bits, two's complement (VMISC 15, 19 to 28): for NaN, infinity and a value out of range the
spec gives no result (assumption 33). -/
def fToInt (t : Ty) (rm : Rm) (exact : Bool) (a : Nat) : Fr :=
  let bad (cause : Nat) : Fr := ⟨Config.openValue 33 [tyCode t, a] % 2 ^ 64, { inv := true }, cause⟩
  match decodeVal t a with
  | .nan _ _ s => bad (if s then 3 else 4)
  | .inf _ => bad 4
  | .fin n m e =>
    if decide (64 < (bitLen m : Int) + e) then bad 4
    else
      let (k, inx) := roundInt rm n m e
      if (if n then decide (2 ^ 63 < k) else decide (2 ^ 63 ≤ k)) then bad 4
      else ⟨if n then (2 ^ 64 - k) % 2 ^ 64 else k, { inx := exact && inx }, 0⟩

/-- convertFromInt of a 64-bit two's-complement integer (VMISC 16). -/
def fFromInt (t : Ty) (rm : Rm) (w : Nat) : Fr := roundSigned t rm (sextNat 64 w) 0 false

/-- totalOrder and totalOrderMag (VMISC 17, 18): the order of the codes read as sign and magnitude. -/
def fTotalOrder (t : Ty) (mag : Bool) (a b : Nat) : Bool :=
  let key := fun c : Nat => if !mag && signOf t c != 0 then -((c % signBit t : Nat) : Int) - 1 else ((c % signBit t : Nat) : Int)
  decide (key a ≤ key b)

/-- A comparison predicate of VCMP (Table 5.9), and whether it raises INVALID. -/
def fCompare (t : Ty) (pred : Nat) (signalling : Bool) (a b : Nat) : Bool × Bool :=
  let va := decodeVal t a
  let vb := decodeVal t b
  let un := va.isNan || vb.isNan
  let inv := va.isSnan || vb.isSnan || (signalling && un)
  let o := cmpVals va vb
  let r := match pred with
    | 0 => !un && o == .eq
    | 1 => un || o != .eq
    | 2 => !un && o == .lt
    | 3 => !un && o != .gt
    | 4 => !un && o == .gt
    | 5 => !un && o != .lt
    | 6 => un
    | _ => !un
  (r, inv)

/-- FP64 constants: 1.0, 0.5, 64/ln 2, ln 2/64, 1/6 and 1/24, each the nearest FP64 (R62). -/
def c1 : Nat := 0x3FF0000000000000
def cHalf : Nat := 0x3FE0000000000000
def cC : Nat := 0x40571547652B82FE
def cL : Nat := 0x3F862E42FEFA39EF
def cA3 : Nat := 0x3FC5555555555555
def cA4 : Nat := 0x3FA5555555555555

/-- Bits of the largest m with m^64 at most n, from bit k - 1 down. -/
def root64 (n : Nat) : Nat → Nat → Nat
  | 0, m => m
  | k + 1, m => if (m + 2 ^ k) ^ 64 ≤ n then root64 n k (m + 2 ^ k) else root64 n k m

/-- T[j], the FP64 nearest to 2^(j/64) (R62). -/
def expT (j : Nat) : Nat := 1022 * 2 ^ 52 + (root64 (2 ^ (64 * 53 + j)) 54 0 + 1) / 2

/-- TR[i], the FP64 nearest to 1/(1 + (i + 0.5)/128) (R63). -/
def rcpT (i : Nat) : Nat := (fDiv .fp64 .nearest (roundVal .fp64 .nearest false false 256 0).code
  (roundVal .fp64 .nearest false false (257 + 2 * i) 0).code).code

/-- TS[i], the FP64 nearest to 1/√(1 + (i + 0.5)/64) (R63): √(128/(129 + 2i)), which is never a tie. -/
def rsqT (i : Nat) : Nat := (roundVal .fp64 .nearest false false (isqrt (2 ^ 115 * 2 ^ 80 / (129 + 2 * i))) (-94) true).code

/-- FP64 operations rounded to nearest even. -/
def dAdd (a b : Nat) : Nat := (fAdd .fp64 .nearest a b).code
def dMul (a b : Nat) : Nat := (fMul .fp64 .nearest a b).code
def dFma (a b c : Nat) : Nat := (fFma .fp64 .nearest a b c).code
def dDiv (a b : Nat) : Nat := (fDiv .fp64 .nearest a b).code

/-- exp_core (R62): y as an FP64 code, and m. -/
def expCore (xd : Nat) : Nat × Int :=
  let k : Int := match decodeVal .fp64 (dMul xd cC) with
    | .fin n m e => signedOf n (roundInt .nearest n m e).1
    | _ => 0
  let kd := (roundSigned .fp64 .nearest (-k) 0 false).code
  let r := dFma kd cL xd
  let j := (k % 64).toNat
  let m := (k - j) / 64
  let p := dMul r (dAdd c1 (dMul r (dAdd cHalf (dMul r (dAdd cA3 (dMul r cA4))))))
  (dFma (expT j) p (expT j), m)

/-- An FP64 code times 2^m, rounded once to FP32. -/
def toFp32 (y : Nat) (m : Int) : Fr :=
  match decodeVal .fp64 y with
  | .fin n s e => roundVal .fp32 .nearest false n s (e + m)
  | v => roundTo .fp32 .nearest v

/-- A finite FP32 value compared with an integer. -/
def cmpInt (v : Val) (k : Int) : Ordering :=
  match v with
  | .fin n m e => compare (addExact (signedOf n m) e (-k) 0).1 0
  | .inf n => if n then .lt else .gt
  | _ => .eq

/-- exp32 (R62). -/
def exp32 (x : Nat) : Fr :=
  match nanCase .fp32 [x] with
  | some r => r
  | none =>
    let v := decodeVal .fp32 x
    match v with
    | .inf n => ⟨if n then 0 else infCode .fp32 false, {}, 0⟩
    | _ =>
      if cmpInt v 100 == .gt then ⟨infCode .fp32 false, { ovf := true, inx := true }, 0⟩
      else if cmpInt v (-150) == .lt then ⟨0, { unf := true, inx := true }, 0⟩
      else
        let (y, m) := expCore (widen32 x)
        toFp32 y m

/-- Significand in [1, 2) as an FP64 code, and exponent, of a finite nonzero magnitude (R63). -/
def sigExp (m : Nat) (e : Int) : Nat × Int :=
  ((roundVal .fp64 .nearest false false m (1 - (bitLen m : Int))).code, (bitLen m : Int) - 1 + e)

/-- floor((s − 1) × n) for s = m / 2^(bits − 1), scaled up by `dbl`. -/
def tableIndex (m n dbl : Nat) : Nat := ((dbl * m - 2 ^ (bitLen m - 1)) * n) >>> (bitLen m - 1)

/-- The iteration of rcp32 (R63). -/
def rcpIter (s : Nat) : Nat → Nat → Nat
  | 0, t => t
  | k + 1, t => rcpIter s k (dFma t (dFma (fNegate .fp64 s) t c1) t)

/-- rcp32 (R63). -/
def rcp32 (x : Nat) : Fr :=
  match nanCase .fp32 [x] with
  | some r => r
  | none =>
    match decodeVal .fp32 x with
    | .fin n m e =>
      if m = 0 then ⟨infCode .fp32 n, { dz := true }, 0⟩
      else
        let (s, ex) := sigExp m e
        let t := rcpIter s 3 (rcpT (tableIndex m 128 1))
        toFp32 (if n then fNegate .fp64 t else t) (-ex)
    | .inf n => ⟨if n then signBit .fp32 else 0, {}, 0⟩
    | _ => invalidFr .fp32 4

/-- The iteration of rsq32 (R63). -/
def rsqIter (s : Nat) : Nat → Nat → Nat
  | 0, t => t
  | k + 1, t =>
    let u := dMul s t
    let h := dFma (fNegate .fp64 u) t c1
    rsqIter s k (dFma (dMul t cHalf) h t)

/-- rsq32 (R63). -/
def rsq32 (x : Nat) : Fr :=
  match nanCase .fp32 [x] with
  | some r => r
  | none =>
    match decodeVal .fp32 x with
    | .inf false => ⟨0, {}, 0⟩
    | .inf true => invalidFr .fp32 4
    | .fin n m e =>
      if m = 0 then ⟨infCode .fp32 n, { dz := true }, 0⟩
      else if n then invalidFr .fp32 4
      else
        let (s, ex) := sigExp m e
        let odd := decide (ex % 2 = 1)
        let s2 := if odd then dMul s 0x4000000000000000 else s
        let ex2 := if odd then ex - 1 else ex
        let t := rsqIter s2 3 (rsqT (tableIndex m 64 (if odd then 2 else 1)))
        toFp32 t (-(ex2 / 2))
    | _ => invalidFr .fp32 4

/-- logistic32 (R63). -/
def logistic32 (x : Nat) : Fr :=
  match nanCase .fp32 [x] with
  | some r => r
  | none =>
    let v := decodeVal .fp32 x
    match v with
    | .inf n => ⟨if n then 0 else 0x3F800000, {}, 0⟩
    | _ =>
      if cmpInt v (-104) != .gt then ⟨0, { unf := true, inx := true }, 0⟩
      else if cmpInt v 150 != .lt then ⟨0x3F800000, { inx := true }, 0⟩
      else
        let (y, m) := expCore (widen32 (fNegate .fp32 x))
        let z := match decodeVal .fp64 y with
          | .fin n s e => (roundVal .fp64 .nearest false n s (e + m)).code
          | _ => y
        toFp32 (dDiv c1 (dAdd c1 z)) 0

end Sys2Proof
end

