-- ==== Sys2Proof/Machine/Vector.lean ====
section
/-! DEFINITION. The LOAD, VECTOR and MOVE slots on one core (05 R123-R130, R137, R139, R140, R144; 04 R102, R103). Each
reads its core as it stood before the bundle, `c` (R133), and changes the state. -/

namespace Sys2Proof.Machine

/-- VLD (Table 5.7). -/
def vldCore (s : State) (i : Issue) (key : Nat) (c : Core) : Except Stop State :=
  let d := strOf c (sf i 11 4)
  let (a, d') := element d (ciOf key)
  if 5 < sdVtype d then .error (progFault i key)
  else
    match coreRead s i key (sdSpace d) a 256 with
    | .error e => .error e
    | .ok (bs, s1) => .ok (putStream (putV s1 key (sf i 6 5) (vOfBytes bs)) key (sf i 11 4) d')

/-- VST (Table 5.7). -/
def vstCore (s : State) (i : Issue) (key : Nat) (c : Core) : Except Stop State :=
  let d := strOf c (sf i 11 4)
  let (a, d') := element d (ciOf key)
  if 5 < sdVtype d then .error (progFault i key)
  else
    match coreWrite s i key (sdSpace d) a (vBytes (vOf c (sf i 6 5))) with
    | .error e => .error e
    | .ok s1 => .ok (putStream s1 key (sf i 11 4) d')

/-- CLD (Table 5.7): from a cluster-store stream to a local-store stream; another SPACE of SA is a program fault (assumption 75). -/
def cldCore (s : State) (i : Issue) (key : Nat) (c : Core) : Except Stop State :=
  let da := strOf c (sf i 6 4)
  let db := strOf c (sf i 10 4)
  let (a, da') := element da (ciOf key)
  let (b, db') := element db (ciOf key)
  if 5 < sdVtype da || 5 < sdVtype db || sdSpace da != 1 then .error (progFault i key)
  else
    match coreRead s i key 1 a 1024 with
    | .error e => .error e
    | .ok (bs, s1) =>
      match coreWrite s1 i key (sdSpace db) b bs with
      | .error e => .error e
      | .ok s2 => .ok (putStream (putStream s2 key (sf i 6 4) da') key (sf i 10 4) db')

/-- Fields of a VECTOR slot (R139). -/
def vecVd (i : Issue) : Nat := sf i 6 5
def vecTy (i : Issue) : Option Ty := tyOf (sf i 26 3)
def vecVar (i : Issue) : Nat := sf i 29 5

/-- The operand type of arithmetic: FP32 or FP64 (R139). -/
def arithTy (i : Issue) : Option Ty :=
  match vecTy i with
  | some .fp32 => some .fp32
  | some .fp64 => some .fp64
  | _ => none

/-- Lanes of a type in a register (R104). -/
def laneCount (t : Ty) : Nat := 2048 / tyWidth t

/-- The sources of an arithmetic operation: FTZ applied, and FP32 lanes 0 to 31 widened in the mixed form (R139, R38). -/
def source (i : Issue) (c : Core) (t : Ty) (reg : Nat) : List Nat :=
  let ftz := vcFtz c.vctrl
  if flag (BitVec.ofNat 5 (vecVar i)) 4 && t == .fp64 then
    (lanesOf (vOf c reg) 32 32).map fun x => widen32 (ftzIn ftz .fp32 x)
  else (lanesOf (vOf c reg) (tyWidth t) (laneCount t)).map (ftzIn ftz t)

/-- Lane results are written to V[d] and their flags raised. -/
def putLanes (s : State) (i : Issue) (key : Nat) (was : Core) (w : Nat) (rs : List Fr) : State :=
  raiseLanes (putV s key (vecVd i) (packLanes w (rs.map (·.code)))) i key was rs

/-- The three sources of each lane. -/
def zip3 (a b c : List Nat) : List (Nat × Nat × Nat) := a.zip (b.zip c)

/-- An arithmetic operation lane by lane, for VADD to VMINN (R139, R458). -/
def arithCore (f : Ty → Rm → Nat → Nat → Nat → Fr) (s : State) (i : Issue) (key : Nat) (c : Core) : Except Stop State :=
  match arithTy i with
  | none => .error (progFault i key)
  | some t =>
    let ls := zip3 (source i c t (sf i 11 5)) (source i c t (sf i 16 5)) (source i c t (sf i 21 5))
    let rs := ls.map fun x => ftzOut (vcFtz c.vctrl) t (f t (vcRm c.vctrl) x.1 x.2.1 x.2.2)
    .ok (putLanes s i key c (tyWidth t) rs)

/-- All ones of a lane's width, or zero. -/
def maskCode (t : Ty) (b : Bool) : Nat := if b then 2 ^ tyWidth t - 1 else 0

/-- VCMP (Table 5.9). -/
def vcmpCore (s : State) (i : Issue) (key : Nat) (c : Core) : Except Stop State :=
  match arithTy i with
  | none => .error (progFault i key)
  | some t =>
    let v := vecVar i
    let rs := ((source i c t (sf i 11 5)).zip (source i c t (sf i 16 5))).map fun x =>
      let r := fCompare t (v % 8) (v / 8 % 2 == 1) x.1 x.2
      let sn := (decodeVal t x.1).isSnan || (decodeVal t x.2).isSnan
      (⟨maskCode t r.1, { inv := r.2 }, if r.2 then (if sn then 3 else 4) else 0⟩ : Fr)
    .ok (putLanes s i key c (tyWidth t) rs)

/-- VSEL (Table 5.9). -/
def vselCore (s : State) (i : Issue) (key : Nat) (c : Core) : Except Stop State :=
  match arithTy i with
  | none => .error (progFault i key)
  | some t =>
    let l := fun reg => (lanesOf (vOf c reg) (tyWidth t) (laneCount t)).map (ftzIn (vcFtz c.vctrl) t)
    let rs := (zip3 (l (sf i 11 5)) (l (sf i 16 5)) (l (sf i 21 5))).map fun x =>
      if x.2.2 == 2 ^ tyWidth t - 1 then x.1 else x.2.1
    .ok (putV s key (vecVd i) (packLanes (tyWidth t) rs))

/-- VFUNC (R62, R63): FP32 only. -/
def vfuncCore (s : State) (i : Issue) (key : Nat) (c : Core) : Except Stop State :=
  let f := match vecVar i with
    | 0 => some exp32
    | 1 => some rcp32
    | 2 => some rsq32
    | 3 => some logistic32
    | _ => none
  match vecTy i, f with
  | some .fp32, some f =>
    let ftz := vcFtz c.vctrl
    let rs := (lanesOf (vOf c (sf i 11 5)) 32 64).map fun x => ftzOut ftz .fp32 (f (ftzIn ftz .fp32 x))
    .ok (putLanes s i key c 32 rs)
  | _, _ => .error (progFault i key)

/-- One element of a conversion to a type (R55, R57); a scale of 0xFF makes it NaN (R36), and a NaN keeps its sign (R37). -/
def convElem (vc : BitVec 16) (seed : Word) (x : Cx) (t : Ty) (scale : Nat) (idx : Word) (v : Val) : Fr :=
  let r := roundingOf vc seed x t idx
  if isFp8 t then
    (if scale = 255 then convVal t r false 0 (if v.isNan then v else .nan false 0 false) else convVal t r (vcSat vc t) (127 - (scale : Int)) v)
  else convVal t r false 0 v

/-- The INVALID of a tile scale chosen from a nonfinite amax (R57). -/
def nonfinite (vc : BitVec 16) (t : Ty) (scale : Nat) : Bool := isFp8 t && vcTileScale vc && scale == 255

/-- VCVT (Table 5.9, R55-R59, R129, R130). A signalling NaN raises INVALID (assumption 27). With TILE_SCALE set, the
instruction's lanes are its tile (assumption 96). -/
def vcvtCore (s : State) (i : Issue) (key : Nat) (c : Core) : Except Stop State :=
  match vecTy i, tyOf (sf i 34 3) with
  | some st, some t =>
    let k := sf i 37 2
    let x := cxOf c k
    let n := min (laneCount st) (laneCount t)
    let vs := (lanesOf (vOf c (sf i 11 5)) (tyWidth st) n).map (decodeVal st)
    let scale := scaleOf c.vctrl x t vs
    let base := cxBase x (ciOf key)
    let bad := nonfinite c.vctrl t scale
    let rs := vs.zipIdx.map fun e =>
      let r := convElem c.vctrl i.launch.seed x t scale (base + BitVec.ofNat 64 e.2) e.1
      if e.1.isSnan then ({ r with fl := flOr r.fl { inv := true }, cause := 3 } : Fr)
      else if bad && e.2 = nonfiniteAt vs then { r with fl := flOr r.fl { inv := true }, cause := 7 }
      else r
    let s1 := putCx s key k (cxAdvance (gatherAmax x t vs) (BitVec.ofNat 64 n))
    .ok (putLanes s1 i key c (tyWidth t) rs)
  | _, _ => .error (progFault i key)

/-- VRED (R49, R54): across lanes, the result in lane 0, the other lanes +0; amax keeps a NaN lane as it is. An INVALID inside
the tree is located at lane 0 (assumption 95). -/
def vredCore (s : State) (i : Issue) (key : Nat) (c : Core) : Except Stop State :=
  match arithTy i with
  | none => .error (progFault i key)
  | some t =>
    let ftz := vcFtz c.vctrl
    let ls := (lanesOf (vOf c (sf i 11 5)) (tyWidth t) (laneCount t)).map (ftzIn ftz t)
    let start := fun x : Nat => (⟨x, {}, 0⟩ : Fr)
    let go := fun (op : Nat → Nat → Fr) (l : List Nat) => canonTree (frPair op) ⟨0, {}, 0⟩ (l.map start)
    let r := match vecVar i with
      | 0 => some (go (fun a b => ftzOut ftz t (fAdd t (vcRm c.vctrl) a b)) ls)
      | 1 => some (go (fMaxMin t true) ls)
      | 2 => some (go (fMaxMin t false) ls)
      | 3 => some (go (fMaxMin t true) (ls.map fun c => if (decodeVal t c).isNan then c else absCode t c))
      | _ => none
    match r with
    | some r => .ok (putLanes s i key c (tyWidth t) [r])
    | none => .error (progFault i key)

/-- A VMISC operation on one lane of a type, for the forms whose lanes have the type's width (Table 5.9). -/
def miscLane (t : Ty) (rm : Rm) (var a b : Nat) : Fr :=
  let plain := fun x : Nat => (⟨x, {}, 0⟩ : Fr)
  if var < 5 then fRoundInt t (miscRm var) false a
  else if var = 5 then fRoundInt t rm true a
  else if var = 6 then fRem t a b
  else if var = 7 then fScaleB t rm a b
  else if var = 8 then fLogB t a
  else if var = 9 then fNext t true a
  else if var = 10 then fNext t false a
  else if var = 11 then plain (fCopySign t a b)
  else if var = 12 then plain (fNegate t a)
  else if var = 13 then plain (absCode t a)
  else if var = 14 then plain (fClass t a)
  else if var = 17 then plain (maskCode t (fTotalOrder t false a b))
  else plain (maskCode t (fTotalOrder t true a b))

/-- VMISC (Table 5.9). FTZ acts on every form but the conversions between integers and floating point (R39, R40; assumption 28);
results that are no floating-point value stay as they are. -/
def vmiscCore (s : State) (i : Issue) (key : Nat) (c : Core) : Except Stop State :=
  match arithTy i with
  | none => .error (progFault i key)
  | some t =>
    let v := vecVar i
    let ftz := vcFtz c.vctrl
    let lanes := fun reg => (lanesOf (vOf c reg) (tyWidth t) (laneCount t)).map (ftzIn ftz t)
    if 28 < v then .error (progFault i key)
    else if v = 15 || 19 ≤ v then
      let rm := if v = 15 then vcRm c.vctrl else intRm ((v - 19) % 5)
      let rs := ((lanesOf (vOf c (sf i 11 5)) (tyWidth t) 32).map fun a => fToInt t rm (v = 15 || 24 ≤ v) a)
      .ok (putLanes s i key c 64 rs)
    else if v = 16 then
      let rs := (lanesOf (vOf c (sf i 11 5)) 64 32).map fun a => fFromInt t (vcRm c.vctrl) a
      .ok (putLanes s i key c (tyWidth t) rs)
    else
      let rs := ((lanes (sf i 11 5)).zip (lanes (sf i 16 5))).map fun x => ftzOut (ftz && v < 14) t (miscLane t (vcRm c.vctrl) v x.1 x.2)
      .ok (putLanes s i key c (tyWidth t) rs)

/-- SLD (R123). It acts on the stream as the bundle's other slots leave it (R133). -/
def sldCore (s : State) (i : Issue) (key : Nat) (_c : Core) : Except Stop State :=
  let p := sf i 10 6
  .ok (putStream s key (sf i 6 4) { word := ofWords 192 [pReg s p, pReg s (p + 1), pReg s (p + 2)] })

/-- ADVANCE (R126). -/
def advanceCore (s : State) (i : Issue) (key : Nat) (_c : Core) : Except Stop State :=
  let n := sf i 6 4
  let d := strOf (coreOf s key) n
  .ok (putStream s key n { word := setFld d.word 0 24 ((sdBase d + (pReg s (sf i 10 6)).toNat) % 2 ^ 24) })

/-- Fold entry n of a core. -/
def foldAt (s : State) (key n : Nat) : FoldE := foldOf (tblGet clearedFold (coreOf s key).fold n)

/-- A fold entry of a core is written. -/
def putFold (s : State) (key n : Nat) (e : FoldE) : State :=
  modCore s key fun c => { c with fold := tblSet clearedFold c.fold n (foldWord e) }

/-- A range of n entries from `a` on lies within the bank (R101). -/
def rangeOk (a n : Nat) : Bool := decide (a + n ≤ 256)

/-- FCLR (Table 5.10). -/
def fclrCore (s : State) (i : Issue) (key : Nat) (_c : Core) : Except Stop State :=
  let a := sf i 6 8
  let n := sf i 14 8 + 1
  let m := sf i 22 1 == 1
  if !rangeOk a n then .error (progFault i key)
  else
    .ok ((List.range n).foldl (fun t k =>
      modCore (putFold t key (a + k) { mode := m }) key fun c => { c with early := c.early.filter fun e => e.1 != a + k }) s)

/-- FRD (R102, R144). The locator of an INVALID is that of a vector-unit occurrence (assumption 95). -/
def frdCore (s : State) (i : Issue) (key : Nat) (c : Core) : Except Stop State :=
  let a := sf i 6 8
  let n := sf i 14 6 + 1
  match tyOf (sf i 25 3) with
  | none => .error (progFault i key)
  | some t =>
    let es := (List.range n).map fun k => foldOf (tblGet clearedFold c.fold (a + k))
    if !rangeOk a n || (t == .fp64 && 32 < n) then .error (progFault i key)
    else if !es.all residueOk then .error (.coreFail none)
    else
      let k := sf i 28 2
      let x := cxOf c k
      let vs := es.map fun e => (foldVal e).1
      let scale := scaleOf c.vctrl x t vs
      let base := cxBase x (ciOf key)
      let bad := nonfinite c.vctrl t scale
      let rs := es.zipIdx.map fun e =>
        let r := roundingOf c.vctrl i.launch.seed x t (base + BitVec.ofNat 64 e.2)
        let q := if isFp8 t then
            (if scale = 255 then (⟨defaultNan t, { inv := (foldVal e.1).2 != 0 }, (foldVal e.1).2⟩ : Fr)
            else foldRead t r (vcSat c.vctrl t) (127 - (scale : Int)) e.1)
          else foldRead t r false 0 e.1
        if bad && e.2 = nonfiniteAt vs && q.cause = 0 then { q with fl := flOr q.fl { inv := true }, cause := 7 } else q
      let v := packLanes (tyWidth t) (rs.map (·.code))
      let v := if isFp8 t then setFld v 2040 8 scale else v
      let s1 := raiseLanes (putV s key (sf i 20 5) v) i key c rs
      if isFp8 t || t == .bf16 then
        .ok (putCx s1 key k (cxAdvance (gatherAmax x t vs) (BitVec.ofNat 64 n)))
      else .ok s1

/-- Raw records written one per element (FEXP). -/
def fexpLoop (s : State) (i : Issue) (key sp : Nat) (c : Core) : List (Nat × Nat) → Except Stop State
  | [] => .ok s
  | (n, a) :: r =>
    match coreWrite s i key sp a (bytesOfNat (tblGet clearedFold c.fold n).toNat 48) with
    | .error e => .error e
    | .ok s1 => fexpLoop s1 i key sp c r

/-- FEXP (Table 5.10). -/
def fexpCore (s : State) (i : Issue) (key : Nat) (c : Core) : Except Stop State :=
  let a := sf i 6 8
  let n := sf i 14 6 + 1
  let d := strOf c (sf i 20 4)
  let (as, d') := elements d (ciOf key) n
  if !rangeOk a n || 5 < sdVtype d then .error (progFault i key)
  else
    match fexpLoop s i key (sdSpace d) c (as.zipIdx.map fun e => (a + e.2, e.1)) with
    | .error e => .error e
    | .ok s1 => .ok (putStream s1 key (sf i 20 4) d')

/-- Records of an entry that arrived early and whose turn has come join it (R103); `fuel` bounds their number. -/
def joinEarly (s : State) (i : Issue) (key : Nat) (was : Core) (n : Nat) : Nat → State
  | 0 => s
  | fuel + 1 =>
    let e := foldAt s key n
    match (coreOf s key).early.find? fun x => x.1 == n && (foldOf x.2).split == e.split + 1 with
    | none => s
    | some x =>
      let (e', cause, _) := combineRecord e (foldOf x.2)
      let s1 := modCore (putFold s key n e') key fun c => { c with early := eraseFirst (fun y => y == x) c.early }
      let s2 := if cause = 0 then s1 else raiseFlags s1 key was { inv := true } (some (vecOccur i 0 cause))
      joinEarly s2 i key was n fuel

/-- A raw record joins entry n (R103, R118). The locator of an INVALID is that of a vector-unit occurrence (assumption 95). -/
def faddOne (s : State) (i : Issue) (key : Nat) (was : Core) (n lane : Nat) (r : FoldE) : Except Stop State :=
  let (e', cause, early) := combineRecord (foldAt s key n) r
  if early then .ok (modCore s key fun c => { c with early := c.early ++ [(n, foldWord r)] })
  else if cause = 0 && !residueOk e' then .error (stopAt s (.coreFail none))
  else
    let s1 := putFold s key n e'
    let s2 := if cause = 0 then s1 else raiseFlags s1 key was { inv := true } (some (vecOccur i lane cause))
    .ok (joinEarly s2 i key was n ((coreOf s2 key).early.length))

/-- Records read one per element and combined (FADD). -/
def faddLoop (s : State) (i : Issue) (key : Nat) (was : Core) (sp : Nat) : List (Nat × Nat × Nat) → Except Stop State
  | [] => .ok s
  | (n, lane, a) :: r =>
    match coreRead s i key sp a 48 with
    | .error e => .error e
    | .ok (bs, s1) =>
      match faddOne s1 i key was n lane (foldOf (BitVec.ofNat 384 (natOfBytes bs))) with
      | .error e => .error e
      | .ok s2 => faddLoop s2 i key was sp r

/-- FADD (Table 5.10, R103). -/
def faddCore (s : State) (i : Issue) (key : Nat) (c : Core) : Except Stop State :=
  let a := sf i 6 8
  let n := sf i 14 6 + 1
  let d := strOf c (sf i 20 4)
  let (as, d') := elements d (ciOf key) n
  if !rangeOk a n || 5 < sdVtype d then .error (progFault i key)
  else
    match faddLoop s i key c (sdSpace d) (as.zipIdx.map fun e => (a + e.2, e.2, e.1)) with
    | .error e => .error e
    | .ok s1 => .ok (putStream s1 key (sf i 20 4) d')

/-- CXSET (R128). -/
def cxsetCore (s : State) (i : Issue) (key : Nat) (_c : Core) : Except Stop State :=
  let p := sf i 8 6
  .ok (putCx s key (sf i 6 2) { word := ofWords 256 [pReg s p, pReg s (p + 1), pReg s (p + 2), pReg s (p + 3)] })

/-- CXADV (R129). -/
def cxadvCore (s : State) (i : Issue) (key : Nat) (c : Core) : Except Stop State :=
  let k := sf i 6 2
  .ok (putCx s key k (cxAdvance (cxOf c k) (pReg s (sf i 8 6))))

end Sys2Proof.Machine
end

