-- ==== Sys2Proof/Machine/Engine.lean ====
section
/-! DEFINITION. The ENGINE slot and TENC on one core (05 R138, R141-R143; 04 R93-R98; 02 R42-R51; 03 R85-R90). -/

namespace Sys2Proof.Machine

/-- What an engine instruction carries along: the state, the engines' times in 1/64 cycle with the tiles of that cycle (R95),
and the first occurrence. -/
structure Run where
  s : State
  times : List (Nat × Nat)
  first : Option Timed
  inv : Bool

/-- The families of operands (R96): FP8, FP16, BF16. -/
def family (vtype : Nat) : Nat := if vtype < 2 then 0 else vtype

/-- The scale exponent of an operand of R42, FP8 or FP16; none for 0xFF, which makes every value NaN (R36). BF16 products are
unscaled (R50, R73; assumption 75). -/
def scaleExp (vtype scale : Nat) : Option Int :=
  if vtype = 3 then some 0 else if scale = 255 then none else some ((scale : Int) - 127)

/-- The scale exponent of a product of governed values; none where one of them has none. -/
def pairScale (v a w b : Nat) : Option Int :=
  match scaleExp v a, scaleExp w b with
  | some x, some y => some (x + y)
  | _, _ => none

/-- The type of a tile or dense VTYPE. -/
def vtTy (v : Nat) : Ty := (tyOf v).getD .e4m3

/-- The partial of one tile row or column for one dense vector, with the place of its first zero times infinity. -/
def rowPartial (bf : Bool) (nan : Bool) (ps : List (Val × Val × Nat)) : Partial × Option Nat :=
  ps.foldl (fun acc x =>
    let (v, zi) := if nan then (Val.nan false 0 false, false) else prodVal x.1 x.2.1
    (if bf then addTermBf acc.1 v else addTerm (-48) acc.1 v, if acc.2.isNone && zi then some x.2.2 else acc.2)) ({}, none)

/-- A partial folds into entry n of a core; a residue mismatch stops (R118). -/
def foldInto (r : Run) (key n cycle : Nat) (bf : Bool) (sc : Int) (p : Partial) (o : Occur) : Except Stop Run :=
  let (e, cause) := foldPartial (foldAt r.s key n) bf sc p
  if cause = 0 && !residueOk e then .error (stopAt r.s (.coreFail none))
  else
    let s1 := putFold r.s key n e
    if cause = 0 then .ok { r with s := s1 }
    else .ok { r with s := s1, inv := true, first := earlier r.first (some { cycle := cycle, at_ := { o with cause := cause } }) }

/-- The dense slices that a tile faces, one per vector (R141): 32 values each. -/
def denseSlices (s : State) (i : Issue) (key sp b : Nat) (tile : Nat) : List Nat → Except Stop (List (List Nat) × State)
  | [] => .ok ([], s)
  | a :: r =>
    match coreRead s i key sp (a + 32 * tile * b) (32 * b) with
    | .error e => .error e
    | .ok (bs, s1) =>
      match denseSlices s1 i key sp b tile r with
      | .error e => .error e
      | .ok (ds, s2) => .ok ((List.range 32).map (fun k => natOfBytes ((bs.drop (k * b)).take b)) :: ds, s2)

/-- What EMV needs of its operands. -/
structure EmvArgs where
  key : Nat
  desc : TDesc
  column : Bool
  facc : Nat
  sdType : Nat
  sdScale : Nat

/-- The CCLK cycle in which a stored position, with its place in the view's order, meets vector j (R94, Table 4.1). -/
def posCycle (h : Word) (nv base j : Nat) (p : Pos × Nat) : Nat := (base + posTime h nv p.2 (32 * p.1.r + p.1.c) j) / 64

/-- The stored positions of row or column g, with their places in the view's order. -/
def lineOf (column : Bool) (g : Nat) (ps : List (Pos × Nat)) : List (Pos × Nat) :=
  ps.filter fun p => (if column then p.1.c else p.1.r) == g

/-- The values of a row's or column's positions beside the dense values that they meet. -/
def linePairs (a : EmvArgs) (h : Word) (mine : List (Pos × Nat)) (dense : List Nat) : List (Val × Val × Nat) :=
  mine.map fun p =>
    (decodeVal (vtTy (thVtype h)) p.1.v, decodeVal (vtTy a.sdType) (dense.getD (if a.column then p.1.r else p.1.c) 0), p.2)

/-- One row or column g of a tile, for vector j of nv (R93, R97). A fold's occurrence lies 4 cycles after the row's last
product and names the row's first stored position (assumptions 94, 95). -/
def emvRow (r : Run) (a : EmvArgs) (h : Word) (nv lane base idx : Nat) (ps : List (Pos × Nat)) (g j : Nat) (dense : List Nat) :
    Except Stop Run :=
  let mine := lineOf a.column g ps
  match mine with
  | [] => .ok r
  | p0 :: _ =>
    let bf := a.desc.vtype == 3
    let sc := pairScale a.sdType a.sdScale (thVtype h) (thScale h)
    let (part, zi) := rowPartial bf sc.isNone (linePairs a h mine dense)
    let occ := fun p : Pos × Nat =>
      ({ tensor := a.desc.id, tile := idx, row := p.1.r, col := p.1.c, lane := lane, cause := 1 } : Occur)
    let r1 := match zi with
      | some n =>
        (match mine.find? (fun p => p.2 == n) with
        | some p => { r with inv := true, first := earlier r.first (some { cycle := posCycle h nv base j p, at_ := occ p }) }
        | none => r)
      | none => r
    let endCycle := posCycle h nv base j (mine.getLastD p0) + 4
    foldInto r1 a.key (a.facc + 32 * j + g) endCycle bf (sc.getD 0) part (occ p0)

/-- The rows and vectors of one tile, in a list of (row, vector). -/
def emvRows (r : Run) (a : EmvArgs) (h : Word) (nv lane base idx : Nat) (ps : List (Pos × Nat)) (dense : List (List Nat)) :
    List (Nat × Nat) → Except Stop Run
  | [] => .ok r
  | (g, j) :: rest =>
    match emvRow r a h nv lane base idx ps g j (dense.getD j []) with
    | .error e => .error e
    | .ok r1 => emvRows r1 a h nv lane base idx ps dense rest

/-- NAN_SEEN in the entries that a malformed tile feeds (R85). -/
def poisonEntries (s : State) (key a n : Nat) : State :=
  (List.range n).foldl (fun t k => putFold t key (a + k) { foldAt t key (a + k) with nan := true }) s

/-- A tile at an address of a stream: its header and bytes. Of a tile whose size R76 does not give only the header is read. One that
runs past its space is a program fault, whatever Table 3.6 says of it (assumption 118). -/
def readTile (s : State) (i : Issue) (key sp a : Nat) : Except Stop (Word × List Byte × State) :=
  match coreRead s i key sp a 8 with
  | .error e => .error e
  | .ok (hb, s1) =>
    let h := BitVec.ofNat 64 (natOfBytes hb)
    match coreRead s1 i key sp a (if tileReserved h then 8 else max 8 (tileLen h)) with
    | .error e => .error e
    | .ok (bs, s2) => .ok (h, bs, s2)

/-- The tiles of EMV, one after another (R94, R141): `k` tiles are still to come, `n` have been taken. A tile with no stored
position reaches no engine and reads no dense slice (R95, R71). -/
def emvTiles (r : Run) (i : Issue) (a : EmvArgs) (st : SDesc) (sdSp : Nat) (vecs : List Nat) (n : Nat) : Nat → Except Stop (Run × SDesc)
  | 0 => .ok (r, st)
  | k + 1 =>
    let t := tileCols a.desc
    let (addr, idx) := tileAt st (ciOf a.key) (if a.column then t else 1)
    match readTile r.s i a.key (sdSpace st) addr with
    | .error e => .error e
    | .ok (h, bs, s1) =>
      let st' := afterTile st (ciOf a.key) (tileLen h)
      let rows := a.desc.rows - 32 * (idx / t)
      let cols := a.desc.cols - 32 * (idx % t)
      let ps := tilePositions bs h rows cols
      let chk := tileCheck h (tileDisallowed a.desc h) ps rows cols
      if chk != 0 then
        let s2 := latchTile (poisonEntries s1 a.key a.facc (32 * vecs.length)) a.key a.desc.id idx chk
        emvTiles { r with s := s2 } i a st' sdSp vecs (n + 1) k
      else
        match denseSlices s1 i a.key sdSp (vtBytes a.sdType) n (if ps.isEmpty then [] else vecs) with
        | .error e => .error e
        | .ok (dense, s2) =>
          let lane := n % 8
          let at_ := r.times.getD lane (0, 0)
          let base := (tileStart at_).1
          let nv := vecs.length
          let items := (List.range 32).flatMap fun g => (List.range nv).map fun j => (g, j)
          match emvRows { r with s := s2 } a h nv lane base idx (viewOrder a.column ps).zipIdx dense items with
          | .error e => .error e
          | .ok r1 => emvTiles { r1 with times := setAt r1.times lane (tileEnd at_ (if ps.isEmpty && !(thFormat h = 1) then 0 else tileTime h ps.length nv)) }
              i a st' sdSp vecs (n + 1) k

/-- The end of an engine instruction: its INVALID and locator (R65). -/
def endRun (r : Run) (key : Nat) (was : Core) : State :=
  if r.inv then raiseFlags r.s key was { inv := true } r.first else r.s

/-- The tensor descriptor that a P register names in the cluster store (R138). -/
def readDesc (s : State) (i : Issue) (key : Nat) (a : Nat) : Except Stop (TDesc × State) :=
  match coreRead s i key 1 a 40 with
  | .error e => .error e
  | .ok (bs, s1) => .ok (tdescOf (wordsOfBytes bs 5), s1)

/-- EMV (R141). ST may have any VTYPE of Table 5.3: a tile's own VTYPE says what it holds (assumption 120). -/
def emvCore (s : State) (i : Issue) (key : Nat) (c : Core) : Except Stop State :=
  let st := strOf c (sf i 6 4)
  let sd := strOf c (sf i 10 4)
  let addr := (pReg s (sf i 14 6)).toNat
  let nt := (pReg s (sf i 20 6)).toNat
  let column := sf i 34 1 == 1
  let nv := sf i 35 3 + 1
  if nt = 0 then .ok s
  else
    match readDesc s i key addr with
    | .error e => .error e
    | .ok (d, s1) =>
      let (vecs, sd') := elements sd (ciOf key) nv
      if !tdescOk d column then .error (stopAt s1 (descFault addr key))
      else if 3 < sdVtype sd || 5 < sdVtype st || sdBadSpace sd || sdBadSpace st then .error (stopAt s1 (progFault i key))
      else if family d.vtype != family (sdVtype sd) then .error (stopAt s1 (descFault addr key))
      else
        let a : EmvArgs := {
          key := key, desc := d, column := column, facc := sf i 26 8, sdType := sdVtype sd, sdScale := sdScale sd }
        match emvTiles ⟨s1, List.replicate 8 (0, 0), none, false⟩ i a st (sdSpace sd) vecs 0 nt with
        | .error e => .error e
        | .ok (r, st') => .ok (putStream (putStream (endRun r key c) key (sf i 6 4) st') key (sf i 10 4) sd')

/-- The batch operands of EOP: 32 values at each element (R142). -/
def batchValues (s : State) (i : Issue) (key sp b : Nat) : List Nat → Except Stop (List (List Nat) × State)
  | [] => .ok ([], s)
  | a :: r =>
    match coreRead s i key sp a (32 * b) with
    | .error e => .error e
    | .ok (bs, s1) =>
      match batchValues s1 i key sp b r with
      | .error e => .error e
      | .ok (ds, s2) => .ok ((List.range 32).map (fun k => natOfBytes ((bs.drop (k * b)).take b)) :: ds, s2)

/-- The operand pairs of the k-th 32 items of a batch, with their places in it. -/
def batchPairs (g : List (Val × Val)) (k : Nat) : List (Val × Val × Nat) := g.zipIdx.map fun x => (x.1.1, x.1.2, 32 * k + x.2)

/-- What a stored position meets over the batch, in runs of 32 items (R98). -/
def batchGroups (ty tx : Ty) (ys xs : List (List Nat)) (p : Pos) : List (List (Val × Val)) :=
  let pairs := (ys.zip xs).map fun e => (decodeVal ty (e.1.getD p.r 0), decodeVal tx (e.2.getD p.c 0))
  chunksOf 32 (pairs.length / 32 + 1) pairs

/-- One stored position of EOP over the batch, a fold after every 32 items (R142, R98). Every position of a pass meets an item in
the first of the item's cycles (assumption 94). -/
def eopPos (r : Run) (key n pass rot : Nat) (bf : Bool) (sc : Option Int) (occ : Occur) (wide : Nat) :
    List (List (Val × Val)) → Nat → Except Stop Run
  | [], _ => .ok r
  | g :: rest, k =>
    let lane := (rot + pass) % 8
    let (part, zi) := rowPartial bf sc.isNone (batchPairs g k)
    let o := { occ with lane := lane }
    let r1 := match zi with
      | some m => { r with inv := true, first := earlier r.first (some { cycle := m * wide, at_ := { o with cause := 1 } }) }
      | none => r
    match foldInto r1 key n ((32 * k + g.length - 1) * wide + 4) bf (sc.getD 0) part o with
    | .error e => .error e
    | .ok r2 => eopPos r2 key n pass rot bf sc occ wide rest (k + 1)

/-- The stored positions of EOP, in order. -/
def eopLoop (r : Run) (key facc rot : Nat) (bf : Bool) (sc : Option Int) (id idx wide : Nat) (ty tx : Ty) (ys xs : List (List Nat)) :
    List (Pos × Nat) → Except Stop Run
  | [] => .ok r
  | (p, n) :: rest =>
    let occ : Occur := { tensor := id, tile := idx, row := p.r, col := p.c, lane := 0, cause := 1 }
    match eopPos r key (facc + n) (n / 64) rot bf sc occ wide (batchGroups ty tx ys xs p) 0 with
    | .error e => .error e
    | .ok r1 => eopLoop r1 key facc rot bf sc id idx wide ty tx ys xs rest

/-- EOP (R142). A stream named twice gives each use its state at issue, and goes on once (assumption 98). For a malformed tile,
NAN_SEEN is set in the entries that a tile of the descriptor's K feeds (assumption 29). ST may have any VTYPE of Table 5.3
(assumption 120). -/
def eopCore (s : State) (i : Issue) (key : Nat) (c : Core) : Except Stop State :=
  let st := strOf c (sf i 6 4)
  let sy := strOf c (sf i 10 4)
  let sx := strOf c (sf i 14 4)
  let nb := (pReg s (sf i 18 6)).toNat
  let half := sf i 24 1
  let facc := sf i 25 8
  let addr := (pReg s (sf i 33 6)).toNat
  match readDesc s i key addr with
  | .error e => .error e
  | .ok (d, s1) =>
    let (ya, sy') := elements sy (ciOf key) nb
    let (xa, sx') := elements sx (ciOf key) nb
    let (ta, idx) := tileAt st (ciOf key) 1
    if !tdescOk d false then .error (stopAt s1 (descFault addr key))
    else if 3 < sdVtype sy || 3 < sdVtype sx || 5 < sdVtype st || sdBadSpace sy || sdBadSpace sx || sdBadSpace st ||
        !(d.format = 2 || d.format = 3 || d.format = 5) then .error (stopAt s1 (progFault i key))
    else if family (sdVtype sy) != family (sdVtype sx) then .error (stopAt s1 (descFault addr key))
    else
      match readTile s1 i key (sdSpace st) ta with
      | .error e => .error e
      | .ok (h, bs, s2) =>
        let ps := tilePositions bs h 32 32
        let chk := tileCheck h (tileDisallowed d h) ps 32 32
        let here := ((ps.drop (256 * half)).take 256).zipIdx
        let n := if chk != 0 then min (32 * d.k - 256 * half) 256 else here.length
        if !rangeOk facc n then .error (stopAt s2 (progFault i key))
        else
          match batchValues s2 i key (sdSpace sy) (vtBytes (sdVtype sy)) ya with
          | .error e => .error e
          | .ok (ys, s3) =>
            match batchValues s3 i key (sdSpace sx) (vtBytes (sdVtype sx)) xa with
            | .error e => .error e
            | .ok (xs, s4) =>
              let put := fun t : State => putStream (putStream (putStream t key (sf i 6 4) (afterTile st (ciOf key) (tileLen h)))
                key (sf i 10 4) sy') key (sf i 14 4) sx'
              if chk != 0 then .ok (put (latchTile (poisonEntries s4 key facc n) key d.id idx chk))
              else
                let sc := pairScale (sdVtype sy) (sdScale sy) (sdVtype sx) (sdScale sx)
                let wide := if sdVtype sy < 2 then 1 else 4
                match eopLoop ⟨s4, [], none, false⟩ key facc c.rot (sdVtype sy == 3) sc d.id idx wide (vtTy (sdVtype sy)) (vtTy (sdVtype sx))
                    ys xs here with
                | .error e => .error e
                | .ok r => .ok (put (modCore (endRun r key c) key fun x => { x with rot := (c.rot + ceilDiv n 64) % 8 }))

/-- The converted values of a TENC half (R143): results, and their stored positions. -/
def tencValues (c : Core) (i : Issue) (x : Cx) (t : Ty) (ci scale facc : Nat) (ps : List (Pos × Nat)) : List (Fr × Pos) :=
  ps.map fun e =>
    let f := foldOf (tblGet clearedFold c.fold (facc + e.2))
    let idx := cxBase x ci + BitVec.ofNat 64 e.1.r * cxPitch x + BitVec.ofNat 64 e.1.c
    let r := roundingOf c.vctrl i.launch.seed x t idx
    let q := if isFp8 t then
        (if scale = 255 then (⟨defaultNan t, { inv := (foldVal f).2 != 0 }, (foldVal f).2⟩ : Fr)
        else foldRead t r (vcSat c.vctrl t) (127 - (scale : Int)) f)
      else foldRead t r false 0 f
    (q, e.1)

/-- A mask tile stands in a LIST tensor (Table 3.5). -/
def maskList (h : Word) : Bool := thFormat h == 4 || (thFormat h == 1 && thFb h)

/-- TENC encodes the tile afresh by the LIST rules of R88: the mask stands in a LIST tensor, and HALF 0 holds every stored
position (assumption 91). -/
def tencFresh (h : Word) (ps : List Pos) : Bool := maskList h && decide (ps.length ≤ 256)

/-- The positions of a half with their converted codes. -/
def coded (rs : List (Fr × Pos)) : List Pos := rs.map fun e => { e.2 with v := e.1.code }

/-- The bytes that one half of a TENC writes, as (offset from the tile's start, bytes): HALF 0 the header, its values and what
follows all values, HALF 1 its values (R143, R88, R90). A fallback mask keeps its layout, with +0 at absent positions. -/
def tencPieces (h : Word) (bs : List Byte) (ps : List Pos) (half vtype scale : Nat) (rs : List (Fr × Pos)) : List (Nat × List Byte) :=
  let b := vtBytes vtype
  let f := thFormat h
  let hd := tileHeader f vtype (thCount h) scale (thFb h)
  let code := fun e : Fr × Pos => bytesOfNat e.1.code b
  if tencFresh h ps then (if half = 0 then [(0, encodeList vtype scale (coded rs))] else [])
  else if f = 1 && thFb h then
    (if half = 0 then [(0, tileBytes hd (denseCodes (coded rs)) [])]
    else rs.map fun e => (8 + b * (32 * e.2.r + e.2.c), code e))
  else
    let n := ps.length
    let data := rs.flatMap code
    if half = 0 then
      let codes := (bs.drop (8 + n * vtBytes (thVtype h))).take (ceilDiv (n * codeWidth f) 8)
      let pad := List.replicate (tileLen hd - (8 + n * b + codes.length)) (0 : Byte)
      [(0, bytesOfNat hd.toNat 8 ++ data), (8 + n * b, codes ++ pad)]
    else [(8 + 256 * b, data)]

/-- The length of the tile that a HALF 0 writes. -/
def tencLen (h : Word) (ps : List Pos) (vtype scale : Nat) (rs : List (Fr × Pos)) : Nat :=
  if tencFresh h ps then (encodeList vtype scale (coded rs)).length else tileLen (tileHeader (thFormat h) vtype (thCount h) scale (thFb h))

/-- Pieces of bytes written at offsets from an address of a stream's space. -/
def tencStore (s : State) (i : Issue) (key sp a : Nat) : List (Nat × List Byte) → Except Stop State
  | [] => .ok s
  | (o, bs) :: r =>
    if bs.isEmpty then tencStore s i key sp a r
    else
      match coreWrite s i key sp (a + o) bs with
      | .error e => .error e
      | .ok s1 => tencStore s1 i key sp a r

/-- An occurrence of INVALID in TENC: LANE 0, in the cycle in which its bundle issues (assumption 95). -/
def tencOccur (x : Cx) (oidx : Nat) (p : Pos) (cause : Nat) : Timed :=
  { cycle := 0, at_ := { tensor := (cxId x).toNat, tile := oidx, row := p.r, col := p.c, lane := 0, cause := cause } }

/-- TENC on a mask tile with stored positions: the half's values, converted and written. Entries that run past 255 are a program fault
(assumption 75). -/
def tencValuesRun (s : State) (i : Issue) (key oa oidx : Nat) (c : Core) (so : SDesc) (x : Cx) (h : Word) (bs : List Byte)
    (ps : List Pos) : Except Stop State :=
  let facc := sf i 6 8
  let k := sf i 22 2
  let half := sf i 24 1
  let ci := ciOf key
  let t := vtTy (sdVtype so)
  let here := ((ps.drop (256 * half)).take 256).zipIdx
  let es := here.map fun e => foldOf (tblGet clearedFold c.fold (facc + e.2))
  if !rangeOk facc here.length then .error (stopAt s (progFault i key))
  else if !es.all residueOk then .error (stopAt s (.coreFail none))
  else
    let vs := es.map fun e => (foldVal e).1
    let scale := if isFp8 t then scaleOf c.vctrl x t vs else 0x7F
    let rs := tencValues c i x t ci scale facc here
    let bad := nonfinite c.vctrl t scale
    match tencStore s i key (sdSpace so) (if half = 0 then oa else so.last) (tencPieces h bs ps half (sdVtype so) scale rs) with
    | .error e => .error (stopAt s e)
    | .ok s3 =>
      let s4 := if half = 0 then putStream s3 key (sf i 18 4) (afterTile so ci (tencLen h ps (sdVtype so) scale rs)) else s3
      let fl := flagsOf (rs.map (·.1))
      let occ := match rs.find? (fun e => e.1.cause != 0) with
        | some e => some (tencOccur x oidx e.2 e.1.cause)
        | none =>
        if bad then (here[nonfiniteAt vs]?).map fun e => tencOccur x oidx e.1 7
        else none
      let s5 := raiseFlags s4 key c (if bad then flOr fl { inv := true } else fl) occ
      .ok (putCx s5 key k (cxAdvance (gatherAmax x t vs) 32))

/-- Check 2 of Table 3.6 on a mask tile, of which no descriptor is at hand: an FB or a COUNT that no TFORMAT of Table 3.5 allows. -/
def maskDisallowed (h : Word) : Bool :=
  let f := thFormat h
  (thFb h && f != 1) || ((f == 2 || f == 3 || f == 5) && !kValid f (thCount h))

/-- TENC (R143, R90). SM may have any VTYPE of Table 5.3 (assumption 120). INDEX goes on by 32 for a ZERO tile too (R129). A mask
tile that fails Table 3.6 is latched with its own tile index and the context's TENSOR_ID, and nothing is written (assumptions 29, 97). A stream named twice gives each use its state
at issue, and goes on once (assumption 98). A HALF 1 on a ZERO mask writes nothing, and one before SO has received a tile writes
at address 0 of its space (assumption 119). -/
def tencCore (s : State) (i : Issue) (key : Nat) (c : Core) : Except Stop State :=
  let sm := strOf c (sf i 14 4)
  let so := strOf c (sf i 18 4)
  let k := sf i 22 2
  let half := sf i 24 1
  let x := cxOf c k
  let ci := ciOf key
  let (ma, midx) := tileAt sm ci 1
  let (oa, oidx) := tileAt so ci 1
  let idx := if half = 0 then oidx else lastTile so ci
  if 3 < sdVtype so || 5 < sdVtype sm || sdBadSpace so || sdBadSpace sm || (half = 1 && vcTileScale c.vctrl) then
    .error (progFault i key)
  else
    match readTile s i key (sdSpace sm) ma with
    | .error e => .error e
    | .ok (h, bs, s1) =>
      let ps := tilePositions bs h 32 32
      let chk := tileCheck h (maskDisallowed h) ps 32 32
      let s2 := putStream s1 key (sf i 14 4) (afterTile sm ci (tileLen h))
      if chk != 0 then .ok (latchTile s2 key (cxId x).toNat midx chk)
      else if thFormat h = 0 then
        let s2 := putCx s2 key k (cxAdvance x 32)
        if half = 1 then .ok s2
        else
          match coreWrite s2 i key (sdSpace so) oa (bytesOfNat (tileHeader 0 (sdVtype so) 0 0x7F false).toNat 8) with
          | .error e => .error (stopAt s2 e)
          | .ok s3 => .ok (putStream s3 key (sf i 18 4) (afterTile so ci 8))
      else tencValuesRun s2 i key oa idx c so x h bs ps

end Sys2Proof.Machine
end

