-- ==== Sys2Proof/Machine/Bundle.lean ====
section
/-! DEFINITION. Core programs (05 R131-R151; 04 R110-R113): a queen issues the bundle at its PC slot by slot, and every
core that the bundle masks carries a slot out; every slot reads its cores as they stood before the bundle (R133). -/

namespace Sys2Proof.Machine

/-- The opcodes of WAIT (Table 5.6). -/
def opWait : Nat := 2

/-- A slot of a bundle that is NOP. -/
def slotNop (b : BitVec 256) (k : Nat) : Bool := opOf (slotOf b k) == 0

/-- Every slot of a bundle is NOP. -/
def bundleNop (b : BitVec 256) : Bool := (List.range 5).all (slotNop b)

/-- The order of a bundle's core slots: reads of a store come before the bundle's writes (R108), so LOAD comes after ENGINE, and
a VST or CLD after a FEXP, FADD or TENC (assumption 100). An SLD or ADVANCE comes after the other uses of its stream (R133). -/
def slotOrder (b : BitVec 256) : List Nat :=
  if 2 ≤ opOf (slotOf b 1) && [5, 6, 7].contains (opOf (slotOf b 4)) then [2, 3, 4, 1] else [2, 3, 1, 4]

/-- Slots that come before slot k of a bundle: a WAIT holds the bundle, any other CONTROL instruction comes last. -/
def slotsBefore (b : BitVec 256) (k : Nat) : List Nat :=
  let w := opOf (slotOf b 0) == opWait
  if k = 0 then (if w then [] else [1, 2, 3, 4]) else (if w then [0] else []) ++ (slotOrder b).takeWhile (· != k)

/-- Slot k is NOP or has been carried out. -/
def slotDone (b : BitVec 256) (done : BitVec 5) (k : Nat) : Bool := slotNop b k || flag done k

/-- The number of bundles that the launch's image holds. -/
def imageLen (s : State) (l : Launch) : Nat :=
  match tblGet none s.comp.slots l.slot with
  | none => 0
  | some sl => sl.bundles.length

/-- A queen goes past bundles that do nothing (R147). The bound covers four nested loops of 2^32 turns. -/
def skipNops (s : State) (l : Launch) (q : Nat) : Nat → State
  | 0 => s
  | fuel + 1 =>
    if decide ((queenOf s q).pc < imageLen s l) && bundleNop (bundleOf s l q).1 then skipNops (advanceQueen s q) l q fuel else s

/-- The bound of `skipNops`. -/
def skipFuel : Nat := 2 ^ 140

/-- A queen issues (R110, R149, R151): it runs a cluster of the launch in a step in progress. -/
def queenIssues (s : State) (l : Launch) (q : Nat) : Bool :=
  unitsRun s && stepRuns s && flag l.cmask q && clusterPresent s q && (queenOf s q).st == .run

/-- What a row that carries out slot k with opcode `op` finds: the state past bundles that do nothing, and its issue. -/
def issueAt (s : State) (q k op : Nat) : Option (State × Issue) :=
  match s.job.launch with
  | none => none
  | some l =>
    if !queenIssues s l q then none
    else
      let s1 := skipNops s l q skipFuel
      let x := queenOf s1 q
      let b := (bundleOf s1 l q).1
      let i : Issue := { q := q, launch := l, pc := x.pc, slot := slotOf b k }
      if opOf i.slot == op && !flag x.done k && (slotsBefore b k).all (slotDone b x.done) then some (s1, i) else none

/-- The cores of a cluster as they stood before the bundle in issue (R133): taken when its first slot issues. -/
def snapOf (s : State) (q : Nat) : List Core :=
  let x := queenOf s q
  if x.snap.isEmpty then (clusterKeys q).map (coreOf s) else x.snap

/-- Core `key` of a snapshot of its cluster. -/
def snapCore (snap : List Core) (key : Nat) : Core := snap.getD (if key < 512 then key % 16 else 16) {}

/-- The physical core that a core is (R115). -/
def physOfKey (s : State) (key : Nat) : Nat :=
  let m := coreMapOf s (clusterOf key)
  if key < 512 then m.getD (key % 16) 0 else ((List.range 17).find? fun k => !m.contains k).getD 16

/-- The physical cluster of logical cluster q. -/
def physCluster (s : State) (q : Nat) : Nat := (s.comp.clusters.getD q none).getD q

/-- A physical core fails (R116, R118): the job's step is poisoned; CORE_SPARE_MAP puts a spare in its place. -/
def coreFails (s : State) (ph k : Nat) : State :=
  let s1 := if s.comp.failed.contains (ph, k) then s else { s with comp := { s.comp with failed := s.comp.failed ++ [(ph, k)] } }
  raisePoison s1 .coreFail

/-- The idle spare of a cluster is unavailable (R120). -/
def spareUnavailable (s : State) (ph : Nat) : State :=
  if s.comp.spareBad.contains ph || s.health.spareCores.contains ph then s
  else recomputeHealth { s with comp := { s.comp with spareBad := s.comp.spareBad ++ [ph] } }

/-- How a stopped slot ends its step (R127, R86, R109, R118). A mismatch of the idle physical core, which a test image reaches
(R115), poisons the step and makes the spare unavailable. -/
def applyStop (s : State) (key : Nat) : Stop → State
  | .fail f m => failStep (readsMet s m) f
  | .storeDbe m => raisePoison (readsMet s m) .storeDbe
  | .coreFail m =>
    let t := readsMet s m
    let ph := physCluster t (clusterOf key)
    if key < 512 then coreFails t ph (physOfKey t key) else raisePoison (spareUnavailable t ph) .coreFail

/-- A slot on one core: the issue, the core and the core as it stood before the bundle. -/
abbrev SlotFn := State → Issue → Nat → Core → Except Stop State

/-- A slot on each core in turn; the first stop ends it, with what the cores before it have done. -/
def runCores (f : SlotFn) (i : Issue) (snap : List Core) (s : State) : List Nat → Except (Nat × Stop × State) State
  | [] => .ok s
  | key :: r =>
    match f s i key (snapCore snap key) with
    | .error e => .error (key, e, s)
    | .ok s1 => runCores f i snap s1 r

/-- A slot of the bundle in issue has been carried out; the last one takes the queen on (R147). -/
def slotFinish (s : State) (q k : Nat) (snap : List Core) (b : BitVec 256) : State :=
  let s1 := modQueen s q fun x => { x with done := setFlag x.done k true, snap := snap }
  if (List.range 5).all (slotDone b (queenOf s1 q).done) then advanceQueen s1 q else s1

/-- A LOAD, ENGINE, VECTOR or MOVE slot with opcode `op` is carried out by every masked core (R132). -/
def runSlot (q k op : Nat) (f : SlotFn) (s : State) : State :=
  match issueAt s q k op with
  | none => s
  | some (s1, i) =>
    let snap := snapOf s1 q
    match runCores f i snap s1 (bundleMask s1 i.launch q) with
    | .error (key, e, t) => applyStop t key e
    | .ok s2 => slotFinish s2 q k snap (bundleOf s1 i.launch q).1

/-- A CONTROL slot with opcode `op` is carried out by the queen once (R132); `f` answers none where it stops. -/
def runControl (q op : Nat) (f : State → Issue → State) (s : State) : State :=
  match issueAt s q 0 op with
  | none => s
  | some (s1, i) => f s1 i

/-- A CONTROL instruction that takes no time beyond its slot. -/
def finishControl (s : State) (i : Issue) : State := slotFinish s i.q 0 (snapOf s i.q) (bundleOf s i.launch i.q).1

/-- A program fault of the queen (R127); which logical core the record names is open (assumption 35). -/
def queenFault (s : State) (i : Issue) : State :=
  failStep s { status := Status.badArg.code, ecause := 2, addr := i.pc, unit := Config.openValue 35 [i.q, i.pc] % 512 }

/-- The loop that a LOOP slot opens (R146). -/
def loopOf (s : State) (i : Issue) : QLoop :=
  { start := i.pc, last := sf i 14 11, x := sf i 25 1 == 1, ev := sf i 26 4 }

/-- LOOP (R146): LC of the nesting depth takes the count; the queen goes on at a + 1, or past END when the body does not run. -/
def loopRun (s : State) (i : Issue) : State :=
  let lp := loopOf s i
  let n := fld (pReg s (sf i 8 6)) 0 32
  if fld (pReg s (sf i 8 6)) 32 32 != 0 then queenFault s i
  else
    modQueen s i.q fun x =>
      let lc := setAt x.lc x.loops.length (BitVec.ofNat 32 n)
      if n = 0 || (lp.x && flag x.evt lp.ev) then
        let r := nextPc lp.last x.evt lc x.loops
        { x with pc := r.1, loops := r.2.1, lc := r.2.2, done := 0, snap := [] }
      else { x with pc := i.pc + 1, loops := lp :: x.loops, lc := lc, done := 0, snap := [] }

/-- SEM[n] of a queen. -/
def semOf (s : State) (q n : Nat) : Nat := tblGet 0 (queenOf s q).sem n

/-- The state with SEM[n] of a queen set. -/
def setSem (s : State) (q n v : Nat) : State := modQueen s q fun x => { x with sem := tblSet 0 x.sem n v }

/-- A WAIT passes (R136): it subtracts AMT. -/
def waitPass (s : State) (i : Issue) : State :=
  let n := sf i 6 6
  finishControl (modQueen (setSem s i.q n (semOf s i.q n - sf i 12 8)) i.q fun x => { x with waitSince := none }) i

/-- WAIT (R136): it passes at once, or holds. -/
def waitRun (s : State) (i : Issue) : State :=
  if (queenOf s i.q).waitSince.isSome then s
  else if sf i 12 8 ≤ semOf s i.q (sf i 6 6) then waitPass s i
  else modQueen s i.q fun x => { x with waitSince := some (logicNs s) }

/-- WAIT_RELEASE (R136): a held WAIT passes once its semaphore has reached AMT. -/
def waitReleaseRun (s : State) (i : Issue) : State :=
  if (queenOf s i.q).waitSince.isSome && decide (sf i 12 8 ≤ semOf s i.q (sf i 6 6)) then waitPass s i else s

/-- SIGNAL (R136, R127). -/
def signalRun (s : State) (i : Issue) : State :=
  let n := sf i 6 6
  let v := semOf s i.q n + sf i 12 8
  if 65535 < v then queenFault s i else finishControl (setSem s i.q n v) i

/-- EVCLR (R136). -/
def evclrRun (s : State) (i : Issue) : State :=
  finishControl (modQueen s i.q fun x => { x with evt := setFlag x.evt (sf i 6 4) false }) i

/-- VSET (R136): VCTRL of every masked core, from the next bundle. -/
def vsetRun (s : State) (i : Issue) : State :=
  let v := vctrlKept (BitVec.ofNat 16 (sf i 6 16))
  finishControl ((bundleMask s i.launch i.q).foldl (fun t key => modCore t key fun c => { c with vctrl := v }) s) i

/-- STEPB (R149): the queen holds until the step commits. -/
def stepbRun (s : State) (i : Issue) : State := modQueen s i.q fun x => { x with st := .held }

/-- END (R151): every instruction of the cluster has completed. -/
def endProgramRun (s : State) (i : Issue) : State := modQueen s i.q fun x => { x with st := .ended, done := 0, snap := [] }

/-- A WAIT of a queen has held longer than WAIT_LIMIT (R145). -/
def queenLate (s : State) (l : Launch) (q : Nat) : Bool :=
  match (queenOf s q).waitSince with
  | some t => flag l.cmask q && decide (t + l.waitLimit < logicNs s)
  | none => false

/-- A WAIT with COND 0 of a channel of the launch has held longer than WAIT_LIMIT (11 R336). -/
def channelLate (s : State) (l : Launch) (ch : Nat) : Bool :=
  match (chanOf s ch).waitSince with
  | some t => (chanOf s ch).bound && decide (t + l.waitLimit < logicNs s)
  | none => false

/-- WAIT_TIMEOUT (R145, 11 R336). -/
def waitTimeout (cl : Option (Fin 32)) (ch : Option (Fin 320)) (s : State) : State :=
  match s.job.launch with
  | none => s
  | some l =>
    let q := match cl with
      | some q => queenLate s l q.val
      | none => false
    let c := match ch with
      | some c => channelLate s l c.val
      | none => false
    when (unitsRun s && stepRuns s && (q || c)) s (raisePoison s .waitTimeout)

def execLoop (q : Fin 32) (s : State) := ok (runControl q.val 1 loopRun s)
def execWait (q : Fin 32) (s : State) := ok (runControl q.val 2 waitRun s)
def execWaitRelease (q : Fin 32) (s : State) := ok (runControl q.val 2 waitReleaseRun s)
def execWaitTimeout (q : Option (Fin 32)) (c : Option (Fin 320)) (s : State) := ok (waitTimeout q c s)
def execSignal (q : Fin 32) (s : State) := ok (runControl q.val 3 signalRun s)
def execEvclr (q : Fin 32) (s : State) := ok (runControl q.val 4 evclrRun s)
def execVset (q : Fin 32) (s : State) := ok (runControl q.val 5 vsetRun s)
def execStepb (q : Fin 32) (s : State) := ok (runControl q.val 6 stepbRun s)
def execEndProgram (q : Fin 32) (s : State) := ok (runControl q.val 7 endProgramRun s)
def execVld (q : Fin 32) (s : State) := ok (runSlot q.val 1 1 vldCore s)
def execVst (q : Fin 32) (s : State) := ok (runSlot q.val 1 2 vstCore s)
def execCld (q : Fin 32) (s : State) := ok (runSlot q.val 1 3 cldCore s)
def execEmv (q : Fin 32) (s : State) := ok (runSlot q.val 2 1 emvCore s)
def execEop (q : Fin 32) (s : State) := ok (runSlot q.val 2 2 eopCore s)
def execVadd (q : Fin 32) (s : State) := ok (runSlot q.val 3 0x01 (arithCore fun t rm a b _ => fAdd t rm a b) s)
def execVsub (q : Fin 32) (s : State) := ok (runSlot q.val 3 0x02 (arithCore fun t rm a b _ => fSub t rm a b) s)
def execVmul (q : Fin 32) (s : State) := ok (runSlot q.val 3 0x03 (arithCore fun t rm a b _ => fMul t rm a b) s)
def execVfma (q : Fin 32) (s : State) := ok (runSlot q.val 3 0x04 (arithCore fun t rm a b c => fFma t rm a b c) s)
def execVdiv (q : Fin 32) (s : State) := ok (runSlot q.val 3 0x05 (arithCore fun t rm a b _ => fDiv t rm a b) s)
def execVsqrt (q : Fin 32) (s : State) := ok (runSlot q.val 3 0x06 (arithCore fun t rm a _ _ => fSqrt t rm a) s)
def execVmax (q : Fin 32) (s : State) := ok (runSlot q.val 3 0x07 (arithCore fun t _ a b _ => fMaxMin t true a b) s)
def execVmin (q : Fin 32) (s : State) := ok (runSlot q.val 3 0x08 (arithCore fun t _ a b _ => fMaxMin t false a b) s)
def execVmaxn (q : Fin 32) (s : State) := ok (runSlot q.val 3 0x09 (arithCore fun t _ a b _ => fMaxMinNum t true a b) s)
def execVminn (q : Fin 32) (s : State) := ok (runSlot q.val 3 0x0A (arithCore fun t _ a b _ => fMaxMinNum t false a b) s)
def execVcmp (q : Fin 32) (s : State) := ok (runSlot q.val 3 0x0B vcmpCore s)
def execVsel (q : Fin 32) (s : State) := ok (runSlot q.val 3 0x0C vselCore s)
def execVfunc (q : Fin 32) (s : State) := ok (runSlot q.val 3 0x0D vfuncCore s)
def execVcvt (q : Fin 32) (s : State) := ok (runSlot q.val 3 0x0E vcvtCore s)
def execVred (q : Fin 32) (s : State) := ok (runSlot q.val 3 0x0F vredCore s)
def execVmisc (q : Fin 32) (s : State) := ok (runSlot q.val 3 0x10 vmiscCore s)
def execSld (q : Fin 32) (s : State) := ok (runSlot q.val 4 1 sldCore s)
def execAdvance (q : Fin 32) (s : State) := ok (runSlot q.val 4 2 advanceCore s)
def execFclr (q : Fin 32) (s : State) := ok (runSlot q.val 4 3 fclrCore s)
def execFrd (q : Fin 32) (s : State) := ok (runSlot q.val 4 4 frdCore s)
def execFexp (q : Fin 32) (s : State) := ok (runSlot q.val 4 5 fexpCore s)
def execFadd (q : Fin 32) (s : State) := ok (runSlot q.val 4 6 faddCore s)
def execTenc (q : Fin 32) (s : State) := ok (runSlot q.val 4 7 tencCore s)
def execCxset (q : Fin 32) (s : State) := ok (runSlot q.val 4 8 cxsetCore s)
def execCxadv (q : Fin 32) (s : State) := ok (runSlot q.val 4 9 cxadvCore s)

end Sys2Proof.Machine
end

