-- ==== Sys2Proof/Machine/Upkeep.lean ====
section
/-! DEFINITION. Upkeep of the compute dies: patrols, spares, retirement, the store walker and the queens' lockstep
(04 R109, R113-R120; 13 Table 13.6). -/

namespace Sys2Proof.Machine

/-- The logical cluster that a physical cluster is. -/
def logicalCluster (s : State) (ph : Nat) : Option Nat := findAt (fun c => c == some ph) s.comp.clusters

/-- The logical core of a cluster that a physical core is mapped to (R115). -/
def logicalCore (s : State) (q k : Nat) : Option Nat := findAt (fun p => p == k) (coreMapOf s q)

/-- Entries [src, src + n) and [dst, dst + n) of a table change places. -/
def swapRange {α : Type} [DecidableEq α] (d : α) (m : Tbl α) (src dst n : Nat) : Tbl α :=
  let inside := fun (a k : Nat) => decide (a ≤ k) && decide (k < a + n)
  let rest := m.filter fun e => !inside src e.1 && !inside dst e.1
  let moved := m.filterMap fun e =>
    if inside src e.1 then some (e.1 - src + dst, e.2) else if inside dst e.1 then some (e.1 - dst + src, e.2) else none
  moved.foldl (fun t e => tblSet d t e.1 e.2) rest

/-- The physical core of logical cluster q that no logical core is mapped to: its spare (R115). -/
def idleCore (s : State) (q : Nat) : Nat := physOfKey s (512 + q)

/-- The spare of logical cluster q can take a core's place: it is not in use, not unavailable and has not failed. -/
def spareFree (s : State) (q : Nat) : Bool :=
  let ph := physCluster s q
  !s.health.spareCores.contains ph && !s.comp.spareBad.contains ph && !s.comp.failed.contains (ph, idleCore s q)

/-- A cluster is retired (R117): its logical cluster becomes a hole, and DEGRADED is set. -/
def retireCluster (s : State) (q : Nat) : State :=
  let ph := physCluster s q
  let s1 := modQueen s q fun x => { x with st := .idle, done := 0, snap := [], waitSince := none }
  recomputeHealth { s1 with comp := { s1.comp with
    clusters := setAt s1.comp.clusters q none
    retired := s1.comp.retired ++ [ph]
    failed := s1.comp.failed.filter fun e => e.1 != ph } }

/-- The spare of logical cluster q takes the place of logical core i (R116): its store and the errors in it come with it. A core that a rehearsal
forced to fail becomes the spare (13 R395). -/
def mapSpare (s : State) (q i : Nat) : State :=
  let ph := physCluster s q
  let old := physOfKey s (16 * q + i)
  let m := setAt (coreMapOf s q) i (idleCore s q)
  let real := s.health.rehearsedCore != some (ph, old)
  recomputeHealth { s with
    comp := { s.comp with
      coreMap := tblSet (List.range 16) s.comp.coreMap ph m
      failed := s.comp.failed.filter fun e => e != (ph, old)
      ls := swapRange 0#8 s.comp.ls ((512 + q) * lsBytes) ((16 * q + i) * lsBytes) lsBytes
      lsErrs := swapRange none s.comp.lsErrs ((512 + q) * lsBytes) ((16 * q + i) * lsBytes) lsBytes
      cores := tblSet {} (tblSet {} s.comp.cores (16 * q + i) (coreOf s (512 + q))) (512 + q) (coreOf s (16 * q + i)) }
    health := { s.health with
      spareCores := if real then s.health.spareCores ++ [ph] else s.health.spareCores
      rehearsedCore := if real then s.health.rehearsedCore else none } }

/-- A failed logical core gets its cluster's spare, or its cluster is retired (R116, R117). -/
def replaceCore (s : State) (q i : Nat) : State := if spareFree s q then mapSpare s q i else retireCluster s q

/-- CORE_SPARE_MAP (R116): the spare is mapped and its resident regions are read again from their HBM copies. -/
def coreSpareMap (q i : Nat) (s : State) : State :=
  if !clocksRun s || !clusterPresent s q || !s.comp.failed.contains (physCluster s q, physOfKey s (16 * q + i)) then s
  else
    let use := spareFree s q
    let s1 := replaceCore s q i
    match s1.job.launch with
    | some l =>
      (match tblGet none s1.comp.slots l.slot with
      | some sl => if use && flag l.cmask q then reloadResidents s1 sl (16 * q + i) else s1
      | none => s1)
    | none => s1

/-- A cluster fails (R113): the step is poisoned with CLUSTER_FAIL, and the cluster is retired (Table 13.6). -/
def clusterFails (s : State) (q : Nat) : State := retireCluster (raisePoison s .clusterFail) q

/-- A core of the cluster misses its patrol's signature. -/
def patrolCore (ph : Nat) (s : State) (k : Nat) : State :=
  match logicalCluster s ph with
  | none => s
  | some q => if (logicalCore s q k).isSome then coreFails s ph k else spareUnavailable s ph

/-- CORE_PATROL (R119): physical cluster ph; the cores that mismatch, and whether the queen pair failed. -/
def corePatrol (ph : Nat) (failed : List (Fin 17)) (queenFailed : Bool) (s : State) : State :=
  match logicalCluster s ph with
  | none => s
  | some q =>
    let n := passesOf s (ph * 15625)
    if !unitsRun s || n ≤ (queenOf s q).lastPatrol then s
    else
      let s1 := modQueen s q fun x => { x with lastPatrol := n }
      let s2 := failed.foldl (fun t k => patrolCore ph t k.val) s1
      if queenFailed then clusterFails s2 q else s2

/-- SPARE_PATROL_FAIL (R120): the idle spare of physical cluster ph. -/
def sparePatrolFail (ph : Nat) (s : State) : State :=
  match logicalCluster s ph with
  | none => s
  | some _ => when (unitsRun s) s (spareUnavailable s ph)

/-- Single-bit errors of a store are corrected and counted; whether a double-bit error remains (R109). -/
def walkErrs (t : Tbl (Option Bool)) : Nat × Bool × Tbl (Option Bool) :=
  ((t.filter fun e => e.2 == some false).length, t.any (fun e => e.2 == some true), t.filter fun e => e.2 != some false)

/-- STORE_WALK (R109): once in each 10 ms every word of every store is read and corrected. -/
def storeWalk (s : State) : State :=
  if !unitsRun s || nowNs s / 10000000 ≤ s.comp.walkAt then s
  else
    let (n, d, t) := walkErrs s.comp.lsErrs
    let (n', d', t') := walkErrs s.comp.csErrs
    let s1 := countN { s with comp := { s.comp with lsErrs := t, csErrs := t', walkAt := nowNs s / 10000000 } } .storeSbe 0 (n + n')
    if d || d' then raisePoison s1 .storeDbe else s1

/-- QUEEN_LOCKSTEP_MISMATCH (R113): the sequencers of logical cluster q disagree. -/
def queenLockstepMismatch (q : Nat) (s : State) : State := when (unitsRun s && clusterPresent s q) s (clusterFails s q)

def execCorePatrol (ph : Fin 32) (failed : List (Fin 17)) (queenFailed : Bool) (s : State) := ok (corePatrol ph.val failed queenFailed s)
def execSparePatrolFail (ph : Fin 32) (s : State) := ok (sparePatrolFail ph.val s)
def execCoreSpareMap (q : Fin 32) (i : Fin 16) (s : State) := ok (coreSpareMap q.val i.val s)
def execStoreWalk (s : State) := ok (storeWalk s)
def execQueenLockstepMismatch (q : Fin 32) (s : State) := ok (queenLockstepMismatch q.val s)

end Sys2Proof.Machine
end

