-- ==== Sys2Proof/Machine/Image.lean ====
section
/-! DEFINITION. Checks of program images before they are loaded: core programs (05 R133, R141, R146, R152-R154) and
forager programs (11 R329-R331). -/

namespace Sys2Proof.Machine

/-- Loops nest as R146 asks: (address, L, END) in ascending address; the ENDs of the open loops, innermost first. -/
def nestOk (n : Nat) : List (Nat × Nat × Nat) → List Nat → Bool
  | [], _ => true
  | (a, l, e) :: r, open_ =>
    let st := open_.dropWhile fun x => decide (x < a)
    l == st.length && decide (l < 4) && decide (a < e) && decide (e < n) && (st.take 1).all (fun x => decide (e ≤ x)) && nestOk n r (e :: st)

/-- CRC-32C of an image whose CRC field, 4 bytes at offset `at_`, counts as zero, agrees with that field. -/
def imageCrcOk (bs : List Byte) (at_ : Nat) : Bool :=
  crc32c (bs.take at_ ++ List.replicate 4 0#8 ++ bs.drop (at_ + 4)) == BitVec.ofNat 32 (natOfBytes ((bs.drop at_).take 4))

/-- Bytes that firmware reads of an image; none where a word, or what R325 holds of its page, has a double-bit error (assumption 37). -/
def imageRead (s : State) (a n : Nat) : Option (List Byte) := if metaBad s a n then none else (spaceRead s a n).1

/-- What a read of an image does to the memory's errors (11 R316, 04 R109): corrections are made and counted, and a double-bit
error poisons a step in progress; one in SEL, DIRTY, CLEN or PLEN enters the safe state (R325). -/
def imageTouch (s : State) (a n : Nat) : State :=
  if metaBad s a n then safeEntry s .metadata a
  else
    match spaceRead (metaFix s a n) a n with
    | (some _, s1) => s1
    | (none, s1) => readFailed s1 a n none s.job.step.isSome

/-- The reads of an image at `a`: a header of hn bytes and, where it gives a length that lies in memory, the whole. -/
def imageReads (s : State) (a hn : Nat) (len : List Byte → Option Nat) : State :=
  match (imageRead s a hn).bind len with
  | some n => imageTouch (imageTouch s a hn) a n
  | none => imageTouch s a hn

/-- A forager address whose fields name no location for a program image (R329, R330): 1 BAD_ARG, 2 ABSENT_UNIT. -/
def foragerImageFault (s : State) (ch a n : Nat) : Nat :=
  let e := addrFault s a n
  if e != 0 then e
  else if nfld a 40 3 = 0 then 0
  else if nfld a 40 3 = 1 && decide (ch < 256) && s.ident.grade != .f && dieOfAddr s a == ch / 64 then 0
  else 1

/-- A forager instruction has a known opcode, its reserved bits are 0 and its fields lie in range (Table 11.6). -/
def foragerInstrOk (x : BitVec 256) : Bool :=
  let w0 := wordAt x 0
  let w1 := wordAt x 1
  let w2 := wordAt x 2
  let rest := fld x 192 64 == 0
  match fld w0 0 4 with
  | 1 => fld w0 51 13 == 0 && fld w1 32 32 == 0 && rest
  | 2 => fld w0 26 6 == 0 && rest
  | 3 => fld w0 25 39 == 0 && w1 == 0 && w2 == 0 && rest && decide (fld w0 4 2 < 2) && (fld w0 4 2 == 1 || fld w0 12 8 != 0)
  | 4 => fld w0 46 18 == 0 && w1 == 0 && w2 == 0 && rest && (if flag w0 4 then fld w0 24 4 != 0 else fld w0 11 8 != 0)
  | 5 => fld w0 4 60 == 0 && w1 == 0 && w2 == 0 && rest
  | _ => false

/-- The loops of a forager program. -/
def foragerLoops (code : List (BitVec 256)) : List (Nat × Nat × Nat) :=
  ((List.range code.length).zip code).filterMap fun e =>
    if fld e.2 0 4 = 2 then some (e.1, fld e.2 4 2, fld e.2 6 8) else none

/-- A forager image as it is copied into a channel (R330). -/
structure FImage where
  cur : List Word
  inc : List Word
  code : List (BitVec 256)
deriving DecidableEq, Repr, Inhabited

/-- A forager instruction names an absent logical cluster: the CL of a WAIT or SIGNAL on a semaphore (00 R5, R336). -/
def foragerAbsent (s : State) (x : BitVec 256) : Bool :=
  let w := wordAt x 0
  (fld w 0 4 == 3 && fld w 4 2 == 0 && !clusterPresent s (fld w 20 5)) || (fld w 0 4 == 4 && !flag w 4 && !clusterPresent s (fld w 19 5))

/-- A reserved field of a CUR (Table 11.4): UNIT is one outside SPACE 1 and 2. -/
def curReserved (a : Word) : Bool :=
  fld a 52 12 != 0 || 3 < fld a 40 3 || ((fld a 40 3 == 0 || fld a 40 3 == 3) && fld a 43 9 != 0)

/-- The length of a forager image, by a header that can be read on (R330). -/
def foragerLen (s : State) (ch a : Nat) (hd : List Byte) : Option Nat :=
  let h0 := BitVec.ofNat 64 (natOfBytes (hd.take 8))
  let n := fld h0 48 9
  let len := 160 + 32 * n
  if fld h0 0 32 != 0x46544741 || fld h0 57 7 != 0 || n = 0 || 256 < n || foragerImageFault s ch a len != 0 then none else some len

/-- The reads that a check of a forager image makes. -/
def foragerReads (s : State) (ch a : Nat) : State :=
  if foragerImageFault s ch a 32 != 0 then s else imageReads s a 32 (foragerLen s ch a)

/-- The image at a forager address for channel ch, or the status of its refusal (R330, assumption 38). -/
def foragerImage (s : State) (ch a : Nat) : Except Status FImage :=
  if foragerImageFault s ch a 32 = 2 then .error .absentUnit
  else if foragerImageFault s ch a 32 = 1 then .error .badArg
  else
    match imageRead s a 32 with
    | none => .error .badArg
    | some hd =>
      let h0 := BitVec.ofNat 64 (natOfBytes (hd.take 8))
      let n := fld h0 48 9
      match foragerLen s ch a hd with
      | none => .error .badArg
      | some len =>
        match imageRead s a len with
        | none => .error .badArg
        | some bs =>
          let ws := wordsOfBytes bs (len / 8)
          let regs := (List.range 8).map fun i => (arg ws (4 + 2 * i), arg ws (5 + 2 * i))
          let code := (List.range n).map fun i => ofWords 256 ((ws.drop (20 + 4 * i)).take 4)
          if !imageCrcOk bs 8 || fld (arg ws 1) 32 32 != 0 || arg ws 2 != 0 || arg ws 3 != 0 then .error .badArg
          else if fld h0 40 8 != 3 || 1 < fld h0 32 8 then .error .badVersion
          else if regs.any (fun r => addrFault s r.1.toNat 0 == 2) || code.any (foragerAbsent s) then .error .absentUnit
          else if regs.any (fun r => curReserved r.1) || !code.all foragerInstrOk || !nestOk n (foragerLoops code) [] || fld (code.getD (n - 1) 0) 0 4 != 5 then .error .badArg
          else .ok { cur := regs.map (·.1), inc := regs.map (·.2), code := code }

/-- A forager program starts in a channel (R330). -/
def startChannel (s : State) (ch key : Nat) (im : FImage) : State :=
  modChan s ch fun c => { c with
    st := .run, pc := 0, cause := 0, pkey := key, code := im.code, cur := im.cur, inc := im.inc, loops := [], bound := false
    ckpt := none, acks := [], reads := [], moveSince := none, idxRead := none, idxVal := none, ownWrites := [], signals := [], waitSince := none }

/-- The destinations that a slot writes (R133): a register, an entry range, a context, or a stream, as (kind, first, last). An
EOP's range is taken as FACC to FACC + 255, and a context counts as a register of every instruction that writes it (assumption 99). -/
def slotDests (k slot : Nat) : List (Nat × Nat × Nat) :=
  let op := opOf slot
  let f := fun lo len => nfld slot lo len
  match k, op with
  | 1, 1 => [(0, f 6 5, f 6 5)]
  | 2, 1 => [(1, f 26 8, f 26 8 + 32 * (f 35 3 + 1) - 1)]
  | 2, 2 => [(1, f 25 8, f 25 8 + 255)]
  | 3, _ => if op = 0 then [] else if op = 0x0E then [(0, f 6 5, f 6 5), (2, f 37 2, f 37 2)] else [(0, f 6 5, f 6 5)]
  | 4, 1 => [(3, f 6 4, f 6 4)]
  | 4, 2 => [(3, f 6 4, f 6 4)]
  | 4, 3 => [(1, f 6 8, f 6 8 + f 14 8)]
  | 4, 4 => (0, f 20 5, f 20 5) :: (if [0, 1, 3].contains (f 25 3) then [(2, f 28 2, f 28 2)] else [])
  | 4, 6 => [(1, f 6 8, f 6 8 + f 14 6)]
  | 4, 7 => [(2, f 22 2, f 22 2)]
  | 4, 8 => [(2, f 6 2, f 6 2)]
  | 4, 9 => [(2, f 6 2, f 6 2)]
  | _, _ => []

/-- The streams that a slot takes elements or tiles from (R133). -/
def slotStreams (k slot : Nat) : List Nat :=
  let f := fun lo => nfld slot lo 4
  match k, opOf slot with
  | 1, 1 => [f 11]
  | 1, 2 => [f 11]
  | 1, 3 => [f 6, f 10]
  | 2, 1 => [f 6, f 10]
  | 2, 2 => [f 6, f 10, f 14]
  | 4, 5 => [f 20]
  | 4, 6 => [f 20]
  | 4, 7 => [f 14, f 18]
  | _, _ => []

/-- Two lists of a bundle's slots, in pairs of different slots. -/
def slotPairs : List (Nat × Nat) := [(1, 2), (1, 3), (1, 4), (2, 3), (2, 4), (3, 4)]

/-- Two destinations are the same register or their ranges meet. -/
def destsMeet (a b : Nat × Nat × Nat) : Bool := a.1 == b.1 && decide (a.2.1 ≤ b.2.2) && decide (b.2.1 ≤ a.2.2)

/-- No two slots of a bundle name the same destination, or take from the same stream (R133). -/
def bundleClash (b : BitVec 256) : Bool :=
  slotPairs.any fun (i, j) =>
    let x := slotOf b i
    let y := slotOf b j
    ((slotDests i x).any fun d => (slotDests j y).any (destsMeet d)) ||
      ((slotStreams i x).any fun t => (slotStreams j y).contains t)

/-- Opcode and reserved bits of a slot are as Tables 5.6 to 5.10 list them: the number of bits that each opcode uses. -/
def slotBits (k op : Nat) : Option Nat :=
  match k with
  | 0 => (match op with
    | 0 => some 6
    | 1 => some 30
    | 2 => some 20
    | 3 => some 20
    | 4 => some 10
    | 5 => some 22
    | 6 => some 6
    | 7 => some 6
    | _ => none)
  | 1 => (match op with
    | 0 => some 6
    | 1 => some 15
    | 2 => some 15
    | 3 => some 14
    | _ => none)
  | 2 => (match op with
    | 0 => some 6
    | 1 => some 38
    | 2 => some 39
    | _ => none)
  | 3 => if op = 0 then some 6 else if op ≤ 16 then some 39 else none
  | _ => (match op with
    | 0 => some 6
    | 1 => some 16
    | 2 => some 16
    | 3 => some 23
    | 4 => some 30
    | 5 => some 24
    | 6 => some 24
    | 7 => some 25
    | 8 => some 14
    | 9 => some 14
    | _ => none)

/-- A VFUNC, VRED or VMISC variant that Table 5.9 does not list. -/
def slotReserved (k slot : Nat) : Bool :=
  let op := opOf slot
  let var := nfld slot 29 5
  if k = 3 then (op == 13 && decide (3 < var)) || (op == 15 && decide (3 < var)) || (op == 16 && decide (28 < var))
  else false

/-- A slot has a known opcode and no reserved bit set (Table 5.13). -/
def slotOk (k slot : Nat) : Bool :=
  match slotBits k (opOf slot) with
  | none => false
  | some n => slot >>> n == 0 && !slotReserved k slot

/-- A loaded bundle passes the checks of Table 5.13 that look at one bundle. -/
def bundleOk (phys : Bool) (b : BitVec 256) : Bool :=
  (List.range 5).all (fun k => slotOk k (slotOf b k)) && (phys || !flag b 63) && !bundleClash b &&
    !(opOf (slotOf b 2) == 1 && decide (256 < nfld (slotOf b 2) 26 8 + 32 * (nfld (slotOf b 2) 35 3 + 1)))

/-- The loops of a core program. -/
def coreLoops (bs : List (BitVec 256)) : List (Nat × Nat × Nat) :=
  ((List.range bs.length).zip bs).filterMap fun e =>
    let c := slotOf e.2 0
    if opOf c = 1 then some (e.1, nfld c 6 2, nfld c 14 11) else none

/-- A resident region (Table 5.12) lies in the local store, is aligned and has no reserved bit set. -/
def residentOk (e : BitVec 192) : Bool :=
  fld e 48 16 == 0 && fld e 0 24 % 64 == 0 && fld e 24 24 % 64 == 0 && decide (fld e 0 24 + fld e 24 24 ≤ lsBytes)

/-- Two resident regions overlap. -/
def residentsMeet (a b : BitVec 192) : Bool :=
  decide (fld a 0 24 < fld b 0 24 + fld b 24 24) && decide (fld b 0 24 < fld a 0 24 + fld a 24 24)

/-- No two elements of a list are related. -/
def noPair {α : Type} (p : α → α → Bool) : List α → Bool
  | [] => true
  | x :: r => !r.any (p x) && noPair p r

/-- The physical units that the core masks of an image name exist in every cluster of a list (R115): a core that is
unavailable or has failed is not there, and without a cluster none is. At load no cluster mask is known yet, and the list holds every
cluster that is present (assumption 121). -/
def physUnitsOk (s : State) (qs : List Nat) (bs : List (BitVec 256)) : Bool :=
  let named := fun k => bs.any fun b => if k = 16 then flag b 63 else flag b k
  (List.range 17).all fun k => !named k || (!qs.isEmpty && !qs.any fun q =>
    match s.comp.clusters.getD q none with
    | some ph => s.comp.failed.contains (ph, k) ||
      (idleCore s q == k && (s.comp.spareBad.contains ph || s.health.spareCores.contains ph))
    | none => true)

/-- The length of a core program image, by a header that can be read on (Tables 5.11, 5.13). -/
def coreLen (s : State) (a : Nat) (hd : List Byte) : Option Nat :=
  let h := wordsOfBytes hd 8
  let n := fld (arg h 1) 0 16
  let nres := fld (arg h 1) 32 16
  let boff := (arg h 2).toNat
  let roff := (arg h 3).toNat
  let len := max (boff + 32 * n) (max (roff + 24 * nres) 64)
  let reserved := fld (arg h 0) 49 15 != 0 || fld (arg h 4) 32 32 != 0 || arg h 5 != 0 || arg h 6 != 0 || arg h 7 != 0
  if fld (arg h 0) 0 32 != 0x41544741 || reserved || n = 0 || nres > 64 || boff % 32 != 0 || roff % 8 != 0 || hbmBytes s < a + len then none
  else some len

/-- The reads that a check of a core program image makes. -/
def coreReads (s : State) (a : Nat) : State := if hbmBytes s < a + 64 then s else imageReads s a 64 (coreLen s a)

/-- A core program image at an HBM address, or the status of its refusal: the checks of Table 5.13 in order (R152-R154). -/
def coreImage (s : State) (a : Nat) : Except Status Slot :=
  if hbmBytes s < a + 64 then .error .badArg
  else
    match imageRead s a 64 with
    | none => .error .badArg
    | some hd =>
      let h := wordsOfBytes hd 8
      let n := fld (arg h 1) 0 16
      let nres := fld (arg h 1) 32 16
      let boff := (arg h 2).toNat
      let roff := (arg h 3).toNat
      match coreLen s a hd with
      | none => .error .badArg
      | some len =>
        match imageRead s a len with
        | none => .error .badArg
        | some bs =>
          let bundles := (List.range n).map fun i => BitVec.ofNat 256 (natOfBytes ((bs.drop (boff + 32 * i)).take 32))
          let res := (List.range nres).map fun i => BitVec.ofNat 192 (natOfBytes ((bs.drop (roff + 24 * i)).take 24))
          let phys := flag (arg h 0) 48
          if !imageCrcOk bs 32 then .error .badArg
          else if fld (arg h 0) 40 8 != 3 || 1 < fld (arg h 0) 32 8 then .error .badVersion
          else if phys && !s.dev.testMode then .error .stateConflict
          else if phys && !physUnitsOk s ((List.range 32).filter (clusterPresent s)) bundles then .error .absentUnit
          else if !bundles.all (bundleOk phys) then .error .badArg
          else if !nestOk n (coreLoops bundles) [] || opOf (slotOf (bundles.getD (n - 1) 0) 0) != 7 then .error .badArg
          else if !res.all residentOk || !noPair residentsMeet res then .error .badArg
          else if 2048 < n || 64 < fld (arg h 1) 48 16 then .error .noResource
          else .ok { phys := phys, vctrl := vctrlKept (BitVec.ofNat 16 (fld (arg h 1) 16 16)), nparam := fld (arg h 1) 48 16, bundles := bundles, res := res, base := a }

end Sys2Proof.Machine
end

