-- ==== Sys2Proof/Machine/Forager.lean ====
section
/-! DEFINITION. Foragers (11 R313, R327-R338): MOVE and its completion and timeout, LOOP, WAIT, SIGNAL and END. -/

namespace Sys2Proof.Machine

/-- The instruction that a channel stands at. -/
def chanInstr (c : Chan) : BitVec 256 := c.code.getD c.pc 0

/-- Word k of the instruction that a channel stands at. -/
def chanWord (s : State) (ch k : Nat) : Word := wordAt (chanInstr (chanOf s ch)) k

/-- A channel can go on: units run, and a bound channel's step is in progress (R338). -/
def chanRuns (s : State) (ch : Nat) : Bool := unitsRun s && (!(chanOf s ch).bound || stepRuns s)

/-- A channel that stands at an instruction with opcode `op` and is free to start it. -/
def chanReady (s : State) (ch op : Nat) : Bool :=
  let c := chanOf s ch
  chanRuns s ch && c.st == .run && c.moveSince.isNone && fld (chanWord s ch 0) 0 4 == op

/-- A channel goes on to its next instruction. -/
def chanOn (s : State) (ch : Nat) : State := modChan s ch advanceChan

/-- The command status that a cause of Table 11.5 stands for. -/
def causeStatus (cause : Nat) : Nat := if cause = 2 then Status.absentUnit.code else Status.badArg.code

/-- What a channel does belongs to a step: it is bound, and one is in progress (R338). -/
def chanInStep (s : State) (ch : Nat) : Bool := (chanOf s ch).bound && s.job.step.isSome

/-- A fault of a channel (R337): a bound channel's ends the step, with the channel, its PC and the cause; any other enters FAULT. -/
def chanFault (s : State) (ch cause : Nat) : State :=
  let c := chanOf s ch
  if chanInStep s ch then
    failStep s { status := causeStatus cause, ecause := 3, unit := ch, fpc := c.pc, fcause := cause }
  else modChan s ch fun x => { x with st := .fault, cause := cause }

/-- A remote address that names no location on any module (R329): the remote module's grade is not known here. -/
def remoteFault (a n : Nat) : Nat :=
  let sp := nfld a 40 3
  let off := nfld a 0 40
  let u := nfld a 43 9
  if nfld a 52 12 != 0 || 3 < sp then 1
  else if sp = 0 then (if u != 0 || 0xC000000000 < off + n then 1 else 0)
  else if sp = 1 then (if 31 < u then 2 else if csBytes < off + n then 1 else 0)
  else if sp = 2 then (if lsBytes < off + n then 1 else 0)
  else if u != 0 then 1 else 0

/-- Fields of a MOVE (Table 11.6). -/
structure MoveArgs where
  index : Bool
  sfix : Bool
  dfix : Bool
  srem : Bool
  drem : Bool
  barrier : Bool
  high : Bool
  cls : Nat
  circ : Option Nat
  rank : Nat
  len : Nat
  src : Nat
  dst : Nat
deriving DecidableEq, Repr, Inhabited

/-- A[i].CUR of a channel. -/
def chanCur (s : State) (ch i : Nat) : Nat := ((chanOf s ch).cur.getD i 0).toNat

/-- What the read of an index or count word comes to (R329): the word, the cause of a fault, a double-bit error met, or an MREAD
whose data are awaited. -/
inductive IndexRes where
  | word (v : Nat) (s : State)
  | fault (cause : Nat)
  | failed (s : State)
  | sent (s : State)

/-- The MREAD of an index or count word that does not lie on the channel's own die (R313, R329); its class where the instruction
gives none, and its return address, are the model's (assumption 103). -/
def sendIndexRead (s : State) (ch a cls : Nat) : State :=
  let c := chanOf s ch
  let k := if 1 ≤ cls && cls ≤ 5 then cls else 1
  let f := mkFrame k c.pkey 0 3 s.dev.eid.toNat s.dev.eid.toNat ch (stepField s c.pkey) c.seq.toNat false (BitVec.ofNat 64 a)
    (bytesOfWords [4, 0])
  originateForager (modChan s ch fun x => { x with
    seq := x.seq + 1, idxRead := some c.seq.toNat, moveSince := some (logicNs s) }) ch c.seq.toNat f

/-- A 32-bit word that INDEX or CIND reads (R329): at once on the channel's own die, else by frames (R313). -/
def chanIndex (s : State) (ch i cls : Nat) : IndexRes :=
  let a := chanCur s ch i
  if a % 4 != 0 || nfld a 40 3 == 3 then .fault 1
  else if addrFault s a 4 != 0 then .fault (addrFault s a 4)
  else if ownDie s ch a then
    if metaBad s a 4 then .failed (safeEntry s .metadata a)
    else
    match spaceRead (metaFix s a 4) a 4 with
    | (none, s1) => .failed (readFailed s1 a 4 (some ch) (chanInStep s1 ch))
    | (some bs, s1) => .word (natOfBytes bs) s1
  else
    match (chanOf s ch).idxVal with
    | some v => .word v (modChan s ch fun c => { c with idxVal := none })
    | none => .sent (sendIndexRead s ch a cls)

/-- The operands of the MOVE that a channel stands at; the source with its index v (R332). -/
def moveArgs (s : State) (ch v : Nat) : MoveArgs :=
  let w0 := chanWord s ch 0
  let base := (chanOf s ch).cur.getD (fld w0 4 3) 0
  { index := flag w0 13, sfix := flag w0 14, dfix := flag w0 15, srem := flag w0 16, drem := flag w0 17, barrier := flag w0 18, high := flag w0 19
    cls := fld w0 20 3, circ := if flag w0 23 then some (fld w0 24 12) else none, rank := fld w0 36 15
    len := fld (chanWord s ch 1) 0 32
    src := (if flag w0 13 then base + BitVec.ofNat 64 v * chanWord s ch 2 else base).toNat
    dst := chanCur s ch (fld w0 7 3) }

/-- The bytes that a MOVE touches at an operand. -/
def moveSpan (len : Nat) (fix : Bool) : Nat := if fix then min len 8 else len

/-- The whole of an operand lies on the channel's own die, where it is reached without frames (R313, R329). -/
def directly (s : State) (ch a n : Nat) : Bool := ownDie s ch a && ownDie s ch (a + (n - 1))

/-- The cause of the fault that a MOVE's operands are (R337), 0 when they are good. -/
def moveFault (s : State) (ch : Nat) (m : MoveArgs) : Nat :=
  let n := moveSpan m.len m.sfix
  let k := if nfld m.dst 40 3 = 3 then m.len else moveSpan m.len m.dfix
  let sf := if m.srem then remoteFault m.src n else addrFault s m.src n
  let df := if m.drem then remoteFault m.dst k else addrFault s m.dst k
  let frames := m.srem || m.drem || !directly s ch m.src n || !directly s ch m.dst k
  let rank := (m.srem || m.drem) && (rankEid s (chanOf s ch).pkey m.rank).isNone
  if m.src % 8 != 0 || m.dst % 8 != 0 || m.len % 8 != 0 then 1
  else if (m.srem && m.drem) || (m.circ.isSome && !m.drem) then 1
  else if nfld m.src 40 3 == 3 then 1
  else if nfld m.dst 40 3 == 3 && !(m.dfix && m.len == 40) then 1
  else if sf != 0 then sf
  else if df != 0 then df
  else if rank then 1
  else if frames && (m.circ.isNone || !directly s ch m.src n) && (m.cls < 1 || 5 < m.cls) then 1
  else 0

/-- The EID behind which an operand lies, unless the channel reaches it directly. -/
def moveEid (s : State) (ch : Nat) (rem : Bool) (rank a n : Nat) : Option Nat :=
  if rem then rankEid s (chanOf s ch).pkey rank
  else if directly s ch a n then none
  else some s.dev.eid.toNat

/-- One MREAD of n bytes at `src` for a channel (R333), whose data go to `dst`. -/
def sendRead (s : State) (ch eid cls src n : Nat) (r : FRead) : State :=
  let c := chanOf s ch
  let f := mkFrame cls c.pkey 0 3 eid s.dev.eid.toNat ch (stepField s c.pkey) c.seq.toNat false (BitVec.ofNat 64 src)
    (bytesOfWords [BitVec.ofNat 64 n, BitVec.ofNat 64 r.dst])
  let r' := { r with seq := c.seq.toNat, left := n }
  originateForager (modChan s ch fun x => { x with seq := x.seq + 1, reads := x.reads ++ [r'] }) ch c.seq.toNat f r.high

/-- The MREADs of a MOVE, at most 4,096 B each; with SFIX one of 8 B for each word (assumption 39). -/
def sendReads (s : State) (ch eid cls src : Nat) (sfix : Bool) (r : FRead) : Nat → Nat → State
  | _, 0 => s
  | 0, _ => s
  | left, fuel + 1 =>
    let n := if sfix then 8 else min left 4096
    let s1 := sendRead s ch eid cls src n r
    sendReads s1 ch eid cls (if sfix then src else src + n) sfix { r with dst := if r.dfix then r.dst else r.dst + n } (left - n) fuel

/-- The registers after a MOVE (R332). -/
def moveAdvance (s : State) (ch : Nat) : State :=
  let w0 := chanWord s ch 0
  let bump := fun (c : Chan) (i : Nat) => { c with cur := setAt c.cur i (c.cur.getD i 0 + c.inc.getD i 0) }
  modChan s ch fun c => bump (bump c (fld w0 4 3)) (fld w0 7 3)

/-- A MOVE completes: its registers advance, and the channel goes on (R332, R334). -/
def moveEnd (s : State) (ch : Nat) : State := chanOn (moveAdvance s ch) ch

/-- A MOVE reaches an operand directly whose SEL, DIRTY, CLEN or PLEN has a double-bit error (R325). -/
def moveMetaBad (s : State) (ch : Nat) (m : MoveArgs) (n k : Nat) : Bool :=
  (!m.srem && directly s ch m.src n && metaBad s m.src n) || (!m.drem && directly s ch m.dst k && metaBad s m.dst k)

/-- A MOVE with good operands copies its bytes, or sends for them (R332-R334). -/
def moveRun (s : State) (ch : Nat) (m : MoveArgs) : State :=
  let n := moveSpan m.len m.sfix
  let k := if nfld m.dst 40 3 = 3 then m.len else moveSpan m.len m.dfix
  let r : FRead := { seq := 0, left := 0, dst := m.dst, dfix := m.dfix, eid := moveEid s ch m.drem m.rank m.dst k, cls := m.cls, circ := m.circ, ack := m.barrier, high := m.high }
  if m.len = 0 then moveEnd s ch
  else if moveMetaBad s ch m n k then safeEntry s .metadata ch
  else
    let s := metaFix (metaFix s m.src n) m.dst k
    match moveEid s ch m.srem m.rank m.src n with
    | some e =>
      let s1 := if m.sfix && nfld m.dst 40 3 == 3 then sendRead s ch e m.cls m.src 8 { r with copies := 5 }
        else sendReads s ch e m.cls m.src m.sfix r m.len (m.len / 8 + 1)
      modChan s1 ch fun c => { c with moveSince := some (logicNs s) }
    | none =>
      match spaceRead s m.src n with
      | (none, s1) => readFailed s1 m.src n (some ch) (chanInStep s1 ch)
      | (some bs, s1) =>
        let data := if m.sfix then (List.replicate (m.len / 8) bs).flatten else bs
        let s2 := channelWrite s1 ch r data
        if m.barrier && !(chanOf s2 ch).acks.isEmpty then modChan s2 ch fun c => { c with moveSince := some (logicNs s) }
        else moveEnd s2 ch

/-- MOVE (R332). -/
def move (ch : Nat) (s : State) : State :=
  if !chanReady s ch 1 then s
  else if flag (chanWord s ch 0) 13 then
    match chanIndex s ch (fld (chanWord s ch 0) 10 3) (fld (chanWord s ch 0) 20 3) with
    | .fault e => chanFault s ch e
    | .failed s1 => s1
    | .sent s1 => s1
    | .word v s1 =>
      let m := moveArgs s1 ch v
      if moveFault s1 ch m != 0 then chanFault s1 ch (moveFault s1 ch m) else moveRun s1 ch m
  else
    let m := moveArgs s ch 0
    if moveFault s ch m != 0 then chanFault s ch (moveFault s ch m) else moveRun s ch m

/-- MOVE_COMPLETE (R334): every read has arrived, and a barrier's writes are all acknowledged. -/
def moveComplete (ch : Nat) (s : State) : State :=
  let c := chanOf s ch
  let barrier := flag (chanWord s ch 0) 18
  when (chanRuns s ch && c.st == .run && c.moveSince.isSome && c.idxRead.isNone && c.reads.isEmpty && (!barrier || c.acks.isEmpty)) s (moveEnd s ch)

/-- A MOVE waits: for data that it asked for, or as a barrier for acknowledgements (R334). -/
def moveWaits (s : State) (ch : Nat) : Bool :=
  let c := chanOf s ch
  c.st == .run && (c.idxRead.isSome || !c.reads.isEmpty || (flag (chanWord s ch 0) 18 && !c.acks.isEmpty))

/-- FORAGER_TIMEOUT (R334): 50 µs after a MOVE's last write, or after its request for data, while it waits. -/
def foragerTimeout (ch : Nat) (s : State) : State :=
  let c := chanOf s ch
  match c.moveSince with
  | none => s
  | some t =>
    if !chanRuns s ch || !moveWaits s ch || logicNs s < t + 50000 then s
    else if chanInStep s ch then raisePoison s .foragerTimeout
    else modChan s ch fun x => { x with st := .fault, cause := 3, moveSince := none, acks := [], reads := [], idxRead := none }

/-- The count of the LOOP that a channel stands at (R335). -/
def foragerCount (s : State) (ch : Nat) : IndexRes :=
  let w0 := chanWord s ch 0
  if flag w0 14 then chanIndex s ch (fld w0 15 3) 1 else .word (fld w0 32 32) s

/-- LOOP (R335, R146): the count is latched; a count of 0 goes on past END. -/
def foragerLoop (ch : Nat) (s : State) : State :=
  if !chanReady s ch 2 then s
  else
    let w0 := chanWord s ch 0
    match foragerCount s ch with
    | .fault e => chanFault s ch e
    | .failed s1 => s1
    | .sent s1 => s1
    | .word n s1 =>
      let last := fld w0 6 8
      let adj := fun (en r k : Nat) => if flag w0 en then some (fld w0 r 3, chanWord s ch k) else none
      if n = 0 then
        modChan s1 ch fun c =>
          let r := chanNext last c.cur c.loops
          { c with pc := r.1, loops := r.2.1, cur := r.2.2 }
      else
        modChan s1 ch fun c => { c with
          pc := c.pc + 1
          loops := { start := c.pc, last := last, remaining := n, r1 := adj 21 18 1, r2 := adj 25 22 2 } :: c.loops }

/-- A semaphore WAIT of a channel passes: it subtracts AMT (R336). -/
def foragerWaitPass (s : State) (ch : Nat) : State :=
  let w0 := chanWord s ch 0
  let q := fld w0 20 5
  chanOn (setSem s q (fld w0 6 6) (semOf s q (fld w0 6 6) - fld w0 12 8)) ch

/-- The semaphore of a channel's WAIT has reached AMT (R336). -/
def foragerSemReady (s : State) (ch : Nat) : Bool :=
  let w0 := chanWord s ch 0
  decide (fld w0 12 8 ≤ semOf s (fld w0 20 5) (fld w0 6 6))

/-- WAIT (R336): on a semaphore, or for the module's next commit. -/
def foragerWait (ch : Nat) (s : State) : State :=
  let w0 := chanWord s ch 0
  if !chanReady s ch 3 then s
  else if fld w0 4 2 = 1 then modChan s ch fun c => { c with st := .wait }
  else if !clusterPresent s (fld w0 20 5) then chanFault s ch 2
  else if foragerSemReady s ch then foragerWaitPass s ch
  else modChan s ch fun c => { c with st := .wait, waitSince := some (logicNs s) }

/-- FORAGER_WAIT_RELEASE (R336). -/
def foragerWaitRelease (ch : Nat) (s : State) : State :=
  when (chanRuns s ch && (chanOf s ch).st == .wait && fld (chanWord s ch 0) 0 6 == 3 && foragerSemReady s ch) s (foragerWaitPass s ch)

/-- The cause of the fault that a SIGNAL is (R336, R337), 0 when it is good. -/
def signalFault (s : State) (ch : Nat) (w0 : Word) : Nat :=
  if flag w0 4 then
    (if (rankEid s (chanOf s ch).pkey (fld w0 28 15)).isNone || fld w0 43 3 < 1 || 5 < fld w0 43 3 then 1 else 0)
  else if 256 ≤ ch then 1
  else if !clusterPresent s (fld w0 19 5) then 2
  else if dieOfCluster s (fld w0 19 5) != ch / 64 then 1
  else 0

/-- SIGNAL (R336): it takes effect after the channel's earlier writes to its own module; the channel goes on at once. -/
def foragerSignal (ch : Nat) (s : State) : State :=
  let w0 := chanWord s ch 0
  if !chanReady s ch 4 then s
  else if signalFault s ch w0 != 0 then chanFault s ch (signalFault s ch w0)
  else
    let waits := (chanOf s ch).ownWrites
    let s1 := if waits.isEmpty then foragerSignalNow s ch w0
      else modChan s ch fun c => { c with signals := c.signals ++ [(waits, w0)] }
    chanOn s1 ch

/-- END (R331): the channel's program ends. -/
def foragerEnd (ch : Nat) (s : State) : State :=
  when (chanReady s ch 5) s (modChan s ch fun c => { c with st := .done })

def execMove (ch : Fin 320) (s : State) := ok (move ch.val s)
def execMoveComplete (ch : Fin 320) (s : State) := ok (moveComplete ch.val s)
def execForagerTimeout (ch : Fin 320) (s : State) := ok (foragerTimeout ch.val s)
def execForagerLoop (ch : Fin 320) (s : State) := ok (foragerLoop ch.val s)
def execForagerWait (ch : Fin 320) (s : State) := ok (foragerWait ch.val s)
def execForagerWaitRelease (ch : Fin 320) (s : State) := ok (foragerWaitRelease ch.val s)
def execForagerSignal (ch : Fin 320) (s : State) := ok (foragerSignal ch.val s)
def execForagerEnd (ch : Fin 320) (s : State) := ok (foragerEnd ch.val s)

end Sys2Proof.Machine
end

