-- ==== Sys2Proof/Machine/StreamOps.lean ====
section
/-! DEFINITION. Stream programs and what their instructions compute on a chunk (06 R159-R181, R459; 02 R46-R59): pieces,
accumulators, orderings, read-out, conversions and sampling. -/

namespace Sys2Proof.Machine

/-- Bytes of an ordering record (R159). -/
def recBytes (t : Ty) : Nat := if t == .fp64 then 16 else 8

/-- Bytes of an SPSUM pair (Table 6.2). -/
def pairBytes (t : Ty) : Nat := 4 + tyBytes t

/-- What a chunk's run reads: its context, its program, and what the TG3 supplies. -/
structure SEnv where
  ctx : Nat
  word : BitVec 1024
  ty : Ty
  nsrc : Nat
  prog : List Word
  chunk : Nat
  seq : Nat
  aux : List Byte
  /-- The step's sequence number within the run (R180). -/
  step : Nat
  /-- Input is partials of first-level nodes, and they are raw records (09 R284). -/
  part : Bool
  raw : Bool
deriving DecidableEq, Repr, Inhabited

/-- Parameter C[i] of a context (Table 6.3). -/
def envC (e : SEnv) (i : Nat) : Word := wordAt e.word (4 + i)
def envTid (e : SEnv) : BitVec 32 := BitVec.ofNat 32 (fld e.word 160 32)
def envSeed (e : SEnv) : Word := wordAt e.word 3

/-- The element limit of IN (R167), within the 64 KiB of element data of a chunk (R156). -/
def envLimit (e : SEnv) : Nat := min (siImm (e.prog.getD 0 0) % 2 ^ 15) (65536 / tyBytes e.ty)

/-- Whether the stream units hold values of a type in 12-byte accumulators, and their least bit (Table 2.4). -/
def narrowAcc (t : Ty) : Bool := t == .e4m3 || t == .e5m2 || t == .fp16
def accLsb (t : Ty) : Int := if narrowAcc t then -24 else -149

/-- Bytes of a raw record (09 R284). -/
def rawBytes (t : Ty) : Nat := if narrowAcc t then 16 else 48

/-- The input of MERGE and TOPK is ordering records: for TOPK when VAR[0] says so, and in the partials of a dense one (09 R284). -/
def envOrds (e : SEnv) : Bool :=
  let a := accOf e.prog
  siOp a == opMerge || (siOp a == opTopk && (siVar a % 2 == 1 || e.part))

/-- The input is a record stream (R159). -/
def envRecords (e : SEnv) : Bool :=
  let a := accOf e.prog
  !e.raw && (siOp a == opSpsum || envOrds e || siOp a == opGather)

/-- Bytes of an element, pair, record or word of the input (R159). -/
def envUnit (e : SEnv) : Nat :=
  let a := accOf e.prog
  if e.raw then rawBytes e.ty
  else if siOp a = opSpsum then pairBytes e.ty
  else if envOrds e then recBytes e.ty
  else if siOp a = opGather then 8
  else tyBytes e.ty

/-- PE or PR (Table 6.2): what fits 4,064 bytes. -/
def pieceCap (unit : Nat) : Nat := 4064 / unit

/-- Bytes cut into units of n, at most k of them. -/
def unitsOf (n : Nat) : Nat → List Byte → List (List Byte)
  | 0, _ => []
  | k + 1, bs => if bs.isEmpty then [] else bs.take n :: unitsOf n k (bs.drop n)

/-- The elements, pairs or records of a piece that its data hold. -/
def pieceUnits (e : SEnv) (p : Piece) : List (List Byte) := unitsOf (envUnit e) (min p.nelem (p.data.length / envUnit e)) p.data

/-- The codes of a piece of an element stream. -/
def pieceCodes (e : SEnv) (p : Piece) : List Nat := (pieceUnits e p).map natOfBytes

/-- Where the elements of a piece start in the chunk (R159). -/
def pieceBase (e : SEnv) (p : Piece) : Nat := p.piece * pieceCap (envUnit e)

/-- An SPSUM pair: its index and value. -/
def pairOf (t : Ty) (bs : List Byte) : Nat × Nat := (natOfBytes (bs.take 4), natOfBytes ((bs.drop 4).take (tyBytes t)))

/-- What a run produces beyond its state: INVALID and malformed occurrences (element, cause, check), amax values, event
numbers, staged bytes, result pieces, and whether a residue mismatched. -/
structure SEff where
  occ : List (Nat × Nat × Nat) := []
  amax : List (BitVec 32) := []
  events : List Nat := []
  staged : Option (BitVec 128) := none
  out : List Piece := []
  /-- For each piece of `out`: it is the last that an OUT of RES sends (07 R214). -/
  outRes : List Bool := []
  bad : Bool := false
deriving DecidableEq, Repr, Inhabited

/-- A chunk's run with what it has produced. -/
structure SWork where
  run : SRun := {}
  eff : SEff := {}
deriving DecidableEq, Repr, Inhabited

/-- Flags join STAT (R189), and an INVALID occurrence is noted (R190). -/
def noteFlags (w : SWork) (elem : Nat) (f : Fl) (cause : Nat) : SWork :=
  let r := { w.run with stat := w.run.stat ||| BitVec.ofNat 8 (flBits f).toNat }
  { w with run := r, eff := if cause != 0 then { w.eff with occ := w.eff.occ ++ [(elem, cause, 0)] } else w.eff }

/-- A check of Table 6.11 fails: the chunk is malformed (R185). -/
def noteBad (w : SWork) (elem check : Nat) : SWork :=
  { w with
    run := { w.run with check := if w.run.check = 0 then check else w.run.check, stat := w.run.stat ||| 0x40 }
    eff := { w.eff with occ := w.eff.occ ++ [(elem, 0, check)] } }

/-- Contributions to an FP8 chunk share one scale (R47); a mismatch is reported for the chunk, at element 0. -/
def noteScale (w : SWork) (t : Ty) (sc : Nat) : SWork :=
  if !isFp8 t then w
  else
    match w.run.scale with
    | none => { w with run := { w.run with scale := some sc } }
    | some old =>
      if old = sc || w.run.scaleBad then w
      else noteFlags { w with run := { w.run with scaleBad := true } } 0 { inv := true } 8

/-- An accumulator with one more term (R51, R171, R192). -/
def accAdd (t : Ty) (a : SAcc) (v : Val) : SAcc :=
  let b := { a with allNegZero := a.allNegZero && v.isZero && v.neg?, allPosZero := a.allPosZero && v.isZero && !v.neg? }
  match v with
  | .nan .. => { b with nan := true }
  | .inf n => if n then { b with ninf := true } else { b with pinf := true }
  | .fin n m e =>
    let x := signedOf n m * ((2 ^ (e - accLsb t).toNat : Nat) : Int)
    { b with value := a.value + x, residue := ((a.residue + x) % 255).toNat }

/-- The residue agrees with the register (R192). -/
def accOk (a : SAcc) : Bool := (a.value % 255).toNat == a.residue % 255

/-- No term has joined an accumulator. -/
def accEmpty (a : SAcc) : Bool := a.allNegZero && a.allPosZero

/-- What an accumulator reads as before rounding (Table 2.6): a value and the cause of an INVALID. -/
def accVal (t : Ty) (a : SAcc) : Val × Nat :=
  if a.nan then (.nan false 0 false, 0)
  else if a.pinf && a.ninf then (.nan false 0 false, 2)
  else if a.pinf then (.inf false, 0)
  else if a.ninf then (.inf true, 0)
  else (.fin (decide (a.value < 0)) a.value.natAbs (accLsb t), 0)

/-- Read-out of an accumulator to a format, scaled by 2^shift (R46, R52, R53). -/
def accRead (t d : Ty) (r : Rounding) (sat : Bool) (shift : Int) (a : SAcc) : Fr :=
  let (v, cause) := accVal t a
  match v with
  | .nan .. => ⟨defaultNan d, { inv := cause != 0 }, cause⟩
  | .inf n => ⟨infCode d n, {}, 0⟩
  | .fin n m x =>
    if m = 0 then ⟨if !accEmpty a && zeroNeg a.allNegZero a.allPosZero r then signBit d else 0, {}, 0⟩
    else roundBy d r sat n m (x + shift)

/-- The bytes of a raw record (09 R284, Table 6.5). -/
def rawOf (t : Ty) (a : SAcc) : List Byte :=
  let n := if narrowAcc t then 12 else 40
  let v := (a.value % ((2 ^ (8 * n) : Nat) : Int)).toNat
  let tag := pack [(0, 8, a.residue), (8, 1, a.nan.toNat), (9, 1, a.pinf.toNat), (10, 1, a.ninf.toNat), (11, 1, a.allNegZero.toNat),
    (12, 1, a.allPosZero.toNat), (13, 1, a.seen.toNat)]
  let bs := bytesOfNat v n ++ bytesOfNat tag 2
  bs ++ List.replicate (rawBytes t - bs.length) 0#8

/-- The accumulator of a raw record. -/
def accOfRaw (t : Ty) (bs : List Byte) : SAcc :=
  let n := if narrowAcc t then 12 else 40
  let tag := natOfBytes ((bs.drop n).take 2)
  { value := sextNat (8 * n) (natOfBytes (bs.take n)), residue := tag % 256, nan := tag.testBit 8, pinf := tag.testBit 9, ninf := tag.testBit 10
    allNegZero := tag.testBit 11, allPosZero := tag.testBit 12, seen := tag.testBit 13 }

/-- A raw record joins an accumulator, as R103 combines fold records (09 R284). -/
def accJoin (a b : SAcc) : SAcc :=
  { value := a.value + b.value, residue := (a.residue + b.residue) % 255, nan := a.nan || b.nan, pinf := a.pinf || b.pinf, ninf := a.ninf || b.ninf
    allNegZero := a.allNegZero && b.allNegZero, allPosZero := a.allPosZero && b.allPosZero, seen := a.seen || b.seen }

/-- An FP64 pair addition (R171, R49). -/
def pairAdd (a b : Fr) : Fr := frPair (fun x y => fAdd .fp64 .nearest x y) a b

/-- A running FP64 sum with one more term (R171, ARRIVAL). -/
def runAdd (old : Option Nat) (c : Nat) : Fr :=
  match old with
  | none => ⟨c, {}, 0⟩
  | some o => fAdd .fp64 .nearest o c

/-- A running extreme with one more term (R173, R54). -/
def runExtreme (op : Nat) (t : Ty) (old : Option Nat) (c : Nat) : Nat :=
  let x := if op = opAmax then absCode t c else c
  match old with
  | none => if (decodeVal t x).isNan then defaultNan t else x
  | some o => quietMax t (op != opMin) o x

/-- before(a, b) (R176): the strict total order of records with scores of a type. -/
def before (t : Ty) (a b : Ord) : Bool :=
  let va := decodeVal t a.score
  let vb := decodeVal t b.score
  let tie := decide (a.index < b.index) || (a.index == b.index && decide (a.src < b.src))
  if va.isNan then vb.isNan && tie
  else if vb.isNan then true
  else
    match cmpVals va vb with
    | .gt => true
    | .lt => false
    | .eq => tie

/-- A record put into an ordered list. -/
def insertOrd (t : Ty) (x : Ord) : List Ord → List Ord
  | [] => [x]
  | y :: r => if before t x y then x :: y :: r else y :: insertOrd t x r

/-- The first K records of a kept list and further records (R178). -/
def keepFirst (t : Ty) (k : Nat) (kept more : List Ord) : List Ord := more.foldl (fun a x => (insertOrd t x a).take k) kept

/-- An ordering record from its bytes (R159). -/
def ordOf (t : Ty) (src : Nat) (bs : List Byte) : Ord :=
  let n := if t == .fp64 then 8 else 4
  { score := natOfBytes (bs.take n), index := natOfBytes ((bs.drop n).take 4), src := src }

/-- The elements of type TY that an instruction takes of an arriving piece, and where they start (R159, R174, R175): the values of
pairs, the scores of records, each element of GATHER's words. -/
def inpElems (e : SEnv) (p : Piece) : Nat × List Nat :=
  let a := accOf e.prog
  if e.raw then (pieceBase e p, pieceCodes e p)
  else if siOp a = opSpsum then (pieceBase e p, (pieceUnits e p).map fun u => (pairOf e.ty u).2)
  else if envOrds e then (pieceBase e p, (pieceUnits e p).map fun u => (ordOf e.ty p.src u).score)
  else if siOp a = opGather then
    let k := 8 / tyBytes e.ty
    (pieceBase e p * k, (pieceUnits e p).flatMap fun u => (unitsOf (tyBytes e.ty) k u).map natOfBytes)
  else (pieceBase e p, pieceCodes e p)

/-- The bytes of an ordering record (R159). -/
def ordBytes (t : Ty) (o : Ord) : List Byte :=
  if t == .fp64 then bytesOfNat o.score 8 ++ bytesOfNat o.index 4 ++ List.replicate 4 0 else bytesOfNat o.score 4 ++ bytesOfNat o.index 4

/-- A list of records is ordered by R176. -/
def ordered (t : Ty) : List Ord → Bool
  | [] => true
  | x :: r => (match r with
    | [] => true
    | y :: _ => before t x y) && ordered t r

/-- The index that a dense TOPK gives an element (R178). -/
def topkIndex (e : SEnv) (ins : Word) (elem : Nat) : Nat :=
  let s := if (siVar ins).testBit 1 then (envC e (siCp ins + 1)).toNat else 16384
  ((envC e (siCp ins)).toNat + e.chunk * s + elem) % 2 ^ 32

/-- The K of MERGE and TOPK, and the window W of SPSUM. -/
def insK (ins : Word) : Nat := siImm ins % 2 ^ 15

/-- The window start of SPSUM (R172). -/
def spsumLo (e : SEnv) (ins : Word) : Nat := (envC e (siCp ins)).toNat + e.chunk * insK ins

/-- A value made NaN by a scale of 0xFF (R36); a NaN keeps its sign (R37). -/
def madeNan (v : Val) : Val := if v.isNan then v else .nan false 0 false

/-- A value scaled by an FP8 scale (R36); 0xFF makes it NaN. -/
def scaled (v : Val) (sc : Nat) : Val :=
  if sc = 255 then madeNan v
  else match v with
    | .fin n m x => .fin n m (x + (sc : Int) - 127)
    | v => v

/-- The rounding of a stream instruction for the element at an offset (R459). -/
def streamRounding (e : SEnv) (ins : Word) (elem : Nat) : Rounding :=
  if siRm ins = 4 then .stoch (draw (envSeed e) (envTid e) (envC e (siCp ins + 1) + BitVec.ofNat 64 (e.chunk * 16384 + elem)))
  else .dir (rmOf (siRm ins))

/-- The number of elements of the chunk: what its longest source delivered (R182). -/
def lenOf (e : SEnv) (got : List (Nat × Nat × Bool × Nat)) : Nat :=
  got.foldl (fun a g => if g.2.2.1 then max a (g.2.1 * pieceCap (envUnit e) + g.2.2.2) else a) 0

/-- The pieces of a source, in piece order. -/
def sourcePieces (ps : List Piece) (src : Nat) : List Piece :=
  (List.range 64).filterMap fun k => ps.find? fun p => p.src == src && p.piece == k

/-- The codes of a source, in order. -/
def sourceCodes (e : SEnv) (ps : List Piece) (src : Nat) : List Nat := (sourcePieces ps src).flatMap (pieceCodes e)

/-- The root of the tree of R49 for element i of an FP64 SUM (R171). -/
def treeElem (srcs : List (List Nat)) (i : Nat) : Fr :=
  canonTree pairAdd ⟨0, {}, 0⟩ (srcs.map fun l => (⟨l.getD i 0, {}, 0⟩ : Fr))

/-- A source's sum for one index of an FP64 SPSUM, in the order of its contribution (R172). -/
def sourceSum (idx : Nat) : List (Nat × Nat) → Option Fr → Option Fr
  | [], a => a
  | (i, c) :: r, a =>
    if i = idx then
      sourceSum idx r (match a with
        | none => some ⟨c, {}, 0⟩
        | some x => some (pairAdd x ⟨c, {}, 0⟩))
    else sourceSum idx r a

/-- The pair of two nodes of which one may be missing (R172). -/
def pairOpt (a b : Option Fr) : Option Fr :=
  match a, b with
  | some x, some y => some (pairAdd x y)
  | some x, none => some x
  | none, y => y

/-- The pairs of a source inside the window. -/
def sourcePairs (e : SEnv) (ps : List Piece) (src : Nat) : List (Nat × Nat) :=
  let a := accOf e.prog
  let lo := spsumLo e a
  ((sourcePieces ps src).flatMap (pieceUnits e)).map (pairOf e.ty) |>.filter fun p => decide (lo ≤ p.1) && decide (p.1 < lo + insK a)

/-- A head of an attention partial: m, l and o. -/
structure Head where
  m : Nat
  l : Nat
  o : List Nat
  fl : Fl := {}
  /-- INVALID occurrences by element. -/
  occ : List (Nat × Nat) := []
deriving DecidableEq, Repr, Inhabited

/-- D and H of ATTNM (R179). -/
def attnD (ins : Word) : Nat := siImm ins % 2 ^ 16
def attnH (ins : Word) : Nat := siImm ins / 2 ^ 16 % 256

/-- Minus infinity in FP32. -/
def minusInf : Nat := 0xFF800000

/-- The heads of a source's partial. -/
def headsOf (d h : Nat) (cs : List Nat) : List Head :=
  (List.range h).map fun i => { m := cs.getD i 0, l := cs.getD (h + i) 0, o := ((cs.drop (2 * h + i * d)).take d) }

/-- exp32 of a difference, +0 for a head at minus infinity (R179). -/
def attnExp (am m : Nat) : Fr :=
  if am = minusInf then ⟨0, {}, 0⟩
  else
    let x := fSub .fp32 .nearest am m
    let y := exp32 x.code
    ⟨y.code, flOr x.fl y.fl, if x.cause != 0 then x.cause else y.cause⟩

/-- One weighted combination fma32(a, ea, b * eb) (R179). -/
def attnTerm (a b ea eb : Nat) : Fr :=
  let p := fMul .fp32 .nearest b eb
  let r := fFma .fp32 .nearest a ea p.code
  ⟨r.code, flOr p.fl r.fl, if p.cause != 0 then p.cause else r.cause⟩

/-- One head of attn_pair (R179): head number i of h with d elements. -/
def headPair (d h i : Nat) (a b : Head) : Head :=
  let joint := { fl := flOr a.fl b.fl, occ := a.occ ++ b.occ, m := a.m, l := a.l, o := a.o : Head }
  if a.m = minusInf && b.m = minusInf then joint
  else
    let m := fMaxMin .fp32 true a.m b.m
    let ea := attnExp a.m m.code
    let eb := attnExp b.m m.code
    let l := attnTerm a.l b.l ea.code eb.code
    let os := (a.o.zip b.o).map fun x => attnTerm x.1 x.2 ea.code eb.code
    let at_ := fun (k : Nat) (r : Fr) => if r.cause = 0 then [] else [(k, r.cause)]
    { m := m.code, l := l.code, o := os.map (·.code)
      fl := os.foldl (fun f r => flOr f r.fl) (flOr joint.fl (flOr m.fl (flOr ea.fl (flOr eb.fl l.fl))))
      occ := joint.occ ++ at_ i m ++ at_ i ea ++ at_ i eb ++ at_ (h + i) l ++ (os.zipIdx.flatMap fun x => at_ (2 * h + i * d + x.2) x.1) }

/-- attn_pair (R179). -/
def attnPair (d h : Nat) (a b : List Head) : List Head := (a.zip b).zipIdx.map fun x => headPair d h x.2 x.1.1 x.1.2

/-- The division that phase 1 of the root makes when VAR[0] is set (R179). -/
def headDivide (d h i : Nat) (x : Head) : Head :=
  if x.l % 2 ^ 31 = 0 && x.l < 2 ^ 31 then { x with o := x.o.map fun _ => 0 }
  else
    let rs := x.o.map fun c => fDiv .fp32 .nearest c x.l
    { x with
      o := rs.map (·.code)
      fl := rs.foldl (fun f r => flOr f r.fl) x.fl
      occ := x.occ ++ (rs.zipIdx.flatMap fun y => if y.1.cause = 0 then [] else [(2 * h + i * d + y.2, y.1.cause)]) }

/-- The merged partial of a chunk (R179). -/
def attnRoot (e : SEnv) (ps : List Piece) (divide : Bool) : List Head :=
  let a := accOf e.prog
  let d := attnD a
  let h := attnH a
  let root := canonTree (attnPair d h) [] ((List.range e.nsrc).map fun s => headsOf d h (sourceCodes e ps s))
  if divide && siVar a % 2 = 1 then root.zipIdx.map fun x => headDivide d h x.2 x.1 else root

/-- The elements of a partial. -/
def headCodes (hs : List Head) : List Nat := hs.map (·.m) ++ hs.map (·.l) ++ hs.flatMap (·.o)

/-- An element of an operand, as an instruction takes it: its offset in the chunk, its type, and its result with flags. -/
structure Elem where
  off : Nat
  fr : Fr
deriving DecidableEq, Repr, Inhabited

/-- The offsets of the elements of ACC: the chunk's elements, or the listed offsets of SPSUM (R172). -/
def accOffsets (e : SEnv) (w : SWork) (ps : List Piece) (got : List (Nat × Nat × Bool × Nat)) : List Nat :=
  let a := accOf e.prog
  match accKind e.prog e.ty with
  | .exact => if siOp a = opSpsum then (w.run.acc.filter fun x => x.2.seen).map (·.1) else List.range (lenOf e got)
  | .arrival => if siOp a = opSpsum then w.run.vals.map (·.1) else List.range (lenOf e got)
  | .tree =>
    if siOp a = opSpsum then
      let idx := ((List.range e.nsrc).flatMap fun s => (sourcePairs e ps s).map fun p => p.1 - spsumLo e a).eraseDups
      (List.range (insK a)).filter idx.contains
    else List.range (lenOf e got)
  | .list => List.range w.run.kept.length
  | .attn => List.range (attnH a * (attnD a + 2))
  | .extreme => List.range (lenOf e got)
  | _ => []

/-- The type of the elements of ACC that an instruction reads (R171, R175): DT for sums, TY as held otherwise. -/
def accType (e : SEnv) (ins : Word) : Ty :=
  match accKind e.prog e.ty with
  | .exact | .tree | .arrival => (siDt ins).getD .fp32
  | _ => e.ty

/-- The FP8 scale of a chunk's contributions; where they differ, and the result is NaN throughout (R47), its SCALE is the first one's:
the spec names none (assumption 78). -/
def chunkScale (e : SEnv) (w : SWork) : Nat := if isFp8 e.ty then w.run.scale.getD 127 else 127

/-- The exponent by which a read-out to type d shifts: an FP8 chunk's scale, unless the result carries it (R36, R47). -/
def readShift (e : SEnv) (w : SWork) (d : Ty) (dscale : Option Nat) : Option Int :=
  let sc := chunkScale e w
  match dscale with
  | some x => if sc = 255 || x = 255 then none else some ((sc : Int) - (x : Int))
  | none => if isFp8 d then some 0 else if sc = 255 then none else some ((sc : Int) - 127)

/-- Conversion of a code of the sums' FP64 or of a held value, with the same scales. -/
def convCode (e : SEnv) (src d : Ty) (ins : Word) (dscale : Option Nat) (off : Nat) (sc : Nat) (c : Nat) : Fr :=
  let v := if isFp8 src then scaled (decodeVal src c) sc else decodeVal src c
  let sh : Option Int := if isFp8 d then
      (match dscale with
      | some x => if x = 255 then none else some (127 - (x : Int))
      | none => some 0)
    else some 0
  match sh with
  | none => convVal d (.dir .nearest) false 0 (madeNan v)
  | some k => convVal d (streamRounding e ins off) (siSat ins) k v

/-- ACC's elements at offsets, read out by an instruction to DT, or as held (R171, R173), NaN where the scales of the
contributions differ (R47). `dscale` is a CVT's scale. -/
def accElems (e : SEnv) (w : SWork) (ps : List Piece) (ins : Word) (cvt : Bool) (dscale : Option Nat) (offs : List Nat) : List Elem :=
  let a := accOf e.prog
  let d := (siDt ins).getD .fp32
  match accKind e.prog e.ty with
  | .exact =>
    if w.run.scaleBad then offs.map fun o => ⟨o, ⟨defaultNan d, {}, 0⟩⟩
    else offs.map fun o => ⟨o, match readShift e w d dscale with
      | none => ⟨defaultNan d, {}, 0⟩
      | some k => accRead e.ty d (streamRounding e ins o) (siSat ins) k (tblGet {} w.run.acc o)⟩
  | .arrival => offs.map fun o => ⟨o, convCode e .fp64 d ins dscale o 127 ((tblGet none w.run.vals o).getD 0)⟩
  | .tree =>
    if siOp a = opSpsum then
      let srcs := (List.range e.nsrc).map (sourcePairs e ps)
      offs.map fun o =>
        let x := (canonTree pairOpt none (srcs.map fun l => sourceSum (spsumLo e a + o) l none)).getD ⟨0, {}, 0⟩
        let y := convCode e .fp64 d ins dscale o 127 x.code
        ⟨o, ⟨y.code, flOr x.fl y.fl, if x.cause != 0 then x.cause else y.cause⟩⟩
    else
      let srcs := (List.range e.nsrc).map (sourceCodes e ps)
      offs.map fun o =>
        let x := treeElem srcs o
        let y := convCode e .fp64 d ins dscale o 127 x.code
        ⟨o, ⟨y.code, flOr x.fl y.fl, if x.cause != 0 then x.cause else y.cause⟩⟩
  | .extreme =>
    if w.run.scaleBad then offs.map fun o => ⟨o, ⟨defaultNan (if cvt then d else e.ty), {}, 0⟩⟩
    else offs.map fun o =>
      let c := (tblGet none w.run.vals o).getD 0
      ⟨o, if cvt then convCode e e.ty d ins dscale o (chunkScale e w) c else ⟨c, {}, 0⟩⟩
  | .list => offs.map fun o =>
      let c := (w.run.kept.getD o default).score
      ⟨o, if cvt then convCode e e.ty d ins dscale o 127 c else ⟨c, {}, 0⟩⟩
  | .attn =>
    let cs := headCodes (attnRoot e ps true)
    offs.map fun o => ⟨o, if cvt then convCode e e.ty d ins dscale o 127 (cs.getD o 0) else ⟨cs.getD o 0, {}, 0⟩⟩
  | _ => []

/-- Flags and occurrences of elements that an instruction took. -/
def noteElems (w : SWork) (es : List Elem) : SWork := es.foldl (fun t x => noteFlags t x.off x.fr.fl x.fr.cause) w

/-- The residues that a read-out of exact accumulators checks (R192). -/
def checkResidues (e : SEnv) (w : SWork) (offs : List Nat) : SWork :=
  if accKind e.prog e.ty == .exact && offs.any (fun o => !accOk (tblGet {} w.run.acc o)) then { w with eff := { w.eff with bad := true } } else w

/-- Bytes of RES (64 KiB) written from an offset on; over the first 16 they end what SAMPLE left there. -/
def resWrite (r : SRun) (off : Nat) (bs : List Byte) : SRun :=
  let kept := bs.take (65536 - off)
  { r with
    res := memWrite r.res off kept, high := if kept.isEmpty then r.high else max r.high (off + kept.length)
    sampled := r.sampled && (kept.isEmpty || decide (16 ≤ off)) }

/-- The elements of RES at offsets, as codes of a type. -/
def resElems (r : SRun) (t : Ty) (offs : List Nat) : List Elem := offs.map fun o => ⟨o, ⟨memNat r.res (o * tyBytes t) (tyBytes t), {}, 0⟩⟩

/-- A part of an operand: elements lo to lo + n - 1. -/
structure Window where
  lo : Nat
  n : Nat
deriving DecidableEq, Repr, Inhabited

/-- The offsets of a list that lie in a window, by place. -/
def windowed (win : Option Window) (l : List Nat) : List Nat :=
  match win with
  | none => l
  | some x => (l.drop x.lo).take x.n

/-- What an instruction of a chunk reads beside its run: the pieces kept, those received, and in phase 0 the piece. -/
structure SIn where
  ps : List Piece
  got : List (Nat × Nat × Bool × Nat)
  cur : Option Piece := none
deriving DecidableEq, Repr, Inhabited

/-- The window of phase 0: the elements of the current piece. -/
def pieceWindow (e : SEnv) (i : SIn) (win : Option Window) : Option Window :=
  match i.cur with
  | some p => some ⟨pieceBase e p, p.nelem⟩
  | none => win

/-- The offsets of a piece's elements in ACC (R172): their places in the chunk; for SPSUM the indices that its pairs name. -/
def pieceOffsets (e : SEnv) (p : Piece) : List Nat :=
  let a := accOf e.prog
  if siOp a = opSpsum && !e.raw then
    let lo := spsumLo e a
    (((pieceUnits e p).map fun u => (pairOf e.ty u).1).filter fun i => decide (lo ≤ i) && decide (i < lo + insK a)).map (· - lo)
  else (List.range p.nelem).map (pieceBase e p + ·)

/-- The offsets of ACC that an instruction takes: in phase 0 those of the current piece, a list as a whole. -/
def accOffs (e : SEnv) (w : SWork) (i : SIn) (win : Option Window) : List Nat :=
  match i.cur with
  | some p => if accKind e.prog e.ty == .list then windowed (some ⟨pieceBase e p, p.nelem⟩) (accOffsets e w i.ps i.got) else pieceOffsets e p
  | none => windowed win (accOffsets e w i.ps i.got)

/-- The elements that COUNT, FILTER, CVT, PASS and OUT take of an operand, with their type and FP8 scale (R174, R175). -/
def operandElems (e : SEnv) (w : SWork) (i : SIn) (ins : Word) (cvt : Bool) (dscale : Option Nat) (win : Option Window) : Ty × Nat × List Elem :=
  let src := siSrc ins
  let win := pieceWindow e i win
  if src = opndAcc then
    let offs := accOffs e w i win
    let d := if cvt then (siDt ins).getD .fp32 else accType e ins
    (d, chunkScale e w, accElems e w i.ps ins cvt dscale offs)
  else if src = opndRes then
    let t := (siTy ins).getD .fp32
    let n := w.run.high / tyBytes t
    let offs := windowed win (List.range n)
    let es := resElems w.run t offs
    (if cvt then (siDt ins).getD .fp32 else t, w.run.resScale,
      if cvt then es.map fun x => ⟨x.off, convCode e t ((siDt ins).getD .fp32) ins dscale x.off w.run.resScale x.fr.code⟩ else es)
  else
    match i.cur with
    | none => (e.ty, 127, [])
    | some p =>
      let (base, codes) := inpElems e p
      let es := codes.zipIdx.map fun x => (⟨base + x.2, ⟨x.1, {}, 0⟩⟩ : Elem)
      (if cvt then (siDt ins).getD .fp32 else e.ty, p.scale,
        if cvt then es.map fun x => ⟨x.off, convCode e e.ty ((siDt ins).getD .fp32) ins dscale x.off p.scale x.fr.code⟩ else es)

/-- The exact values that a CVT takes, for its amax (R56, R57). -/
def cvtInputs (e : SEnv) (w : SWork) (i : SIn) (ins : Word) (win : Option Window) : List Val :=
  let src := siSrc ins
  if src = opndAcc && accKind e.prog e.ty == .exact then
    let offs := accOffs e w i win
    offs.map fun o => if w.run.scaleBad then Val.nan false 0 false else scaled (accVal e.ty (tblGet {} w.run.acc o)).1 (chunkScale e w)
  else
    let held := setFld (setFld ins 10 3 (if src = opndAcc then (match accKind e.prog e.ty with
      | .tree | .arrival => 5
      | _ => tyCode e.ty) else 0)) 19 3 0
    let (t, sc, es) := operandElems e w i held false none win
    es.map fun x => if isFp8 t then scaled (decodeVal t x.fr.code) sc else decodeVal t x.fr.code

/-- CVT (R174). -/
def runCvt (e : SEnv) (i : SIn) (ins : Word) (win : Option Window) (w : SWork) : SWork :=
  let d := (siDt ins).getD .fp32
  let auto := siVar ins % 2 = 1
  let vs := cvtInputs e w i ins win
  let all := if auto then cvtInputs e w i ins none else []
  let sc := if auto then (tileScale d (all.foldl maxMag (.fin false 0 0))).getD 255 else (envC e (siCp ins)).toNat % 256
  let (_, _, es) := operandElems e w i ins true (if isFp8 d then some sc else none) win
  let bad := isFp8 d && auto && sc == 255
  let w1 := noteElems (checkResidues e w (if siSrc ins = opndAcc then es.map (·.off) else [])) es
  let (_, _, whole) := operandElems e w i ins true none none
  let w2 := if bad then noteFlags w1 ((whole.map (·.off)).getD (nonfiniteAt all) 0) { inv := true } 7 else w1
  let amax := BitVec.ofNat 32 (vs.foldl (fun a v => quietMax .fp32 true a (amaxCode v)) 0)
  let w3 := if isFp8 d || d == .bf16 then { w2 with eff := { w2.eff with amax := w2.eff.amax ++ [amax] } } else w2
  let r := es.foldl (fun r x => resWrite r (x.off * tyBytes d) (bytesOfNat x.fr.code (tyBytes d))) w3.run
  { w3 with run := { r with resScale := if isFp8 d then sc else 127, unit := 0, pairs := false } }

/-- Predicate of COUNT (R175). -/
def countPred (t : Ty) (pred c : Nat) : Bool :=
  let v := decodeVal t c
  match pred with
  | 0 => true
  | 1 => !v.isZero
  | 2 => v.isNan
  | _ => v.isInf

/-- COUNT (R175). -/
def runCount (e : SEnv) (i : SIn) (ins : Word) (win : Option Window) (w : SWork) : SWork :=
  let (t, _, es) := operandElems e w i ins false none win
  let w1 := noteElems (checkResidues e w (if siSrc ins = opndAcc then es.map (·.off) else [])) es
  let n := (es.filter fun x => countPred t (siVar ins) x.fr.code).length
  let off := siImm ins
  { w1 with run := resWrite w1.run off (bytesOfNat (memNat w1.run.res off 8 + n) 8) }

/-- Predicate of FILTER (R175). -/
def filterPred (t : Ty) (pred th c : Nat) : Bool :=
  let v := decodeVal t c
  let k := decodeVal t th
  let nums := !v.isNan && !k.isNan
  match pred with
  | 0 => !v.isZero
  | 1 => nums && cmpVals v k == .gt
  | 2 => nums && cmpVals v k != .lt
  | 3 => nums && cmpVals (decodeVal t (absCode t c)) k == .gt
  | _ => !v.isNan

/-- FILTER (R175). -/
def runFilter (e : SEnv) (i : SIn) (ins : Word) (win : Option Window) (w : SWork) : SWork :=
  let (t, _, es) := operandElems e w i ins false none win
  let w1 := noteElems (checkResidues e w (if siSrc ins = opndAcc then es.map (·.off) else [])) es
  let th := (envC e (siCp ins)).toNat % 2 ^ tyWidth t
  let off := siImm ins
  let b := pairBytes t
  let put := fun (r : SRun) (x : Elem) =>
    let n := memNat r.res off 8
    let at_ := off + 8 + n * b
    let pair := bytesOfNat ((e.chunk * 16384 + x.off) % 2 ^ 32) 4 ++ bytesOfNat x.fr.code (tyBytes t)
    let r1 := if at_ + b ≤ 65536 then resWrite r at_ pair else r
    resWrite r1 off (bytesOfNat (n + 1) 8)
  { w1 with run := (es.filter fun x => filterPred t (siVar ins) th x.fr.code).foldl put w1.run }

/-- The records or pairs that ACC holds, as bytes, when it holds a list (R172, R177). -/
def accRecords (e : SEnv) (w : SWork) (ps : List Piece) (ins : Word) (offs : List Nat) : Option (Nat × List (List Byte) × List Elem) :=
  let a := accOf e.prog
  if accKind e.prog e.ty == .list then
    some (recBytes e.ty, offs.map fun o => ordBytes e.ty (w.run.kept.getD o default), [])
  else if siOp a = opSpsum then
    let d := (siDt ins).getD .fp32
    let es := accElems e w ps ins false none offs
    some (pairBytes d, es.map fun x => bytesOfNat ((spsumLo e a + x.off) % 2 ^ 32) 4 ++ bytesOfNat x.fr.code (tyBytes d), es)
  else none

/-- The scale of what an instruction reads of ACC (R47): an FP8 chunk's, where the result is left unscaled. -/
def accScale (e : SEnv) (w : SWork) (ins : Word) : Nat :=
  if accKind e.prog e.ty == .list then 127 else if isFp8 ((siDt ins).getD .fp32) then chunkScale e w else 127

/-- PASS (R167). -/
def runPass (e : SEnv) (i : SIn) (ins : Word) (win : Option Window) (w : SWork) : SWork :=
  let src := siSrc ins
  if src = opndInp then
    (match i.cur with
    | none => w
    | some p =>
      let r := resWrite w.run (pieceBase e p * envUnit e) (p.data.take (p.nelem * envUnit e))
      { w with run := { r with
        resScale := p.scale, unit := if envRecords e then envUnit e else 0, pairs := envRecords e && siOp (accOf e.prog) == opSpsum } })
  else if src = opndAcc then
    let offs := accOffs e w i win
    (match accRecords e w i.ps ins offs with
    | some (n, rs, es) =>
      let lo := match pieceWindow e i win with
        | some x => x.lo
        | none => 0
      let w1 := noteElems (checkResidues e w offs) es
      let r := resWrite w1.run (lo * n) rs.flatten
      { w1 with run := { r with unit := n, pairs := accKind e.prog e.ty != .list, resScale := accScale e w ins } }
    | none =>
      let (t, sc, es) := operandElems e w i ins false none win
      let w1 := noteElems (checkResidues e w (es.map (·.off))) es
      let r := es.foldl (fun r x => resWrite r (x.off * tyBytes t) (bytesOfNat x.fr.code (tyBytes t))) w1.run
      { w1 with run := { r with resScale := if isFp8 t then sc else 127, unit := 0, pairs := false } })
  else w

/-- What a malformed chunk puts in the place of a record, a pair or the elements of a unit that it outputs (R185). -/
def spoiled (r : SRun) (t : Ty) (record pair : Bool) (bs : List Byte) : List Byte :=
  if r.check != 0 then
    (if record then ordBytes t { score := defaultNan t, index := 0xFFFFFFFF, src := 0 }
    else if pair then bytesOfNat 0xFFFFFFFF 4 ++ bytesOfNat (defaultNan t) (tyBytes t)
    else (List.replicate (bs.length / tyBytes t) (bytesOfNat (defaultNan t) (tyBytes t))).flatten)
  else bs

/-- The accumulator that a malformed chunk, or one whose scales differ, sends as a raw record (R185, R47). -/
def spoiledAcc (r : SRun) (a : SAcc) : SAcc := if r.check != 0 || r.scaleBad then { a with nan := true } else a

/-- What an OUT sends: the bytes of a unit, its scale, the units, and the run (R181). -/
def outUnits (e : SEnv) (i : SIn) (ins : Word) (win : Option Window) (w : SWork) : Nat × Nat × List (List Byte) × SWork :=
  let src := siSrc ins
  if src = opndInp then
    (match i.cur with
    | none => (1, 127, [], w)
    | some p =>
      let a := siOp (accOf e.prog)
      let rec_ := envRecords e && (a == opMerge || a == opTopk)
      (envUnit e, p.scale, (pieceUnits e p).map (spoiled w.run e.ty rec_ (envRecords e && a == opSpsum)), w))
  else if src = opndAcc then
    let offs := accOffs e w i win
    (match accRecords e w i.ps ins offs with
    | some (n, rs, es) =>
      let list := accKind e.prog e.ty == .list
      let w1 := noteElems (if list then w else checkResidues e w offs) es
      let t := if list then e.ty else (siDt ins).getD .fp32
      (n, accScale e w ins, rs.map (spoiled w1.run t list (!list)), w1)
    | none =>
      let (t, sc, es) := operandElems e w i ins false none win
      let w1 := noteElems (checkResidues e w (es.map (·.off))) es
      (tyBytes t, if isFp8 t then sc else 127, es.map fun x => spoiled w1.run t false false (bytesOfNat x.fr.code (tyBytes t)), w1))
  else
    let t := (siTy ins).getD .fp32
    let u := if w.run.unit = 0 then tyBytes t else w.run.unit
    let offs := windowed (pieceWindow e i win) (List.range (ceilDiv w.run.high u))
    let pair := w.run.unit != 0 && w.run.pairs
    let rec_ := w.run.unit != 0 && !pair && siOp (accOf e.prog) != opGather
    let f := fun o => let bs := memRead w.run.res (o * u) u
      if w.run.sampled && decide (o * u < 16) then bs else spoiled w.run t rec_ pair bs
    (u, if isFp8 t then w.run.resScale else 127, offs.map f, w)

/-- Pieces cut from units (R159, R181); each unit carries the STAT at which it was taken. -/
def cutPieces (src cap scale : Nat) : Nat → Nat → List (List Byte × BitVec 8) → List Piece
  | 0, _, _ => []
  | fuel + 1, k, us =>
    let now := us.take cap
    let rest := us.drop cap
    let st := (now.getLast?.map (·.2)).getD 0
    { src := src, piece := k, last := rest.isEmpty, stat := st.toNat, scale := scale, nelem := now.length, data := (now.map (·.1)).flatten } ::
      (if rest.isEmpty then [] else cutPieces src cap scale fuel (k + 1) rest)

/-- OUT_SRC of a context (Table 6.3). -/
def envOutSrc (e : SEnv) : Nat := fld e.word 40 12

/-- A phase-0 OUT: one piece with the PIECE and LAST of the arriving piece (R181). -/
def runOut0 (e : SEnv) (i : SIn) (ins : Word) (w : SWork) : SWork :=
  match i.cur with
  | none => w
  | some p =>
    let (_, sc, us, w1) := outUnits e i ins none w
    let q : Piece := { src := envOutSrc e, piece := p.piece, last := p.last, stat := w1.run.stat.toNat, scale := sc, nelem := us.length, data := us.flatten }
    { w1 with eff := { w1.eff with out := w1.eff.out ++ [q], outRes := w1.eff.outRes ++ [p.last && siSrc ins == opndRes] } }

/-- The pieces of one contribution, `res` when it is read from RES. -/
def sendUnits (e : SEnv) (res : Bool) (u sc : Nat) (us : List (List Byte × BitVec 8)) (w : SWork) : SWork :=
  let ps := if us.isEmpty then
      [{ src := envOutSrc e, piece := 0, last := true, stat := w.run.stat.toNat, scale := sc, nelem := 0, data := [] : Piece }]
    else cutPieces (envOutSrc e) (pieceCap u) sc (us.length + 1) 0 us
  { w with eff := { w.eff with out := w.eff.out ++ ps, outRes := w.eff.outRes ++ ps.map fun p => res && p.last } }

/-- A phase-1 OUT outside a LOOP: one contribution (R181). -/
def runOut1 (e : SEnv) (i : SIn) (ins : Word) (w : SWork) : SWork :=
  let (u, sc, us, w1) := outUnits e i ins none w
  sendUnits e (siSrc ins == opndRes) u sc (us.map fun b => (b, w1.run.stat)) w1

/-- The records that TOPK and SAMPLE take of an operand. -/
def takeRecords (e : SEnv) (i : SIn) (ins : Word) (dense : Bool) (w : SWork) : List Ord × SWork :=
  let t := (siTy ins).getD .fp32
  if siSrc ins = opndAcc && accKind e.prog e.ty == .list then (w.run.kept, w)
  else if dense then
    let (_, _, es) := operandElems e w i ins false none none
    (es.map fun x => { score := x.fr.code, index := topkIndex e ins x.off, src := 0 }, noteElems (checkResidues e w (if siSrc ins = opndAcc then es.map (·.off) else [])) es)
  else if siSrc ins = opndRes then
    ((List.range (w.run.high / recBytes t)).map fun k => ordOf t 0 (memRead w.run.res (k * recBytes t) (recBytes t)), w)
  else ([], w)

/-- STAT.NAN_SCORE of a list (R177). -/
def noteNanScore (t : Ty) (l : List Ord) (w : SWork) : SWork :=
  if l.any fun o => (decodeVal t o.score).isNan then { w with run := { w.run with stat := w.run.stat ||| 0x20 } } else w

/-- A phase-1 TOPK (R178). -/
def runTopk1 (e : SEnv) (i : SIn) (ins : Word) (w : SWork) : SWork :=
  let t := (siTy ins).getD .fp32
  let (rs, w1) := takeRecords e i ins (siVar ins % 2 = 0) w
  let l := keepFirst t (insK ins) [] rs
  let w2 := noteNanScore t l w1
  let r := resWrite w2.run 0 (l.map (ordBytes t)).flatten
  { w2 with run := { r with unit := recBytes t, pairs := false, resScale := 127 } }

/-- The weights of the draw (R180): running sums in FP64, with flags. -/
def sampleSums (x0 q : Nat) : List Nat → Nat → Fl → List Nat × Fl
  | [], _, f => ([], f)
  | x :: r, acc, f =>
    let d := fSub .fp32 .nearest x x0
    let p := fMul .fp32 .nearest d.code q
    let y := exp32 p.code
    let skip := (decodeVal .fp32 x).isNan
    let w := if skip then 0 else y.code
    let a := fAdd .fp64 .nearest acc (widen32 w)
    let f1 := flOr f (if skip then a.fl else flOr (flOr d.fl p.fl) (flOr y.fl a.fl))
    let (l, f2) := sampleSums x0 q r a.code f1
    (a.code :: l, f2)

/-- sample(x, q) (R180): the position chosen, and the flags raised. -/
def samplePos (e : SEnv) (q : Nat) (xs : List Nat) : Nat × Fl :=
  let x0 := xs.getD 0 0
  let v0 := decodeVal .fp32 x0
  let vq := decodeVal .fp32 q
  if xs.length ≤ 1 || v0.isNan || v0.isInf || vq.isNan || vq.isInf || vq.isZero || vq.neg? then (0, {})
  else
    let (cs, f) := sampleSums x0 q xs 0 {}
    let u := draw (envSeed e) (envTid e) (BitVec.ofNat 64 e.step)
    let acc := cs.getLast?.getD 0
    let uf := (roundVal .fp64 .nearest false false u (-32)).code
    let t := fMul .fp64 .nearest uf acc
    ((findAt (fun c => cmpVals (decodeVal .fp64 c) (decodeVal .fp64 t.code) == .gt) cs).getD 0, flOr f t.fl)

/-- The place of the first record of a list that does not follow the one before it (R176). -/
def unorderedAt (t : Ty) (rs : List Ord) : Nat := ((findAt (fun x : Ord × Ord => !before t x.1 x.2) (rs.zip (rs.drop 1))).map (· + 1)).getD 0

/-- SAMPLE (R180, Table 6.10, R185). -/
def runSample (e : SEnv) (i : SIn) (ins : Word) (w : SWork) : SWork :=
  let (rs, w1) := takeRecords e i ins false w
  let w2 := if rs.length < 1 || 256 < rs.length then noteBad w1 0 5 else if !ordered .fp32 rs then noteBad w1 (unorderedAt .fp32 rs) 5 else w1
  let auxNat := fun (o n : Nat) => natOfBytes ((e.aux.drop o).take n)
  let nstop := min 16 (auxNat 0 4)
  let lim := auxNat 72 8
  let limit := lim != 0 && decide (lim ≤ e.step)
  let (pos, f) := samplePos e (fld (envC e (siCp ins)) 0 32) (rs.map (·.score))
  let o := rs.getD pos default
  let stop := (List.range nstop).any fun k => auxNat (4 + 4 * k) 4 == o.index
  let nan := (decodeVal .fp32 ((rs.map (·.score)).getD 0 0)).isNan
  let good := pack [(0, 32, o.index), (32, 32, o.score), (64, 8, pos), (96, 1, stop.toNat), (97, 1, limit.toNat), (98, 1, (stop || limit).toNat), (99, 1, nan.toNat)]
  let mal := pack [(0, 32, 0xFFFFFFFF), (32, 32, 0x7FC00000), (97, 1, limit.toNat), (98, 1, limit.toNat), (99, 1, 1)]
  let isBad := w2.run.check != 0
  let w3 := if isBad then w2 else noteFlags w2 0 f 0
  let r := resWrite w3.run 0 (bytesOfNat (if isBad then mal else good) 16)
  { w3 with run := { r with unit := 0, pairs := false, sampled := true } }

/-- EMIT (R181). -/
def runEmit (ins : Word) (w : SWork) : SWork :=
  if siVar ins = 0 then { w with eff := { w.eff with events := w.eff.events ++ [siImm ins % 16] } }
  else { w with eff := { w.eff with staged := some (BitVec.ofNat 128 (memNat w.run.res 0 16)) } }

/-- One phase-1 instruction outside OUT and LOOP. -/
def runOne (e : SEnv) (i : SIn) (ins : Word) (win : Option Window) (w : SWork) : SWork :=
  let op := siOp ins
  if op = opEmit then runEmit ins w
  else if op = opPass then runPass e i ins win w
  else if op = opCount then runCount e i ins win w
  else if op = opCvt then runCvt e i ins win w
  else if op = opFilter then runFilter e i ins win w
  else if op = opTopk then runTopk1 e i ins w
  else if op = opSample then runSample e i ins w
  else w

/-- What the OUTs of a LOOP body have gathered: by place in the body, the unit bytes, the scale and the units. -/
abbrev Held := List (Nat × Nat × Nat × List (List Byte × BitVec 8))

/-- Units gathered by the OUT at a place in the body. -/
def holdUnits (h : Held) (k u sc : Nat) (us : List (List Byte × BitVec 8)) : Held :=
  if h.any (fun x => x.1 == k) then h.map fun x => if x.1 = k then (k, u, sc, x.2.2.2 ++ us) else x else h ++ [(k, u, sc, us)]

/-- One iteration of a LOOP body (R181). -/
def runBody (e : SEnv) (i : SIn) (win : Window) : List (Word × Nat) → SWork × Held → SWork × Held
  | [], x => x
  | (ins, k) :: r, (w, h) =>
    if siOp ins = opOut then
      let (u, sc, us, w1) := outUnits e i ins (some win) w
      runBody e i win r (w1, holdUnits h k u sc (us.map fun b => (b, w1.run.stat)))
    else runBody e i win r (runOne e i ins (some win) w, h)

/-- The iterations of a LOOP, from the k-th on. -/
def runIters (e : SEnv) (i : SIn) (wd : Nat) (body : List (Word × Nat)) : Nat → Nat → SWork × Held → SWork × Held
  | 0, _, x => x
  | n + 1, k, x => runIters e i wd body n (k + 1) (runBody e i ⟨k * wd, wd⟩ body x)

/-- LOOP (R181): the body's OUTs each send one contribution. -/
def runSLoop (e : SEnv) (i : SIn) (ins : Word) (body : List Word) (w : SWork) : SWork :=
  let (w1, h) := runIters e i (siImm ins % 2 ^ 16) body.zipIdx (siImm ins / 2 ^ 21) 0 (w, [])
  h.foldl (fun t x => sendUnits e ((body[x.1]?).any fun o => siSrc o == opndRes) x.2.1 x.2.2.1 x.2.2.2 t) w1

/-- The instructions of phase 1, in program order (R170). -/
def runPhase1 (e : SEnv) (i : SIn) : Nat → List Word → SWork → SWork
  | 0, _, w => w
  | _, [], w => w
  | fuel + 1, ins :: r, w =>
    if siOp ins = opSLoop then
      let n := siImm ins / 2 ^ 16 % 32
      runPhase1 e i fuel (r.drop n) (runSLoop e i ins (r.take n) w)
    else if siOp ins = opOut then runPhase1 e i fuel r (runOut1 e i ins w)
    else runPhase1 e i fuel r (runOne e i ins none w)

/-- SUM takes a piece (R171). -/
def takeSum (e : SEnv) (p : Piece) (w : SWork) : SWork :=
  let base := pieceBase e p
  if e.raw then
    let us := pieceUnits e p
    let w1 := noteScale w e.ty p.scale
    { w1 with run := { w1.run with acc := us.zipIdx.foldl (fun t x => tblMod {} t (base + x.2) fun a => accJoin a (accOfRaw e.ty x.1)) w1.run.acc } }
  else
    match accKind e.prog e.ty with
    | .exact =>
      let w1 := noteScale w e.ty p.scale
      { w1 with run := { w1.run with acc := (pieceCodes e p).zipIdx.foldl (fun t x => tblMod {} t (base + x.2) fun a => accAdd e.ty a (decodeVal e.ty x.1)) w1.run.acc } }
    | .arrival =>
      (pieceCodes e p).zipIdx.foldl (fun t x =>
        let r := runAdd (tblGet none t.run.vals (base + x.2)) x.1
        noteFlags { t with run := { t.run with vals := tblSet none t.run.vals (base + x.2) (some r.code) } } (base + x.2) r.fl r.cause) w
    | _ => w

/-- MAX, MIN and AMAX take a piece (R173). -/
def takeExtreme (e : SEnv) (op : Nat) (p : Piece) (w : SWork) : SWork :=
  let base := pieceBase e p
  let w1 := noteScale w e.ty p.scale
  { w1 with run := { w1.run with
    vals := (pieceCodes e p).zipIdx.foldl (fun t x => tblMod none t (base + x.2) fun v => some (runExtreme op e.ty v x.1)) w1.run.vals } }

/-- SPSUM takes a piece (R172). -/
def takeSpsum (e : SEnv) (ins : Word) (p : Piece) (w : SWork) : SWork :=
  if e.raw then takeSum e p w
  else
    let lo := spsumLo e ins
    let base := pieceBase e p
    let w1 := noteScale w e.ty p.scale
    (pieceUnits e p).zipIdx.foldl (fun t x =>
      let (idx, c) := pairOf e.ty x.1
      if idx < lo || lo + insK ins ≤ idx then noteBad t (base + x.2) 4
      else
        match accKind e.prog e.ty with
        | .exact => { t with run := { t.run with
            acc := tblMod {} t.run.acc (idx - lo) fun a => { accAdd e.ty a (decodeVal e.ty c) with seen := true } } }
        | .arrival =>
          let r := runAdd (tblGet none t.run.vals (idx - lo)) c
          noteFlags { t with run := { t.run with vals := tblSet none t.run.vals (idx - lo) (some r.code) } } (idx - lo) r.fl r.cause
        | _ => t) w1

/-- A phase-0 TOPK takes a piece (R178). -/
def takeTopk (e : SEnv) (ins : Word) (p : Piece) (w : SWork) : SWork :=
  let rs := if envOrds e then (pieceUnits e p).map (ordOf e.ty p.src)
    else (pieceCodes e p).zipIdx.map fun x => { score := x.1, index := topkIndex e ins (pieceBase e p + x.2), src := p.src : Ord }
  { w with run := { w.run with kept := keepFirst e.ty (insK ins) w.run.kept rs } }

/-- GATHER takes a piece (R175). -/
def takeGather (e : SEnv) (ins : Word) (p : Piece) (w : SWork) : SWork :=
  let slot := siImm ins
  let off := p.piece * 4064
  let bs := (p.data.take (p.nelem * 8)).take (slot - off)
  let r := resWrite w.run (p.src * slot + off) bs
  { w with run := { r with high := max r.high (min 65536 (e.nsrc * slot)) } }

/-- One phase-0 instruction on a piece (R170). -/
def runPiece (e : SEnv) (i : SIn) (p : Piece) (w : SWork) (ins : Word) : SWork :=
  let op := siOp ins
  if op = opSum then takeSum e p w
  else if op = opMax || op = opMin || op = opAmax then takeExtreme e op p w
  else if op = opSpsum then takeSpsum e ins p w
  else if op = opTopk then takeTopk e ins p w
  else if op = opGather then takeGather e ins p w
  else if op = opOut then runOut0 e i ins w
  else if op = opPass || op = opCount || op = opCvt then runOne e i ins none w
  else w

/-- The phase-0 instructions of a program, and those of phase 1. -/
def phase0 (prog : List Word) : List Word := prog.filter fun w => !siPh w && siOp w != opIn
def phase1 (prog : List Word) : List Word := prog.filter siPh

/-- Phase 0 of one piece (R170). -/
def runPhase0 (e : SEnv) (i : SIn) (p : Piece) (w : SWork) : SWork :=
  (phase0 e.prog).foldl (runPiece e { i with cur := some p } p) w

/-- A MERGE in progress: where each run is read, the records kept, and the checks that failed. -/
structure MergeSt where
  /-- For each source: piece, record in it, and the last record read. -/
  at_ : List (Nat × Nat × Option Ord)
  kept : List Ord
  bad : List (Nat × Nat)
deriving DecidableEq, Repr, Inhabited

/-- The head of a run: blocked (a piece is missing), exhausted, or a record (R177). -/
inductive MHead where
  | blocked
  | exhausted
  | record (o : Ord)
deriving DecidableEq, Repr, Inhabited

/-- The head of source s at (piece, record). -/
def mergeHead (e : SEnv) (ps : List Piece) (src : Nat) : Nat → Nat × Nat → MHead × (Nat × Nat)
  | 0, x => (.exhausted, x)
  | fuel + 1, (k, r) =>
    match ps.find? fun p => p.src == src && p.piece == k with
    | none => (.blocked, (k, r))
    | some p =>
      match (pieceUnits e p)[r]? with
      | some u => (.record (ordOf e.ty src u), (k, r))
      | none => if p.last then (.exhausted, (k, r)) else mergeHead e ps src fuel (k + 1, 0)

/-- The first of the heads under R176, with its source. -/
def firstHead (t : Ty) : List (Nat × MHead) → Option (Nat × Ord) → Option (Nat × Ord)
  | [], a => a
  | (s, .record o) :: r, a =>
    firstHead t r (match a with
      | none => some (s, o)
      | some (s', o') => if before t o o' then some (s, o) else some (s', o'))
  | _ :: r, a => firstHead t r a

/-- The merge of the runs at hand (R177): whether it is complete, and what it kept. -/
def mergeRun (e : SEnv) (ps : List Piece) (k : Nat) : Nat → MergeSt → Bool × MergeSt
  | 0, m => (false, m)
  | fuel + 1, m =>
    if k ≤ m.kept.length then (true, m)
    else
      let hs := (List.range e.nsrc).map fun s =>
        let x := m.at_.getD s (0, 0, none)
        mergeHead e ps s 66 (x.1, x.2.1)
      if hs.any fun h => h.1 == .blocked then (false, m)
      else
        match firstHead e.ty ((List.range e.nsrc).zip (hs.map (·.1))) none with
        | none => (true, m)
        | some (s, o) =>
          let pos := (hs.getD s (.exhausted, (0, 0))).2
          let prev := (m.at_.getD s (0, 0, none)).2.2
          let bad := match prev with
            | some p => !before e.ty p o
            | none => false
          let m1 : MergeSt := {
            at_ := setAt m.at_ s (pos.1, pos.2 + 1, some o)
            kept := m.kept ++ [o]
            bad := if bad then m.bad ++ [(pos.1 * pieceCap (recBytes e.ty) + pos.2, 5)] else m.bad }
          mergeRun e ps k fuel m1

/-- The merge of a chunk from its pieces: complete or not, and its state. -/
def mergeOf (e : SEnv) (ps : List Piece) : Bool × MergeSt :=
  let k := insK (accOf e.prog)
  mergeRun e ps k (k + 1) { at_ := List.replicate e.nsrc (0, 0, none), kept := [], bad := [] }

/-- The pages of a chunk of n elements (Table 6.4). -/
def pagesOf (prog : List Word) (t : Ty) (n : Nat) : Nat :=
  let a := accOf prog
  let n := if siOp a = opSpsum then min n (insK a) else n
  match accKind prog t with
  | .exact => ceilDiv (n * (if narrowAcc t then 12 else 40)) 65536
  | .extreme => ceilDiv (n * (if t == .fp64 then 8 else 4)) 65536
  | .list => ceilDiv (2 * insK a * recBytes t) 65536
  | .tree | .arrival => if siOp a = opSpsum then 1 else 0
  | _ => 0

/-- A program keeps results in a comb buffer of its own (Table 6.4, R166). -/
def usesRes (prog : List Word) : Bool := prog.any fun w => siDst w == opndRes || siOp w == opAttnm

end Sys2Proof.Machine
end

