-- ==== Sys2Proof/Machine/Coll.lean ====
section
/-! DEFINITION. Collective groups and operations (09 R272-R288): fields, chunks, nodes, and what sources, nodes and
members send (assumption 41). -/

namespace Sys2Proof.Machine

/-- Fields of a group entry (Table 9.2). -/
def gpValid (w : BitVec 320) : Bool := flag w 0
def gpHier (w : BitVec 320) : Bool := flag w 1
def gpFlat (w : BitVec 320) : Bool := flag w 2
def gpCirc (w : BitVec 320) : Bool := flag w 3
def gpKey (w : BitVec 320) : Nat := fld w 4 12
def gpMyIdx (w : BitVec 320) : Nat := fld w 16 16
def gpN (w : BitVec 320) : Nat := fld w 32 15 + 1
def gpProg (w : BitVec 320) : Nat := fld w 47 8
def gpTy (w : BitVec 320) : Nat := fld w 55 3
def gpNl (w : BitVec 320) : Nat := fld w 58 2 + 1
def gpCe (w : BitVec 320) : Nat := fld w 64 14 + 1
def gpBlk (w : BitVec 320) : Nat := 2 ^ fld w 78 3
def gpTimeout (w : BitVec 320) : Nat := let t := fld w 96 32; if t = 0 then 100000 else t
def gpMlist (w : BitVec 320) : Nat := fld w 128 64
def gpCmap (w : BitVec 320) : Nat := fld w 192 64
def gpMcg (w : BitVec 320) : Nat := fld w 256 12

/-- Fields of an issue record (Table 9.3). -/
def irGid (r : BitVec 320) : Nat := fld r 0 12
def irOp (r : BitVec 320) : Nat := fld r 12 3
def irLsrc (r : BitVec 320) : Nat := fld r 15 2
def irRoot (r : BitVec 320) : Nat := fld r 17 15
def irCount (r : BitVec 320) : Nat := fld r 32 32
def irSrc (r : BitVec 320) : Nat := fld r 64 64
def irDst (r : BitVec 320) : Nat := fld r 128 64
def irSeg (r : BitVec 320) : Nat := fld r 192 32
def irSem (r : BitVec 320) : Nat := fld r 224 6
def irCmask (r : BitVec 320) : BitVec 32 := BitVec.ofNat 32 (fld r 256 32)

/-- The entry of group g. -/
def groupOf (s : State) (g : Nat) : BitVec 320 := tblGet 0 s.coll.groups g

/-- The ids that a group occupies (R276): g, g + 1 for the top nodes when HIER is set, and the delivery context. -/
def groupIds (g : Nat) (w : BitVec 320) : List Nat := if gpHier w then [g, g + 1, g + 2] else [g, g + 1]

/-- The delivery context of group g (R276). -/
def deliveryCtx (g : Nat) (w : BitVec 320) : Nat := g + (if gpHier w then 2 else 1)

/-- Bytes of a source's input elements (R272, Table 6.2). -/
def inUnit (prog : List Word) (t : Ty) (op : Nat) : Nat :=
  let a := accOf prog
  if op = 1 || op = 4 then tyBytes t
  else if siOp a = opSpsum then pairBytes t
  else if siOp a = opMerge || (siOp a = opTopk && siVar a % 2 = 1) then recBytes t
  else tyBytes t

/-- Chunks of one segment of REDUCE_SCATTER and ALL_GATHER (R283). -/
def perSeg (w r : BitVec 320) : Nat := ceilDiv (irSeg r) (gpCe w)

/-- Elements of segment i (Table 9.1). -/
def segLen (r : BitVec 320) (i : Nat) : Nat :=
  if irOp r = 3 then min (irCount r) ((i + 1) * irSeg r) - min (irCount r) (i * irSeg r) else irSeg r

/-- The chunks of an operation (R283). -/
def chunkCount (w r : BitVec 320) : Nat :=
  if irOp r = 3 then
    let full := min (gpN w) (irCount r / irSeg r)
    full * perSeg w r + (if full < gpN w then ceilDiv (segLen r full) (gpCe w) else 0)
  else if irOp r = 4 then gpN w * perSeg w r
  else ceilDiv (irCount r) (gpCe w)

/-- Where chunk c of an operation lies: its segment, its first element in it, and its elements (R283). -/
def chunkSpan (w r : BitVec 320) (c : Nat) : Nat × Nat × Nat :=
  if irOp r = 3 || irOp r = 4 then
    let p := max 1 (perSeg w r)
    let k := c % p * gpCe w
    (c / p, k, min (gpCe w) (segLen r (c / p) - k))
  else (0, c * gpCe w, min (gpCe w) (irCount r - c * gpCe w))

/-- The chunks for which a local source of this member sends pieces: from lo to hi - 1 (R272). -/
def supplied (w r : BitVec 320) : Nat × Nat :=
  if irOp r = 1 then (if gpMyIdx w = irRoot r && irLsrc r = 0 then (0, chunkCount w r) else (0, 0))
  else if irOp r = 4 then
    (if irLsrc r = 0 then (gpMyIdx w * perSeg w r, (gpMyIdx w + 1) * perSeg w r) else (0, 0))
  else (0, chunkCount w r)

/-- Whether member m receives the result of chunk c (Table 9.1). -/
def receives (w r : BitVec 320) (c m : Nat) : Bool :=
  if irOp r = 2 then m == irRoot r
  else if irOp r = 3 then m == (chunkSpan w r c).1
  else true

/-- The operations of a group that a sequence number names here, one for each local source. -/
def opsOf (s : State) (g seq : Nat) : List COp := s.coll.ops.filter fun o => o.gid == g && o.seq == seq

/-- Whether two operations are the same. -/
def sameOp (a b : COp) : Bool := a.gid == b.gid && a.seq == b.seq && a.lsrc == b.lsrc

/-- The state with an operation changed. -/
def modOp (s : State) (o : COp) (f : COp → COp) : State :=
  { s with coll := { s.coll with ops := modWhere (sameOp o) f s.coll.ops } }

/-- A status other than OK of source l of group g. -/
def putResult (s : State) (g l seq st : Nat) : State :=
  { s with coll := { s.coll with results := tblSet none s.coll.results (4 * g + l) (some (seq, st)) } }

/-- An operation leaves the engine. -/
def dropOp (s : State) (o : COp) : State := { s with coll := { s.coll with ops := eraseFirst (sameOp o) s.coll.ops } }

/-- An operation completes (R288): its semaphore rises by 1 in every cluster of CMASK (05 R145). -/
def completeOp (s : State) (o : COp) : State :=
  (maskClusters s (irCmask o.word)).foldl (fun t c => modQueen t c fun x =>
    { x with sem := tblSet 0 x.sem (irSem o.word) (semSum (tblGet 0 x.sem (irSem o.word)) 1) }) (dropOp s o)

/-- An operation that belongs to the step in progress. -/
def opInStep (s : State) (o : COp) : Bool := (stepOf s (gpKey (groupOf s o.gid))).isSome && o.inStep

/-- An operation meets a bad rank or address (R237, 11 R312): BAD_ARG ends the step without replay, and outside a step it is the
status with which the operation completes (assumption 105). -/
def opsFail (s : State) (g seq ecause addr : Nat) : State :=
  let ops := opsOf s g seq
  if ops.any (opInStep s) then failStep s { status := Status.badArg.code, ecause := ecause, addr := addr }
  else ops.foldl (fun t o => completeOp (putResult t g o.lsrc seq Status.badArg.code) o) s

/-- A word of MLIST or CMAP as an operation reads it (R237, 11 R312, R316, R325). -/
def opTable (s : State) (g seq a : Nat) : Option Nat × State :=
  tableRead s a 2 ((opsOf s g seq).any (opInStep s)) fun t => opsFail t g seq 2 a

/-- Something goes to member m of a group, whose rank is translated first (R237, Table 9.2). -/
def toMember (s : State) (g seq m : Nat) (send : State → Nat → State) : State :=
  let w := groupOf s g
  match opTable s g seq (gpMlist w + 2 * m) with
  | (none, s1) => s1
  | (some r, s1) =>
    match rankEid s1 (gpKey w) r with
    | none => opsFail s1 g seq 0 0
    | some e => send s1 e

/-- Members of block b (Table 9.4). -/
def blockSize (w : BitVec 320) (b : Nat) : Nat := min (gpBlk w) (gpN w - b * gpBlk w)

/-- Blocks of a group. -/
def blockCount (w : BitVec 320) : Nat := ceilDiv (gpN w) (gpBlk w)

/-- The top node of chunk c (Table 9.4, R283, R287). -/
def topNode (w r : BitVec 320) (flat : Bool) (c : Nat) : Nat :=
  if flat then (if irOp r = 1 || irOp r = 2 then irRoot r else 0)
  else if irOp r = 2 then irRoot r
  else if irOp r = 3 then (chunkSpan w r c).1
  else c % max 1 (blockSize w 0)

/-- The first-level node of chunk c for block b (Table 9.4, R287); without HIER it is the top node. -/
def firstNode (w r : BitVec 320) (flat : Bool) (b c : Nat) : Nat :=
  if !gpHier w then topNode w r flat c
  else if flat then b * gpBlk w
  else b * gpBlk w + c % max 1 (blockSize w b)

/-- The source index of a local source of member m in the first-level context (R276). -/
def sourceIndex (w : BitVec 320) (m l : Nat) : Nat := (if gpHier w then m % gpBlk w else m) * gpNl w + l

/-- The flat algorithm runs (Table 9.5). -/
def runsFlat (s : State) (g : Nat) : Bool := s.dev.mode != .active || tblGet false s.coll.flat g

/-- The stream prefix and the data of a piece (Table 6.1). -/
def piecePayload (ctx seq chunk : Nat) (p : Piece) : List Byte :=
  bytesOfWords [
    packW [(0, 12, ctx), (16, 16, chunk), (32, 12, p.src), (44, 1, p.last.toNat), (48, 8, p.scale), (56, 8, p.stat)],
    packW [(0, 32, seq), (32, 6, p.piece), (40, 12, p.nelem)]] ++ p.data

/-- Where a piece goes; a circuit with the EID at its end. -/
inductive Dest where
  | eid (e : Nat)
  | group (g : Nat)
  | circuit (id last : Nat)
  | own (internal : Nat)
deriving DecidableEq, Repr, Inhabited

/-- Something goes by entry k of CMAP, or, where the group uses no circuits or the entry names none, another way (R276). -/
def byCircuit (s : State) (g seq : Nat) (w : BitVec 320) (k : Nat) (send : State → Nat → State) (other : State → State) : State :=
  if !gpCirc w then other s
  else
    match opTable s g seq (gpCmap w + 2 * k) with
    | (none, s1) => s1
    | (some x, s1) => if x.testBit 15 then send s1 (x % 4096) else other s1

/-- A stream or event frame to a destination; on TC6 of a circuit for collectives, else of the class given. -/
def streamFrame (s : State) (key cls op seq : Nat) (d : Dest) (payload : List Byte) : Frame :=
  let me := s.dev.eid.toNat
  let st := stepField s key
  match d with
  | .eid e => mkFrame cls key 0 op e me 0 st seq false 0 payload
  | .group g => mkFrame cls key 1 op g me 0 st seq false 0 payload
  | .circuit id last => mkFrame cls key 2 op last me (id % 4096) st seq false 0 payload
  | .own _ => mkFrame cls key 0 op me me 0 st seq false 0 payload

/-- A frame leaves physical unit u (R181, 07 R206, R461): by the input of its logical unit, charged to its own account. -/
def unitSend (s : State) (u key cls op : Nat) (d : Dest) (payload : List Byte) : State :=
  let f := streamFrame s key cls op s.su.frameSeq.toNat d payload
  let out := match d with
    | .own i => some (64 + i)
    | _ => none
  { s with
    su := { s.su with frameSeq := s.su.frameSeq + 1 }
    comb := { s.comb with orig := s.comb.orig ++ [{ input := 81 + logicalUnit s u, owner := 648 + u, frame := f, toOut := out }] } }

/-- A piece that a collective sends by a unit: TC6 on a circuit, TC5 otherwise (R286, R287). -/
def collSend (s : State) (u key ctx seq chunk : Nat) (p : Piece) (d : Dest) : State :=
  let cls := match d with
    | .circuit _ _ => 6
    | _ => 5
  unitSend s u key cls 5 d (piecePayload ctx seq chunk p)

/-- A frame that a local source sends (Table 9.4): through its die's four internal ports in rotation, with the engine's next SEQ. -/
def sourceOut (s : State) (lsrc : Nat) (mk : Nat → Frame) : State :=
  let n := s.coll.writeSeq
  let k := tblGet 0 s.coll.turns lsrc
  originateDie { s with coll := { s.coll with writeSeq := n + 1, turns := tblSet 0 s.coll.turns lsrc ((k + 1) % 4) } } lsrc k (mk (n % 2 ^ 32))

/-- A piece that a local source sends (Table 9.4, 11 R313). -/
def sourceSend (s : State) (lsrc key ctx seq chunk : Nat) (p : Piece) (d : Dest) : State :=
  let cls := match d with
    | .circuit _ _ => 6
    | _ => 5
  sourceOut s lsrc fun n => streamFrame s key cls 5 n d (piecePayload ctx seq chunk p)

/-- A credit (R280). -/
def creditPiece : Piece := { src := 0, piece := 0, last := true, stat := 0, scale := 127, nelem := 0, data := [] }

/-- What a local source contributes to chunk c (Table 9.1, R283): where its bytes begin, how many they are, and how many zeros follow. -/
def sourceSpan (s : State) (w r : BitVec 320) (c : Nat) : Nat × Nat × Nat :=
  let u := inUnit (progOf s (gpProg w)) ((tyOf (gpTy w)).getD .fp32) (irOp r)
  let (seg, k, n) := chunkSpan w r c
  let first := if irOp r = 3 then seg * irSeg r + k else k
  let real := if irOp r = 4 then min n (irCount r - k) else n
  ((irSrc r + first * u) % 2 ^ 64, real * u, (n - real) * u)

/-- The SCALE of a source's pieces (Table 6.1): one open value for FP8 (assumption 44), so that the bits do not depend on chunks
and algorithm (R274); 0x7F otherwise. -/
def sourceScale (t : Ty) : Nat := if isFp8 t then Config.openValue 44 [] % 256 else 127

/-- Where the pieces of a local source go for chunk c (Table 9.4, R276, R286): the context, the source index and the destination.
A member that is the node itself needs no circuit (assumption 104). -/
def toNode (s : State) (o : COp) (c : Nat) (send : State → Nat → Nat → Dest → State) : State :=
  let g := o.gid
  let w := groupOf s g
  let flat := runsFlat s g
  let m := gpMyIdx w
  let src := sourceIndex w m o.lsrc
  if irOp o.word = 1 && !flat then send s (deliveryCtx g w) 0 (.group ((gpMcg w + 32) % 4096))
  else
    let node := firstNode w o.word flat (m / gpBlk w) c
    let route := fun t : State => toMember t g o.seq node fun t e => send t g src (.eid e)
    if flat || node == m then route s
    else byCircuit s g o.seq w (32 * (m % gpBlk w) + node % gpBlk w)
      (fun t id => toMember t g o.seq node fun t e => send t g src (.circuit id e)) route

/-- A local source sends the pieces of chunk c (R283). -/
def sendData (s : State) (o : COp) (c : Nat) (bs : List Byte) : State :=
  let w := groupOf s o.gid
  let t := (tyOf (gpTy w)).getD .fp32
  let u := inUnit (progOf s (gpProg w)) t (irOp o.word)
  toNode s o c fun s1 ctx src d =>
    let us := (unitsOf u (bs.length / u) bs).map fun b => (b, 0#8)
    let ps := if us.isEmpty then [{ creditPiece with src := src }] else cutPieces src (pieceCap u) (sourceScale t) (us.length + 1) 0 us
    ps.foldl (fun q p => sourceSend q o.lsrc (gpKey w) ctx o.seq c p d) s1

/-- MREAD frames for a source's bytes that another die owns (11 R313, R333), none across a 4 KiB boundary. -/
def requestData (s : State) (o : COp) (c a : Nat) : Nat → Nat → State
  | _, 0 => s
  | 0, _ => s
  | n, fuel + 1 =>
    let k := min n (4096 - a % 4096)
    let key := gpKey (groupOf s o.gid)
    let me := s.dev.eid.toNat
    let s1 := modOp s o fun x => { x with reads := x.reads ++ [{ seq := s.coll.writeSeq % 2 ^ 32, chunk := c, left := k }] }
    let s2 := sourceOut s1 o.lsrc fun q =>
      mkFrame 5 key 0 3 me me engineNo (stepField s key) q false (BitVec.ofNat 64 a) (bytesOfWords [BitVec.ofNat 64 k, 0])
    requestData s2 o c (a + k) (n - k) fuel

/-- A local source reads what it contributes to chunk c and sends it (R283): at once on its own die, by frames from another
(11 R313). An address that does not exist is a program fault (11 R312). -/
def sendChunk (s : State) (o : COp) (c : Nat) : State :=
  let (a, n, z) := sourceSpan s (groupOf s o.gid) o.word c
  if n = 0 then sendData s o c (List.replicate z 0)
  else if addrFault s a n != 0 || nfld a 40 3 == 3 then opsFail s o.gid o.seq 2 a
  else if dieOfAddr s a != o.lsrc || dieOfAddr s (a + (n - 1)) != o.lsrc then requestData s o c a n (n / 4096 + 2)
  else if metaBad s a n then safeEntry s .metadata a
  else
    match spaceRead (metaFix s a n) a n with
    | (none, s1) => readFailed s1 a n none (opInStep s1 o)
    | (some bs, s1) => sendData s1 o c (bs ++ List.replicate z 0)

/-- Read data reach the source that asked (11 R333): with the chunk's last bytes it sends its pieces. -/
def collData (s : State) (f : Frame) : State :=
  match s.coll.ops.find? fun o => o.reads.any fun r => r.seq == frmSeq f with
  | none => s
  | some o =>
    let reads := modWhere (fun r => r.seq == frmSeq f) (fun r => { r with left := r.left - f.payload.length, data := r.data ++ f.payload.take r.left }) o.reads
    let c := ((reads.find? fun r => r.seq == frmSeq f).map (·.chunk)).getD 0
    let mine := reads.filter fun r => r.chunk == c
    if mine.any fun r => r.left != 0 then modOp s o fun x => { x with reads := reads }
    else
      let (_, _, z) := sourceSpan s (groupOf s o.gid) o.word c
      sendData (modOp s o fun x => { x with reads := reads.filter fun r => r.chunk != c }) o c (mine.flatMap (·.data) ++ List.replicate z 0)

/-- Chunks of a source's operations before chunk c of operation o. -/
def chunksTo (w : BitVec 320) (o : COp) (c : Nat) : List COp → Nat
  | [] => 0
  | x :: r => if sameOp x o then c else chunkCount w x.word + chunksTo w o c r

/-- How far chunk c of operation o lies behind the first chunk, over the source's operations in their order, whose result or
credit has not come (R280). -/
def ahead (w : BitVec 320) (o : COp) (c : Nat) : List COp → Nat
  | [] => 0
  | x :: r =>
    let same := sameOp x o
    let n := if same then c else chunkCount w x.word
    match (List.range n).find? fun k => !x.done.contains k with
    | some k => n - k + (if same then 0 else chunksTo w o c r)
    | none => if same then 0 else ahead w o c r

/-- A local source sends what its window allows (R280, R287): of three consecutive chunks, or of one under the flat algorithm, so
that it never holds more of them outstanding. -/
def pump (s : State) (g lsrc : Nat) : Nat → State
  | 0 => s
  | fuel + 1 =>
    let w := groupOf s g
    let mine := s.coll.ops.filter fun o => o.gid == g && o.lsrc == lsrc
    match mine.find? fun o => decide (o.nextChunk < (supplied w o.word).2) with
    | none => s
    | some o =>
      if (if runsFlat s g then 1 else 3) ≤ ahead w o o.nextChunk mine then s
      else pump (sendChunk (modOp s o fun x => { x with nextChunk := x.nextChunk + 1 }) o o.nextChunk) g lsrc fuel

/-- The result pieces of a top node go to the members (R276, R280, R286, R287). -/
def sendResult (s : State) (u g : Nat) (w r : BitVec 320) (seq c : Nat) (ps : List Piece) : State :=
  let flat := runsFlat s g
  let d := deliveryCtx g w
  let key := gpKey w
  let ps := ps.map fun p => { p with src := 0 }
  let all := irOp r != 2 && irOp r != 3
  if all && !flat then
    let j := topNode w r flat c % gpBlk w
    let send := fun (t : State) (dest : Dest) => ps.foldl (fun t p => collSend t u key d seq c p dest) t
    byCircuit s g seq w (1024 + j) (fun t id => send t (.circuit id (circuitEnd id))) fun t => send t (.group ((gpMcg w + j) % 4096))
  else
    (List.range (gpN w)).foldl (fun t m => toMember t g seq m fun t e =>
      (if receives w r c m then ps else [creditPiece]).foldl (fun q p => collSend q u key d seq c p (.eid e)) t) s

/-- The partial of a first-level node goes to the top node (R284, R285). -/
def sendUp (s : State) (u g : Nat) (w r : BitVec 320) (seq c : Nat) (ps : List Piece) : State :=
  toMember s g seq (topNode w r (runsFlat s g) c) fun t e =>
    ps.foldl (fun t p => collSend t u (gpKey w) (g + 1) seq c { p with src := gpMyIdx w / gpBlk w } (.eid e)) t

/-- The partial of a chunk as it goes up (R284): raw records of exact sums, and plain values or records otherwise; NaN
throughout from a malformed chunk (R185). -/
def partialPieces (e : SEnv) (i : SIn) (w : SWork) : List Piece :=
  let ins := setFld (accOf e.prog) 10 3 (tyCode e.ty)
  let put := fun (u : Nat) (us : List (List Byte)) =>
    if us.isEmpty then [{ creditPiece with stat := w.run.stat.toNat }]
    else cutPieces 0 (pieceCap u) (chunkScale e w) (us.length + 1) 0 (us.map fun b => (b, w.run.stat))
  let offs := accOffsets e w i.ps i.got
  match accKind e.prog e.ty with
  | .exact =>
    let n := if siOp ins = opSpsum then List.range (insK ins) else offs
    put (rawBytes e.ty) (n.map fun o => rawOf e.ty (spoiledAcc w.run (tblGet {} w.run.acc o)))
  | .attn => put 4 ((headCodes (attnRoot e i.ps false)).map fun c => spoiled w.run .fp32 false false (bytesOfNat c 4))
  | _ =>
    match accRecords e w i.ps ins offs with
    | some (u, rs, _) => put u (rs.map (spoiled w.run e.ty (accKind e.prog e.ty == .list) (siOp ins == opSpsum)))
    | none => put (tyBytes e.ty) ((accElems e w i.ps ins false none offs).map fun x => spoiled w.run e.ty false false (bytesOfNat x.fr.code (tyBytes e.ty)))

/-- The engine's MWRITE frames for a result (R288): at most 4,096 B, none across a 4 KiB boundary. -/
def resultWrites (s : State) (o : COp) (key : Nat) (a : Nat) : List Byte → Nat → State
  | [], _ => s
  | _, 0 => s
  | bs, fuel + 1 =>
    let k := 4096 - a % 4096
    let n := s.coll.writeSeq
    let f := mkFrame 5 key 0 1 s.dev.eid.toNat s.dev.eid.toNat engineNo (stepField s key) (n % 2 ^ 32) true (BitVec.ofNat 64 a) (bs.take k)
    let s1 := modOp { s with coll := { s.coll with writeSeq := n + 1 } } o fun x => { x with acks := x.acks ++ [n % 2 ^ 32] }
    resultWrites (originateColl s1 f) o key (a + k) (bs.drop k) fuel

/-- Where the result of chunk c goes in a member's memory, in elements from DST_ADDR (Table 9.1). -/
def resultOffset (w r : BitVec 320) (c : Nat) : Nat :=
  let (seg, k, _) := chunkSpan w r c
  if irOp r = 4 then seg * irSeg r + k else k

/-- A chunk's result or credit has reached this member's delivery context (R288): it is written for every local source,
and each goes on. -/
def delivered (s : State) (g seq c : Nat) (ps : List Piece) : State :=
  let w := groupOf s g
  (opsOf s g seq).foldl (fun t o =>
    let t1 := modOp t o fun x => { x with done := if x.done.contains c then x.done else x.done ++ [c] }
    let bs := ps.flatMap (·.data)
    let n := (ps.map (·.nelem)).foldl (· + ·) 0
    let t2 := if receives w o.word c (gpMyIdx w) && n != 0 then
        let a := irDst o.word + resultOffset w o.word c * (bs.length / n)
        if addrFault t1 a bs.length != 0 then opsFail t1 g seq 2 a else resultWrites t1 o (gpKey w) a bs (bs.length / 2048 + 2)
      else t1
    pump t2 g o.lsrc 4) s

end Sys2Proof.Machine
end

