-- ==== Sys2Proof/Machine/Stream.lean ====
section
/-! DEFINITION. The stream compute units: how a piece is taken, run and answered, and their timeouts, patrols and
retirement (06 R155-R195; 09 R280-R285, R288). -/

namespace Sys2Proof.Machine

/-- Where a context's results go (Table 6.3). -/
def cxtDest (x : Ctx) : Dest :=
  let d := fld x.word 64 16
  match fld x.word 80 2 with
  | 0 => .eid d
  | 1 => .group (d % 4096)
  | 2 => .circuit (d % 4096) (circuitEnd (d % 4096))
  | _ => .own (d % 16)

/-- What a context of a group is for (R276). -/
inductive Role where
  | node | top | delivery
deriving DecidableEq, Repr, Inhabited

/-- The group, its entry and the role of a group's context. -/
def roleOf (s : State) (ctx : Nat) (x : Ctx) : Option (Nat × BitVec 320 × Role) :=
  x.group.map fun g =>
    let w := groupOf s g
    (g, w, if ctx = deliveryCtx g w then .delivery else if ctx = g then .node else .top)

/-- The step's sequence number within the run, as the TG3 supplies it (R180); outside a step the spec gives none
(assumption 42). -/
def runStep (s : State) (key : Nat) : Nat :=
  match s.job.launch, stepOf s key with
  | some l, some st => st.seq - l.firstSeq + 1
  | _, _ => Config.openValue 42 [key]

/-- What a chunk of a context runs with. -/
def envOf (s : State) (ctx : Nat) (x : Ctx) (seq chunk : Nat) : SEnv :=
  let prog := progOf s (cxtProg x)
  let part := match roleOf s ctx x with
    | some (_, _, .top) => true
    | _ => false
  { ctx := ctx, word := x.word, ty := cxtTy x, nsrc := cxtNsrc x, prog := prog, chunk := chunk, seq := seq, aux := x.aux
    step := runStep s x.pkey, part := part, raw := part && accKind prog (cxtTy x) == .exact }

/-- A chunk is named by its context, sequence number and chunk index, on the unit that runs it. -/
def isChunk (c q k u : Nat) (x : Chunk) : Bool := x.ctx == c && x.seq == q && x.chunk == k && x.unit == u

/-- The state with a chunk's entry replaced. -/
def putChunk (s : State) (c : Chunk) : State :=
  { s with su := { s.su with chunks := modWhere (isChunk c.ctx c.seq c.chunk c.unit) (fun _ => c) s.su.chunks } }

/-- A chunk's entry and everything that it holds are given up. -/
def closeChunk (s : State) (c : Chunk) : State :=
  let s1 := (c.bufs ++ c.nodes.map (·.handle)).foldl returnBuf s
  { s1 with su := { s1.su with chunks := eraseFirst (isChunk c.ctx c.seq c.chunk c.unit) s1.su.chunks } }

/-- The most elements that a source of an element stream delivers: IN's limit, or the window's for raw records of SPSUM. -/
def elemLimit (e : SEnv) : Nat := if e.raw && siOp (accOf e.prog) = opSpsum then insK (accOf e.prog) else envLimit e

/-- The checks of Table 6.11 that a piece fails. -/
def pieceChecks (e : SEnv) (p : Piece) : List Nat :=
  let u := envUnit e
  let cap := pieceCap u
  let elem := !envRecords e
  let a := accOf e.prog
  let stop := p.piece * cap + p.nelem
  (if e.nsrc ≤ p.src || p.rsv || (elem && elemLimit e ≤ p.piece * cap) then [1] else []) ++
  (if p.data.length != p.nelem * u || (p.nelem == 0 && !(p.last && p.piece == 0)) || (!p.last && p.nelem != cap) ||
    (elem && elemLimit e < stop) then [2] else []) ++
  (if p.scale != 127 && !isFp8 e.ty then [3] else []) ++
  (if siOp a = opGather && siImm a < p.piece * 4064 + p.nelem * 8 then [6] else []) ++
  (if siOp a = opAttnm && p.last && stop != attnH a * (attnD a + 2) then [7] else [])

/-- The checks of a piece are noted at its first element. -/
def noteChecks (e : SEnv) (p : Piece) (w : SWork) : SWork :=
  (pieceChecks e p).foldl (fun t k => noteBad t (pieceBase e p % 16384) k) w

/-- Every source has delivered every piece up to and including its LAST piece (R182). -/
def allIn (nsrc : Nat) (got : List (Nat × Nat × Bool × Nat)) : Bool :=
  (List.range nsrc).all fun s =>
    let mine := got.filter fun g => g.1 == s
    mine.any fun g => g.2.2.1 && (List.range g.2.1).all fun k => mine.any fun h => h.2.1 == k

/-- The elements that each source delivered (R182, Table 6.11). -/
def sourceLens (nsrc : Nat) (got : List (Nat × Nat × Bool × Nat)) : List Nat :=
  (List.range nsrc).map fun s => ((got.filter fun g => g.1 == s).map (·.2.2.2)).foldl (· + ·) 0

/-- The pieces of a run that a MERGE has read (R177): those up to where its head was last needed. -/
def mergeRead (e : SEnv) (ps : List Piece) (m : MergeSt) (src : Nat) : Nat :=
  let (k, r, _) := m.at_.getD src (0, 0, none)
  let lastSrc := m.kept.getLast?.map (·.src)
  if decide (insK (accOf e.prog) ≤ m.kept.length) && lastSrc == some src then k else (mergeHead e ps src 66 (k, r)).2.1

/-- What the completion of phase 0 finds out about a chunk (R171, R177, R179, R185, Table 6.11); at a node whose partial goes up
nothing is divided (09 R284). -/
def noteCompletion (e : SEnv) (c : Chunk) (up : Bool) (w : SWork) : SWork :=
  let lens := sourceLens e.nsrc c.got
  let w1 := if !envRecords e && lens.any (· != lens.getD 0 0) then noteBad w (lens.foldl min (lens.getD 0 0) % 16384) 2 else w
  match accKind e.prog e.ty with
  | .tree => noteElems w1 (accElems e w1 c.pieces (setFld (accOf e.prog) 10 3 (tyCode .fp64)) false none (accOffsets e w1 c.pieces c.got))
  | .attn =>
    (attnRoot e c.pieces (!up)).foldl (fun t h =>
      let t1 := noteFlags t 0 h.fl 0
      { t1 with eff := { t1.eff with occ := t1.eff.occ ++ h.occ.map fun x => (x.1, x.2, 0) } }) w1
  | .list =>
    if siOp (accOf e.prog) = opMerge then
      let (_, m) := mergeOf e c.pieces
      let read := c.pieces.filter fun p => decide (p.src < e.nsrc) && decide (p.piece ≤ mergeRead e c.pieces m p.src)
      let w2 := read.foldl (fun t p => noteChecks e p t) w1
      let w3 := m.bad.foldl (fun t b => noteBad t (b.1 % 16384) b.2) w2
      noteNanScore e.ty m.kept { w3 with run := { w3.run with kept := m.kept } }
    else noteNanScore e.ty w1.run.kept w1
  | _ => w1

/-- The pieces that a MERGE leaves unread at its completion (R177). -/
def unreadPieces (e : SEnv) (c : Chunk) : Nat :=
  if siOp (accOf e.prog) = opMerge then
    let (_, m) := mergeOf e c.pieces
    (c.pieces.filter fun p => !(decide (p.src < e.nsrc) && decide (p.piece ≤ mergeRead e c.pieces m p.src))).length
  else 0

/-- A chunk is complete in phase 0 (R182, R177). -/
def phase0Done (e : SEnv) (c : Chunk) : Bool :=
  if siOp (accOf e.prog) = opMerge then (mergeOf e c.pieces).1 else allIn e.nsrc c.got

/-- Pieces whose data a program needs beyond phase 0. -/
def keepsPieces (e : SEnv) : Bool :=
  match accKind e.prog e.ty with
  | .tree | .attn => true
  | .list => siOp (accOf e.prog) == opMerge
  | _ => false

/-- An occurrence reaches the unit's locator (R190): the lowest (SEQ, CTX, CHUNK, ELEMENT) stands. -/
def latchSloc (u logical ctx seq chunk : Nat) (t : Tbl Sloc) (o : Nat × Nat × Nat) : Tbl Sloc :=
  let x : Sloc := {
    s0 := packW [(0, 32, seq), (32, 12, ctx), (44, 16, chunk), (60, 4, o.2.1)]
    s1 := packW [(0, 14, o.1), (14, 5, logical), (19, 3, o.2.2), (22, 1, 1)] }
  tblMod {} t u fun old => if flag old.s1 22 && decide (slocKey old ≤ slocKey x) then old else x

/-- The pieces in the switch core's queue of a unit, those on circuits (08 R253) and in its egress stage among them, are discarded,
each counted STREAM_UNIT_DOWN (R195). -/
def dropUnitQueue (s : State) (u : Nat) : State :=
  let o := 81 + logicalUnit s u
  let ids := (s.comb.queues.filter fun e => e.1 / 8 % 113 == o).flatMap (·.2) ++ (s.comb.circuitQ.filter fun e => e.1 % 113 == o).flatMap (·.2) ++
    (tblGet {} s.comb.egress o).copies.map (·.frame)
  let s1 := { s with comb := { s.comb with
    queues := s.comb.queues.filter fun e => e.1 / 8 % 113 != o
    circuitQ := s.comb.circuitQ.filter fun e => e.1 % 113 != o
    egress := tblMod {} s.comb.egress o fun e => { e with copies := [] } } }
  ids.foldl (fun t id => decRef (count t .streamUnitDown u) id o) s1

/-- A unit fails (R192, R193, R195): its chunks are freed, what is queued to it is discarded, and the step is poisoned. -/
def unitFails (s : State) (u : Nat) : State :=
  if s.su.failed.contains u || s.su.retired.contains u then s
  else
    let mine := s.su.queue.filter fun e => e.1 == u
    let s0 := dropUnitQueue (countN s .streamUnitDown u mine.length) u
    let s1 := raisePoison { s0 with su := { s0.su with queue := s0.su.queue.filter fun e => e.1 != u } } .unitFail
    let cs := s1.su.chunks.filter fun c => c.unit == u
    let s2 := cs.foldl (fun t c => dropChunk t c.ctx c.seq c.chunk) s1
    let gone := fun (c q k : Nat) => cs.any fun x => x.ctx == c && x.seq == q && x.chunk == k
    settleFree { s2 with
      su := { s2.su with failed := s2.su.failed ++ [u] }
      comb := { s2.comb with waiters := s2.comb.waiters.filter fun w =>
        match w.what with
        | .buffer c q k => !gone c q k
        | .origin _ => true } }

/-- What a run has produced takes effect, its result pieces apart (R56, R181, R187, R189, R190). -/
def applyEff (s : State) (x : Ctx) (c : Chunk) (e : SEff) : State :=
  let inStep := (stepOf s x.pkey).isSome
  let lu := logicalUnit s c.unit
  let s1 := { s with
    su := { s.su with slocs := e.occ.foldl (latchSloc c.unit lu c.ctx c.seq c.chunk) s.su.slocs }
    job := if inStep then { s.job with
      amax := e.amax.foldl (fun t a => mergeAmax t (cxtTid x) a) s.job.amax
      streamFlags := s.job.streamFlags ||| BitVec.ofNat 5 (fld c.run.stat 0 5) } else s.job }
  let s2 := e.events.foldl (fun t n => unitSend t c.unit x.pkey (cxtClass x) 6 (cxtDest x) (bytesOfNat n 8)) s1
  match e.staged with
  | some b => if inStep then modStep s2 fun st => { st with staged := some b, endOfRun := st.endOfRun || flag b 98 } else s2
  | none => s2

/-- Result pieces of a context armed by host software go to its destination (R181). -/
def sendPieces (s : State) (u : Nat) (x : Ctx) (c : Chunk) (ps : List Piece) : State :=
  ps.foldl (fun t p => unitSend t u x.pkey (cxtClass x) 5 (cxtDest x) (piecePayload (cxtOutCtx x) c.seq c.chunk p)) s

/-- SEQ of the result pieces of a unit that wait at its input after a change of state. -/
def newFrames (s0 s1 : State) (u : Nat) : List Nat :=
  ((s1.comb.orig.drop s0.comb.orig.length).filter fun o => o.owner == 648 + u && frmOp o.frame == 5).map fun o => frmSeq o.frame

/-- The operation that a sequence number of a group names here, whichever local source issued it. -/
def issuedOp (s : State) (g seq : Nat) : Option COp := s.coll.ops.find? fun o => o.gid == g && o.seq == seq

/-- A buffer granted to a chunk. -/
def grantOf (c : Chunk) (g : Nat × Nat × Nat × Nat) : Bool := g.1 == c.ctx && g.2.1 == c.seq && g.2.2.1 == c.chunk

/-- What a chunk that needs no further run still holds (R161, R182): its pages and its result buffer, which every OUT that sent from
RES has read (07 R214). -/
def finishChunk (s : State) (c : Chunk) (res : List Bool) : State × Chunk :=
  let s0 := (s.su.granted.filter (grantOf c)).foldl (fun t g => returnBuf t g.2.2.2) s
  let s1 := (c.nodes.map (·.handle)).foldl (dropReader · (648 + c.unit)) { s0 with su := { s0.su with granted := s0.su.granted.filter fun g => !grantOf c g } }
  let more := (res.filter id).length - 1
  let s2 := c.bufs.foldl (fun t h => (List.range more).foldl (fun t _ => moreReaders t h) t) s1
  let c' := { c with complete := true, held := [], nodes := [], pieces := [], ran := 0, run := { stat := c.run.stat } }
  (putChunk s2 c', c')

/-- After a complete chunk's pieces have been sent: what it holds goes once the last of them has left the unit (R161, R182). `res`
says which of them are the last of an OUT that reads RES. -/
def awaitOut (s0 s : State) (c : Chunk) (res : List Bool) : State :=
  let out := c.out ++ (newFrames s0 s c.unit).zipIdx.map fun x => (x.1, res.getD x.2 false)
  let c' := { c with out := out }
  if out.isEmpty then releaseReaders s c' else putChunk s c'

/-- Pieces of a list in piece order. -/
def inOrder (ps : List Piece) : List Piece := (List.range 64).filterMap fun k => ps.find? fun p => p.piece == k

/-- What one source's pieces of a chunk that only passes on are checked for (Table 6.11). At a node of BROADCAST and ALL_GATHER the
chunk is an element stream of the group's type; what a delivery context takes may be elements, pairs or records, of one size. -/
def passChecks (e : SEnv) (limit : Nat) (role : Role) (p : Piece) : List Nat :=
  let u := if role == .delivery then (if p.nelem = 0 then 1 else p.data.length / p.nelem) else tyBytes e.ty
  let cap := 4064 / max 1 u
  (if e.nsrc ≤ p.src || p.rsv || limit ≤ p.piece * cap then [1] else []) ++
  (if p.data.length != p.nelem * u || (p.nelem == 0 && !(p.last && p.piece == 0)) || (!p.last && p.nelem != cap) ||
    limit < p.piece * cap + p.nelem then [2] else []) ++
  (if role != .delivery && p.scale != 127 && !isFp8 e.ty then [3] else [])

/-- The default NaN of elements of u bytes of a group of type t. -/
def nanOf (t : Ty) (u : Nat) : Nat :=
  defaultNan (if tyBytes t = u then t else match u with
    | 1 => .e4m3
    | 2 => .fp16
    | 4 => .fp32
    | _ => .fp64)

/-- What a malformed chunk passes on in the place of a piece's data (R185). -/
def passSpoiled (e : SEnv) (role : Role) (p : Piece) : Piece :=
  let u := p.data.length / max 1 p.nelem
  let op := siOp (accOf e.prog)
  let unit :=
    if role == .delivery && (op == opMerge || op == opTopk) then ordBytes e.ty { score := defaultNan e.ty, index := 0xFFFFFFFF, src := 0 }
    else if role == .delivery && op == opSpsum then bytesOfNat 0xFFFFFFFF 4 ++ bytesOfNat (nanOf e.ty (u - 4)) (u - 4)
    else bytesOfNat (nanOf e.ty u) u
  { p with data := (List.replicate p.nelem unit).flatten }

/-- What the pieces that only pass on show (R185). -/
def passWork (e : SEnv) (role : Role) (limit : Nat) (ps : List Piece) (run : SRun) : SWork :=
  ps.foldl (fun t p => (passChecks e limit role p).foldl (fun t k => noteBad t (p.piece * (4064 / tyBytes e.ty) % 16384) k) t)
    { run := run }

/-- Where they go: up, to the members, or into this member's memory. -/
def passSend (s : State) (c : Chunk) (g : Nat) (w : BitVec 320) (role : Role) (o : COp) (ps : List Piece) : State :=
  match role with
  | .delivery => delivered s g c.seq c.chunk ps
  | .top => sendResult s c.unit g w o.word c.seq c.chunk ps
  | .node => if gpHier w then sendUp s c.unit g w o.word c.seq c.chunk ps else sendResult s c.unit g w o.word c.seq c.chunk ps

/-- A chunk of BROADCAST or ALL_GATHER at a node, or of a delivery context (R273, R276): the pieces of the one source that sends
pass on as programs 255 and 254 pass them (assumption 41). -/
def passOn (s : State) (x : Ctx) (c : Chunk) (g : Nat) (w : BitVec 320) (role : Role) (o : COp) : State :=
  match c.got.find? fun a => a.2.2.1 && (List.range a.2.1).all fun k => c.got.any fun b => b.1 == a.1 && b.2.1 == k with
  | none => putChunk s c
  | some (src, _) =>
    let e := envOf s c.ctx x c.seq c.chunk
    let e := { e with prog := progOf s (gpProg w) }
    let limit := if role == .delivery then 16384 else gpCe w
    let ps := inOrder (c.pieces.filter fun p => p.src == src)
    let wk := passWork e role limit ps c.run
    let c1 := { c with run := wk.run }
    let (s1, c2) := finishChunk (applyEff (putChunk s c1) x c1 wk.eff) c1 []
    let ps := ps.map fun p => { (if wk.run.check != 0 then passSpoiled e role p else p) with stat := wk.run.stat.toNat }
    awaitOut s1 (passSend s1 c g w role o ps) c2 []

/-- Phase 1 and what follows it, for a chunk that has completed phase 0 (R170, R182, R284). -/
def completeChunk (s : State) (x : Ctx) (c : Chunk) (e : SEnv) (w0 : SWork) : State :=
  let i : SIn := { ps := c.pieces, got := c.got }
  let role := roleOf s c.ctx x
  let up := match role with
    | some (_, w, .node) => gpHier w
    | _ => false
  let w1 := noteCompletion e c up w0
  let w2 := if up then checkResidues e w1 (accOffsets e w1 i.ps i.got) else runPhase1 e i 64 (phase1 e.prog) w1
  if w2.eff.bad then unitFails (putChunk s c) c.unit
  else
    let tail := unreadPieces e c
    let c2 := { c with run := w2.run }
    let s1 := countN (applyEff (putChunk s c2) x c2 w2.eff) .streamTail c.unit tail
    let (s2, c3) := finishChunk s1 c2 w2.eff.outRes
    let sent := match role with
      | none => sendPieces s2 c.unit x c2 w2.eff.out
      | some (g, w, _) =>
        match issuedOp s g c.seq with
        | none => s2
        | some o =>
          if up then sendUp s2 c.unit g w o.word c.seq c.chunk (partialPieces e i w2)
          else sendResult s2 c.unit g w o.word c.seq c.chunk w2.eff.out
    awaitOut s2 sent c3 (if role.isNone then w2.eff.outRes else [])

/-- Two sides of a pair of the tree: the nodes of the next level, and those that wait for a sibling (02 R49). -/
def pairLevel : List (Option (Nat × Nat)) → List (Option (Nat × Nat)) × List (Nat × Nat)
  | some x :: some y :: r => let (l, w) := pairLevel r; (some (x.1, x.2 + y.2) :: l, w)
  | some x :: none :: r => let (l, w) := pairLevel r; (none :: l, x :: w)
  | none :: some y :: r => let (l, w) := pairLevel r; (none :: l, y :: w)
  | none :: none :: r => let (l, w) := pairLevel r; (none :: l, w)
  | l => (l, [])

/-- The nodes of a canonical tree that wait for their siblings, as (first source, sources), from the leaves at hand. -/
def waitingNodes : Nat → List (Option (Nat × Nat)) → List (Nat × Nat)
  | 0, _ => []
  | n + 1, l =>
    if l.length ≤ 1 then []
    else let (l', w) := pairLevel l; w ++ waitingNodes n l'

/-- The leaf of a source and piece is at hand (R171, R172, R179): its piece; the whole contribution for SPSUM; with ATTNM also piece 0. -/
def leafReady (e : SEnv) (c : Chunk) (k src : Nat) : Bool :=
  let mine := c.got.filter fun g => g.1 == src
  let has := fun n : Nat => mine.any fun g => g.2.1 == n
  if siOp (accOf e.prog) = opSpsum then
    mine.any fun g => g.2.2.1 && (List.range g.2.1).all has
  else has k && (siOp (accOf e.prog) != opAttnm || has 0)

/-- The nodes of piece k that wait. -/
def waitingAt (e : SEnv) (c : Chunk) (k : Nat) : List (Nat × Nat) :=
  waitingNodes (bitLen e.nsrc + 1) ((List.range e.nsrc).map fun s => if leafReady e c k s then some (s, 1) else none)

/-- The trees of a chunk: one for each piece, or one for all of an SPSUM. -/
def treePieces (e : SEnv) (c : Chunk) : List Nat :=
  if siOp (accOf e.prog) = opSpsum then [0] else (List.range 64).filter fun k => c.got.any fun g => g.2.1 == k

/-- Bytes of a combined node (assumption 43). -/
def nodeBytes (e : SEnv) (c : Chunk) (k : Nat) (x : Nat × Nat) : Nat :=
  if siOp (accOf e.prog) = opSpsum then
    pairBytes e.ty * (((List.range x.2).flatMap fun i => (sourcePairs e c.pieces (x.1 + i)).map (·.1)).eraseDups).length
  else tyBytes e.ty * (c.got.foldl (fun a g => if x.1 ≤ g.1 && g.1 < x.1 + x.2 && g.2.1 == k then max a g.2.2.2 else a) 0)

/-- The combined nodes of a chunk that wait, with their piece and length. -/
def nodesDue (e : SEnv) (c : Chunk) : List (Nat × (Nat × Nat) × Nat) :=
  ((treePieces e c).flatMap fun k => ((waitingAt e c k).filter fun x => decide (2 ≤ x.2)).map fun x => (k, x, nodeBytes e c k x)).filter
    fun d => d.2.2 != 0

/-- The leaves of a chunk that still wait, as source and piece. -/
def leavesDue (e : SEnv) (c : Chunk) : List (Nat × Nat) :=
  let sp := siOp (accOf e.prog) == opSpsum
  (c.got.map fun g => (g.1, g.2.1)).filter fun g =>
    let k := if sp then 0 else g.2
    !leafReady e c k g.1 || e.nsrc == 1 || (waitingAt e c k).contains (g.1, 1)

/-- A node takes its buffer (R161, 07 R205, R210): one granted after a wait, one taken now, or the chunk waits for one. -/
def takeNode (s : State) (c : Chunk) (d : Nat × (Nat × Nat) × Nat) : State × Chunk :=
  match poolFor d.2.2 with
  | none => (failStep s { status := Status.badArg.code, ecause := 0 }, c)
  | some pool =>
  if c.nodes.any (fun x => x.piece == d.1 && x.lo == d.2.1.1 && x.n == d.2.1.2) ||
      s.comb.waiters.any (fun w => w.what == .buffer c.ctx c.seq c.chunk) then (s, c)
  else
    let put := fun h : Nat => { c with nodes := c.nodes ++ [{ lo := d.2.1.1, n := d.2.1.2, piece := d.1, handle := h }] }
    match s.su.granted.find? fun g => grantOf c g && g.2.2.2 / 65536 == pool with
    | some g => ({ s with su := { s.su with granted := eraseFirst (· == g) s.su.granted } }, put g.2.2.2)
    | none =>
      let (s, bad) := combRead s fun m => m == .account (648 + c.unit) pool
      if bad then (s, c)
      else
      match takeBuf s (648 + c.unit) pool with
      | some (h, s1) => (s1, put h)
      | none => ({ s with comb := { s.comb with
          waiters := s.comb.waiters ++ [{ pool := pool, owner := 648 + c.unit, what := .buffer c.ctx c.seq c.chunk, since := scNow s }] } }, c)

/-- What a chunk's tree holds in the comb follows its pieces (R161): combined nodes give up their buffers, new ones take theirs. -/
def syncTree (s : State) (e : SEnv) (c : Chunk) : State × Chunk :=
  let due := nodesDue e c
  let stays := fun x : TNode => due.any fun d => x.piece == d.1 && x.lo == d.2.1.1 && x.n == d.2.1.2
  let s1 := (c.nodes.filter fun x => !stays x).foldl (fun t x => dropReader t (648 + c.unit) x.handle) s
  due.foldl (fun a d => takeNode a.1 a.2 d) (s1, { c with nodes := c.nodes.filter stays, held := leavesDue e c })

/-- Words of a unit's memories that a run of a chunk reads (R194): its program, its chunk state, and the accumulators of the pieces
it takes, or all of them. -/
def runReads (e : SEnv) (prog : Nat) (ps : List Piece) (whole : Bool) (m : UMem) : Bool :=
  match m with
  | .program n => n == prog
  | .entry c q k => c == e.ctx && q == e.seq && k == e.chunk
  | .acc c q k o => c == e.ctx && q == e.seq && k == e.chunk &&
      (whole || envRecords e || ps.any fun p => decide (pieceBase e p ≤ o) && decide (o < pieceBase e p + p.nelem))

/-- Errors of a unit's memories met by a read (R194): a single-bit error is corrected and counted, a double-bit one (true) poisons
the step. -/
def unitErrors (s : State) (u : Nat) (p : UMem → Bool) : State × Bool :=
  let hit := s.su.errs.filter fun e => e.1 == u && p e.2.1
  if hit.isEmpty then (s, false)
  else
    let s1 := countN { s with su := { s.su with errs := s.su.errs.filter fun e => !(e.1 == u && p e.2.1) } } .streamSbe u
      (hit.filter fun e => !e.2.2).length
    if hit.any (·.2.2) then (raisePoison s1 .storeDbe, true) else (s1, false)

/-- A chunk whose words could not be read is given up; outside a step its later pieces end by R186 (assumption 108). -/
def giveUp (s : State) (c : Chunk) : State := dropChunk s c.ctx c.seq c.chunk

/-- Phase 0 of the pieces that a chunk holds and has not run (R170); then, when it is complete, phase 1. -/
def feedRun (s : State) (x : Ctx) (c : Chunk) : State :=
  let e := envOf s c.ctx x c.seq c.chunk
  let merge := siOp (accOf e.prog) == opMerge
  let fresh := c.pieces.drop c.ran
  let (s, dbe) := unitErrors s c.unit (runReads e (cxtProg x) fresh (phase0Done e c))
  if dbe then giveUp s c
  else
  let i : SIn := { ps := c.pieces, got := c.got }
  let w := fresh.foldl (fun t p =>
    let t1 := if merge then t else noteChecks e p t
    if p.src < e.nsrc then runPhase0 e i p t1 else t1) ({ run := c.run } : SWork)
  if w.eff.bad then unitFails (putChunk s c) c.unit
  else
    let c1 := { c with run := w.run, ran := c.pieces.length }
    if phase0Done e c1 then completeChunk s x c1 e w
    else
      let c2 := if keepsPieces e then c1 else { c1 with pieces := [], ran := 0 }
      let k := accKind e.prog e.ty
      let (s0, c2) := if k == .tree || k == .attn then syncTree s e c2 else (s, c2)
      let s1 := applyEff (putChunk s0 c2) x c2 w.eff
      if x.group.isNone then
        let s2 := sendPieces s1 c.unit x c2 w.eff.out
        putChunk s2 { c2 with out := c2.out ++ (newFrames s1 s2 c.unit).map fun q => (q, false) }
      else s1

/-- A chunk goes on with what it holds: a group's chunk only once its operation is issued here (R282). -/
def feed (s : State) (x : Ctx) (c : Chunk) : State :=
  match roleOf s c.ctx x with
  | none => feedRun s x c
  | some (g, w, role) =>
    match issuedOp s g c.seq with
    | none => putChunk s c
    | some o =>
      if role == .delivery || irOp o.word = 1 || irOp o.word = 4 then
        let n := if role != .delivery && irOp o.word = 4 then 254 else 255
        let (s, dbe) := unitErrors s c.unit fun m => m == .program n || m == .entry c.ctx c.seq c.chunk
        if dbe then giveUp s c else passOn s x { c with held := [] } g w role o
      else feedRun s x c

/-- The pages of a chunk of a context (Table 6.4): by IN's limit, or by the group's chunk (R281). -/
def ctxPages (s : State) (ctx : Nat) (x : Ctx) : Nat :=
  let e := envOf s ctx x 0 0
  let n := match roleOf s ctx x with
    | some (_, w, _) => min (envLimit e) (gpCe w)
    | none => envLimit e
  pagesOf e.prog e.ty n

/-- Pages that the armed groups reserve in every unit (R281). -/
def reservedPages (s : State) : Nat :=
  (s.su.ctxs.map fun e => match e.2 with
    | some x => if x.group.isSome then ctxPages s e.1 x else 0
    | none => 0).foldl (· + ·) 0

/-- A chunk still holds its place in the unit (R161, R182): it is not complete, or its result pieces have not all left. -/
def occupies (c : Chunk) : Bool := !c.complete || !c.out.isEmpty

/-- A chunk stands in its group's reserve. -/
def inReserve (s : State) (c : Chunk) : Bool :=
  !c.early && occupies c && (match ctxOf s c.ctx with
    | some x => x.group.isSome
    | none => false)

/-- Unreserved pages of a unit that are free (R281, R282). -/
def freePages (s : State) (u : Nat) : Nat :=
  24 - reservedPages s - (((s.su.chunks.filter fun c => c.unit == u && !inReserve s c).map (·.pages)).foldl (· + ·) 0)

/-- This module has issued a sequence number of a group (R282): it lies behind a source's count, modulo 2^32, by no more than what
that source has issued. -/
def seqIssued (s : State) (g seq : Nat) : Bool :=
  (List.range 4).any fun l =>
    let n := tblGet 0 s.coll.nextSeq (4 * g + l)
    let back := (n + 2 ^ 32 - seq) % 2 ^ 32
    decide (0 < back) && decide (back ≤ 2 ^ 31) && decide (back ≤ n)

/-- Room for a new chunk (R163, R282): none, or whether it is an early arrival. -/
def roomFor (s : State) (u ctx seq : Nat) (x : Ctx) (pages : Nat) : Option Bool :=
  if 512 ≤ (s.su.chunks.filter fun c => c.unit == u).length then none
  else
    match x.group with
    | none => if pages ≤ freePages s u then some false else none
    | some g =>
      let taken := s.su.chunks.any fun c => c.unit == u && c.ctx == ctx && inReserve s c
      let early := (s.su.chunks.filter fun c => c.early && occupies c && (match ctxOf s c.ctx with
        | some y => y.group == some g
        | none => false)).length
      if seqIssued s g seq && !taken then some false
      else if early < 2 && pages ≤ freePages s u then some true
      else none

/-- A piece comes off the unit's queue. -/
def unqueue (s : State) (u : Nat) (f : Frame) : State :=
  { s with su := { s.su with queue := eraseFirst (fun e => e.1 == u && e.2 == f) s.su.queue } }

/-- A piece comes off the unit's queue and is dropped. -/
def dequeue (s : State) (u : Nat) (f : Frame) : State := settleFree (unqueue s u f)

/-- The end-of-run flag of the token multicast reaches a rank (R28; assumption 40). -/
def noteEndOfRun (s : State) (ctx : Nat) (p : Piece) : State :=
  match s.job.launch with
  | some l =>
    (match ctxOf s l.sampleCtx with
    | some x =>
      if l.isRun && cxtOutCtx x == ctx && p.piece == 0 && (natOfBytes (p.data.take 16)).testBit 98 then
        modStep s fun st => { st with endOfRun := true }
      else s
    | none => s)
  | none => s

/-- A piece joins its chunk (R170, R182, R184). -/
def joinPiece (s : State) (u : Nat) (x : Ctx) (c : Chunk) (f : Frame) : State :=
  let p := pieceOf f
  let s1 := unqueue s u f
  let inStep := (stepOf s x.pkey).isSome
  let mine := c.got.filter fun g => g.1 == p.src
  let dup := mine.any fun g => g.2.1 == p.piece
  let excess := mine.any fun g => g.2.2.1 && decide (g.2.1 < p.piece)
  let past := p.last && mine.any fun g => decide (p.piece < g.2.1)
  let spoil := fun (t : State) (d : Chunk) =>
    if d.complete then (t, d)
    else
      let w := noteBad ({ run := d.run } : SWork) (pieceBase (envOf t d.ctx x d.seq d.chunk) p % 16384) 1
      let d1 := { d with run := w.run }
      (applyEff (putChunk t d1) x d1 w.eff, d1)
  if dup then (if inStep then raisePoison s1 .streamDup else (spoil (count s1 .streamDup u) c).1)
  else if excess then (if inStep then raisePoison s1 .streamExcess else (spoil (count s1 .streamExcess u) c).1)
  else if past && inStep then raisePoison s1 .streamExcess
  else
    let (s2, c1) := if past then spoil (count s1 .streamExcess u) c else (s1, c)
    if c1.complete then count s2 .streamTail u
    else
    let c2 := { c1 with
      got := c1.got ++ [(p.src, p.piece, p.last, p.nelem)]
      held := if keepsTree s x then c1.held ++ [(p.src, p.piece)] else c1.held
      run := { c1.run with stat := c1.run.stat ||| BitVec.ofNat 8 p.stat } }
    let s3 := if inStep then { s2 with job := { s2.job with streamFlags := s2.job.streamFlags ||| BitVec.ofNat 5 (p.stat % 32) } } else s2
    feed (noteEndOfRun s3 c.ctx p) x { c2 with pieces := c2.pieces ++ [p] }

/-- A piece is taken, and the leaves that its chunk no longer waits with leave the comb (R161). -/
def takePiece (s : State) (u : Nat) (x : Ctx) (c : Chunk) (f : Frame) : State := settleFree (joinPiece s u x c f)

/-- The result buffer of a chunk (Table 6.4): at hand, granted after a wait, taken now, or waited for (R210). -/
def withBuffer (s : State) (u : Nat) (c : Chunk) (need : Bool) : Chunk × State × Bool :=
  if !need || c.complete || !c.bufs.isEmpty then (c, s, true)
  else
    match s.su.granted.find? fun g => g.1 == c.ctx && g.2.1 == c.seq && g.2.2.1 == c.chunk with
    | some g =>
      let c1 := { c with bufs := [g.2.2.2] }
      (c1, putChunk { s with su := { s.su with granted := eraseFirst (· == g) s.su.granted } } c1, true)
    | none =>
      let (s, bad) := combRead s fun m => m == .account (648 + u) 2
      if bad then (c, s, false)
      else
      match takeBuf s (648 + u) 2 with
      | some (h, s1) =>
        let c1 := { c with bufs := [h] }
        (c1, putChunk s1 c1, true)
      | none =>
        (c, { s with comb := { s.comb with
          waiters := s.comb.waiters ++ [{ pool := 2, owner := 648 + u, what := .buffer c.ctx c.seq c.chunk, since := scNow s }] } }, false)

/-- A word of a unit's memories that belongs to a chunk, which a new chunk writes anew (R194). -/
def ofChunk (c : Chunk) : UMem → Bool
  | .program _ => false
  | .entry x q k => x == c.ctx && q == c.seq && k == c.chunk
  | .acc x q k _ => x == c.ctx && q == c.seq && k == c.chunk

/-- An accepted piece opens its chunk or joins it (R163, R182). -/
def acceptPiece (s : State) (u : Nat) (x : Ctx) (f : Frame) : State :=
  let ctx := spCtx f
  let need := usesRes (progOf s (cxtProg x))
  let go := fun (t : State) (c : Chunk) =>
    let (c1, t1, okay) := withBuffer t u c need
    if okay then takePiece t1 u x c1 f else t1
  match s.su.chunks.find? (isChunk ctx (spSeq f) (spChunk f) u) with
  | some c =>
    let (s1, dbe) := unitErrors s u fun m => m == .entry ctx (spSeq f) (spChunk f)
    if dbe then dequeue (giveUp s1 c) u f else go s1 c
  | none =>
    let pages := ctxPages s ctx x
    match roomFor s u ctx (spSeq f) x pages with
    | none => count (dequeue s u f) .streamNoSpace u
    | some early =>
      let c : Chunk := {
        ctx := ctx, seq := spSeq f, chunk := spChunk f, unit := u, pages := pages, early := early, startT := logicNs s
        stepSeq := (stepOf s x.pkey).map (·.seq) }
      go { s with su := { s.su with
        chunks := s.su.chunks ++ [c]
        errs := s.su.errs.filter fun e => !(e.1 == u && ofChunk c e.2.1) } } c

/-- The oldest piece of a unit whose chunk does not wait for a buffer. -/
def headPiece (s : State) (u : Nat) : Option Frame :=
  let waits := fun f : Frame => s.comb.waiters.any fun w => w.what == .buffer (spCtx f) (spSeq f) (spChunk f)
  (s.su.queue.find? fun e => e.1 == u && !waits e.2).map (·.2)

/-- STREAM (R170, R183): the piece at the head of a unit's queue is checked and applied. -/
def stream (u : Nat) (s : State) : State :=
  if !unitsRun s || s.su.failed.contains u || s.su.retired.contains u then s
  else
    match headPiece s u with
    | none => s
    | some f =>
      if f.payload.length < 16 then count (dequeue s u f) .streamRunt u
      else
        match ctxOf s (spCtx f) with
        | none => count (dequeue s u f) .streamNoContext u
        | some x =>
          match stepOf s x.pkey with
          | some st =>
            if st.committing then s
            else if attemptGone s x.pkey then dequeue s u f
            else if frmStep f != st.seq % 65536 then count (dequeue s u f) .streamStale u
            else acceptPiece s u x f
          | none => if frmStep f != 0 then count (dequeue s u f) .streamStale u else acceptPiece s u x f

/-- STREAM_TIMEOUT (R186): a chunk not complete TIMEOUT ns after its first piece is abandoned. -/
def streamTimeout (c q k : Nat) (s : State) : State :=
  match ctxOf s c, s.su.chunks.find? fun x => x.ctx == c && x.seq == q && x.chunk == k && !x.complete with
  | some x, some ch =>
    if !unitsRun s || logicNs s < ch.startT + cxtTimeout x then s
    else
      let s1 := dropPieces (dropChunk s c q k) c q k
      let s2 := { s1 with comb := { s1.comb with waiters := s1.comb.waiters.filter fun w => w.what != .buffer c q k } }
      if (stepOf s x.pkey).isSome then raisePoison s2 .streamTimeout else count s2 .streamTimeout ch.unit
  | _, _ => s

/-- STREAM_UNIT_PATROL (R193): when swarm time modulo 500,000 ns passes u × 15,625 ns. -/
def streamUnitPatrol (u : Nat) (mismatch : Bool) (s : State) : State :=
  let n := passesOf s (u * 15625)
  if !unitsRun s || s.su.failed.contains u || s.su.retired.contains u || n ≤ tblGet 0 s.su.lastPatrol u then s
  else
    let s1 := { s with su := { s.su with lastPatrol := tblSet 0 s.su.lastPatrol u n } }
    if mismatch then unitFails s1 u else s1

/-- The output of a stream-unit queue after logical unit l has gone: the queues of the units above it move down with their numbers. -/
def shiftOut (l o : Nat) : Nat := if 81 + l < o then o - 1 else o

/-- What the queues of the units above logical unit l hold stays theirs as they are renumbered (R157, R195). -/
def renumberQueues (s : State) (l : Nat) : State :=
  { s with comb := { s.comb with
    queues := (s.comb.queues.map fun e => ((e.1 / 8 / 113 * 113 + shiftOut l (e.1 / 8 % 113)) * 8 + e.1 % 8, e.2)).foldl
      (fun t e => tblSet [] t e.1 e.2) []
    circuitQ := (s.comb.circuitQ.map fun e => (e.1 / 113 * 113 + shiftOut l (e.1 % 113), e.2)).foldl (fun t e => tblSet [] t e.1 e.2) []
    egress := (s.comb.egress.map fun e => (shiftOut l e.1, e.2)).foldl (fun t e => tblSet {} t e.1 e.2) [] } }

/-- STREAM_UNIT_RETIRE (R195): the failed unit is retired and the logical units are renumbered. -/
def streamUnitRetire (u : Nat) (s : State) : State :=
  when (clocksRun s && s.su.failed.contains u) s
    (let s1 := if s.su.map.contains u then renumberQueues s (logicalUnit s u) else s
    recomputeHealth { s1 with su := { s1.su with
      failed := s1.su.failed.filter (· != u), retired := s1.su.retired ++ [u], map := s1.su.map.filter (· != u) } })

def execStream (u : Fin 32) (s : State) := ok (stream u.val s)
def execStreamTimeout (c : Fin 4096) (q : BitVec 32) (k : BitVec 16) (s : State) := ok (streamTimeout c.val q.toNat k.toNat s)
def execStreamUnitPatrol (u : Fin 32) (mismatch : Bool) (s : State) := ok (streamUnitPatrol u.val mismatch s)
def execStreamUnitRetire (u : Fin 32) (s : State) := ok (streamUnitRetire u.val s)

end Sys2Proof.Machine
end

