-- ==== Sys2Proof/Machine/StreamImage.lean ====
section
/-! DEFINITION. Stream programs as images, and contexts and groups as they are armed and disarmed (06 R160, R164-R169;
09 R273-R276, R281). -/

namespace Sys2Proof.Machine

/-- The operations of Table 6.8, with the phases, sources and destinations that the table allows (phase 0, then phase 1). -/
def opForm (op : Nat) : Option (List (Nat × List Nat × Nat)) :=
  match op with
  | 0x01 => some [(0, [0], 0)]
  | 0x02 => some [(0, [1, 2, 3], 0), (1, [2, 3], 0)]
  | 0x03 => some [(1, [0], 0)]
  | 0x04 => some [(1, [3], 0)]
  | 0x05 => some [(0, [1, 2, 3], 3), (1, [2, 3], 3)]
  | 0x08 | 0x09 | 0x0A | 0x0B | 0x10 | 0x11 | 0x15 => some [(0, [1], 2)]
  | 0x0C | 0x0D => some [(0, [1, 2, 3], 3), (1, [2, 3], 3)]
  | 0x12 => some [(0, [1], 2), (1, [2, 3], 3)]
  | 0x13 => some [(1, [2, 3], 3)]
  | 0x14 => some [(0, [1], 3)]
  | 0x16 => some [(1, [2, 3], 3)]
  | _ => none

/-- The VAR values of an operation lie in a range or in a set of bits (Table 6.9). -/
def varOk (op v : Nat) : Bool :=
  if op = opEmit then decide (v ≤ 1)
  else if op = opSum || op = opSpsum || op = opCvt || op = opAttnm then decide (v ≤ 1)
  else if op = opTopk || op = opCount then decide (v ≤ 3)
  else if op = opFilter then decide (v ≤ 4)
  else v == 0

/-- An instruction's codes are defined (Table 6.9, third row). -/
def codesOk (w : Word) : Bool :=
  (opForm (siOp w)).isSome && decide (siSrc w ≤ 4) && decide (siDst w ≤ 4) && (siTy w).isSome && (siDt w).isSome &&
    decide (siRm w ≤ 4) && !flag w 31 && varOk (siOp w) (siVar w) &&
    !(siCp w == 7 && (siRm w == 4 || (siOp w == opTopk && (siVar w).testBit 1)))

/-- A count from 1 to 16,384 in IMM[14:0]. -/
def countOk (w : Word) : Bool := decide (1 ≤ insK w) && decide (insK w ≤ 16384)

/-- The elements that ACC can hold at IN's limit: K records, W indices, H·(D + 2) elements, or as many as the input. -/
def accCount (a : Word) (limit : Nat) : Nat :=
  if siOp a = opMerge || siOp a = opTopk || siOp a = opSpsum then insK a
  else if siOp a = opAttnm then attnH a * (attnD a + 2)
  else limit

/-- Bytes that a CVT or PASS writes at IN's limit (Table 6.9). -/
def resultBytes (prog : List Word) (limit : Nat) (w : Word) : Nat :=
  let a := accOf prog
  let t := (siTy w).getD .fp32
  let d := (siDt w).getD .fp32
  if siOp w = opCvt then
    (if siSrc w = opndAcc then accCount a limit
    else if siSrc w = opndInp && siOp a = opGather then limit * (8 / tyBytes ((siTy a).getD .fp32))
    else limit) * tyBytes d
  else if siSrc w = opndAcc then
    (if siOp a = opMerge || siOp a = opTopk then insK a * recBytes ((siTy a).getD .fp32)
    else if siOp a = opAttnm then accCount a limit * 4
    else if siOp a = opSpsum then insK a * pairBytes d
    else if siOp a = opSum then limit * tyBytes d
    else limit * tyBytes t)
  else if siSrc w = opndInp && siOp a = opSpsum then limit * pairBytes t
  else if siSrc w = opndInp && (siOp a = opMerge || (siOp a = opTopk && siVar a % 2 = 1)) then limit * recBytes t
  else if siSrc w = opndInp && siOp a = opGather then limit * 8
  else limit * tyBytes t

/-- An instruction's IMM lies in its range (Table 6.9, fourth row). -/
def immOk (prog : List Word) (w : Word) : Bool :=
  let op := siOp w
  let limit := siImm (prog.getD 0 0) % 2 ^ 15
  if op = opIn || op = opSpsum || op = opMerge then countOk w
  else if op = opTopk then countOk w && (!siPh w || decide (insK w * recBytes ((siTy w).getD .fp32) ≤ 65536))
  else if op = opAttnm then
    decide (1 ≤ attnD w) && decide (attnD w ≤ 4096) && decide (1 ≤ attnH w) && decide (attnH w ≤ 64) && decide (attnH w * (attnD w + 2) ≤ 16384)
  else if op = opGather then siImm w != 0 && siImm w % 8 == 0
  else if op = opCount || op = opFilter then siImm w % 8 == 0 && decide (siImm w + 8 ≤ 65536)
  else if op = opCvt || op = opPass then decide (resultBytes prog limit w ≤ 65536)
  else true

/-- An instruction stands in a phase and with operands that Table 6.8 allows, and its types fit (Table 6.9, sixth row). -/
def formOk (prog : List Word) (w : Word) : Bool :=
  let op := siOp w
  let t := (siTy w).getD .fp32
  let a := accOf prog
  let form := ((opForm op).getD []).any fun f => f.1 == (siPh w).toNat && f.2.1.contains (siSrc w) && f.2.2 == siDst w
  let wide := (siTy a).getD .fp32 == .fp64 && (siOp a == opSum || siOp a == opSpsum) && siVar a % 2 == 0
  form && !(op == opCvt && siVar w % 2 == 1 && !siPh w) && !(!siPh w && siSrc w == opndAcc && wide) &&
    (if op = opMerge || op = opTopk then t == .fp32 || t == .fp64 else if op = opAttnm || op = opSample then t == .fp32 else true)

/-- Phase 0 comes before phase 1. -/
def phasesOk : List Word → Bool
  | [] => true
  | [_] => true
  | a :: b :: r => (!siPh a || siPh b) && phasesOk (b :: r)

/-- The LOOPs of a program keep to R181. -/
def loopsOk : List Word → Bool
  | [] => true
  | w :: r =>
    (if siOp w = opSLoop then
      let n := siImm w / 2 ^ 16 % 32
      decide (n ≤ r.length) && (r.take n).all fun x => siOp x != opSLoop && siOp x != opTopk && siOp x != opSample
    else if siOp w = opEmit then siVar w != 0 || siImm w % 16 != 0
    else true) && loopsOk r

/-- The instructions of a program pass Table 6.9. -/
def progOk (prog : List Word) : Bool :=
  prog.all codesOk && prog.all (immOk prog) && siOp (prog.getD 0 0) == opIn && (prog.drop 1).all (fun w => siOp w != opIn) &&
    phasesOk prog && decide ((prog.filter accumulates).length ≤ 1) && prog.all (formOk prog) && loopsOk prog

/-- Whether an armed context names a program. -/
def progBound (s : State) (n : Nat) : Bool := s.su.ctxs.any fun e => match e.2 with
  | some x => cxtProg x == n
  | none => false

/-- The length of a stream program image, by a header that can be read on (R165, Table 6.9). -/
def streamLen (s : State) (a : Nat) (hd : List Byte) : Option Nat :=
  let h0 := BitVec.ofNat 64 (natOfBytes (hd.take 8))
  let len := 16 + 8 * (fld h0 48 5 + 1)
  if fld h0 0 32 != 0x53544741 || fld h0 53 11 != 0 || hbmBytes s < a + len then none else some len

/-- The reads that a check of a stream program image makes. -/
def streamReads (s : State) (a : Nat) : State := if hbmBytes s < a + 16 then s else imageReads s a 16 (streamLen s a)

/-- The stream program image at an HBM address, or the status of its refusal (R165, R168, Table 6.9). -/
def streamImage (s : State) (n a : Nat) : Except Status (List Word) :=
  if hbmBytes s < a + 16 then .error .badArg
  else
    match imageRead s a 16 with
    | none => .error .badArg
    | some hd =>
      let h0 := BitVec.ofNat 64 (natOfBytes (hd.take 8))
      match streamLen s a hd with
      | none => .error .badArg
      | some len =>
        match imageRead s a len with
        | none => .error .badArg
        | some bs =>
          let ws := wordsOfBytes bs (len / 8)
          if !imageCrcOk bs 8 || fld (arg ws 1) 32 32 != 0 then .error .badArg
          else if fld h0 40 8 != 3 || 1 < fld h0 32 8 then .error .badVersion
          else if !progOk (ws.drop 2) then .error .badArg
          else if progBound s n then .error .stateConflict
          else .ok (ws.drop 2)

/-- A program goes into the stores of all units (R164). -/
def loadStreamProg (s : State) (n : Nat) (code : List Word) : State :=
  { s with su := { s.su with
    programs := tblSet none s.su.programs n (some { code := code })
    errs := s.su.errs.filter fun e => e.2.1 != .program n } }

/-- Program 255: IN, PASS; program 254: IN, GATHER (09 R273; assumption 41). -/
def enginePass : List Word := [packW [(0, 6, opIn), (32, 32, 16384)], packW [(0, 6, opPass), (13, 3, 1), (16, 3, 3)]]
def engineGather : List Word := [packW [(0, 6, opIn), (32, 32, 16384)], packW [(0, 6, opGather), (13, 3, 1), (16, 3, 3), (32, 32, 8)]]

/-- Firmware loads programs 254 and 255 at boot (09 R273). -/
def loadEngineProgs (s : State) : State := loadStreamProg (loadStreamProg s 254 engineGather) 255 enginePass

/-- The phase-0 instructions agree with a context's type, and GATHER's slots fit RES (R169). -/
def ctxFits (prog : List Word) (ty nsrc : Nat) : Bool :=
  (prog.all fun w => siPh w || fld w 7 3 == ty) &&
    (prog.all fun w => siOp w != opGather || decide (nsrc * siImm w ≤ 65536))

/-- The uses of DET_STRICT that R169 refuses: the ARRIVAL variant, or RM 0b100 without a seed. -/
def usesArrival (prog : List Word) (ty : Nat) : Bool :=
  prog.any fun w => (siOp w == opSum || siOp w == opSpsum) && ty == tyCode .fp64 && siVar w % 2 == 1
def usesStochastic (prog : List Word) : Bool := prog.any fun w => siRm w == 4

/-- A context is armed (R160): its AUX data are copied into a P1 buffer charged to the unit of UNIT_BASE. -/
def armContext (s : State) (ctx key : Nat) (word : BitVec 1024) (group : Option Nat) : Option State :=
  let len := fld word 832 13
  let base := fld word 768 64
  let u := s.su.map.getD (fld word 20 5 % max 1 s.su.map.length) 0
  let put := fun (t : State) (h : Option Nat) (bs : List Byte) =>
    { t with su := { t.su with ctxs := tblSet none t.su.ctxs ctx (some { word := word, pkey := key, group := group, auxBuf := h, aux := bs }) } }
  if len = 0 then some (put s none [])
  else
    match takeBuf s (648 + u) 1 with
    | none => none
    | some (h, s1) =>
      match hbmRead s1 base len with
      | (some bs, s2) => some (put s2 (some h) bs)
      | (none, _) => none

/-- A context is disarmed: its buffer and its chunks go (R160, R169). -/
def disarmContext (s : State) (ctx : Nat) : State :=
  let s1 := match ctxOf s ctx with
    | some x => (match x.auxBuf with
      | some h => dropReader s 1000 h
      | none => s)
    | none => s
  let s2 := (s1.su.chunks.filter fun c => c.ctx == ctx).foldl closeChunk s1
  let mine := s2.su.granted.filter fun g => g.1 == ctx
  let s3 := mine.foldl (fun t g => returnBuf t g.2.2.2) s2
  settleFree { s3 with
    su := { s3.su with ctxs := tblSet none s3.su.ctxs ctx none, granted := s3.su.granted.filter fun g => g.1 != ctx }
    comb := { s3.comb with waiters := s3.comb.waiters.filter fun w =>
      match w.what with
      | .buffer c _ _ => c != ctx
      | .origin _ => true } }

/-- The word of a context that the engine arms for a group (R276). -/
def groupCtxWord (g : Nat) (w : BitVec 320) (id : Nat) : BitVec 1024 :=
  let delivery := id == deliveryCtx g w
  let nsrc := if delivery then 1
    else if gpHier w && id == g + 1 then blockCount w
    else if gpHier w then (if gpMyIdx w == 0xFFFF then gpBlk w else blockSize w (gpMyIdx w / gpBlk w)) * gpNl w
    else gpN w * gpNl w
  BitVec.ofNat 1024 (pack [(0, 12, id), (12, 8, if delivery then 255 else gpProg w), (25, 3, gpTy w), (28, 12, nsrc - 1), (128, 32, fld w 96 32)])

/-- The accumulating operation of a group's program is one of R273's. -/
def groupOpOk (prog : List Word) : Bool := [opSum, opSpsum, opMax, opMin, opAmax, opMerge, opTopk, opAttnm].contains (siOp (accOf prog))

/-- A program is canonical (R273). -/
def canonical (prog : List Word) (t : Ty) : Bool :=
  match accKind prog t with
  | .tree | .attn => true
  | _ => false

/-- Every field of a group entry lies in its range, and R273 and R275 hold. -/
def groupFieldsOk (s : State) (g : Nat) (w : BitVec 320) : Bool :=
  let prog := progOf s (gpProg w)
  let t := (tyOf (gpTy w)).getD .fp32
  gpValid w && fld w 60 4 == 0 && fld w 81 15 == 0 && fld w 268 52 == 0 && (tyOf (gpTy w)).isSome && decide (fld w 78 3 ≤ 5) &&
    (gpMyIdx w == 0xFFFF || decide (gpMyIdx w < gpN w)) && decide (gpMcg w + 34 ≤ 4096) && decide (deliveryCtx g w < 4096) &&
    decide (gpMlist w + 2 * gpN w ≤ hbmBytes s) && (if gpCirc w then decide (gpCmap w + 2112 ≤ hbmBytes s) else gpCmap w == 0) &&
    !prog.isEmpty && ctxFits prog (gpTy w) 1 && groupOpOk prog && (!canonical prog t || gpNl w == 1) &&
    decide (pagesOf prog t (gpCe w) ≤ 10) && decide (gpCe w ≤ 16384) &&
    (if gpHier w then decide (blockCount w ≤ 4096) else decide (gpN w * gpNl w ≤ 4096))

/-- The contexts of a group are armed, and its entry is written (R275, R276). Until the next step boundary the group runs the algorithm
that Table 9.5 chooses here (assumption 125). -/
def putGroup (s : State) (g : Nat) (w : BitVec 320) : State :=
  let s1 := { s with coll := { s.coll with groups := tblSet 0 s.coll.groups g w } }
  let s2 := (groupIds g w).foldl (fun t id => (armContext t id (gpKey w) (groupCtxWord g w id) (some g)).getD t) s1
  chooseAlgorithm false false true s2 (g, w)

/-- Arming a group (R275, R281): the status, and the state when it is OK. -/
def armGroup (s : State) (g : Nat) (w : BitVec 320) : Except Status State :=
  if stepBlocks s (gpKey w) then .error .stateConflict
  else if (groupIds g w).any fun id => (ctxOf s id).isSome then .error .stateConflict
  else if !groupFieldsOk s g w then .error .badArg
  else
    let s1 := putGroup s g w
    if 16 < reservedPages s1 then .error .noResource else .ok s1

/-- Disarming a group with its contexts (R275, R169): its operations end. -/
def disarmGroup (s : State) (g : Nat) : State :=
  let w := groupOf s g
  let s1 := (groupIds g w).foldl disarmContext s
  { s1 with coll := { s1.coll with
    groups := tblSet 0 s1.coll.groups g 0
    ops := s1.coll.ops.filter fun o => o.gid != g
    queue := s1.coll.queue.filter fun r => irGid r != g
    flat := tblSet false s1.coll.flat g false
    nextSeq := s1.coll.nextSeq.filter fun e => e.1 / 4 != g
    results := s1.coll.results.filter fun e => e.1 / 4 != g
    stepSeq := s1.coll.stepSeq.filter fun e => e.1 / 4 != g } }

end Sys2Proof.Machine
end

