-- ==== Sys2Proof/Machine/Boot.lean ====
section
/-! DEFINITION. Resets, firmware images and boot (14 R405-R410, R412; 15 R427, R428, R432; 16 R446, R447, R453, R454). -/

namespace Sys2Proof.Machine

/-- Bytes of a slot that were not staged are those of the image that it shipped with (R429). -/
def slotBase (s : State) (slot : Bool) : Bool := if slot then s.sec.base1 else s.sec.base0

/-- A byte that was not staged: of the shipped image, or erased, 0xFF (assumption 47). -/
def slotUnder (base : Bool) (k : Nat) : Byte := if base then Config.shippedImage.getD k 0xFF else 0xFF

/-- Bytes of a flash slot. -/
def flashBytes (s : State) (slot : Bool) (off n : Nat) : List Byte :=
  List.zipWith (· ^^^ ·) (memRead (if slot then s.sec.flash1 else s.sec.flash0) off n)
    ((List.range n).map fun k => slotUnder (slotBase s slot) (off + k))

/-- A slot still holds the image that the module shipped with (16 R455, assumption 48). -/
def slotShipped (s : State) (slot : Bool) : Bool := if slot then s.sec.shipped1 else s.sec.shipped0

/-- Word k of the header of the image in a slot (15 Table 15.1). -/
def fwWord (s : State) (slot : Bool) (k : Nat) : Word := BitVec.ofNat 64 (natOfBytes (flashBytes s slot (8 * k) 8))

/-- FW, SVN and KEYSLOT of the image in a slot. -/
def slotFw (s : State) (slot : Bool) : BitVec 32 :=
  if slotShipped s slot then s.sec.shippedFw else BitVec.ofNat 32 (fld (fwWord s slot 0) 32 32)
def slotSvn (s : State) (slot : Bool) : Nat := if slotShipped s slot then s.sec.shippedSvn else fld (fwWord s slot 1) 0 7
def slotKey (s : State) (slot : Bool) : Bool := if slotShipped s slot then s.sec.shippedKey else flag (fwWord s slot 1) 7

/-- Body bytes of a staged image. -/
def slotBody (s : State) (slot : Bool) : Nat := fld (fwWord s slot 2) 0 32

/-- The image in a slot from byte 0 to the end of its body. -/
def slotImage (s : State) (slot : Bool) : List Byte :=
  if slotShipped s slot then Config.shippedImage else flashBytes s slot 0 (256 + slotBody s slot)

/-- The fused SVN: the number of set bits of the thermometer (R428). -/
def fusedSvn (s : State) : Nat := ((List.range 64).filter (flag s.sec.svn)).length

/-- The key hash of a key slot is revoked. -/
def keyRevoked (s : State) (k : Bool) : Bool := if k then s.sec.revoked1 else s.sec.revoked0

/-- MAGIC, LENGTH and the reserved fields of a staged image are valid, its key is a fused one, and its signature verifies (R427, R428). -/
def stagedOk (s : State) (slot : Bool) : Bool :=
  let n := slotBody s slot
  let form := fld (fwWord s slot 0) 0 32 == 0x57464755 && decide (slotSvn s slot ≤ 64) && fld (fwWord s slot 1) 8 56 == 0 &&
    decide (1 ≤ n) && decide (n ≤ 29359872) && fld (fwWord s slot 2) 32 32 == 0 && (List.range 5).all fun k => fwWord s slot (3 + k) == 0
  form &&
    (let key := flashBytes s slot 64 96
     Config.sha384 key == (if slotKey s slot then s.sec.keyHash1 else s.sec.keyHash0) &&
      Config.ecdsaVerify key (flashBytes s slot 160 96) (Config.sha384 (flashBytes s slot 0 160 ++ flashBytes s slot 256 n)))

/-- The image in a slot meets R428, judged against a fused SVN. -/
def imageOk (s : State) (slot : Bool) (svn : Nat) : Bool :=
  !keyRevoked s (slotKey s slot) && decide (svn ≤ slotSvn s slot) && (slotShipped s slot || stagedOk s slot)

/-- The slot that boot stage 0x02 accepts: the preferred one first (R428). -/
def bootSlot (s : State) : Option Bool :=
  if imageOk s s.sec.preferred (fusedSvn s) then some s.sec.preferred
  else if imageOk s (!s.sec.preferred) (fusedSvn s) then some (!s.sec.preferred)
  else none

/-- A measurement of a content: zero, extended by it (R432). -/
def measure (x : List Byte) : BitVec 384 := Config.sha384 (List.replicate 48 0#8 ++ x)

/-- What measurement 3 covers: fused SVN, key revocations, KEYSLOT used and grade (Table 15.2, assumption 12). -/
def fuseBytes (s : State) (slot : Bool) : List Byte :=
  let g : Nat := match s.ident.grade with
    | .x => 0
    | .m => 1
    | .f => 2
  [BitVec.ofNat 8 (fusedSvn s), BitVec.ofNat 8 (s.sec.revoked0.toNat + 2 * s.sec.revoked1.toNat), BitVec.ofNat 8 (slotKey s slot).toNat,
    BitVec.ofNat 8 g]

/-- The ports go DOWN with their lanes; sideband and neighbour entries stay (R408). -/
def lanesOff (s : State) : State := (s.ports.map (·.1)).foldl portDown s

/-- The domains FABRIC, COMPUTE and MEMORY return to reset (R405, R406, R408): what is fixed by sparing and retirement, and
the logs of the AON domain, stay (R117, Table 13.8). -/
def resetDomains (s : State) : State :=
  let s0 := lanesOff s
  { s0 with
    fab := {}
    comb := { doubleFree := s.comb.doubleFree }
    su := { map := s.su.map, failed := s.su.failed, retired := s.su.retired }
    coll := {}
    ident := { s0.ident with units := none }
    hbm := { corrLog := s.hbm.corrLog, errLog := s.hbm.errLog, integrityLog := s.hbm.integrityLog, spared := s.hbm.spared,
             keptBad := s.hbm.keptBad, scrubAt := s.hbm.scrubAt }
    fgr := []
    comp := { clusters := s.comp.clusters, retired := s.comp.retired, coreMap := s.comp.coreMap, spareBad := s.comp.spareBad
              failed := s.comp.failed, failedQueens := s.comp.failedQueens }
    job := {}
    host := { s0.host with tokenHeld := [], cmplHeld := [] }
    health := { s0.health with rehearsing := none, rehearsedCore := none, missed := 0, pendingMiss := 0, readyAt := none, twinSettled := false }
    dev := { s0.dev with testMode := false, detStrict := false, safety := false, epoch := 0, safeN := true, heldSets := []
                         frozenRx := 0 } }

/-- The default EID (08 R235). -/
def defaultEid (s : State) : BitVec 16 :=
  BitVec.ofNat 16 (pack [(0, 5, s.ident.slot.toNat), (5, 10, s.ident.hive.toNat), (15, 1, s.ident.side.toNat)])

/-- Main power is lost (R406, Table 12.8): everything but AON resets, and the module is in AUX. -/
def mainPowerLost (s : State) : State :=
  if s.dev.mode.code < 2 then s
  else
    let s1 := resetDomains s
    recomputeHealth (setMode { s1 with dev := { s1.dev with
      pwrGood := false, stopAt := none, eid := defaultEid s, frozenPin := isFrozen s, stageHeld := false } } .aux)

/-- Scopes and sessions end at a full reset (15 R441, 12 R352). -/
def endScopes (s : State) : State :=
  let t := setScopes s 0 none
  { t with sceuf := { t.sceuf with sessions := [], kept := [] } }

/-- A full reset (R406, R408): the module boots from stage 0x10; freeze ids are gone, FREEZE_N still holds (R418). -/
def fullReset (s : State) : State :=
  let s1 := endScopes (resetDomains s)
  recomputeHealth (setMode { s1 with
    comb := { s1.comb with doubleFree := false }
    host := { s1.host with ringsSet := false }
    dev := { s1.dev with
      eid := defaultEid s, keepInService := false, bootStage := 0x03, bootFail := 0, freezeIds := []
      frozenPin := s.dev.freezeNLow, stageHeld := s.dev.freezeNLow } } .boot)

/-- BOOT begins when PWR_EN is asserted and MAIN_54V is in range, once AUX is reached and nothing holds it (R409, R410, R425,
R447); while frozen it holds before stage 0x10 (R412). -/
def tryBoot (s : State) : State :=
  let d := s.dev
  if d.mode == .aux && decide (3 ≤ d.bootStage.toNat) && d.pwrEn && d.main54Good && !d.recovery && !d.needPwrToggle && d.leakN &&
      (!d.leakHold || d.leakToggled) then
    setMode { s with dev := { d with leakHold := false, leakToggled := false, bootStage := 0x03, bootFail := 0, stageHeld := isFrozen s } } .boot
  else s

/-- A boot stage fails (R410): the module returns to AUX and waits for PWR_EN. -/
def bootFails (s : State) (code : Byte) : State :=
  let s1 := mainPowerLost s
  { s1 with dev := { s1.dev with bootFail := code, needPwrToggle := true } }

/-- The stage after one that has completed (Table 14.5). -/
def nextStage (b : Nat) : Option Nat :=
  if b < 3 then some (b + 1) else if b = 3 then some 0x10 else if b < 0x18 then some (b + 1) else none

/-- The BOOT_FAIL code that a stage can end with (Table 14.6), 0 for none. -/
def stageFail (k : Nat) : Byte :=
  match k with
  | 0x10 => 1
  | 0x11 => 2
  | 0x12 => 3
  | 0x13 => 4
  | 0x14 => 5
  | 0x15 => 6
  | _ => 0

/-- Stage 0x02 (15 R428): an image is accepted, and firmware asks for an address by DHCPv4 (12 R350, assumption 128); or the boot ROM
runs in recovery. -/
def fwAuth (s : State) : State :=
  match bootSlot s with
  | some k => { s with
    dev := { s.dev with recovery := false }
    out := s.out ++ [.dhcp s.ident.serial]
    sec := { s.sec with running := k, fwVersion := slotFw s k, m2 := measure (slotImage s k), m3 := measure (fuseBytes s k) } }
  | none =>
    let s1 := mainPowerLost s
    { s1 with dev := { s1.dev with bootFail := 7, recovery := true } }

/-- The slot EEPROM's content passes MAGIC, VERSION and CRC (16 R454). -/
def eepromGood (e : List Byte) : Bool :=
  e.length == 256 && natOfBytes (e.take 2) == 0x5447 && e.getD 2 0 == 1 &&
    crc32c (e.take 252) == BitVec.ofNat 32 (natOfBytes (e.drop 252))

/-- FLC of every port (Table 16.7), 3 bits each. -/
def eepromFlc (e : List Byte) : BitVec 192 :=
  BitVec.ofNat 192 (pack ((List.range 64).map fun p => (3 * p, 3, nfld (e.getD (8 + p / 2) 0).toNat (4 * (p % 2)) 3)))

/-- Stage 0x03 latches the straps and reads the EEPROM, once while AUX_12V stays present (R446, R453, R454). -/
def latchSlot (s : State) : State :=
  if s.ident.latched then s
  else
    let i := { s.ident with
      latched := true, slot := s.ident.slotStrap, hivePresent := !s.ident.hivePresentN, twinPresent := !s.ident.twinPresentN }
    let (i2, good) := match s.ident.eeprom with
      | some e =>
        if eepromGood e then
          ({ i with eepromOk := true, side := flag (e.getD 3 0) 0, hive := BitVec.ofNat 10 (natOfBytes ((e.drop 4).take 2)), flc := eepromFlc e }, true)
        else ({ i with eepromOk := false, side := false, hive := 0, flc := 0 }, false)
      | none => ({ i with eepromOk := false, side := false, hive := 0, flc := 0 }, false)
    let s1 := { s with ident := i2 }
    let s2 := { s1 with
      dev := { s1.dev with eid := defaultEid s1 }
      ports := (List.range 64).foldl (fun t p => tblMod {} t p fun q => { q with flc := fld i2.flc (3 * p) 3 }) s1.ports }
    if good then s2 else count s2 .slotEepromBad

/-- Physical clusters that the grade has, in ascending order (00 R1, 04 R114): all, all but one of each compute die, or none. -/
def gradeClusters (s : State) : List Nat :=
  match s.ident.grade with
  | .x => List.range 32
  | .m => (List.range 32).filter fun ph => ph % 8 != fld s.ident.clusterFuse (3 * (ph / 8)) 3
  | .f => []

/-- Failures found by the self-test wait for stage 0x13 (R410). -/
def selfTest (s : State) (r : StageReport) : State :=
  let cores := r.cores.filter fun c => decide (c.2 < 17) && !s.comp.retired.contains c.1 && !s.comp.failed.contains c
  let units := r.units.filter fun u => decide (u < 32) && !s.su.retired.contains u && !s.su.failed.contains u
  let queens := r.clusters.filter fun c => decide (c < 32) && !s.comp.retired.contains c && !s.comp.failedQueens.contains c
  { s with
    comp := { s.comp with failed := s.comp.failed ++ cores, failedQueens := s.comp.failedQueens ++ queens }
    su := { s.su with failed := s.su.failed ++ units } }

/-- A core that failed is replaced, or its cluster retired, or the idle spare is unavailable (04 R116, R117, R120). -/
def settleCore (s : State) (f : Nat × Nat) : State :=
  let s0 := { s with comp := { s.comp with failed := s.comp.failed.filter fun e => e != f } }
  match logicalCluster s f.1 with
  | none => s0
  | some q =>
    match logicalCore s q f.2 with
    | some i => replaceCore s q i
    | none => spareUnavailable s0 f.1

/-- A cluster whose queens failed is retired (R410, 04 R117). -/
def settleQueen (s : State) (ph : Nat) : State :=
  let s0 := { s with comp := { s.comp with failedQueens := s.comp.failedQueens.filter (· != ph) } }
  match logicalCluster s ph with
  | none => s0
  | some q => retireCluster s0 q

/-- Failed cores and units are replaced or retired, and with its queens a cluster. -/
def settleUnits (s : State) : State :=
  let s0 := s.comp.failedQueens.foldl settleQueen s
  let s1 := s0.comp.failed.foldl settleCore s0
  s1.su.failed.foldl (fun t u => streamUnitRetire u t) s1

/-- Stage 0x13: logical numbering, retired clusters left as holes, and the spares and retirements of the self-test (04 R114). -/
def numberUnits (s : State) : State :=
  let s1 := { s with comp := { s.comp with
    clusters := (gradeClusters s).map fun ph => if s.comp.retired.contains ph then none else some ph } }
  settleUnits s1

/-- Stage 0x14: a pseudo-channel that failed training is replaced by its stack's spare (R410, 11 R318). -/
def trainHbm (s : State) (r : StageReport) : State :=
  recomputeHealth (r.channels.foldl (fun t c =>
    let pc := c.1 * 64 + c.2
    if 16 ≤ c.1 || 64 ≤ c.2 || t.hbm.spared.contains pc || t.hbm.keptBad.contains pc then t
    else if t.hbm.spared.any fun x => x / 64 == c.1 then { t with hbm := { t.hbm with keptBad := t.hbm.keptBad ++ [pc] } }
    else { t with hbm := { t.hbm with spared := t.hbm.spared ++ [pc] } }) s)

/-- The work of a stage (Table 14.5). -/
def stageWork (s : State) (k : Nat) (r : StageReport) : State :=
  match k with
  | 0x01 => { s with sec := { s.sec with m1 := measure Config.bootRom } }
  | 0x02 => fwAuth s
  | 0x03 => latchSlot s
  | 0x10 => { s with dev := { s.dev with pwrGood := true } }
  | 0x12 => selfTest s r
  | 0x13 => numberUnits s
  | 0x14 => trainHbm s r
  | 0x15 => { s with hbm := { s.hbm with mem := [], errs := [], undef := false } }
  | 0x17 => loadEngineProgs { s with sec := { s.sec with m4 := measure Config.calibration } }
  | _ => s

/-- CLUSTERS and SUNITS (12 Table 12.2). -/
def clustersWord (s : State) : Nat := ((List.range 32).map fun l => if clusterPresent s l then 2 ^ l else 0).foldl (· + ·) 0
def sunitsWord (s : State) : Nat :=
  ((List.range 32).map fun u => if s.su.failed.contains u || s.su.retired.contains u then 0 else 2 ^ u).foldl (· + ·) 0

/-- Stage 0x18: READY, or FROZEN with READY remembered (R412). -/
def bootDone (s : State) : State :=
  let s1 := { s with
    health := { s.health with readyAt := some (nowNs s), twinSettled := outUp s 31 }
    ident := { s.ident with units := some (BitVec.ofNat 32 (clustersWord s), BitVec.ofNat 32 (sunitsWord s)) } }
  if isFrozen s then
    setMode { s1 with dev := { s1.dev with remembered := .ready, frozeAt := s.clk.t48, frozenPin := true } } .frozen
  else setMode s1 .ready

/-- A stage is in progress: before 0x10 in AUX or in a restart, from 0x10 on in BOOT, unless a freeze holds it (R412). -/
def stageRuns (s : State) (k : Nat) : Bool :=
  if k ≤ 3 then (s.dev.mode == .aux || s.dev.mode == .boot) && !s.dev.recovery
  else s.dev.mode == .boot && !(s.dev.stageHeld && isFrozen s)

/-- A stage completes without a failure. -/
def stageDone (s : State) (k : Nat) (r : StageReport) : State :=
  let s1 := stageWork s k r
  let s2 := { s1 with dev := { s1.dev with
    bootStage := if s1.dev.recovery then s.dev.bootStage else BitVec.ofNat 8 k, stageHeld := decide (3 ≤ k) && decide (k < 0x18) && s1.dev.mode == .boot && isFrozen s1 } }
  if k = 3 then tryBoot s2 else if k = 0x18 then bootDone s2 else s2

/-- BOOT_STAGE_COMPLETE (R409, R410): the stage in progress ends, in success or in the failure that it can have. -/
def bootStageComplete (r : StageReport) (s : State) : State :=
  match nextStage s.dev.bootStage.toNat with
  | none => s
  | some k =>
    if !stageRuns s k then s
    else if r.fail != 0 && r.fail == stageFail k then bootFails s r.fail
    else stageDone s k r

def execBootStageComplete (r : StageReport) (s : State) := ok (bootStageComplete r s)

end Sys2Proof.Machine
end

