-- ==== Sys2Proof/Machine/Care.lean ====
section
/-! DEFINITION. Upkeep of HBM: patrol scrub and the sparing of pseudo-channels (11 R317, R318). -/

namespace Sys2Proof.Machine

/-- Patrol scrub reads a word with an error (R317): corrected and written back, or logged, counted and left as it is. -/
def scrubWord (s : State) (e : Nat × Option Bool) : State :=
  match e.2 with
  | some false => hbmSbe s e.1
  | some true => count (hbmDbe s e.1) .hbmDbePatrol (locatePc s e.1)
  | none => s

/-- PATROL_SCRUB (R317): once in each 24 h every word of every stack is read; a new pass counts its single-bit errors
anew, double-bit addresses stay (R318). -/
def patrolScrub (s : State) : State :=
  let day := nowNs s / 86400000000000
  if !clocksRun s || s.hbm.undef || day < s.hbm.scrubAt then s
  else s.hbm.errs.foldl scrubWord { s with hbm := { s.hbm with scrubAt := day + 1, pcErrs := s.hbm.pcErrs.filter (·.2.2) } }

/-- Words of a pseudo-channel are copied corrected; those with a double-bit error keep their bits (R318). -/
def copyCorrected (s : State) (pc : Nat) : State :=
  { s with hbm := { s.hbm with errs := s.hbm.errs.filter fun e => !(e.2 == some false && locatePc s e.1 == pc) } }

/-- PC_SPARE_COPY_COMPLETE (R318): the spare takes the pseudo-channel's place, and no access sees the change. -/
def pcSpareCopyComplete (pc : Nat) (s : State) : State :=
  when (clocksRun s && s.hbm.copying.contains pc) s
    (recomputeHealth { copyCorrected s pc with hbm := { (copyCorrected s pc).hbm with
      copying := s.hbm.copying.filter (· != pc), spared := s.hbm.spared ++ [pc], pcErrs := s.hbm.pcErrs.filter fun e => e.1 != pc } })

def execPatrolScrub (s : State) := ok (patrolScrub s)
def execPcSpareCopyComplete (stack : Fin 16) (channel : Fin 64) (s : State) := ok (pcSpareCopyComplete (stack.val * 64 + channel.val) s)

end Sys2Proof.Machine
end

