-- ==== Sys2Proof/Machine/Collective.lean ====
section
/-! DEFINITION. The collective engine's rows: issue, completion and timeout of an operation, and read data
(09 R277-R290; 11 R333). -/

namespace Sys2Proof.Machine

/-- An issue record that R273, R277 and R283 allow; any other returns BAD_ARG. -/
def issueOk (s : State) (r : BitVec 320) : Bool :=
  let w := groupOf s (irGid r)
  let prog := progOf s (gpProg w)
  let op := irOp r
  let list := prog.any fun i => siOp i == opMerge || siOp i == opTopk
  gpValid w && decide (1 ≤ op) && decide (op ≤ 5) && decide (irLsrc r < gpNl w) && decide (gpMyIdx w < gpN w) &&
    fld r 230 26 == 0 && fld r 288 32 == 0 && !((op == 1 || op == 2) && decide (gpN w ≤ irRoot r)) &&
    !((op == 3 || op == 4) && irSeg r == 0) && !(op == 4 && decide (irSeg r < irCount r)) &&
    decide (chunkCount w r ≤ 65536) && !(list && (op == 2 || op == 3 || op == 5) && chunkCount w r != 1)

/-- An absent unit that an issue record names (00 R5): a cluster of CMASK, where the mask of all ones exempts the numbers beyond the
module's clusters as a launch's does (04 R112; assumption 122), or the store that it reads from or writes to. -/
def recordAbsent (s : State) (r : BitVec 320) : Option Nat :=
  let w := groupOf s (irGid r)
  let m := irCmask r
  let store := fun a : Nat => if addrFault s a 0 = 2 then some (nfld a 43 9) else none
  let src := if (supplied w r).1 < (supplied w r).2 then store (irSrc r) else none
  let dst := if irOp r != 2 || gpMyIdx w == irRoot r then store (irDst r) else none
  match (List.range 32).find? fun l => flag m l && !(m == 0xFFFFFFFF && decide (s.comp.clusters.length ≤ l)) && !clusterPresent s l with
  | some l => some l
  | none => if gpValid w then src.orElse fun _ => dst else none

/-- A ninth operation of a source of a group is held until the oldest of eight completes (R277). -/
def sourceFull (s : State) (r : BitVec 320) : Bool :=
  let n := tblGet 0 s.coll.nextSeq (4 * irGid r + irLsrc r)
  s.coll.ops.any fun o => o.gid == irGid r && o.lsrc == irLsrc r && decide (8 ≤ (n + 2 ^ 32 - o.seq) % 2 ^ 32)

/-- The chunks that waited for an operation to be issued here go on (R282). -/
def feedWaiting (s : State) (g seq : Nat) : State :=
  let ids := groupIds g (groupOf s g)
  let mine := s.su.chunks.filter fun c => ids.contains c.ctx && c.seq == seq && !c.complete
  settleFree <| mine.foldl (fun t c =>
    match ctxOf t c.ctx, t.su.chunks.find? (isChunk c.ctx c.seq c.chunk c.unit) with
    | some x, some now => if now.pieces.isEmpty then t else feed t x now
    | _, _ => t) s

/-- An operation is issued (R277): it takes its source's next sequence number, and the source starts to send. -/
def issue (s : State) (r : BitVec 320) : State :=
  let g := irGid r
  let w := groupOf s g
  let k := 4 * g + irLsrc r
  let n := tblGet 0 s.coll.nextSeq k
  let seq := n % 2 ^ 32
  let o : COp := {
    gid := g, seq := seq, lsrc := irLsrc r, word := r, issuedAt := logicNs s, inStep := (stepOf s (gpKey w)).isSome
    nextChunk := (supplied w r).1 }
  let s1 := { s with coll := { s.coll with
    nextSeq := tblSet 0 s.coll.nextSeq k (n + 1), ops := s.coll.ops ++ [o] } }
  pump (feedWaiting s1 g seq) g (irLsrc r) 4

/-- The status with which a record is refused (R273, 00 R5), if it is. -/
def issueStatus (s : State) (r : BitVec 320) : Option Status :=
  if !issueOk s r then some .badArg else if (recordAbsent s r).isSome then some .absentUnit else none

/-- A record that may not be issued (R273): its status ends the step in progress of its group's key without replay, and outside one it
is the source's result (assumption 105). -/
def refuseIssue (s : State) (r : BitVec 320) (e : Status) : State :=
  let g := irGid r
  if (stepOf s (gpKey (groupOf s g))).isSome then failStep s { status := e.code, ecause := 0 }
  else putResult s g (irLsrc r) (tblGet 0 s.coll.nextSeq (4 * g + irLsrc r) % 2 ^ 32) e.code

/-- COLLECTIVE_ISSUE (R277): the oldest record whose source has room is issued; none while the step waits for its replay (R290). -/
def collectiveIssue (s : State) : State :=
  let waits := match s.job.step with
    | some st => st.poisoned.isSome || st.held || st.committing
    | none => false
  if !unitsRun s || waits then s
  else
    match s.coll.queue.find? fun r => (issueStatus s r).isSome || !sourceFull s r with
    | none => s
    | some r =>
      let s1 := { s with coll := { s.coll with queue := eraseFirst (· == r) s.coll.queue } }
      match issueStatus s r with
      | none => issue s1 r
      | some e => refuseIssue s1 r e

/-- Every chunk's result has been written and acknowledged, or every credit has come (R288). -/
def opDone (s : State) (o : COp) : Bool :=
  let n := chunkCount (groupOf s o.gid) o.word
  o.acks.isEmpty && decide (n ≤ o.done.length)

/-- The operation named by group, sequence number and local source. -/
def findOp (s : State) (g q l : Nat) : Option COp := s.coll.ops.find? fun o => o.gid == g && o.seq == q && o.lsrc == l

/-- COLLECTIVE_COMPLETE (R288): the semaphore rises by 1 in every cluster of CMASK (05 R145). -/
def collectiveComplete (g q l : Nat) (s : State) : State :=
  match findOp s g q l with
  | none => s
  | some o => if !unitsRun s || !opDone s o then s else completeOp s o

/-- COLL_TIMEOUT (R289): an operation not complete TIMEOUT ns after its issue poisons its step; outside a step it completes with
status TIMEOUT. -/
def collTimeout (g q l : Nat) (s : State) : State :=
  match findOp s g q l with
  | none => s
  | some o =>
    if !unitsRun s || opDone s o || logicNs s < o.issuedAt + gpTimeout (groupOf s g) then s
    else if opInStep s o then raisePoison s .collTimeout
    else completeOp (putResult s g l q Status.timeout.code) o

/-- MRDATA (11 R333): read data reach the collective engine or the forager that asked. -/
def mrdata (f : Frame) (s : State) : State :=
  if fld f.w3 0 9 = engineNo then
    (match takeLocal s f 4 with
    | none => s
    | some s1 => if unitsRun s then collData s1 f else s)
  else chanData f s

def execCollectiveIssue (s : State) := ok (collectiveIssue s)
def execMrdata (f : Frame) (s : State) := ok (mrdata f s)
def execCollectiveComplete (g : Fin 4096) (q : BitVec 32) (l : Fin 4) (s : State) := ok (collectiveComplete g.val q.toNat l.val s)
def execCollTimeout (g : Fin 4096) (q : BitVec 32) (l : Fin 4) (s : State) := ok (collTimeout g.val q.toNat l.val s)

end Sys2Proof.Machine
end

