-- ==== Sys2Proof/Machine/HostAccess.lean ====
section
/-! DEFINITION. Host accesses to the BARs: ring read pointers, the debug aperture, and plain register writes (12 R340-R346, R365). -/

namespace Sys2Proof.Machine

/-- TOKEN_RPTR (R365). -/
def tokenRptr (v : Word) (s : State) : State := when (auxOn s) s { s with host := { s.host with tokenRptr := v } }

/-- CMPL_RPTR (R365). -/
def cmplRptr (v : Word) (s : State) : State := when (auxOn s) s { s with host := { s.host with cmplRptr := v } }

/-- The debug scope APERTURE is unlocked (15 Table 15.5). -/
def scopeAperture (s : State) : Bool := flag s.sec.scopes 0

/-- The HBM address of a BAR4 access (R343). -/
def apertureAddr (s : State) (off : BitVec 30) : Nat := fld s.host.win 0 10 * 2 ^ 30 + off.toNat

/-- A BAR4 access of n bytes is carried out (R343). -/
def apertureOpen (s : State) (off : BitVec 30) (n : Nat) : Bool :=
  flag s.host.win 63 && scopeAperture s && decide (apertureAddr s off + n ≤ hbmBytes s)

/-- A host-access frame enters through port H (R343, 08 R238): TC1, key 0, STEP 0. -/
def hostFrame (s : State) (op a : Nat) (payload : List Byte) : State :=
  let e := s.dev.eid.toNat
  originate s 80 641 0 (mkFrame 1 0 0 op e e 0 0 0 false (BitVec.ofNat 64 a) payload)

/-- BAR4_READ (R343). -/
def bar4Read (off : BitVec 30) (n : Nat) (s : State) : State :=
  if !auxOn s then s
  else if apertureOpen s off n then hostFrame s 3 (apertureAddr s off) (bytesOfWords [BitVec.ofNat 64 n, 0])
  else emit s (.hostRead (List.replicate n 0xFF#8))

/-- Frames that carry host data to HBM, at most 4,096 bytes each. -/
def hostWrites (s : State) (a : Nat) (bs : List Byte) : State :=
  ((chunksOf 4096 (bs.length / 4096 + 1) bs).foldl (fun (acc : Nat × State) b =>
    (acc.1 + b.length, hostFrame acc.2 1 acc.1 b)) (a, s)).2

/-- BAR4_WRITE (R343). -/
def bar4Write (off : BitVec 30) (bs : List Byte) (s : State) : State :=
  if !auxOn s then s
  else if apertureOpen s off bs.length then hostWrites s (apertureAddr s off) bs
  else count s .winDenied

/-- Bits of byte `o` of a mailbox that the host may write (Table 12.4). -/
def mailMask (o : Nat) : Byte :=
  if o = 3 || (12 ≤ o && o < 16) || (20 ≤ o && o < 64) then 0 else if o = 11 then 0x0F else 0xFF

/-- A byte written to BAR2 (R346): a BUSY mailbox ignores it. -/
def bar2Byte (m : Mem) (o : Nat) (b : Byte) : Mem :=
  let k := mailMask (o % 4096)
  memSetByte m o ((b &&& k) ||| (memByte m o &&& ~~~k))

/-- A byte written to WIN_BASE and WIN_EN (Table 12.3). -/
def winByte (w : Word) (o : Nat) (b : Byte) : Word :=
  (setFld w (8 * o) 8 b.toNat) &&& 0x80000000000003FF#64

/-- One byte of a register write. -/
def regByte (s : State) (bar : Bar) (o : Nat) (b : Byte) : State :=
  match bar with
  | .bar2 =>
    if 262144 ≤ o || mboxStatus s (o / 4096) == 0x8001 then s
    else { s with host := { s.host with bar2 := bar2Byte s.host.bar2 o b } }
  | .bar0 =>
    if 0x2018 ≤ o && o < 0x2020 then
      (if scopeAperture s then { s with host := { s.host with win := winByte s.host.win (o - 0x2018) b } } else s)
    else if 0x8000 ≤ o && o < 0x8000 + 1152 then { s with host := { s.host with msixTable := memSetByte s.host.msixTable (o - 0x8000) b } }
    else s

/-- The bytes of a register write from offset `o` on. -/
def regBytes (s : State) (bar : Bar) (o : Nat) : List Byte → State
  | [] => s
  | b :: bs => regBytes (regByte s bar o b) bar (o + 1) bs

/-- REGISTER_WRITE (R340, R343, R346): locked mailboxes and a locked window count what they ignore. -/
def registerWrite (bar : Bar) (o : Nat) (bs : List Byte) (s : State) : State :=
  if !auxOn s then s
  else
    let s1 := regBytes s bar o bs
    match bar with
    | .bar2 => if !bs.isEmpty && o < 262144 && mboxStatus s (o / 4096) == 0x8001 then count s1 .mboxLocked else s1
    | .bar0 => if !scopeAperture s && o < 0x2020 && 0x2018 < o + bs.length then count s1 .winDenied else s1

def execTokenRptr (v : Word) (s : State) := ok (tokenRptr v s)
def execCmplRptr (v : Word) (s : State) := ok (cmplRptr v s)
def execBar4Read (off : BitVec 30) (n : Nat) (s : State) := ok (bar4Read off n s)
def execBar4Write (off : BitVec 30) (bs : List Byte) (s : State) := ok (bar4Write off bs s)
def execRegisterWrite (bar : Bar) (o : Nat) (bs : List Byte) (s : State) := ok (registerWrite bar o bs s)

end Sys2Proof.Machine
end

