-- ==== Sys2Proof/Machine/Sceuf.lean ====
section
/-! DEFINITION. How firmware runs a Sceuf command (12 R345-R359): one at a time in order of acceptance, with the checks of
R357 in their order. -/

namespace Sys2Proof.Machine

/-- What a command ends with: status, DETAIL, the state, and the response words. -/
structure Ended where
  status : Status
  detail : Nat := 0
  s : State
  resp : List Word := []

/-- A command that is refused leaves no side effect (R345). -/
def refused (s : State) (st : Status) (detail : Nat := 0) : Ended := { status := st, detail := detail, s := s }

/-- A command that is done. -/
def done (s : State) (resp : List Word := []) : Ended := { status := .ok, s := s, resp := resp }

/-- Argument word k of a request; absent words read 0 (R353). -/
def rw (r : Req) (k : Nat) : Word := arg r.args k

/-- Argument word k as a number. -/
def rn (r : Req) (k : Nat) : Nat := (rw r k).toNat

/-- Argument words k to k + n - 1. -/
def rws (r : Req) (k n : Nat) : List Word := (List.range n).map fun i => rw r (k + i)

/-- Masks of device states (Table 12.9). -/
def stAll : Nat := 0x1FE
def st3457 : Nat := 0xB8
def st345 : Nat := 0x38
def st38 : Nat := 0x1F8

/-- A command of Table 12.9: its code, the states that accept it, its full length in bytes, and its checks and effect. -/
structure Cmd where
  code : Nat
  states : State → Req → Nat
  full : Req → Nat := fun _ => 0
  /-- The byte offset of the first faulty argument. -/
  form : State → Req → Option Nat := fun _ _ => none
  auth : State → Req → Bool := fun _ _ => true
  /-- A refusal that comes before every check of the request's own (15 R440). -/
  locked : State → Bool := fun _ => false
  run : State → Req → Ended

/-- The first argument word above its greatest value, as its byte offset (R360). -/
def wordsForm (maxes : List Nat) (r : Req) : Option Nat :=
  (((List.range maxes.length).zip maxes).find? fun e => decide (e.2 < rn r e.1)).map fun e => 8 * e.1

/-- The first fault of two checks. -/
def orForm (a b : Option Nat) : Option Nat := if a.isSome then a else b

/-- A check that faults argument byte `off` unless `good` holds. -/
def needs (good : Bool) (off : Nat) : Option Nat := if good then none else some off

/-- GET_STATE, GET_HEALTH, ABORT, FREEZE and THAW run at acceptance (R347). -/
def immediate (c : Nat) : Bool := [0x0004, 0x0501, 0x0305, 0x0701, 0x0702].contains c

/-- Commands that the boot ROM serves in recovery, on host mailboxes and the management port (15 R428). -/
def recoveryServes (c : Nat) : Bool := [0x0001, 0x0003, 0x0004, 0x0801, 0x0802].contains c

/-- A command is not accepted in the present state (R356): FENCED in FENCED, where JOINED or ACTIVE would accept it. -/
def stateRefusal (s : State) (mask : Nat) : Ended :=
  if s.dev.mode == .fenced && (mask.testBit 4 || mask.testBit 5) then refused s .fenced 0xFF else refused s .stateConflict mask

/-- The checks of R357 in order, then the command. A LENGTH that is out of range faults header byte 10 (assumption 51). -/
def checkAndRun (c : Cmd) (s : State) (r : Req) : Ended :=
  match sessionCheck s r with
  | some (st, d) => refused s st d
  | none =>
    if byFabric r && !fabricCarries c.code then refused s .denied
    else if s.dev.recovery && !recoveryServes c.code then refused s .denied
    else if c.locked s then refused { s with sec := { s.sec with nonce := none } } .denied
    else if c.full r < reqLen r.w1 || 4032 < reqLen r.w1 then refused s .badArg 10
    else
      match c.form s r with
      | some off => refused s .badArg off
      | none =>
        if !c.auth s r then refused s .denied
        else if (c.states s r).testBit s.dev.mode.code || s.dev.recovery then c.run s r
        else stateRefusal s (c.states s r)

/-- The request that runs next (R347): the oldest immediate one, else the oldest one, unless a command runs. -/
def nextReq (s : State) : Option Req :=
  match s.sceuf.accepted.find? fun r => immediate (reqCmd r) with
  | some r => some r
  | none => if s.sceuf.forward.isSome then none else s.sceuf.accepted.head?

/-- The accepted request that a command's row runs (R347): the next one, when it is the row's. -/
def frontReq (code : Nat) (src : ReqSrc) (s : State) : Option Req :=
  if !mailServed s then none else (nextReq s).filter fun r => r.src == src && reqCmd r == code

/-- The state with an accepted request taken off the list. -/
def takeReq (s : State) (r : Req) : State :=
  { s with sceuf := { s.sceuf with accepted := eraseFirst (fun x => x == r) s.sceuf.accepted } }

/-- The response that a request gets without being run, since it repeats a TAG whose request has run meanwhile (R350). -/
def repeated (s : State) (r : Req) : Option (List Word) :=
  match r.src with
  | .host _ => none
  | _ => keptResp s r

/-- A command runs and its response goes back (R346); without a request for it the row leaves the state as it is. -/
def runCmd (c : Cmd) (src : ReqSrc) (s : State) : State :=
  match frontReq c.code src s with
  | none => s
  | some r =>
    match repeated s r with
    | some m => sendMsg (takeReq s r) r.src r.peer m
    | none =>
      let e := checkAndRun c (takeReq s r) r
      respond e.s r e.status.code e.detail e.resp

end Sys2Proof.Machine
end

