-- ==== Sys2Proof/Machine/Session.lean ====
section
/-! DEFINITION. The session family and the test mode (12 R341, R342, R349, R352, R354, R358, R359). -/

namespace Sys2Proof.Machine

/-- The part number as two words. -/
def partWords (s : State) : List Word := wordsOfBytes (asciiBytes (partName s.ident.grade) 16) 2

/-- CLUSTERS and SUNITS as they read (R341): fixed from the end of BOOT. -/
def unitsShown (s : State) : BitVec 32 × BitVec 32 := s.ident.units.getD (BitVec.ofNat 32 (clustersWord s), BitVec.ofNat 32 (sunitsWord s))

/-- The code of a grade (Table 12.2). -/
def gradeCode : Grade → Nat
  | .x => 0
  | .m => 1
  | .f => 2

/-- The identity region (Table 12.2). -/
def identityWords (s : State) : List Word :=
  partWords s ++ [BitVec.ofNat 64 (gradeCode s.ident.grade), s.ident.serial,
    packW [(0, 32, s.sec.fwVersion.toNat), (32, 8, 1), (40, 8, 3), (48, 8, 2), (56, 3, 7)],
    packW [(0, 32, (unitsShown s).1.toNat), (32, 32, (unitsShown s).2.toNat)]]

/-- The words at BAR0 0x1000, 0x1008 and 0x1010 (Table 12.3). -/
def stateWords (s : State) : List Word :=
  [packW [(0, 4, s.dev.mode.code), (4, 1, s.dev.degraded.toNat), (5, 1, s.dev.replaceRequest.toNat), (6, 1, s.dev.testMode.toNat),
    (7, 1, s.dev.detStrict.toNat), (8, 1, s.dev.safety.toNat), (9, 1, s.dev.keepInService.toNat), (16, 16, s.dev.eid.toNat),
    (32, 32, s.dev.epoch.toNat)],
   BitVec.ofNat 64 s.health.score, packW [(0, 8, s.dev.bootStage.toNat), (8, 8, s.dev.bootFail.toNat)]]

/-- The words of the host's registers that Table 12.3 lists from 0x2008 on. -/
def rptrWords (s : State) : List Word := [s.host.tokenRptr, s.host.cmplRptr, s.host.win]

/-- Word k of the statistics window (13 R397): the header of Table 13.11, then the latched counters. -/
def statsWord (s : State) (k : Nat) : Word :=
  match k with
  | 0 => s.stats.snapSeq
  | 1 => BitVec.ofNat 64 s.stats.snapStart
  | 2 => BitVec.ofNat 64 s.stats.snapEnd
  | 3 => BitVec.ofNat 64 s.stats.snapMode.toNat
  | _ => if k < 8 then 0 else BitVec.ofNat 64 (tblGet 0 s.stats.snapCounters k)

/-- Word k of BAR0 (R340, Tables 12.1 to 12.3); what the tables do not list reads 0. -/
def bar0Word (s : State) (k : Nat) : Word :=
  if k < 0x200 then (identityWords s).getD k 0
  else if k < 0x400 then (stateWords s).getD (k - 0x200) 0
  else if 0x401 ≤ k && k < 0x404 then (rptrWords s).getD (k - 0x401) 0
  else if 0x1000 ≤ k && k < 0x1090 then BitVec.ofNat 64 (memNat s.host.msixTable (8 * (k - 0x1000)) 8)
  else if 0x1200 ≤ k && k < 0x1202 then BitVec.ofNat 64 (fld s.host.msixPending (64 * (k - 0x1200)) 64)
  else if 0x100000 ≤ k && k < 0x200000 then statsWord s (k - 0x100000)
  else 0

/-- What a host read of a byte of BAR0 or BAR2 returns (R340). -/
def barByte (s : State) (bar : Bar) (o : Nat) : Byte :=
  match bar with
  | .bar0 => BitVec.ofNat 8 (fld (bar0Word s (o / 8)) (8 * (o % 8)) 8)
  | .bar2 => if o < 262144 then memByte s.host.bar2 o else 0

/-- The highest major version that both sides speak (R352). -/
def commonMajor (lo hi : Nat) : Option Nat := [3, 2, 1].find? fun m => decide (lo ≤ m) && decide (m ≤ hi)

/-- The minor version of a major (Table 12.2; the spec gives it for MAJOR_MAX only, assumption 8). -/
def minorOf (m : Nat) : Nat := if m = 3 then 2 else 0

/-- The next session id: not 0 and not in use (assumption 8). -/
def freshSession (s : State) : Nat :=
  ((List.range 17).map fun k => (s.sceuf.nextSession + k - 1) % (2 ^ 32 - 1) + 1).find?
    (fun n => !s.sceuf.sessions.any fun x => x.id.toNat == n) |>.getD 1

/-- Where each logical cluster goes when clusters are numbered compactly (R354): old and new numbers. -/
def compactPairs (cl : List (Option Nat)) : List (Nat × Nat) :=
  let old := (List.range cl.length).filter fun l => (cl.getD l none).isSome
  old.zip (List.range old.length)

/-- The new number of a core, by its cluster's. -/
def coreMoved (ps : List (Nat × Nat)) (c : Nat) : Option Nat :=
  let q := if c < 512 then c / 16 else c - 512
  (ps.find? fun p => p.1 == q).map fun p => if c < 512 then 16 * p.2 + c % 16 else 512 + p.2

/-- A table whose numbers fall in banks of `n`, with its banks renumbered. -/
def moveBanks {α : Type} [DecidableEq α] (d : α) (n : Nat) (f : Nat → Option Nat) (t : Tbl α) : Tbl α :=
  t.foldl (fun u e =>
    match f (e.1 / n) with
    | some b => tblSet d u (b * n + e.1 % n) e.2
    | none => u) []

/-- Logical clusters are numbered compactly, without the retired ones (R354, 04 R117); each keeps its state. -/
def renumber (s : State) : State :=
  let ps := compactPairs s.comp.clusters
  let cl := fun q : Nat => (ps.find? fun p => p.1 == q).map (·.2)
  { s with comp := { s.comp with
    clusters := s.comp.clusters.filter Option.isSome
    queens := moveBanks {} 1 cl s.comp.queens
    cores := moveBanks {} 1 (coreMoved ps) s.comp.cores
    ls := moveBanks 0 lsBytes (coreMoved ps) s.comp.ls
    cs := moveBanks 0 csBytes cl s.comp.cs
    lsErrs := moveBanks none lsBytes (coreMoved ps) s.comp.lsErrs
    csErrs := moveBanks none csBytes cl s.comp.csErrs } }

/-- CLUSTERS is brought up to date (R354). -/
def showClusters (s : State) : State :=
  { s with ident := { s.ident with units := s.ident.units.map fun u => (BitVec.ofNat 32 (clustersWord s), u.2) } }

/-- The transport of a request as a session records it (R352). -/
def srcKind : ReqSrc → Nat
  | .host _ => 0
  | .fabric _ => 1
  | .mgmt => 2

/-- OPEN_SESSION (R352, R354). -/
def openSessionRun (s : State) (r : Req) : Ended :=
  match commonMajor (rn r 0) (rn r 1) with
  | none => refused s .badVersion (versionDetail 1 3)
  | some m =>
    if 16 ≤ s.sceuf.sessions.length then refused s .noResource
    else
      let n := freshSession s
      let x : Session := { id := BitVec.ofNat 32 n, kind := srcKind r.src, peer := r.peer, major := m }
      let s1 := { s with sceuf := { s.sceuf with sessions := s.sceuf.sessions ++ [x], nextSession := n + 1 } }
      let s2 := if s1.dev.mode == .ready && s1.comp.slots.isEmpty then showClusters (renumber s1) else s1
      done s2 ([BitVec.ofNat 64 n, BitVec.ofNat 64 m, BitVec.ofNat 64 (minorOf m)] ++ identityWords s2)

def openSessionCmd : Cmd where
  code := 0x0001
  states := fun _ _ => stAll
  full := fun _ => 16
  form := fun _ r => wordsForm [255, 255] r
  run := openSessionRun

/-- CLOSE_SESSION ends the session with its kept responses (R352). -/
def closeSessionCmd : Cmd where
  code := 0x0002
  states := fun _ _ => stAll
  run := fun s r => done { s with sceuf := { s.sceuf with
    sessions := s.sceuf.sessions.filter fun x => x.id != reqSession r
    kept := s.sceuf.kept.filter fun k => k.1 != reqSession r } }

def getIdentityCmd : Cmd where
  code := 0x0003
  states := fun _ _ => stAll
  run := fun s _ => done s (identityWords s)

/-- GET_STATE: the registers of Table 12.3 that read, in order of address (assumption 127). -/
def getStateCmd : Cmd where
  code := 0x0004
  states := fun _ _ => stAll
  run := fun s _ => done s (stateWords s ++ rptrWords s)

/-- Measurement 5 is extended (15 R432). -/
def extendHistory (s : State) (x : List Byte) : State :=
  { s with sec := { s.sec with m5 := Config.sha384 (bytesOfNat s.sec.m5.toNat 48 ++ x) } }

/-- The debug scope TEST is unlocked (15 Table 15.4). -/
def scopeTest (s : State) : Bool := flag s.sec.scopes 3

/-- SET_TEST_MODE (R358): entering extends the debug history; clearing unloads every PHYS image. What an entry extends the
measurement by is assumption 12. -/
def setTestMode (s : State) (on : Bool) : State :=
  if on then
    let s1 := if s.dev.testMode then s else extendHistory s [1]
    { s1 with dev := { s1.dev with testMode := true } }
  else
    { s with
      dev := { s.dev with testMode := false }
      comp := { s.comp with slots := s.comp.slots.filter fun e => match e.2 with
        | some x => !x.phys
        | none => false } }

def setTestModeCmd : Cmd where
  code := 0x0005
  states := fun _ _ => 0x08
  full := fun _ => 8
  form := fun _ r => wordsForm [1] r
  auth := fun s _ => scopeTest s
  run := fun s r => done (setTestMode s (rn r 0 == 1))

/-- The inner message of a FORWARD: its header and arguments follow the two argument words. -/
def innerWords (r : Req) : List Word := rws r 2 (max 8 (ceilDiv (reqLen r.w1 - 16) 8))

/-- FORWARD (R349): an MBOX frame goes to a mailbox of another module, and the command waits for its response. Bit 16 of the
first word names a port instead of an EID (assumption 53). -/
def forwardRun (s : State) (r : Req) : State :=
  let target := rn r 0 % 65536
  let viaPort := flag (rw r 0) 16
  let pay := bytesOfWords (innerWords r)
  let f := mkFrame 7 0 (if viaPort then 3 else 0) 7 target s.dev.eid.toNat 0 0 0 false (rw r 1) pay
  let s1 := originateMgmt s f
  { s1 with sceuf := { s1.sceuf with
    forward := some { req := r, target := target, viaPort := viaPort, mailbox := rn r 1, sentAt := nowNs s } } }

def forwardForm (_ : State) (r : Req) : Option Nat :=
  orForm (needs (decide (rn r 0 < 2 ^ 17) && !(flag (rw r 0) 16 && decide (64 ≤ rn r 0 % 65536))) 0)
    (needs (decide (rn r 1 ≤ 15)) 8)

/-- FORWARD's checks; the response is left to MBOX_RESPONSE and FORWARD_TIMEOUT. -/
def forwardCmd : Cmd where
  code := 0x0006
  states := fun _ _ => 0xB8
  full := fun _ => 4032
  form := forwardForm
  run := fun s r => done (forwardRun s r)

/-- A FORWARD that passes its checks waits; one that does not completes at once. -/
def forward (src : ReqSrc) (s : State) : State :=
  match frontReq forwardCmd.code src s with
  | none => s
  | some r =>
    match repeated s r with
    | some m => sendMsg (takeReq s r) r.src r.peer m
    | none =>
      let e := checkAndRun forwardCmd (takeReq s r) r
      if e.status = .ok then e.s else respond e.s r e.status.code e.detail e.resp

def execOpenSession (src : ReqSrc) (s : State) := ok (runCmd openSessionCmd src s)
def execCloseSession (src : ReqSrc) (s : State) := ok (runCmd closeSessionCmd src s)
def execGetIdentity (src : ReqSrc) (s : State) := ok (runCmd getIdentityCmd src s)
def execGetState (src : ReqSrc) (s : State) := ok (runCmd getStateCmd src s)
def execSetTestMode (src : ReqSrc) (s : State) := ok (runCmd setTestModeCmd src s)
def execForward (src : ReqSrc) (s : State) := ok (forward src s)

end Sys2Proof.Machine
end

