-- ==== Sys2Proof/Machine/Membership.lean ====
section
/-! DEFINITION. Configuration commands of membership, routes, circuits and ranks (12 Table 12.9; 08 R236, R237, R248, R249,
R254, R255; 13 R369, R379, R389). -/

namespace Sys2Proof.Machine

/-- States that accept most configuration commands: 3, 4, 5 and 7. -/
def stConfig (_ : State) (_ : Req) : Nat := st3457

/-- A full length of n words. -/
def wordsLen (n : Nat) (_ : Req) : Nat := 8 * n

/-- SET_EID (08 R236). -/
def setEidCmd : Cmd where
  code := 0x0101
  states := fun _ _ => 0x08
  full := wordsLen 1
  form := fun _ r => wordsForm [0xFFFF] r
  run := fun s r => done { s with dev := { s.dev with eid := BitVec.ofNat 16 (rn r 0) } }

/-- A membership change while a launch runs (13 R379, R389): poison with the replay held, or at the next step's start. -/
def membershipChange (s : State) : State :=
  match s.job.launch, s.job.step with
  | some l, some st =>
    if st.committing || (st.voted && !isCommitRank s l.pkey) then { s with job := { s.job with membershipNext := true } }
    else modStep (raisePoison s .membership) fun x => { x with held := true }
  | _, _ => s

/-- JOIN (Table 12.9, R369): it enters JOINED from READY, and only raises the epoch in JOINED and ACTIVE. -/
def joinRun (s : State) (r : Req) : Ended :=
  let det := rn r 1 == 1
  let saf := rn r 2 == 1
  if s.dev.mode == .ready then
    done (setMode { s with dev := { s.dev with epoch := BitVec.ofNat 32 (rn r 0), detStrict := det, safety := saf } } .joined)
  else if rn r 0 ≤ s.dev.epoch.toNat then refused s .badArg 0
  else if det != s.dev.detStrict || saf != s.dev.safety then refused s .stateConflict 0x08
  else
    let s1 := { s with dev := { s.dev with epoch := BitVec.ofNat 32 (rn r 0) } }
    done (if s.dev.mode == .active then membershipChange s1 else s1)

/-- In test mode JOIN is not accepted in READY (R358). -/
def joinCmd : Cmd where
  code := 0x0102
  states := fun s _ => if s.dev.testMode then 0x30 else st345
  full := wordsLen 3
  form := fun _ r => orForm (wordsForm [0xFFFFFFFF, 1, 1] r) (needs (rn r 2 == 0 || rn r 1 == 1) 16)
  run := joinRun

/-- LEAVE (Table 12.8). -/
def leaveCmd : Cmd where
  code := 0x0103
  states := fun _ _ => 0x90
  run := fun s _ => done (setMode s .ready)

/-- A count of entries of n words each, after k words, fits the arguments. -/
def listLen (k n count : Nat) : Nat := 8 * k + 8 * n * count

/-- The first entry with a bad word, as its byte offset; no more entries than a mailbox holds. -/
def entriesForm (k n count : Nat) (r : Req) (bad : Nat → Nat → Bool) : Option Nat :=
  ((List.range (n * min count 504)).find? fun i => bad (i % n) (rn r (k + i))).map fun i => 8 * (k + i)

/-- Entries that run past a table's end. -/
def rangeForm (first count size off : Nat) : Option Nat :=
  if size ≤ first then some off else if size < first + count then some (off + 8) else none

/-- The command's arguments are longer than a mailbox holds, or shorter than its list. -/
def countForm (count most off : Nat) : Option Nat := needs (decide (count ≤ most)) off

/-- A route bank that may be written (08 R249). -/
def bankFree (s : State) (b : Bool) : Bool := bankOf s b == .inactive

/-- WRITE_ROUTES (R249). -/
def writeRoutes (s : State) (r : Req) : State :=
  let es := (rws r 3 (rn r 2)).map fun w => BitVec.ofNat 32 w.toNat
  let d : BitVec 32 := BitVec.ofNat 32 (127 + 127 * 128 + 65536)
  if rn r 0 == 1 then { s with fab := { s.fab with route1 := tblSetAll d s.fab.route1 (rn r 1) es } }
  else { s with fab := { s.fab with route0 := tblSetAll d s.fab.route0 (rn r 1) es } }

def writeRoutesCmd : Cmd where
  code := 0x0104
  states := stConfig
  full := fun r => listLen 3 1 (rn r 2)
  form := fun _ r => orForm (wordsForm [1, 0xFFFF, 501] r) (orForm (rangeForm (rn r 1) (rn r 2) 65536 8)
    (entriesForm 3 1 (rn r 2) r fun _ v => decide (2 ^ 18 ≤ v)))
  run := fun s r => if bankFree s (rn r 0 == 1) then done (writeRoutes s r) else refused s .stateConflict

/-- WRITE_MCAST (R248, R249). -/
def writeMcast (s : State) (r : Req) : State :=
  let es := (List.range (rn r 2)).map fun i => ofWords 128 (rws r (3 + 2 * i) 2)
  if rn r 0 == 1 then { s with fab := { s.fab with mcast1 := tblSetAll 0 s.fab.mcast1 (rn r 1) es } }
  else { s with fab := { s.fab with mcast0 := tblSetAll 0 s.fab.mcast0 (rn r 1) es } }

def writeMcastCmd : Cmd where
  code := 0x0105
  states := stConfig
  full := fun r => listLen 3 2 (rn r 2)
  form := fun _ r => orForm (wordsForm [1, 0xFFF, 250] r) (orForm (rangeForm (rn r 1) (rn r 2) 4096 8)
    (entriesForm 3 2 (rn r 2) r fun k v => k == 1 && decide (2 ^ 20 ≤ v)))
  run := fun s r => if bankFree s (rn r 0 == 1) then done (writeMcast s r) else refused s .stateConflict

/-- A bank with its state changed. -/
def setBank (s : State) (b : Bool) (x : Bank) : State :=
  if b then { s with fab := { s.fab with bank1 := x } } else { s with fab := { s.fab with bank0 := x } }

/-- ARM (R249): Ts is at least 10 µs after the command's arrival. -/
def armEpochRun (s : State) (r : Req) : Ended :=
  let b := rn r 0 == 1
  let busy := fun x : Bank => x == .armed || x == .draining
  if !bankFree s b || busy s.fab.bank0 || busy s.fab.bank1 then refused s .stateConflict
  else
    let s1 := setBank s b .armed
    done { s1 with fab := { s1.fab with swapTime := rw r 1 } }

def armEpochCmd : Cmd where
  code := 0x0106
  states := stConfig
  full := wordsLen 2
  form := fun _ r => orForm (wordsForm [1] r) (needs (decide (r.at_ + 10000 ≤ rn r 1)) 8)
  run := armEpochRun

/-- CANCEL_ARM (R249): an ARMED bank returns to INACTIVE, and SWAP_TIME to Ts of the last swap (R250). -/
def cancelArmCmd : Cmd where
  code := 0x0107
  states := stConfig
  full := wordsLen 2
  form := fun _ r => wordsForm [1] r
  run := fun s r =>
    if bankOf s (rn r 0 == 1) == .armed && decide (nowNs s < s.fab.swapTime.toNat) then
      let s1 := setBank s (rn r 0 == 1) .inactive
      done { s1 with fab := { s1.fab with swapTime := s1.fab.lastSwap } }
    else refused s .stateConflict

/-- The slot list of SETUP_CIRCUIT: output and slot of each word (assumption 54). -/
def circuitSlots (r : Req) : List (Nat × Nat) := (rws r 5 (min (rn r 4) 499)).map fun w => (fld w 0 7, fld w 16 10)

/-- TARGETS and STREAM of the entry that SETUP_CIRCUIT supplies. -/
def setupTargets (r : Req) : BitVec 128 := ofWords 128 (rws r 2 2)
def setupStream (r : Req) : Bool := flag (setupTargets r) 81

/-- A list that names an output that TARGETS does not, or misses one that it does (R254). -/
def slotListForm (r : Req) : Option Nat :=
  let outs := egressOf (setupTargets r)
  let named := circuitSlots r
  let bad := (List.range (min (rn r 4) 499)).find? fun j =>
    let w := rw r (5 + j)
    w &&& ~~~0x3FF007F#64 != 0 || !(outs.contains (fld w 0 7) || (setupStream r && fld w 0 7 == 81))
  match bad with
  | some j => some (40 + 8 * j)
  | none =>
    needs (outs.all (fun o => named.any fun x => x.1 == o) && (!setupStream r || named.any fun x => x.1 == 81)) 40

/-- Form of SETUP_CIRCUIT (R254): an egress port that is not up or runs MFP 2.4 is a bad argument. -/
def setupForm (s : State) (r : Req) : Option Nat :=
  let ing := fld (rw r 1) 0 7
  let ports := (egressOf (setupTargets r)).filter (· < 64)
  orForm (needs (decide (rn r 0 < 4096)) 0)
    (orForm (needs (fld (rw r 1) 20 44 == 0 && (decide (ing ≤ 80) || ing == 127)) 8)
      (orForm (needs (fld (rw r 3) 19 45 == 0) 24)
        (orForm (countForm (rn r 4) 499 32)
          (orForm (slotListForm r) (needs (ports.all fun o => outUp s o && (portOf s o).mfp != 1) 16)))))

/-- Calendar entries that a slot list writes: output 81 stands for all stream-unit queues (R254). -/
def calendarSlots (r : Req) : List (Nat × Nat) :=
  (circuitSlots r).flatMap fun x => if x.1 = 81 then (List.range 32).map fun u => (81 + u, x.2) else [x]

/-- The shadow calendar of an output holds a slot, and how many it holds. -/
def shadowValid (s : State) (o k : Nat) : Bool := flag (tblGet 0 s.fab.calShadow (o * 1024 + k)) 12
def shadowCount (s : State) (o : Nat) : Nat := (s.fab.calShadow.filter fun e => e.1 / 1024 == o && flag e.2 12).length

/-- The slots are free, none is named twice, and no output holds more than 960 (R254). -/
def slotsFit (s : State) (l : List (Nat × Nat)) : Bool :=
  l.all (fun x => !shadowValid s x.1 x.2) && l.eraseDups.length == l.length &&
    (l.map (·.1)).eraseDups.all fun o => decide (shadowCount s o + (l.filter fun x => x.1 == o).length ≤ 960)

/-- The ports that a circuit needs: those it leaves by and that it comes in by (R356). -/
def setupPorts (r : Req) : List Nat :=
  egressOf (setupTargets r) ++ (let p := fld (rw r 1) 0 7
    if p ≤ 80 then [p] else [])

/-- SETUP_CIRCUIT (R254): VALID and the shadow calendars. A fenced port that it needs refuses it with FENCED (R356). -/
def setupCircuitRun (s : State) (r : Req) : Ended :=
  let id := rn r 0
  let cal := calendarSlots r
  match (setupPorts r).find? (fenceBit s) with
  | some o => refused s .fenced o
  | none =>
    if circuitValid s id then refused s .stateConflict
    else if !slotsFit s cal then refused s .noResource
    else
      let e := setFlag (ofWords 192 (rws r 1 3)) 7 true
      let put := fun (t : Tbl (BitVec 16)) (x : Nat × Nat) => tblSet 0 t (x.1 * 1024 + x.2) (BitVec.ofNat 16 (id + 4096))
      done { s with fab := { s.fab with
        circuits := tblSet 0 s.fab.circuits id e, calShadow := cal.foldl put s.fab.calShadow } }

def setupCircuitCmd : Cmd where
  code := 0x0108
  states := stConfig
  full := fun r => listLen 5 1 (rn r 4)
  form := setupForm
  run := setupCircuitRun

/-- TEARDOWN_CIRCUIT (R255): the slots go from the shadow, and VALID at the next wrap. -/
def teardownCircuit (s : State) (id : Nat) : State :=
  { s with fab := { s.fab with
    calShadow := s.fab.calShadow.filter fun e => !(flag e.2 12 && fld e.2 0 12 == id)
    teardown := if s.fab.teardown.contains id then s.fab.teardown else s.fab.teardown ++ [id] } }

def teardownCircuitCmd : Cmd where
  code := 0x0109
  states := stConfig
  full := wordsLen 1
  form := fun s r => needs (decide (rn r 0 < 4096) && circuitValid s (rn r 0)) 0
  run := fun s r => done (teardownCircuit s (rn r 0))

/-- WRITE_RANKMAP's second count, and its key and window words. -/
def keyCount (r : Req) : Nat := rn r (2 + rn r 1)
def keyPairs (r : Req) : List (Nat × Word) :=
  (List.range (min (keyCount r) 250)).map fun j => (rn r (3 + rn r 1 + 2 * j), rw r (4 + rn r 1 + 2 * j))

/-- A key window's ranges (Table 13.4). -/
def windowOk (w : Word) : Bool := !flag w 63 && decide (fld w 15 16 ≤ 32768)

/-- A write that touches the key of a step in progress, its window or its rank-map entries (R237). -/
def ranksBusy (s : State) (r : Req) : Bool :=
  match s.job.launch with
  | none => false
  | some l =>
    let w := windowOf s l.pkey
    let lo := fld w 0 15
    stepBlocks s l.pkey && ((keyPairs r).any (fun k => k.1 == l.pkey) ||
      (decide (rn r 0 < lo + fld w 15 16) && decide (lo < rn r 0 + rn r 1)))

/-- WRITE_RANKMAP (R237, 13 R376). -/
def writeRankmap (s : State) (r : Req) : State :=
  let es := (rws r 2 (rn r 1)).map fun w => BitVec.ofNat 32 w.toNat
  { s with fab := { s.fab with
    rankmap := tblSetAll 0 s.fab.rankmap (rn r 0) es
    windows := (keyPairs r).foldl (fun t k => tblSet 0 t k.1 k.2) s.fab.windows } }

def writeRankmapForm (_ : State) (r : Req) : Option Nat :=
  orForm (wordsForm [32767, 501] r)
    (orForm (rangeForm (rn r 0) (rn r 1) 32768 0)
      (orForm (entriesForm 2 1 (rn r 1) r fun _ v => decide (2 ^ 17 ≤ v))
        (orForm (needs (decide (24 + 8 * rn r 1 + 16 * keyCount r ≤ 4032)) (8 * (2 + rn r 1)))
          (entriesForm (3 + rn r 1) 2 (keyCount r) r fun k v =>
            if k = 0 then decide (4096 ≤ v) else !windowOk (BitVec.ofNat 64 v)))))

def writeRankmapCmd : Cmd where
  code := 0x010A
  states := stConfig
  full := fun r => 24 + 8 * rn r 1 + 16 * keyCount r
  form := writeRankmapForm
  run := fun s r => if ranksBusy s r then refused s .stateConflict else done (writeRankmap s r)

def execSetEid (src : ReqSrc) (s : State) := ok (runCmd setEidCmd src s)
def execJoin (src : ReqSrc) (s : State) := ok (runCmd joinCmd src s)
def execLeave (src : ReqSrc) (s : State) := ok (runCmd leaveCmd src s)
def execWriteRoutes (src : ReqSrc) (s : State) := ok (runCmd writeRoutesCmd src s)
def execWriteMcast (src : ReqSrc) (s : State) := ok (runCmd writeMcastCmd src s)
def execArmEpoch (src : ReqSrc) (s : State) := ok (runCmd armEpochCmd src s)
def execCancelArm (src : ReqSrc) (s : State) := ok (runCmd cancelArmCmd src s)
def execSetupCircuit (src : ReqSrc) (s : State) := ok (runCmd setupCircuitCmd src s)
def execTeardownCircuit (src : ReqSrc) (s : State) := ok (runCmd teardownCircuitCmd src s)
def execWriteRankmap (src : ReqSrc) (s : State) := ok (runCmd writeRankmapCmd src s)

end Sys2Proof.Machine
end

