-- ==== Sys2Proof/Machine/Guards.lean ====
section
/-! DEFINITION. Configuration commands of ports, guards, pools, groups, contexts and mirroring (12 Table 12.9; 06 R160, R169;
07 R203, R210, R212, R226-R234; 08 R246, R261, R269; 09 R275). -/

namespace Sys2Proof.Machine

/-- The bits of a key map (R228): 64 words, bit k of the map for key k; bit 0 reads 1 whatever is written (R238). -/
def putKeymap (t : Tbl Bool) (p : Nat) (ws : List Word) : Tbl Bool :=
  let others := t.filter fun e => e.1 / 4096 != p
  let mine := (List.range 4096).filterMap fun k => if k != 0 && flag (arg ws (k / 64)) (k % 64) then some (p * 4096 + k, true) else none
  others.filter (fun e => decide (e.1 / 4096 < p)) ++ mine ++ others.filter fun e => decide (p < e.1 / 4096)

/-- The FENCE ordered set (10 Table 10.7). -/
def fencePayload (s : State) (on : Bool) : BitVec 40 := BitVec.ofNat 40 (pack [(0, 32, s.dev.epoch.toNat), (32, 1, on.toNat)])

/-- SET_KEYMAP (R228, 13 R389): a write with FENCE set on an external port, or one that clears it, sends the set on that port. -/
def setKeymap (s : State) (r : Req) : State :=
  let p := rn r 0
  let on := rn r 66 == 1
  let ws := rws r 2 64
  let s1 := if rn r 1 == 1 then { s with fab := { s.fab with keyOut := putKeymap s.fab.keyOut p ws } }
    else { s with fab := { s.fab with keyIn := putKeymap s.fab.keyIn p ws } }
  let s2 := { s1 with fab := { s1.fab with fence := tblSet false s1.fab.fence p on } }
  if (on || fenceBit s p) && p < 64 && (portOf s p).sb then sendSet s2 p codeFence (fencePayload s on) 3 else s2

def setKeymapCmd : Cmd where
  code := 0x010B
  states := stConfig
  full := wordsLen 67
  form := fun _ r => orForm (wordsForm [80, 1] r) (needs (decide (rn r 66 ≤ 1)) 528)
  run := fun s r => done (setKeymap s r)

/-- The guard words of SET_GUARD (Table 7.7), and the pause word (Table 8.9). -/
def guardWords (r : Req) : BitVec 192 := ofWords 192 (rws r 2 3)

/-- Reserved bits, and the checks of R226 on a write with EN set. -/
def guardForm (r : Req) : Option Nat :=
  let w := guardWords r
  let en := flag w 44
  let cir := fld w 0 22
  let pir := fld w 22 22
  let cbs := fld w 64 24
  let pbs := fld w 88 24
  orForm (wordsForm [80, 7] r)
    (orForm (needs (fld w 45 19 == 0 && !(en && (decide (pir < cir) || decide (3200000 < cir)))) 16)
      (orForm (needs (fld w 112 16 == 0 && !(en && (decide (pbs < cbs) || decide (cbs < 4132)))) 24)
        (orForm (needs (fld w 148 44 == 0) 32)
          (needs (fld (rw r 5) 40 24 == 0 && decide (fld (rw r 5) 20 20 < fld (rw r 5) 0 20)) 40))))

/-- The buckets after a write (R226): full when EN goes from 0 to 1, else kept, capped at the new bursts. -/
def guardBucket (s : State) (k : Nat) (w : BitVec 192) : Bucket :=
  let old := tblGet 0 s.fab.guards k
  let b := refill old (tblGet {} s.fab.buckets k) (logicSc s)
  let c := fld w 64 24 * 9600
  let p := fld w 88 24 * 9600
  if !flag w 44 then {}
  else if !flag old 44 then { committed := c, peak := p, at_ := logicSc s }
  else { committed := min b.committed c, peak := min b.peak p, at_ := logicSc s }

/-- SET_GUARD (R226, 08 R261). -/
def setGuard (s : State) (r : Req) : State :=
  let k := rn r 0 * 8 + rn r 1
  let w : BitVec 192 := guardWords r
  let th := tblSet 0x80001000#64 s.fab.thresholds k (rw r 5)
  let bs := tblSet {} s.fab.buckets k (guardBucket s k w)
  updatePause { s with fab := { s.fab with guards := tblSet 0 s.fab.guards k w, buckets := bs, thresholds := th } } (rn r 0)

def setGuardCmd : Cmd where
  code := 0x010C
  states := stConfig
  full := wordsLen 6
  form := fun _ r => guardForm r
  run := fun s r => done (setGuard s r)

/-- SET_COMB (R203, R210, R212): a POOL_WAIT or LIFETIME of 0 leaves the setting as it is (assumption 55). -/
def setComb (s : State) (r : Req) : State :=
  let w := BitVec.ofNat 40 (pack [(0, 20, rn r 2), (20, 20, rn r 3)])
  let v := if defaultLimit (rn r 0) (rn r 1) == (rn r 2, rn r 3) then none else some w
  { s with
    comb := { s.comb with limits := tblSet none s.comb.limits (rn r 0 * 4 + rn r 1) v }
    fab := { s.fab with
      poolWait := if rn r 4 = 0 then s.fab.poolWait else tblSet 20 s.fab.poolWait (rn r 1) (rn r 4)
      lifetime := if rn r 5 = 0 then s.fab.lifetime else rn r 5 } }

def setCombCmd : Cmd where
  code := 0x010D
  states := stConfig
  full := wordsLen 6
  form := fun _ r => wordsForm [1001, 3, 0xFFFFF, 0xFFFFF, 1000, 20] r
  run := fun s r =>
    if poolCount (rn r 1) < reservedTotal (setComb s r) (rn r 1) then refused s .noResource else done (setComb s r)

/-- ARM_GROUP (09 R275, R281). -/
def armGroupRun (s : State) (r : Req) : Ended :=
  match armGroup s (rn r 0) (ofWords 320 (rws r 1 5)) with
  | .ok s1 => done s1
  | .error e => refused s e (if e = .badArg then 8 else 0)

def armGroupCmd : Cmd where
  code := 0x010E
  states := stConfig
  full := wordsLen 6
  form := fun s r => orForm (needs (decide (rn r 0 < 4096)) 0) (needs (groupFieldsOk s (rn r 0) (ofWords 320 (rws r 1 5))) 8)
  run := armGroupRun

/-- DISARM_GROUP (R275). -/
def disarmGroupCmd : Cmd where
  code := 0x010F
  states := stConfig
  full := wordsLen 1
  form := fun s r => needs (decide (rn r 0 < 4096) && gpValid (groupOf s (rn r 0))) 0
  run := fun s r =>
    if stepBlocks s (gpKey (groupOf s (rn r 0))) then refused s .stateConflict else done (disarmGroup s (rn r 0))

/-- The record that ARM_CONTEXT and DISARM_CONTEXT carry (06 Table 6.3), and its CTX. -/
def ctxRecord (r : Req) : BitVec 1024 := ofWords 1024 (rws r 0 16)
def ctxNumber (r : Req) : Nat := fld (ctxRecord r) 0 12

/-- The program that a context's record names. -/
def ctxProg (s : State) (w : BitVec 1024) : List Word := progOf s (fld w 12 8)

/-- The program uses what DET_STRICT refuses (R169, 13 Table 13.2). -/
def detRefuses (s : State) (w : BitVec 1024) : Bool :=
  s.dev.detStrict && usesArrival (ctxProg s w) (fld w 25 3)

/-- Form of ARM_CONTEXT (R160, R169): the first faulty word, then the program's checks. -/
def armContextForm (s : State) (r : Req) : Option Nat :=
  let w := ctxRecord r
  let prog := ctxProg s w
  orForm (needs (tyOf (fld w 25 3)).isSome 0)
    (orForm (needs (fld w 85 43 == 0) 8)
      (orForm (needs (fld w 768 3 == 0 && decide (fld w 768 64 + fld w 832 13 ≤ hbmBytes s || fld w 832 13 = 0)) 96)
        (orForm (needs (fld w 845 51 == 0 && decide (fld w 832 13 ≤ 4096)) 104)
          (orForm (needs (fld w 896 64 == 0) 112)
            (orForm (needs (fld w 960 64 == 0) 120)
              (orForm (needs (decide (rn r 16 ≤ 0xFFF)) 128)
                (needs (!prog.isEmpty && ctxFits prog (fld w 25 3) (fld w 28 12 + 1) && !detRefuses s w) 0)))))))

/-- ARM_CONTEXT (R160, R169, 07 R211). Auxiliary data with a double-bit error cannot be copied (assumption 37). A double-bit
error in what the comb or R325 holds of them enters the safe state, and the command fails with that state (07 R216). -/
def armContextRun (s : State) (r : Req) : Ended :=
  let w := ctxRecord r
  let u := s.su.map.getD (fld w 20 5 % max 1 s.su.map.length) 0
  let (t, bad) := combRead s fun m => fld w 832 13 != 0 && m == .account (648 + u) 1
  if (ctxOf s (ctxNumber r)).isSome || stepBlocks s (rn r 16) then refused s .stateConflict
  else if bad then refused t .stateConflict
  else if metaBad s (fld w 768 64) (fld w 832 13) then refused (safeEntry s .metadata (fld w 768 64)) .stateConflict
  else if (hbmCheck s (fld w 768 64) (fld w 832 13)).1.isSome then refused s .badArg 96
  else
    match armContext (metaFix t (fld w 768 64) (fld w 832 13)) (ctxNumber r) (rn r 16) w none with
    | some s1 => done s1
    | none => refused s .noResource

def armContextCmd : Cmd where
  code := 0x0110
  states := stConfig
  full := wordsLen 17
  form := armContextForm
  run := armContextRun

/-- DISARM_CONTEXT (R169): a group's context is disarmed with its group. -/
def disarmContextRun (s : State) (r : Req) : Ended :=
  match ctxOf s (ctxNumber r) with
  | none => refused s .badArg 0
  | some x =>
    if x.group.isSome || stepBlocks s x.pkey then refused s .stateConflict else done (disarmContext s (ctxNumber r))

def disarmContextCmd : Cmd where
  code := 0x0111
  states := stConfig
  full := wordsLen 16
  form := fun s r => needs (ctxOf s (ctxNumber r)).isSome 0
  run := disarmContextRun

/-- The ring fields of SET_MIRROR: BASE, SIZE, MODE, WPTR (read-only) and RPTR, words 16 to 20 (assumption 56). SIZE 0 leaves
the module without a ring. -/
def ringForm (s : State) (r : Req) : Option Nat :=
  let base := rn r 16
  let size := rn r 17
  let good := size == 0 || (2 ^ size.log2 == size && decide (65536 ≤ size) && decide (size ≤ 2 ^ 30))
  orForm (needs (size == 0 || (base % size == 0 && decide (base + size ≤ hbmBytes s))) 128)
    (orForm (needs good 136)
      (orForm (needs (decide (rn r 18 ≤ 1)) 144) (needs (decide (rn r 20 < max 1 size) && rn r 20 % 128 == 0) 160)))

/-- SET_MIRROR (R231, R234): a rule's match counter is cleared when its EN is set; a new ring starts at offset 0. -/
def setMirror (s : State) (r : Req) : State :=
  let same := rn r 16 == s.fab.ringBase.toNat && rn r 17 == s.fab.ringSize
  let old := fun n : Nat => flag (tblGet 0 s.fab.mirror n) 42
  { s with fab := { s.fab with
    mirror := tblSetAll 0 s.fab.mirror 0 (rws r 0 16)
    mirrorCnt := s.fab.mirrorCnt.filter fun e => old e.1 && flag (rw r e.1) 42
    ringBase := rw r 16, ringSize := rn r 17, ringMode := rn r 18 == 1
    ringWptr := if same then s.fab.ringWptr else 0, ringRptr := rn r 20, mirrorRun := if same then s.fab.mirrorRun else [] } }

def setMirrorCmd : Cmd where
  code := 0x0112
  states := stConfig
  full := wordsLen 21
  form := fun s r => orForm (entriesForm 0 1 16 r fun _ v => decide (2 ^ 43 ≤ v)) (ringForm s r)
  run := fun s r => done (setMirror s r)

/-- SET_PORT (08 R246, R269). -/
def setPort (s : State) (r : Req) : State :=
  let w := BitVec.ofNat 32 (pack [(0, 3, rn r 1), (8, 24, rn r 2)])
  { s with fab := { s.fab with portCfg := tblSet 0x80007#32 s.fab.portCfg (rn r 0) w } }

def setPortCmd : Cmd where
  code := 0x0113
  states := stConfig
  full := wordsLen 3
  form := fun _ r => wordsForm [80, 7, 0xFFFFFF] r
  run := fun s r => done (setPort s r)

def execSetKeymap (src : ReqSrc) (s : State) := ok (runCmd setKeymapCmd src s)
def execSetGuard (src : ReqSrc) (s : State) := ok (runCmd setGuardCmd src s)
def execSetComb (src : ReqSrc) (s : State) := ok (runCmd setCombCmd src s)
def execArmGroup (src : ReqSrc) (s : State) := ok (runCmd armGroupCmd src s)
def execDisarmGroup (src : ReqSrc) (s : State) := ok (runCmd disarmGroupCmd src s)
def execArmContext (src : ReqSrc) (s : State) := ok (runCmd armContextCmd src s)
def execDisarmContext (src : ReqSrc) (s : State) := ok (runCmd disarmContextCmd src s)
def execSetMirror (src : ReqSrc) (s : State) := ok (runCmd setMirrorCmd src s)
def execSetPort (src : ReqSrc) (s : State) := ok (runCmd setPortCmd src s)

end Sys2Proof.Machine
end

