-- ==== Sys2Proof/Machine/ProgCmd.lean ====
section
/-! DEFINITION. The program family and SET_RINGS (05 R122, R152-R154; 06 R164-R168; 12 R359, R365). -/

namespace Sys2Proof.Machine

/-- DETAIL of a refused image: versions 3.0 to 3.1 for BAD_VERSION (Table 12.5), the image address otherwise. -/
def imageDetail (st : Status) (off : Nat) : Nat := if st = .badVersion then versionDetail 0x30 0x31 else if st = .badArg then off else 0

/-- The slot of the running launch (Table 12.9). -/
def slotRuns (s : State) (n : Nat) : Bool :=
  match s.job.launch with
  | some l => l.cmask != 0 && l.slot == n
  | none => false

/-- LOAD_CORE (R154). -/
def loadCoreRun (s : State) (r : Req) : Ended :=
  if slotRuns s (rn r 0) then refused s .stateConflict
  else
    let t := coreReads s (rn r 1)
    match coreImage s (rn r 1) with
    | .error e => refused t e (imageDetail e 8)
    | .ok x => done { t with comp := { t.comp with slots := tblSet none t.comp.slots (rn r 0) (some x) } }

def loadCoreCmd : Cmd where
  code := 0x0201
  states := fun _ _ => st345
  full := wordsLen 2
  form := fun _ r => wordsForm [15] r
  run := loadCoreRun

/-- UNLOAD_CORE: an empty slot is left as it is. -/
def unloadCoreCmd : Cmd where
  code := 0x0202
  states := fun _ _ => st345
  full := wordsLen 1
  form := fun _ r => wordsForm [15] r
  run := fun s r =>
    if slotRuns s (rn r 0) then refused s .stateConflict
    else done { s with comp := { s.comp with slots := tblSet none s.comp.slots (rn r 0) none } }

/-- LOAD_STREAM (06 R164, R168). That host software must not load programs 254 and 255 (09 R273) binds the host alone. -/
def loadStreamRun (s : State) (r : Req) : Ended :=
  match streamImage s (rn r 0) (rn r 1) with
  | .error e => refused (streamReads s (rn r 1)) e (imageDetail e 8)
  | .ok code => done (loadStreamProg (streamReads s (rn r 1)) (rn r 0) code)

def loadStreamCmd : Cmd where
  code := 0x0203
  states := stConfig
  full := wordsLen 2
  form := fun _ r => wordsForm [255] r
  run := loadStreamRun

/-- SET_PARAMS (05 R122): refused once the step it names has begun. -/
def setParamsRun (s : State) (r : Req) : Ended :=
  let begun := match s.job.step with
    | some st => decide (rn r 0 ≤ st.seq)
    | none => false
  if begun then refused s .stateConflict
  else done { s with comp := { s.comp with sched := s.comp.sched ++ [(rn r 0, rn r 1, rws r 3 (rn r 2))] } }

def setParamsCmd : Cmd where
  code := 0x0204
  states := fun _ _ => 0x20
  full := fun r => listLen 3 1 (rn r 2)
  form := fun _ r => orForm (needs (decide (rn r 1 < 64)) 8) (needs (decide (rn r 1 + rn r 2 ≤ 64)) 16)
  run := setParamsRun

/-- The words of SET_RINGS: TOKEN_BASE, CMPL_BASE, TLOG, CLOG, PTR_ADDR (assumption 58). -/
def setRingsForm (_ : State) (r : Req) : Option Nat :=
  let size := fun k : Nat => decide (12 ≤ rn r k) && decide (rn r k ≤ 24)
  orForm (needs (!size 2 || rn r 0 % 2 ^ rn r 2 == 0) 0)
    (orForm (needs (!size 3 || rn r 1 % 2 ^ rn r 3 == 0) 8) (orForm (needs (size 2) 16) (needs (size 3) 24)))

/-- SET_RINGS (R365): both rings start empty, with their pointers at 0. -/
def setRings (s : State) (r : Req) : State :=
  { s with host := { s.host with
    ringsSet := true, tokenBase := rw r 0, cmplBase := rw r 1, tlog := rn r 2, clog := rn r 3, ptrAddr := rw r 4
    tokenWptr := 0, cmplWptr := 0, tokenRptr := 0, cmplRptr := 0 } }

def setRingsCmd : Cmd where
  code := 0x0301
  states := fun _ _ => 0x18
  full := wordsLen 5
  form := setRingsForm
  run := fun s r => done (setRings s r)

def execLoadCore (src : ReqSrc) (s : State) := ok (runCmd loadCoreCmd src s)
def execUnloadCore (src : ReqSrc) (s : State) := ok (runCmd unloadCoreCmd src s)
def execLoadStream (src : ReqSrc) (s : State) := ok (runCmd loadStreamCmd src s)
def execSetParams (src : ReqSrc) (s : State) := ok (runCmd setParamsCmd src s)
def execSetRings (src : ReqSrc) (s : State) := ok (runCmd setRingsCmd src s)

end Sys2Proof.Machine
end

