-- ==== Sys2Proof/Machine/LaunchCmd.lean ====
section
/-! DEFINITION. LAUNCH, START_RUN and the step commands (12 R361-R364; 04 R112; 05 R121, R122, R149; 06 R169; 13 R376, R379). -/

namespace Sys2Proof.Machine

/-- Fields of the launch block (Table 12.10). -/
def lbKey (r : Req) : Nat := fld (rw r 0) 32 12
def lbSlot (r : Req) : Nat := fld (rw r 0) 44 4
def lbDet (r : Req) : Bool := flag (rw r 0) 48
def lbAuto (r : Req) : Bool := flag (rw r 0) 50
def lbSafety (r : Req) : Bool := flag (rw r 0) 52
def lbMask (r : Req) : BitVec 32 := BitVec.ofNat 32 (fld (rw r 2) 0 32)
def lbParams (r : Req) : Nat := fld (rw r 4) 0 8
def lbForagers (r : Req) : Nat := fld (rw r 4) 8 8
def lbIssues (r : Req) : Nat := fld (rw r 4) 16 8

/-- The word at which the forager starts, the issue records and the run block begin (R362, R363). -/
def lbForagerAt (r : Req) : Nat := 5 + lbParams r
def lbIssueAt (r : Req) : Nat := lbForagerAt r + 2 * lbForagers r
def lbRunAt (r : Req) : Nat := lbIssueAt r + 5 * lbIssues r

/-- The slot's program, unless the launch is a drone's (CMASK 0). -/
def lbImage (s : State) (r : Req) : Option Slot := if lbMask r = 0 then none else tblGet none s.comp.slots (lbSlot r)

/-- Reserved bits, counts and the combinations that R362 and R358 refuse. -/
def blockForm (s : State) (r : Req) : Option Nat :=
  orForm (needs (fld (rw r 0) 53 11 == 0 && !(lbAuto r && lbDet r) && !(s.dev.testMode && lbSafety r && !lbDet r)) 0)
    (needs (fld (rw r 4) 48 16 == 0 && decide (lbParams r ≤ 64) && decide (lbForagers r ≤ 64) && decide (lbIssues r ≤ 32)) 32)

/-- The slot holds a program with as many parameters (R362). -/
def paramsForm (s : State) (r : Req) : Option Nat :=
  if lbMask r = 0 then none
  else
    match tblGet none s.comp.slots (lbSlot r) with
    | none => some 0
    | some sl => needs (sl.nparam == lbParams r) 32

/-- The key window lets the job commit (13 R376). -/
def windowForm (s : State) (r : Req) : Option Nat :=
  let k := lbKey r
  needs (decide (commitRank s k < rankCount s k) && circuitValid s (commitCircuit s k)) 0

/-- Under DET_STRICT no context of the key uses the ARRIVAL variant (06 R169). -/
def contextsForm (s : State) (r : Req) : Option Nat :=
  needs (!lbDet r || s.su.ctxs.all fun e => match e.2 with
    | some x => x.pkey != lbKey r || !usesArrival (ctxProg s x.word) (fld x.word 25 3)
    | none => true) 0

/-- The channel and the image address of a forager start. -/
def startWords (r : Req) (i : Nat) : Word × Nat := (rw r (lbForagerAt r + 2 * i), rn r (lbForagerAt r + 2 * i + 1))

/-- Forager starts name channels (R362). -/
def startsForm (r : Req) : Option Nat :=
  ((List.range (lbForagers r)).find? fun i => decide (320 ≤ (startWords r i).1.toNat)).map fun i => 8 * (lbForagerAt r + 2 * i)

/-- The run block (R363): reserved bits, NSTOP, and a context with room for the stop list. -/
def runForm (s : State) (r : Req) : Option Nat :=
  let v := rw r (lbRunAt r)
  let good := match ctxOf s (fld v 40 12) with
    | some x => decide (80 ≤ fld x.word 832 13)
    | none => false
  needs (fld v 52 12 == 0 && decide (fld v 32 8 ≤ 16) && good) (8 * lbRunAt r)

/-- Form of LAUNCH and START_RUN. -/
def launchForm (isRun : Bool) (s : State) (r : Req) : Option Nat :=
  let first := orForm (blockForm s r) (orForm (paramsForm s r) (orForm (windowForm s r) (contextsForm s r)))
  match first with
  | some o => some o
  | none => orForm (startsForm r) (if isRun then runForm s r else none)

/-- The logical clusters that a mask names, or the first one that is absent (04 R112, R117). -/
def logicalMask (s : State) (m : BitVec 32) : Except Nat (BitVec 32) :=
  let named := (List.range 32).filter fun l => flag m l && !(m == 0xFFFFFFFF && decide (s.comp.clusters.length ≤ l))
  match named.find? fun l => !clusterPresent s l with
  | some l => .error l
  | none => .ok (BitVec.ofNat 32 ((named.map fun l => 2 ^ l).foldl (· + ·) 0))

/-- The mask of a PHYS image names physical clusters (05 Table 5.11, 04 R115; assumption 52). -/
def physicalMask (s : State) (m : BitVec 32) : Except Nat (BitVec 32) :=
  let named := (List.range 32).filter (flag m)
  match named.find? fun ph => (logicalCluster s ph).isNone with
  | some ph => .error ph
  | none => .ok (BitVec.ofNat 32 ((named.map fun ph => 2 ^ (logicalCluster s ph).getD 0).foldl (· + ·) 0))

/-- The physical mask of a PHYS image, whose core masks name only units that are there now (R115). -/
def physMask (s : State) (sl : Slot) (m : BitVec 32) : Except Nat (BitVec 32) :=
  match physicalMask s m with
  | .error e => .error e
  | .ok l =>
    match (List.range 32).find? fun q => flag l q && !physUnitsOk s [q] sl.bundles with
    | some q => .error q
    | none => .ok l

/-- The clusters of a launch. -/
def launchMask (s : State) (r : Req) : Except Nat (BitVec 32) :=
  match lbImage s r with
  | some sl => if sl.phys then physMask s sl (lbMask r) else logicalMask s (lbMask r)
  | none => .ok 0

/-- An absent unit that one of a launch's issue records names (00 R5, 09 Table 9.3). -/
def issueAbsent (s : State) (r : Req) : Option Nat :=
  (List.range (lbIssues r)).findSome? fun i => recordAbsent s (ofWords 320 (rws r (lbIssueAt r + 5 * i) 5))

/-- The forager images of a launch, in order, or the status that refuses one (11 R330). -/
def launchImages (s : State) (r : Req) : Nat → Except (Status × Nat) (List (Nat × FImage))
  | 0 => .ok []
  | n + 1 =>
    match launchImages s r n with
    | .error e => .error e
    | .ok l =>
      let w := startWords r n
      let ch := w.1.toNat
      let busy := (chanOf s ch).st == .run || (chanOf s ch).st == .wait || l.any fun x => x.1 == ch
      if busy then .error (.stateConflict, 0)
      else
        match foragerImage s ch w.2 with
        | .error e => .error (e, imageDetail e (8 * (lbForagerAt r + 2 * n + 1)))
        | .ok im => .ok (l ++ [(ch, im)])

/-- The launch that a block asks for. -/
def launchOf (isRun : Bool) (s : State) (r : Req) (mask : BitVec 32) (seed : Word) (chans : List Nat) : Launch :=
  { id := BitVec.ofNat 32 (fld (rw r 0) 0 32), pkey := lbKey r, slot := lbSlot r, det := lbDet r, safety := lbSafety r
    trap := flag (rw r 0) 49, autocommit := isRun || flag (rw r 0) 51, seed := seed, cmask := mask
    waitLimit := if fld (rw r 2) 32 32 = 0 then 100000 else fld (rw r 2) 32 32
    firstSeq := rn r 3, stepLimit := fld (rw r 4) 24 24, isRun := isRun, test := s.dev.testMode
    sampleCtx := if isRun then fld (rw r (lbRunAt r)) 40 12 else 0, channels := chans
    issues := (List.range (lbIssues r)).map fun i => ofWords 320 (rws r (lbIssueAt r + 5 * i) 5) }

/-- The seed of a launch (02 R60): host software's, or a draw from the entropy source. -/
def launchSeed (s : State) (r : Req) : Word × State := if lbAuto r then drawFree s else (rw r 1, s)

/-- Contexts of the job take the launch's seed (Table 6.3, R60). -/
def seedContexts (s : State) (key : Nat) (seed : Word) : State :=
  { s with su := { s.su with ctxs := s.su.ctxs.map fun e => (e.1, e.2.map fun x =>
    if x.pkey == key then { x with word := setFld x.word 192 64 seed.toNat } else x) } }

/-- A cluster as a launch finds it (05 Table 5.1): queen and cores at their launch values, with VCTRL from the image. -/
def launchCluster (s : State) (vctrl : BitVec 16) (q : Nat) : State :=
  let s1 := (clusterKeys q).foldl (fun t c => modCore t c fun _ => { vctrl := vctrl }) s
  let s2 := modQueen s1 q fun x => { st := .run, lastPatrol := x.lastPatrol }
  let k := takeCkpt s2 q
  modQueen s2 q fun x => { x with ckpt := some k }

/-- A channel that a launch starts takes its checkpoint (11 R338). -/
def launchChannel (s : State) (key : Nat) (e : Nat × FImage) : State :=
  modChan (startChannel s e.1 key e.2) e.1 fun c => { c with bound := true, ckpt := some (chanCkpt c) }

/-- The stop list of a run in SAMPLE_CTX's AUX buffer (R363). -/
def writeStops (s : State) (r : Req) : State :=
  let v := rw r (lbRunAt r)
  let ids := bytesOfWords (rws r (lbRunAt r + 1) 8)
  let put := fun x : Ctx => { x with
    aux := bytesOfNat (fld v 32 8) 4 ++ ids ++ (x.aux.drop 68).take 4 ++ bytesOfNat (fld v 0 32) 8 ++ x.aux.drop 80 }
  { s with su := { s.su with ctxs := tblMod none s.su.ctxs (fld v 40 12) (Option.map put) } }

/-- A launch begins (R362, R122, R149, R151): its first step starts, once every record held fits (R365; COMMIT_COMPLETE, assumption
52). -/
def beginLaunch (isRun : Bool) (s : State) (r : Req) (mask : BitVec 32) (ims : List (Nat × FImage)) : State :=
  let (seed, s0) := launchSeed s r
  let l := launchOf isRun s r mask seed (ims.map (·.1))
  let vctrl := match lbImage s r with
    | some sl => sl.vctrl
    | none => 0x0010
  let s1 := seedContexts s0 l.pkey seed
  let s2 := { s1 with
    comp := { s1.comp with p := tblSetAll 0 [] 0 (rws r 5 (lbParams r)), sched := [] }
    job := { launch := some l, lastCommit := s1.job.lastCommit }
    dev := if l.test then { s1.dev with detStrict := l.det, safety := l.safety } else s1.dev }
  let s3 := (maskClusters s2 mask).foldl (fun t q => launchCluster t vctrl q) s2
  let s4 := ims.foldl (fun t e => launchChannel t l.pkey e) s3
  let s5 := if isRun then writeStops s4 r else s4
  let s6 := if l.test then s5 else setMode s5 .active
  if recordsFit s6 then startStep s6 l l.firstSeq else s6

/-- The reads that the checks of a launch's forager images make. -/
def launchReads (s : State) (r : Req) : State :=
  (List.range (lbForagers r)).foldl (fun t i => foragerReads t (startWords r i).1.toNat (startWords r i).2) s

/-- LAUNCH and START_RUN (R358, R361-R363). -/
def launchRun (isRun : Bool) (s : State) (r : Req) : Ended :=
  if s.job.launch.isSome then refused s .stateConflict
  else if !s.dev.testMode && (lbDet r != s.dev.detStrict || lbSafety r != s.dev.safety) then refused s .stateConflict
  else
    match launchImages s r (lbForagers r) with
    | .error (e, d) => refused (launchReads s r) e d
    | .ok ims =>
      match launchMask s r with
      | .error l => refused s .absentUnit l
      | .ok m =>
        match issueAbsent s r with
        | some l => refused s .absentUnit l
        | none => if !s.host.ringsSet then refused s .noResource else done (beginLaunch isRun (launchReads s r) r m ims)

def launchCmd : Cmd where
  code := 0x0302
  states := fun s _ => if s.dev.testMode then 0x18 else 0x10
  full := fun r => 8 * lbRunAt r
  form := launchForm false
  run := launchRun false

def startRunCmd : Cmd where
  code := 0x0303
  states := fun _ _ => 0x10
  full := fun r => 8 * lbRunAt r + 72
  form := launchForm true
  run := launchRun true

/-- The launch that a step command names runs here (R364, assumption 59). -/
def keyRuns (s : State) (key : Nat) : Bool :=
  match s.job.launch with
  | some l => l.pkey == key
  | none => false

/-- SEQ against the step in progress (R364): below STATE_CONFLICT, above BAD_ARG. -/
def seqCheck (s : State) (seq : Nat) : Option (Status × Nat) :=
  match s.job.step with
  | none => some (.stateConflict, 0)
  | some st => if seq < st.seq then some (.stateConflict, 0) else if st.seq < seq then some (.badArg, 8) else none

/-- COMMIT_STEP (R364). -/
def commitStepRun (s : State) (r : Req) : Ended :=
  if !keyRuns s (rn r 0) then refused s .stateConflict
  else
    match seqCheck s (rn r 1) with
    | some (e, d) => refused s e d
    | none => done (modStep s fun st => { st with authorised := true })

def commitStepCmd : Cmd where
  code := 0x0304
  states := fun _ _ => 0x20
  full := wordsLen 2
  form := fun _ r => wordsForm [0xFFF] r
  run := commitStepRun

/-- ABORT (R364): after the vote it ends the launch once the step commits or ends (13 R379). -/
def abortStep (s : State) : State :=
  match s.job.step with
  | some st =>
    if st.committing then { s with job := { s.job with stopRun := true } }
    else if st.voted then modStep s fun x => { x with abortPending := true }
    else raisePoison s .hostAbort
  | none => endLaunch s

/-- ABORT, which as an immediate command runs while the launch is frozen too (14 R415). -/
def abortCmd : Cmd where
  code := 0x0305
  states := fun s _ => if s.dev.mode == .frozen && s.dev.remembered != .active then 0x20 else 0x60
  full := wordsLen 1
  form := fun _ r => wordsForm [0xFFF] r
  run := fun s r => if !keyRuns s (rn r 0) then refused s .stateConflict else done (abortStep s)

/-- REPLAY_STEP (R364, 13 R379, R389): on a poisoned step it releases the hold on every member. -/
def replayStepRun (s : State) (r : Req) : Ended :=
  if !keyRuns s (rn r 0) then refused s .stateConflict
  else
    match seqCheck s (rn r 1), s.job.step with
    | some (e, d), _ => refused s e d
    | none, none => refused s .stateConflict
    | none, some st =>
      if st.voted || st.committing then refused s .stateConflict
      else if st.poisoned.isSome then
        let pay := poisonPayload (rn r 0) st.seq PCause.hostReplay.code
        done (releaseHold (sendSets s (sbPorts s) codePoison pay 3))
      else done (raisePoison s .hostReplay)

def replayStepCmd : Cmd where
  code := 0x0306
  states := fun _ _ => 0x20
  full := wordsLen 2
  form := fun _ r => wordsForm [0xFFF] r
  run := replayStepRun

def execLaunch (src : ReqSrc) (s : State) := ok (runCmd launchCmd src s)
def execStartRun (src : ReqSrc) (s : State) := ok (runCmd startRunCmd src s)
def execCommitStep (src : ReqSrc) (s : State) := ok (runCmd commitStepCmd src s)
def execAbort (src : ReqSrc) (s : State) := ok (runCmd abortCmd src s)
def execReplayStep (src : ReqSrc) (s : State) := ok (runCmd replayStepCmd src s)

end Sys2Proof.Machine
end

