-- ==== Sys2Proof/Machine/MemCmd.lean ====
section
/-! DEFINITION. The memory family (11 R320, R326-R330; 12 R343, R359): regions, ZEROIZE, foragers and HOST_COPY. -/

namespace Sys2Proof.Machine

/-- The region entry that a command carries (Table 11.3). -/
def rgRecord (r : Req) : BitVec 320 := ofWords 320 (rws r 0 5)

/-- Reserved bits of a region entry, as byte offsets. -/
def regionRsv (w : BitVec 320) : Option Nat :=
  orForm (needs (fld w 55 9 == 0) 0) (orForm (needs (fld w 104 24 == 0) 8) (orForm (needs (fld w 168 24 == 0) 16)
    (orForm (needs (fld w 232 24 == 0) 24) (needs (fld w 296 24 == 0) 32))))

/-- A range lies within one die's HBM. -/
def oneDie (s : State) (a n : Nat) : Bool := decide (a + n ≤ hbmBytes s) && (n == 0 || a / dieBytes s == (a + n - 1) / dieBytes s)

/-- Pages of FULL regions, one entry left out (R320). -/
def fullPages (s : State) (skip : Option Nat) : Nat :=
  ((s.hbm.regions.filter fun e => rgValid e.2 && !rgAppend e.2 && some e.1 != skip).map fun e => rgLen e.2 / rgPage e.2).foldl (· + ·) 0

/-- The checks of R320 on an entry, against the regions but for one. -/
def regionForm (s : State) (skip : Option Nat) (w : BitVec 320) : Option Nat :=
  let p := rgPage w
  let full := !rgAppend w
  let meets := s.hbm.regions.any fun e => rgValid e.2 && some e.1 != skip &&
    decide (rgBase e.2 < rgBase w + rgLen w) && decide (rgBase w < rgBase e.2 + rgLen e.2)
  orForm (regionRsv w)
    (orForm (needs (rgBase w % p == 0 && oneDie s (rgBase w) (rgLen w) && !meets) 0)
      (orForm (needs (rgLen w % p == 0 && (!full || decide (fullPages s skip + rgLen w / p ≤ 1048576))) 8)
        (orForm (needs (if full then rgShadow w % p == 0 && oneDie s (rgShadow w) (rgLen w) && rgShadow w / dieBytes s == rgBase w / dieBytes s
            else rgShadow w == 0) 16)
          (needs (!rgAppend w || decide (rgClen w ≤ rgLen w)) 24))))

/-- A region by its BASE (assumption 60). -/
def regionByBase (s : State) (w : BitVec 320) : Option (Nat × BitVec 320) :=
  s.hbm.regions.find? fun e => rgValid e.2 && rgBase e.2 == rgBase w

/-- Bits of a region's pages are dropped from a table. -/
def dropPages (t : Tbl Bool) (n : Nat) : Tbl Bool := t.filter fun e => e.1 / 2 ^ 20 != n

/-- An entry is written: VALID, with PLEN at CLEN; its pages keep SEL only when their copies stay where they are (assumption 60). -/
def putRegion (s : State) (n : Nat) (w : BitVec 320) : State :=
  let old := tblGet 0 s.hbm.regions n
  let same := rgValid old && rgAppend old == rgAppend w && rgPage old == rgPage w && rgShadow old == rgShadow w
  let w' := setFlag (rgSetLens w (rgClen w) (rgClen w)) 40 true
  let inside := fun (t : Tbl Bool) => t.filter fun e => e.1 / 2 ^ 20 != n || decide (e.1 % 2 ^ 20 < rgLen w / rgPage w)
  { s with hbm := { s.hbm with
    regions := tblSet 0 s.hbm.regions n w'
    sel := if same then inside s.hbm.sel else dropPages s.hbm.sel n
    dirty := dropPages s.hbm.dirty n } }

/-- The lowest free region entry. -/
def freeRegion (s : State) : Option Nat := (List.range 64).find? fun n => !rgValid (tblGet 0 s.hbm.regions n)

/-- REGION_CREATE (R320): the response names the entry taken. -/
def regionCreateRun (s : State) (r : Req) : Ended :=
  if stepBlocks s (rgKey (rgRecord r)) then refused s .stateConflict
  else
    match freeRegion s with
    | some n => done (putRegion s n (rgRecord r)) [BitVec.ofNat 64 n]
    | none => refused s .noResource

def regionCreateCmd : Cmd where
  code := 0x0401
  states := stConfig
  full := wordsLen 5
  form := fun s r => regionForm s none (rgRecord r)
  run := regionCreateRun

/-- REGION_CHANGE (R320). -/
def regionChangeRun (s : State) (r : Req) : Ended :=
  match regionByBase s (rgRecord r) with
  | none => refused s .badArg 0
  | some (n, old) =>
    if stepBlocks s (rgKey old) || stepBlocks s (rgKey (rgRecord r)) then refused s .stateConflict
    else done (putRegion s n (rgRecord r))

def regionChangeCmd : Cmd where
  code := 0x0402
  states := stConfig
  full := wordsLen 5
  form := fun s r => match regionByBase s (rgRecord r) with
    | none => some 0
    | some (n, _) => regionForm s (some n) (rgRecord r)
  run := regionChangeRun

/-- A region entry is cleared with its pages. -/
def dropRegion (s : State) (n : Nat) : State :=
  { s with hbm := { s.hbm with
    regions := tblSet 0 s.hbm.regions n 0, sel := dropPages s.hbm.sel n, dirty := dropPages s.hbm.dirty n } }

/-- REGION_DELETE (R320). -/
def regionDeleteRun (s : State) (r : Req) : Ended :=
  match regionByBase s (rgRecord r) with
  | none => refused s .badArg 0
  | some (n, old) => if stepBlocks s (rgKey old) then refused s .stateConflict else done (dropRegion s n)

def regionDeleteCmd : Cmd where
  code := 0x0403
  states := stConfig
  full := wordsLen 5
  form := fun s r => needs (regionByBase s (rgRecord r)).isSome 0
  run := regionDeleteRun

/-- ZEROIZE (R326): logs and the sparing map are kept. -/
def zeroize (s : State) : State :=
  { s with hbm := { s.hbm with mem := [], errs := [], regions := [], sel := [], dirty := [], selErrs := [], lenErrs := [] } }

def zeroizeCmd : Cmd where
  code := 0x0404
  states := fun _ _ => 0x08
  run := fun s _ => done (zeroize s)

/-- START_FORAGER (R330). -/
def startForagerRun (s : State) (r : Req) : Ended :=
  let ch := rn r 0
  if (chanOf s ch).st == .run || (chanOf s ch).st == .wait then refused s .stateConflict
  else
    let t := foragerReads s ch (rn r 2)
    match foragerImage s ch (rn r 2) with
    | .error e => refused t e (imageDetail e 16)
    | .ok im => done (startChannel t ch (rn r 1) im)

def startForagerCmd : Cmd where
  code := 0x0405
  states := fun _ _ => st345
  full := wordsLen 3
  form := fun _ r => wordsForm [319, 0xFFF] r
  run := startForagerRun

/-- FSTATUS of a channel (Table 11.5). -/
def fstatus (c : Chan) : Word := packW [(0, 3, c.st.code), (3, 8, c.pc), (11, 4, c.cause), (15, 12, c.pkey)]

def foragerStatusCmd : Cmd where
  code := 0x0406
  states := fun _ _ => st38
  full := wordsLen 2
  form := fun _ r => orForm (needs (decide (rn r 0 < 320)) 0) (needs (decide (rn r 0 + rn r 1 ≤ 320)) 8)
  run := fun s r => done s ((List.range (rn r 1)).map fun i => fstatus (chanOf s (rn r 0 + i)))

/-- An MREAD of HOST_COPY (R343, assumption 21): CFID 1, with the host address that its data go to. -/
def hostReadFrame (s : State) (a n : Nat) (host : Word) : State :=
  let e := s.dev.eid.toNat
  originate s 80 641 0 (mkFrame 1 0 0 3 e e 1 0 0 false (BitVec.ofNat 64 a) (bytesOfWords [BitVec.ofNat 64 n, host]))

/-- The MREADs of a copy to the host, at most 4,096 bytes each. -/
def hostReads (s : State) (a : Nat) (host : Word) : Nat → Nat → State
  | _, 0 => s
  | 0, _ => s
  | n, fuel + 1 =>
    let k := min n 4096
    hostReads (hostReadFrame s a k host) (a + k) (host + BitVec.ofNat 64 k) (n - k) fuel

/-- HOST_COPY (R343, Table 12.9): `data` is what host memory holds at the host address. -/
def hostCopyRun (data : List Word) (s : State) (r : Req) : Ended :=
  let n := rn r 3
  if rn r 0 = 0 then done (hostWrites s (rn r 2) ((bytesOfWords data ++ List.replicate (n - 8 * data.length) 0).take n))
  else done (hostReads s (rn r 2) (rw r 1) n (n / 4096 + 1))

def hostCopyCmd (data : List Word) : Cmd where
  code := 0x0407
  states := fun _ _ => st345
  full := wordsLen 4
  form := fun s r => orForm (wordsForm [1] r) (needs (decide (rn r 2 + rn r 3 ≤ hbmBytes s)) 16)
  run := hostCopyRun data

def execRegionCreate (src : ReqSrc) (s : State) := ok (runCmd regionCreateCmd src s)
def execRegionChange (src : ReqSrc) (s : State) := ok (runCmd regionChangeCmd src s)
def execRegionDelete (src : ReqSrc) (s : State) := ok (runCmd regionDeleteCmd src s)
def execZeroize (src : ReqSrc) (s : State) := ok (runCmd zeroizeCmd src s)
def execStartForager (src : ReqSrc) (s : State) := ok (runCmd startForagerCmd src s)
def execForagerStatus (src : ReqSrc) (s : State) := ok (runCmd foragerStatusCmd src s)
def execHostCopy (src : ReqSrc) (data : List Word) (s : State) := ok (runCmd (hostCopyCmd data) src s)

end Sys2Proof.Machine
end

