-- ==== Sys2Proof/Machine/Power.lean ====
section
/-! DEFINITION. Power inputs, throttling, and the events that enter the safe state or stop main conversion (14 R419-R426;
16 R446, R447, R450; 13 Table 13.6). -/

namespace Sys2Proof.Machine

/-- What stays without AUX power: contacts, fuses, flash and what the module can never undo (R406, Table 13.8). -/
def auxLost (s : State) : State :=
  { pending := s.pending
    freeCount := s.freeCount
    out := s.out
    ident := { s.ident with latched := false, slot := 0, hivePresent := true, twinPresent := false, eepromOk := false, hive := 0
                            side := false, flc := 0 }
    dev := { mode := .off, aux12Good := false, main54Good := s.dev.main54Good, pwrEn := s.dev.pwrEn, leakN := s.dev.leakN
             freezeNLow := s.dev.freezeNLow, safetyLog := s.dev.safetyLog, eventLog := s.dev.eventLog }
    su := { map := s.su.map, failed := s.su.failed, retired := s.su.retired }
    hbm := { corrLog := s.hbm.corrLog, errLog := s.hbm.errLog, integrityLog := s.hbm.integrityLog, spared := s.hbm.spared
             keptBad := s.hbm.keptBad }
    comp := { clusters := s.comp.clusters, retired := s.comp.retired, coreMap := s.comp.coreMap, spareBad := s.comp.spareBad
              failed := s.comp.failed, failedQueens := s.comp.failedQueens }
    health := { spareCores := s.health.spareCores, mismatches := s.health.mismatches }
    sec := { keyHash0 := s.sec.keyHash0, keyHash1 := s.sec.keyHash1, revoked0 := s.sec.revoked0, revoked1 := s.sec.revoked1
             svn := s.sec.svn, debugKeyHash := s.sec.debugKeyHash, flash0 := s.sec.flash0, flash1 := s.sec.flash1
             shipped0 := s.sec.shipped0, shipped1 := s.sec.shipped1, shippedFw := s.sec.shippedFw, shippedSvn := s.sec.shippedSvn
             shippedKey := s.sec.shippedKey, base0 := s.sec.base0, base1 := s.sec.base1, preferred := s.sec.preferred } }

/-- AUX_POWER_LOST (R450): AUX_12V outside its window for 1 µs; the module goes to OFF. -/
def auxPowerLost (s : State) : State := when (auxOn s) s (auxLost s)

/-- AUX_POWER_GOOD (R409): the module leaves OFF; its stages 0x01 to 0x03 follow. -/
def auxPowerGood (s : State) : State :=
  when (!auxOn s) s (recomputeHealth { s with dev := { s.dev with mode := .aux, aux12Good := true, frozenPin := s.dev.freezeNLow } })

/-- PWR_EN_ASSERT (R447): BOOT begins when nothing holds it; after a failed boot PWR_EN must have been low for 10 ms (R410). -/
def pwrEnAssert (s : State) : State :=
  if s.dev.pwrEn then s
  else
    let long := match s.dev.pwrEnLowAt with
      | some t => decide (t + 10000000 ≤ nowNs s)
      | none => false
    tryBoot { s with dev := { s.dev with
      pwrEn := true, needPwrToggle := s.dev.needPwrToggle && !long
      leakToggled := s.dev.leakToggled || (s.dev.leakHold && s.dev.pwrEnLowAt.isSome), pwrEnLowAt := none } }

/-- PWR_EN_DEASSERT (R447, Table 14.4): main conversion stops and the module takes the AUX state. -/
def pwrEnDeassert (s : State) : State :=
  mainPowerLost { s with dev := { s.dev with pwrEn := false, pwrEnLowAt := some (nowNs s) } }

/-- Main conversion stops at a time, or at an earlier one already set. -/
def stopBy (s : State) (ns : Nat) : State :=
  if s.dev.mode.code < 2 then s
  else
    let t := nowNs s + ns
    { s with dev := { s.dev with stopAt := some (match s.dev.stopAt with
      | some u => min u t
      | none => t) } }

/-- MAIN_54V_FAULT (R450): the safe state, and 10 µs later AUX. -/
def main54vFault (s : State) : State := stopBy (safeEntry { s with dev := { s.dev with main54Good := false, pwrGood := false } } .main54 0) 10000

/-- MAIN_POWER_GOOD (Table 12.8): MAIN_54V is back within range. -/
def mainPowerGood (s : State) : State := tryBoot { s with dev := { s.dev with main54Good := true } }

/-- RAIL_FAULT (R450): an internal rail outside its window for 1 µs; PWR_GOOD falls (Table 16.2). -/
def railFault (rail : Nat) (s : State) : State := safeEntry { s with dev := { s.dev with pwrGood := false } } .voltage rail

/-- CLOCK_FAULT (Table 13.6): a clock monitor acts. -/
def clockFault (clock : Nat) (s : State) : State := safeEntry s .clock clock

/-- MANAGEMENT_LOCKSTEP_MISMATCH (12 R339). -/
def managementLockstepMismatch (s : State) : State := safeEntry s .management 0

/-- MAIN_CONVERSION_STOP (R424, R425, R450): the delay has passed. -/
def mainConversionStop (s : State) : State :=
  match s.dev.stopAt with
  | some t => when (decide (t ≤ nowNs s)) s (mainPowerLost s)
  | none => s

/-- The highest junction temperature of a reading. -/
def tjMax (r : ThermalReading) : Nat :=
  max (max r.tj0.toNat r.tj1.toNat) (max (max r.tj2.toNat r.tj3.toNat) r.tjFabric.toNat)

/-- THERMTRIP (R424): THERMTRIP_N, the safe state, and 100 µs later AUX. -/
def thermtrip (r : ThermalReading) (s : State) : State :=
  if !auxOn s || (tjMax r < 115 && r.th.toNat < 105) then s
  else stopBy (safeEntry { s with
    dev := { s.dev with thermtripN := false }, power := { s.power with thermtrip := true } } .thermal 0) 100000

/-- LEAK_N (R425): asserted for 10 µs; the safe state, and 1 ms later AUX. -/
def leakN (s : State) : State :=
  if !auxOn s then { s with dev := { s.dev with leakN := false } }
  else stopBy (safeEntry { s with dev := { s.dev with leakN := false, leakHold := true, leakToggled := false } } .leak 0) 1000000

/-- LEAK_N_DEASSERT (R425). -/
def leakNDeassert (s : State) : State := tryBoot { s with dev := { s.dev with leakN := true } }

/-- The thermal level after a sample, and since when it has been cool (R423). -/
def thermalLevel (level now : Nat) (cool : Option Nat) (tj th : Nat) : Nat × Option Nat :=
  if 105 ≤ tj || 95 ≤ th then (12, none)
  else if 100 ≤ tj || 90 ≤ th then (min 12 (level + 1), none)
  else if tj < 97 && th < 87 then
    (match cool with
    | none => (level, some now)
    | some t => if t + 1000000 ≤ now then (level - 1, some now) else (level, some t))
  else (level, none)

/-- THERMAL_SAMPLE (R423): every 100 µs. -/
def thermalSample (r : ThermalReading) (s : State) : State :=
  if !auxOn s || nowNs s < s.power.thermAt + 100000 then s
  else
    let (l, c) := thermalLevel s.power.levelTherm (nowNs s) s.power.coolSince (tjMax r) r.th.toNat
    { s with power := { s.power with
      levelTherm := l, coolSince := c, thermAt := nowNs s, tj := [r.tj0, r.tj1, r.tj2, r.tj3, r.tjFabric], th := r.th } }

/-- The cap level and the count of low periods after a period with input power `pin` (R421). -/
def capLevel (level low cap pin : Nat) : Nat × Nat :=
  if cap < pin then (min 12 (level + 1), 0)
  else if 100 * pin < 95 * cap then (if 10 ≤ low + 1 then (level - 1, 0) else (level, low + 1))
  else (level, 0)

/-- POWER_CAP_PERIOD (R421): every 1 ms. -/
def powerCapPeriod (r : PowerReading) (s : State) : State :=
  if !fwRuns s || nowNs s < s.power.capAt + 1000000 then s
  else
    let (l, k) := capLevel s.power.levelCap s.power.lowPeriods s.power.cap r.pin.toNat
    { s with power := { s.power with levelCap := l, lowPeriods := k, capAt := nowNs s, vin := r.vin, iin := r.iin, pin := r.pin } }

/-- CURRENT_LIMIT (R422): the current level is 8, held until the current has stayed low for 1 ms. -/
def currentLimit (s : State) : State :=
  when (auxOn s) s { s with power := { s.power with levelCur := 8, currentLowSince := some (nowNs s) } }

/-- CURRENT_LEVEL_DECAY (R422): the current has stayed below 72 A; the level falls by 1 per ms. -/
def currentLevelDecay (s : State) : State :=
  match s.power.currentLowSince with
  | some t =>
    when (decide (0 < s.power.levelCur) && decide (t + 1000000 ≤ nowNs s)) s
      { s with power := { s.power with levelCur := s.power.levelCur - 1, currentLowSince := some (nowNs s) } }
  | none => s

/-- The throttle level in force (R420). -/
def levelInForce (s : State) : Nat := max s.power.levelCap (max s.power.levelCur s.power.levelTherm)

/-- PERST_N (R406): the PCIe link and configuration space reset; writes to host memory are held. -/
def perstN (s : State) : State := when (auxOn s) s { s with host := { s.host with busMaster := false } }

/-- BUS_MASTER_ENABLE (R406): host writes go out again, pending MSI-X vectors first. -/
def busMasterEnable (s : State) : State :=
  if !auxOn s || s.host.busMaster then s
  else
    let vs := (List.range 72).filter (flag s.host.msixPending)
    vs.foldl (fun t v => emit t (.msix v)) { s with host := { s.host with busMaster := true, msixPending := 0 } }

/-- SLOT_CHANGED (16 R446): straps that change after they were latched are ignored and counted. -/
def slotChanged (slot : BitVec 5) (hiveN twinN : Bool) (s : State) : State :=
  let i := s.ident
  let s1 := { s with ident := { i with slotStrap := slot, hivePresentN := hiveN, twinPresentN := twinN } }
  if auxOn s && i.latched && !(slot == i.slotStrap && hiveN == i.hivePresentN && twinN == i.twinPresentN) then count s1 .slotChanged else s1

def execAuxPowerGood (s : State) := ok (auxPowerGood s)
def execAuxPowerLost (s : State) := ok (auxPowerLost s)
def execPwrEnAssert (s : State) := ok (pwrEnAssert s)
def execPwrEnDeassert (s : State) := ok (pwrEnDeassert s)
def execMain54vFault (s : State) := ok (main54vFault s)
def execMainPowerGood (s : State) := ok (mainPowerGood s)
def execRailFault (rail : Nat) (s : State) := ok (railFault rail s)
def execClockFault (clock : Nat) (s : State) := ok (clockFault clock s)
def execManagementLockstepMismatch (s : State) := ok (managementLockstepMismatch s)
def execMainConversionStop (s : State) := ok (mainConversionStop s)
def execThermtrip (r : ThermalReading) (s : State) := ok (thermtrip r s)
def execLeakN (s : State) := ok (leakN s)
def execLeakNDeassert (s : State) := ok (leakNDeassert s)
def execThermalSample (r : ThermalReading) (s : State) := ok (thermalSample r s)
def execPowerCapPeriod (r : PowerReading) (s : State) := ok (powerCapPeriod r s)
def execCurrentLimit (s : State) := ok (currentLimit s)
def execCurrentLevelDecay (s : State) := ok (currentLevelDecay s)
def execPerstN (s : State) := ok (perstN s)
def execBusMasterEnable (s : State) := ok (busMasterEnable s)
def execSlotChanged (slot : BitVec 5) (hiveN twinN : Bool) (s : State) := ok (slotChanged slot hiveN twinN s)

end Sys2Proof.Machine
end

