-- ==== Sys2Proof/Machine/ReadConfig.lean ====
section
/-! DEFINITION. READ_CONFIG: the entries of the tables of Table 12.13 (12 R360). Entries have the width of their table:
4 bytes for routes, rank-map entries and port settings, 2 for calendar entries, whole words for the rest (assumption 57). -/

namespace Sys2Proof.Machine

/-- Bytes of a list of words given as numbers. -/
def natWords (l : List Nat) : List Byte := bytesOfWords (l.map (BitVec.ofNat 64))

/-- The code of a bank's state (08 Table 8.5). -/
def Bank.code : Bank → Nat
  | .inactive => 0
  | .armed => 1
  | .active => 2
  | .draining => 3

/-- ROUTE_CTL (Table 8.5). -/
def routeCtl (s : State) : List Byte :=
  bytesOfWords [packW [(0, 1, s.fab.srcEpoch.toNat), (1, 2, s.fab.bank0.code), (3, 2, s.fab.bank1.code)], s.fab.swapTime]

/-- A key map and the FENCE word (R228). -/
def keymapBytes (s : State) (i : Nat) : List Byte :=
  let p := i / 2
  let bit := fun k => if i % 2 = 0 then keyInBit s p k else keyOutBit s p k
  ((List.range 512).map fun o => byteOf fun b => bit (8 * o + b)) ++ natWords [(fenceBit s p).toNat]

/-- An owner account (07 Table 7.4). -/
def accountWord (s : State) (owner pool : Nat) : Word :=
  packW [(0, 20, usedOf s owner pool), (20, 20, (limitOf s owner pool).1), (40, 20, (limitOf s owner pool).2)]

/-- PORT_STATUS (10 Table 10.4). -/
def portStatus (q : Port) : List Byte :=
  bytesOfWords [packW [(0, 3, q.tx.code), (3, 3, q.rx.code), (6, 2, q.mfp), (8, 3, q.flc), (11, 1, q.sb.toNat), (12, 7, q.deskew)],
    packW [(0, 32, q.txMap.toNat), (32, 32, q.rxMap.toNat)]]

/-- A port's HDRM register (08 R263). -/
def hdrmWord (s : State) (p : Nat) : Word :=
  packW [(0, 20, hdrmSizeOf s p), (20, 20, hdrmUsedAll s p), (40, 8, tblGet 0 s.comb.hdrmLen p)]

/-- TIME_STATUS (14 Table 14.2). -/
def timeStatus (s : State) : List Byte :=
  bytesOfWords [nowW s, packW [(0, 7, s.clk.parent), (7, 1, s.clk.root.toNat), (8, 1, s.clk.timeFault.toNat), (32, 32, s.clk.offset.toNat)]]

/-- A statistics-map entry (R360). -/
def statsEntry (i : Nat) : List Byte :=
  match ctrEntry ctrTable 8 i with
  | some (o, u, name) => bytesOfWords [packW [(0, 32, o), (32, 32, u)]] ++ asciiBytes name 24
  | none => []

/-- Ring fields of the mirror (07 R234). -/
def ringWords (s : State) : List Byte :=
  natWords [s.fab.ringBase.toNat, s.fab.ringSize, s.fab.ringMode.toNat, s.fab.ringWptr, s.fab.ringRptr]

/-- How many entries a table has (Table 12.13). -/
def cfgSize (sel : Nat) : Nat :=
  match sel with
  | 0x01 => 65536
  | 0x02 => 65536
  | 0x05 => 1
  | 0x07 => 113 * 1024
  | 0x08 => 32768
  | 0x0A => 162
  | 0x0B => 648
  | 0x0C => 648
  | 0x0E => 5
  | 0x11 => 17
  | 0x12 => 81
  | 0x13 => 64
  | 0x14 => 64
  | 0x15 => 81
  | 0x16 => 64
  | 0x17 => 1
  | 0x18 => ctrCount
  | 0x19 => 64
  | _ => 4096

/-- The bytes of entry i of a table (Table 12.13). -/
def cfgEntry (s : State) (sel i : Nat) : List Byte :=
  match sel with
  | 0x01 => bytesOfNat (routeOf s false i).toNat 4
  | 0x02 => bytesOfNat (routeOf s true i).toNat 4
  | 0x03 => bytesOfNat (mcastOf s false i).toNat 16
  | 0x04 => bytesOfNat (mcastOf s true i).toNat 16
  | 0x05 => routeCtl s
  | 0x06 => bytesOfNat (tblGet 0 s.fab.circuits i).toNat 24
  | 0x07 => bytesOfNat (tblGet 0 s.fab.calCur i).toNat 2
  | 0x08 => bytesOfNat (tblGet 0 s.fab.rankmap i).toNat 4
  | 0x09 => bytesOfNat (windowOf s i).toNat 8
  | 0x0A => keymapBytes s i
  | 0x0B => bytesOfNat (tblGet 0 s.fab.guards i).toNat 24
  | 0x0C => natWords [xoffTh s (i / 8) (i % 8) + 2 ^ 20 * xonTh s (i / 8) (i % 8)]
  | 0x0D => bytesOfWords [accountWord s (i / 4) (i % 4)]
  | 0x0E => natWords [if i = 4 then s.fab.lifetime else tblGet 20 s.fab.poolWait i]
  | 0x0F => bytesOfNat (groupOf s i).toNat 40
  | 0x10 => bytesOfNat (match ctxOf s i with
    | some x => x.word.toNat
    | none => 0) 128
  | 0x11 => if i = 16 then ringWords s else bytesOfNat (tblGet 0 s.fab.mirror i).toNat 8
  | 0x12 => natWords [mfpMask s i + 256 * spillTh s i] |>.take 4
  | 0x13 => bytesOfWords [(portOf s i).nbSerial, (portOf s i).nbW1, 0, 0]
  | 0x14 => portStatus (portOf s i)
  | 0x15 => bytesOfWords [hdrmWord s i]
  | 0x16 => natWords [(portOf s i).linkDelay % 1024]
  | 0x17 => timeStatus s
  | 0x18 => statsEntry i
  | _ => bytesOfNat (tblGet 0 s.hbm.regions i).toNat 40

/-- READ_CONFIG (R360): `count` entries from `first`, packed, padded to whole words. -/
def readConfigRun (s : State) (r : Req) : Ended :=
  let bs := (List.range (rn r 2)).flatMap fun i => cfgEntry s (rn r 0) (rn r 1 + i)
  done s (wordsOfBytes bs (ceilDiv bs.length 8))

/-- The selector, the first entry and the count lie in range, and the entries fit a response. -/
def readConfigForm (s : State) (r : Req) : Option Nat :=
  let n := cfgSize (rn r 0)
  let w := (cfgEntry s (rn r 0) (rn r 1)).length
  if rn r 0 < 1 || 0x19 < rn r 0 then some 0
  else if n ≤ rn r 1 then some 8
  else needs (decide (rn r 1 + rn r 2 ≤ n) && decide (w * rn r 2 ≤ 4032)) 16

def readConfigCmd : Cmd where
  code := 0x0114
  states := fun _ _ => st38
  full := wordsLen 3
  form := readConfigForm
  run := readConfigRun

def execReadConfig (src : ReqSrc) (s : State) := ok (runCmd readConfigCmd src s)

end Sys2Proof.Machine
end

