-- ==== Sys2Proof/Machine/Smoker.lean ====
section
/-! DEFINITION. Smoker rehearsals and the expiry of a health deduction (13 R390, R392-R395). -/

namespace Sys2Proof.Machine

/-- Fields of the schedule (Table 13.9). -/
def smokerEn (s : State) : Bool := flag s.health.smoker 0
def smokerType (s : State) (t : Nat) : Bool := flag s.health.smoker (17 + t)
def smokerActiveOnly (s : State) : Bool := flag s.health.smoker 21

/-- The next enabled type in rotation, from type `t` on. -/
def nextRehearsal (s : State) (t : Nat) : Option Nat :=
  ([0, 1, 2, 3].map fun k => (t + k) % 4).find? (smokerType s)

/-- A real fault is being handled (R394): a poisoned, held or failed step, a unit that awaits its spare, or a sparing. -/
def faultHandled (s : State) : Bool :=
  (match s.job.step with
  | some st => st.poisoned.isSome || st.held || st.fail.isSome
  | none => false) || !s.comp.failed.isEmpty || !s.su.failed.isEmpty || !s.hbm.copying.isEmpty ||
    s.ports.any fun e => e.2.rxSparing.isSome || e.2.txSparing.isSome

/-- The spare that a rehearsal's mechanism needs is there (R394). -/
def rehearsalSpare (s : State) (t port : Nat) (q : Nat) : Bool :=
  if t = 1 then (portOf s port).rx == .up && (portOf s port).rxLanes.any (· == .standby)
  else if t = 2 then clusterPresent s q && spareFree s q
  else true

/-- Errors put into words of the first two frames of a job's key in the comb (Table 13.10, type 0; assumption 49). -/
def injectComb (s : State) (key : Nat) : State :=
  match (s.comb.frames.filter fun f => frmPkey f.frame == key).map frameId with
  | [] => s
  | [a] => { s with comb := { s.comb with frames := modWhere (fun x => frameId x == a) (fun x => { x with marks := x.marks ++ [(0, false)] }) s.comb.frames } }
  | a :: b :: _ =>
    let m := fun x : CFrame =>
      if frameId x = a then { x with marks := x.marks ++ [(0, false)] } else if frameId x = b then { x with marks := x.marks ++ [(0, true)] } else x
    { s with comb := { s.comb with frames := s.comb.frames.map m } }

/-- The data lane that a rehearsal fails: the one named when it is ACTIVE, else the one that carries logical lane 0. -/
def rehearsedLane (q : Port) (lane : Nat) : Nat := if q.rxLanes.getD lane .off == .active then lane else fld q.rxMap 0 4

/-- The injection of a rehearsal of type t (Table 13.10), counted as one (R395, assumption 14). -/
def inject (s : State) (t port lane q i : Nat) : State :=
  let s1 := count { s with health := { s.health with rehearsing := some t } } .rehearsal t
  if t = 0 then
    (match s.job.launch with
    | some l => injectComb s1 l.pkey
    | none => s1)
  else if t = 1 then laneFailed (modPort s1 port fun q => { q with rehearsed := true }) port (rehearsedLane (portOf s port) lane)
  else if t = 2 then
    let ph := physCluster s q
    let k := physOfKey s (16 * q + i)
    coreFails { s1 with health := { s1.health with rehearsedCore := some (ph, k) } } ph k
  else raisePoison s1 .unitFail

/-- SMOKER_REHEARSAL (R393-R395): at its time a rehearsal runs on the port and lane, or the core, that it names, or is skipped. -/
def smokerRehearsal (port lane q i : Nat) (s : State) : State :=
  if !clocksRun s || !smokerEn s || (rehearsalsDue s ≤ s.health.lastRehearsal && s.health.missed == 0) then s
  else
    let s1 := { s with health := { s.health with
      lastRehearsal := if s.health.missed = 0 then rehearsalsDue s else s.health.lastRehearsal, missed := s.health.missed - 1 } }
    match nextRehearsal s s.health.nextType with
    | none => s1
    | some t =>
      let skip := (smokerActiveOnly s && s.dev.mode != .active) || !rehearsalSpare s t port q || faultHandled s
      let s2 := { s1 with health := { s1.health with nextType := (t + 1) % 4 } }
      if skip then logEvent s2 evSkipped t else inject (logEvent s2 evRehearsal t) t port lane q i

/-- HEALTH_DEDUCTION_EXPIRY (R390): a mismatch cleared by replay is 24 h old. -/
def healthDeductionExpiry (s : State) : State :=
  recomputeHealth { s with health := { s.health with
    mismatches := s.health.mismatches.filter fun t => decide (nowNs s < t + 86400000000000) } }

def execSmokerRehearsal (port : Fin 64) (lane : Fin 9) (cluster : Fin 32) (core : Fin 16) (_unit : Fin 32) (s : State) :=
  ok (smokerRehearsal port.val lane.val cluster.val core.val s)
def execHealthDeductionExpiry (s : State) := ok (healthDeductionExpiry s)

end Sys2Proof.Machine
end

