-- ==== Sys2Proof/Machine/Service.lean ====
section
/-! DEFINITION. Health, statistics, logs, power, freeze, readout, window and reset commands (12 R359, R360; 13 R391, R392, R396;
14 R406, R407, R411, R414, R417, R421, R426). -/

namespace Sys2Proof.Machine

/-- GET_HEALTH: HEALTH, then DEGRADED, REPLACE_REQUEST and KEEP_IN_SERVICE in bits 0 to 2 (assumption 61). -/
def getHealthCmd : Cmd where
  code := 0x0501
  states := fun _ _ => stAll
  run := fun s _ => done s [BitVec.ofNat 64 s.health.score,
    packW [(0, 1, s.dev.degraded.toNat), (1, 1, s.dev.replaceRequest.toNat), (2, 1, s.dev.keepInService.toNat)]]

/-- SET_STATS (R396). -/
def setStatsCmd : Cmd where
  code := 0x0502
  states := fun _ _ => 0x18
  full := fun _ => 8
  form := fun _ r => wordsForm [1] r
  run := fun s r => 
    let on := rn r 0 == 1
    done { s with stats := { s.stats with stepMode := on, stepDue := s.stats.stepDue && on == s.stats.stepMode } }

/-- The entries of a log, each in words (assumption 61): 0 correction, 1 error, 2 integrity, 3 safety, 4 events. -/
def logEntries (s : State) (k : Nat) : List (List Word) :=
  let w := BitVec.ofNat 64
  match k with
  | 0 => s.hbm.corrLog.map fun a => [w a]
  | 1 => s.hbm.errLog.map fun a => [w a]
  | 2 => s.hbm.integrityLog.map fun e => [packW [(0, 32, e.1), (32, 32, e.2)]]
  | 3 => s.dev.safetyLog.map fun e => [w e.mech, w e.time, w e.loc]
  | _ => s.dev.eventLog.map fun e => [w e.1, w e.2.1, w e.2.2]

/-- Words of an entry of a log. -/
def logWidth (k : Nat) : Nat := if k ≤ 2 then 1 else 3

def readLogsCmd : Cmd where
  code := 0x0503
  states := fun _ _ => stAll
  full := fun _ => 24
  form := fun _ r => orForm (wordsForm [4] r) (needs (decide (8 * logWidth (rn r 0) * rn r 2 ≤ 4032)) 16)
  run := fun s r => done s (((logEntries s (rn r 0)).drop (rn r 1)).take (rn r 2)).flatten

/-- A list without n entries from place k on; n = 0 stands for all of them. -/
def cutList {α : Type} (l : List α) (k n : Nat) : List α := l.take k ++ (if n = 0 then [] else l.drop (k + n))

/-- CLEAR_LOGS. -/
def clearLogs (s : State) (log k n : Nat) : State :=
  match log with
  | 0 => { s with hbm := { s.hbm with corrLog := cutList s.hbm.corrLog k n } }
  | 1 => { s with hbm := { s.hbm with errLog := cutList s.hbm.errLog k n } }
  | 2 => { s with hbm := { s.hbm with integrityLog := cutList s.hbm.integrityLog k n } }
  | 3 => { s with dev := { s.dev with safetyLog := cutList s.dev.safetyLog k n } }
  | _ => { s with dev := { s.dev with eventLog := cutList s.dev.eventLog k n } }

def clearLogsCmd : Cmd where
  code := 0x0504
  states := fun _ _ => 0x08
  full := fun _ => 24
  form := fun _ r => wordsForm [4] r
  run := fun s r => done (clearLogs s (rn r 0) (rn r 1) (rn r 2))

/-- KEEP_IN_SERVICE (R391). -/
def keepInServiceCmd : Cmd where
  code := 0x0505
  states := fun _ _ => st3457
  full := fun _ => 8
  form := fun _ r => wordsForm [1] r
  run := fun s r => done (recomputeHealth { s with dev := { s.dev with keepInService := rn r 0 == 1 } })

/-- The power record (14 Table 14.9). -/
def powerWords (s : State) : List Word :=
  [packW [(0, 16, s.power.vin.toNat), (16, 16, s.power.iin.toNat), (32, 16, s.power.pin.toNat), (48, 16, s.power.cap)],
   packW [(0, 4, levelInForce s), (4, 4, s.power.levelCap), (8, 4, s.power.levelCur), (12, 4, s.power.levelTherm),
    (16, 1, s.power.thermtrip.toNat), (17, 1, (!s.dev.leakN).toNat)],
   packW (((List.range 5).map fun k => (8 * k, 8, (s.power.tj.getD k 0).toNat)) ++ [(40, 8, s.power.th.toNat)])]

def getPowerCmd : Cmd where
  code := 0x0601
  states := fun _ _ => stAll
  run := fun s _ => done s (powerWords s)

/-- SET_POWER_CAP (R421). -/
def setPowerCapCmd : Cmd where
  code := 0x0602
  states := fun _ _ => st3457
  full := fun _ => 8
  form := fun _ r => needs (rn r 0 == 0 || (decide (700 ≤ rn r 0) && decide (rn r 0 ≤ 3600))) 0
  run := fun s r => done { s with power := { s.power with cap := if rn r 0 = 0 then 3600 else rn r 0 } }

/-- FREEZE (R411, R414): an id already held stays as it was taken. -/
def freezeCommand (s : State) (id : Nat) (propagate : Bool) : State :=
  if s.dev.freezeIds.any fun h => h.1 == id then s
  else takeFreeze (if propagate then sendSets s (sbPorts s) codeFreeze (freezePayload s id) 3 else s) id (!propagate)

/-- FREEZE, which as an immediate command runs while frozen too (R415). -/
def freezeCmd : Cmd where
  code := 0x0701
  states := fun _ _ => 0xF8
  full := fun _ => 8
  form := fun _ r => needs (decide (rn r 0 < 2 ^ 17) && rn r 0 % 65536 != 0xFFFF) 0
  run := fun s r => done (freezeCommand s (rn r 0 % 65536) (flag (rw r 0) 16))

/-- THAW (R411, R414, R418): the set goes out when an id that was propagated is cleared. -/
def thawCommand (s : State) (id : Nat) : State :=
  let loud := s.dev.freezeIds.any fun h => (h.1 == id || id == 0xFFFF) && !h.2
  resume (clearFreeze (if loud then sendSets s (sbPorts s) codeThaw (freezePayload s id) 3 else s) id)

def thawCmd : Cmd where
  code := 0x0702
  states := fun _ _ => 0x40
  full := fun _ => 8
  form := fun _ r => wordsForm [0xFFFF] r
  run := fun s r => done (thawCommand s (rn r 0))

/-- n free words. -/
def drawWords (s : State) : Nat → List Word × State
  | 0 => ([], s)
  | n + 1 =>
    let (w, s1) := drawFree s
    let (ws, s2) := drawWords s1 n
    (w :: ws, s2)

/-- READOUT (R417, 15 R442): domain 0 control, 1 data, which needs READOUT_DATA. The spec gives no scan layout: the words are an open
function of what the stopped module holds (assumption 11). -/
def readoutRun (s : State) (r : Req) : Ended :=
  done s ((List.range (ceilDiv (rn r 2) 8)).map fun k => Config.scanWord (scanHeld s) (rn r 0) (rn r 1 + 8 * k))

def readoutCmd : Cmd where
  code := 0x0703
  states := fun _ _ => 0x140
  full := fun _ => 24
  form := fun _ r => orForm (needs (decide (rn r 0 ≤ 1)) 0) (needs (decide (rn r 2 ≤ 4032)) 16)
  auth := fun s r => rn r 0 == 0 || flag s.sec.scopes 1
  run := readoutRun

/-- SET_SMOKER (R392): rehearsals whose time has passed are not made up for. -/
def setSmoker (s : State) (w : Word) : State :=
  let s1 := { s with health := { s.health with smoker := w } }
  { s1 with health := { s1.health with lastRehearsal := rehearsalsDue s1, missed := 0 } }

def setSmokerCmd : Cmd where
  code := 0x0704
  states := fun _ _ => st3457
  full := fun _ => 8
  form := fun _ r => needs (decide (rn r 0 < 2 ^ 22) && decide (600 ≤ fld (rw r 0) 1 16)) 0
  run := fun s r => done (setSmoker s (rw r 0))

/-- SET_WINDOW (R343). -/
def setWindowCmd : Cmd where
  code := 0x0705
  states := fun _ _ => st38
  full := fun _ => 16
  form := fun _ r => wordsForm [0x3FF, 1] r
  auth := fun s _ => scopeAperture s
  run := fun s r => done { s with host := { s.host with win := packW [(0, 10, rn r 0), (63, 1, rn r 1)] } }

/-- A frame for a store of a compute die (R407). -/
def toStore (f : Frame) : Bool := (frmOp f == 1 || frmOp f == 3) && (nfld f.w3.toNat 40 3 == 1 || nfld f.w3.toNat 40 3 == 2)

/-- A launch that runs in test mode ends with the reset of its clusters (assumption 62). -/
def dropLaunch (s : State) : State :=
  match s.job.launch with
  | some l => endLaunch (discardStep s l)
  | none => s

/-- A warm compute reset (R407); `failed` is what the self-test finds, as physical cluster and core. -/
def warmReset (s : State) (failed : List (Nat × Nat)) : State :=
  let s0 := dropLaunch s
  let lost := s0.comb.localIn.filter toStore
  let s1 := countN s0 .warmResetDiscard 0 lost.length
  let s2 := { s1 with
    comb := { s1.comb with localIn := s1.comb.localIn.filter fun f => !toStore f }
    fgr := s1.fgr.filter fun e => decide (256 ≤ e.1)
    comp := { s1.comp with slots := [], cores := [], ls := [], cs := [], lsErrs := [], csErrs := []
                           queens := (s1.comp.queens.filter fun e => e.2.lastPatrol != 0).map fun e => (e.1, { lastPatrol := e.2.lastPatrol }) } }
  settleUnits (selfTest s2 { fail := 0, cores := failed, units := [], channels := [], clusters := [] })

/-- RESET, warm; a word other than 0 and 1 is a bad argument (R360, R406). -/
def resetWarmCmd (failed : List (Nat × Nat)) : Cmd where
  code := 0x0706
  states := fun _ _ => 0x98
  full := fun _ => 8
  form := fun _ r => wordsForm [1] r
  run := fun s _ => done (warmReset s failed)

/-- RESET, full (R406, R408). -/
def resetFullCmd : Cmd where
  code := 0x0706
  states := fun _ _ => 0x198
  full := fun _ => 8
  run := fun s _ => done (fullReset s)

/-- A RESET row runs only the request that asks for its kind. -/
def runReset (full : Bool) (c : Cmd) (src : ReqSrc) (s : State) : State :=
  match frontReq c.code src s with
  | some r => if (rn r 0 == 1) == full then runCmd c src s else s
  | none => s

def execGetHealth (src : ReqSrc) (s : State) := ok (runCmd getHealthCmd src s)
def execSetStats (src : ReqSrc) (s : State) := ok (runCmd setStatsCmd src s)
def execReadLogs (src : ReqSrc) (s : State) := ok (runCmd readLogsCmd src s)
def execClearLogs (src : ReqSrc) (s : State) := ok (runCmd clearLogsCmd src s)
def execKeepInService (src : ReqSrc) (s : State) := ok (runCmd keepInServiceCmd src s)
def execGetPower (src : ReqSrc) (s : State) := ok (runCmd getPowerCmd src s)
def execSetPowerCap (src : ReqSrc) (s : State) := ok (runCmd setPowerCapCmd src s)
def execFreeze (src : ReqSrc) (s : State) := ok (runCmd freezeCmd src s)
def execThaw (src : ReqSrc) (s : State) := ok (runCmd thawCmd src s)
def execReadout (src : ReqSrc) (s : State) := ok (runCmd readoutCmd src s)
def execSetSmoker (src : ReqSrc) (s : State) := ok (runCmd setSmokerCmd src s)
def execSetWindow (src : ReqSrc) (s : State) := ok (runCmd setWindowCmd src s)
def execResetWarmCompute (src : ReqSrc) (failed : List (Nat × Nat)) (s : State) := ok (runReset false (resetWarmCmd failed) src s)
def execResetFull (src : ReqSrc) (s : State) := ok (runReset true resetFullCmd src s)

end Sys2Proof.Machine
end

