-- ==== Sys2Proof/Machine/Security.lean ====
section
/-! DEFINITION. Firmware update and debug authorisation (15 R429, R430, R439-R441). -/

namespace Sys2Proof.Machine

/-- Bytes of a firmware slot (12 R339). -/
def slotBytes : Nat := 29360128

/-- FW_STAGE (R429): it writes to the slot that is not running, erased first when OFFSET is 0. -/
def fwStage (s : State) (off : Nat) (bs : List Byte) : State :=
  let slot := !s.sec.running
  let old := if slot then s.sec.flash1 else s.sec.flash0
  let base := off != 0 && slotBase s slot
  let under := (List.range bs.length).map fun k => slotUnder base (off + k)
  let m := memWrite (if off = 0 then [] else old) off (List.zipWith (· ^^^ ·) bs under)
  if slot then { s with sec := { s.sec with flash1 := m, shipped1 := false, base1 := base } }
  else { s with sec := { s.sec with flash0 := m, shipped0 := false, base0 := base } }

def fwStageCmd : Cmd where
  code := 0x0801
  states := fun _ _ => 0x08
  full := fun r => 16 + roundUp (rn r 1) 8
  form := fun _ r => orForm (needs (decide (rn r 0 + rn r 1 ≤ slotBytes)) 0) (needs (decide (1 ≤ rn r 1) && decide (rn r 1 ≤ 4000)) 8)
  run := fun s r => done (fwStage s (rn r 0) ((bytesOfWords (rws r 2 (ceilDiv (rn r 1) 8))).take (rn r 1)))

/-- The fused SVN as FW_ACTIVATE would leave it. -/
def svnAfter (s : State) (commit : Bool) : Nat := if commit then max (fusedSvn s) (slotSvn s s.sec.running) else fusedSvn s

/-- The checks of FW_ACTIVATE (R430). -/
def fwActivateForm (s : State) (r : Req) : Option Nat :=
  let w := rw r 0
  let staged := imageOk s (!s.sec.running) (svnAfter s (flag w 2))
  needs (decide (rn r 0 < 16) && (!flag w 0 || staged) && (!flag w 3 || slotKey s s.sec.running) &&
    (!flag w 2 || decide (fusedSvn s ≤ slotSvn s s.sec.running))) 0

/-- RESTART (R430): a full reset in which management restarts from stage 0x01; in recovery the module stays in AUX. -/
def restart (s : State) : State :=
  let s1 := if s.dev.recovery then endScopes s else fullReset s
  { s1 with
    dev := { s1.dev with bootStage := 0, recovery := false, bootFail := 0 }
    sceuf := { s1.sceuf with sessions := [], accepted := [], kept := [], forward := none }
    host := { s1.host with bar2 := ({} : HostIf).bar2 }
    sec := { s1.sec with spdm := [], spdmWait := [], nonce := none } }

/-- FW_ACTIVATE (R430): fuses, then the preference, then the restart. -/
def fwActivate (s : State) (w : Word) : State :=
  let n := svnAfter s (flag w 2)
  let s1 := { s with sec := { s.sec with
    svn := if flag w 2 then s.sec.svn ||| BitVec.ofNat 64 (2 ^ n - 1) else s.sec.svn
    revoked0 := s.sec.revoked0 || flag w 3
    preferred := if flag w 0 then !s.sec.running else s.sec.preferred } }
  if flag w 1 then restart s1 else s1

def fwActivateCmd : Cmd where
  code := 0x0802
  states := fun _ _ => 0x08
  full := fun _ => 8
  form := fwActivateForm
  run := fun s r => done (fwActivate s (rw r 0))

/-- Whole seconds of unlock that remain (R439, assumption 63). -/
def unlockLeft (s : State) : Nat :=
  match s.sec.scopeEnd with
  | some t => (t - pclkNow s) / pclkCycles 1
  | none => 0

/-- DEBUG_CHALLENGE (R439): a fresh nonce from the entropy source replaces any earlier one. -/
def debugChallengeRun (s : State) (_ : Req) : Ended :=
  let (ws, s1) := drawWords s 4
  done { s1 with sec := { s1.sec with nonce := some (ofWords 256 ws, nowNs s) } }
    (ws ++ [s.ident.serial, BitVec.ofNat 64 s.sec.scopes.toNat, BitVec.ofNat 64 (unlockLeft s)])

def debugChallengeCmd : Cmd where
  code := 0x0803
  states := fun _ _ => stAll
  run := debugChallengeRun

/-- The nonce of a request is the one in force (R439). -/
def nonceGood (s : State) (r : Req) : Bool :=
  match s.sec.nonce with
  | some (n, t) => n == ofWords 256 (rws r 1 4) && decide (nowNs s < t + 60000000000)
  | none => false

/-- A debug unlock request is accepted (R440). -/
def unlockGood (s : State) (r : Req) : Bool :=
  let key := bytesOfWords (rws r 7 12)
  rw r 0 == s.ident.serial && nonceGood s r && Config.sha384 key == s.sec.debugKeyHash &&
    Config.ecdsaVerify key (bytesOfWords (rws r 19 12)) (Config.sha384 (bytesOfWords (rws r 0 19)))

/-- DEBUG_UNLOCK (R440, R441): the nonce is consumed either way. -/
def debugUnlockRun (s : State) (r : Req) : Ended :=
  let s1 := { s with sec := { s.sec with nonce := none } }
  if unlockGood s r then
    let s2 := extendHistory { s1 with sec := { s1.sec with refusals := 0 } } (bytesOfWords (rws r 0 31))
    done (setScopes s2 (BitVec.ofNat 4 (fld (rw r 5) 0 4)) (some (pclkNow s + pclkCycles (fld (rw r 6) 0 32))))
  else refused { s1 with sec := { s1.sec with refusals := min 8 (s.sec.refusals + 1) } } .denied

/-- After 8 refusals in a row nothing of a DEBUG_UNLOCK is checked (R440). -/
def debugUnlockCmd : Cmd where
  code := 0x0804
  states := fun _ _ => stAll
  full := fun _ => 248
  form := fun _ r => orForm (needs (fld (rw r 5) 4 60 == 0) 40)
    (needs (decide (1 ≤ rn r 6) && decide (rn r 6 ≤ 86400)) 48)
  locked := fun s => decide (8 ≤ s.sec.refusals)
  run := debugUnlockRun

/-- DEBUG_LOCK (R441): TEST_MODE is left as it is. -/
def debugLockCmd : Cmd where
  code := 0x0805
  states := fun _ _ => stAll
  run := fun s _ => done (setScopes s 0 none)

def execFwStage (src : ReqSrc) (s : State) := ok (runCmd fwStageCmd src s)
def execFwActivate (src : ReqSrc) (s : State) := ok (runCmd fwActivateCmd src s)
def execDebugChallenge (src : ReqSrc) (s : State) := ok (runCmd debugChallengeCmd src s)
def execDebugUnlock (src : ReqSrc) (s : State) := ok (runCmd debugUnlockCmd src s)
def execDebugLock (src : ReqSrc) (s : State) := ok (runCmd debugLockCmd src s)

end Sys2Proof.Machine
end

