-- ==== Sys2Proof/Machine/Dispatch.lean ====
section
/-! DEFINITION. The meaning of each command: one arm per constructor of Instr. -/

namespace Sys2Proof.Machine

def exec (i : Instr) (s : State) : Host.Outcome State Fault Refusal :=
  match i with
  | .openSession src => Sys2Proof.Machine.execOpenSession src s
  | .closeSession src => Sys2Proof.Machine.execCloseSession src s
  | .getIdentity src => Sys2Proof.Machine.execGetIdentity src s
  | .getState src => Sys2Proof.Machine.execGetState src s
  | .setTestMode src => Sys2Proof.Machine.execSetTestMode src s
  | .forward src => Sys2Proof.Machine.execForward src s
  | .setEid src => Sys2Proof.Machine.execSetEid src s
  | .join src => Sys2Proof.Machine.execJoin src s
  | .leave src => Sys2Proof.Machine.execLeave src s
  | .writeRoutes src => Sys2Proof.Machine.execWriteRoutes src s
  | .writeMcast src => Sys2Proof.Machine.execWriteMcast src s
  | .armEpoch src => Sys2Proof.Machine.execArmEpoch src s
  | .cancelArm src => Sys2Proof.Machine.execCancelArm src s
  | .setupCircuit src => Sys2Proof.Machine.execSetupCircuit src s
  | .teardownCircuit src => Sys2Proof.Machine.execTeardownCircuit src s
  | .writeRankmap src => Sys2Proof.Machine.execWriteRankmap src s
  | .setKeymap src => Sys2Proof.Machine.execSetKeymap src s
  | .setGuard src => Sys2Proof.Machine.execSetGuard src s
  | .setComb src => Sys2Proof.Machine.execSetComb src s
  | .armGroup src => Sys2Proof.Machine.execArmGroup src s
  | .disarmGroup src => Sys2Proof.Machine.execDisarmGroup src s
  | .armContext src => Sys2Proof.Machine.execArmContext src s
  | .disarmContext src => Sys2Proof.Machine.execDisarmContext src s
  | .setMirror src => Sys2Proof.Machine.execSetMirror src s
  | .setPort src => Sys2Proof.Machine.execSetPort src s
  | .readConfig src => Sys2Proof.Machine.execReadConfig src s
  | .loadCore src => Sys2Proof.Machine.execLoadCore src s
  | .unloadCore src => Sys2Proof.Machine.execUnloadCore src s
  | .loadStream src => Sys2Proof.Machine.execLoadStream src s
  | .setParams src => Sys2Proof.Machine.execSetParams src s
  | .setRings src => Sys2Proof.Machine.execSetRings src s
  | .launch src => Sys2Proof.Machine.execLaunch src s
  | .startRun src => Sys2Proof.Machine.execStartRun src s
  | .commitStep src => Sys2Proof.Machine.execCommitStep src s
  | .abort src => Sys2Proof.Machine.execAbort src s
  | .replayStep src => Sys2Proof.Machine.execReplayStep src s
  | .regionCreate src => Sys2Proof.Machine.execRegionCreate src s
  | .regionChange src => Sys2Proof.Machine.execRegionChange src s
  | .regionDelete src => Sys2Proof.Machine.execRegionDelete src s
  | .zeroize src => Sys2Proof.Machine.execZeroize src s
  | .startForager src => Sys2Proof.Machine.execStartForager src s
  | .foragerStatus src => Sys2Proof.Machine.execForagerStatus src s
  | .hostCopy src hostData => Sys2Proof.Machine.execHostCopy src hostData s
  | .getHealth src => Sys2Proof.Machine.execGetHealth src s
  | .setStats src => Sys2Proof.Machine.execSetStats src s
  | .readLogs src => Sys2Proof.Machine.execReadLogs src s
  | .clearLogs src => Sys2Proof.Machine.execClearLogs src s
  | .keepInService src => Sys2Proof.Machine.execKeepInService src s
  | .getPower src => Sys2Proof.Machine.execGetPower src s
  | .setPowerCap src => Sys2Proof.Machine.execSetPowerCap src s
  | .freeze src => Sys2Proof.Machine.execFreeze src s
  | .thaw src => Sys2Proof.Machine.execThaw src s
  | .readout src => Sys2Proof.Machine.execReadout src s
  | .setSmoker src => Sys2Proof.Machine.execSetSmoker src s
  | .setWindow src => Sys2Proof.Machine.execSetWindow src s
  | .resetWarmCompute src failed => Sys2Proof.Machine.execResetWarmCompute src failed s
  | .resetFull src => Sys2Proof.Machine.execResetFull src s
  | .fwStage src => Sys2Proof.Machine.execFwStage src s
  | .fwActivate src => Sys2Proof.Machine.execFwActivate src s
  | .debugChallenge src => Sys2Proof.Machine.execDebugChallenge src s
  | .debugUnlock src => Sys2Proof.Machine.execDebugUnlock src s
  | .debugLock src => Sys2Proof.Machine.execDebugLock src s
  | .doorbell value => Sys2Proof.Machine.execDoorbell value s
  | .tokenRptr value => Sys2Proof.Machine.execTokenRptr value s
  | .cmplRptr value => Sys2Proof.Machine.execCmplRptr value s
  | .bar4Read offset bytes => Sys2Proof.Machine.execBar4Read offset bytes s
  | .bar4Write offset data => Sys2Proof.Machine.execBar4Write offset data s
  | .registerWrite bar offset data => Sys2Proof.Machine.execRegisterWrite bar offset data s
  | .mgmtDatagram peer message => Sys2Proof.Machine.execMgmtDatagram peer message s
  | .spdmRequest path request => Sys2Proof.Machine.execSpdmRequest path request s
  | .jtagInstruction ir => Sys2Proof.Machine.execJtagInstruction ir s
  | .frameIngress arrival => Sys2Proof.Machine.execFrameIngress arrival s
  | .egressArbitration => Sys2Proof.Machine.execEgressArbitration s
  | .calendarSlotStart output => Sys2Proof.Machine.execCalendarSlotStart output s
  | .frameSent output => Sys2Proof.Machine.execFrameSent output s
  | .frameAged list => Sys2Proof.Machine.execFrameAged list s
  | .pauseWord output word => Sys2Proof.Machine.execPauseWord output word s
  | .pauseWordRepeat port => Sys2Proof.Machine.execPauseWordRepeat port s
  | .pauseExpired output cls => Sys2Proof.Machine.execPauseExpired output cls s
  | .poolWaiterGrant pool => Sys2Proof.Machine.execPoolWaiterGrant pool s
  | .poolWaitExpired pool => Sys2Proof.Machine.execPoolWaitExpired pool s
  | .calendarWrap => Sys2Proof.Machine.execCalendarWrap s
  | .queueSample => Sys2Proof.Machine.execQueueSample s
  | .statsBoundary => Sys2Proof.Machine.execStatsBoundary s
  | .epochSwap => Sys2Proof.Machine.execEpochSwap s
  | .epochDrainEnd => Sys2Proof.Machine.execEpochDrainEnd s
  | .mwrite frame => Sys2Proof.Machine.execMwrite frame s
  | .mwack frame => Sys2Proof.Machine.execMwack frame s
  | .mread frame => Sys2Proof.Machine.execMread frame s
  | .mrdata frame => Sys2Proof.Machine.execMrdata frame s
  | .event frame => Sys2Proof.Machine.execEvent frame s
  | .mbox frame => Sys2Proof.Machine.execMbox frame s
  | .mboxResponse frame => Sys2Proof.Machine.execMboxResponse frame s
  | .forwardTimeout => Sys2Proof.Machine.execForwardTimeout s
  | .linkprobe port frame => Sys2Proof.Machine.execLinkprobe port frame s
  | .linkprobeEcho port frame => Sys2Proof.Machine.execLinkprobeEcho port frame s
  | .twin frame => Sys2Proof.Machine.execTwin frame s
  | .twinSend => Sys2Proof.Machine.execTwinSend s
  | .digestTimeout => Sys2Proof.Machine.execDigestTimeout s
  | .voteSend => Sys2Proof.Machine.execVoteSend s
  | .vote frame => Sys2Proof.Machine.execVote frame s
  | .release frame => Sys2Proof.Machine.execRelease frame s
  | .commitComplete => Sys2Proof.Machine.execCommitComplete s
  | .stepWatchdog => Sys2Proof.Machine.execStepWatchdog s
  | .replayStart => Sys2Proof.Machine.execReplayStart s
  | .launchComplete => Sys2Proof.Machine.execLaunchComplete s
  | .tokenRecord => Sys2Proof.Machine.execTokenRecord s
  | .completionRecord => Sys2Proof.Machine.execCompletionRecord s
  | .loop cluster => Sys2Proof.Machine.execLoop cluster s
  | .wait cluster => Sys2Proof.Machine.execWait cluster s
  | .waitRelease cluster => Sys2Proof.Machine.execWaitRelease cluster s
  | .waitTimeout cluster channel => Sys2Proof.Machine.execWaitTimeout cluster channel s
  | .signal cluster => Sys2Proof.Machine.execSignal cluster s
  | .evclr cluster => Sys2Proof.Machine.execEvclr cluster s
  | .vset cluster => Sys2Proof.Machine.execVset cluster s
  | .stepb cluster => Sys2Proof.Machine.execStepb cluster s
  | .endProgram cluster => Sys2Proof.Machine.execEndProgram cluster s
  | .vld cluster => Sys2Proof.Machine.execVld cluster s
  | .vst cluster => Sys2Proof.Machine.execVst cluster s
  | .cld cluster => Sys2Proof.Machine.execCld cluster s
  | .emv cluster => Sys2Proof.Machine.execEmv cluster s
  | .eop cluster => Sys2Proof.Machine.execEop cluster s
  | .vadd cluster => Sys2Proof.Machine.execVadd cluster s
  | .vsub cluster => Sys2Proof.Machine.execVsub cluster s
  | .vmul cluster => Sys2Proof.Machine.execVmul cluster s
  | .vfma cluster => Sys2Proof.Machine.execVfma cluster s
  | .vdiv cluster => Sys2Proof.Machine.execVdiv cluster s
  | .vsqrt cluster => Sys2Proof.Machine.execVsqrt cluster s
  | .vmax cluster => Sys2Proof.Machine.execVmax cluster s
  | .vmin cluster => Sys2Proof.Machine.execVmin cluster s
  | .vmaxn cluster => Sys2Proof.Machine.execVmaxn cluster s
  | .vminn cluster => Sys2Proof.Machine.execVminn cluster s
  | .vcmp cluster => Sys2Proof.Machine.execVcmp cluster s
  | .vsel cluster => Sys2Proof.Machine.execVsel cluster s
  | .vfunc cluster => Sys2Proof.Machine.execVfunc cluster s
  | .vcvt cluster => Sys2Proof.Machine.execVcvt cluster s
  | .vred cluster => Sys2Proof.Machine.execVred cluster s
  | .vmisc cluster => Sys2Proof.Machine.execVmisc cluster s
  | .sld cluster => Sys2Proof.Machine.execSld cluster s
  | .advance cluster => Sys2Proof.Machine.execAdvance cluster s
  | .fclr cluster => Sys2Proof.Machine.execFclr cluster s
  | .frd cluster => Sys2Proof.Machine.execFrd cluster s
  | .fexp cluster => Sys2Proof.Machine.execFexp cluster s
  | .fadd cluster => Sys2Proof.Machine.execFadd cluster s
  | .tenc cluster => Sys2Proof.Machine.execTenc cluster s
  | .cxset cluster => Sys2Proof.Machine.execCxset cluster s
  | .cxadv cluster => Sys2Proof.Machine.execCxadv cluster s
  | .corePatrol cluster failed queenFailed => Sys2Proof.Machine.execCorePatrol cluster failed queenFailed s
  | .sparePatrolFail cluster => Sys2Proof.Machine.execSparePatrolFail cluster s
  | .coreSpareMap cluster core => Sys2Proof.Machine.execCoreSpareMap cluster core s
  | .storeWalk => Sys2Proof.Machine.execStoreWalk s
  | .stream unit => Sys2Proof.Machine.execStream unit s
  | .streamTimeout ctx seq chunk => Sys2Proof.Machine.execStreamTimeout ctx seq chunk s
  | .streamUnitPatrol unit mismatch => Sys2Proof.Machine.execStreamUnitPatrol unit mismatch s
  | .streamUnitRetire unit => Sys2Proof.Machine.execStreamUnitRetire unit s
  | .collectiveIssue => Sys2Proof.Machine.execCollectiveIssue s
  | .collectiveComplete group seq lsrc => Sys2Proof.Machine.execCollectiveComplete group seq lsrc s
  | .collTimeout group seq lsrc => Sys2Proof.Machine.execCollTimeout group seq lsrc s
  | .move channel => Sys2Proof.Machine.execMove channel s
  | .moveComplete channel => Sys2Proof.Machine.execMoveComplete channel s
  | .foragerTimeout channel => Sys2Proof.Machine.execForagerTimeout channel s
  | .foragerLoop channel => Sys2Proof.Machine.execForagerLoop channel s
  | .foragerWait channel => Sys2Proof.Machine.execForagerWait channel s
  | .foragerWaitRelease channel => Sys2Proof.Machine.execForagerWaitRelease channel s
  | .foragerSignal channel => Sys2Proof.Machine.execForagerSignal channel s
  | .foragerEnd channel => Sys2Proof.Machine.execForagerEnd channel s
  | .patrolScrub => Sys2Proof.Machine.execPatrolScrub s
  | .pcSpareCopyComplete stack channel => Sys2Proof.Machine.execPcSpareCopyComplete stack channel s
  | .poison set => Sys2Proof.Machine.execPoison set s
  | .fence set => Sys2Proof.Machine.execFence set s
  | .beacon set => Sys2Proof.Machine.execBeacon set s
  | .beaconSend => Sys2Proof.Machine.execBeaconSend s
  | .neighbourSilent port => Sys2Proof.Machine.execNeighbourSilent port s
  | .freezeOrderedSet set => Sys2Proof.Machine.execFreezeOrderedSet set s
  | .thawOrderedSet set => Sys2Proof.Machine.execThawOrderedSet set s
  | .freezeNAssert => Sys2Proof.Machine.execFreezeNAssert s
  | .freezeNRelease => Sys2Proof.Machine.execFreezeNRelease s
  | .timeSend => Sys2Proof.Machine.execTimeSend s
  | .timeAnswer port => Sys2Proof.Machine.execTimeAnswer port s
  | .time set => Sys2Proof.Machine.execTime set s
  | .timeAnswerMissing => Sys2Proof.Machine.execTimeAnswerMissing s
  | .timeParentChange => Sys2Proof.Machine.execTimeParentChange s
  | .announceSend port => Sys2Proof.Machine.execAnnounceSend port s
  | .announce rx => Sys2Proof.Machine.execAnnounce rx s
  | .accept rx => Sys2Proof.Machine.execAccept rx s
  | .reject rx => Sys2Proof.Machine.execReject rx s
  | .trainComplete port marks => Sys2Proof.Machine.execTrainComplete port marks s
  | .trainTimeout port => Sys2Proof.Machine.execTrainTimeout port s
  | .sidebandUp port => Sys2Proof.Machine.execSidebandUp port s
  | .sbLost port => Sys2Proof.Machine.execSbLost port s
  | .lossOfSignal port lane => Sys2Proof.Machine.execLossOfSignal port lane s
  | .lossOfLock port lane => Sys2Proof.Machine.execLossOfLock port lane s
  | .fecUncorr port lane framesLost => Sys2Proof.Machine.execFecUncorr port lane framesLost s
  | .spareReq rx => Sys2Proof.Machine.execSpareReq rx s
  | .laneMoveComplete port => Sys2Proof.Machine.execLaneMoveComplete port s
  | .spareRxAligned port => Sys2Proof.Machine.execSpareRxAligned port s
  | .spareDone rx => Sys2Proof.Machine.execSpareDone rx s
  | .sparingTimeout port => Sys2Proof.Machine.execSparingTimeout port s
  | .twinLost => Sys2Proof.Machine.execTwinLost s
  | .smokerRehearsal port lane cluster core unit => Sys2Proof.Machine.execSmokerRehearsal port lane cluster core unit s
  | .debugScopeExpiry => Sys2Proof.Machine.execDebugScopeExpiry s
  | .nonceExpiry => Sys2Proof.Machine.execNonceExpiry s
  | .auxPowerGood => Sys2Proof.Machine.execAuxPowerGood s
  | .auxPowerLost => Sys2Proof.Machine.execAuxPowerLost s
  | .pwrEnAssert => Sys2Proof.Machine.execPwrEnAssert s
  | .pwrEnDeassert => Sys2Proof.Machine.execPwrEnDeassert s
  | .main54vFault => Sys2Proof.Machine.execMain54vFault s
  | .railFault rail => Sys2Proof.Machine.execRailFault rail s
  | .clockFault clock => Sys2Proof.Machine.execClockFault clock s
  | .mainConversionStop => Sys2Proof.Machine.execMainConversionStop s
  | .thermtrip reading => Sys2Proof.Machine.execThermtrip reading s
  | .leakN => Sys2Proof.Machine.execLeakN s
  | .thermalSample reading => Sys2Proof.Machine.execThermalSample reading s
  | .powerCapPeriod reading => Sys2Proof.Machine.execPowerCapPeriod reading s
  | .currentLimit => Sys2Proof.Machine.execCurrentLimit s
  | .currentLevelDecay => Sys2Proof.Machine.execCurrentLevelDecay s
  | .perstN => Sys2Proof.Machine.execPerstN s
  | .slotChanged slot hivePresentN twinPresentN => Sys2Proof.Machine.execSlotChanged slot hivePresentN twinPresentN s
  | .bootStageComplete report => Sys2Proof.Machine.execBootStageComplete report s
  | .queenLockstepMismatch cluster => Sys2Proof.Machine.execQueenLockstepMismatch cluster s
  | .managementLockstepMismatch => Sys2Proof.Machine.execManagementLockstepMismatch s
  | .mainPowerGood => Sys2Proof.Machine.execMainPowerGood s
  | .leakNDeassert => Sys2Proof.Machine.execLeakNDeassert s
  | .healthDeductionExpiry => Sys2Proof.Machine.execHealthDeductionExpiry s
  | .busMasterEnable => Sys2Proof.Machine.execBusMasterEnable s
  | .dhcpv4Reply address => Sys2Proof.Machine.execDhcpv4Reply address s

end Sys2Proof.Machine
end

