-- ==== Sys2Proof/Machine/Wire.lean ====
section
/-! DEFINITION. What a port's fibre carries (10 R293-R299, R306, R308, R309): PAM4 levels, the word stream, its dealing over the
lanes, Reed-Solomon codewords with their headers, and the characters of the sideband. Frames and pause words cross a port of this
model whole (assumption 110); these definitions say what they are made of on the way. -/

namespace Sys2Proof.Machine

/-- PAM4 level of a bit pair (R293). -/
def pam4 (b : BitVec 2) : Fin 4 :=
  match b with
  | 0b00 => 0
  | 0b01 => 1
  | 0b11 => 2
  | 0b10 => 3

/-- A word of a port's stream (R297): idle, a pause word, the first word of a frame or a later one. -/
inductive PortWord where
  | idle
  | pause (w : Word)
  | first (w : Word)
  | later (w : Word)
deriving DecidableEq, Repr, Inhabited

/-- The 64 bits of a port word (R295, R297). -/
def PortWord.bits : PortWord → Word
  | .idle => 0
  | .pause w => w
  | .first w => w
  | .later w => w

/-- The words of a frame (08 R239): four of header, the payload with its last word filled by zeros, the trailer. -/
def frameWords (f : Frame) : List Word :=
  [f.w0, f.w1, f.w2, f.w3] ++ wordsOfBytes f.payload (ceilDiv f.payload.length 8) ++ [f.crc.setWidth 64]

/-- What an event that leaves the module puts into its port's stream (R297). -/
def portWords : OutEvent → List PortWord
  | .frame _ f _ =>
    (match frameWords f with
    | w :: r => .first w :: r.map .later
    | [] => [])
  | .pause _ w => [.pause w]
  | _ => []

/-- What a receiver reads from its port's words once the pause words are out (R297): a word whose bits [7:0] are 0 is idle between
frames, and any other begins a frame of as many words as its LEN gives. -/
structure Delimit where
  cur : List Word := []
  frames : List (List Word) := []
deriving DecidableEq, Repr, Inhabited

/-- Words of a frame whose first three words are known; five for the shortest (08 R239, R240). -/
def frameLength (ws : List Word) : Nat := if ws.length < 3 then 5 else 5 + ceilDiv (fld (arg ws 2) 0 13) 8

/-- One more word at the receiver. -/
def delimitWord (d : Delimit) (w : Word) : Delimit :=
  if d.cur.isEmpty && fld w 0 8 == 0 then d
  else
    let c := d.cur ++ [w]
    if frameLength c ≤ c.length then { cur := [], frames := d.frames ++ [c] } else { d with cur := c }

/-- After a lost codeword the receiver discards words up to the first that an FPOS names (R298). -/
def resync (ws : List (Word × Bool)) : List Word := (ws.dropWhile fun w => !w.2).map (·.1)

/-- The words that logical lane n of W carries in a codeword period of W x N words (R294, R296): every W-th from the n-th on. -/
def laneWords (W N n : Nat) (ws : List PortWord) : List PortWord := (List.range N).map fun j => ws.getD (j * W + n) .idle

/-- The Reed-Solomon code of a port (R296, R306): words in a codeword, and parity symbols (twice t). -/
structure Fec where
  words : Nat
  parity : Nat
deriving DecidableEq, Repr, Inhabited

/-- (544,514) on global ports and under MFP 2.4, (272,258) on hive ports. -/
def fecOf (p mfp : Nat) : Fec := if mfp = 1 || 32 ≤ p then { words := 80, parity := 30 } else { words := 40, parity := 14 }

/-- Data symbols and all symbols of a codeword. -/
def Fec.data (c : Fec) : Nat := (20 + 64 * c.words) / 10
def Fec.size (c : Fec) : Nat := c.data + c.parity

/-- Twice an element of GF(2^10) with the polynomial x^10 + x^3 + 1 (R296). -/
def gfDouble (a : BitVec 10) : BitVec 10 := if a.msb then a <<< 1 ^^^ 0x009 else a <<< 1

/-- Product in GF(2^10), by the bits of `b` from the highest down. -/
def gfMul (a b : BitVec 10) : BitVec 10 :=
  (List.range 10).foldl (fun acc i => let d := gfDouble acc; if b.getLsbD (9 - i) then d ^^^ a else d) 0

/-- The power of α with an exponent. -/
def gfPow : Nat → BitVec 10
  | 0 => 1
  | n + 1 => gfDouble (gfPow n)

/-- A polynomial, highest coefficient first, times x - r. -/
def timesRoot (g : List (BitVec 10)) (r : BitVec 10) : List (BitVec 10) :=
  List.zipWith (· ^^^ ·) (g ++ [0]) (0 :: g.map (gfMul r))

/-- The generator with the roots α^0 to α^(n-1) (R296), highest coefficient first. -/
def generator (n : Nat) : List (BitVec 10) := ((List.range n).map gfPow).foldl timesRoot [1]

/-- The remainder after one more symbol. -/
def parityStep (g : List (BitVec 10)) (r : List (BitVec 10)) (x : BitVec 10) : List (BitVec 10) :=
  let f := r.headD 0 ^^^ x
  List.zipWith (· ^^^ ·) (r.tail ++ [0]) (g.tail.map (gfMul f))

/-- The parity symbols of data symbols, the first sent of the highest power (R296; PRESUMED from IEEE 802.3 clause 91). -/
def parityOf (c : Fec) (data : List (BitVec 10)) : List (BitVec 10) :=
  data.foldl (parityStep (generator c.parity)) (List.replicate c.parity 0)

/-- A codeword's header (Table 10.1). -/
structure CwHeader where
  ppos : Nat
  fpos : Nat
  mark : Bool
  lane : Nat
  stby : Bool
deriving DecidableEq, Repr, Inhabited

/-- The 20 bits of a header. -/
def CwHeader.bits (h : CwHeader) : BitVec 20 :=
  BitVec.ofNat 20 (pack [(0, 7, h.ppos), (7, 7, h.fpos), (14, 1, h.mark.toNat), (15, 3, h.lane), (18, 1, h.stby.toNat)])

/-- The position of the first word with a property, 127 when none has it (Table 10.1). -/
def posOf (p : PortWord → Bool) (ws : List PortWord) : Nat := (findAt p ws).getD 127

/-- MARK is set in one codeword period of 16,384 (R299); from which one is the model's choice (assumption 110). -/
def markPeriod (k : Nat) : Bool := k % 16384 == 0

/-- The header of logical lane n for its words in period k (Table 10.1). -/
def headerOf (k n : Nat) (ws : List PortWord) : CwHeader :=
  { ppos := posOf (fun w => match w with
      | .pause _ => true
      | _ => false) ws
    fpos := posOf (fun w => match w with
      | .first _ => true
      | _ => false) ws
    mark := markPeriod k, lane := n, stby := false }

/-- The header of the lane in standby, whose words are all idle (Table 10.1). -/
def standbyHeader (k : Nat) : CwHeader := { ppos := 127, fpos := 127, mark := markPeriod k, lane := 0, stby := true }

/-- The symbols of a payload (R296): the header in bits [19:0], word i in the 64 bits from 20 + 64i on. -/
def payloadSymbols (c : Fec) (h : CwHeader) (ws : List PortWord) : List (BitVec 10) :=
  let v := pack ((0, 20, h.bits.toNat) :: ws.zipIdx.map fun e => (20 + 64 * e.2, 64, e.1.bits.toNat))
  (List.range c.data).map fun j => BitVec.ofNat 10 (nfld v (10 * j) 10)

/-- A codeword (R296): the payload's symbols, then the parity symbols. -/
def codeword (c : Fec) (h : CwHeader) (ws : List PortWord) : List (BitVec 10) :=
  let d := payloadSymbols c h ws
  d ++ parityOf c d

/-- The codewords of period k of a port, by logical lane (R294, R296). -/
def periodCodewords (p mfp W k : Nat) (ws : List PortWord) : List (List (BitVec 10)) :=
  let c := fecOf p mfp
  (List.range W).map fun n => codeword c (headerOf k n (laneWords W c.words n ws)) (laneWords W c.words n ws)

/-- The PAM4 symbols of a codeword: five of each symbol, from bits [9:8] on (R296). -/
def levels (cw : List (BitVec 10)) : List (Fin 4) :=
  cw.flatMap fun x => (List.range 5).map fun i => pam4 (BitVec.ofNat 2 (fld x (8 - 2 * i) 2))

/-- A symbol's value at α^i of a codeword: 0 for each root when no symbol was changed. -/
def syndrome (i : Nat) (cw : List (BitVec 10)) : BitVec 10 := cw.foldl (fun a x => gfMul a (gfPow i) ^^^ x) 0

/-- A character of the sideband: K28.5 or data (R308). -/
inductive Char8 where
  | comma
  | data (b : Byte)
deriving DecidableEq, Repr, Inhabited

/-- The characters of /I2/ (K28.5 D16.2), sent between ordered sets (R308). -/
def idleChars : List Char8 := [.comma, .data 0x50]

/-- The eight characters of an ordered set (R309): K28.5, code, payload from its low byte on, CHK. -/
def setChars (code : Byte) (payload : BitVec 40) : List Char8 :=
  let body := code :: bytesOfNat payload.toNat 5
  .comma :: body.map .data ++ [.data (crc8 body)]

/-- The six-bit and four-bit parts of the 8b/10b code at running disparity -1 (PRESUMED from IEEE 802.3 clause 36). -/
def code5b6b : List (BitVec 6) :=
  [0b100111, 0b011101, 0b101101, 0b110001, 0b110101, 0b101001, 0b011001, 0b111000, 0b111001, 0b100101, 0b010101, 0b110100, 0b001101,
   0b101100, 0b011100, 0b010111, 0b011011, 0b100011, 0b010011, 0b110010, 0b001011, 0b101010, 0b011010, 0b111010, 0b110011, 0b100110,
   0b010110, 0b110110, 0b001110, 0b101110, 0b011110, 0b101011]
def code3b4b : List (BitVec 4) := [0b1011, 0b1001, 0b0101, 0b1100, 0b1101, 0b1010, 0b0110, 0b1110]

/-- Ones of a bit vector. -/
def onesOf {n : Nat} (w : BitVec n) : Nat := ((List.range n).filter w.getLsbD).length

/-- The running disparity (true: +1) after a part of a character. -/
def disparity {n : Nat} (rd : Bool) (w : BitVec n) : Bool := if 2 * onesOf w = n then rd else decide (n < 2 * onesOf w)

/-- A part of a character at a running disparity: the complement at +1 where the part is not balanced, or is D.7 or D.x.3. -/
def partAt {n : Nat} (rd : Bool) (twin : Bool) (w : BitVec n) : BitVec n := if rd && (2 * onesOf w != n || twin) then ~~~w else w

/-- The four-bit part after a running disparity; D.x.7 has a second form that keeps runs short. -/
def fourBits (rd : Bool) (x y : Nat) : BitVec 4 :=
  let alt := y == 7 && (if rd then [11, 13, 14].contains x else [17, 18, 20].contains x)
  partAt rd (y == 3) (if alt then 0b0111 else code3b4b.getD y 0)

/-- A character in ten bits, a first, and the running disparity after it (R308, R311). -/
def encode8b10b (rd : Bool) : Char8 → BitVec 10 × Bool
  | .comma => (if rd then 0b1100000101 else 0b0011111010, !rd)
  | .data b =>
    let x := b.toNat % 32
    let six := partAt rd (x == 7) (code5b6b.getD x 0)
    let rd1 := disparity rd six
    let four := fourBits rd1 x (b.toNat / 32)
    (six ++ four, disparity rd1 four)

/-- Characters one after another. -/
def encodeChars (rd : Bool) (cs : List Char8) : List (BitVec 10) × Bool :=
  cs.foldl (fun a c => let e := encode8b10b a.2 c; (a.1 ++ [e.1], e.2)) ([], rd)

end Sys2Proof.Machine
end

