-- ==== Sys2Proof/Safety.lean ====
section
/-! DEFINITION. The terms that claims use: what a sound state of the block is, when a Sceuf command is accepted, and what
its OK response leaves. -/

namespace Sys2Proof.Machine

/-- Every byte memory is in canonical form. -/
def memoriesWf (s : State) : Bool :=
  Mem.wf s.hbm.mem && Mem.wf s.comp.ls && Mem.wf s.comp.cs && Mem.wf s.host.bar2 && Mem.wf s.host.msixTable &&
    Mem.wf s.sec.flash0 && Mem.wf s.sec.flash1 && Mem.wf s.sceuf.sram

/-- SAFETY is set only with DET_STRICT (13 R369). -/
def safetyNeedsDet (s : State) : Bool := !s.dev.safety || s.dev.detStrict

/-- Unlocked debug scopes have an end (15 R440, R441). -/
def scopesHaveEnd (s : State) : Bool := s.sec.scopes == 0 || s.sec.scopeEnd.isSome

/-- ALERT_N is asserted, low, exactly while REPLACE_REQUEST is set (13 R391). -/
def alertFollows (s : State) : Bool := s.dev.alertN == !s.dev.replaceRequest

/-- Request r of command c is the one that firmware runs next for a mailbox or port, and it passes every check of 12 R357:
it repeats no TAG that has been answered (R350), no lock-out stands (15 R440), the session and its version, the family's transport,
LENGTH, the arguments, authorisation, and the device state. -/
def accepted (c : Cmd) (src : ReqSrc) (s : State) (r : Req) : Bool :=
  let u := takeReq s r
  frontReq c.code src s == some r && (repeated s r).isNone && !c.locked u && (sessionCheck u r).isNone &&
    !(byFabric r && !fabricCarries c.code) && !s.dev.recovery &&
    decide (reqLen r.w1 ≤ c.full r) && decide (reqLen r.w1 ≤ 4032) && (c.form u r).isNone && c.auth u r &&
    (c.states u r).testBit s.dev.mode.code

/-- A request as it is accepted: with the swarm time and the PCLK cycle of that (12 R347). -/
def stamped (s : State) (r : Req) : Req := { r with at_ := nowNs s, cycle := s.clk.ticks / 8 }

/-- The CMAP tables of the groups lie in HBM, which has no error (09 Table 9.5; 11 R312, R316, R325). -/
def tablesClean (s : State) : Prop :=
  s.hbm.errs = [] ∧ s.hbm.selErrs = [] ∧ s.hbm.lenErrs = [] ∧
    ∀ e ∈ s.coll.groups, flag e.2 0 = true → flag e.2 3 = true → fld e.2 192 64 + 2112 ≤ hbmBytes s

/-- The response of an OK command: status 0, DETAIL 0 and its words (12 R346). -/
def okReply (s : State) (r : Req) (resp : List Word) : State := respond s r 0 0 resp

/-- The request that host mailbox n holds. -/
def hostRequest (s : State) (n : Fin 64) : Req := reqOf (.host n) 0 (memWords s.host.bar2 (4096 * n.val) 512)

/-- A set is taken on its port (10 R309, R310): AUX is on, the sideband is up, CHK holds, and no repeat of it came within 1 µs. -/
def setFresh (s : State) (code : Byte) (zero : BitVec 40) (rx : SetRx) : Prop :=
  auxOn s = true ∧ (portOf s rx.port.val).sb = true ∧ setOk code zero rx = true ∧ isRepeat s code rx = false

/-- What holds BOOT besides PWR_EN and the toggle that a failed boot needs (14 R409, R410, R425): AUX is not reached or is
recovery, MAIN_54V is out of range, or a leak. -/
def bootHeld (s : State) : Bool :=
  !(s.dev.mode == .aux && decide (3 ≤ s.dev.bootStage.toNat) && s.dev.main54Good && !s.dev.recovery && s.dev.leakN && !s.dev.leakHold)

/-- Every throttle level is one of 0 to 12 (14 R420). -/
def levelsWithin (s : State) : Bool :=
  decide (s.power.levelCap ≤ 12) && decide (s.power.levelCur ≤ 12) && decide (s.power.levelTherm ≤ 12)

/-- The receiver of port p is in use and the module's clocks run, so that frames come in (10 R303, 14 R415). -/
def linkTakes (s : State) (p : Nat) : Prop :=
  clocksRun s = true ∧ s.dev.frozenPin = false ∧ ((portOf s p).rx = .up ∨ (portOf s p).rx = .narrow)

/-- A frame with its EPOCH bit as the module's source epoch (08 R249, R270). -/
def epochStamped (s : State) (f : Frame) : Frame := { f with w0 := setFlag f.w0 11 s.fab.srcEpoch }

/-- An output takes a frame of a queue (07 R217, R228, R238, R460, R386): its key map has the key, it is not fenced or in SAFE but for
TC7, it is not a port that is down or the queue of a stream unit that has failed (06 R195), and the queue memory has an entry. -/
def queueTakes (s : State) (o : Nat) (f : Frame) : Prop :=
  (80 < o ∨ keyOutBit s o (frmPkey f) = true) ∧ (80 < o ∨ frmCls f = 7 ∨ (fenceBit s o = false ∧ s.dev.mode ≠ .safe)) ∧
    (64 ≤ o ∨ (portOf s o).tx ≠ .down) ∧ unitDown s o = false ∧ entriesUsed s < 1048576

/-- Frame f of operation `op` waits for its target on this module, and the clocks run (08 Table 8.2). -/
def atTarget (s : State) (f : Frame) (op : Nat) : Prop := clocksRun s = true ∧ frmOp f = op ∧ f ∈ s.comb.localIn

/-- The state once the frame has been taken by its target. -/
def taken (s : State) (f : Frame) : State := { s with comb := { s.comb with localIn := s.comb.localIn.erase f } }

/-- Slot k of the bundle in issue at queen q has opcode `op` and is the next to be carried out, by the one core `key`: the state
past bundles that do nothing, and the issue (05 R131, R132, R147). -/
def slotOnCore (s : State) (q k op : Nat) (u : State) (i : Issue) (key : Nat) : Prop :=
  issueAt s q k op = some (u, i) ∧ bundleMask u i.launch q = [key]

/-- The core as it stood before the bundle in issue (05 R133). -/
def coreBefore (u : State) (q key : Nat) : Core := snapCore (snapOf u q) key

/-- The slot has been carried out: the queen goes on past the bundle when it was the last one (05 R147). -/
def slotEnds (u t : State) (i : Issue) (q k : Nat) : State := slotFinish t q k (snapOf u q) (bundleOf u i.launch q).1

/-- n bytes at a of a space that a core's streams reach: its local store, or its cluster's store (05 R124), as they stood before what a
forager wrote in the same cycle (04 R108). -/
def storeBytes (s : State) (key sp a n : Nat) : List Byte :=
  if sp = 0 then bankRead s s.comp.ls s.comp.foragerWords (key * 196608 + a) n
  else bankRead s s.comp.cs s.comp.csWords (clusterOf key * 4194304 + a) n

/-- The tile that stands at an address of a space: its header and its bytes (03 R74, R76). -/
def tileHead (s : State) (key sp a : Nat) : Word := BitVec.ofNat 64 (natOfBytes (storeBytes s key sp a 8))
def tileBody (s : State) (key sp a : Nat) : List Byte := storeBytes s key sp a (max 8 (tileLen (tileHead s key sp a)))

/-- A tile and its header lie within their space. -/
def tileFits (s : State) (key sp a : Nat) : Prop :=
  inSpace sp a 8 = true ∧ inSpace sp a (max 8 (tileLen (tileHead s key sp a))) = true

/-- The 32 value codes of b bytes that an element holds. -/
def codesAt (s : State) (key sp b a : Nat) : List Nat :=
  let bs := storeBytes s key sp a (32 * b)
  (List.range 32).map fun k => natOfBytes ((bs.drop (k * b)).take b)

/-- The descriptor that a P register names in the cluster store (05 R138). -/
def descAt (s : State) (key a : Nat) : TDesc := tdescOf (wordsOfBytes (storeBytes s key 1 a 40) 5)

/-- The entry after a partial has been folded into it as the entries hold it. -/
def folded (e : FoldE) (bf : Bool) (sc : Option Int) (ps : List (Val × Val × Nat)) : FoldE :=
  foldOf (foldWord (foldPartial e bf (sc.getD 0) (rowPartial bf sc.isNone ps).1).1)

/-- The residue check after that fold holds, or the fold sets NAN_SEEN in place of adding (04 R118). -/
def foldHolds (e : FoldE) (bf : Bool) (sc : Option Int) (ps : List (Val × Val × Nat)) : Prop :=
  let r := foldPartial e bf (sc.getD 0) (rowPartial bf sc.isNone ps).1
  r.2 ≠ 0 ∨ residueOk r.1 = true

/-- The entry after a stored position has met a batch: one fold for every 32 items (04 R98). -/
def foldedBatch (e : FoldE) (bf : Bool) (sc : Option Int) (groups : List (List (Val × Val))) : FoldE :=
  groups.zipIdx.foldl (fun e g => folded e bf sc (batchPairs g.1 g.2)) e

/-- The rows of lane-wise arithmetic with their opcodes and operations (05 Table 5.9). -/
def arithRows (q : Fin 32) : List (Instr × Nat × (Ty → Rm → Nat → Nat → Nat → Fr)) := [
  (.vadd q, 0x01, fun t rm a b _ => fAdd t rm a b), (.vsub q, 0x02, fun t rm a b _ => fSub t rm a b),
  (.vmul q, 0x03, fun t rm a b _ => fMul t rm a b), (.vfma q, 0x04, fun t rm a b c => fFma t rm a b c),
  (.vdiv q, 0x05, fun t rm a b _ => fDiv t rm a b), (.vsqrt q, 0x06, fun t rm a _ _ => fSqrt t rm a),
  (.vmax q, 0x07, fun t _ a b _ => fMaxMin t true a b), (.vmin q, 0x08, fun t _ a b _ => fMaxMin t false a b),
  (.vmaxn q, 0x09, fun t _ a b _ => fMaxMinNum t true a b), (.vminn q, 0x0A, fun t _ a b _ => fMaxMinNum t false a b)]

/-- The rows that every masked core carries out, with their slot, opcode and effect on one core (05 Tables 5.7 to 5.10). -/
def coreRows (q : Fin 32) : List (Instr × Nat × Nat × SlotFn) :=
  (arithRows q).map (fun r => (r.1, 3, r.2.1, arithCore r.2.2)) ++ [
  (.vld q, 1, 1, vldCore), (.vst q, 1, 2, vstCore), (.cld q, 1, 3, cldCore), (.emv q, 2, 1, emvCore), (.eop q, 2, 2, eopCore),
  (.vcmp q, 3, 0x0B, vcmpCore), (.vsel q, 3, 0x0C, vselCore), (.vfunc q, 3, 0x0D, vfuncCore), (.vcvt q, 3, 0x0E, vcvtCore),
  (.vred q, 3, 0x0F, vredCore), (.vmisc q, 3, 0x10, vmiscCore), (.sld q, 4, 1, sldCore), (.advance q, 4, 2, advanceCore),
  (.fclr q, 4, 3, fclrCore), (.frd q, 4, 4, frdCore), (.fexp q, 4, 5, fexpCore), (.fadd q, 4, 6, faddCore),
  (.tenc q, 4, 7, tencCore), (.cxset q, 4, 8, cxsetCore), (.cxadv q, 4, 9, cxadvCore)]

/-- The rows of the device ordered sets with their codes and the bits that Table 10.7 leaves at 0 (10 R309). -/
def setRows (rx : SetRx) : List (Instr × Byte × BitVec 40) := [
  (.poison rx, codePoison, 0xF000), (.fence rx, codeFence, 0xFE00000000), (.beacon rx, codeBeacon, 0),
  (.freezeOrderedSet rx, codeFreeze, 0), (.thawOrderedSet rx, codeThaw, 0), (.time rx, codeTime, 0)]

/-- Port p is down in both directions with its settings and its P0 headroom given up, and the other ports stand as they were (10 R303),
but for BEACONs that a safe-state entry sends, where the frames that the port held meet a bad metadata word (07 R216, 13 R386). -/
def portFell (s t : State) (p : Nat) (fault : Option PFault) : Prop :=
  let x := portOf t p
  x.tx = .down ∧ x.rx = .down ∧ x.mfp = 0 ∧ x.linkDelay = 0 ∧ x.txLanes = List.replicate 9 .off ∧ x.rxLanes = List.replicate 9 .off ∧
    x.sentAccept = none ∧ x.recvAccept = none ∧ x.linkUp = none ∧ fld x.nbW1 40 8 = 0 ∧ x.sb = true ∧ x.fault = fault ∧
    (∀ k, k ≠ p → portOf t k = { portOf s k with beaconSeq := (portOf t k).beaconSeq, beaconTx := (portOf t k).beaconTx }) ∧
    (s.comb.metaErrs = [] → s.hbm.selErrs = [] → s.hbm.lenErrs = [] → ∀ k, k ≠ p → portOf t k = portOf s k) ∧
    (∀ e ∈ t.comb.queues, e.1 / 8 % 113 ≠ p) ∧ (∀ e ∈ t.comb.circuitQ, e.1 % 113 ≠ p)

/-- Port p has come up with a LINK_DELAY and its headroom (08 R256, R263), and its fault is over. -/
def portRose (s t : State) (p delay : Nat) : Prop :=
  let x := portOf t p
  x.tx = .up ∧ x.rx = .up ∧ x.linkDelay = delay ∧ x.fault = none ∧ x.linkUp = (portOf s p).linkUp ∧
    tblGet 0 t.comb.hdrmSize p = headroom p (portOf s p).mfp (portOf s p).flc ∧ (∀ k, k ≠ p → portOf t k = portOf s k)

/-- What waits for the sidebands when a waggle frame is to leave port p (08 R267, 10 R310). -/
def waggled (s : State) (p : Nat) (w : BitVec 512) : List OutEvent := s.sbq ++ [.waggle p w]

end Sys2Proof.Machine
end

