-- ==== Sys2Proof/Certificates/Slice0/Obligations.lean ====
section
/-! DEFINITION. The statements: what the commands do, family by family, and what every step keeps. -/

open Sys2Proof Sys2Proof.Machine

/-- One step takes the command at the front of the queue and runs it on the state with the queue's rest; with an empty queue one
root cycle passes (assumption 1: the model's choice for an idle block). -/
def Obligations.StepRunsFront : Prop :=
  (∀ (c : Instr) (s : State) (rest : List Instr), step { s with pending := c :: rest } = exec c { s with pending := rest }) ∧
  ∀ s : State, s.pending = [] → step s = .next (tick s)

/-- Reset (12 Table 12.3, 14 R401, R409): AUX, boot stage 0, no membership, DET_STRICT, SAFETY, TEST_MODE and DEGRADED clear,
health 1,000, every mailbox IDLE, no session, no launch, both clocks at zero, an empty queue, and every memory canonical. -/
def Obligations.ResetState : Prop :=
  let s := State.reset
  s.pending = [] ∧ s.dev.mode = .aux ∧ s.dev.bootStage = 0 ∧ s.dev.bootFail = 0 ∧ s.dev.eid = 0 ∧ s.dev.epoch = 0 ∧
  s.dev.degraded = false ∧ s.dev.replaceRequest = false ∧ s.dev.testMode = false ∧ s.dev.detStrict = false ∧ s.dev.safety = false ∧
  s.dev.keepInService = false ∧ s.health.score = 1000 ∧ (∀ n, n < 64 → mboxStatus s n = 0x8000) ∧ s.sceuf.sessions = [] ∧
  s.job.launch = none ∧ s.clk.t48 = 0 ∧ s.clk.logic = 0 ∧ s.clk.ticks = 0 ∧ s.sec.scopes = 0 ∧ s.host.win = 0 ∧ memoriesWf s = true ∧ safetyNeedsDet s = true ∧
  scopesHaveEnd s = true ∧ alertFollows s = true

/-- Every command completes, from every state (the block has no fault and refuses nothing), and none touches the queue of the
commands that wait behind it. -/
def Obligations.CommandsComplete : Prop :=
  ∀ (c : Instr) (s : State), ∃ t, exec c s = .next t ∧ t.pending = s.pending

/-- 15 R431: fuse bits only go from 0 to 1. Whatever step runs, every SVN bit and revocation fuse that is set stays set, and the
key hashes, the serial number and the grade stay as they are. -/
def Obligations.FusesOnlyBurn : Prop :=
  ∀ s t : State, step s = .next t →
    (∀ i, s.sec.svn.getLsbD i = true → t.sec.svn.getLsbD i = true) ∧
    (s.sec.revoked0 = true → t.sec.revoked0 = true) ∧ (s.sec.revoked1 = true → t.sec.revoked1 = true) ∧
    t.sec.keyHash0 = s.sec.keyHash0 ∧ t.sec.keyHash1 = s.sec.keyHash1 ∧ t.sec.debugKeyHash = s.sec.debugKeyHash ∧
    t.ident.serial = s.ident.serial ∧ t.ident.grade = s.ident.grade

/-- 13 R369, R391; 15 R440, R441: SAFETY is set only with DET_STRICT, debug scopes that are unlocked have an end, and ALERT_N is
low exactly while REPLACE_REQUEST is set, in every state that a step reaches from one where it is so. -/
def Obligations.StateBitsAgree : Prop :=
  (∀ s t : State, safetyNeedsDet s = true → step s = .next t → safetyNeedsDet t = true) ∧
  (∀ s t : State, scopesHaveEnd s = true → step s = .next t → scopesHaveEnd t = true) ∧
  (∀ s t : State, alertFollows s = true → step s = .next t → alertFollows t = true)

/-- Every byte memory keeps its canonical form (HBM, local and cluster stores, mailboxes, the MSI-X table, flash). -/
def Obligations.MemoriesStayCanonical : Prop :=
  ∀ s t : State, memoriesWf s = true → step s = .next t → memoriesWf t = true

/-- 12 R345, R350, R357; 15 R440: the checks of a Sceuf command come in their order, and a command that fails one leaves no effect but
its response: the session and its version, the transport's families, a lock-out, LENGTH, the arguments, authorisation, the device
state. A fabric or management request that repeats a TAG which has been answered gets that answer again, and does not run. -/
def Obligations.SceufRefusal : Prop :=
  ∀ (c : Cmd) (src : ReqSrc) (s : State) (r : Req), frontReq c.code src s = some r →
    let u := takeReq s r
    let shut := byFabric r && !fabricCarries c.code || s.dev.recovery && !recoveryServes c.code || c.locked u
    let long := decide (c.full r < reqLen r.w1 || 4032 < reqLen r.w1)
    (∀ m, repeated s r = some m → runCmd c src s = sendMsg u r.src r.peer m) ∧ (repeated s r = none →
    (∀ st d, sessionCheck u r = some (st, d) → runCmd c src s = respond u r st.code d []) ∧
    (sessionCheck u r = none → shut = true → ∃ n, runCmd c src s = respond { u with sec := { u.sec with nonce := n } } r Status.denied.code 0 [] ∧
      (c.locked u = false → n = u.sec.nonce)) ∧
    (sessionCheck u r = none → shut = false → long = true → runCmd c src s = respond u r Status.badArg.code 10 []) ∧
    (∀ off, sessionCheck u r = none → shut = false → long = false → c.form u r = some off →
      runCmd c src s = respond u r Status.badArg.code off []) ∧
    (sessionCheck u r = none → shut = false → long = false → c.form u r = none → c.auth u r = false →
      runCmd c src s = respond u r Status.denied.code 0 []) ∧
    (sessionCheck u r = none → shut = false → long = false → c.form u r = none → c.auth u r = true → s.dev.recovery = false →
      (c.states u r).testBit s.dev.mode.code = false →
      runCmd c src s =
        if s.dev.mode = .fenced ∧ ((c.states u r).testBit 4 = true ∨ (c.states u r).testBit 5 = true) then
          respond u r Status.fenced.code 0xFF []
        else respond u r Status.stateConflict.code (c.states u r) []))

/-- 12 R346 to R350: where a response goes. A host mailbox holds its header and words and zeros behind them, the other mailboxes
are untouched, and IRQ signals the mailbox's vector; a fabric mailbox's answer is an MBOX frame with RESP set to the
requester, the management port's a datagram. -/
def Obligations.SceufResponse : Prop :=
  ∀ (s : State) (r : Req) (st d : Nat) (resp : List Word),
    (∀ n : Fin 64, r.src = .host n → Mem.wf s.host.bar2 = true → resp.length ≤ 504 →
      let t := respond s r st d resp
      let bytes := bytesOfWords (respHeader s r st d (8 * resp.length) ++ resp)
      (∀ i, (h : i < bytes.length) → memByte t.host.bar2 (4096 * n.val + i) = bytes[i]) ∧
      (∀ i, bytes.length ≤ i → i < 4096 → memByte t.host.bar2 (4096 * n.val + i) = 0) ∧
      (∀ a, a < 4096 * n.val ∨ 4096 * n.val + 4096 ≤ a → memByte t.host.bar2 a = memByte s.host.bar2 a) ∧
      t.out = (if flag r.w1 0 && s.host.busMaster then s.out ++ [.msix n.val] else s.out)) ∧
    (∀ n : Fin 16, r.src = .fabric n → (respond s r st d resp).host = s.host ∧
      ∃ f, (respond s r st d resp).comb.orig = s.comb.orig ++ [{ input := 113, owner := 1000, frame := f, who := 65 }] ∧
        frmOp f = 7 ∧ frmDest f = r.peer.toNat % 65536 ∧ flag (arg (wordsOfBytes f.payload 2) 1) 1 = true) ∧
    (r.src = .mgmt → (respond s r st d resp).host = s.host ∧
      (respond s r st d resp).out =
        s.out ++ [.datagram r.peer 49320 (respHeader s r st d (8 * resp.length) ++ resp)])

/-- Sessions, test mode and membership (12 R341, R342, R349, R352, R354, R355, R358; 08 R236, R237; 13 R369): OPEN_SESSION takes
the highest common major version and renumbers the clusters in READY with no program loaded; CLOSE_SESSION ends the session
with its kept responses; GET_IDENTITY and GET_STATE answer their words; SET_TEST_MODE sets TEST_MODE, extending the debug
history when it was clear, or clears it and unloads every PHYS image; FORWARD sends its inner request and waits; SET_EID
assigns the EID; JOIN takes membership in READY with its epoch, DET_STRICT and SAFETY, and in JOINED only raises the epoch;
LEAVE returns to READY; WRITE_RANKMAP writes rank-map entries and key windows, unless they belong to the key of a step in
progress. -/
def Obligations.SessionCommands : Prop :=
  (∀ (src : ReqSrc) (s : State) (r : Req), let u := takeReq s r
    (∀ m : Nat, accepted openSessionCmd src s r = true → 1 ≤ m → m ≤ 3 → rn r 0 ≤ m → m ≤ rn r 1 →
      (∀ m', m < m' → m' ≤ 3 → rn r 1 < m') → s.sceuf.sessions.length < 16 →
      let x : Session := { id := BitVec.ofNat 32 (freshSession s), kind := srcKind r.src, peer := r.peer, major := m }
      let v := { u with sceuf := { u.sceuf with sessions := u.sceuf.sessions ++ [x], nextSession := freshSession s + 1 } }
      let w := if s.dev.mode = .ready ∧ s.comp.slots = [] then showClusters (renumber v) else v
      exec (.openSession src) s = .next (okReply w r
        ([BitVec.ofNat 64 (freshSession s), BitVec.ofNat 64 m, BitVec.ofNat 64 (minorOf m)] ++ identityWords w))) ∧
    (accepted closeSessionCmd src s r = true →
      exec (.closeSession src) s = .next (okReply { u with sceuf := { u.sceuf with
        sessions := u.sceuf.sessions.filter fun x => x.id != reqSession r
        kept := u.sceuf.kept.filter fun k => k.1 != reqSession r } } r [])) ∧
    (accepted getIdentityCmd src s r = true → exec (.getIdentity src) s = .next (okReply u r (identityWords s))) ∧
    (accepted getStateCmd src s r = true → exec (.getState src) s = .next (okReply u r (stateWords s ++ [s.host.tokenRptr, s.host.cmplRptr, s.host.win]))) ∧
    (accepted setTestModeCmd src s r = true →
      exec (.setTestMode src) s = .next (okReply
        (if rn r 0 = 1 then { u with
          dev := { u.dev with testMode := true }
          sec := { u.sec with m5 := if s.dev.testMode then u.sec.m5
            else Config.sha384 (bytesOfNat u.sec.m5.toNat 48 ++ [1]) } }
        else { u with
          dev := { u.dev with testMode := false }
          comp := { u.comp with slots := u.comp.slots.filter fun e => match e.2 with
            | some x => !x.phys
            | none => false } }) r [])) ∧
    (accepted forwardCmd src s r = true →
      exec (.forward src) s = .next { u with
        comb := { u.comb with orig := u.comb.orig ++ [{ input := 113, owner := 1000, who := 65
                                                        frame := mkFrame 7 0 (if flag (rw r 0) 16 then 3 else 0) 7 (rn r 0 % 65536)
                                                          s.dev.eid.toNat 0 0 0 false (rw r 1) (bytesOfWords (innerWords r)) }] }
        sceuf := { u.sceuf with forward := some { req := r, target := rn r 0 % 65536, viaPort := flag (rw r 0) 16
                                                  mailbox := rn r 1, sentAt := nowNs s } } })) ∧
  (∀ (src : ReqSrc) (s : State) (r : Req), let u := takeReq s r
    (accepted setEidCmd src s r = true →
      exec (.setEid src) s = .next (okReply { u with dev := { u.dev with eid := BitVec.ofNat 16 (rn r 0) } } r [])) ∧
    (accepted joinCmd src s r = true → s.dev.mode = .ready →
      exec (.join src) s = .next (okReply (setMode { u with dev := { u.dev with
        epoch := BitVec.ofNat 32 (rn r 0), detStrict := rn r 1 == 1, safety := rn r 2 == 1 } } .joined) r [])) ∧
    (accepted joinCmd src s r = true → s.dev.mode = .joined → s.dev.epoch.toNat < rn r 0 → (rn r 1 == 1) = s.dev.detStrict →
      (rn r 2 == 1) = s.dev.safety →
      exec (.join src) s = .next (okReply { u with dev := { u.dev with epoch := BitVec.ofNat 32 (rn r 0) } } r [])) ∧
    (accepted joinCmd src s r = true → s.dev.mode ≠ .ready → rn r 0 ≤ s.dev.epoch.toNat →
      exec (.join src) s = .next (respond u r Status.badArg.code 0 [])) ∧
    (accepted leaveCmd src s r = true → exec (.leave src) s = .next (okReply (setMode u .ready) r [])) ∧
    (accepted writeRankmapCmd src s r = true → ranksBusy s r = false →
      exec (.writeRankmap src) s = .next (okReply { u with fab := { u.fab with
        rankmap := tblSetAll 0 u.fab.rankmap (rn r 0) ((rws r 2 (rn r 1)).map fun w => BitVec.ofNat 32 w.toNat)
        windows := (keyPairs r).foldl (fun t k => tblSet 0 t k.1 k.2) u.fab.windows } } r [])) ∧
    (accepted writeRankmapCmd src s r = true → ranksBusy s r = true →
      exec (.writeRankmap src) s = .next (respond u r Status.stateConflict.code 0 [])))

/-- Route banks (08 R248 to R250): only an INACTIVE bank is written; ARM takes an INACTIVE bank, with Ts at least 10 µs ahead, when
no bank is ARMED or DRAINING; CANCEL_ARM returns it before Ts, and SWAP_TIME to Ts of the last swap; at Ts the ARMED bank becomes ACTIVE, the ACTIVE one DRAINING
and frames of this module carry the new EPOCH; 64 µs later the DRAINING bank is INACTIVE. -/
def Obligations.RouteBanks : Prop :=
  (∀ (src : ReqSrc) (s : State) (r : Req), let u := takeReq s r
    let b := rn r 0 == 1
    (accepted writeRoutesCmd src s r = true → bankOf s b = .inactive →
      let d : BitVec 32 := BitVec.ofNat 32 (127 + 127 * 128 + 65536)
      let es := (rws r 3 (rn r 2)).map fun w => BitVec.ofNat 32 w.toNat
      exec (.writeRoutes src) s = .next (okReply { u with fab := { u.fab with
        route0 := if b then u.fab.route0 else tblSetAll d u.fab.route0 (rn r 1) es
        route1 := if b then tblSetAll d u.fab.route1 (rn r 1) es else u.fab.route1 } } r [])) ∧
    (accepted writeMcastCmd src s r = true → bankOf s b = .inactive →
      let es := (List.range (rn r 2)).map fun i => ofWords 128 (rws r (3 + 2 * i) 2)
      exec (.writeMcast src) s = .next (okReply { u with fab := { u.fab with
        mcast0 := if b then u.fab.mcast0 else tblSetAll 0 u.fab.mcast0 (rn r 1) es
        mcast1 := if b then tblSetAll 0 u.fab.mcast1 (rn r 1) es else u.fab.mcast1 } } r [])) ∧
    (accepted writeRoutesCmd src s r = true → bankOf s b ≠ .inactive →
      exec (.writeRoutes src) s = .next (respond u r Status.stateConflict.code 0 [])) ∧
    (accepted writeMcastCmd src s r = true → bankOf s b ≠ .inactive →
      exec (.writeMcast src) s = .next (respond u r Status.stateConflict.code 0 [])) ∧
    (accepted armEpochCmd src s r = true → bankOf s b = .inactive →
      (∀ x, bankOf s x ≠ .armed ∧ bankOf s x ≠ .draining) →
      exec (.armEpoch src) s = .next (okReply { u with fab := { u.fab with
        bank0 := if b then u.fab.bank0 else .armed, bank1 := if b then .armed else u.fab.bank1, swapTime := rw r 1 } } r [])) ∧
    (accepted cancelArmCmd src s r = true → bankOf s b = .armed → nowNs s < s.fab.swapTime.toNat →
      exec (.cancelArm src) s = .next (okReply { u with fab := { u.fab with
        bank0 := if b then u.fab.bank0 else .inactive, bank1 := if b then .inactive else u.fab.bank1
        swapTime := s.fab.lastSwap } } r [])) ∧
    (accepted cancelArmCmd src s r = true → bankOf s b ≠ .armed ∨ s.fab.swapTime.toNat ≤ nowNs s →
      exec (.cancelArm src) s = .next (respond u r Status.stateConflict.code 0 []))) ∧
  ∀ s : State,
    (∀ b, clocksRun s = true → bankOf s b = .armed → bankOf s (!b) = .active → s.fab.swapTime.toNat ≤ nowNs s →
      ∃ t, exec .epochSwap s = .next t ∧ bankOf t b = .active ∧ bankOf t (!b) = .draining ∧ t.fab.srcEpoch = b ∧
        t.fab.lastSwap = s.fab.swapTime ∧ t = { s with fab := t.fab } ∧ t.fab.route0 = s.fab.route0 ∧ t.fab.route1 = s.fab.route1) ∧
    (∀ b, clocksRun s = true → bankOf s b = .draining → s.fab.swapTime.toNat + 64000 ≤ nowNs s →
      ∃ t, exec .epochDrainEnd s = .next t ∧ bankOf t b = .inactive ∧ bankOf t (!b) = (if bankOf s (!b) = .draining then
        .inactive else bankOf s (!b)) ∧ t = { s with fab := t.fab })

/-- Circuits (08 R254, R255; 07 R219): SETUP_CIRCUIT writes the entry with VALID and the shadow calendars, and is refused on a
fenced output, a circuit in use, or slots that do not fit; TEARDOWN_CIRCUIT frees the slots; at CALENDAR_WRAP the shadow comes
into force, and the circuits torn down lose VALID and their frames. -/
def Obligations.CircuitCommands : Prop :=
  (∀ (src : ReqSrc) (s : State) (r : Req), let u := takeReq s r
    let outs := setupPorts r
    (accepted setupCircuitCmd src s r = true → outs.find? (fenceBit s) = none → circuitValid s (rn r 0) = false →
      slotsFit s (calendarSlots r) = true →
      exec (.setupCircuit src) s = .next (okReply { u with fab := { u.fab with
        circuits := tblSet 0 s.fab.circuits (rn r 0) (setFlag (ofWords 192 (rws r 1 3)) 7 true)
        calShadow := (calendarSlots r).foldl (fun t x => tblSet 0 t (x.1 * 1024 + x.2) (BitVec.ofNat 16 (rn r 0 + 4096)))
          s.fab.calShadow } } r [])) ∧
    (∀ o, accepted setupCircuitCmd src s r = true → outs.find? (fenceBit s) = some o →
      exec (.setupCircuit src) s = .next (respond u r Status.fenced.code o [])) ∧
    (accepted setupCircuitCmd src s r = true → outs.find? (fenceBit s) = none → circuitValid s (rn r 0) = true →
      exec (.setupCircuit src) s = .next (respond u r Status.stateConflict.code 0 [])) ∧
    (accepted setupCircuitCmd src s r = true → outs.find? (fenceBit s) = none → circuitValid s (rn r 0) = false →
      slotsFit s (calendarSlots r) = false →
      exec (.setupCircuit src) s = .next (respond u r Status.noResource.code 0 [])) ∧
    (accepted teardownCircuitCmd src s r = true →
      exec (.teardownCircuit src) s = .next (okReply { u with fab := { u.fab with
        calShadow := s.fab.calShadow.filter fun e => !(flag e.2 12 && fld e.2 0 12 == rn r 0)
        teardown := if s.fab.teardown.contains (rn r 0) then s.fab.teardown else s.fab.teardown ++ [rn r 0] } } r []))) ∧
  ∀ s : State, clocksRun s = true → s.comb.wrapAt < scNow s / 1024 →
    let t := { s with
      fab := { s.fab with calCur := s.fab.calShadow, teardown := [] }
      comb := { s.comb with wrapAt := scNow s / 1024 } }
    exec .calendarWrap s = .next (s.fab.teardown.foldl circuitGone t) ∧
    ((∀ e ∈ s.comb.circuitQ, e.1 / 113 ∉ s.fab.teardown) →
      exec .calendarWrap s = .next { t with fab := { t.fab with
        circuits := s.fab.teardown.foldl (fun c id => tblMod 0 c id fun w => setFlag w 7 false) s.fab.circuits } })

/-- SET_KEYMAP (07 R228; 08 R238): the map written holds the bits of its 64 words, bit 0 reads 1, the other maps and the FENCE
bits of other ports stay, and on an external port whose FENCE is set or cleared the set goes to the sideband three times (assumption 65). -/
def Obligations.KeyMaps : Prop :=
  ∀ (src : ReqSrc) (s : State) (r : Req), accepted setKeymapCmd src s r = true →
    let p := rn r 0
    let on := rn r 66 == 1
    ∃ t, exec (.setKeymap src) s = .next (okReply t r []) ∧
      (∀ q k, k < 4096 → keyInBit t q k =
        if rn r 1 = 0 ∧ q = p then k == 0 || flag (rw r (2 + k / 64)) (k % 64) else keyInBit s q k) ∧
      (∀ q k, k < 4096 → keyOutBit t q k =
        if rn r 1 = 1 ∧ q = p then k == 0 || flag (rw r (2 + k / 64)) (k % 64) else keyOutBit s q k) ∧
      (∀ q, q ≠ p → fenceBit t q = fenceBit s q) ∧ t.fab.fence = tblSet false s.fab.fence p on ∧
      t.sbq = s.sbq ++ (if (on || fenceBit s p) && decide (p < 64) && (portOf s p).sb then
        List.replicate 3 (.ordered p codeFence (BitVec.ofNat 40 (s.dev.epoch.toNat + (if on then 2 ^ 32 else 0)))) else []) ∧
      t = { takeReq s r with
        sbq := t.sbq, fab := { s.fab with keyIn := t.fab.keyIn, keyOut := t.fab.keyOut, fence := t.fab.fence } }

/-- Settings of the switch core (07 R203, R210, R212, R226, R231, R234; 08 R246, R261; 12 R360; assumptions 55, 56, 57): SET_GUARD
writes the guard and the pause thresholds, keeps a guard's buckets but for the new bursts, and fills them when EN comes up;
SET_COMB writes MIN and MAX, POOL_WAIT and LIFETIME unless they are 0 (assumption 55), and is refused when the pool's MINs
would not fit; SET_MIRROR writes the rules and the ring; SET_PORT writes SPILL_TH and the MFP mask; READ_CONFIG answers the
entries from the first one on, packed and padded to whole words, and changes nothing. -/
def Obligations.SwitchSettings : Prop :=
  (∀ (src : ReqSrc) (s : State) (r : Req), let u := takeReq s r
    (accepted setGuardCmd src s r = true →
      let k := rn r 0 * 8 + rn r 1
      let w := guardWords r
      let old := tblGet 0 s.fab.guards k
      let b := refill old (tblGet {} s.fab.buckets k) (logicSc s)
      let full : Bucket := { committed := fld w 64 24 * 9600, peak := fld w 88 24 * 9600, at_ := logicSc s }
      let b' := if flag w 44 = false then {} else if flag old 44 = false then full
        else { full with committed := min b.committed full.committed, peak := min b.peak full.peak }
      exec (.setGuard src) s = .next (okReply (updatePause { u with fab := { u.fab with
        guards := tblSet 0 s.fab.guards k w
        buckets := tblSet {} s.fab.buckets k b'
        thresholds := tblSet 0x80001000#64 s.fab.thresholds k (rw r 5) } } (rn r 0)) r [])) ∧
    (accepted setCombCmd src s r = true →
      let w := BitVec.ofNat 40 (rn r 2 + rn r 3 * 2 ^ 20)
      let limit := if defaultLimit (rn r 0) (rn r 1) = (rn r 2, rn r 3) then none else some w
      let t := { u with
        comb := { u.comb with limits := tblSet none s.comb.limits (rn r 0 * 4 + rn r 1) limit }
        fab := { u.fab with
          poolWait := if rn r 4 = 0 then s.fab.poolWait else tblSet 20 s.fab.poolWait (rn r 1) (rn r 4)
          lifetime := if rn r 5 = 0 then s.fab.lifetime else rn r 5 } }
      exec (.setComb src) s = .next (if reservedTotal t (rn r 1) ≤ poolCount (rn r 1) then okReply t r []
        else respond u r Status.noResource.code 0 [])) ∧
    (accepted setMirrorCmd src s r = true →
      exec (.setMirror src) s = .next (okReply { u with fab := { u.fab with
        mirror := tblSetAll 0 s.fab.mirror 0 (rws r 0 16)
        mirrorCnt := s.fab.mirrorCnt.filter fun e => flag (tblGet 0 s.fab.mirror e.1) 42 && flag (rw r e.1) 42
        ringBase := rw r 16, ringSize := rn r 17, ringMode := rn r 18 == 1, ringRptr := rn r 20
        ringWptr := if rn r 16 = s.fab.ringBase.toNat ∧ rn r 17 = s.fab.ringSize then s.fab.ringWptr else 0
        mirrorRun := if rn r 16 = s.fab.ringBase.toNat ∧ rn r 17 = s.fab.ringSize then s.fab.mirrorRun else [] } } r [])) ∧
    (accepted setPortCmd src s r = true →
      exec (.setPort src) s = .next (okReply { u with fab := { u.fab with
        portCfg := tblSet 0x80007#32 s.fab.portCfg (rn r 0) (BitVec.ofNat 32 (rn r 1 + rn r 2 * 256)) } } r []))) ∧
  (∀ (src : ReqSrc) (s : State) (r : Req), accepted readConfigCmd src s r = true →
    ∃ ws : List Word, exec (.readConfig src) s = .next (okReply (takeReq s r) r ws) ∧
      let bs := (List.range (rn r 2)).flatMap fun i => cfgEntry s (rn r 0) (rn r 1 + i)
      ws.length = (bs.length + 7) / 8 ∧ (bytesOfWords ws).take bs.length = bs ∧
      (bytesOfWords ws).drop bs.length = List.replicate (8 * ws.length - bs.length) 0)

/-- Groups and contexts (09 R275, R276, R286; 06 R160, R169; 07 R211): arming a group writes its entry, arms each of its contexts
without auxiliary data and chooses its algorithm; a context armed by command takes a P1 buffer and a copy of its AUX data, none
when it has none; disarming clears them; a step of the key that is in progress, or an id in use, refuses arming and disarming; a
disarmed context with no chunk and no granted buffer leaves the table, its buffer, of which it is the one reader, is returned and
its requests leave the pools' lines. -/
def Obligations.GroupsAndContexts : Prop :=
  (∀ (src : ReqSrc) (s : State) (r : Req), let u := takeReq s r
    let g := rn r 0
    let w : BitVec 320 := ofWords 320 (rws r 1 5)
    let arm := fun (t : Tbl (Option Ctx)) (id : Nat) =>
      tblSet none t id (some { word := groupCtxWord g w id, pkey := gpKey w, group := some g, auxBuf := none, aux := [] })
    let armed := chooseAlgorithm false false true { u with
      coll := { u.coll with groups := tblSet 0 s.coll.groups g w }
      su := { u.su with ctxs := (groupIds g w).foldl arm s.su.ctxs } } (g, w)
    let x := ctxRecord r
    let c := ctxNumber r
    let one := fun (h : Option Nat) (bs : List Byte) => some { word := x, pkey := rn r 16, group := none, auxBuf := h, aux := bs : Ctx }
    (accepted armGroupCmd src s r = true → stepBlocks s (gpKey w) = false → (∀ id ∈ groupIds g w, ctxOf s id = none) →
      exec (.armGroup src) s = .next (if reservedPages armed ≤ 16 then okReply armed r [] else respond u r Status.noResource.code 0 [])) ∧
    (accepted armGroupCmd src s r = true → stepBlocks s (gpKey w) = true ∨ (∃ id ∈ groupIds g w, ctxOf s id ≠ none) →
      exec (.armGroup src) s = .next (respond u r Status.stateConflict.code 0 [])) ∧
    (accepted disarmGroupCmd src s r = true → stepBlocks s (gpKey (groupOf s g)) = false →
      ∃ t, t = (groupIds g (groupOf s g)).foldl disarmContext u ∧ exec (.disarmGroup src) s = .next (okReply { t with
        coll := { t.coll with
          groups := tblSet 0 t.coll.groups g 0
          ops := t.coll.ops.filter fun o => o.gid != g
          queue := t.coll.queue.filter fun q => irGid q != g
          flat := tblSet false t.coll.flat g false
          nextSeq := t.coll.nextSeq.filter fun e => e.1 / 4 != g
          results := t.coll.results.filter fun e => e.1 / 4 != g
          stepSeq := t.coll.stepSeq.filter fun e => e.1 / 4 != g } } r [])) ∧
    (accepted disarmGroupCmd src s r = true → stepBlocks s (gpKey (groupOf s g)) = true →
      exec (.disarmGroup src) s = .next (respond u r Status.stateConflict.code 0 [])) ∧
    (accepted armContextCmd src s r = true → ctxOf s c ≠ none ∨ stepBlocks s (rn r 16) = true →
      exec (.armContext src) s = .next (respond u r Status.stateConflict.code 0 [])) ∧
    (accepted armContextCmd src s r = true → ctxOf s c = none → stepBlocks s (rn r 16) = false → fld x 832 13 = 0 →
      exec (.armContext src) s = .next (okReply { u with su := { u.su with ctxs := tblSet none s.su.ctxs c (one none []) } } r [])) ∧
    (∀ h v bs v', accepted armContextCmd src s r = true → ctxOf s c = none → stepBlocks s (rn r 16) = false → fld x 832 13 ≠ 0 →
      s.comb.metaErrs = [] → metaBad s (fld x 768 64) (fld x 832 13) = false →
      takeBuf (metaFix u (fld x 768 64) (fld x 832 13)) (648 + s.su.map.getD (fld x 20 5 % max 1 s.su.map.length) 0) 1 = some (h, v) →
      (hbmCheck u (fld x 768 64) (fld x 832 13)).1 = none → hbmRead v (fld x 768 64) (fld x 832 13) = (some bs, v') →
      exec (.armContext src) s =
        .next (okReply { v' with su := { v'.su with ctxs := tblSet none v'.su.ctxs c (one (some h) bs) } } r [])) ∧
    (∀ y, accepted disarmContextCmd src s r = true → ctxOf s c = some y → y.group = none → stepBlocks s y.pkey = false →
      exec (.disarmContext src) s = .next (okReply (disarmContext u c) r [])) ∧
    (∀ y, accepted disarmContextCmd src s r = true → ctxOf s c = some y → y.group ≠ none ∨ stepBlocks s y.pkey = true →
      exec (.disarmContext src) s = .next (respond u r Status.stateConflict.code 0 []))) ∧
  (∀ (s : State) (c : Nat) (x : Ctx), ctxOf s c = some x → (∀ k ∈ s.su.chunks, k.ctx ≠ c) → (∀ g ∈ s.su.granted, g.1 ≠ c) →
    (∀ h, x.auxBuf = some h → s.comb.metaErrs = [] ∧ ∃ b, bufOf s h = some b ∧ b.ref = 1) →
    ∃ t v, t = (match x.auxBuf with
      | some h => freeBufHandle s h
      | none => s) ∧ t.su = s.su ∧ t.hbm = s.hbm ∧ t.job = s.job ∧ t.fab = s.fab ∧
      v = { t with
        su := { s.su with ctxs := tblSet none s.su.ctxs c none }
        comb := { t.comb with waiters := t.comb.waiters.filter fun w => match w.what with
          | .buffer k _ _ => k != c
          | .origin _ => true } } ∧
      disarmContext s c = settleFree v ∧ (s.su.leaves = [] → disarmContext s c = v))

/-- Programs and rings (05 R122, R152 to R154; 06 R164, R168; 12 R359, R365): an image that is refused loads nothing, with the
versions 3.0 to 3.1 or the address's offset in DETAIL; a good one fills its slot or number, whatever errors the memory corrects
as it is read (11 R316); the slot of a running launch is
not touched; SET_PARAMS schedules words for a step that has not begun; SET_RINGS places both rings, empty. -/
def Obligations.ProgramCommands : Prop :=
  (∀ (src : ReqSrc) (s : State) (r : Req), let u := takeReq s r
    let n := rn r 0
    let det := fun e : Status => match e with
      | .badVersion => 0x3130
      | .badArg => 8
      | _ => 0
    let v := coreReads u (rn r 1)
    let w := streamReads u (rn r 1)
    (∀ x, accepted loadCoreCmd src s r = true → slotRuns s n = false → coreImage u (rn r 1) = .ok x →
      exec (.loadCore src) s = .next (okReply { v with comp := { v.comp with slots := tblSet none v.comp.slots n (some x) } } r [])) ∧
    (∀ e, accepted loadCoreCmd src s r = true → slotRuns s n = false → coreImage u (rn r 1) = .error e →
      exec (.loadCore src) s = .next (respond v r e.code (det e) [])) ∧
    (s.hbm.errs = [] → s.hbm.selErrs = [] → s.hbm.lenErrs = [] → v = u ∧ w = u) ∧
    (accepted unloadCoreCmd src s r = true → slotRuns s n = false →
      exec (.unloadCore src) s = .next (okReply { u with comp := { u.comp with slots := tblSet none s.comp.slots n none } } r [])) ∧
    (slotRuns s n = true →
      (accepted loadCoreCmd src s r = true → exec (.loadCore src) s = .next (respond u r Status.stateConflict.code 0 [])) ∧
      (accepted unloadCoreCmd src s r = true → exec (.unloadCore src) s = .next (respond u r Status.stateConflict.code 0 []))) ∧
    (∀ code, accepted loadStreamCmd src s r = true → streamImage u n (rn r 1) = .ok code →
      exec (.loadStream src) s = .next (okReply { w with su := { w.su with
        programs := tblSet none w.su.programs n (some { code := code })
        errs := w.su.errs.filter fun e => e.2.1 != .program n } } r [])) ∧
    (∀ e, accepted loadStreamCmd src s r = true → streamImage u n (rn r 1) = .error e →
      exec (.loadStream src) s = .next (respond w r e.code (det e) [])) ∧
    (accepted setParamsCmd src s r = true → (∀ st, s.job.step = some st → st.seq < n) →
      exec (.setParams src) s = .next (okReply { u with comp := { u.comp with
        sched := s.comp.sched ++ [(n, rn r 1, (List.range (rn r 2)).map fun i => rw r (3 + i))] } } r [])) ∧
    (∀ st, accepted setParamsCmd src s r = true → s.job.step = some st → n ≤ st.seq →
      exec (.setParams src) s = .next (respond u r Status.stateConflict.code 0 [])) ∧
    (accepted setRingsCmd src s r = true →
      exec (.setRings src) s = .next (okReply { u with host := { u.host with
        ringsSet := true, tokenBase := rw r 0, cmplBase := rw r 1, tlog := rn r 2, clog := rn r 3, ptrAddr := rw r 4
        tokenWptr := 0, cmplWptr := 0, tokenRptr := 0, cmplRptr := 0 } } r []))) ∧
  ∀ (v : Word) (s : State), auxOn s = true →
    exec (.tokenRptr v) s = .next { s with host := { s.host with tokenRptr := v } } ∧
    exec (.cmplRptr v) s = .next { s with host := { s.host with cmplRptr := v } }

/-- 12 R361: while a launch runs, LAUNCH and START_RUN return STATE_CONFLICT and leave no other effect. -/
def Obligations.OneLaunch : Prop :=
  ∀ (src : ReqSrc) (s : State) (r : Req), s.job.launch ≠ none →
    (accepted launchCmd src s r = true →
      exec (.launch src) s = .next (respond (takeReq s r) r Status.stateConflict.code 0 [])) ∧
    (accepted startRunCmd src s r = true →
      exec (.startRun src) s = .next (respond (takeReq s r) r Status.stateConflict.code 0 []))

/-- A launch begins (12 R357, R358, R362, R363; 05 R121, R122, R149; 11 R330; 04 R117; 13 R372; 02 R60): with its images, clusters
and rings in place the job holds the launch that the block spells, its first step starts, P holds the block's values, every
named queen runs from bundle 0, every core's flags and locators and every stream locator are cleared (02 R41, R65; 06 R190), and
the module becomes ACTIVE unless it is in test mode; memory, fabric, ports and clock stay, but for the errors that reading the
images corrects. While a record that is held does not fit the rings (R365), the first step waits for COMMIT_COMPLETE. A launch
that is refused has no other side effect: its flags against the module's, a forager's image or channel, an absent cluster or
store of the block or of an issue record (00 R5), rings not set. -/
def Obligations.LaunchBegins : Prop :=
  (∀ (src : ReqSrc) (s : State) (r : Req) (isRun : Bool) (ims : List (Nat × FImage)) (m : BitVec 32), let u := takeReq s r
    let v := launchReads u r
    s.job.launch = none → (s.dev.testMode = false → lbDet r = s.dev.detStrict ∧ lbSafety r = s.dev.safety) →
    launchImages u r (lbForagers r) = .ok ims → launchMask u r = .ok m → issueAbsent u r = none → s.host.ringsSet = true →
    accepted (if isRun then startRunCmd else launchCmd) src s r = true →
    tablesClean s →
    let seed := if lbAuto r then Config.freeValue v.freeCount else rw r 1
    let l := launchOf isRun v r m seed (ims.map (·.1))
    ∃ t, exec (if isRun then .startRun src else .launch src) s = .next (okReply t r []) ∧ t.job.launch = some l ∧
      t.job.step = (if recordsFit s then some { seq := rn r 3, startL := logicNs v, authorised := l.autocommit } else none) ∧
      t.dev.mode = (if v.dev.testMode then v.dev.mode else .active) ∧
      t.comp.p = tblSetAll 0 [] 0 ((List.range (lbParams r)).map fun i => rw r (5 + i)) ∧ t.comp.sched = [] ∧
      (∀ q ∈ maskClusters v m, let x := queenOf t q
        x.st = .run ∧ x.pc = 0 ∧ x.loops = [] ∧ x.lc = List.replicate 4 0 ∧ x.evt = 0 ∧ x.sem = [] ∧ x.ckpt.isSome) ∧
      (recordsFit s = true → (∀ k, let x := coreOf t k
        x.vflags = 0 ∧ x.invloc0 = 0 ∧ x.invloc1 = 0) ∧ t.su.slocs = []) ∧
      t.freeCount = v.freeCount + (lbAuto r).toNat ∧ t.hbm = v.hbm ∧ t.fab = v.fab ∧ t.comb = v.comb ∧ t.ports = v.ports ∧
      t.clk = v.clk ∧ t.sec = v.sec ∧ t.power = v.power ∧ t.health = v.health ∧
      (s.hbm.errs = [] → s.hbm.selErrs = [] → s.hbm.lenErrs = [] → s.comp.lsErrs = [] → s.comp.csErrs = [] → v = u)) ∧
  (∀ (src : ReqSrc) (s : State) (r : Req) (isRun : Bool), let u := takeReq s r
    let row := if isRun then Instr.startRun src else .launch src
    accepted (if isRun then startRunCmd else launchCmd) src s r = true → s.job.launch = none →
    (s.dev.testMode = false → lbDet r ≠ s.dev.detStrict ∨ lbSafety r ≠ s.dev.safety →
      exec row s = .next (respond u r Status.stateConflict.code 0 [])) ∧
    ((s.dev.testMode = false → lbDet r = s.dev.detStrict ∧ lbSafety r = s.dev.safety) →
      (∀ e d, launchImages u r (lbForagers r) = .error (e, d) → exec row s = .next (respond (launchReads u r) r e.code d [])) ∧
      (∀ ims q, launchImages u r (lbForagers r) = .ok ims → launchMask u r = .error q →
        exec row s = .next (respond u r Status.absentUnit.code q [])) ∧
      (∀ ims m q, launchImages u r (lbForagers r) = .ok ims → launchMask u r = .ok m → issueAbsent u r = some q →
        exec row s = .next (respond u r Status.absentUnit.code q [])) ∧
      (∀ ims m, launchImages u r (lbForagers r) = .ok ims → launchMask u r = .ok m → issueAbsent u r = none → s.host.ringsSet = false →
        exec row s = .next (respond u r Status.noResource.code 0 []))))

/-- The step commands (12 R364; 13 R379, R389; assumption 59): COMMIT_STEP authorises the step in progress; a SEQ below it
conflicts, one above it is a bad argument, and a key that does not run here conflicts; ABORT before the vote raises
HOST_ABORT, after it lets the step finish and ends the launch, and ends a launch whose first step waits for the records (assumption
52); REPLAY_STEP raises HOST_REPLAY, or releases the hold of a poisoned step on every member. -/
def Obligations.StepCommands : Prop :=
  (∀ (src : ReqSrc) (s : State) (r : Req) (l : Launch), s.job.launch = some l → s.job.step = none → l.pkey = rn r 0 →
    accepted abortCmd src s r = true → exec (.abort src) s = .next (okReply (endLaunch (takeReq s r)) r [])) ∧
  ∀ (src : ReqSrc) (s : State) (r : Req) (l : Launch) (st : Step), let u := takeReq s r
    let conflict := respond u r Status.stateConflict.code 0 []
    let replay := accepted replayStepCmd src s r = true
    let commit := accepted commitStepCmd src s r = true
    let abort := accepted abortCmd src s r = true
    s.job.launch = some l → s.job.step = some st →
    (l.pkey = rn r 0 →
      (commit → rn r 1 = st.seq → exec (.commitStep src) s =
        .next (okReply { u with job := { u.job with step := some { st with authorised := true } } } r [])) ∧
      (rn r 1 < st.seq → (commit → exec (.commitStep src) s = .next conflict) ∧ (replay → exec (.replayStep src) s = .next conflict)) ∧
      (st.seq < rn r 1 → (commit → exec (.commitStep src) s = .next (respond u r Status.badArg.code 8 [])) ∧
        (replay → exec (.replayStep src) s = .next (respond u r Status.badArg.code 8 []))) ∧
      (abort → st.committing = true →
        exec (.abort src) s = .next (okReply { u with job := { u.job with stopRun := true } } r [])) ∧
      (abort → st.committing = false → st.voted = true → exec (.abort src) s =
        .next (okReply { u with job := { u.job with step := some { st with abortPending := true } } } r [])) ∧
      (abort → st.committing = false → st.voted = false → exec (.abort src) s = .next (okReply (raisePoison u .hostAbort) r [])) ∧
      (replay → rn r 1 = st.seq → st.voted = true ∨ st.committing = true → exec (.replayStep src) s = .next conflict) ∧
      (replay → rn r 1 = st.seq → st.voted = false → st.committing = false → st.poisoned = none →
        exec (.replayStep src) s = .next (okReply (raisePoison u .hostReplay) r [])) ∧
      (∀ x, replay → rn r 1 = st.seq → st.voted = false → st.committing = false → st.poisoned = some x →
        exec (.replayStep src) s = .next (okReply { u with
          sbq := s.sbq ++ (sbPorts s).flatMap fun p => List.replicate 3 (.ordered p codePoison (poisonPayload l.pkey st.seq 20))
          job := { u.job with step := some { st with held := false, startL := if st.held then logicNs s else st.startL } } } r []))) ∧
    (l.pkey ≠ rn r 0 → (commit → exec (.commitStep src) s = .next conflict) ∧ (abort → exec (.abort src) s = .next conflict) ∧
      (replay → exec (.replayStep src) s = .next conflict))

/-- Regions (11 R320, R326; assumption 60): creating one takes the lowest free entry and answers its number, changing or deleting
one names it by BASE; PLEN starts at CLEN, DIRTY is cleared, and a step of the key that is in progress refuses the command.
ZEROIZE clears memory, regions and pages, and keeps the logs and the sparing map. Foragers by command (11 R330, Table 11.5; 12
R343; assumption 21): START_FORAGER starts an idle channel from a good image, whatever errors the memory corrects as it is read, FORAGER_STATUS answers FSTATUS of a run of
channels, and HOST_COPY sends its bytes as host-access frames, or asks for them. -/
def Obligations.MemoryCommands : Prop :=
  (∀ (src : ReqSrc) (s : State) (r : Req), let u := takeReq s r
    let w := rgRecord r
    let pages := fun (t : Tbl Bool) (n : Nat) => t.filter fun e => e.1 / 2 ^ 20 != n
    let written := fun (n : Nat) (sel : Tbl Bool) => { u with hbm := { u.hbm with
      regions := tblSet 0 s.hbm.regions n (setFlag (rgSetLens w (rgClen w) (rgClen w)) 40 true), sel := sel, dirty := pages s.hbm.dirty n } }
    (∀ n, accepted regionCreateCmd src s r = true → stepBlocks s (rgKey w) = false → n < 64 →
      rgValid (tblGet 0 s.hbm.regions n) = false → (∀ k, k < n → rgValid (tblGet 0 s.hbm.regions k) = true) →
      exec (.regionCreate src) s = .next (okReply (written n (pages s.hbm.sel n)) r [BitVec.ofNat 64 n])) ∧
    (accepted regionCreateCmd src s r = true → stepBlocks s (rgKey w) = false →
      (∀ k, k < 64 → rgValid (tblGet 0 s.hbm.regions k) = true) →
      exec (.regionCreate src) s = .next (respond u r Status.noResource.code 0 [])) ∧
    (accepted regionCreateCmd src s r = true → stepBlocks s (rgKey w) = true →
      exec (.regionCreate src) s = .next (respond u r Status.stateConflict.code 0 [])) ∧
    (∀ n old, regionByBase s w = some (n, old) →
      (accepted regionChangeCmd src s r = true → stepBlocks s (rgKey old) = false → stepBlocks s (rgKey w) = false →
        ∃ sel, exec (.regionChange src) s = .next (okReply (written n sel) r []) ∧
          (rgAppend (tblGet 0 s.hbm.regions n) ≠ rgAppend w ∨ rgShadow (tblGet 0 s.hbm.regions n) ≠ rgShadow w →
            sel = pages s.hbm.sel n)) ∧
      (accepted regionChangeCmd src s r = true → stepBlocks s (rgKey old) = true ∨ stepBlocks s (rgKey w) = true →
        exec (.regionChange src) s = .next (respond u r Status.stateConflict.code 0 [])) ∧
      (accepted regionDeleteCmd src s r = true → stepBlocks s (rgKey old) = false →
        exec (.regionDelete src) s = .next (okReply { u with hbm := { u.hbm with
          regions := tblSet 0 s.hbm.regions n 0, sel := pages s.hbm.sel n, dirty := pages s.hbm.dirty n } } r [])) ∧
      (accepted regionDeleteCmd src s r = true → stepBlocks s (rgKey old) = true →
        exec (.regionDelete src) s = .next (respond u r Status.stateConflict.code 0 []))) ∧
    (accepted zeroizeCmd src s r = true →
      exec (.zeroize src) s = .next (okReply { u with hbm := { u.hbm with
        mem := [], errs := [], regions := [], sel := [], dirty := [], selErrs := [], lenErrs := [] } } r []))) ∧
  (∀ (src : ReqSrc) (s : State) (r : Req), let u := takeReq s r
    let c := chanOf s (rn r 0)
    let v := foragerReads u (rn r 0) (rn r 2)
    (∀ im, accepted startForagerCmd src s r = true → c.st ≠ .run → c.st ≠ .wait → foragerImage u (rn r 0) (rn r 2) = .ok im →
      ∃ t, exec (.startForager src) s = .next (okReply t r []) ∧ t = { v with fgr := t.fgr } ∧
        (chanOf t (rn r 0)).st = .run ∧ (chanOf t (rn r 0)).pc = 0 ∧ (chanOf t (rn r 0)).pkey = rn r 1 ∧
        (chanOf t (rn r 0)).bound = false ∧ ∀ n, n ≠ rn r 0 → chanOf t n = chanOf v n) ∧
    (∀ e, accepted startForagerCmd src s r = true → c.st ≠ .run → c.st ≠ .wait → foragerImage u (rn r 0) (rn r 2) = .error e →
      exec (.startForager src) s = .next (respond v r e.code (imageDetail e 16) [])) ∧
    (s.hbm.errs = [] → s.hbm.selErrs = [] → s.hbm.lenErrs = [] → s.comp.lsErrs = [] → s.comp.csErrs = [] → v = u) ∧
    (accepted startForagerCmd src s r = true → c.st = .run ∨ c.st = .wait →
      exec (.startForager src) s = .next (respond u r Status.stateConflict.code 0 [])) ∧
    (accepted foragerStatusCmd src s r = true → exec (.foragerStatus src) s = .next (okReply u r
      ((List.range (rn r 1)).map fun i => let k := chanOf s (rn r 0 + i)
        BitVec.ofNat 64 (k.st.code + k.pc % 256 * 8 + k.cause % 16 * 2048 + k.pkey % 4096 * 32768)))) ∧
    (∀ data, accepted (hostCopyCmd data) src s r = true → rn r 0 = 0 →
      exec (.hostCopy src data) s = .next (okReply (hostWrites u (rn r 2)
        ((bytesOfWords data ++ List.replicate (rn r 3 - 8 * data.length) 0).take (rn r 3))) r [])) ∧
    (∀ data, accepted (hostCopyCmd data) src s r = true → rn r 0 = 1 →
      exec (.hostCopy src data) s = .next (okReply (hostReads u (rn r 2) (rw r 1) (rn r 3) (rn r 3 / 4096 + 1)) r [])))

/-- The BARs (12 R340, R343, R346; 08 R238): the debug aperture reads and writes HBM through port H as host-access frames of TC1
and key 0 while WIN_EN, the scope APERTURE and the capacity allow it; a denied read is all ones and a denied write counts
WIN_DENIED. A BUSY mailbox ignores what is written to it and counts MBOX_LOCKED; an idle one takes a byte as its mask allows. -/
def Obligations.HostAccess : Prop :=
  ∀ s : State, auxOn s = true →
    (∀ off n,
      let frame := mkFrame 1 0 0 3 s.dev.eid.toNat s.dev.eid.toNat 0 0 0 false (BitVec.ofNat 64 (apertureAddr s off))
        (bytesOfWords [BitVec.ofNat 64 n, 0])
      exec (.bar4Read off n) s = .next (
        if flag s.host.win 63 && flag s.sec.scopes 0 && decide (apertureAddr s off + n ≤ hbmBytes s) then
          { s with comb := { s.comb with orig := s.comb.orig ++ [{ input := 80, owner := 641, frame := frame }] } }
        else { s with out := s.out ++ [.hostRead (List.replicate n 0xFF#8)] })) ∧
    (∀ off bs, exec (.bar4Write off bs) s = .next (if apertureOpen s off bs.length then hostWrites s (apertureAddr s off) bs
      else count s .winDenied)) ∧
    (∀ off bs, 0 < bs.length → bs.length ≤ 4096 →
      let frame := mkFrame 1 0 0 1 s.dev.eid.toNat s.dev.eid.toNat 0 0 0 false
        (BitVec.ofNat 64 (apertureAddr s off)) bs
      hostWrites s (apertureAddr s off) bs =
        { s with comb := { s.comb with orig := s.comb.orig ++ [{ input := 80, owner := 641, frame := frame }] } }) ∧
    (∀ o b, o < 262144 → mboxStatus s (o / 4096) = 0x8001 → exec (.registerWrite .bar2 o [b]) s = .next (count s .mboxLocked)) ∧
    (∀ o b, o < 262144 → mboxStatus s (o / 4096) ≠ 0x8001 → let k := mailMask (o % 4096)
      exec (.registerWrite .bar2 o [b]) s = .next { s with host := { s.host with
        bar2 := memSetByte s.host.bar2 o ((b &&& k) ||| (memByte s.host.bar2 o &&& ~~~k)) } }) ∧
    (∀ o b, 0x8000 ≤ o → o < 0x8480 → exec (.registerWrite .bar0 o [b]) s =
      .next { s with host := { s.host with msixTable := memSetByte s.host.msixTable (o - 0x8000) b } }) ∧
    (∀ o b, 0x2018 ≤ o → o < 0x2020 → exec (.registerWrite .bar0 o [b]) s = .next (
      if flag s.sec.scopes 0 then
        { s with host := { s.host with win := setFld s.host.win (8 * (o - 0x2018)) 8 b.toNat &&& 0x80000000000003FF#64 } }
      else count s .winDenied)) ∧
    ∀ o bs, 0x8480 ≤ o → exec (.registerWrite .bar0 o bs) s = .next s

/-- How requests arrive (12 R345 to R350; assumption 50): a doorbell latches an idle host mailbox and sets it BUSY, and is ignored
and counted on a BUSY one; datagrams need the address that DHCPv4 gave; a fabric mailbox that is BUSY answers NO_RESOURCE; a
repeated TAG gets its kept response; an unknown code is answered at once; a request takes its place behind those of earlier PCLK
cycles, and among those of its own in the order of the transports. An MBOX frame has DTYPE 0 or 3, TC7 and key 0. A FORWARD
completes with the response that comes from where it went and names its mailbox and its TAG, or with TIMEOUT after 10 ms, the
time waited in DETAIL, and requests of SPDM that waited for its end are served (15 R434); a response that no FORWARD waits for
is dropped. -/
def Obligations.RequestsArrive : Prop :=
  (∀ s : State,
    (∀ (v : Word) (n : Fin 64), mailServed s = true → v.toNat % 64 = n.val →
      (mboxStatus s n.val = 0x8001 → exec (.doorbell v) s = .next (count s .doorbellIgnored)) ∧
      (mboxStatus s n.val ≠ 0x8001 → let r := hostRequest s n
        let u := { s with host := { s.host with bar2 := memWrite s.host.bar2 (4096 * n.val + 12) [0x01#8, 0x80#8] } }
        (cmdKnown (reqCmd r) = true → exec (.doorbell v) s =
          .next { u with sceuf := { u.sceuf with accepted := insertReq (stamped s r) s.sceuf.accepted } }) ∧
        (cmdKnown (reqCmd r) = false → exec (.doorbell v) s =
          .next (respond u r ((sessionCheck u r).getD (.badArg, 0)).1.code ((sessionCheck u r).getD (.badArg, 0)).2 [])))) ∧
    (∀ a, mailServed s = true → exec (.dhcpv4Reply a) s = .next { s with sceuf := { s.sceuf with ipv4 := some a } }) ∧
    (∀ peer msg, let r := reqOf .mgmt peer msg
      (mailServed s = false ∨ s.sceuf.ipv4 = none → exec (.mgmtDatagram peer msg) s = .next s) ∧
      (∀ m, mailServed s = true → s.sceuf.ipv4 ≠ none → keptResp s r = some m →
        exec (.mgmtDatagram peer msg) s = .next { s with out := s.out ++ [.datagram peer 49320 m] }) ∧
      (mailServed s = true → s.sceuf.ipv4 ≠ none → keptResp s r = none → cmdKnown (reqCmd r) = true →
        exec (.mgmtDatagram peer msg) s =
          .next { s with sceuf := { s.sceuf with accepted := insertReq (stamped s r) s.sceuf.accepted } })) ∧
    (∀ (r : Req) (l : List Req), (∀ x, x ∈ insertReq r l ↔ x = r ∨ x ∈ l) ∧
      (∀ x ∈ l, x.cycle < r.cycle ∨ srcRank x.src ≤ srcRank r.src →
        ∃ a b, insertReq r l = a ++ r :: b ∧ x ∈ a) ∧
      ∀ x ∈ l, x.cycle = r.cycle → srcRank r.src < srcRank x.src → ∃ a b, insertReq r l = a ++ r :: b ∧ x ∈ b) ∧
    (∀ (f : Frame) (u : State), takeLocal s f 7 = some u → fwRuns s = true → mboxForm f = false → exec (.mbox f) s = .next u) ∧
    ∀ (f : Frame) (u : State) (n : Fin 16), takeLocal s f 7 = some u → fwRuns s = true → mboxForm f = true → f.w3.toNat = n.val →
      let ws := mboxWords f
      let r := reqOf (.fabric n) (BitVec.ofNat 32 (frmSrc f)) ws
      flag (arg ws 1) 1 = false →
      (∀ m, keptResp u r = some m → exec (.mbox f) s = .next (sendMsg u (.fabric n) r.peer m)) ∧
      (keptResp u r = none → srcBusy u (.fabric n) = true →
        exec (.mbox f) s = .next (sendMsg u (.fabric n) r.peer (respHeader u r Status.noResource.code 0 0))) ∧
      (keptResp u r = none → srcBusy u (.fabric n) = false → cmdKnown (reqCmd r) = true → exec (.mbox f) s =
        .next { u with sceuf := { u.sceuf with accepted := insertReq (stamped s r) s.sceuf.accepted } })) ∧
  ((∀ (f : Frame) (s u : State), takeLocal s f 7 = some u → fwRuns s = true → let ws := mboxWords f
    (mboxForm f = false → exec (.mboxResponse f) s = .next u) ∧ (mboxForm f = true → flag (arg ws 1) 1 = true →
    (∀ fw, s.sceuf.forward = some fw →
      let nb := (portOf s fw.target).nbW1
      let mine := f.w3.toNat = fw.mailbox ∧ fld (arg ws 0) 32 32 = fld (arg fw.req.args 2) 32 32 ∧
        (if fw.viaPort then flag nb 48 = false ∨ frmSrc f = fld nb 0 16 else frmSrc f = fw.target)
      (mine → exec (.mboxResponse f) s =
        .next (serveWaiting (okReply { u with sceuf := { u.sceuf with forward := none } } fw.req (ws.take 504)))) ∧
      (¬mine → exec (.mboxResponse f) s = .next u)) ∧
    (s.sceuf.forward = none → exec (.mboxResponse f) s = .next u))) ∧
  ∀ (s : State) (fw : Fwd), s.sceuf.forward = some fw → fwRuns s = true →
    (fw.sentAt + 10000000 ≤ nowNs s → exec .forwardTimeout s =
      .next (serveWaiting (respond { s with sceuf := { s.sceuf with forward := none } } fw.req Status.timeout.code (nowNs s - fw.sentAt) []))) ∧
    (nowNs s < fw.sentAt + 10000000 → exec .forwardTimeout s = .next s))

/-- Health, statistics, logs and power by command (12 Table 12.9, R360; 13 R391, R396; 14 R421, R426; 15 R442; assumptions 11,
61): what each answers, and the one field that each changes. -/
def Obligations.ServiceCommands : Prop :=
  ∀ (src : ReqSrc) (s : State) (r : Req), let u := takeReq s r
    (accepted getHealthCmd src s r = true → exec (.getHealth src) s = .next (okReply u r [BitVec.ofNat 64 s.health.score,
      BitVec.ofNat 64 (s.dev.degraded.toNat + 2 * s.dev.replaceRequest.toNat + 4 * s.dev.keepInService.toNat)])) ∧
    (accepted setStatsCmd src s r = true →
      exec (.setStats src) s = .next (okReply { u with stats := { s.stats with
        stepMode := rn r 0 == 1, stepDue := s.stats.stepDue && (rn r 0 == 1) == s.stats.stepMode } } r [])) ∧
    (accepted readLogsCmd src s r = true → exec (.readLogs src) s =
      .next (okReply u r (((logEntries s (rn r 0)).drop (rn r 1)).take (rn r 2)).flatten)) ∧
    (accepted clearLogsCmd src s r = true → ∃ t, exec (.clearLogs src) s = .next (okReply t r []) ∧
      (∀ k, k < 5 → let old := logEntries s k
        logEntries t k = if k = rn r 0 then old.take (rn r 1) ++ (if rn r 2 = 0 then [] else old.drop (rn r 1 + rn r 2)) else old) ∧
      t = { u with
        hbm := { s.hbm with corrLog := t.hbm.corrLog, errLog := t.hbm.errLog, integrityLog := t.hbm.integrityLog }
        dev := { s.dev with safetyLog := t.dev.safetyLog, eventLog := t.dev.eventLog } }) ∧
    (accepted keepInServiceCmd src s r = true → exec (.keepInService src) s =
      .next (okReply (recomputeHealth { u with dev := { s.dev with keepInService := rn r 0 == 1 } }) r [])) ∧
    (accepted getPowerCmd src s r = true → ∃ a b c, exec (.getPower src) s = .next (okReply u r [a, b, c]) ∧
      fld a 0 16 = s.power.vin.toNat ∧ fld a 16 16 = s.power.iin.toNat ∧ fld a 32 16 = s.power.pin.toNat ∧ fld a 48 16 = s.power.cap % 65536 ∧
      fld b 4 4 = s.power.levelCap % 16 ∧ fld b 8 4 = s.power.levelCur % 16 ∧ fld b 12 4 = s.power.levelTherm % 16 ∧
      b.getLsbD 16 = s.power.thermtrip ∧ b.getLsbD 17 = !s.dev.leakN ∧
      (∀ k, k < 5 → fld c (8 * k) 8 = (s.power.tj.getD k 0).toNat) ∧ fld c 40 8 = s.power.th.toNat) ∧
    (accepted setPowerCapCmd src s r = true → exec (.setPowerCap src) s =
      .next (okReply { u with power := { s.power with cap := if rn r 0 = 0 then 3600 else rn r 0 } } r [])) ∧
    (accepted readoutCmd src s r = true → ∃ ws : List Word, ws.length = (rn r 2 + 7) / 8 ∧ exec (.readout src) s = .next (okReply u r ws) ∧
      ∀ (src' : ReqSrc) (s' : State) (r' : Req), accepted readoutCmd src' s' r' = true → scanHeld s' = scanHeld s →
        (∀ i, i < 3 → rw r' i = rw r i) → exec (.readout src') s' = .next (okReply (takeReq s' r') r' ws)) ∧
    (accepted setSmokerCmd src s r = true → let t := { u with health := { s.health with smoker := rw r 0, missed := 0 } }
      exec (.setSmoker src) s = .next (okReply { t with health := { t.health with lastRehearsal := rehearsalsDue t } } r [])) ∧
    (accepted setWindowCmd src s r = true → exec (.setWindow src) s =
      .next (okReply { u with host := { s.host with win := BitVec.ofNat 64 (rn r 0 + 2 ^ 63 * rn r 1) } } r []))

/-- Health and rehearsals (13 R390 to R395; 09 R271; assumption 49): HEALTH is 1,000 less the deductions, REPLACE_REQUEST is set
below 800 unless KEEP_IN_SERVICE is, ALERT_N follows it, DEGRADED is set by the deductions that mark it, and only MSI-X
vectors go out; at its time, and once for each time that fell in a freeze (14 R416), the next enabled rehearsal runs and is counted
as one (assumption 14), or is skipped and logged while its spare is missing or a fault is handled; a mismatch leaves the deductions after 24 h; a twin whose port does not come up within 1 s of READY is lost, once after each READY. -/
def Obligations.HealthAndRehearsals : Prop :=
  (∀ s : State, let t := recomputeHealth s
    t.health = { s.health with score := 1000 - ((deductions s).map (·.1)).sum } ∧
    (t.dev.replaceRequest = true ↔ t.health.score < 800 ∧ s.dev.keepInService = false) ∧ t.dev.alertN = !t.dev.replaceRequest ∧
    (t.dev.degraded = true ↔ ∃ d ∈ deductions s, d.2 = true) ∧
    t = { s with
      out := t.out, health := t.health, host := { s.host with msixPending := t.host.msixPending }
      dev := { s.dev with replaceRequest := t.dev.replaceRequest, alertN := t.dev.alertN, degraded := t.dev.degraded } }) ∧
  ((∀ (s : State) (port : Fin 64) (lane : Fin 9) (q : Fin 32) (i : Fin 16) (unit : Fin 32),
    let run := exec (.smokerRehearsal port lane q i unit) s
    (smokerEn s = false ∨ rehearsalsDue s ≤ s.health.lastRehearsal ∧ s.health.missed = 0 → run = .next s) ∧
    (smokerEn s = true ↔ s.health.smoker.getLsbD 0 = true) ∧
    ∀ t, clocksRun s = true → smokerEn s = true → s.health.lastRehearsal < rehearsalsDue s ∨ 0 < s.health.missed →
      nextRehearsal s s.health.nextType = some t →
      let u := { s with health := { s.health with
        lastRehearsal := if s.health.missed = 0 then rehearsalsDue s else s.health.lastRehearsal
        missed := s.health.missed - 1, nextType := (t + 1) % 4 } }
      let stays := (smokerActiveOnly s = true ∧ s.dev.mode ≠ .active) ∨ rehearsalSpare s t port.val q.val = false ∨ faultHandled s = true
      (stays → run = .next { u with dev := { s.dev with eventLog := s.dev.eventLog ++ [(evSkipped, t, nowNs s)] } }) ∧
      (¬stays → let v := count { u with
          dev := { s.dev with eventLog := s.dev.eventLog ++ [(evRehearsal, t, nowNs s)] }
          health := { u.health with rehearsing := some t } } .rehearsal t
        let ph := physCluster s q.val
        let k := physOfKey s (16 * q.val + i.val)
        (t = 0 → s.job.launch = none → run = .next v) ∧
        (∀ l, t = 0 → s.job.launch = some l → run = .next (injectComb v l.pkey)) ∧
        (t = 1 → (portOf s port.val).rxLanes[lane.val]? = some .active →
          run = .next (laneFailed (modPort v port.val fun x => { x with rehearsed := true }) port.val lane.val)) ∧
        (t = 2 → run = .next (coreFails { v with health := { v.health with rehearsedCore := some (ph, k) } } ph k)) ∧
        (t = 3 → run = .next (raisePoison v .unitFail)))) ∧
  (∀ (s : State) (key : Nat) (a b : CFrame) (r : List CFrame), (s.comb.frames.filter fun f => frmPkey f.frame == key) = a :: b :: r →
    frameId a ≠ frameId b → let x := injectComb s key
    (∀ f ∈ x.comb.frames, frameId f = frameId a → ∃ g ∈ s.comb.frames, f = { g with marks := g.marks ++ [(0, false)] }) ∧
    (∀ f ∈ x.comb.frames, frameId f = frameId b → ∃ g ∈ s.comb.frames, f = { g with marks := g.marks ++ [(0, true)] }) ∧
    (∀ f ∈ x.comb.frames, frameId f ≠ frameId a → frameId f ≠ frameId b → f ∈ s.comb.frames)) ∧
  (∀ s : State, exec .healthDeductionExpiry s = .next (recomputeHealth { s with health := { s.health with
    mismatches := s.health.mismatches.filter fun t => decide (nowNs s < t + 86400000000000) } })) ∧
  ∀ (s : State) (r : Nat), s.health.readyAt = some r →
    (s.ident.twinPresent = true → s.health.twinSettled = false → r + 1000000000 ≤ nowNs s → exec .twinLost s =
      .next (recomputeHealth (count { s with health := { s.health with twinLost := true, twinSettled := true } } .twinLost))) ∧
    (s.ident.twinPresent = false ∨ s.health.twinSettled = true ∨ nowNs s < r + 1000000000 → exec .twinLost s = .next s))

/-- Freezing (14 R411 to R416, R418): FREEZE and its set take an id that is not held and stop the clocks, the set on its way with
the hop count raised unless it is 255, and the module's own set with hop count 0 on every sideband that is up; THAW and its set
clear an id, or all by 0xFFFF; FREEZE_N, which the module drives low while it holds an id that is not quiet, holds the module
as an id does; the module resumes when no id is held and FREEZE_N is high. A frozen module asserts FROZEN, remembers its
state, and is FROZEN unless it is in AUX, BOOT or SAFE; its clocks stop; it resumes in the state it remembered, with the
discarded arrivals counted, and what swarm time keyed to the freeze takes effect once each. -/
def Obligations.FreezeCommands : Prop :=
  ((∀ (src : ReqSrc) (s : State) (r : Req), let u := takeReq s r
    let id := rn r 0 % 65536
    let pay := BitVec.ofNat 40 (id + 65536 * s.dev.eid.toNat)
    let sets := fun (code : Byte) (ps : List Nat) (pay : BitVec 40) => ps.flatMap fun p => List.replicate 3 (OutEvent.ordered p code pay)
    (accepted freezeCmd src s r = true → id ∈ s.dev.freezeIds.map (·.1) → exec (.freeze src) s = .next (okReply u r [])) ∧
    (accepted freezeCmd src s r = true → id ∉ s.dev.freezeIds.map (·.1) → let loud := (rw r 0).getLsbD 16
      exec (.freeze src) s = .next (okReply (freezeNow { u with
        sbq := s.sbq ++ (if loud then sets codeFreeze (sbPorts s) pay else [])
        dev := { s.dev with freezeIds := s.dev.freezeIds ++ [(id, !loud)] } }) r [])) ∧
    (accepted thawCmd src s r = true → rn r 0 ≠ 0xFFFF →
      exec (.thaw src) s = .next (okReply (resume { u with
        sbq := s.sbq ++ (if (id, false) ∈ s.dev.freezeIds then sets codeThaw (sbPorts s) pay else [])
        dev := { s.dev with freezeIds := s.dev.freezeIds.filter fun h => h.1 != id } }) r [])) ∧
    (accepted thawCmd src s r = true → rn r 0 = 0xFFFF →
      exec (.thaw src) s = .next (okReply (resume { u with
        sbq := s.sbq ++ (if ∃ h ∈ s.dev.freezeIds, h.2 = false then sets codeThaw (sbPorts s) pay else [])
        dev := { s.dev with freezeIds := [] } }) r []))) ∧
  (∀ (s : State) (rx : SetRx), let id := fld rx.payload 0 16
    let onward := (if fld rx.payload 32 8 = 255 then [] else
      (otherPorts s rx.port.val).flatMap fun p =>
        List.replicate 3 (OutEvent.ordered p codeFreeze (setFld rx.payload 32 8 (fld rx.payload 32 8 + 1)))) ++
      (sbPorts s).flatMap fun p => List.replicate 3 (OutEvent.ordered p codeFreeze (BitVec.ofNat 40 (id + 65536 * s.dev.eid.toNat)))
    setFresh s codeFreeze 0 rx →
    (id ∉ s.dev.freezeIds.map (·.1) → exec (.freezeOrderedSet rx) s = .next (freezeNow { noteSet s codeFreeze rx with
      sbq := s.sbq ++ onward, dev := { s.dev with freezeIds := s.dev.freezeIds ++ [(id, false)] } })) ∧
    (id ∈ s.dev.freezeIds.map (·.1) → exec (.freezeOrderedSet rx) s = .next (noteSet s codeFreeze rx))) ∧
  (∀ (s : State) (rx : SetRx), let id := fld rx.payload 0 16
    let onward := (if fld rx.payload 32 8 = 255 then [] else
      (otherPorts s rx.port.val).flatMap fun p =>
        List.replicate 3 (OutEvent.ordered p codeThaw (setFld rx.payload 32 8 (fld rx.payload 32 8 + 1)))) ++
      (sbPorts s).flatMap fun p => List.replicate 3 (OutEvent.ordered p codeThaw (BitVec.ofNat 40 (id + 65536 * s.dev.eid.toNat)))
    let named := if id = 0xFFFF then s.dev.freezeIds ≠ [] else id ∈ s.dev.freezeIds.map (·.1)
    setFresh s codeThaw 0 rx →
    (named → exec (.thawOrderedSet rx) s = .next (resume { noteSet s codeThaw rx with
      sbq := s.sbq ++ onward
      dev := { s.dev with freezeIds := if id = 0xFFFF then [] else s.dev.freezeIds.filter fun h => h.1 != id } })) ∧
    (¬named → exec (.thawOrderedSet rx) s = .next (noteSet s codeThaw rx))) ∧
  ∀ s : State,
    exec .freezeNAssert s = .next (if auxOn s then freezeNow { s with dev := { s.dev with freezeNLow := true } }
      else { s with dev := { s.dev with freezeNLow := true } }) ∧
    exec .freezeNRelease s = .next (if auxOn s then resume { s with dev := { s.dev with freezeNLow := false } }
      else { s with dev := { s.dev with freezeNLow := false } }) ∧
    (freezeNPin s = false ↔ s.dev.freezeNLow = true ∨ auxOn s = true ∧ ∃ h ∈ s.dev.freezeIds, h.2 = false)) ∧
  ((∀ s : State, s.dev.frozenPin = false → let t := freezeNow s
    t.dev.frozenPin = true ∧ t.dev.frozeAt = s.clk.t48 ∧ t.dev.freezeIds = s.dev.freezeIds ∧
    (s.dev.mode ∈ [Mode.ready, .joined, .active, .fenced] →
      t.dev.mode = .frozen ∧ t.dev.remembered = s.dev.mode ∧ clocksRun t = false) ∧
    (s.dev.mode ∈ [Mode.off, .aux, .boot, .safe] → t.dev.mode = s.dev.mode) ∧
    t = { s with dev := t.dev, out := t.out, host := { s.host with msixPending := t.host.msixPending } }) ∧
  (∀ s : State, s.dev.frozenPin = true → freezeNow s = s) ∧
  (∀ s : State, isFrozen s = true → resume s = s) ∧
  (∀ s : State, isFrozen s = false → s.dev.frozenPin = true → s.dev.mode = .frozen → s.dev.heldSets = [] →
    (∀ o, (tblGet {} s.comb.egress o).copies = []) →
    let t := { s with dev := { s.dev with frozenPin := false, frozenRx := 0, stageHeld := false } }
    resume s = missedEvents (countN (setMode t s.dev.remembered) .frozenRxDiscard 0 s.dev.frozenRx) s.dev.frozeAt) ∧
  ∀ s t : State, s.dev.frozenPin = true → s.dev.mode = .frozen ∨ s.dev.mode = .safe → s.pending = [] → step s = .next t →
    t.clk.logic = s.clk.logic)

/-- The two resets by command, and the PCIe reset (14 R406 to R408): each RESET row runs the request of its kind; a warm reset
clears the compute dies and the stores' and foragers' work but neither HBM, fabric nor links; a full reset boots again with
the fabric, stores, regions and membership gone, scopes locked and sessions closed; after PERST_N writes to host memory wait. -/
def Obligations.ResetCommands : Prop :=
  (∀ (src : ReqSrc) (s : State) (r : Req) (failed : List (Nat × Nat)),
    (accepted (resetWarmCmd failed) src s r = true → rn r 0 = 0 →
      exec (.resetWarmCompute src failed) s = .next (okReply (warmReset (takeReq s r) failed) r [])) ∧
    (accepted resetFullCmd src s r = true → rn r 0 = 1 →
      exec (.resetFull src) s = .next (okReply (fullReset (takeReq s r)) r [])) ∧
    (frontReq 0x0706 src s = some r → rn r 0 = 1 → exec (.resetWarmCompute src failed) s = .next s) ∧
    (frontReq 0x0706 src s = some r → rn r 0 = 0 → exec (.resetFull src) s = .next s)) ∧
  (∀ s : State, let t := fullReset s
    t.dev.mode = .boot ∧ t.dev.bootStage = 0x03 ∧ t.dev.eid = defaultEid s ∧ t.dev.epoch = 0 ∧ t.dev.freezeIds = [] ∧
    t.dev.testMode = false ∧ t.dev.detStrict = false ∧ t.dev.safety = false ∧ t.dev.keepInService = false ∧ t.fab = {} ∧
    t.job = {} ∧ t.fgr = [] ∧ t.comp.cores = [] ∧ t.comp.queens = [] ∧ t.comp.ls = [] ∧ t.comp.cs = [] ∧ t.hbm.undef = true ∧
    t.hbm.mem = [] ∧ t.hbm.regions = [] ∧ t.sec.scopes = 0 ∧ t.sec.scopeEnd = none ∧ t.sceuf.sessions = [] ∧ t.host.ringsSet = false ∧
    t.sec.svn = s.sec.svn ∧ t.comp.retired = s.comp.retired ∧ t.comp.coreMap = s.comp.coreMap ∧ t.su.retired = s.su.retired ∧
    t.hbm.spared = s.hbm.spared ∧ t.power = s.power ∧ t.clk = s.clk) ∧
  (∀ (s : State), s.job.launch = none → s.comp.failed = [] → s.su.failed = [] → let t := warmReset s []
    t.comp.slots = [] ∧ t.comp.cores = [] ∧ t.comp.ls = [] ∧ t.comp.cs = [] ∧ (∀ e ∈ t.fgr, 256 ≤ e.1) ∧
    (∀ q, (queenOf t q).st = .idle ∧ (queenOf t q).sem = []) ∧ t.hbm = s.hbm ∧ t.fab = s.fab ∧ t.ports = s.ports ∧ t.su = s.su ∧
    t.dev = s.dev ∧ t.sec = s.sec ∧ t.sceuf = s.sceuf ∧ (∀ f ∈ t.comb.localIn, toStore f = false)) ∧
  ∀ s : State, auxOn s = true →
    exec .perstN s = .next { s with host := { s.host with busMaster := false } } ∧
    (s.host.busMaster = false → exec .busMasterEnable s = .next { s with
      out := s.out ++ ((List.range 72).filter fun v => s.host.msixPending.getLsbD v).map OutEvent.msix
      host := { s.host with busMaster := true, msixPending := 0 } })

/-- Firmware update (15 R429, R430; assumptions 47, 48): FW_STAGE writes its bytes to the slot that does not run, erased first
when OFFSET is 0 and else over what it held, and leaves the running slot; FW_ACTIVATE without RESTART burns, revokes and prefers as its bits ask. -/
def Obligations.FirmwareUpdate : Prop :=
  ∀ (src : ReqSrc) (s : State) (r : Req), let u := takeReq s r
    (accepted fwStageCmd src s r = true → memoriesWf s = true → ∃ t, exec (.fwStage src) s = .next (okReply t r []) ∧
      (∀ a, let k := a - rn r 0
        let old := flashBytes s (!s.sec.running) a 1
        flashBytes t (!s.sec.running) a 1 =
          if rn r 0 ≤ a ∧ a < rn r 0 + rn r 1 then [BitVec.ofNat 8 (fld (rw r (2 + k / 8)) (8 * (k % 8)) 8)]
          else if rn r 0 = 0 then [0xFF#8] else old) ∧
      (∀ a n, flashBytes t s.sec.running a n = flashBytes s s.sec.running a n) ∧ slotShipped t (!s.sec.running) = false ∧
      slotShipped t s.sec.running = slotShipped s s.sec.running ∧
      t = { u with sec := { s.sec with
        flash0 := t.sec.flash0, flash1 := t.sec.flash1, shipped0 := t.sec.shipped0, shipped1 := t.sec.shipped1
        base0 := t.sec.base0, base1 := t.sec.base1 } }) ∧
    (accepted fwActivateCmd src s r = true → (rw r 0).getLsbD 1 = false →
      let n := max (fusedSvn s) (slotSvn s s.sec.running)
      exec (.fwActivate src) s = .next (okReply { u with sec := { s.sec with
        svn := if (rw r 0).getLsbD 2 then s.sec.svn ||| BitVec.ofNat 64 (2 ^ n - 1) else s.sec.svn
        revoked0 := s.sec.revoked0 || (rw r 0).getLsbD 3
        preferred := if (rw r 0).getLsbD 0 then !s.sec.running else s.sec.preferred } } r [])) ∧
    (accepted fwActivateCmd src s r = true → (rw r 0).getLsbD 1 = true → ∃ t, exec (.fwActivate src) s = .next (okReply t r []) ∧
      t.dev.bootStage = 0 ∧ t.dev.recovery = false ∧ t.sceuf.sessions = [] ∧ t.sceuf.accepted = [] ∧ t.sec.scopes = 0 ∧
      t.sec.nonce = none ∧ t.sec.running = s.sec.running)

/-- Debug authorisation (15 R439 to R442): a challenge answers a fresh nonce, the serial number, the scopes and what is left of
them; an unlock that checks out gives the scopes it names until its end, counted in PCLK cycles, and extends measurement 5, any
other is DENIED and counted, and either way the nonce is gone; after 8 refusals in a row every one is DENIED, whatever its words;
locking, and the end of the unlock, clear the scopes; a nonce ends after 60 s; a private JTAG instruction without JTAG_PRIVATE
is BYPASS, and one whose scope has ended shifts zeros. SPDM (R434; assumption 12): GET_VERSION begins an exchange of its path,
each later request needs the stage before it and the version of its exchange, a signed answer is signed by the Alias key over
the transcript, what is not served answers with an ERROR, and a request that comes during a FORWARD waits for its end. -/
def Obligations.DebugScopes : Prop :=
  ((∀ (src : ReqSrc) (s : State) (r : Req), let u := takeReq s r
    (accepted debugChallengeCmd src s r = true → let n := s.freeCount
      let ws := [Config.freeValue n, Config.freeValue (n + 1), Config.freeValue (n + 2), Config.freeValue (n + 3)]
      exec (.debugChallenge src) s = .next (okReply
        { u with freeCount := n + 4, sec := { s.sec with nonce := some (ofWords 256 ws, nowNs s) } } r
        (ws ++ [s.ident.serial, BitVec.ofNat 64 s.sec.scopes.toNat, BitVec.ofNat 64 (unlockLeft s)]))) ∧
    (accepted debugUnlockCmd src s r = true → unlockGood s r = true →
      ∃ t, exec (.debugUnlock src) s = .next (okReply t r []) ∧ t.sec.scopes = (rw r 5).setWidth 4 ∧ t.sec.refusals = 0 ∧
        t.sec.scopeEnd = some (s.clk.ticks / 8 + rn r 6 % 2 ^ 32 * 600000000) ∧ t.sec.nonce = none ∧
        t.sec.m5 = Config.sha384 (bytesOfNat s.sec.m5.toNat 48 ++ bytesOfWords (rws r 0 31)) ∧
        t = { u with sec := { s.sec with
          scopes := t.sec.scopes, refusals := t.sec.refusals, scopeEnd := t.sec.scopeEnd, nonce := t.sec.nonce, m5 := t.sec.m5
          jtagEnded := t.sec.jtagEnded } }) ∧
    (accepted debugUnlockCmd src s r = true → unlockGood s r = false →
      exec (.debugUnlock src) s = .next (respond { u with sec := { s.sec with
        nonce := none, refusals := min 8 (s.sec.refusals + 1) } } r Status.denied.code 0 [])) ∧
    (frontReq 0x0804 src s = some r → repeated s r = none → sessionCheck u r = none → byFabric r = false → s.dev.recovery = false →
      8 ≤ s.sec.refusals → exec (.debugUnlock src) s = .next (respond { u with sec := { s.sec with nonce := none } } r Status.denied.code 0 [])) ∧
    (accepted debugLockCmd src s r = true → ∃ e, exec (.debugLock src) s = .next (okReply { u with sec := { s.sec with
      scopes := 0, scopeEnd := none, jtagEnded := e } } r []) ∧ ((∃ c, s.sec.jtag = .priv c) → e = true))) ∧
  (∀ (s : State) (e : Nat), s.sec.scopeEnd = some e →
    (e ≤ s.clk.ticks / 8 → ∃ j, exec .debugScopeExpiry s = .next { s with sec := { s.sec with
      scopes := 0, scopeEnd := none, jtagEnded := j } } ∧ ((∃ c, s.sec.jtag = .priv c) → j = true)) ∧
    (s.clk.ticks / 8 < e → exec .debugScopeExpiry s = .next s)) ∧
  (∀ (s : State) (n : BitVec 256) (at_ : Nat), s.sec.nonce = some (n, at_) →
    (at_ + 60000000000 ≤ nowNs s → exec .nonceExpiry s = .next { s with sec := { s.sec with nonce := none } }) ∧
    (nowNs s < at_ + 60000000000 → exec .nonceExpiry s = .next s)) ∧
  ∀ (s : State), auxOn s = true →
    (∀ c, exec (.jtagInstruction (.priv c)) s =
      .next { s with sec := { s.sec with jtag := if s.sec.scopes.getLsbD 2 then .priv c else .bypass, jtagEnded := false } }) ∧
    (∀ k, s.sec.scopes.getLsbD 2 = false ∨ s.sec.jtagEnded = true → jtagShift s k = false) ∧
    ∀ ir, ir ∈ [JtagIr.bypass, .idcode, .samplePreload, .extest] →
      exec (.jtagInstruction ir) s = .next { s with sec := { s.sec with jtag := ir, jtagEnded := false } }) ∧
  (∀ (s : State) (path : SpdmPath), fwRuns s = true → (∀ peer, path = .udp peer → s.sceuf.ipv4 ≠ none) →
    (s.sceuf.forward = none → let x := spdmEx s path
      let ended := fun (y : SpdmEx) => s.sec.spdm.filter (fun z => z.path != path) ++ [y]
      (∀ v c, exec (.spdmRequest path ⟨v, .other c⟩) s = .next { s with out := s.out ++ [.spdm path [x.version, 0x7F, 0x07, c]] }) ∧
      exec (.spdmRequest path ⟨0x10, .getVersion⟩) s = .next { s with
        out := s.out ++ [.spdm path spdmVersions]
        sec := { s.sec with spdm := ended { path := path, stage := 1, version := 0x10, log := [0x10, 0x84] ++ spdmVersions } } } ∧
      (∀ v slot nonce, x.stage < 3 → exec (.spdmRequest path ⟨v, .challenge slot nonce⟩) s =
        .next { s with out := s.out ++ [.spdm path [x.version, 0x7F, 0x04, 0]] }) ∧
      (∀ v idx nonce, 3 ≤ x.stage → v ≠ x.version → exec (.spdmRequest path ⟨v, .getMeasurements idx nonce⟩) s =
        .next { s with out := s.out ++ [.spdm path [x.version, 0x7F, 0x41, 0]] }) ∧
      (∀ idx nonce, 3 ≤ x.stage → let ops := bytesOfNat idx 1 ++ bytesOfNat nonce.toNat 32
        let body := Config.spdmBody 0xE0 (x.version :: ops) (measurements s)
        exec (.spdmRequest path ⟨x.version, .getMeasurements idx nonce⟩) s = .next { s with
          out := s.out ++ [.spdm path (body ++ Config.aliasSign s.sec.m2 s.sec.m3
            (Config.sha384 (x.log ++ x.version :: 0xE0#8 :: ops ++ body)))]
          sec := { s.sec with spdm := ended { path := path, stage := 3, version := x.version, log := [] } } })) ∧
    (s.sceuf.forward ≠ none → ∀ v q, exec (.spdmRequest path ⟨v, q⟩) s =
      .next { s with sec := { s.sec with spdmWait := s.sec.spdmWait ++ [(path, v, q)] } })) ∧
  ∀ (s : State) peer v q, s.sceuf.ipv4 = none → exec (.spdmRequest (.udp peer) ⟨v, q⟩) s = .next s

/-- Power inputs and what they start (14 R409, R410, R424, R425; 16 R446, R447, R450): AUX power brings the module from OFF to AUX
and its loss back; PWR_EN and MAIN_54V begin BOOT when nothing holds it; MAIN_54V out of range, THERMTRIP and a leak enter the
safe state and set the time at which main conversion stops, and there the module takes AUX; straps that change after they were
latched are ignored and counted. On entry to the safe state (13 R386) a module from BOOT onward asserts SAFE_N, poisons the
step in progress unless it has voted, ends the copies that its outputs are sending but for TC7, is in SAFE, says so in a BEACON on every sideband, and writes the mechanism to the
safety log; a module that is in SAFE already, or below BOOT, stays as it is. -/
def Obligations.PowerInputs : Prop :=
  (∀ s : State,
    (auxOn s = true → ∃ t, exec .auxPowerLost s = .next t ∧ t.dev.mode = .off ∧ t.dev.bootStage = 0 ∧ t.sceuf = {} ∧ t.sec.scopes = 0 ∧
      t.ports = [] ∧ t.fab = {} ∧ t.sec.svn = s.sec.svn ∧ t.dev.safetyLog = s.dev.safetyLog ∧ t.ident.latched = false) ∧
    (auxOn s = false → ∃ t, exec .auxPowerGood s = .next t ∧ t.dev.mode = .aux ∧ t.dev.aux12Good = true ∧ t.dev.bootStage = s.dev.bootStage) ∧
    (s.dev.pwrEn = false → bootHeld s = false → s.dev.needPwrToggle = false →
      exec .pwrEnAssert s = .next (setMode { s with dev := { s.dev with
        pwrEn := true, pwrEnLowAt := none, leakHold := false, leakToggled := false, bootStage := 0x03, bootFail := 0
        stageHeld := isFrozen s } } .boot)) ∧
    (∃ t, exec .pwrEnDeassert s = .next t ∧ t.dev.pwrEn = false ∧ t.dev.pwrEnLowAt = some (nowNs s) ∧
      (2 ≤ s.dev.mode.code → t.dev.mode = .aux ∧ t.dev.pwrGood = false)) ∧
    (∃ t, exec .mainPowerGood s = .next t ∧ t.dev.main54Good = true ∧
      (bootHeld { s with dev := { s.dev with main54Good := true } } = false → s.dev.pwrEn = true → s.dev.needPwrToggle = false →
        t.dev.mode = .boot ∧ t.dev.bootStage = 0x03)) ∧
    (∃ t, exec .leakNDeassert s = .next t ∧ t.dev.leakN = true ∧ (t.dev.mode = s.dev.mode ∨ t.dev.mode = .boot)) ∧
    exec .main54vFault s = .next (stopBy (safeEntry { s with dev := { s.dev with main54Good := false, pwrGood := false } } .main54 0) 10000) ∧
    (auxOn s = true →
      exec .leakN s = .next (stopBy (safeEntry { s with dev := { s.dev with
        leakN := false, leakHold := true, leakToggled := false } } .leak 0) 1000000) ∧
      ∀ r, 115 ≤ tjMax r ∨ 105 ≤ r.th.toNat → exec (.thermtrip r) s = .next (stopBy (safeEntry { s with
        dev := { s.dev with thermtripN := false }, power := { s.power with thermtrip := true } } .thermal 0) 100000)) ∧
    (∀ rail, exec (.railFault rail) s = .next (safeEntry { s with dev := { s.dev with pwrGood := false } } .voltage rail)) ∧
    (∀ clock, exec (.clockFault clock) s = .next (safeEntry s .clock clock)) ∧
    exec .managementLockstepMismatch s = .next (safeEntry s .management 0) ∧
    (∀ at_, s.dev.stopAt = some at_ →
      (at_ ≤ nowNs s → exec .mainConversionStop s = .next (mainPowerLost s)) ∧ (nowNs s < at_ → exec .mainConversionStop s = .next s)) ∧
    (2 ≤ s.dev.mode.code → s.dev.stopAt = none → ∀ ns, (stopBy s ns).dev.stopAt = some (nowNs s + ns)) ∧
    ∀ slot h t, let u := { s with ident := { s.ident with slotStrap := slot, hivePresentN := h, twinPresentN := t } }
      exec (.slotChanged slot h t) s = .next (if auxOn s ∧ s.ident.latched = true ∧
        ¬(slot = s.ident.slotStrap ∧ h = s.ident.hivePresentN ∧ t = s.ident.twinPresentN) then count u .slotChanged else u)) ∧
  (∀ (s : State) (m : Mech) (loc : Nat),
    (2 ≤ s.dev.mode.code → s.dev.mode ≠ .safe → let t := safeEntry s m loc
      t.dev.mode = .safe ∧ t.dev.safeN = false ∧ t.dev.safetyLog = s.dev.safetyLog ++ [{ mech := m.no, time := nowNs s, loc := loc }] ∧
      (∀ p, p < 64 → (portOf s p).sb = true → ∃ y, OutEvent.ordered p codeBeacon y ∈ t.sbq ∧ fld y 32 8 = 8 ∧ fld y 16 16 = s.dev.eid.toNat) ∧
      unitsRun t = false ∧ t.fab = s.fab ∧ t.sec = s.sec ∧ t.clk = s.clk ∧
      ((∀ st, s.job.step = some st → st.voted = true) → t.hbm = s.hbm ∧ t.job = s.job ∧ t.comp = s.comp ∧
        ∀ o, o ≤ 80 → ∀ x ∈ (tblGet {} t.comb.egress o).copies, unitNow s < x.doneAt → x.stomp = true ∨ copyTc7 s x = true)) ∧
    (s.dev.mode.code < 2 ∨ s.dev.mode = .safe → safeEntry s m loc = s))

/-- Throttling (14 R420 to R424): the level in force is the greatest of the three; the thermal level jumps to 12, rises or falls
by the thresholds and 1 ms of cool; the cap level rises by one in a period above the cap and falls after ten below 95 percent
of it; the current level is 8 at the limit and falls by one each 1 ms; every level stays within 0 to 12. -/
def Obligations.ThrottleLevels : Prop :=
  (∀ s : State, auxOn s = true →
    (∀ r, s.power.thermAt + 100000 ≤ nowNs s → ∃ t c, exec (.thermalSample r) s = .next { s with power := { s.power with
        levelTherm := t, coolSince := c, thermAt := nowNs s, tj := [r.tj0, r.tj1, r.tj2, r.tj3, r.tjFabric], th := r.th } } ∧
      (105 ≤ tjMax r ∨ 95 ≤ r.th.toNat → t = 12 ∧ c = none) ∧
      (tjMax r < 105 → r.th.toNat < 95 → 100 ≤ tjMax r ∨ 90 ≤ r.th.toNat → t = min 12 (s.power.levelTherm + 1) ∧ c = none) ∧
      (tjMax r < 97 → r.th.toNat < 87 → ∀ at_, s.power.coolSince = some at_ →
        (at_ + 1000000 ≤ nowNs s → t = s.power.levelTherm - 1 ∧ c = some (nowNs s)) ∧
        (nowNs s < at_ + 1000000 → t = s.power.levelTherm ∧ c = some at_)) ∧
      (tjMax r < 97 → r.th.toNat < 87 → s.power.coolSince = none → t = s.power.levelTherm ∧ c = some (nowNs s)) ∧
      (97 ≤ tjMax r ∨ 87 ≤ r.th.toNat → tjMax r < 100 → r.th.toNat < 90 → t = s.power.levelTherm ∧ c = none)) ∧
    (∀ r, nowNs s < s.power.thermAt + 100000 → exec (.thermalSample r) s = .next s) ∧
    exec .currentLimit s = .next { s with power := { s.power with levelCur := 8, currentLowSince := some (nowNs s) } } ∧
    (∀ at_, s.power.currentLowSince = some at_ → 0 < s.power.levelCur → at_ + 1000000 ≤ nowNs s →
      exec .currentLevelDecay s = .next { s with power := { s.power with
        levelCur := s.power.levelCur - 1, currentLowSince := some (nowNs s) } })) ∧
  (∀ (s : State) (r : PowerReading), fwRuns s = true → s.power.capAt + 1000000 ≤ nowNs s → let p := r.pin.toNat
    let read := { s.power with capAt := nowNs s, vin := r.vin, iin := r.iin, pin := r.pin }
    (s.power.cap < p → exec (.powerCapPeriod r) s =
      .next { s with power := { read with levelCap := min 12 (s.power.levelCap + 1), lowPeriods := 0 } }) ∧
    (p ≤ s.power.cap → 95 * s.power.cap ≤ 100 * p → exec (.powerCapPeriod r) s = .next { s with power := { read with lowPeriods := 0 } }) ∧
    (100 * p < 95 * s.power.cap → s.power.lowPeriods + 1 < 10 → exec (.powerCapPeriod r) s =
      .next { s with power := { read with lowPeriods := s.power.lowPeriods + 1 } }) ∧
    (100 * p < 95 * s.power.cap → 10 ≤ s.power.lowPeriods + 1 → exec (.powerCapPeriod r) s =
      .next { s with power := { read with levelCap := s.power.levelCap - 1, lowPeriods := 0 } })) ∧
  ∀ (s t : State) (c : Instr), c = .currentLimit ∨ c = .currentLevelDecay ∨ (∃ r, c = .thermalSample r) ∨ (∃ r, c = .powerCapPeriod r) →
    levelsWithin s = true → exec c s = .next t → levelsWithin t = true

/-- Boot, stage by stage (14 R409, R410, R412; 15 R428, R432; 16 R446, R453): the stage in progress ends as its number, with what
its work leaves; a failure it can have takes the module to AUX with its code; after stage 0x18 the module is READY, or FROZEN
while it is frozen; stage 0x02 takes an image that passes, and asks for an address, or goes to recovery; stage 0x12 notes what the
self-test found, stage 0x13 numbers the clusters of the grade in order with retired ones as holes, stage 0x14 gives a
pseudo-channel that failed training its stack's spare, or keeps it as bad, stage 0x15 clears HBM, and stage 0x17 measures the
calibration and loads the engine's two programs. -/
def Obligations.BootStages : Prop :=
  ∀ (s : State) (r : StageReport),
    (∀ k, nextStage s.dev.bootStage.toNat = some k → stageRuns s k = true → s.dev.recovery = false →
      (r.fail ≠ 0 → r.fail = stageFail k → ∃ t, exec (.bootStageComplete r) s = .next t ∧ t.dev.mode = .aux ∧ t.dev.bootFail = r.fail ∧
        t.dev.needPwrToggle = true ∧ t.dev.pwrGood = false) ∧
      (r.fail = 0 ∨ r.fail ≠ stageFail k → k ∈ [0x10, 0x11, 0x16] → isFrozen s = false → ∃ t, exec (.bootStageComplete r) s = .next t ∧
        t = { s with dev := { s.dev with bootStage := BitVec.ofNat 8 k, stageHeld := false, pwrGood := k == 0x10 || s.dev.pwrGood } }) ∧
      (r.fail = 0 ∨ r.fail ≠ stageFail k → k = 0x15 → ∃ t, exec (.bootStageComplete r) s = .next t ∧ t.dev.bootStage = 0x15 ∧
        t.hbm = { s.hbm with mem := [], errs := [], undef := false }) ∧
      (r.fail = 0 ∨ r.fail ≠ stageFail k → k = 0x12 → ∃ t, exec (.bootStageComplete r) s = .next t ∧ t.dev.bootStage = 0x12 ∧
        let cores := r.cores.filter fun c => decide (c.2 < 17) && !s.comp.retired.contains c.1 && !s.comp.failed.contains c
        let queens := r.clusters.filter fun c => decide (c < 32) && !s.comp.retired.contains c && !s.comp.failedQueens.contains c
        t.comp = { s.comp with failed := s.comp.failed ++ cores, failedQueens := s.comp.failedQueens ++ queens } ∧
        let units := r.units.filter fun u => decide (u < 32) && !s.su.retired.contains u && !s.su.failed.contains u
        t.su = { s.su with failed := s.su.failed ++ units }) ∧
      (r.fail = 0 ∨ r.fail ≠ stageFail k → k = 0x13 → s.comp.failed = [] → s.comp.failedQueens = [] → s.su.failed = [] →
        ∃ t, exec (.bootStageComplete r) s = .next t ∧ t.dev.bootStage = 0x13 ∧ t.su = s.su ∧
          t.comp = { s.comp with clusters := (gradeClusters s).map fun ph => if s.comp.retired.contains ph then none else some ph }) ∧
      (r.fail = 0 ∨ r.fail ≠ stageFail k → k = 0x13 → ∀ ph q, s.comp.failed = [] → s.comp.failedQueens = [ph] → s.su.failed = [] →
        let u := { s with comp := { s.comp with
          failedQueens := [], clusters := (gradeClusters s).map fun x => if s.comp.retired.contains x then none else some x } }
        logicalCluster u ph = some q → ∃ t, exec (.bootStageComplete r) s = .next t ∧ t.dev.bootStage = 0x13 ∧
          t.comp = (retireCluster u q).comp) ∧
      (r.fail = 0 ∨ r.fail ≠ stageFail k → k = 0x14 → r.channels = [] → ∃ t, exec (.bootStageComplete r) s = .next t ∧
        t.dev.bootStage = 0x14 ∧ t.hbm = s.hbm) ∧
      (r.fail = 0 ∨ r.fail ≠ stageFail k → k = 0x14 → ∀ a b, r.channels = [(a, b)] → a < 16 → b < 64 →
        s.hbm.spared.contains (a * 64 + b) = false → s.hbm.keptBad.contains (a * 64 + b) = false →
        ∃ t, exec (.bootStageComplete r) s = .next t ∧ t.dev.bootStage = 0x14 ∧
          t.hbm = if s.hbm.spared.any (fun x => x / 64 == a) then { s.hbm with keptBad := s.hbm.keptBad ++ [a * 64 + b] }
            else { s.hbm with spared := s.hbm.spared ++ [a * 64 + b] }) ∧
      (k = 0x17 → ∃ t, exec (.bootStageComplete r) s = .next t ∧ t.dev.bootStage = 0x17 ∧
        t.sec = { s.sec with m4 := Config.sha384 (List.replicate 48 0#8 ++ Config.calibration) } ∧
        tblGet none t.su.programs 254 = some { code := engineGather } ∧ tblGet none t.su.programs 255 = some { code := enginePass } ∧ t.comp = s.comp ∧ t.hbm = s.hbm) ∧
      (k = 0x01 → r.fail = 0 → ∃ t, exec (.bootStageComplete r) s = .next t ∧ t.dev.bootStage = 1 ∧
        t.sec = { s.sec with m1 := Config.sha384 (List.replicate 48 0#8 ++ Config.bootRom) }) ∧
      (k = 0x02 → r.fail = 0 → ∀ slot, bootSlot s = some slot → ∃ t, exec (.bootStageComplete r) s = .next t ∧ t.dev.bootStage = 2 ∧
        t.dev.recovery = false ∧ t.sec.running = slot ∧ t.sec.fwVersion = slotFw s slot ∧
        t.sec.m2 = Config.sha384 (List.replicate 48 0#8 ++ slotImage s slot) ∧ t.sec.m1 = s.sec.m1 ∧ t.sec.m5 = s.sec.m5 ∧
        t.out = s.out ++ [.dhcp s.ident.serial]) ∧
      (k = 0x02 → r.fail = 0 → bootSlot s = none → ∃ t, exec (.bootStageComplete r) s = .next t ∧ t.dev.recovery = true ∧
        t.dev.bootFail = 7 ∧ t.dev.bootStage = s.dev.bootStage) ∧
      (k = 0x03 → r.fail = 0 → s.ident.latched = false → ∃ t, exec (.bootStageComplete r) s = .next t ∧ t.ident.latched = true ∧
        t.ident.slot = s.ident.slotStrap ∧ t.ident.hivePresent = !s.ident.hivePresentN ∧ t.ident.twinPresent = !s.ident.twinPresentN ∧
        t.dev.eid = defaultEid t) ∧
      (k = 0x18 → isFrozen s = false → r.fail = 0 → ∃ t, exec (.bootStageComplete r) s = .next t ∧ t.dev.mode = .ready ∧
        t.dev.bootStage = 0x18 ∧ t.health.readyAt = some (nowNs s)) ∧
      (k = 0x18 → isFrozen s = true → r.fail = 0 → ∃ t, exec (.bootStageComplete r) s = .next t ∧
        t.dev.mode = .frozen ∧ t.dev.remembered = .ready)) ∧
    (∀ k, nextStage s.dev.bootStage.toNat = some k → stageRuns s k = false → exec (.bootStageComplete r) s = .next s) ∧
    (s.dev.bootStage = 0x18 → exec (.bootStageComplete r) s = .next s)

/-- Arrival of a frame from a link (08 R242, R243, R270; 07 R208, R209, R216, R217, R226, R228; 10 R297, R298, R304; 14 R415): an idle
word begins none; a frozen module discards and counts its words; corrected symbols are counted on their lanes, and after a lost
codeword nothing is taken until an FPOS names a word; a bad frame, or one that comes while RX_STATE is SPARING, is
discarded with FRAME_ERROR, but one whose first word had left before it was found goes on, to be ended; a key the port does not carry with PKEY_INGRESS; a fenced port takes TC7 only; a good frame takes
free cells and one entry on the list of its output, with REF 1, the SC of its arrival and, on an MFP 2.4 link, the source
epoch; without cells a droppable frame is discarded with NO_CELL, a lossless one is charged to HDRM, which pauses
the port's lossless classes, or discarded with LOSSLESS_OVERRUN. What the comb holds about its storage is corrected and counted, or takes the module to the safe state. A
frame of the module's own units (R461, R206, R210; 11 R328) leaves the line of its input, HIGH before NORMAL at a die's ports,
with the source epoch in EPOCH when its owner's cells are to be had, and waits in the line of P0 when they are not. -/
def Obligations.FrameArrives : Prop :=
  (∀ (s : State) (port : Fin 64) (a : Arrival), let p := port.val
    let f := a.frame
    let c := frmCls f
    let n := max 1 ((32 + f.payload.length + 255) / 256)
    let row := exec (.frameIngress (.wire port a)) s
    let v := countCorrected (modPort s p fun q => { q with resync := false }) p a
    let names := (portOf s p).resync = false ∨ a.named = true
    let dropped := fun (k : Nat) => count v .discard (p * 128 + c * 16 + k)
    let ep := if (portOf s p).mfp = 1 then s.fab.srcEpoch else frmEpoch f
    (fld f.w0 0 8 = 0 → row = .next s) ∧
    (fld f.w0 0 8 ≠ 0 → s.dev.frozenPin = true → row = .next { s with dev := { s.dev with frozenRx := s.dev.frozenRx + (5 + (f.payload.length + 7) / 8) } }) ∧
    (fld f.w0 0 8 ≠ 0 → linkTakes s p → (portOf s p).resync = true → a.named = false → row = .next (countCorrected s p a)) ∧
    (fld f.w0 0 8 ≠ 0 → linkTakes s p → names → s.fab.mirror = [] → ingressBad v p a = true → a.cut = false ∨ headBad v p f = true →
      row = .next (if stomped f then count (count v .frameStomped p) .discard (p * 128 + c * 16 + 9) else dropped 9)) ∧
    (fld f.w0 0 8 ≠ 0 → linkTakes s p → names → s.fab.mirror = [] → ingressBad v p a = true → a.cut = true → headBad v p f = false →
      row = .next (takeIn (count (if stomped f then count v .frameStomped p else v) .discard (p * 128 + c * 16 + 9))
        p (8 * p + c) true none { f with payload := f.payload.take (frmLen f) } [] true)) ∧
    (fld f.w0 0 8 ≠ 0 → clocksRun s = true → s.dev.frozenPin = false → (portOf s p).rx = .sparing → s.fab.mirror = [] →
      row = .next (count (countCorrected s p a) .discard (p * 128 + c * 16 + 9))) ∧
    (fld f.w0 0 8 ≠ 0 → linkTakes s p → names → s.fab.mirror = [] → ingressBad v p a = false → s.comb.metaErrs = [] →
      ((c = 7 ↔ frmPkey f ≠ 0) ∨ keyInBit s p (frmPkey f) = false → row = .next (dropped 2)) ∧
      ((c = 7 ↔ frmPkey f = 0) → keyInBit s p (frmPkey f) = true → fenceBit s p = true → c ≠ 7 → row = .next (dropped 4)) ∧
      ((c = 7 ↔ frmPkey f = 0) → keyInBit s p (frmPkey f) = true → fenceBit s p = false ∨ c = 7 →
        (tblGet 0 s.fab.guards (p * 8 + c)).getLsbD 44 = false →
        (canTake s (8 * p + c) 0 n = false → c < 3 → row = .next (dropped 5)) ∧
        (canTake s (8 * p + c) 0 n = false → 3 ≤ c → hdrmSizeOf s p < hdrmUsedAll s p + n → row = .next (dropped 10)) ∧
        (∀ o, canTake s (8 * p + c) 0 n = false → 3 ≤ c → hdrmUsedAll s p + n ≤ hdrmSizeOf s p →
          targetsOf v p true { f with w0 := setFlag f.w0 11 ep } = some [.queue o] → queueTakes v o f →
          ∃ t u ch, row = .next (updatePause t p) ∧ t.fab = s.fab ∧ t.stats = v.stats ∧ t.out = s.out ∧
            ch.length = n ∧ (∀ k ∈ ch, k ∉ usedCells s) ∧ let id := ch.headD 0
            t.comb = { s.comb with frames := t.comb.frames, queues := t.comb.queues, hdrmUsed := t.comb.hdrmUsed, pauseTx := u } ∧
            hdrmUsedOf t p c = hdrmUsedOf s p c + n ∧
            (∀ k, 3 ≤ k → k < 8 → (tblGet {} (updatePause t p).comb.pauseTx p).xoff.getLsbD k = true) ∧
            tblGet [] t.comb.queues ((p * 113 + o) * 8 + c) = tblGet [] s.comb.queues ((p * 113 + o) * 8 + c) ++ [id] ∧
            { chain := ch, frame := f, epoch := ep, ref := 1, owner := 8 * p + c, input := p, cls := c, arrival := scNow s
              colour := 0, marks := [], stomp := false : CFrame } ∈ t.comb.frames) ∧
        (∀ o, canTake s (8 * p + c) 0 n = true → targetsOf v p true { f with w0 := setFlag f.w0 11 ep } = some [.queue o] → queueTakes v o f →
          ∃ t u ch, row = .next (updatePause t p) ∧ t.fab = s.fab ∧ t.stats = v.stats ∧ t.out = s.out ∧
            ch.length = n ∧ (∀ k ∈ ch, k ∉ usedCells s) ∧ let id := ch.headD 0
            t.comb = { s.comb with frames := t.comb.frames, queues := t.comb.queues, used := t.comb.used, pauseTx := u } ∧
            usedOf t (8 * p + c) 0 = usedOf s (8 * p + c) 0 + n ∧
            (∀ k, k ≠ (p * 113 + o) * 8 + c → tblGet [] t.comb.queues k = tblGet [] s.comb.queues k) ∧
            tblGet [] t.comb.queues ((p * 113 + o) * 8 + c) = tblGet [] s.comb.queues ((p * 113 + o) * 8 + c) ++ [id] ∧
            t.comb.frames.filter (fun x => frameId x != id) = s.comb.frames.filter (fun x => frameId x != id) ∧
            { chain := ch, frame := f, epoch := ep, ref := 1, owner := 8 * p + c, input := p, cls := c, arrival := scNow s
              colour := 0, marks := [], stomp := false : CFrame } ∈ t.comb.frames)))) ∧
  (∀ (s : State) (m : CombMeta),
    (s.comb.metaErrs = [(m, false)] →
      combRead s (· == m) = (count { s with comb := { s.comb with metaErrs := [] } } .combSbe, false)) ∧
    (s.comb.metaErrs = [(m, true)] → ∃ t, combRead s (· == m) = (safeEntry t .metadata 0, true) ∧ t = { s with stats := t.stats }) ∧
    (s.comb.metaErrs = [] → combRead s (· == m) = (s, false))) ∧
  (∀ (s : State) (input : Fin 114), clocksRun s = true →
    (pickOrig s input.val = none → exec (.frameIngress (.own input)) s = .next s) ∧
    (∀ o, pickOrig s input.val = some o → o.input = input.val ∧ o.waiting = false ∧ o ∈ s.comb.orig ∧
      (64 ≤ input.val → input.val ≤ 79 → o.high = false → ∀ x ∈ s.comb.orig, x.input = input.val → x.waiting = false → x.high = false)) ∧
    (∀ o, pickOrig s input.val = some o → o.owner < 648 ∨ canTake s o.owner 0 (cellsFor o.frame.payload.length) = true →
      exec (.frameIngress (.own input)) s = .next (takeIn (leftUnit { s with comb := { s.comb with
        orig := s.comb.orig.erase o, rot113 := if input.val = 113 then (o.who + 1) % 66 else s.comb.rot113
        dieRot := dieNext s o } } o.owner o.frame) input.val o.owner false o.toOut (epochStamped s o.frame) [] false)) ∧
    (∀ o, pickOrig s input.val = some o → 648 ≤ o.owner → canTake s o.owner 0 (cellsFor o.frame.payload.length) = false →
      ∃ l, exec (.frameIngress (.own input)) s = .next { s with comb := { s.comb with
        orig := l
        waiters := s.comb.waiters ++ [{ pool := 0, owner := o.owner, what := .origin input.val, since := scNow s }] } } ∧
        { o with waiting := true } ∈ l ∧ l.length = s.comb.orig.length))

/-- How a frame leaves (07 R198, R214, R219 to R222, R203; 08 R239, R243, R258; 10 R297; 06 R161): a copy that has been sent leaves its
output and gives back its reference, but the frame of a leaf of a canonical tree stays in its cells; a copy with a word that came late
is ended with the inverse of its CRC and counts TX_UNDERRUN, and one that was ended reaches no unit but counts FRAME_STOMPED;
arbitration runs once per SCLK cycle and moves the one eligible head to the egress stage, turning both pointers past the pair; the circuit of a VALID slot starts once per slot, unless its port is not up, runs MFP 2.4 or is fenced
(R228; 08 R270), and a slot met while a frame of that circuit is being sent is skipped and counts CAL_OVERRUN; a head frame older than LIFETIME is discarded with cause AGED. -/
def Obligations.FramesLeave : Prop :=
  (∀ (s : State) (o : Fin 113) (late : Bool) (c : Copy) (r : List Copy) (cf : CFrame), let e := tblGet {} s.comb.egress o.val
    let row := exec (.frameSent ⟨o, late⟩) s
    let u := { s with comb := { s.comb with egress := tblSet {} s.comb.egress o.val { e with copies := r } } }
    e.copies = c :: r → heldFrame s c.frame = some cf → clocksRun s = true → s.comb.metaErrs = [] →
    (unitNow s < c.doneAt ∨ (o.val < 64 ∧ (portOf s o.val).tx = .sparing) → row = .next s) ∧
    (c.doneAt ≤ unitNow s → late = true → o.val < 64 → (portOf s o.val).tx ≠ .sparing → row = .next (decRef (emit (count u .txUnderrun o.val)
      (.frame o.val (leaving s o.val (underrun s o.val cf.frame) cf.epoch true) c.circuit)) c.frame o.val)) ∧
    (c.doneAt ≤ unitNow s → 64 ≤ o.val → o.val ≠ 80 → c.stomp = true ∨ cf.stomp = true → row = .next (decRef
      (count (count u .frameStomped o.val) .discard (o.val * 128 + cf.cls * 16 + 9)) c.frame o.val)) ∧
    (c.doneAt ≤ unitNow s → (late = false ∧ o.val < 64 ∧ (portOf s o.val).tx ≠ .sparing) ∨ o.val = 80 → row =
      .next (decRef (emit u (.frame o.val (leaving s o.val cf.frame cf.epoch (c.stomp || cf.stomp)) c.circuit)) c.frame o.val)) ∧
    (∀ k, c.doneAt ≤ unitNow s → 81 ≤ o.val → c.stomp = false → cf.stomp = false → s.su.map[o.val - 81]? = some k →
      k ∉ s.su.failed ++ s.su.retired → attemptGone s (frmPkey cf.frame) = false →
      let q := s.su.queue ++ [(k, cf.frame)]
      (leafOf s c.frame cf.frame = none → row = .next (decRef { u with su := { s.su with queue := q } } c.frame o.val)) ∧
      ∀ l, leafOf s c.frame cf.frame = some l → row = .next { u with su := { s.su with queue := q, leaves := s.su.leaves ++ [l] } }) ∧
    (c.doneAt ≤ unitNow s → 64 ≤ o.val → o.val < 80 → c.stomp = false → cf.stomp = false → frmOp cf.frame ≠ 5 →
      row = .next (decRef { u with comb := { u.comb with localIn := s.comb.localIn ++ [cf.frame] } } c.frame o.val))) ∧
  (∀ (s : State) (id o : Nat) (f : CFrame), s.comb.frames.find? (fun x => frameId x == id) = some f →
    (1 < f.ref → ∃ l, decRef s id o = { s with comb := { s.comb with frames := l } } ∧ l.length = s.comb.frames.length ∧
      l.find? (fun x => frameId x == id) = some { f with ref := f.ref - 1 }) ∧
    (f.ref = 1 → 648 ≤ f.owner → decRef s id o = { s with comb := { s.comb with
      frames := s.comb.frames.filter (fun x => frameId x != id), used := tblMod 0 s.comb.used (f.owner * 4) (· - f.chain.length)
      lastOwner := f.chain.foldl (fun t k => tblSet 0 t k f.owner) s.comb.lastOwner } }) ∧
    (f.ref = 0 → decRef s id o = doubleFree s f.owner o)) ∧
  (∀ s : State, s.comb.arbAt = scNow s + 1 → exec .egressArbitration s = .next s) ∧
  (∀ (s : State) (i o q id : Nat) (r : List Nat) (cf : CFrame), i < 114 → o < 113 → q < 8 → clocksRun s = true → s.comb.arbAt ≠ scNow s + 1 →
    s.fab.calCur = [] → s.fab.mirror = [] → s.comb.queues = [((i * 113 + o) * 8 + q, id :: r)] → heldFrame s id = some cf → cf.marks = [] →
    s.comb.metaErrs = [] → stageEmpty s o = true → eligible s i o q = true → let e := tblGet {} s.comb.egress o
    let done := max (unitNow s) e.freeAt + 8 * (5 + (cf.frame.payload.length + 7) / 8) * byteUnits s o
    ∃ t, exec .egressArbitration s = .next t ∧ t.comb = { s.comb with
      arbAt := scNow s + 1, queues := if r = [] then [] else [((i * 113 + o) * 8 + q, r)]
      egress := tblSet {} s.comb.egress o
        { e with copies := e.copies ++ [{ frame := id, circuit := none, stomp := false, doneAt := done }], freeAt := done, lastStart := scNow s + 1 }
      gp := tblSet 0 s.comb.gp (o * 8 + q) ((i + 1) % 114), ap := tblSet 0 s.comb.ap (i * 8 + q) ((o + 1) % 113) } ∧ t.out = s.out ∧ t.fab = s.fab) ∧
  (∀ (s : State) (o : Fin 113), clocksRun s = true → let e := calOf s o.val (scNow s % 1024)
    let id := fld e 0 12
    (e.getLsbD 12 = false → exec (.calendarSlotStart o) s = .next s) ∧
    (∀ x r, e.getLsbD 12 = true → tblGet [] s.comb.circuitQ (id * 113 + o.val) = x :: r → let g := tblGet {} s.comb.egress o.val
      let sending := ∃ k ∈ g.copies, k.circuit = some id ∧ unitNow s < k.doneAt
      (g.lastStart = scNow s + 1 ∨ g.skipAt = scNow s + 1 → exec (.calendarSlotStart o) s = .next s) ∧
      (g.lastStart ≠ scNow s + 1 → g.skipAt ≠ scNow s + 1 → ¬sending → circuitGo s o.val = false → exec (.calendarSlotStart o) s = .next s) ∧
      (g.lastStart ≠ scNow s + 1 → g.skipAt ≠ scNow s + 1 → ¬sending → circuitGo s o.val = true → stageEmpty s o.val = true → exec (.calendarSlotStart o) s = .next (startCopy
        { s with comb := { s.comb with circuitQ := tblSet [] s.comb.circuitQ (id * 113 + o.val) r } } o.val x (some id))) ∧
      (g.lastStart ≠ scNow s + 1 → g.skipAt ≠ scNow s + 1 → sending → exec (.calendarSlotStart o) s =
        .next (count { s with comb := { s.comb with egress := tblSet {} s.comb.egress o.val { g with skipAt := scNow s + 1 } } } .calOverrun o.val))) ∧
    (circuitGo s o.val = true ↔ (64 ≤ o.val ∨ outUp s o.val = true) ∧ (64 ≤ o.val ∨ (portOf s o.val).mfp ≠ 1) ∧
      (80 < o.val ∨ (fenceBit s o.val = false ∧ s.dev.mode ≠ .safe)))) ∧
  ∀ (s : State) (k : ListKey) (id o : Nat) (u : State) (cf : CFrame), clocksRun s = true → popList s k = some (id, o, u) → heldFrame s id = some cf → s.comb.metaErrs = [] →
    (scNow s < cf.arrival + s.fab.lifetime * 1200 → exec (.frameAged k) s = .next s) ∧
    (cf.arrival + s.fab.lifetime * 1200 ≤ scNow s → s.fab.mirror = [] →
      exec (.frameAged k) s = .next (decRef (count u .discard (o * 128 + frmCls cf.frame * 16 + 6)) id o))

/-- 08 R262: on a link running MFP 3.1, when a class has been paused and no pause word has arrived for 4,096 SCLK cycles, the
receiving side resumes the class and counts PAUSE_EXPIRED; while RX_STATE is SPARING the rule is not applied (10 R304). -/
def Obligations.PauseExpires : Prop :=
  ∀ (s : State) (o : Fin 64) (c : Fin 8), let q := tblGet {} s.comb.pauseRx o.val
    ((portOf s o.val).rx = .sparing → exec (.pauseExpired o c) s = .next s) ∧
    (clocksRun s = true → (portOf s o.val).rx ≠ .sparing → q.xoff.getLsbD c.val = true → (portOf s o.val).mfp = 3 →
    (q.last + 4096 ≤ logicSc s → ∃ x, exec (.pauseExpired o c) s = .next (count { s with comb := { s.comb with
        pauseRx := tblSet {} s.comb.pauseRx o.val { q with xoff := x } } } .pauseExpired o.val) ∧
      ∀ k, k < 8 → x.getLsbD k = (q.xoff.getLsbD k && k != c.val)) ∧
    (logicSc s < q.last + 4096 → exec (.pauseExpired o c) s = .next s))

/-- Pause words (08 R260, R261; 07 R227; 10 R304): a received word sets the pause state of every class of its output, unless the
port is SPARING or down; a port sends at most one in each codeword period, and the next leaves when a period allows it; the state that an
input sends follows its cells: TC0 to TC2 never pause, a lossless class pauses from XOFF_TH on, while HDRM holds cells, or by
the red rule, and resumes below XON_TH; a change, and each 1,024 SCLK cycles of a pause, send a word with PSEQ one higher.
Pools (07 R204 to R211, R214; 11 R333): the oldest waiter of a pool that a request would now serve is served, a chunk's buffer
with REF 1 and its handle; the oldest one older than POOL_WAIT fails, a stream chunk and its pieces with COMB_WAIT, a channel
outside its step with FAULT and cause 4, a FORWARD with NO_RESOURCE. Sampling and statistics (07 R230; 13 R396, R397): once per 1,024 SC each of the 904
output queues adds its depth and its delay to its record; at a boundary, of 1 ms or in STEP mode of a step's end, counters and records move to
the snapshot bank and restart, and SNAP_SEQ goes up. -/
def Obligations.FlowControl : Prop :=
  ((∀ (s : State) (o : Fin 81) (w : Word), clocksRun s = true → takesWords s o.val = true → exec (.pauseWord o w) s = .next { s with comb := { s.comb with
    pauseRx := tblSet {} s.comb.pauseRx o.val { tblGet {} s.comb.pauseRx o.val with
      xoff := w.setWidth 8, pseq := (w >>> 8).setWidth 8, last := logicSc s } } }) ∧
  (∀ (s : State) (p : Fin 81), let q := tblGet {} s.comb.pauseTx p.val
    let q' := { q with pseq := q.pseq + 1, last := logicSc s, period := periodNow s p.val, due := false }
    clocksRun s = true → q.xoff ≠ 0 →
    (q.last + 1024 ≤ logicSc s → pauseOpen s p.val = true → exec (.pauseWordRepeat p) s = .next { s with
      out := s.out ++ [.pause p.val (BitVec.ofNat 64 (q.xoff.toNat + 256 * q'.pseq.toNat))]
      comb := { s.comb with pauseTx := tblSet {} s.comb.pauseTx p.val q' } }) ∧
    (q.last + 1024 ≤ logicSc s → pauseOpen s p.val = false → exec (.pauseWordRepeat p) s = .next { s with comb := { s.comb with
      pauseTx := tblSet {} s.comb.pauseTx p.val { q with due := true } } }) ∧
    (logicSc s < q.last + 1024 → exec (.pauseWordRepeat p) s = .next s)) ∧
  (∀ (s : State) (o : Fin 81) (w : Word), o.val < 64 → (portOf s o.val).rx = .sparing ∨ (portOf s o.val).rx = .down →
    exec (.pauseWord o w) s = .next s) ∧
  (∀ (s : State) (p : Nat), p < 64 → let q := tblGet {} (sendPause s p).comb.pauseTx p
    (pauseOpen s p = true → q.period = periodNow s p ∧ pauseOpen (sendPause s p) p = false ∧ sendPause (sendPause s p) p =
      { sendPause s p with comb := { (sendPause s p).comb with pauseTx := tblSet {} (sendPause s p).comb.pauseTx p { q with due := true } } })) ∧
  ∀ (s : State) (p : Nat), p ≤ 80 → let q := tblGet {} s.comb.pauseTx p
    ∃ x, let u := { s with comb := { s.comb with pauseTx := tblSet {} s.comb.pauseTx p x } }
      updatePause s p = (if x.xoff = q.xoff then u else sendPause u p) ∧ x.pseq = q.pseq ∧ x.last = q.last ∧
      x.period = q.period ∧ x.due = q.due ∧ ∀ c, c < 8 → (x.xoff.getLsbD c = true ↔ 3 ≤ c ∧ (xoffTh s p c ≤ portUsed s p c ∨ 0 < hdrmUsedAll s p ∨
        (xonTh s p c ≤ portUsed s p c ∧ (q.xoff.getLsbD c = true ∨ q.red.getLsbD c = true))))) ∧
  ((∀ (s : State) (pool : Fin 4) (w : Waiter) (c q k : Nat), clocksRun s = true →
    (s.comb.waiters.filter fun w => w.pool == pool.val).find? (waiterOk s) = some w → w.what = .buffer c q k →
    canTake s w.owner pool.val 1 = true → s.comb.metaErrs = [] → ∃ n, exec (.poolWaiterGrant pool) s = .next { s with
      comb := { s.comb with
        waiters := s.comb.waiters.erase w, bufs := s.comb.bufs ++ [{ pool := pool.val, id := n, owner := w.owner, ref := 1 }]
        used := tblMod 0 s.comb.used (w.owner * 4 + pool.val) (· + 1) }
      su := { s.su with granted := s.su.granted ++ [(c, q, k, pool.val * 65536 + n)] } } ∧
      ∀ b ∈ s.comb.bufs, b.pool = pool.val → b.id ≠ n) ∧
  (∀ (s : State) (pool : Fin 4), (∀ w ∈ s.comb.waiters, w.pool = pool.val → waiterOk s w = false) →
    exec (.poolWaiterGrant pool) s = .next s) ∧
  (∀ (s : State) (pool : Fin 4) (w : Waiter), clocksRun s = true →
    (s.comb.waiters.filter fun w => w.pool == pool.val).find?
      (fun w => decide (w.since + tblGet 20 s.fab.poolWait pool.val * 1200 ≤ scNow s)) = some w →
    let u := { s with comb := { s.comb with waiters := s.comb.waiters.erase w } }
    (∀ c q k, w.what = .buffer c q k → exec (.poolWaitExpired pool) s =
      .next (raisePoison (dropPieces (dropChunk u c q k) c q k) .combWait)) ∧
    (∀ i, w.what = .origin i → 680 ≤ w.owner → w.owner < 1000 → waitingOrig u i w.owner = none → s.job.step = none →
      exec (.poolWaitExpired pool) s = .next (modChan u (w.owner - 680) fun x => { x with st := .fault, cause := 4 })) ∧
    (∀ i, w.what = .origin i → 1000 ≤ w.owner → waitingOrig u i w.owner = none → exec (.poolWaitExpired pool) s = .next u) ∧
    (∀ i o fw, w.what = .origin i → 1000 ≤ w.owner → waitingOrig u i w.owner = some o → s.sceuf.forward = some fw →
      forwardFrame fw o.frame = true → exec (.poolWaitExpired pool) s = .next (serveWaiting (respond { u with
        comb := { u.comb with orig := s.comb.orig.erase o }, sceuf := { s.sceuf with forward := none } } fw.req Status.noResource.code 0 [])))) ∧
  ∀ (s : State) (pool : Fin 4), (∀ w ∈ s.comb.waiters, w.pool = pool.val →
    scNow s < w.since + tblGet 20 s.fab.poolWait pool.val * 1200) → exec (.poolWaitExpired pool) s = .next s) ∧
  ((∀ s : State, clocksRun s = true → s.comb.sampAt < scNow s / 1024 → ∃ t, exec .queueSample s = .next t ∧
    (∀ o c, o < 113 → c < 8 → let x := tblGet {} s.comb.samples (o * 8 + c)
      let y := tblGet {} t.comb.samples (o * 8 + c)
      let d := queueDepth s o c
      y.n = x.n + 1 ∧ y.dSum = x.dSum + d ∧ y.lSum = x.lSum + queueDelay s o c ∧ y.dMax = max x.dMax d ∧
      y.dMin = if x.n = 0 then d else min x.dMin d) ∧
    t = { s with comb := { s.comb with samples := t.comb.samples, sampAt := scNow s / 1024 } }) ∧
  (∀ s : State, scNow s / 1024 ≤ s.comb.sampAt → exec .queueSample s = .next s) ∧
  (∀ s : State, clocksRun s = true → let taken := fun step => { s with
      comb := { s.comb with samples := [] }
      stats := { s.stats with
        snapCounters := s.stats.counters, counters := [], snapSamples := s.comb.samples, snapSeq := s.stats.snapSeq + 1
        snapStart := s.stats.start, snapEnd := nowNs s, start := nowNs s, snapMode := step, stepDue := false } }
    (s.stats.stepMode = false ∨ s.job.launch = none → s.stats.start / 1000000 < nowNs s / 1000000 →
      exec .statsBoundary s = .next (taken (s.stats.stepMode && s.stats.stepDue))) ∧
    (s.stats.stepMode = false ∨ s.job.launch = none → nowNs s / 1000000 ≤ s.stats.start / 1000000 → s.stats.stepDue = false →
      exec .statsBoundary s = .next s) ∧
    (s.stats.stepMode = true → s.stats.stepDue = true → exec .statsBoundary s = .next (taken true)) ∧
    (s.stats.stepMode = true → s.job.launch ≠ none → s.stats.stepDue = false → exec .statsBoundary s = .next s)) ∧
  ∀ s : State, (stepBoundary s).stats.stepDue = s.stats.stepMode)

/-- Memory frames at their target (08 Table 8.2; 11 R312, R313, R324, R325, R333, R334; 05 R148; 09 R290; assumptions 19, 20): a double-bit
error in SEL, DIRTY, CLEN or PLEN takes the module to the safe state; a write for the step
after the one in progress waits, one for another step is dropped and counted MEM_STALE, one to an address that does not exist
or of an operation or, for 20 µs after its poison, of an attempt that is gone is dropped, and any other write changes the bytes it names and no other byte; an acknowledgement is taken off the channel that
waits for it; a read is answered with the bytes at its address; read data goes to the destination of the channel that asked, to the
index that it waits for, or to the collective engine, but in SAFE to none of them;
an event sets its bit in every queen. -/
def Obligations.MemoryFrames : Prop :=
  ∀ (s : State) (f : Frame), let u := taken s f
    let a := f.w3.toNat
    (atTarget s f 1 →
      (writeStep s f = .held → exec (.mwrite f) s = .next s) ∧
      (writeStep s f = .stale → exec (.mwrite f) s = .next (count u .memStale)) ∧
      (writeStep s f = .now → abandoned s f = true ∨ attemptGone s (frmPkey f) = true ∨ addrFault s a f.payload.length ≠ 0 →
        exec (.mwrite f) s = .next u) ∧
      (writeStep s f = .now → abandoned s f = false → attemptGone s (frmPkey f) = false → addrFault s a f.payload.length = 0 → metaBad s a f.payload.length = true →
        exec (.mwrite f) s = .next (safeEntry u .metadata a)) ∧
      (s.job.step = none → a + f.payload.length ≤ hbmBytes s → 0 < f.payload.length → a % 4096 + f.payload.length ≤ 4096 →
        (∀ b, regionAt s b = none) → frmSrc f ≠ s.dev.eid.toNat → frmAckreq f = false → Mem.wf s.hbm.mem = true →
        ∃ t, exec (.mwrite f) s = .next t ∧
          (∀ b, hbmByte t b = if a ≤ b ∧ b < a + f.payload.length then f.payload.getD (b - a) 0 else hbmByte s b) ∧
          t = { u with hbm := { s.hbm with mem := t.hbm.mem, errs := t.hbm.errs } })) ∧
    (∀ (st : Step), stepOf s (frmPkey f) = some st → frmPkey f ≠ 0 →
      (frmStep f = (st.seq + 1) % 65536 → writeStep s f = .held) ∧
      (frmStep f ≠ (st.seq + 1) % 65536 → frmStep f ≠ st.seq % 65536 ∨ st.committing = true → writeStep s f = .stale) ∧
      (frmStep f = st.seq % 65536 → st.committing = false → writeStep s f = .now)) ∧
    (atTarget s f 2 →
      (fld f.w3 0 9 < 320 → exec (.mwack f) s =
        .next (modChan u (fld f.w3 0 9) fun c => { c with acks := c.acks.erase (fld f.w3 32 32) })) ∧
      (fld f.w3 0 9 = 320 → exec (.mwack f) s = .next { u with coll := { s.coll with
        ops := s.coll.ops.map fun o => { o with acks := o.acks.erase (fld f.w3 32 32) } } }) ∧
      (320 < fld f.w3 0 9 → exec (.mwack f) s = .next u)) ∧
    (atTarget s f 3 → let n := fld (BitVec.ofNat 64 (natOfBytes (f.payload.take 8))) 0 32
      (addrFault s a n ≠ 0 → exec (.mread f) s = .next u) ∧
      (addrFault s a n = 0 → fld f.w3 40 3 ≠ 3 → metaBad s a n = true → exec (.mread f) s = .next (safeEntry u .metadata a)) ∧
      (a < 2 ^ 40 → a + n ≤ hbmBytes s → 0 < n → n ≤ 4096 → s.hbm.errs = [] → s.hbm.selErrs = [] → s.hbm.lenErrs = [] → frmPkey f ≠ 0 → frmCls f < 6 → frmDtype f ≠ 2 →
        ∃ turn, exec (.mread f) s = .next (originateDie u (a / dieBytes s) turn (mkFrame (frmCls f) (frmPkey f) 0 4 (frmSrc f)
          s.dev.eid.toNat (frmCfid f) (stepField s (frmPkey f)) (frmSeq f) false (BitVec.ofNat 64 (frmCfid f % 512)) (hbmBytes' s a n)))) ∧
      (a < 2 ^ 40 → a + n ≤ hbmBytes s → s.hbm.errs = [] → s.hbm.selErrs = [] → s.hbm.lenErrs = [] → frmPkey f = 0 → frmCls f = 1 → frmCfid f ≠ 1 →
        exec (.mread f) s = .next (emit u (.hostRead (hbmBytes' s a n))))) ∧
    (∀ st p, stepOf s (frmPkey f) = some st → st.poisoned = some p → (attemptGone s (frmPkey f) = true ↔ logicNs s < p.1 + 20000)) ∧
    (atTarget s f 4 → s.dev.mode = .safe → exec (.mrdata f) s = .next s) ∧
    (atTarget s f 4 → s.dev.mode ≠ .safe → let ch := fld f.w3 0 9
      (ch = 320 → exec (.mrdata f) s = .next (collData u f)) ∧
      (ch ≠ 320 → (chanOf s ch).idxRead = some (frmSeq f) → exec (.mrdata f) s = .next (modChan u ch fun c =>
        { c with idxRead := none, idxVal := some (natOfBytes (f.payload.take 4)), moveSince := none })) ∧
      (ch ≠ 320 → (chanOf s ch).idxRead ≠ some (frmSeq f) → (∀ r ∈ (chanOf s ch).reads, r.seq ≠ frmSeq f) →
        exec (.mrdata f) s = .next u) ∧
      (∀ r, ch ≠ 320 → (chanOf s ch).idxRead ≠ some (frmSeq f) → (chanOf s ch).reads = [r] → r.seq = frmSeq f → r.left = f.payload.length → r.copies = 1 → r.eid = none → r.dfix = false →
        exec (.mrdata f) s = .next (modChan (spaceWrite u r.dst f.payload) ch fun c =>
          { c with reads := c.reads.filter (fun x => x.seq != r.seq), moveSince := if (c.reads.filter fun x => x.seq != r.seq).isEmpty
              then some (logicNs s) else c.moveSince }))) ∧
    (atTarget s f 6 → let n := fld (BitVec.ofNat 64 (natOfBytes (f.payload.take 8))) 0 4
      (n = 0 → exec (.event f) s = .next u) ∧
      (0 < n → ∃ t, exec (.event f) s = .next t ∧
        (∀ q, q < 32 → clusterPresent s q = true → queenOf t q = { queenOf s q with evt := (queenOf s q).evt ||| BitVec.ofNat 16 (2 ^ n) }) ∧
        (∀ q, 32 ≤ q ∨ clusterPresent s q = false → queenOf t q = queenOf s q) ∧
        t = { u with comp := { s.comp with queens := t.comp.queens } }))

/-- Step-versioned memory (11 R321 to R323): in a step that is not committing, the first write to a page of a FULL region goes to the
page's other copy; reads see the step's writes; when the step is poisoned every byte of the region reads as before it, and when it
commits every byte reads as the step left it; at 65,536 DIRTY pages of a die the write fails the step with BAD_ARG and ECAUSE 6. A
write to an APPEND region at or above CLEN and within LEN raises PLEN to its end, a commit makes PLEN the new CLEN, a poison gives
PLEN up; one below CLEN or past LEN fails the step with ECAUSE 5; outside a step CLEN and PLEN go up with the write. -/
def Obligations.ShadowPages : Prop :=
  (∀ (s : State) (n a : Nat) (r : BitVec 320) (bs : List Byte), let i := (a - rgBase r) / rgPage r
    s.hbm.regions = [(n, r)] → rgValid r = true → rgAppend r = false → rgBase r ≤ a → a + bs.length ≤ rgBase r + rgLen r →
    rgLen r % rgPage r = 0 → rgBase r % rgPage r = 0 → rgLen r / rgPage r ≤ 2 ^ 20 → a % 4096 + bs.length ≤ 4096 → 0 < bs.length →
    rgBase r + rgLen r ≤ rgShadow r ∨ rgShadow r + rgLen r ≤ rgBase r → writeInStep s (rgKey r) = true →
    tblGet false s.hbm.dirty (pageKey n i) = false → dirtyOnDie s (a / dieBytes s) < 65536 → Mem.wf s.hbm.mem = true →
    tblWf false s.hbm.sel = true → tblWf false s.hbm.dirty = true → let t := hbmWriteBlock s a bs
    ∀ b, rgBase r ≤ b → b < rgBase r + rgLen r →
      hbmByte t b = (if a ≤ b ∧ b < a + bs.length then bs.getD (b - a) 0 else hbmByte s b) ∧
      hbmByte (regionsEnd t (rgKey r) true) b = hbmByte t b ∧
      ((∀ j, tblGet false s.hbm.dirty (pageKey n j) = false) → hbmByte (regionsEnd t (rgKey r) false) b = hbmByte s b)) ∧
  (∀ (s : State) (n a : Nat) (r : BitVec 320) (bs : List Byte), s.hbm.regions = [(n, r)] → rgValid r = true → rgAppend r = false →
    rgBase r ≤ a → a < rgBase r + rgLen r → writeInStep s (rgKey r) = true → tblGet false s.hbm.dirty (pageKey n ((a - rgBase r) / rgPage r)) = false →
    65536 ≤ dirtyOnDie s (a / dieBytes s) → hbmWriteBlock s a bs = failStep s { status := 4, ecause := 6, addr := a }) ∧
  ∀ (s : State) (n a : Nat) (r : BitVec 320) (bs : List Byte), let o := a - rgBase r
    let e := o + bs.length
    let t := hbmWriteBlock s a bs
    let holds := fun (u : State) (c p : Nat) => ∃ x, u.hbm.regions = [(n, x)] ∧ rgClen x = c ∧ rgPlen x = p ∧ rgBase x = rgBase r ∧
      rgLen x = rgLen r ∧ rgKey x = rgKey r ∧ rgAppend x = true ∧ rgValid x = true
    s.hbm.regions = [(n, r)] → rgValid r = true → rgAppend r = true → rgBase r ≤ a → a < rgBase r + rgLen r → 0 < bs.length →
    Mem.wf s.hbm.mem = true →
    (writeInStep s (rgKey r) = true → rgClen r ≤ o → e ≤ rgLen r → holds t (rgClen r) (max (rgPlen r) e) ∧
      holds (regionsEnd t (rgKey r) true) (max (rgPlen r) e) (max (rgPlen r) e) ∧
      holds (regionsEnd t (rgKey r) false) (rgClen r) (rgClen r)) ∧
    (writeInStep s (rgKey r) = false → e ≤ rgLen r → holds t (max (rgClen r) e) (max (rgPlen r) e)) ∧
    (writeInStep s (rgKey r) = false ∨ rgClen r ≤ o → e ≤ rgLen r → ∀ b, hbmByte t b =
      if a ≤ b ∧ b < a + bs.length then bs.getD (b - a) 0 else hbmByte s b) ∧
    (writeInStep s (rgKey r) = true → o < rgClen r ∨ rgLen r < e → t = failStep s { status := 4, ecause := 5, addr := a })

/-- HBM errors and their upkeep (11 Table 11.2, R317, R318): a read of a word with a single-bit error corrects it, counts it, logs
it and delivers the data; one with a double-bit error delivers none; patrol scrub runs once a day and keeps the addresses of
double-bit errors; a finished copy puts the spare in the pseudo-channel's place, with its single-bit errors corrected. What the read
clauses say holds of HBM whose contents are defined and of HBM before boot stage 0x15 alike (assumption 80). -/
def Obligations.HbmErrors : Prop :=
  (∀ (s : State) (w : Nat), s.hbm.regions = [] → w % 8 = 0 → tblGet none s.hbm.errs w = some false → let r := hbmRead s w 8
    r.1 = some (memRead s.hbm.mem w 8) ∧ r.2.hbm.mem = s.hbm.mem ∧ r.2.hbm.corrLog = (s.hbm.corrLog ++ [w]).drop (s.hbm.corrLog.length + 1 - 64) ∧
    r.2.stats = (count s .hbmSbe (locatePc s w)).stats ∧ r.2.hbm.errs = tblSet none s.hbm.errs w none) ∧
  (∀ (s : State) (w : Nat), s.hbm.regions = [] → w % 8 = 0 → tblGet none s.hbm.errs w = some true → let r := hbmRead s w 8
    r.1 = none ∧ r.2.hbm.errLog = s.hbm.errLog ++ [w] ∧ r.2.hbm.mem = s.hbm.mem ∧ r.2.hbm.errs = s.hbm.errs) ∧
  (∀ s : State, clocksRun s = true → s.hbm.undef = false →
    (nowNs s / 86400000000000 < s.hbm.scrubAt → exec .patrolScrub s = .next s) ∧
    (s.hbm.scrubAt ≤ nowNs s / 86400000000000 → s.hbm.errs = [] → exec .patrolScrub s =
      .next { s with hbm := { s.hbm with scrubAt := nowNs s / 86400000000000 + 1, pcErrs := s.hbm.pcErrs.filter (·.2.2) } }) ∧
    (s.hbm.scrubAt ≤ nowNs s / 86400000000000 → ∃ t, exec .patrolScrub s = .next t ∧ t.hbm.mem = s.hbm.mem ∧
      (∀ e ∈ s.hbm.pcErrs, e.2.2 = true → e ∈ t.hbm.pcErrs) ∧ t.hbm.pcErrs.length ≤ s.hbm.pcErrs.length + s.hbm.errs.length)) ∧
  ∀ (s : State) (stack : Fin 16) (channel : Fin 64), let pc := stack.val * 64 + channel.val
    (clocksRun s = true → pc ∈ s.hbm.copying → exec (.pcSpareCopyComplete stack channel) s =
      .next (recomputeHealth { s with hbm := { s.hbm with
        errs := s.hbm.errs.filter fun e => !(e.2 == some false && locatePc s e.1 == pc)
        copying := s.hbm.copying.filter (· != pc), spared := s.hbm.spared ++ [pc], pcErrs := s.hbm.pcErrs.filter fun e => e.1 != pc } })) ∧
    (pc ∉ s.hbm.copying → exec (.pcSpareCopyComplete stack channel) s = .next s)

/-- A poison that a module raises or acts on (13 R373 to R375; 01 R32; 12 R364): a module that has not voted sends the set three
times on every sideband and discards the attempt: the step is poisoned with its time and cause, the attempt count goes up,
votes, digests, staged records and amax are gone, and memory reads as before the step (a double free that the freed buffers
show is logged and moves HEALTH); a double-bit error in the metadata that this reads enters the safe state; one that has voted, the commit rank
excepted, charges the fault to the next step; HOST_ABORT and the eighth poisoned attempt end the launch. POISON sets as they
arrive (13 R373, R374; 14 R415; assumption 124): one for the step in progress of the key that runs here is sent on and acted on; one
for a step already committed under its key counts POISON_LATE, any other POISON_STALE; one for a key that does not run here is not
sent on; while the clocks are stopped the set is held. -/
def Obligations.StepIsPoisoned : Prop :=
  (∀ (s : State) (l : Launch) (st : Step), s.job.launch = some l → s.job.step = some st →
    (∀ c : PCause, s.health.rehearsing = none →
      (st.committing = true ∨ (st.voted = true ∧ isCommitRank s l.pkey = false) →
        raisePoison s c = { s with job := { s.job with chargeNext := some c.code } }) ∧
      (st.committing = false → st.voted = false ∨ isCommitRank s l.pkey = true → raisePoison s c = actPoison { s with
        sbq := s.sbq ++ (sbPorts s).flatMap fun p => List.replicate 3 (.ordered p codePoison (poisonPayload l.pkey st.seq c.code)) } c.code)) ∧
    (∀ cause, cause % 128 ≠ 19 → st.poisoned = none → st.committing = false →
      (st.attempt + 1 < 8 → commitMetaBad s l.pkey = true ∨ chunkMetaBad s l.pkey = true → 2 ≤ s.dev.mode.code → s.dev.mode ≠ .safe →
        (actPoison s cause).dev.mode = .safe ∧ (actPoison s cause).dev.safeN = false) ∧
      (st.attempt + 1 < 8 → commitMetaBad s l.pkey = false → chunkMetaBad s l.pkey = false → let t := actPoison s cause
        (∃ x, t.job.step = some x ∧ x.poisoned = some (logicNs s, cause) ∧ x.attempt = st.attempt + 1 ∧ x.voted = false ∧ x.fail = none ∧
          x.staged = none ∧ x.full = 0 ∧ x.replica = 0 ∧ x.twinMatched = false ∧ x.seq = st.seq ∧ x.authorised = st.authorised) ∧
        t.job.launch = some l ∧ t.job.votes = [] ∧ t.job.amax = [] ∧ t.job.streamFlags = 0 ∧ 
        t.hbm = { (regionsEnd s l.pkey false).hbm with integrityLog := t.hbm.integrityLog } ∧
        t.dev = { s.dev with degraded := t.dev.degraded, replaceRequest := t.dev.replaceRequest, alertN := t.dev.alertN } ∧
        t.host = { s.host with msixPending := t.host.msixPending } ∧ t.fab = s.fab ∧ t.ports = s.ports ∧ t.sbq = s.sbq ∧ t.clk = s.clk ∧
        (s.su.chunks = [] → s.su.granted = [] → s.su.leaves = [] →
          t.hbm = (regionsEnd s l.pkey false).hbm ∧ t.dev = s.dev ∧ t.host = s.host ∧ t.out = s.out)) ∧
      (8 ≤ st.attempt + 1 → (actPoison s cause).job.launch = none ∧
        (s.dev.mode = .active → l.test = false → (actPoison s cause).dev.mode = .joined))) ∧
    (∀ cause, cause % 128 ≠ 19 → st.poisoned.isSome = true ∨ st.committing = true → actPoison s cause = s) ∧
    ∀ cause, cause % 128 = 19 → (actPoison s cause).job.launch = none) ∧
  (∀ (s : State) (rx : SetRx), let v := noteSet s codePoison rx
    let step := fld rx.payload 16 16
    let u := { v with sbq := s.sbq ++ (otherPorts s rx.port.val).flatMap fun p => List.replicate 3 (OutEvent.ordered p codePoison rx.payload) }
    let late := ∃ n, s.job.lastCommit = some (fld rx.payload 0 12, n) ∧ (n + 65536 - step) % 65536 < 32768
    setFresh s codePoison 0xF000 rx →
    (clocksHeld s = true → exec (.poison rx) s = .next { v with dev := { s.dev with heldSets := s.dev.heldSets ++ [rx] } }) ∧
    (clocksHeld s = false → (∀ l, s.job.launch = some l → fld rx.payload 0 12 ≠ l.pkey) →
      (late → exec (.poison rx) s = .next (count v .poisonLate)) ∧ (¬late → exec (.poison rx) s = .next (count v .poisonStale))) ∧
    ∀ l, clocksHeld s = false → s.job.launch = some l →
      ∀ st, fld rx.payload 0 12 = l.pkey → s.job.step = some st →
        (st.seq % 65536 = step → st.committing = false → st.poisoned = none → exec (.poison rx) s = .next (actPoison u (fld rx.payload 32 8))) ∧
        (st.seq % 65536 ≠ step ∨ st.committing = true → late → exec (.poison rx) s = .next (count u .poisonLate)) ∧
        (st.seq % 65536 ≠ step ∨ st.committing = true → ¬late → exec (.poison rx) s = .next (count u .poisonStale)))

/-- Votes and the release (13 R378 to R381, R384; assumption 22): a module votes once per attempt, when its work is complete and
authorised or when it has failed, and ends the step with BAD_ARG when the commit rank has no EID; the commit rank ignores a second vote of a rank, counts one of an old epoch VOTE_STALE, and
with a vote of every rank decides FAIL, TRAP or COMMIT by the first case that applies, sends the RELEASE and acts on it; a module in
SAFE takes none. With REPL_EN the commit rank poisons the step when the REPLICA digests of a class differ; a second difference in
a row makes the decision a FAIL with SAFE_CLASS and the lowest class, whose modules enter the safe state; another module acts on the RELEASE for the attempt it voted for and counts any other RELEASE_STRAY. -/
def Obligations.VotesAndRelease : Prop :=
  (∀ (s : State) (l : Launch) (st : Step), s.job.launch = some l → s.job.step = some st →
    (attemptOpen st = false ∨ (st.fail = none ∧ voteReady s l st = false) → exec .voteSend s = .next s) ∧
    (unitsRun s = true → attemptOpen st = true → st.fail.isSome = true ∨ voteReady s l st = true →
      let inv := stepInvalid s l
      let u := modStep s fun x => { x with voted := true, invalid := inv }
      let status := (st.fail.map (·.status)).getD 0
      (∀ rank, myRank s l.pkey = some rank → isCommitRank s l.pkey = true → exec .voteSend s = .next (takeVote u l st
        { rank := rank, fail := st.fail.isSome, invalid := inv, det := l.det, status := status, replica := st.replica })) ∧
      (rankEid s l.pkey (commitRank s l.pkey) = none → exec .voteSend s =
        .next (endStep u .failed (st.fail.getD { status := Status.badArg.code, ecause := 0 }))) ∧
      (∀ e, isCommitRank s l.pkey = false → rankEid s l.pkey (commitRank s l.pkey) = some e → ∃ rank, (∀ r, myRank s l.pkey = some r → rank = r) ∧ exec .voteSend s = .next (originateMgmt u
        (mkFrame 7 0 0 8 e s.dev.eid.toNat 0 (stepField s l.pkey) 0 false (BitVec.ofNat 64 st.seq)
          (digestPayload s l 2 st.fail.isSome.toNat inv l.det rank false status (fullDigest l st) st.replica))))) ∧
    (∀ (f : Frame), let u := taken s f
      let w := digestWord f 0
      atTarget s f 8 → fld w 0 4 = 2 → fld w 8 12 = l.pkey → isCommitRank s l.pkey = true → f.w3 = BitVec.ofNat 64 st.seq →
      fld (digestWord f 3) 0 32 = l.id.toNat →
      (fld (digestWord f 3) 32 32 < s.dev.epoch.toNat → exec (.vote f) s = .next (count u .voteStale)) ∧
      (s.dev.epoch.toNat ≤ fld (digestWord f 3) 32 32 → attemptGone s l.pkey = true ∨ st.committing = true ∨ s.dev.mode = .safe →
        exec (.vote f) s = .next u) ∧
      (s.dev.epoch.toNat ≤ fld (digestWord f 3) 32 32 → attemptGone s l.pkey = false → st.committing = false → s.dev.mode ≠ .safe →
        exec (.vote f) s = .next (takeVote u l st
        { rank := fld w 20 15, fail := fld w 4 2 == 1, invalid := w.getLsbD 6, det := w.getLsbD 7, status := fld w 36 16, replica := digestWord f 2 }))) ∧
    (∀ (v : Vote), (∃ x ∈ s.job.votes, x.rank = v.rank) ∨ rankCount s l.pkey ≤ v.rank → takeVote s l st v = s) ∧
    (∀ (v : Vote), (∀ x ∈ s.job.votes, x.rank ≠ v.rank) → v.rank < rankCount s l.pkey → replEn s l.pkey = false →
      let u := { s with job := { s.job with votes := s.job.votes ++ [v] } }
      ((∃ r, r < rankCount s l.pkey ∧ ∀ x ∈ u.job.votes, x.rank ≠ r) → takeVote s l st v = u) ∧
      ((∀ r, r < rankCount s l.pkey → ∃ x ∈ u.job.votes, x.rank = r) → ∃ o status sc c f, takeVote s l st v = actRelease (originateMgmt u f) l o status sc c ∧
        frmOp f = 8 ∧ frmDtype f = 2 ∧ frmCls f = 6 ∧ sc = false ∧
        (o = 1 ↔ (∃ x ∈ u.job.votes, x.fail = true) ∨ (∃ x ∈ u.job.votes, x.det ≠ l.det)) ∧
        (o = 2 ↔ (∀ x ∈ u.job.votes, x.fail = false ∧ x.det = l.det) ∧ l.trap = true ∧ ∃ x ∈ u.job.votes, x.invalid = true) ∧
        (o = 0 ∨ o = 1 ∨ o = 2))) ∧
    (∀ (v : Vote), (∀ x ∈ s.job.votes, x.rank ≠ v.rank) → v.rank < rankCount s l.pkey → replEn s l.pkey = true →
      let vs := s.job.votes ++ [v]
      let u := { s with job := { s.job with votes := vs } }
      let cls := fun (x : Vote) => x.rank % 2 ^ replLog s l.pkey
      let differ := fun (k : Nat) => ∃ x ∈ vs, ∃ y ∈ vs, cls x = k ∧ cls y = k ∧ x.replica ≠ y.replica
      let again := s.job.replicaMiss = st.attempt ∧ st.attempt ≠ 0
      let full := ∀ r, r < rankCount s l.pkey → ∃ x ∈ vs, x.rank = r
      ((∃ k, differ k) → ¬again → takeVote s l st v = raisePoison { u with
        job := { u.job with votes := [], replicaMiss := st.attempt + 1 }
        health := { s.health with pendingMiss := s.health.pendingMiss + 1 } } .replicaMismatch) ∧
      ((∀ k, ¬differ k) ∨ again → ¬full → takeVote s l st v = u) ∧
      (∀ k, differ k → (∀ j, j < k → ¬differ j) → again → full → ∃ status f, takeVote s l st v = actRelease (originateMgmt u f) l 1 status true k ∧
        frmOp f = 8 ∧ frmDtype f = 2 ∧ frmCls f = 6) ∧
      ((∀ k, ¬differ k) → full → ∃ o status c f, takeVote s l st v = actRelease (originateMgmt u f) l o status false c ∧
        (o = 1 ↔ (∃ x ∈ vs, x.fail = true) ∨ (∃ x ∈ vs, x.det ≠ l.det)))) ∧
    (∀ (f : Frame), let u := taken s f
      let w := digestWord f 0
      atTarget s f 8 → fld w 0 4 = 3 → frmSrc f ≠ s.dev.eid.toNat → s.dev.mode ≠ .safe →
      (st.voted = true → st.committing = false → st.poisoned = none → fld w 8 12 = l.pkey → f.w3 = BitVec.ofNat 64 st.seq →
        fld (digestWord f 3) 0 32 = l.id.toNat →
        exec (.release f) s = .next (actRelease u l (fld w 4 2) (fld w 36 16) (w.getLsbD 35) (fld w 20 15))) ∧
      (st.voted = false ∨ fld w 8 12 ≠ l.pkey → exec (.release f) s = .next (count u .releaseStray)))) ∧
  ∀ (s : State) (l : Launch) (status cls : Nat) (sc : Bool), actRelease s l 0 status sc cls = commitStep s ∧
    actRelease s l 2 status sc cls = endStep s .trapped { status := 0, ecause := 7 } ∧
    (∀ r, myRank s l.pkey = some r → r % 2 ^ replLog s l.pkey = cls → actRelease s l 1 status true cls = safeEntry s .replica cls) ∧
    (∀ st, s.job.step = some st → sc = false ∨ (∀ r, myRank s l.pkey = some r → r % 2 ^ replLog s l.pkey ≠ cls) →
      actRelease s l 1 status sc cls = endStep s .failed { st.fail.getD { status := status, ecause := 0 } with status := status })

/-- Twin digests (13 R383; 09 R271): the digest goes to port 31 once the step's work is complete, after the vote too where SAFETY is
clear, and the twin's waits for it; a match lets the vote go; without SAFETY a mismatch is counted DIGEST_MISMATCH; with SAFETY it
poisons the step, and a second one in a row enters the safe state; 10 µs without the twin's digest poison the step
with DIGEST_TIMEOUT, and after three in a row the module runs unpaired. -/
def Obligations.TwinDigests : Prop :=
  ∀ (s : State) (l : Launch) (st : Step), s.job.launch = some l → s.job.step = some st → unitsRun s = true → s.health.paired = true →
    (attemptOpen st = true ∨ (l.safety = false ∧ st.voted = true ∧ st.poisoned = none ∧ st.held = false ∧ st.committing = false) →
      st.fail = none → st.twinSent = none → workDone s l = true → st.twinRx = none →
      exec .twinSend s = .next (originateMgmt (modStep s fun x => { x with twinSent := some (logicNs s) })
        (mkFrame 7 0 3 8 31 s.dev.eid.toNat 0 (stepField s l.pkey) 0 false (BitVec.ofNat 64 st.seq)
          (digestPayload s l 1 0 st.invalid l.det 0 false 0 (fullDigest l st) st.replica)))) ∧
    (workDone s l = false → exec .twinSend s = .next s) ∧
    (∀ f : Frame, let u := modStep (taken s f) fun x =>
        { x with twinRx := some (digestWord f 1, f.w3, BitVec.ofNat 32 (fld (digestWord f 3) 0 32)) }
      let good := digestWord f 1 = fullDigest l st ∧ f.w3 = BitVec.ofNat 64 st.seq ∧ fld (digestWord f 3) 0 32 = l.id.toNat
      atTarget s f 8 → fld (digestWord f 0) 0 4 = 1 → (attemptGone s l.pkey = true → exec (.twin f) s = .next (taken s f)) ∧
      (attemptGone s l.pkey = false →
      (st.twinSent = none → exec (.twin f) s = .next u) ∧
      (∀ x, st.twinSent = some x → good → exec (.twin f) s = .next { modStep u fun x => { x with twinMatched := true } with
        health := { s.health with twinTimeouts := 0 } }) ∧
      (∀ x, st.twinSent = some x → ¬good → l.safety = false → exec (.twin f) s =
        .next (count (modStep u fun x => { x with twinMatched := true }) .digestMismatch)) ∧
      (∀ x, st.twinSent = some x → ¬good → l.safety = true → s.job.twinMiss = st.attempt → st.attempt ≠ 0 →
        exec (.twin f) s = .next (safeEntry u .twin 0)) ∧
      (∀ x, st.twinSent = some x → ¬good → l.safety = true → s.job.twinMiss ≠ st.attempt ∨ st.attempt = 0 → exec (.twin f) s =
        .next (raisePoison { u with
          job := { u.job with twinMiss := st.attempt + 1 }
          health := { s.health with pendingMiss := s.health.pendingMiss + 1 } } .digestMismatch)))) ∧
    (∀ x, st.twinSent = some x → l.safety = true → attemptOpen st = true → st.twinRx = none → x + 10000 ≤ logicNs s →
      (s.health.twinTimeouts + 1 < 3 → exec .digestTimeout s =
        .next (raisePoison { s with health := { s.health with twinTimeouts := s.health.twinTimeouts + 1 } } .digestTimeout)) ∧
      (3 ≤ s.health.twinTimeouts + 1 → exec .digestTimeout s = .next (raisePoison (recomputeHealth (count { s with
        health := { s.health with twinLost := true, paired := false, twinTimeouts := 0 } } .twinLost)) .digestTimeout))) ∧
    (∀ x, st.twinSent = some x → logicNs s < x + 10000 → exec .digestTimeout s = .next s)

/-- How a step ends and the next begins (13 R372, R375, R379, R381, R385; 11 R323, R325; 01 R26, R28; 02 R41, R65; 04 R116; 05 R149 to
R151; 06 R182; 12 R365): a commit makes the step's writes the ones that count and releases its token record, and a chunk whose last
pieces wait stays for them; COMMIT_COMPLETE, once the records fit, starts the next step, with the failure that was charged to it,
held queens pass and every flag and locator is cleared, or after the last step, or once every cluster has ended, the launch is
over; a first step that waits for the records starts so too; STEP_WATCHDOG poisons a step that runs past its bound; by REPLAY_START
a poisoned step runs again 20 µs later from its checkpoints, with the resident regions of its program read from HBM again;
LAUNCH_COMPLETE leaves ACTIVE for JOINED. -/
def Obligations.StepsFollow : Prop :=
  (∀ (s : State) (l : Launch), s.job.launch = some l → s.job.step = none → unitsRun s = true → s.job.jobOver = false →
    (recordsFit s = false → exec .commitComplete s = .next s) ∧
    (recordsFit s = true → tablesClean s → ∃ t, exec .commitComplete s = .next t ∧ t.job.launch = some l ∧
      t.job.step = some { seq := l.firstSeq, startL := logicNs s, authorised := l.autocommit } ∧
      t.coll.queue = s.coll.queue ++ l.issues)) ∧
  ∀ (s : State) (l : Launch) (st : Step), s.job.launch = some l → s.job.step = some st →
    (commitMetaBad s l.pkey = true → commitStep s = safeEntry s .metadata 0) ∧
    (commitMetaBad s l.pkey = false → let t := commitStep s
     t.job.step = some { st with committing := true } ∧ t.job.lastCommit = some (l.pkey, st.seq) ∧ t.job.votes = [] ∧ t.job.amax = [] ∧
     t.job.launch = some l ∧ t.hbm = (regionsEnd s l.pkey true).hbm ∧ t.fab = s.fab ∧ t.ports = s.ports ∧ t.su.ctxs = s.su.ctxs ∧
     (∀ c ∈ s.su.chunks, chunkOfJob s l.pkey c = true → c.complete = true → c.out ≠ [] → { c with stepSeq := none } ∈ t.su.chunks) ∧
     t.host.cmplHeld = s.host.cmplHeld ++ [completionBytes s l st .committed { status := 0, ecause := 0 }] ∧
     t.host.tokenHeld = s.host.tokenHeld ++ (st.staged.map fun x => ({
       sample := x, launchId := l.id, s := BitVec.ofNat 32 (st.seq - l.firstSeq + 1), time := nowW s } : TokenRec)).toList) ∧
    (unitsRun s = true → st.committing = true → s.job.jobOver = false →
      (recordsFit s = false → exec .commitComplete s = .next s) ∧
      (recordsFit s = true → s.job.stopRun = true → ∃ t, exec .commitComplete s = .next t ∧ t.job.jobOver = true ∧ t.job.step = some st ∧
        (∀ q, q < 32 → l.cmask.getLsbD q = true → clusterPresent s q = true → (queenOf s q).st = .held → (queenOf t q).st = .run ∧ (queenOf t q).ckpt.isSome = true)) ∧
      (recordsFit s = true → clustersEnded s l = true → l.isRun = false ∨ l.cmask ≠ 0 → ∃ t, exec .commitComplete s = .next t ∧
        t.job.jobOver = true) ∧
      (recordsFit s = true → s.job.stopRun = false → (l.isRun = true ∧ l.cmask = 0) ∨ clustersEnded s l = false → s.job.membershipNext = false →
        s.job.chargeNext = none → tablesClean s → ∃ t, exec .commitComplete s = .next t ∧ t.job.jobOver = false ∧
          t.job.step = some { seq := st.seq + 1, startL := logicNs s, authorised := l.autocommit, fail := s.job.failNext } ∧ t.su.slocs = [] ∧
          (∀ k, (coreOf t k).vflags = 0 ∧ (coreOf t k).invloc0 = 0 ∧ (coreOf t k).invloc1 = 0) ∧
          (∀ q, q < 32 → l.cmask.getLsbD q = true → clusterPresent s q = true → (queenOf s q).st = .held → (queenOf t q).st = .run ∧ (queenOf t q).ckpt.isSome = true))) ∧
    (unitsRun s = true → attemptOpen st = true → let bound := if l.safety then 1000000 else l.stepLimit * 1000
      (bound ≠ 0 → st.startL + bound ≤ logicNs s → exec .stepWatchdog s = .next (raisePoison s .stepWatchdog)) ∧
      (bound = 0 ∨ logicNs s < st.startL + bound → exec .stepWatchdog s = .next s)) ∧
    (∀ at_ cause, unitsRun s = true → st.poisoned = some (at_, cause) →
      (logicNs s < at_ + 20000 ∨ st.held = true → exec .replayStart s = .next s) ∧
      (at_ + 20000 ≤ logicNs s → st.held = false → s.comp.failed = [] → s.su.failed = [] → let res := ((tblGet none s.comp.slots l.slot).map (·.res)).getD []
        let src := fun (e : BitVec 192) (core : Nat) => (fld e 64 64 + core * fld e 128 64) % 2 ^ 64
        res = [] ∨ (s.hbm.errs = [] ∧ s.hbm.selErrs = [] ∧ s.hbm.lenErrs = [] ∧ ∀ e ∈ res, ∀ core, core < 512 → src e core + fld e 24 24 ≤ hbmBytes s) →
        ∃ t full, exec .replayStart s = .next t ∧ t.job.step = some { st with poisoned := none, full := full } ∧ (res = [] → full = st.full) ∧
          (∀ e q i, res = [e] → q < 32 → l.cmask.getLsbD q = true → clusterPresent s q = true → i < 16 → fld e 0 24 + fld e 24 24 ≤ 196608 →
            memRead t.comp.ls ((16 * q + i) * 196608 + fld e 0 24) (fld e 24 24) = hbmBytes' s (src e (16 * q + i)) (fld e 24 24)) ∧
          ∀ q k, q < 32 → l.cmask.getLsbD q = true → clusterPresent s q = true → (queenOf s q).ckpt = some k → let x := queenOf t q
            x.st = .run ∧ x.pc = k.pc ∧ x.loops = k.loops ∧ x.lc = k.lc ∧ x.evt = k.evt ∧ x.sem = k.sem)) ∧
    (unitsRun s = true → s.job.jobOver = true → ∃ t, exec .launchComplete s = .next t ∧ t.job.launch = none ∧ t.job.lastCommit = s.job.lastCommit ∧
      (s.dev.mode = .active → t.dev.mode = .joined)) ∧
    (s.job.jobOver = false → exec .launchComplete s = .next s)

/-- The host's rings (12 R365 to R367; 14 R406): the oldest token record is written once it fits, then the pointer, then vector
64; a completion record that would cross the ring's end is put after a PAD; the space in use counts from the host's pointers. -/
def Obligations.HostRings : Prop :=
  ∀ s : State,
    (s.host.tokenHeld = [] → exec .tokenRecord s = .next s) ∧ (s.host.cmplHeld = [] → exec .completionRecord s = .next s) ∧
    (∀ x r, s.host.tokenHeld = x :: r → ringsRun s = true →
      ((s.host.tokenWptr - s.host.tokenRptr).toNat % 2 ^ s.host.tlog + 64 ≤ 2 ^ s.host.tlog →
        let w := BitVec.ofNat 64 ((s.host.tokenWptr.toNat + 32) % 2 ^ s.host.tlog)
        exec .tokenRecord s = .next { s with
          out := s.out ++ [.hostWrite (s.host.tokenBase + s.host.tokenWptr) (tokenBytes x), .hostWrite s.host.ptrAddr (bytesOfNat w.toNat 8), .msix 64]
          host := { s.host with tokenHeld := r, tokenWptr := w } }) ∧
      (2 ^ s.host.tlog < (s.host.tokenWptr - s.host.tokenRptr).toNat % 2 ^ s.host.tlog + 64 → exec .tokenRecord s = .next s)) ∧
    (∀ x r, s.host.cmplHeld = x :: r → ringsRun s = true → let size := 2 ^ s.host.clog
      let off := s.host.cmplWptr.toNat % size
      let used := (s.host.cmplWptr - s.host.cmplRptr).toNat % size
      (off + x.length ≤ size → used + x.length + 128 ≤ size → let w := BitVec.ofNat 64 ((off + x.length) % size)
        exec .completionRecord s = .next { s with
          out := s.out ++ [.hostWrite (s.host.cmplBase + BitVec.ofNat 64 off) x, .hostWrite (s.host.ptrAddr + 8) (bytesOfNat w.toNat 8), .msix 65]
          host := { s.host with cmplHeld := r, cmplWptr := w } }) ∧
      (size < off + x.length → used + (size - off) + x.length + 128 ≤ size → let w := BitVec.ofNat 64 (x.length % size)
        exec .completionRecord s = .next { s with
          out := s.out ++ [.hostWrite (s.host.cmplBase + BitVec.ofNat 64 off) (padRecord (size - off)), .hostWrite s.host.cmplBase x,
            .hostWrite (s.host.ptrAddr + 8) (bytesOfNat w.toNat 8), .msix 65]
          host := { s.host with cmplHeld := r, cmplWptr := w } }) ∧
      (size < used + x.length + 128 → exec .completionRecord s = .next s))

/-- How a bundle issues (05 R127, R131 to R133, R147): a slot is carried out when the queen runs, the opcode is the row's, and
what comes before it in the bundle is done, else the row leaves the state; every masked core carries it out in turn on its
state before the bundle, a stop of one core ends it as the stop says, after what the cores before it have done; after the last slot the queen goes on, by one or to the
start of the loop whose last bundle this is while turns remain. -/
def Obligations.BundlesIssue : Prop :=
  (∀ (s : State) (l : Launch) (q k op : Nat), let b := (bundleOf s l q).1
    let x := queenOf s q
    s.job.launch = some l → bundleNop b = false →
    (queenIssues s l q = false → issueAt s q k op = none) ∧
    (queenIssues s l q = true → opOf (slotOf b k) = op → x.done.getLsbD k = false → (∀ j ∈ slotsBefore b k, slotDone b x.done j = true) →
      issueAt s q k op = some (s, { q := q, launch := l, pc := x.pc, slot := slotOf b k })) ∧
    (opOf (slotOf b k) ≠ op ∨ x.done.getLsbD k = true ∨ (∃ j ∈ slotsBefore b k, slotDone b x.done j = false) → issueAt s q k op = none)) ∧
  (∀ (s : State) (q : Fin 32) (row : Instr) (k op : Nat) (f : SlotFn), (row, k, op, f) ∈ coreRows q →
    (issueAt s q.val k op = none → exec row s = .next s) ∧
    (∀ u i t, issueAt s q.val k op = some (u, i) → runCores f i (snapOf u q.val) u (bundleMask u i.launch q.val) = .ok t →
      exec row s = .next (slotEnds u t i q.val k)) ∧
    (∀ u i key e v, issueAt s q.val k op = some (u, i) → runCores f i (snapOf u q.val) u (bundleMask u i.launch q.val) = .error (key, e, v) →
      exec row s = .next (applyStop v key e))) ∧
  (∀ (f : SlotFn) (i : Issue) (snap : List Core) (s : State) (key : Nat) (r : List Nat),
    (∀ t, f s i key (snapCore snap key) = .ok t → runCores f i snap s (key :: r) = runCores f i snap t r) ∧
    (∀ e, f s i key (snapCore snap key) = .error e → runCores f i snap s (key :: r) = .error (key, e, s))) ∧
  (∀ (pc : Nat) (evt : BitVec 16) (lc : List (BitVec 32)) (lp : QLoop) (outer : List QLoop),
    let n := (lc.getD outer.length 0).toNat
    let lc' := setAt lc outer.length (BitVec.ofNat 32 (n - 1))
    nextPc pc evt lc [] = (pc + 1, [], lc) ∧ (lp.last ≠ pc → nextPc pc evt lc (lp :: outer) = (pc + 1, lp :: outer, lc)) ∧
    (lp.last = pc → 1 < n → lp.x = false ∨ flag evt lp.ev = false → nextPc pc evt lc (lp :: outer) = (lp.start + 1, lp :: outer, lc')) ∧
    (lp.last = pc → n ≤ 1 ∨ (lp.x = true ∧ flag evt lp.ev = true) → nextPc pc evt lc (lp :: outer) = nextPc pc evt lc' outer)) ∧
  ∀ (u t : State) (i : Issue) (q k : Nat), k < 5 → let b := (bundleOf u i.launch q).1
    let v := modQueen t q fun x => { x with done := setFlag x.done k true, snap := snapOf u q }
    ((∀ j, j < 5 → slotDone b (queenOf v q).done j = true) → slotEnds u t i q k = advanceQueen v q) ∧
    ((∃ j, j < 5 ∧ slotDone b (queenOf v q).done j = false) → slotEnds u t i q k = v)

/-- CONTROL instructions (05 R136, R145, R146, R149, R151, R127; 11 R336): each changes its queen as said and no core but VSET's. -/
def Obligations.QueenControl : Prop :=
  (∀ (s u : State) (q : Fin 32) (i : Issue), let x := queenOf u q.val
    let n := sf i 6 6
    let sem := tblGet 0 x.sem n
    (issueAt s q.val 0 1 = some (u, i) → let p := pReg u (sf i 8 6)
      let lp := loopOf u i
      let count := fun x : Queen => setAt x.lc x.loops.length (p.setWidth 32)
      (2 ^ 32 ≤ p.toNat → exec (.loop q) s = .next (queenFault u i)) ∧
      (p.toNat < 2 ^ 32 → p = 0 ∨ (sf i 25 1 = 1 ∧ flag x.evt (sf i 26 4) = true) → exec (.loop q) s =
        .next (modQueen u q.val fun x => let r := nextPc (sf i 14 11) x.evt (count x) x.loops
          { x with pc := r.1, loops := r.2.1, lc := r.2.2, done := 0, snap := [] })) ∧
      (p.toNat < 2 ^ 32 → p ≠ 0 → sf i 25 1 = 0 ∨ flag x.evt (sf i 26 4) = false → exec (.loop q) s =
        .next (modQueen u q.val fun x => { x with pc := i.pc + 1, loops := lp :: x.loops, lc := count x, done := 0, snap := [] }) ∧
        lp.start = i.pc ∧ lp.last = sf i 14 11)) ∧
    (issueAt s q.val 0 2 = some (u, i) → let amt := sf i 12 8
      let passed := finishControl (modQueen (setSem u q.val n (sem - amt)) q.val fun x => { x with waitSince := none }) i
      (x.waitSince = none → amt ≤ sem → exec (.wait q) s = .next passed) ∧
      (x.waitSince = none → sem < amt → exec (.wait q) s = .next (modQueen u q.val fun x => { x with waitSince := some (logicNs u) })) ∧
      (x.waitSince.isSome = true → exec (.wait q) s = .next u ∧ (amt ≤ sem → exec (.waitRelease q) s = .next passed) ∧
        (sem < amt → exec (.waitRelease q) s = .next u))) ∧
    (issueAt s q.val 0 3 = some (u, i) →
      (sem + sf i 12 8 ≤ 65535 → exec (.signal q) s = .next (finishControl (setSem u q.val n (sem + sf i 12 8)) i)) ∧
      (65535 < sem + sf i 12 8 → exec (.signal q) s = .next (queenFault u i))) ∧
    (issueAt s q.val 0 4 = some (u, i) → exec (.evclr q) s =
      .next (finishControl (modQueen u q.val fun x => { x with evt := setFlag x.evt (sf i 6 4) false }) i)) ∧
    (issueAt s q.val 0 5 = some (u, i) → exec (.vset q) s = .next (finishControl ((bundleMask u i.launch q.val).foldl
      (fun t key => modCore t key fun c => { c with vctrl := BitVec.ofNat 16 (sf i 6 16) &&& 0x7F }) u) i)) ∧
    (issueAt s q.val 0 6 = some (u, i) → exec (.stepb q) s = .next (modQueen u q.val fun x => { x with st := .held })) ∧
    (issueAt s q.val 0 7 = some (u, i) → exec (.endProgram q) s =
      .next (modQueen u q.val fun x => { x with st := .ended, done := 0, snap := [] }))) ∧
  ∀ (s : State) (l : Launch) (q : Fin 32) (since : Nat), s.job.launch = some l → unitsRun s = true → stepRuns s = true →
    l.cmask.getLsbD q.val = true → (queenOf s q.val).waitSince = some since →
    (since + l.waitLimit < logicNs s → exec (.waitTimeout (some q) none) s = .next (raisePoison s .waitTimeout)) ∧
    (logicNs s ≤ since + l.waitLimit → exec (.waitTimeout (some q) none) s = .next s)

/-- Streams, loads and stores, and contexts (05 R123 to R130, Table 5.7, Table 5.10): an element's address is BASE + CI × CSTRIDE
+ position × STEP, or without the last term when FIXED; VLD and VST move 256 bytes, CLD 1,024 from the cluster store; SLD
writes a descriptor at position 0, ADVANCE adds to BASE; CXSET writes a context with amax 0, CXADV adds to its INDEX; outside
its store an access is a program fault. Bytes are read as they stood before a forager's writes of the cycle (04 R108). -/
def Obligations.LoadsAndStreams : Prop :=
  ∀ (s u : State) (q : Fin 32) (i : Issue) (key : Nat), let c := coreBefore u q.val key
    let d := strOf c (sf i 11 4)
    let a := sdBase d + ciOf key * sdCstride d + (if sdFixed d then 0 else d.pos * sdStep d)
    let d' := { d with pos := (d.pos + 1) % sdCount d }
    let fault := failStep u { status := 4, ecause := 2, addr := i.pc, unit := ciOf key }
    (slotOnCore s q.val 1 1 u i key → sdVtype d ≤ 5 →
      (sdSpace d = 0 → a + 256 ≤ 196608 → u.comp.lsErrs = [] → exec (.vld q) s = .next (slotEnds u (putStream
        (putV u key (sf i 6 5) (BitVec.ofNat 2048 (natOfBytes (storeBytes u key 0 a 256)))) key (sf i 11 4) d') i q.val 1)) ∧
      (sdSpace d = 1 → a + 256 ≤ 4194304 → u.comp.csErrs = [] → exec (.vld q) s = .next (slotEnds u (putStream
        (putV u key (sf i 6 5) (BitVec.ofNat 2048 (natOfBytes (storeBytes u key 1 a 256)))) key (sf i 11 4) d') i q.val 1)) ∧
      (sdSpace d = 0 → 196608 < a + 256 → exec (.vld q) s = .next fault) ∧ (1 < sdSpace d → exec (.vld q) s = .next fault)) ∧
    (slotOnCore s q.val 1 2 u i key → sdVtype d ≤ 5 →
      (sdSpace d = 0 → a + 256 ≤ 196608 → exec (.vst q) s = .next (slotEnds u (putStream
        (lsCoreWrite u key a (bytesOfNat (vOf c (sf i 6 5)).toNat 256)) key (sf i 11 4) d') i q.val 1)) ∧
      (sdSpace d ≠ 0 → exec (.vst q) s = .next fault)) ∧
    (slotOnCore s q.val 1 3 u i key → let da := strOf c (sf i 6 4)
      let db := strOf c (sf i 10 4)
      let ea := element da (ciOf key)
      let eb := element db (ciOf key)
      sdVtype da ≤ 5 → sdVtype db ≤ 5 → sdSpace da = 1 → sdSpace db = 0 → ea.1 + 1024 ≤ 4194304 → eb.1 + 1024 ≤ 196608 → u.comp.csErrs = [] →
      exec (.cld q) s = .next (slotEnds u (putStream (putStream
        (lsCoreWrite u key eb.1 (storeBytes u key 1 ea.1 1024)) key (sf i 6 4) ea.2) key (sf i 10 4) eb.2) i q.val 1)) ∧
    (slotOnCore s q.val 4 1 u i key → let p := sf i 10 6
      exec (.sld q) s = .next (slotEnds u (putStream u key (sf i 6 4)
        { word := ofWords 192 [pReg u p, pReg u (p + 1), pReg u (p + 2)], pos := 0, off := 0, u := 0, last := 0 }) i q.val 4)) ∧
    (slotOnCore s q.val 4 2 u i key → let old := strOf (coreOf u key) (sf i 6 4)
      exec (.advance q) s = .next (slotEnds u (putStream u key (sf i 6 4)
        { word := setFld old.word 0 24 ((sdBase old + (pReg u (sf i 10 6)).toNat) % 2 ^ 24), pos := 0, off := 0, u := 0, last := 0 }) i q.val 4)) ∧
    (slotOnCore s q.val 4 8 u i key → let p := sf i 8 6
      exec (.cxset q) s = .next (slotEnds u (putCx u key (sf i 6 2)
        { word := ofWords 256 [pReg u p, pReg u (p + 1), pReg u (p + 2), pReg u (p + 3)], amax := 0 }) i q.val 4)) ∧
    (slotOnCore s q.val 4 9 u i key → let x := cxOf c (sf i 6 2)
      exec (.cxadv q) s = .next (slotEnds u (putCx u key (sf i 6 2)
        { x with word := setFld x.word 64 64 (wordAt x.word 1 + pReg u (sf i 8 6)).toNat }) i q.val 4))

/-- VECTOR instructions (05 R139, R140, Table 5.9; 02 R54, R62, R458): the lane-wise operations on FP32 or FP64 write each lane's
result and raise its flags; VCMP writes all ones or zeros, VSEL selects by a mask, VFUNC computes its four functions in FP32,
VCVT converts, to FP8 by the scale of its context or the one chosen of its lanes, with saturation where VCTRL says so, and
gathers amax, VRED reduces along the canonical tree into lane 0, VMISC by its variant; any other type or
variant is a program fault. -/
def Obligations.VectorResults : Prop :=
  ∀ (s u : State) (q : Fin 32) (i : Issue) (key : Nat), let c := coreBefore u q.val key
    let rm := vcRm c.vctrl
    let ftz := vcFtz c.vctrl
    let fault := failStep u { status := 4, ecause := 2, addr := i.pc, unit := ciOf key }
    let writes := fun (w : Nat) (rs : List Fr) => slotEnds u (putLanes u i key c w rs) i q.val 3
    (∀ row op f, (row, op, f) ∈ arithRows q → slotOnCore s q.val 3 op u i key →
      (∀ t, arithTy i = some t → exec row s = .next (writes (tyWidth t)
        ((zip3 (source i c t (sf i 11 5)) (source i c t (sf i 16 5)) (source i c t (sf i 21 5))).map fun x =>
          ftzOut ftz t (f t rm x.1 x.2.1 x.2.2)))) ∧
      (arithTy i = none → exec row s = .next fault)) ∧
    (∀ t, slotOnCore s q.val 3 0x0B u i key → arithTy i = some t → ∃ rs : List Fr, exec (.vcmp q) s = .next (writes (tyWidth t) rs) ∧
      rs.map (·.code) = ((source i c t (sf i 11 5)).zip (source i c t (sf i 16 5))).map fun x =>
        if (fCompare t (vecVar i % 8) (vecVar i / 8 % 2 == 1) x.1 x.2).1 then 2 ^ tyWidth t - 1 else 0) ∧
    (∀ t, slotOnCore s q.val 3 0x0C u i key → arithTy i = some t → let w := tyWidth t
      ∃ v, exec (.vsel q) s = .next (slotEnds u (putV u key (sf i 6 5) v) i q.val 3) ∧ ∀ k, k < 2048 / w →
        let lane := fun (reg : Nat) => ftzIn ftz t (nfld (vOf c (sf i reg 5)).toNat (w * k) w)
        nfld v.toNat (w * k) w = if lane 21 = 2 ^ w - 1 then lane 11 else lane 16) ∧
    (slotOnCore s q.val 3 0x0D u i key → vecTy i = some .fp32 → ∀ f, [exp32, rcp32, rsq32, logistic32][vecVar i]? = some f →
      exec (.vfunc q) s = .next (writes 32 ((lanesOf (vOf c (sf i 11 5)) 32 64).map fun x => ftzOut ftz .fp32 (f (ftzIn ftz .fp32 x))))) ∧
    (slotOnCore s q.val 3 0x0D u i key → vecTy i ≠ some .fp32 ∨ 3 < vecVar i → exec (.vfunc q) s = .next fault) ∧
    (∀ st t, slotOnCore s q.val 3 0x0E u i key → vecTy i = some st → tyOf (sf i 34 3) = some t → isFp8 t = false →
      let k := sf i 37 2
      let x := cxOf c k
      let n := min (laneCount st) (laneCount t)
      let vs := (lanesOf (vOf c (sf i 11 5)) (tyWidth st) n).map (decodeVal st)
      ∃ rs : List Fr, exec (.vcvt q) s = .next (slotEnds u (putLanes
          (putCx u key k (cxAdvance (gatherAmax x t vs) (BitVec.ofNat 64 n))) i key c (tyWidth t) rs) i q.val 3) ∧
        rs.map (·.code) = vs.zipIdx.map fun e =>
          (convVal t (roundingOf c.vctrl i.launch.seed x t (cxBase x (ciOf key) + BitVec.ofNat 64 e.2)) false 0 e.1).code) ∧
    (∀ st t, slotOnCore s q.val 3 0x0E u i key → vecTy i = some st → tyOf (sf i 34 3) = some t → isFp8 t = true →
      let k := sf i 37 2
      let x := cxOf c k
      let n := min (laneCount st) (laneCount t)
      let vs := (lanesOf (vOf c (sf i 11 5)) (tyWidth st) n).map (decodeVal st)
      let scale := scaleOf c.vctrl x t vs
      (vcTileScale c.vctrl = false → scale = cxScale x) ∧
      (vcTileScale c.vctrl = true → (∃ v ∈ vs, v.isNan = true ∨ v.isInf = true) → scale = 255) ∧
      (vcTileScale c.vctrl = true → (∀ v ∈ vs, ∃ n e, v = .fin n 0 e) → scale = 127) ∧
      ∃ rs : List Fr, exec (.vcvt q) s = .next (slotEnds u (putLanes
          (putCx u key k (cxAdvance (gatherAmax x t vs) (BitVec.ofNat 64 n))) i key c (tyWidth t) rs) i q.val 3) ∧ rs.length = vs.length ∧
        ∀ j v r, vs[j]? = some v → rs[j]? = some r →
          (scale = 255 → (decodeVal t r.code).isNan = true) ∧
          (scale ≠ 255 → r.code = (convVal t (roundingOf c.vctrl i.launch.seed x t (cxBase x (ciOf key) + BitVec.ofNat 64 j))
            (vcSat c.vctrl t) (127 - (scale : Int)) v).code) ∧
          (v.isSnan = true → r.fl.inv = true ∧ r.cause = 3)) ∧
    (∀ t, slotOnCore s q.val 3 0x0F u i key → arithTy i = some t →
      let ls := ((lanesOf (vOf c (sf i 11 5)) (tyWidth t) (laneCount t)).map (ftzIn ftz t)).map fun x => (⟨x, {}, 0⟩ : Fr)
      (vecVar i = 0 → exec (.vred q) s = .next (writes (tyWidth t)
        [canonTree (frPair fun a b => ftzOut ftz t (fAdd t rm a b)) ⟨0, {}, 0⟩ ls])) ∧
      (vecVar i = 1 → exec (.vred q) s = .next (writes (tyWidth t) [canonTree (frPair (fMaxMin t true)) ⟨0, {}, 0⟩ ls])) ∧
      (vecVar i = 2 → exec (.vred q) s = .next (writes (tyWidth t) [canonTree (frPair (fMaxMin t false)) ⟨0, {}, 0⟩ ls])) ∧
      (vecVar i = 3 → exec (.vred q) s = .next (writes (tyWidth t) [canonTree (frPair (fMaxMin t true)) ⟨0, {}, 0⟩
        (ls.map fun r => if (decodeVal t r.code).isNan then r else ⟨absCode t r.code, {}, 0⟩)])) ∧
      (3 < vecVar i → exec (.vred q) s = .next fault)) ∧
    (∀ t, slotOnCore s q.val 3 0x10 u i key → arithTy i = some t →
      let lanes := fun (reg : Nat) => (lanesOf (vOf c (sf i reg 5)) (tyWidth t) (laneCount t)).map (ftzIn ftz t)
      (vecVar i ≤ 18 → vecVar i ≠ 15 → vecVar i ≠ 16 → exec (.vmisc q) s = .next (writes (tyWidth t)
        (((lanes 11).zip (lanes 16)).map fun x => ftzOut (ftz && decide (vecVar i < 14)) t (miscLane t rm (vecVar i) x.1 x.2)))) ∧
      (vecVar i = 15 → exec (.vmisc q) s = .next (writes 64
        ((lanesOf (vOf c (sf i 11 5)) (tyWidth t) 32).map fun a => fToInt t rm true a))) ∧
      (vecVar i = 16 → exec (.vmisc q) s = .next (writes (tyWidth t) ((lanesOf (vOf c (sf i 11 5)) 64 32).map fun a => fFromInt t rm a))) ∧
      (19 ≤ vecVar i → vecVar i ≤ 28 → exec (.vmisc q) s = .next (writes 64
        ((lanesOf (vOf c (sf i 11 5)) (tyWidth t) 32).map fun a => fToInt t (intRm ((vecVar i - 19) % 5)) (decide (24 ≤ vecVar i)) a))) ∧
      (28 < vecVar i → exec (.vmisc q) s = .next fault))

/-- Codes, tiles and segments (02 R34, R46; 03 R74 to R76, R83, R88): rounding the value of any finite code of any format gives
that code back, in every direction, with saturation or without, and raises no flag; a tile encoded for a LIST tensor is ZERO,
LIST or the fallback as R88 chooses, passes every check of Table 3.6, and holds the positions that were not zero; the segments of
a band hold no row beyond 2,048 positions, and none could take its next tile. -/
def Obligations.FormatsRoundTrip : Prop :=
  (∀ (t : Ty) (rm : Rm) (sat : Bool) (code : Nat) (n : Bool) (m : Nat) (e : Int), code < 2 ^ tyWidth t → decodeVal t code = .fin n m e →
    roundVal t rm sat n m e = ⟨code, {}, 0⟩) ∧
  (∀ (vtype scale : Nat) (ps : List Pos), vtype ≤ 3 → scale < 256 → (2 ≤ vtype → scale = 0x7F) →
    ascending (ps.map fun p => 32 * p.r + p.c) = true → (∀ p ∈ ps, p.r < 32 ∧ p.c < 32 ∧ p.v < 2 ^ (8 * vtBytes vtype)) →
    let bs := encodeList vtype scale ps
    let h := BitVec.ofNat 64 (natOfBytes (bs.take 8))
    let stored := ps.filter fun p => !zeroCode vtype p.v
    let n := stored.length
    let dense := 8 + 1024 * vtBytes vtype
    let list := roundUp (8 + n * vtBytes vtype + ceilDiv (10 * n) 8) 8
    (n = 0 → thFormat h = 0 ∧ thScale h = 0x7F ∧ thCount h = 0 ∧ bs.length = 8) ∧
    (n ≠ 0 → dense ≤ list → thFormat h = 1 ∧ thFb h = true ∧ thScale h = scale ∧ thCount h = n ∧ bs.length = dense) ∧
    (n ≠ 0 → list < dense → thFormat h = 4 ∧ thFb h = false ∧ thScale h = scale ∧ thCount h = n ∧ bs.length = list) ∧
    thVtype h = vtype ∧ tileLen h = bs.length ∧ tilePositions bs h 32 32 = stored ∧ tileCheck h (maskDisallowed h) stored 32 32 = 0) ∧
  ∀ tiles : List (List Nat), (∀ x ∈ tiles, x.length = 32 ∧ ∀ n ∈ x, n ≤ 32) → let starts := segments tiles
    let held := fun a b r => ((tiles.drop a).take (b - a)).foldl (fun n x => n + x.getD r 0) 0
    starts.head? = some 0 ∧ ascending starts = true ∧ (∀ t ∈ starts, t = 0 ∨ t < tiles.length) ∧
    ∀ k a, starts[k]? = some a →
      (∀ r, r < 32 → held a (starts.getD (k + 1) tiles.length) r ≤ 2048) ∧
      ∀ b, starts[k + 1]? = some b → ∃ r, r < 32 ∧ 2048 < held a (b + 1) r

/-- Sums are exact (02 R42 to R44, R51; 04 R101, R118; 06 R171, R172, R192; 09 R103, R284): a partial of an FP8, FP16 or FP32 sum
adds its exact value, scaled, to the entry's 320-bit sum, so that two folds come to the same entry in either order, and while
the sum fits the residue check holds; a BF16 partial is added in FP32 to the entry's sum; a stream accumulator holds the exact sum of its terms whatever their order, a raw record
that comes is the one that was sent, and joining partials gives what adding their terms gives. -/
def Obligations.SumsAreExact : Prop :=
  (∀ (e : FoldE) (p q : Partial) (a b : Int), e.mode = false → -144 ≤ a → a ≤ 63 → -144 ≤ b → b ≤ 63 → e.folds + 2 ≤ 16777216 →
    let add := p.sum * 2 ^ (a + 144).toNat
    let f := (foldPartial e false a p).1
    (foldPartial e false a p).2 = 0 ∧ f.folds = e.folds + 1 ∧ f.nan = (e.nan || p.nan) ∧
    (-(2 ^ 319) ≤ e.value + add → e.value + add < 2 ^ 319 → f.value = e.value + add ∧ (residueOk e = true → residueOk f = true)) ∧
    (foldPartial (foldPartial e false a p).1 false b q).1 = (foldPartial (foldPartial e false b q).1 false a p).1) ∧
  (∀ (e : FoldE) (p : Partial), e.mode = true → e.folds < 16777216 → let f := (foldPartial e true 0 p).1
    (foldPartial e true 0 p).2 = 0 ∧ f.folds = e.folds + 1 ∧ f.value = ((fAdd .fp32 .nearest e.value.toNat p.sum.toNat).code : Int) ∧
    f.nan = (e.nan || p.nan) ∧ f.pinf = (e.pinf || p.pinf) ∧ f.ninf = (e.ninf || p.ninf)) ∧
  (∀ e : FoldE, e.folds < 2 ^ 25 → e.split < 65536 → (if e.mode then 0 ≤ e.value ∧ e.value < 2 ^ 32 else -(2 ^ 319) ≤ e.value ∧ e.value < 2 ^ 319) →
    e.residue < 256 → foldOf (foldWord e) = e) ∧
  (∀ (t : Ty) (a b : SAcc), a.residue < 255 → b.residue < 255 →
    (∀ x y : Val, accAdd t (accAdd t a x) y = accAdd t (accAdd t a y) x) ∧
    (∀ x : Val, accJoin (accAdd t a x) b = accAdd t (accJoin a b) x) ∧ accJoin a b = accJoin b a ∧
    (∀ x : Val, accOk a = true → accOk (accAdd t a x) = true) ∧ (accOk a = true → accOk b = true → accOk (accJoin a b) = true) ∧
    (∀ n m e, accLsb t ≤ e → let c := accAdd t a (.fin n m e)
      c.value = a.value + (if n then -(m : Int) else m) * 2 ^ (e - accLsb t).toNat ∧ c.nan = a.nan ∧ c.pinf = a.pinf ∧ c.ninf = a.ninf ∧
        (m ≠ 0 → accEmpty c = false ∧ c.allNegZero = false ∧ c.allPosZero = false)) ∧
    (∀ n, n = (if narrowAcc t then 12 else 40) → -(2 ^ (8 * n - 1)) ≤ a.value → a.value < 2 ^ (8 * n - 1) → accOfRaw t (rawOf t a) = a) ∧
    ((rawOf t a).length = rawBytes t) ∧
    (∀ d r sat, a.nan = false → a.pinf = false → a.ninf = false → a.value ≠ 0 →
      accRead t d r sat 0 a = roundBy d r sat (decide (a.value < 0)) a.value.natAbs (accLsb t)))

/-- Fold entries by instruction (04 R101 to R103; 05 R144, Table 5.10): FCLR clears a range, FRD rounds a range into a register, to FP8 by
a scale that goes to byte 255, and with FP8 or BF16 its context gathers amax and goes on; FEXP stores the raw records of a range, 48
bytes each, one per element; FADD joins one per element to the entries of a range; a range past entry 255 is a program fault. -/
def Obligations.FoldInstructions : Prop :=
  ∀ (s u : State) (q : Fin 32) (i : Issue) (key : Nat), let c := coreBefore u q.val key
    let a := sf i 6 8
    let fault := failStep u { status := 4, ecause := 2, addr := i.pc, unit := ciOf key }
    (slotOnCore s q.val 4 3 u i key → let n := sf i 14 8 + 1
      (a + n ≤ 256 → exec (.fclr q) s = .next (slotEnds u ((List.range n).foldl (fun t k => modCore
        (putFold t key (a + k) { mode := sf i 22 1 == 1 }) key fun c => { c with early := c.early.filter fun e => e.1 != a + k }) u) i q.val 4)) ∧
      (256 < a + n → exec (.fclr q) s = .next fault)) ∧
    (slotOnCore s q.val 4 4 u i key → let n := sf i 14 6 + 1
      let es := (List.range n).map fun k => foldOf (tblGet clearedFold c.fold (a + k))
      (∀ t, tyOf (sf i 25 3) = some t → t = .fp32 ∨ (t = .fp64 ∧ n ≤ 32) → a + n ≤ 256 → (∀ e ∈ es, residueOk e = true) →
        let rs := es.map (foldRead t (.dir (vcRm c.vctrl)) false 0)
        exec (.frd q) s = .next (slotEnds u (raiseLanes (putV u key (sf i 20 5) (packLanes (tyWidth t) (rs.map (·.code)))) i key c rs) i q.val 4)) ∧
      (∀ t, tyOf (sf i 25 3) = some t → t = .fp16 ∨ t = .bf16 → a + n ≤ 256 → (∀ e ∈ es, residueOk e = true) →
        let x := cxOf c (sf i 28 2)
        let rs := es.zipIdx.map fun e => foldRead t (roundingOf c.vctrl i.launch.seed x t (cxBase x (ciOf key) + BitVec.ofNat 64 e.2)) false 0 e.1
        let v := raiseLanes (putV u key (sf i 20 5) (packLanes 16 (rs.map (·.code)))) i key c rs
        exec (.frd q) s = .next (slotEnds u (if t = .bf16 then
          putCx v key (sf i 28 2) (cxAdvance (gatherAmax x t (es.map fun e => (foldVal e).1)) (BitVec.ofNat 64 n)) else v) i q.val 4)) ∧
      (∀ t, tyOf (sf i 25 3) = some t → isFp8 t = true → a + n ≤ 256 → (∀ e ∈ es, residueOk e = true) →
        let x := cxOf c (sf i 28 2)
        let vs := es.map fun e => (foldVal e).1
        let scale := scaleOf c.vctrl x t vs
        (vcTileScale c.vctrl = false → scale = cxScale x) ∧
        ∃ rs : List Fr, exec (.frd q) s = .next (slotEnds u (putCx
            (raiseLanes (putV u key (sf i 20 5) (setFld (packLanes 8 (rs.map (·.code))) 2040 8 scale)) i key c rs)
            key (sf i 28 2) (cxAdvance (gatherAmax x t vs) (BitVec.ofNat 64 n))) i q.val 4) ∧ rs.length = n ∧
          (scale = 255 → ∀ r ∈ rs, r.code = defaultNan t) ∧
          (scale ≠ 255 → rs = es.zipIdx.map fun e => foldRead t
            (roundingOf c.vctrl i.launch.seed x t (cxBase x (ciOf key) + BitVec.ofNat 64 e.2)) (vcSat c.vctrl t) (127 - (scale : Int)) e.1)) ∧
      (∀ t, tyOf (sf i 25 3) = some t → 256 < a + n → exec (.frd q) s = .next fault) ∧
      (∀ t, tyOf (sf i 25 3) = some t → a + n ≤ 256 → (t = .fp64 → n ≤ 32) → (∃ e ∈ es, residueOk e = false) →
        let ph := physCluster u (clusterOf key)
        (key < 512 → exec (.frd q) s = .next (coreFails u ph (physOfKey u key))) ∧
        (512 ≤ key → exec (.frd q) s = .next (raisePoison (spareUnavailable u ph) .coreFail)))) ∧
    (slotOnCore s q.val 4 5 u i key → let d := strOf c (sf i 20 4)
      let x := element d (ciOf key)
      sf i 14 6 = 0 → sdVtype d ≤ 5 → sdSpace d = 0 → x.1 + 48 ≤ 196608 → exec (.fexp q) s = .next (slotEnds u (putStream
        (lsCoreWrite u key x.1 (bytesOfNat (tblGet clearedFold c.fold a).toNat 48)) key (sf i 20 4) x.2) i q.val 4)) ∧
    (slotOnCore s q.val 4 5 u i key → let d := strOf c (sf i 20 4)
      let n := sf i 14 6 + 1
      let el := elements d (ciOf key) n
      (a + n ≤ 256 → sdVtype d ≤ 5 → sdSpace d = 0 → (∀ x ∈ el.1, x + 48 ≤ 196608) → exec (.fexp q) s = .next (slotEnds u (putStream
        (el.1.zipIdx.foldl (fun t e => lsCoreWrite t key e.1 (bytesOfNat (tblGet clearedFold c.fold (a + e.2)).toNat 48)) u)
        key (sf i 20 4) el.2) i q.val 4)) ∧
      (256 < a + n ∨ 5 < sdVtype d → exec (.fexp q) s = .next fault)) ∧
    (slotOnCore s q.val 4 6 u i key → let d := strOf c (sf i 20 4)
      let n := sf i 14 6 + 1
      let el := elements d (ciOf key) n
      let rec' := fun (x : Nat) => foldOf (BitVec.ofNat 384 (natOfBytes (storeBytes u key 0 x 48)))
      (∀ es : List FoldE, a + n ≤ 256 → sdVtype d ≤ 5 → sdSpace d = 0 → (∀ x ∈ el.1, x + 48 ≤ 196608) → u.comp.lsErrs = [] →
        (coreOf u key).early = [] → es.length = n → (∀ e ∈ es, residueOk e = true) →
        (∀ k x e, el.1[k]? = some x → es[k]? = some e → combineRecord (foldAt u key (a + k)) (rec' x) = (e, 0, false)) →
        exec (.fadd q) s = .next (slotEnds u (putStream (es.zipIdx.foldl (fun t e => putFold t key (a + e.2) e.1) u) key (sf i 20 4) el.2) i q.val 4)) ∧
      (256 < a + n ∨ 5 < sdVtype d → exec (.fadd q) s = .next fault)) ∧
    (slotOnCore s q.val 4 6 u i key → let d := strOf c (sf i 20 4)
      let x := element d (ciOf key)
      let rec' := foldOf (BitVec.ofNat 384 (natOfBytes (storeBytes u key 0 x.1 48)))
      ∀ e, sf i 14 6 = 0 → sdVtype d ≤ 5 → sdSpace d = 0 → x.1 + 48 ≤ 196608 → u.comp.lsErrs = [] → (coreOf (putFold u key a e) key).early = [] →
        combineRecord (foldAt u key a) rec' = (e, 0, false) → residueOk e = true →
        exec (.fadd q) s = .next (slotEnds u (putStream (putFold u key a e) key (sf i 20 4) x.2) i q.val 4))

/-- Engine instructions (05 R127, R141 to R143; 03 R85 to R90; 04 R93 to R98): EMV without tiles does nothing; on a good tile each row
or column folds its partial into the vectors' entries; a malformed tile sets NAN_SEEN in the entries and is latched once; EOP
folds a batch into the entry of each stored position; TENC converts entries by a mask and writes a tile, and INDEX goes on by 32
for a ZERO tile too; a failed descriptor check, or a reserved VTYPE or SPACE, ends the step. All three complete wherever the descriptor,
the tile and the operands are good, lie within their stores and bring no residue mismatch. -/
def Obligations.EngineInstructions : Prop :=
  (∀ (s u : State) (q : Fin 32) (i : Issue) (key : Nat), let c := coreBefore u q.val key
    let met := fun v : State => readsMet u (some { ls := v.comp.lsErrs, cs := v.comp.csErrs })
    (slotOnCore s q.val 2 1 u i key → let st := strOf c (sf i 6 4)
      let sd := strOf c (sf i 10 4)
      let addr := (pReg u (sf i 14 6)).toNat
      let nt := (pReg u (sf i 20 6)).toNat
      let column := sf i 34 1 == 1
      let el := elements sd (ciOf key) (sf i 35 3 + 1)
      (nt = 0 → exec (.emv q) s = .next (slotEnds u u i q.val 2)) ∧
      (∀ d u1, nt ≠ 0 → readDesc u i key addr = .ok (d, u1) → tdescOk d column = false →
        exec (.emv q) s = .next (failStep (met u1) { status := 4, ecause := 1, addr := addr, unit := ciOf key })) ∧
      (∀ d u1, nt ≠ 0 → readDesc u i key addr = .ok (d, u1) → tdescOk d column = true →
        3 < sdVtype sd ∨ 5 < sdVtype st ∨ 1 < sdSpace sd ∨ 1 < sdSpace st →
        exec (.emv q) s = .next (failStep (met u1) { status := 4, ecause := 2, addr := i.pc, unit := ciOf key })) ∧
      (∀ d u1 h bs u2, nt = 1 → readDesc u i key addr = .ok (d, u1) → tdescOk d column = true → sdVtype sd ≤ 3 → sdVtype st ≤ 5 →
        sdSpace sd ≤ 1 → family d.vtype = family (sdVtype sd) →
        let at_ := tileAt st (ciOf key) (if column then tileCols d else 1)
        let rows := d.rows - 32 * (at_.2 / tileCols d)
        let cols := d.cols - 32 * (at_.2 % tileCols d)
        let ps := tilePositions bs h rows cols
        let check := tileCheck h (tileDisallowed d h) ps rows cols
        let nv := el.1.length
        let ends := fun v : State => slotEnds u (putStream (putStream v key (sf i 6 4) (afterTile st (ciOf key) (tileLen h))) key (sf i 10 4) el.2) i q.val 2
        readTile u1 i key (sdSpace st) at_.1 = .ok (h, bs, u2) →
        (check ≠ 0 → exec (.emv q) s = .next (ends (latchTile (poisonEntries u2 key (sf i 26 8) (32 * nv)) key d.id at_.2 check))) ∧
        (∀ dense u3 r, check = 0 → denseSlices u2 i key (sdSpace sd) (vtBytes (sdVtype sd)) 0 (if ps.isEmpty then [] else el.1) = .ok (dense, u3) →
          emvRows ⟨u3, List.replicate 8 (0, 0), none, false⟩ ⟨key, d, column, sf i 26 8, sdVtype sd, sdScale sd⟩ h nv 0 0 at_.2
            (viewOrder column ps).zipIdx dense ((List.range 32).flatMap fun g => (List.range nv).map fun j => (g, j)) = .ok r →
          exec (.emv q) s = .next (ends (endRun r key c)))) ∧
      (let d := descAt u key addr
        let at_ := tileAt st (ciOf key) (if column then tileCols d else 1)
        let h := tileHead u key (sdSpace st) at_.1
        let ps := tilePositions (tileBody u key (sdSpace st) at_.1) h (d.rows - 32 * (at_.2 / tileCols d)) (d.cols - 32 * (at_.2 % tileCols d))
        let nv := sf i 35 3 + 1
        let ar : EmvArgs := ⟨key, d, column, sf i 26 8, sdVtype sd, sdScale sd⟩
        let sc := pairScale (sdVtype sd) (sdScale sd) (thVtype h) (thScale h)
        let line := fun g => lineOf column g (viewOrder column ps).zipIdx
        let pairs := fun g j => linePairs ar h (line g) (codesAt u key (sdSpace sd) (vtBytes (sdVtype sd)) (el.1.getD j 0))
        nt = 1 → u.comp.lsErrs = [] → u.comp.csErrs = [] → inSpace 1 addr 40 = true → tdescOk d column = true → sdVtype sd ≤ 3 →
        sdVtype st ≤ 5 → family d.vtype = family (sdVtype sd) → tileFits u key (sdSpace st) at_.1 →
        tileCheck h (tileDisallowed d h) ps (d.rows - 32 * (at_.2 / tileCols d)) (d.cols - 32 * (at_.2 % tileCols d)) = 0 →
        (∀ a ∈ el.1, inSpace (sdSpace sd) a (32 * vtBytes (sdVtype sd)) = true) → sf i 26 8 + 32 * nv ≤ 256 →
        (∀ g j, g < 32 → j < nv → foldHolds (foldAt u key (sf i 26 8 + 32 * j + g)) (d.vtype == 3) sc (pairs g j)) →
        ∃ v, exec (.emv q) s = .next (slotEnds u (putStream (putStream v key (sf i 6 4) (afterTile st (ciOf key) (tileLen h)))
            key (sf i 10 4) el.2) i q.val 2) ∧ v.comp.ls = u.comp.ls ∧ v.comp.cs = u.comp.cs ∧
          ∀ g j, g < 32 → j < nv → let n := sf i 26 8 + 32 * j + g
            foldAt v key n = if line g = [] then foldAt u key n else folded (foldAt u key n) (d.vtype == 3) sc (pairs g j))) ∧
    (slotOnCore s q.val 2 2 u i key → ∀ t, eopCore u i key c = .ok t → exec (.eop q) s = .next (slotEnds u t i q.val 2)) ∧
    (slotOnCore s q.val 2 2 u i key → let addr := (pReg u (sf i 33 6)).toNat
      ∀ d u1, readDesc u i key addr = .ok (d, u1) → tdescOk d false = false →
        exec (.eop q) s = .next (failStep (met u1) { status := 4, ecause := 1, addr := addr, unit := ciOf key })) ∧
    (slotOnCore s q.val 2 2 u i key → let st := strOf c (sf i 6 4)
      let sy := strOf c (sf i 10 4)
      let sx := strOf c (sf i 14 4)
      let nb := (pReg u (sf i 18 6)).toNat
      let d := descAt u key (pReg u (sf i 33 6)).toNat
      let y := elements sy (ciOf key) nb
      let x := elements sx (ciOf key) nb
      let at_ := tileAt st (ciOf key) 1
      let h := tileHead u key (sdSpace st) at_.1
      let ps := tilePositions (tileBody u key (sdSpace st) at_.1) h 32 32
      let here := (ps.drop (256 * sf i 24 1)).take 256
      let sc := pairScale (sdVtype sy) (sdScale sy) (sdVtype sx) (sdScale sx)
      let bf := sdVtype sy == 3
      let groups := fun p => batchGroups (vtTy (sdVtype sy)) (vtTy (sdVtype sx)) (y.1.map (codesAt u key (sdSpace sy) (vtBytes (sdVtype sy))))
        (x.1.map (codesAt u key (sdSpace sx) (vtBytes (sdVtype sx)))) p
      u.comp.lsErrs = [] → u.comp.csErrs = [] → inSpace 1 (pReg u (sf i 33 6)).toNat 40 = true → tdescOk d false = true →
      d.format = 2 ∨ d.format = 3 ∨ d.format = 5 →
      (3 < sdVtype sy ∨ 3 < sdVtype sx ∨ 5 < sdVtype st ∨ 1 < sdSpace sy ∨ 1 < sdSpace sx ∨ 1 < sdSpace st →
        exec (.eop q) s = .next (failStep u { status := 4, ecause := 2, addr := i.pc, unit := ciOf key })) ∧
      (sdVtype sy ≤ 3 → sdVtype sx ≤ 3 → sdVtype st ≤ 5 → sdSpace sy ≤ 1 → sdSpace sx ≤ 1 → family (sdVtype sy) = family (sdVtype sx) → tileFits u key (sdSpace st) at_.1 →
        tileCheck h (tileDisallowed d h) ps 32 32 = 0 → sf i 25 8 + here.length ≤ 256 →
        (∀ a ∈ y.1, inSpace (sdSpace sy) a (32 * vtBytes (sdVtype sy)) = true) →
        (∀ a ∈ x.1, inSpace (sdSpace sx) a (32 * vtBytes (sdVtype sx)) = true) →
        (∀ p n m g, (p, n) ∈ here.zipIdx → (groups p)[m]? = some g →
          foldHolds (foldedBatch (foldAt u key (sf i 25 8 + n)) bf sc ((groups p).take m)) bf sc (batchPairs g m)) →
        ∃ v, exec (.eop q) s = .next (slotEnds u (putStream (putStream (putStream v key (sf i 6 4) (afterTile st (ciOf key) (tileLen h)))
            key (sf i 10 4) y.2) key (sf i 14 4) x.2) i q.val 2) ∧ v.comp.ls = u.comp.ls ∧ v.comp.cs = u.comp.cs ∧
          (coreOf v key).rot = (c.rot + ceilDiv here.length 64) % 8 ∧
          (∀ p n, (p, n) ∈ here.zipIdx → foldAt v key (sf i 25 8 + n) = foldedBatch (foldAt u key (sf i 25 8 + n)) bf sc (groups p)) ∧
          ∀ n, n < 256 → (n < sf i 25 8 ∨ sf i 25 8 + here.length ≤ n) → foldAt v key n = foldAt u key n)) ∧
    (slotOnCore s q.val 4 7 u i key → ∀ t, tencCore u i key c = .ok t → exec (.tenc q) s = .next (slotEnds u t i q.val 4)) ∧
    (slotOnCore s q.val 4 7 u i key → let sm := strOf c (sf i 14 4)
      let so := strOf c (sf i 18 4)
      3 < sdVtype so ∨ 5 < sdVtype sm ∨ 1 < sdSpace so ∨ 1 < sdSpace sm ∨ (sf i 24 1 = 1 ∧ vcTileScale c.vctrl = true) →
        exec (.tenc q) s = .next (failStep u { status := 4, ecause := 2, addr := i.pc, unit := ciOf key })) ∧
    (slotOnCore s q.val 4 7 u i key → let sm := strOf c (sf i 14 4)
      let so := strOf c (sf i 18 4)
      let ci := ciOf key
      let at_ := tileAt so ci 1
      ∀ h bs u1, sdVtype so ≤ 3 → sdVtype sm ≤ 5 → sdSpace so ≤ 1 → readTile u i key (sdSpace sm) (tileAt sm ci 1).1 = .ok (h, bs, u1) →
        let chk := tileCheck h (maskDisallowed h) (tilePositions bs h 32 32) 32 32
        let u2 := putStream u1 key (sf i 14 4) (afterTile sm ci (tileLen h))
        let u3 := putCx u2 key (sf i 22 2) (cxAdvance (cxOf c (sf i 22 2)) 32)
        (chk ≠ 0 → sf i 24 1 = 0 → exec (.tenc q) s = .next (slotEnds u (latchTile u2 key (cxId (cxOf c (sf i 22 2))).toNat (tileAt sm ci 1).2 chk) i q.val 4)) ∧
        (chk = 0 → thFormat h = 0 → sf i 24 1 = 0 → sdSpace so = 0 → at_.1 + 8 ≤ 196608 → exec (.tenc q) s = .next (slotEnds u (putStream
          (lsCoreWrite u3 key at_.1 (bytesOfNat (tileHeader 0 (sdVtype so) 0 0x7F false).toNat 8)) key (sf i 18 4) (afterTile so ci 8)) i q.val 4))) ∧
    (slotOnCore s q.val 4 7 u i key → let sm := strOf c (sf i 14 4)
      let so := strOf c (sf i 18 4)
      let k := sf i 22 2
      let half := sf i 24 1
      let ci := ciOf key
      let ma := (tileAt sm ci 1).1
      let h := tileHead u key (sdSpace sm) ma
      let bs := tileBody u key (sdSpace sm) ma
      let ps := tilePositions bs h 32 32
      let here := ((ps.drop (256 * half)).take 256).zipIdx
      let es := here.map fun e => foldOf (tblGet clearedFold c.fold (sf i 6 8 + e.2))
      let t := vtTy (sdVtype so)
      let x := cxOf c k
      let scale := if isFp8 t then scaleOf c.vctrl x t (es.map fun e => (foldVal e).1) else 0x7F
      let rs := tencValues c i x t ci scale (sf i 6 8) here
      let base := if half = 0 then (tileAt so ci 1).1 else so.last
      let pieces := tencPieces h bs ps half (sdVtype so) scale rs
      Mem.wf u.comp.ls = true → u.comp.lsErrs = [] → u.comp.csErrs = [] → sdVtype so ≤ 3 → sdVtype sm ≤ 5 →
      half = 0 ∨ vcTileScale c.vctrl = false → tileFits u key (sdSpace sm) ma → tileCheck h (maskDisallowed h) ps 32 32 = 0 →
      thFormat h ≠ 0 → sf i 6 8 + here.length ≤ 256 → (∀ e ∈ es, residueOk e = true) → sdSpace so = 0 →
      (∀ e ∈ pieces, base + e.1 + e.2.length ≤ 196608) →
      ∃ v, exec (.tenc q) s = .next (slotEnds u v i q.val 4) ∧
        (∀ e ∈ pieces, memRead v.comp.ls (key * 196608 + base + e.1) e.2.length = e.2) ∧
        (∀ a, (∀ e ∈ pieces, a < key * 196608 + base + e.1 ∨ key * 196608 + base + e.1 + e.2.length ≤ a) →
          (∀ e ∈ inCycle u u.comp.foragerWords, e.1 ≠ a / 8) → memByte v.comp.ls a = memByte u.comp.ls a) ∧
        cxIndex (cxOf (coreOf v key) k) = cxIndex x + 32 ∧ (∀ n, foldAt v key n = foldAt u key n))) ∧
  (∀ (s : State) (key t1 i1 c1 t2 i2 c2 : Nat), latchTile (latchTile s key t1 i1 c1) key t2 i2 c2 = latchTile s key t1 i1 c1)

/-- Upkeep of the compute dies (04 R109, R113, R115 to R120): a mismatch of a queen's sequencers retires its cluster; a failed
core gets its cluster's spare, whose store comes with it, or its cluster is retired when the spare is not free; a patrol marks
the cores and the queen that missed; the store walk corrects single-bit errors, and a double-bit error poisons the step. -/
def Obligations.CoreUpkeep : Prop :=
  (∀ (s : State) (q : Fin 32), let ph := physCluster s q.val
    (unitsRun s = true → clusterPresent s q.val = true → ∃ t, exec (.queenLockstepMismatch q) s = .next t ∧
      t.comp.retired = s.comp.retired ++ [ph] ∧ clusterPresent t q.val = false ∧ t.dev.degraded = true ∧
      ∀ k, k ≠ q.val → clusterPresent t k = clusterPresent s k) ∧
    (clusterPresent s q.val = false → exec (.queenLockstepMismatch q) s = .next s)) ∧
  (∀ (s : State) (q : Fin 32) (i : Fin 16), let ph := physCluster s q.val
    let k := physOfKey s (16 * q.val + i.val)
    ((ph, k) ∉ s.comp.failed → exec (.coreSpareMap q i) s = .next s) ∧
    (clocksRun s = true → clusterPresent s q.val = true → (ph, k) ∈ s.comp.failed → ∃ t, exec (.coreSpareMap q i) s = .next t ∧
      (ph, k) ∉ t.comp.failed ∧ t.fab = s.fab ∧ t.ports = s.ports ∧
      (spareFree s q.val = false → t.comp.retired = s.comp.retired ++ [ph] ∧ clusterPresent t q.val = false ∧ t.comp.coreMap = s.comp.coreMap) ∧
      (spareFree s q.val = true → t.comp.retired = s.comp.retired ∧
        t.comp.coreMap = tblSet (List.range 16) s.comp.coreMap ph (setAt (coreMapOf s q.val) i.val (idleCore s q.val)) ∧
        (s.health.rehearsedCore ≠ some (ph, k) → t.health.spareCores = s.health.spareCores ++ [ph]) ∧
        (s.health.rehearsedCore = some (ph, k) → t.health.spareCores = s.health.spareCores) ∧
        (s.job.launch = none → Mem.wf s.comp.ls = true → t.hbm = s.hbm ∧
          ∀ a, a < 196608 → memByte t.comp.ls ((16 * q.val + i.val) * 196608 + a) = memByte s.comp.ls ((512 + q.val) * 196608 + a))))) ∧
  (∀ (s : State) (ph k : Nat), (ph, k) ∈ (coreFails s ph k).comp.failed) ∧
  (∀ (s : State) (ph : Fin 32) (q : Nat), logicalCluster s ph.val = some q → unitsRun s = true →
    (ph.val ∉ s.comp.spareBad → ph.val ∉ s.health.spareCores → exec (.sparePatrolFail ph) s =
      .next (recomputeHealth { s with comp := { s.comp with spareBad := s.comp.spareBad ++ [ph.val] } })) ∧
    (ph.val ∈ s.comp.spareBad ∨ ph.val ∈ s.health.spareCores → exec (.sparePatrolFail ph) s = .next s) ∧
    let n := passesOf s (ph.val * 15625)
    let u := modQueen s q fun x => { x with lastPatrol := n }
    (n ≤ (queenOf s q).lastPatrol → ∀ failed bad, exec (.corePatrol ph failed bad) s = .next s) ∧
    ((queenOf s q).lastPatrol < n →
      exec (.corePatrol ph [] false) s = .next u ∧
      (∀ k : Fin 17, (logicalCore s q k.val).isSome = true → exec (.corePatrol ph [k] false) s = .next (coreFails u ph.val k.val)) ∧
      (∀ k : Fin 17, logicalCore s q k.val = none → ph.val ∉ s.comp.spareBad → ph.val ∉ s.health.spareCores →
        exec (.corePatrol ph [k] false) s = .next (recomputeHealth { u with comp := { u.comp with spareBad := s.comp.spareBad ++ [ph.val] } })) ∧
      ∃ t, exec (.corePatrol ph [] true) s = .next t ∧ t.comp.retired = s.comp.retired ++ [ph.val] ∧ clusterPresent t q = false)) ∧
  ∀ s : State, let day := nowNs s / 10000000
    let errs := s.comp.lsErrs ++ s.comp.csErrs
    let u := countN { s with comp := { s.comp with
      lsErrs := s.comp.lsErrs.filter fun e => e.2 != some false, csErrs := s.comp.csErrs.filter fun e => e.2 != some false
      walkAt := day } } .storeSbe 0 (errs.filter fun e => e.2 == some false).length
    (day ≤ s.comp.walkAt → exec .storeWalk s = .next s) ∧
    (unitsRun s = true → s.comp.walkAt < day →
      ((∀ e ∈ errs, e.2 ≠ some true) → exec .storeWalk s = .next u) ∧
      ((∃ e ∈ errs, e.2 = some true) → exec .storeWalk s = .next (raisePoison u .storeDbe)))

/-- STREAM (06 R161, R163, R170, R180 to R187, Table 6.11): the oldest piece of a unit is discarded and counted when it is too short,
has no context, is stale or finds no room; a duplicate, or one past LAST, poisons the step; any other opens or joins its
chunk, whose operation goes on with it, or counts STREAM_TAIL when the chunk is complete already; what a
poisoned step's abandoned attempt sent is discarded (assumption 67). The frames of the leaves that
a canonical tree still waits with stay in the comb (R161), the others leave it. Stream units in time (06
R186, R192, R193, R195): a chunk that is not complete TIMEOUT after its first piece is given up, with a poison in a step; a
patrol that mismatches fails the unit, whose chunks and pieces go; a failed unit is retired and the units after it move up, each
with what is queued to it. -/
def Obligations.StreamUnits : Prop :=
  (∀ (s : State) (u : Fin 32) (f : Frame), unitsRun s = true → u.val ∉ s.su.failed → u.val ∉ s.su.retired →
    headPiece s u.val = some f → let run := exec (.stream u) s
    let t := { s with su := { s.su with queue := s.su.queue.erase (u.val, f) } }
    (f.payload.length < 16 → run = .next (count (settleFree t) .streamRunt u.val)) ∧
    (16 ≤ f.payload.length → ctxOf s (spCtx f) = none → run = .next (count (settleFree t) .streamNoContext u.val)) ∧
    ∀ x, 16 ≤ f.payload.length → ctxOf s (spCtx f) = some x → let p := pieceOf f
      let named := isChunk (spCtx f) (spSeq f) (spChunk f) u.val
      let need := usesRes (progOf s (cxtProg x))
      let own := fun m : UMem => m == .entry (spCtx f) (spSeq f) (spChunk f)
      (∀ st, stepOf s x.pkey = some st → st.committing = true → run = .next s) ∧
      (∀ st, stepOf s x.pkey = some st → st.committing = false → attemptGone s x.pkey = true → run = .next (settleFree t)) ∧
      (∀ st, stepOf s x.pkey = some st → st.committing = false → attemptGone s x.pkey = false → frmStep f ≠ st.seq % 65536 →
        run = .next (count (settleFree t) .streamStale u.val)) ∧
      (stepOf s x.pkey = none → frmStep f ≠ 0 → run = .next (count (settleFree t) .streamStale u.val)) ∧
      (∀ inStep : Bool, (if inStep then ∃ st, stepOf s x.pkey = some st ∧ st.committing = false ∧ attemptGone s x.pkey = false ∧
            frmStep f = st.seq % 65536
          else stepOf s x.pkey = none ∧ frmStep f = 0) →
        (s.su.chunks.find? named = none → roomFor s u.val (spCtx f) (spSeq f) x (ctxPages s (spCtx f) x) = none →
          run = .next (count (settleFree t) .streamNoSpace u.val)) ∧
        (∀ c s1, s.su.chunks.find? named = some c → unitErrors s u.val own = (s1, true) →
          run = .next (settleFree (unqueue (giveUp s1 c) u.val f))) ∧
        (∀ c, s.su.chunks.find? named = some c → unitErrors s u.val own = (s, false) → need = false ∨ c.complete = true ∨ c.bufs ≠ [] →
          let mine := c.got.filter fun g => g.1 == p.src
          let dup := ∃ g ∈ mine, g.2.1 = p.piece
          let past := ∃ g ∈ mine, g.2.2.1 = true ∧ g.2.1 < p.piece
          let early := p.last = true ∧ ∃ g ∈ mine, p.piece < g.2.1
          (inStep = true → dup → run = .next (settleFree (raisePoison t .streamDup))) ∧
          (inStep = true → ¬dup → past ∨ early → run = .next (settleFree (raisePoison t .streamExcess))) ∧
          (¬dup → ¬past → ¬early →
            let c2 := { c with
              got := c.got ++ [(p.src, p.piece, p.last, p.nelem)]
              run := { c.run with stat := c.run.stat ||| BitVec.ofNat 8 p.stat } }
            let t2 := { t with job := { s.job with
              streamFlags := if inStep then s.job.streamFlags ||| BitVec.ofNat 5 (p.stat % 32) else s.job.streamFlags } }
            (c.complete = true → run = .next (settleFree (count t .streamTail u.val))) ∧
            (c.complete = false → run = .next (settleFree (feed (noteEndOfRun t2 c.ctx p) x { c2 with
              pieces := c.pieces ++ [p], held := if keepsTree s x then c.held ++ [(p.src, p.piece)] else c.held })))))) ∧
      (∀ early, need = false → stepOf s x.pkey = none → frmStep f = 0 → s.su.chunks.find? named = none → s.job.launch = none →
        roomFor s u.val (spCtx f) (spSeq f) x (ctxPages s (spCtx f) x) = some early →
        let c : Chunk := {
          ctx := spCtx f, seq := spSeq f, chunk := spChunk f, unit := u.val, pages := ctxPages s (spCtx f) x, early := early, startT := logicNs s
          stepSeq := none, got := [(p.src, p.piece, p.last, p.nelem)], pieces := [p], run := { stat := BitVec.ofNat 8 p.stat }
          held := if keepsTree s x then [(p.src, p.piece)] else [] }
        run = .next (settleFree (feed { t with su := { t.su with
          chunks := s.su.chunks ++ [{ c with got := [], pieces := [], run := {}, held := [] }]
          errs := s.su.errs.filter fun e => !(e.1 == u.val && ofChunk c e.2.1) } } x c)))) ∧
  ((∀ (s : State) (c : Fin 4096) (q : BitVec 32) (k : BitVec 16) (x : Ctx) (ch : Chunk),
    let mine := fun e : Chunk => e.ctx == c.val && e.seq == q.toNat && e.chunk == k.toNat
    ctxOf s c.val = some x → s.su.chunks.find? (fun e => mine e && !e.complete) = some ch → unitsRun s = true →
    (logicNs s < ch.startT + cxtTimeout x → exec (.streamTimeout c q k) s = .next s) ∧
    (ch.startT + cxtTimeout x ≤ logicNs s → ∃ t, exec (.streamTimeout c q k) s = .next t) ∧
    let hs := (s.su.chunks.filter mine).flatMap (fun e => e.bufs ++ e.nodes.map (·.handle)) ++
      (s.su.granted.filter fun g => g.1 == c.val && g.2.1 == q.toNat && g.2.2.1 == k.toNat).map (·.2.2.2)
    (ch.startT + cxtTimeout x ≤ logicNs s → s.comb.metaErrs = [] → s.su.leaves = [] → hs.Nodup → (∀ h ∈ hs, (bufOf s h).isSome = true) →
      ∃ u, (∀ h ∈ hs, bufOf u h = none) ∧ (∀ e ∈ u.su.chunks, mine e = false) ∧ (∀ e ∈ s.su.chunks, mine e = false → e ∈ u.su.chunks) ∧
      u.hbm = s.hbm ∧ u.comp = s.comp ∧ u.job = s.job ∧ u.fab = s.fab ∧ u.su.ctxs = s.su.ctxs ∧
      (stepOf s x.pkey = none → exec (.streamTimeout c q k) s = .next (count u .streamTimeout ch.unit)) ∧
      ((stepOf s x.pkey).isSome = true → exec (.streamTimeout c q k) s = .next (raisePoison u .streamTimeout)))) ∧
  (∀ (s : State) (u : Fin 32), let n := passesOf s (u.val * 15625)
    let last := tblGet 0 s.su.lastPatrol u.val
    (n ≤ last ∨ u.val ∈ s.su.failed ∨ u.val ∈ s.su.retired → ∀ bad, exec (.streamUnitPatrol u bad) s = .next s) ∧
    (unitsRun s = true → last < n → u.val ∉ s.su.failed → u.val ∉ s.su.retired →
      exec (.streamUnitPatrol u false) s = .next { s with su := { s.su with lastPatrol := tblSet 0 s.su.lastPatrol u.val n } } ∧
      ∃ t, exec (.streamUnitPatrol u true) s = .next t ∧ u.val ∈ t.su.failed ∧ (∀ c ∈ t.su.chunks, c.unit ≠ u.val) ∧
        (∀ e ∈ t.su.queue, e.1 ≠ u.val) ∧ t.su.ctxs = s.su.ctxs ∧ t.su.programs = s.su.programs)) ∧
  ∀ (s : State) (u : Fin 32),
    (u.val ∉ s.su.failed → exec (.streamUnitRetire u) s = .next s) ∧
    (clocksRun s = true → u.val ∈ s.su.failed → exec (.streamUnitRetire u) s = .next (recomputeHealth
      { (if u.val ∈ s.su.map then renumberQueues s (logicalUnit s u.val) else s) with su := { s.su with
        failed := s.su.failed.filter (· != u.val), retired := s.su.retired ++ [u.val], map := s.su.map.filter (· != u.val) } }))) ∧
  ∀ l o : Nat, shiftOut l o = if o ≤ 81 + l then o else o - 1

/-- Collectives (00 R5; 09 R272, R273, R277, R282, R283, R288 to R290; 05 R145; assumptions 41, 105, 122): the oldest record whose source has room is
issued with its source's next sequence number, one that the rules do not allow ends a step with BAD_ARG, and one that
names an absent cluster or store with ABSENT_UNIT (00 R5; assumption 122), or that status is its source's result outside a step, a ninth waits for the oldest of eight, and none is issued while the step
waits for its replay; a finished operation raises its semaphore in every cluster of its mask; one that is late poisons the
step, or completes with TIMEOUT outside a step; and the chunks of an operation cover its elements. -/
def Obligations.Collectives : Prop :=
  (∀ (s : State) (r : BitVec 320) (rest : List (BitVec 320)), s.coll.queue = r :: rest → unitsRun s = true →
    (∀ st, s.job.step = some st → st.poisoned.isSome = true ∨ st.held = true ∨ st.committing = true → exec .collectiveIssue s = .next s) ∧
    ((∀ st, s.job.step = some st → st.poisoned = none ∧ st.held = false ∧ st.committing = false) →
      (∀ e : Nat, issueOk s r = false ∧ e = Status.badArg.code ∨
          issueOk s r = true ∧ (recordAbsent s r).isSome = true ∧ e = Status.absentUnit.code →
        let u := { s with coll := { s.coll with queue := rest } }
        let k := 4 * irGid r + irLsrc r
        (stepOf s (gpKey (groupOf s (irGid r))) ≠ none → exec .collectiveIssue s = .next (failStep u { status := e, ecause := 0 })) ∧
        (stepOf s (gpKey (groupOf s (irGid r))) = none → exec .collectiveIssue s = .next { u with coll := { u.coll with
          results := tblSet none s.coll.results k (some (tblGet 0 s.coll.nextSeq k % 2 ^ 32, e)) } })) ∧
      (issueOk s r = true → recordAbsent s r = none → let k := 4 * irGid r + irLsrc r
        let n := tblGet 0 s.coll.nextSeq k
        let seq := n % 2 ^ 32
        (∀ o ∈ s.coll.ops, o.gid = irGid r → o.lsrc = irLsrc r → (n + 2 ^ 32 - o.seq) % 2 ^ 32 < 8) →
        let o : COp := {
          gid := irGid r, seq := seq, lsrc := irLsrc r, word := r, issuedAt := logicNs s
          inStep := (stepOf s (gpKey (groupOf s (irGid r)))).isSome, nextChunk := (supplied (groupOf s (irGid r)) r).1 }
        exec .collectiveIssue s = .next (pump (feedWaiting { s with coll := { s.coll with
          queue := rest, nextSeq := tblSet 0 s.coll.nextSeq k (n + 1), ops := s.coll.ops ++ [o] } } (irGid r) seq) (irGid r) (irLsrc r) 4)) ∧
      ((∀ x ∈ s.coll.queue, issueOk s x = true ∧ recordAbsent s x = none ∧ ∃ o ∈ s.coll.ops, o.gid = irGid x ∧ o.lsrc = irLsrc x ∧
          8 ≤ (tblGet 0 s.coll.nextSeq (4 * irGid x + irLsrc x) + 2 ^ 32 - o.seq) % 2 ^ 32) →
        exec .collectiveIssue s = .next s))) ∧
  (∀ (s : State) (g : Fin 4096) (q : BitVec 32) (l : Fin 4) (o : COp), findOp s g.val q.toNat l.val = some o → unitsRun s = true →
    let gone := dropOp s o
    let late := o.issuedAt + gpTimeout (groupOf s g.val) ≤ logicNs s
    (opDone s o = false → exec (.collectiveComplete g q l) s = .next s) ∧
    let raised := fun t : State => t.comp = { s.comp with queens := t.comp.queens } ∧
      (∀ c sem, c ∈ maskClusters s (irCmask o.word) → semOf s c (irSem o.word) < 65535 → sem = irSem o.word → semOf t c sem = semOf s c sem + 1) ∧
      ∀ c sem, c ∉ maskClusters s (irCmask o.word) ∨ sem ≠ irSem o.word → semOf t c sem = semOf s c sem
    (opDone s o = true → ∃ t, exec (.collectiveComplete g q l) s = .next t ∧ t = { gone with comp := t.comp } ∧ raised t) ∧
    (opDone s o = true ∨ ¬late → exec (.collTimeout g q l) s = .next s) ∧
    (opDone s o = false → late → (stepOf s (gpKey (groupOf s g.val))).isSome = true → o.inStep = true →
      exec (.collTimeout g q l) s = .next (raisePoison s .collTimeout)) ∧
    (opDone s o = false → late → stepOf s (gpKey (groupOf s g.val)) = none ∨ o.inStep = false → ∃ t, exec (.collTimeout g q l) s = .next t ∧
      t = { gone with comp := t.comp, coll := { gone.coll with
        results := tblSet none s.coll.results (4 * g.val + l.val) (some (q.toNat, Status.timeout.code)) } } ∧ raised t) ∧
    gone.coll.ops.length + 1 = s.coll.ops.length) ∧
  ∀ (w r : BitVec 320) (k i : Nat),
    (irOp r ≠ 3 → irOp r ≠ 4 → k < irCount r → let c := k / gpCe w
      c < chunkCount w r ∧ (chunkSpan w r c).1 = 0 ∧ (chunkSpan w r c).2.1 ≤ k ∧ k < (chunkSpan w r c).2.1 + (chunkSpan w r c).2.2) ∧
    (irOp r = 3 ∨ irOp r = 4 → 0 < irSeg r → i < gpN w → k < segLen r i → let c := i * perSeg w r + k / gpCe w
      c < chunkCount w r ∧ (chunkSpan w r c).1 = i ∧ (chunkSpan w r c).2.1 ≤ k ∧ k < (chunkSpan w r c).2.1 + (chunkSpan w r c).2.2) ∧
    ∀ c, (chunkSpan w r c).2.2 ≤ gpCe w

/-- MOVE (11 R313, R325, R329, R332 to R334, R337): an index word off the channel's die is asked for by an MREAD; a bad operand is a fault, which ends the step of a bound channel; a source on the
channel's own die is copied at once, any other is asked for by MREAD frames; the registers advance when it completes; a
barrier waits for the acknowledgements; 50 µs without awaited data or acknowledgement poison the step or fault the channel; an SFIX MOVE
to issue space reads its word once, for five copies (R332); a MOVE that sends frames in no circuit has a CLASS from 1 to 5 (R333). -/
def Obligations.ForagerMoves : Prop :=
  (∀ (s : State) (ch : Fin 320) (v : Nat) (u : State), let c := chanOf u ch.val
    let m := moveArgs u ch.val v
    let n := moveSpan m.len m.sfix
    let k := if nfld m.dst 40 3 = 3 then m.len else moveSpan m.len m.dfix
    let run := exec (.move ch) s
    (chanReady s ch.val 1 = false → run = .next s) ∧
    (chanReady s ch.val 1 = true →
      (if (chanWord s ch.val 0).getLsbD 13 then chanIndex s ch.val (fld (chanWord s ch.val 0) 10 3) (fld (chanWord s ch.val 0) 20 3) = .word v u else v = 0 ∧ u = s) →
      (m.src = let base := c.cur.getD (fld (chanWord u ch.val 0) 4 3) 0
        if (chanWord u ch.val 0).getLsbD 13 then (base + BitVec.ofNat 64 v * chanWord u ch.val 2).toNat else base.toNat) ∧
      (moveFault u ch.val m ≠ 0 → c.bound = false → run = .next (modChan u ch.val fun x => { x with st := .fault, cause := moveFault u ch.val m })) ∧
      (moveFault u ch.val m ≠ 0 → c.bound = true → u.job.step.isSome = true → run = .next (failStep u {
        status := if moveFault u ch.val m = 2 then Status.absentUnit.code else Status.badArg.code
        ecause := 3, unit := ch.val, fpc := c.pc, fcause := moveFault u ch.val m })) ∧
      (moveFault u ch.val m = 0 → m.len = 0 → run = .next (moveEnd u ch.val)) ∧
      (moveFault u ch.val m = 0 → m.len ≠ 0 → moveMetaBad u ch.val m n k = true → run = .next (safeEntry u .metadata ch.val)) ∧
      (∀ bs u1, moveFault u ch.val m = 0 → m.len ≠ 0 → moveMetaBad u ch.val m n k = false → moveEid u ch.val m.srem m.rank m.src n = none →
        moveEid u ch.val m.drem m.rank m.dst k = none → spaceRead (metaFix (metaFix u m.src n) m.dst k) m.src n = (some bs, u1) →
        let data := if m.sfix then (List.replicate (m.len / 8) bs).flatten else bs
        let t := if m.dfix then (chunksOf 8 (data.length / 8 + 1) data).foldl (fun t b => spaceWrite t m.dst b) u1 else spaceWrite u1 m.dst data
        (m.barrier = false ∨ (chanOf t ch.val).acks = [] → run = .next (moveEnd t ch.val)) ∧
        (m.barrier = true → (chanOf t ch.val).acks ≠ [] → run = .next (modChan t ch.val fun x => { x with moveSince := some (logicNs u) }))) ∧
      (∀ e, moveFault u ch.val m = 0 → m.len ≠ 0 → moveMetaBad u ch.val m n k = false → m.len ≤ 4096 → m.sfix = false →
        moveEid u ch.val m.srem m.rank m.src n = some e →
        ∃ t o r, run = .next t ∧ t.comb.orig = u.comb.orig ++ [o] ∧ o.owner = 680 + ch.val ∧ o.high = m.high ∧
          o.frame = mkFrame m.cls c.pkey 0 3 e u.dev.eid.toNat ch.val (stepField u c.pkey)
            c.seq.toNat false (BitVec.ofNat 64 m.src) (bytesOfWords [BitVec.ofNat 64 m.len, BitVec.ofNat 64 m.dst]) ∧
          (chanOf t ch.val).reads = c.reads ++ [r] ∧ r.seq = c.seq.toNat ∧ r.left = m.len ∧ r.dst = m.dst ∧
          (chanOf t ch.val).moveSince = some (logicNs u) ∧ (chanOf t ch.val).pc = c.pc ∧ t.hbm.mem = u.hbm.mem ∧ t.comp = u.comp) ∧
      (∀ e, moveFault u ch.val m = 0 → moveMetaBad u ch.val m n k = false → m.len = 40 → m.sfix = true → nfld m.dst 40 3 = 3 →
        moveEid u ch.val m.srem m.rank m.src n = some e →
        ∃ t o r, run = .next t ∧ t.comb.orig = u.comb.orig ++ [o] ∧ o.frame.payload = bytesOfWords [8, BitVec.ofNat 64 m.dst] ∧
          (chanOf t ch.val).reads = c.reads ++ [r] ∧ r.left = 8 ∧ r.copies = 5) ∧
      (moveFault u ch.val m = 0 → m.src % 8 = 0 ∧ m.dst % 8 = 0 ∧ m.len % 8 = 0 ∧ (m.srem = false ∨ m.drem = false) ∧ nfld m.src 40 3 ≠ 3 ∧
        (m.circ ≠ none → m.drem = true) ∧
        (m.srem = true ∨ (m.drem = true ∧ m.circ = none) ∨ directly u ch.val m.src n = false → 1 ≤ m.cls ∧ m.cls ≤ 5))) ∧
    (chanReady s ch.val 1 = true → (chanWord s ch.val 0).getLsbD 13 = true → let x := chanOf s ch.val
      let a := chanCur s ch.val (fld (chanWord s ch.val 0) 10 3)
      let cls := fld (chanWord s ch.val 0) 20 3
      (a % 4 ≠ 0 → run = .next (chanFault s ch.val 1)) ∧
      (a % 4 = 0 → nfld a 40 3 ≠ 3 → addrFault s a 4 = 0 → ownDie s ch.val a = true → metaBad s a 4 = true →
        run = .next (safeEntry s .metadata a)) ∧
      (a % 4 = 0 → nfld a 40 3 ≠ 3 → addrFault s a 4 = 0 → ownDie s ch.val a = false → x.idxVal = none → ∃ t o, run = .next t ∧
        t.comb.orig = s.comb.orig ++ [o] ∧ (1 ≤ cls → cls ≤ 5 → o.frame = mkFrame cls x.pkey 0 3 s.dev.eid.toNat s.dev.eid.toNat ch.val
          (stepField s x.pkey) x.seq.toNat false (BitVec.ofNat 64 a) (bytesOfWords [4, 0])) ∧
        (chanOf t ch.val).idxRead = some x.seq.toNat ∧ (chanOf t ch.val).pc = x.pc ∧ t.hbm = s.hbm ∧ t.comp = s.comp))) ∧
  (∀ (u : State) (ch : Nat), let c := chanOf u ch
    let i := fld (chanWord u ch 0) 4 3
    let j := fld (chanWord u ch 0) 7 3
    let once := setAt c.cur i (c.cur.getD i 0 + c.inc.getD i 0)
    c.st = .run → c.loops = [] → chanOf (moveEnd u ch) ch = { c with
      pc := c.pc + 1, cur := setAt once j (once.getD j 0 + c.inc.getD j 0), waitSince := none, moveSince := none }) ∧
  ∀ (s : State) (ch : Fin 320) (since : Nat), let c := chanOf s ch.val
    let barrier := (chanWord s ch.val 0).getLsbD 18
    c.moveSince = some since → chanRuns s ch.val = true →
    (c.st = .run → c.idxRead = none → c.reads = [] → barrier = false ∨ c.acks = [] → exec (.moveComplete ch) s = .next (moveEnd s ch.val)) ∧
    (c.idxRead ≠ none ∨ c.reads ≠ [] ∨ (barrier = true ∧ c.acks ≠ []) → exec (.moveComplete ch) s = .next s) ∧
    let waits := c.st = .run ∧ (c.idxRead ≠ none ∨ c.reads ≠ [] ∨ (barrier = true ∧ c.acks ≠ []))
    (logicNs s < since + 50000 ∨ ¬waits → exec (.foragerTimeout ch) s = .next s) ∧
    (since + 50000 ≤ logicNs s → waits → c.bound = true → s.job.step.isSome = true →
      exec (.foragerTimeout ch) s = .next (raisePoison s .foragerTimeout)) ∧
    (since + 50000 ≤ logicNs s → waits → c.bound = false ∨ s.job.step = none → exec (.foragerTimeout ch) s = .next (modChan s ch.val fun x => { x with
      st := .fault, cause := 3, moveSince := none, acks := [], reads := [], idxRead := none }))

/-- The rest of a forager's program (11 R331, R335, R336; assumption 36): LOOP latches its count and a count of 0 goes on past
END; WAIT subtracts AMT from a semaphore that has reached it, or waits, or waits for the commit; SIGNAL raises a semaphore of
a cluster of its die or sends an EVENT to a rank, after the channel's earlier writes; END ends the program. -/
def Obligations.ForagerProgram : Prop :=
  ∀ (s : State) (ch : Fin 320), let c := chanOf s ch.val
    let w0 := chanWord s ch.val 0
    let chan := fun t : State => chanOf t ch.val
    (chanReady s ch.val 2 = true → let last := fld w0 6 8
      let adj := fun (en r k : Nat) => if w0.getLsbD en then some (fld w0 r 3, chanWord s ch.val k) else none
      ∀ n u, (if w0.getLsbD 14 then chanIndex s ch.val (fld w0 15 3) 1 = .word n u else n = fld w0 32 32 ∧ u = s) →
        (n ≠ 0 → exec (.foragerLoop ch) s = .next (modChan u ch.val fun x => { x with
          pc := x.pc + 1, loops := { start := x.pc, last := last, remaining := n, r1 := adj 21 18 1, r2 := adj 25 22 2 } :: x.loops })) ∧
        (n = 0 → (∀ lp ∈ (chan u).loops, lp.last ≠ last) → ∃ t, exec (.foragerLoop ch) s = .next t ∧ (chan u = c →
          chan t = { c with pc := last + 1 } ∧ ∀ k, k ≠ ch.val → chanOf t k = chanOf u k))) ∧
    (chanReady s ch.val 3 = true → let q := fld w0 20 5
      let sem := fld w0 6 6
      let amt := fld w0 12 8
      (fld w0 4 2 = 1 → exec (.foragerWait ch) s = .next (modChan s ch.val fun x => { x with st := .wait })) ∧
      (fld w0 4 2 ≠ 1 → clusterPresent s q = true →
        (amt ≤ semOf s q sem → exec (.foragerWait ch) s = .next (modChan (setSem s q sem (semOf s q sem - amt)) ch.val advanceChan)) ∧
        (semOf s q sem < amt → exec (.foragerWait ch) s = .next (modChan s ch.val fun x => { x with st := .wait, waitSince := some (logicNs s) }))) ∧
      (fld w0 4 2 ≠ 1 → clusterPresent s q = false → exec (.foragerWait ch) s = .next (chanFault s ch.val 2))) ∧
    (chanRuns s ch.val = true → c.st = .wait → fld w0 0 6 = 3 → let q := fld w0 20 5
      let sem := fld w0 6 6
      let amt := fld w0 12 8
      (amt ≤ semOf s q sem → exec (.foragerWaitRelease ch) s = .next (modChan (setSem s q sem (semOf s q sem - amt)) ch.val advanceChan)) ∧
      (semOf s q sem < amt → exec (.foragerWaitRelease ch) s = .next s)) ∧
    (chanReady s ch.val 4 = true →
      (signalFault s ch.val w0 ≠ 0 → exec (.foragerSignal ch) s = .next (chanFault s ch.val (signalFault s ch.val w0))) ∧
      (signalFault s ch.val w0 = 0 →
        (c.ownWrites ≠ [] → exec (.foragerSignal ch) s = .next (modChan (modChan s ch.val fun x => { x with
          signals := x.signals ++ [(c.ownWrites, w0)] }) ch.val advanceChan)) ∧
        (c.ownWrites = [] → w0.getLsbD 4 = false → let q := fld w0 19 5
          let sem := fld w0 5 6
          exec (.foragerSignal ch) s = .next (modChan (setSem s q sem (semSum (semOf s q sem) (fld w0 11 8))) ch.val advanceChan)) ∧
        (∀ e, c.ownWrites = [] → w0.getLsbD 4 = true → rankEid s c.pkey (fld w0 28 15) = some e → ∃ t o, exec (.foragerSignal ch) s = .next t ∧
          t.comb.orig = s.comb.orig ++ [o] ∧ o.owner = 680 + ch.val ∧ o.frame = mkFrame (fld w0 43 3) c.pkey 0 6 e s.dev.eid.toNat ch.val
            (stepField s c.pkey) c.seq.toNat false 0 (bytesOfNat (fld w0 24 4) 8) ∧
          (c.loops = [] → (chan t).pc = c.pc + 1) ∧ t.comp = s.comp))) ∧
    (∀ v amt, v + amt ≤ 65535 → semSum v amt = v + amt) ∧
    (chanReady s ch.val 5 = true → exec (.foragerEnd ch) s = .next (modChan s ch.val fun x => { x with st := .done })) ∧
    (∀ row op, (row, op) ∈ [(Instr.foragerLoop ch, 2), (.foragerWait ch, 3), (.foragerSignal ch, 4), (.foragerEnd ch, 5)] →
      chanReady s ch.val op = false → exec row s = .next s) ∧
    ∀ t : State, (chan t).loops = [] → (chan t).st = .run ∨ (chan t).st = .wait →
      chan (modChan t ch.val advanceChan) = { chan t with pc := (chan t).pc + 1, st := .run, waitSince := none, moveSince := none }

/-- Ordered sets, the fence and beacons (10 R309, R310; 12 R355; 13 R387, R388; 14 R415): a set on a sideband that is down does
nothing, one that is not right counts SB_ERROR, and a repeat within 1 µs of the sets sent three times does nothing; FENCE with
a higher epoch fences a joined or active module, or frees a fenced one; a BEACON with state 8 fences its port; a BEACON leaves
every 10 µs on every sideband; three missing ones mark the neighbour DEAD until the next. A free sideband sends the oldest set of
the highest priority that may go (assumption 111). -/
def Obligations.SidebandSets : Prop :=
  (∀ (s : State) (rx : SetRx) (row : Instr) (code : Byte) (zero : BitVec 40), (row, code, zero) ∈ setRows rx →
    (auxOn s = false ∨ (portOf s rx.port.val).sb = false → exec row s = .next s) ∧
    (auxOn s = true → (portOf s rx.port.val).sb = true → setOk code zero rx = false → exec row s = .next (count s .sbError rx.port.val)) ∧
    (code ≠ codeBeacon → code ≠ codeTime → setOk code zero rx = true → isRepeat s code rx = true → exec row s = .next s)) ∧
  (∀ (s : State) (rx : SetRx), setFresh s codeFence 0xFE00000000 rx → let v := noteSet s codeFence rx
    let epoch := fld rx.payload 0 32
    let u := { v with dev := { s.dev with epoch := BitVec.ofNat 32 epoch } }
    let run := exec (.fence rx) s
    (clocksHeld s = true → run = .next { v with dev := { s.dev with heldSets := s.dev.heldSets ++ [rx] } }) ∧
    (clocksHeld s = false → (epoch ≤ s.dev.epoch.toNat → run = .next v) ∧
      (s.dev.epoch.toNat < epoch →
        (rx.payload.getLsbD 32 = true → s.dev.mode = .joined → run = .next (setMode u .fenced)) ∧
        (rx.payload.getLsbD 32 = true → s.dev.mode = .active → ∃ t, run = .next t ∧ t.dev.mode = .fenced ∧
          t.dev.epoch = BitVec.ofNat 32 epoch ∧ t.job.launch = none) ∧
        (rx.payload.getLsbD 32 = false → s.dev.mode = .fenced → run = .next (setMode u .joined))))) ∧
  (∀ (s : State) (rx : SetRx), auxOn s = true → (portOf s rx.port.val).sb = true → setOk codeBeacon 0 rx = true → let p := rx.port.val
    let st := fld rx.payload 32 8
    let dead := (portOf s p).nbW1.getLsbD 49
    let ports := tblMod {} s.ports p fun q => { q with beaconRx := nowNs s, nbState := st, nbW1 := setFlag q.nbW1 49 false }
    exec (.beacon rx) s = .next { s with
      ports := ports
      dev := { s.dev with eventLog := if dead then s.dev.eventLog ++ [(evHeard, p, nowNs s)] else s.dev.eventLog }
      fab := { s.fab with fence := if st = 8 then tblSet false s.fab.fence p true else s.fab.fence } }) ∧
  (∀ s : State, let due := (sbPorts s).filter fun p => decide ((portOf s p).beaconTx + 10000 ≤ nowNs s)
    (s.dev.mode = .off ∨ s.dev.mode = .aux ∨ s.dev.recovery = true → exec .beaconSend s = .next s) ∧
    (s.dev.mode ≠ .off → s.dev.mode ≠ .aux → s.dev.recovery = false → ∃ t, exec .beaconSend s = .next t ∧
      t.sbq = s.sbq ++ due.map (fun p => .ordered p codeBeacon
        (BitVec.ofNat 40 ((portOf s p).beaconSeq.toNat + 2 ^ 16 * s.dev.eid.toNat + 2 ^ 32 * s.dev.mode.code))) ∧
      (∀ p ∈ due, portOf t p = { portOf s p with beaconSeq := (portOf s p).beaconSeq + 1, beaconTx := nowNs s }) ∧
      (∀ p, p ∉ due → portOf t p = portOf s p) ∧ t = { s with sbq := t.sbq, ports := t.ports })) ∧
  ∀ (s : State) (p : Fin 64), let q := portOf s p.val
    (auxOn s = true → q.sb = true → q.nbW1.getLsbD 49 = false → q.beaconRx + 30000 ≤ nowNs s → exec (.neighbourSilent p) s =
      .next (count { s with
        ports := tblMod {} s.ports p.val fun q => { q with nbW1 := setFlag q.nbW1 49 true }
        dev := { s.dev with eventLog := s.dev.eventLog ++ [(evSilent, p.val, nowNs s)] } } .neighbourSilent p.val)) ∧
    (nowNs s < q.beaconRx + 30000 → exec (.neighbourSilent p) s = .next s) ∧
    (∀ (c : Byte) (y : BitVec 40) (pre suf : List OutEvent), let e := OutEvent.ordered p.val c y
      let beats := fun x : OutEvent => sidePort x = p.val → sideMay s x = true → sideRank e ≤ sideRank x
      s.sbq = pre ++ e :: suf → q.sb = true → q.sbBusy ≤ s.clk.ticks → sideMay s e = true → c ≠ codeTime →
      (∀ x ∈ pre ++ suf, beats x) → (∀ x ∈ pre, sidePort x = p.val → sideMay s x = true → sideRank x ≠ sideRank e) →
      sideSend s p.val = emit (sideTaken { s with sbq := pre ++ suf } p.val false) e) ∧
    (q.sb = false ∨ s.clk.ticks < q.sbBusy → sideSend s p.val = s)

/-- Swarm time (14 R402, R403; 10 R310; assumptions 13, 111, 129): a module asks its parent every 1 µs, in a set that carries the time at
which it leaves, and answers its children after 64 BCLK cycles where the sideband is free then;
the parent's answer steps the count before READY and slews it from READY onward; an answer that takes more than 128 BCLK
cycles is not used; the parent follows the rules of R402. -/
def Obligations.SwarmTime : Prop :=
  (∀ s : State, let p := s.clk.parent
    (auxOn s = true → p < 64 → (portOf s p).sb = true → s.clk.askAt + 48000 ≤ s.clk.t48 → exec .timeSend s = .next { s with
      sbq := s.sbq ++ [.ordered p codeTime 0]
      clk := { s.clk with askAt := s.clk.t48 } }) ∧
    (64 ≤ p ∨ s.clk.t48 < s.clk.askAt + 48000 → exec .timeSend s = .next s)) ∧
  (∀ (s : State) (p : Fin 64) (rest : List OutEvent), (portOf s p.val).sb = true → (portOf s p.val).sbBusy ≤ s.clk.ticks →
    (portOf s p.val).wagEnd ≤ s.clk.ticks → s.sbq = .ordered p.val codeTime 0 :: rest → (∀ e ∈ rest, sidePort e = p.val → 3 ≤ sideRank e) →
    (∀ d ∈ s.clk.due, d.1 = p.val → d.2 < s.clk.t48 ∨ s.clk.t48 + 1600 ≤ d.2) → let t := sideSend s p.val
      t.sbq = rest ∧ t.out = s.out ++ [.ordered p.val codeTime (BitVec.ofNat 40 (s.clk.t48 / 48))] ∧
      (p.val = s.clk.parent → t.clk = { s.clk with asked := some s.clk.t48 }) ∧ (p.val ≠ s.clk.parent → t.clk = s.clk)) ∧
  (∀ (s : State) (rx : SetRx), auxOn s = true → (portOf s rx.port.val).sb = true → setOk codeTime 0 rx = true →
    (rx.port.val ≠ s.clk.parent → exec (.time rx) s = .next { s with clk := { s.clk with
      due := s.clk.due ++ [(rx.port.val, s.clk.t48 + 12800)] } }) ∧
    (rx.port.val = s.clk.parent → s.clk.asked = none → exec (.time rx) s = .next s) ∧
    ∀ t1, rx.port.val = s.clk.parent → s.clk.asked = some t1 → let t4 := s.clk.t48
      (t1 + 25600 < t4 → exec (.time rx) s = .next { s with clk := { s.clk with asked := none } }) ∧
      (t4 ≤ t1 + 25600 → ∃ (d : Int) (c : Clock), exec (.time rx) s = .next { s with clk := c } ∧ c.asked = none ∧
        -(2 ^ 39 * 48) ≤ d ∧ d < 2 ^ 39 * 48 ∧
        (48 * (rx.payload.toNat : Int) + ((t4 : Int) - t1 - 12800) / 2 - t4 - d) % (2 ^ 40 * 48) = 0 ∧
        (s.dev.mode.code < 3 → c.t48 = ((t4 : Int) + d).toNat ∧ c.askAt = ((s.clk.askAt : Int) + d).toNat ∧
          c.due = s.clk.due.map (fun e => (e.1, ((e.2 : Int) + d).toNat)) ∧ c.slew = s.clk.slew) ∧
        (3 ≤ s.dev.mode.code → c.t48 = t4 ∧ c.slew = d ∧ (c.timeFault = true ↔ 48000 < d.natAbs)))) ∧
  (∀ (s : State) (p : Fin 64) (at_ : Nat) (r : List (Nat × Nat)), s.clk.due = (p.val, at_) :: r →
    let t := { s with clk := { s.clk with due := r } }
    let free := (portOf s p.val).sb = true ∧ (portOf s p.val).sbBusy ≤ s.clk.ticks ∧ (portOf s p.val).wagEnd ≤ s.clk.ticks ∧
      ∀ e ∈ s.sbq, sidePort e = p.val → 3 ≤ sideRank e
    (at_ ≤ s.clk.t48 → s.clk.t48 < at_ + 200 → free → exec (.timeAnswer p) s = .next { sideTaken t p.val false with
      out := s.out ++ [.ordered p.val codeTime (BitVec.ofNat 40 (at_ / 48))] }) ∧
    (at_ ≤ s.clk.t48 → at_ + 200 ≤ s.clk.t48 ∨ ¬free → exec (.timeAnswer p) s = .next t) ∧
    ((∀ d ∈ s.clk.due, d.1 = p.val → s.clk.t48 < d.2) → exec (.timeAnswer p) s = .next s)) ∧
  (∀ (s : State) (t1 : Nat), s.clk.asked = some t1 →
    (auxOn s = true → t1 + 25600 < s.clk.t48 → exec .timeAnswerMissing s = .next { s with clk := { s.clk with asked := none } }) ∧
    (s.clk.t48 ≤ t1 + 25600 → exec .timeAnswerMissing s = .next s)) ∧
  ∀ s : State, let slot := s.ident.slot.toNat
    let up := fun p => (portOf s p).sb = true
    let early := s.dev.mode = .aux ∨ s.dev.mode = .boot
    let late := early → ∀ p, p < 64 → up p → (portOf s p).nbState < 3
    let twin := s.ident.twinPresent = true ∧ (portOf s 31).peerTwin = true ∧ ((portOf s 31).tx = .up ∨ (portOf s 31).tx = .narrow)
    let other := s.ident.side = false ∨ ¬twin ∨ ¬up 31
    let lower := fun p => 32 ≤ p ∧ p < 64 ∧ up p ∧ ((portOf s p).tx = .up ∨ (portOf s p).tx = .narrow) ∧ (portOf s p).nbW1.getLsbD 48 = true ∧ nbHive (portOf s p) < s.ident.hive.toNat
    let becomes := fun p : Nat => p ≠ s.clk.parent → exec .timeParentChange s = .next { s with
      clk := { s.clk with parent := p, root := p == 127, asked := none, parentLost := none } }
    (timeParent s = s.clk.parent → exec .timeParentChange s = .next s) ∧
    (auxOn s = true →
      (∀ p, early → p < 64 → up p → 3 ≤ (portOf s p).nbState → (∀ k, k < p → up k → (portOf s k).nbState < 3) → becomes p) ∧
      (late → s.ident.side = true → twin → up 31 → becomes 31) ∧
      (late → other → slot ≠ 0 → up (31 - slot) → becomes (31 - slot)) ∧
      (late → other → slot ≠ 0 → ¬up (31 - slot) → becomes 127) ∧
      (∀ p, late → other → slot = 0 → lower p →
        (∀ k, lower k → k ≠ p → nbHive (portOf s p) < nbHive (portOf s k) ∨ (nbHive (portOf s p) = nbHive (portOf s k) ∧ p < k)) → becomes p) ∧
      (late → other → slot = 0 → (∀ k, ¬lower k) → becomes 127))

/-- The waggle (08 R267 to R271; 10 R307, R308): the sideband comes up and is lost; ANNOUNCE leaves every 100 µs with the data
lanes down and every 1 ms with them up; an ANNOUNCE is recorded and answered once, by ACCEPT with the highest common version,
or by REJECT for no version, wrong wiring or a twin that differs; a port whose ACCEPTs match enters TRAIN, and a moved cable
takes it down; a REJECT keeps the port down with its fault. -/
def Obligations.WaggleNegotiates : Prop :=
  (∀ (s : State) (p : Fin 64), let q := portOf s p.val
    let period := if q.tx = .down ∨ q.tx = .negotiate then 100000 else 1000000
    (auxOn s = true → q.sb = false → exec (.sidebandUp p) s = .next { s with
      ports := tblMod {} s.ports p.val fun x => { x with sb := true, beaconRx := nowNs s, recent := [] } }) ∧
    (q.sb = true → exec (.sidebandUp p) s = .next s) ∧ (q.sb = false → exec (.sbLost p) s = .next s) ∧
    (q.sb = true → ∃ t, exec (.sbLost p) s = .next t ∧ let x := portOf t p.val
      x.sb = false ∧ x.tx = .down ∧ x.rx = .down ∧ x.nbSerial = 0 ∧ x.nbW1 = 0 ∧ x.fault = some .sbLost ∧
      (s.comb.metaErrs = [] → s.hbm.selErrs = [] → s.hbm.lenErrs = [] → ∀ k, k ≠ p.val → portOf t k = portOf s k) ∧
      (∀ d ∈ t.clk.due, d.1 ≠ p.val) ∧ ∀ e ∈ t.sbq, sidePort e ≠ p.val) ∧
    (2 ≤ s.dev.mode.code → q.sb = true → q.lastAnnounce + period ≤ nowNs s → exec (.announceSend p) s = .next { s with
      sbq := waggled s p.val (myWaggle s p.val 1 0 0 0)
      ports := tblMod {} s.ports p.val fun x => { x with lastAnnounce := nowNs s } }) ∧
    (nowNs s < q.lastAnnounce + period → exec (.announceSend p) s = .next s)) ∧
  (∀ (s : State) (rx : WaggleRx) (type : Nat) (row : Instr),
    (type, row) ∈ [(1, Instr.announce rx), (2, .accept rx), (3, .reject rx), (4, .spareReq rx), (5, .spareDone rx)] → wagHeard s rx type = false →
    let p := rx.set.port.val
    let here := auxOn s && (portOf s p).sb
    (here = true → setOk codeWaggle (~~~0) rx.set = false → exec row s = .next (count s .sbError p)) ∧
    (here = false ∨ setOk codeWaggle (~~~0) rx.set = true → exec row s = .next s)) ∧
  (∀ (s : State) (rx : WaggleRx), wagHeard s rx 1 = true → let p := rx.set.port.val
    let w := rx.bits
    let q := portOf s p
    let run := exec (.announce rx) s
    let heard := recordPeer q w
    let shut := p < 32 ∧ s.ident.hivePresent = false
    let same := q.linkUp = some (wgSerial w, wgPort w)
    let common := commonVersion (mfpMask s p) (wgSet w)
    let locking := fun v : Nat => List.replicate 8 Lane.locking ++ [if mfpOfVer v = 1 then .off else .locking]
    (lanesDown q = true → shut → ∃ t, run = .next t ∧ portOf t p = heard ∧ t = { s with ports := t.ports } ∧ ∀ k, k ≠ p → portOf t k = portOf s k) ∧
    (∀ v, lanesDown q = true → ¬shut → common = some v → wiringBad s p w = false → twinBad s p w = false →
      (q.recvAccept ≠ some (v, wgSerial w) → ∃ t, run = .next t ∧
        portOf t p = { heard with sentAccept := some (v, wgSerial w), tx := .negotiate, rx := .negotiate } ∧
        t = { s with sbq := waggled s p (myWaggle s p 2 v 0 (wgSerial w)), ports := t.ports } ∧ ∀ k, k ≠ p → portOf t k = portOf s k) ∧
      (q.recvAccept = some (v, wgSerial w) → p ∉ s.ident.calBad → ∃ t, run = .next t ∧
        portOf t p = { heard with
          sentAccept := some (v, wgSerial w), tx := .train, rx := .train, acceptAt := nowNs s, mfp := mfpOfVer v
          flc := fld s.ident.flc (3 * p) 3, linkUp := some (wgSerial w, wgPort w), nbW1 := setFld heard.nbW1 40 8 v
          settings := laneSettings s p (fld s.ident.flc (3 * p) 3), txLanes := locking v, rxLanes := locking v } ∧
        t = { s with sbq := waggled s p (myWaggle s p 2 v 0 (wgSerial w)), ports := t.ports } ∧ ∀ k, k ≠ p → portOf t k = portOf s k)) ∧
    (∀ v, lanesDown q = false → ¬shut → same → common = some v → wiringBad s p w = false → twinBad s p w = false → ∃ t, run = .next t ∧
      portOf t p = heard ∧ t = { s with sbq := waggled s p (myWaggle s p 2 v 0 (wgSerial w)), ports := t.ports }) ∧
    (∀ v, lanesDown q = false → ¬shut → ¬same → common = some v → wiringBad s p w = false → twinBad s p w = false → ∃ t, run = .next t ∧
      (portOf t p).tx = .negotiate ∧ (portOf t p).rx = .negotiate ∧ (portOf t p).sentAccept = some (v, wgSerial w) ∧ (portOf t p).recvAccept = none) ∧
    (lanesDown q = true ∨ same → ¬shut → ∀ reason,
      (if common = none then 1 else if wiringBad s p w then 2 else if twinBad s p w then 3 else 0) = reason → reason ≠ 0 →
      ∃ t evs, run = .next t ∧ t.sbq = waggled s p (myWaggle s p 3 0 reason (wgSerial w)) ++ evs ∧
        portFell s t p (if reason = 1 then some .linkNoVersion else if reason = 2 then some .wiringFault else q.fault) ∧
        (reason = 3 → t.health.twinMismatch = true ∧ t.health.paired = false))) ∧
  (∀ (s : State) (rx : WaggleRx), wagHeard s rx 2 = true → let p := rx.set.port.val
    let q := portOf s p
    let a := (wgChosen rx.bits, wgSerial rx.bits)
    (wgPeer rx.bits ≠ s.ident.serial → exec (.accept rx) s = .next s) ∧
    (wgPeer rx.bits = s.ident.serial → p < 32 → s.ident.hivePresent = false → exec (.accept rx) s = .next s) ∧
    (wgPeer rx.bits = s.ident.serial → 32 ≤ p ∨ s.ident.hivePresent = true → lanesDown q = true →
      (q.sentAccept ≠ some a → ∃ t, exec (.accept rx) s = .next t ∧ portOf t p = { q with recvAccept := some a } ∧ t = { s with ports := t.ports }) ∧
      (q.sentAccept = some a → p ∉ s.ident.calBad → ∃ t, exec (.accept rx) s = .next t ∧ (portOf t p).tx = .train ∧ (portOf t p).rx = .train ∧
        (portOf t p).mfp = mfpOfVer a.1 ∧ (portOf t p).flc = fld s.ident.flc (3 * p) 3 ∧ (portOf t p).linkUp = some (a.2, fld q.nbW1 16 8) ∧
        fld (portOf t p).nbW1 40 8 = a.1 ∧ (portOf t p).settings = laneSettings s p (fld s.ident.flc (3 * p) 3) ∧ t = { s with ports := t.ports }) ∧
      (q.sentAccept = some a → p ∈ s.ident.calBad → ∃ t, exec (.accept rx) s = .next t ∧ portFell s t p (some .calBad)))) ∧
  ∀ (s : State) (rx : WaggleRx), wagHeard s rx 3 = true → wgPeer rx.bits = s.ident.serial → ∀ f,
    (wgReason rx.bits, f) ∈ [(1, some PFault.linkNoVersion), (2, some .wiringFault), (3, (portOf s rx.set.port.val).fault)] →
    ∃ t, exec (.reject rx) s = .next t ∧ portFell s t rx.set.port.val f

/-- Training and measurement (08 R242, R249, R256, R263; 10 R294, R296, R297, R299, R303): a port's words are dealt over its lanes
in rotation, a codeword's header names the first word of a frame, and a receiver finds the frames between idle words; TRAIN ends with a skew of at most 76 cycles, in UP on an MFP 2.4 link
and in PROBE on an MFP 3.x link; a probe is echoed; 16 equal echoes set LINK_DELAY and bring the port up, unequal ones or a
TRAIN of 5 ms take it down; a port whose headroom does not fit P0 stays down. -/
def Obligations.LinksComeUp : Prop :=
  (∀ (W N i : Nat) (ws : List PortWord), i < W * N → ws.length = W * N →
    (laneWords W N (i % W) ws).length = N ∧ (laneWords W N (i % W) ws)[i / W]? = ws[i]?) ∧
  (∀ fs : List (Nat × Frame), (∀ e ∈ fs, frmLen e.2 = e.2.payload.length ∧ fld e.2.w0 0 8 ≠ 0) →
    ((fs.flatMap fun e => List.replicate e.1 0 ++ frameWords e.2).foldl delimitWord {}).frames = fs.map fun e => frameWords e.2) ∧
  (∀ (c : Fec) (k n : Nat) (ws : List PortWord), n < 8 → ws.length = c.words → c.words ≤ 127 → let h := headerOf k n ws
    (payloadSymbols c h ws).length = c.data ∧ fld h.bits 0 7 = h.ppos ∧ fld h.bits 7 7 = h.fpos ∧ h.bits.getLsbD 14 = decide (k % 16384 = 0) ∧
    fld h.bits 15 3 = n ∧ h.bits.getLsbD 18 = false ∧
    (h.fpos = 127 ↔ ∀ w, PortWord.first w ∉ ws) ∧ ∀ j, j < 127 → h.fpos = j →
      (∃ w, ws[j]? = some (.first w)) ∧ ∀ i w, i < j → ws[i]? ≠ some (PortWord.first w)) ∧
  (∀ marks : List Nat, (∀ a ∈ marks, ∀ b ∈ marks, a ≤ b + 40 * skewOf marks) ∧
    (0 < skewOf marks → ∃ a ∈ marks, ∃ b ∈ marks, b + 40 * (skewOf marks - 1) < a)) ∧
  (∀ (s : State) (p : Fin 64) (marks : List Nat), let q := portOf s p.val
    let skew := skewOf marks
    let h := headroom p.val q.mfp q.flc
    let lanes := List.replicate 8 Lane.active ++ [if q.mfp = 1 then Lane.off else .standby]
    let run := exec (.trainComplete p marks) s
    (q.tx ≠ .train → run = .next s) ∧
    (q.tx = .train → clocksRun s = true → q.sb = true → (∀ l ∈ q.rxLanes ++ q.txLanes, l ≠ .failed) →
      (76 < skew → ∃ t, run = .next t ∧ portFell s t p.val (some .skewFault)) ∧
      (skew ≤ 76 → q.mfp ≠ 1 → ∃ t, run = .next t ∧
        portOf t p.val = { q with
          deskew := skew, txLanes := lanes, rxLanes := lanes, txWorn := .none, rxWorn := .none, tx := .probe, rx := .probe, probesSent := q.probesSent + 1
          probeAt := q.probeAt ++ [scNow s] } ∧
        (∃ f, t = { s with out := s.out ++ [.frame p.val f none], ports := t.ports } ∧ frmOp f = 9 ∧ frmCls f = 7 ∧ frmSeq f = q.probesSent % 2 ^ 32 ∧
          fld f.w0 0 8 = verOf q.mfp ∧ f.w0.getLsbD 11 = s.fab.srcEpoch) ∧
        ∀ k, k ≠ p.val → portOf t k = portOf s k) ∧
      (skew ≤ 76 → q.mfp = 1 → reservedTotal s 0 + h ≤ poolCount 0 → ∃ t, run = .next t ∧ portRose s t p.val 0 ∧
        (portOf t p.val).deskew = skew ∧ (portOf t p.val).rxLanes = lanes ∧ (portOf t p.val).rxWorn = .none ∧ (portOf t p.val).txWorn = .none) ∧
      (skew ≤ 76 → q.mfp = 1 → poolCount 0 < reservedTotal s 0 + h → ∃ t, run = .next t ∧ portFell s t p.val (some .hdrmShort)))) ∧
  (∀ (s : State) (p : Fin 64), let q := portOf s p.val
    (q.tx = .train → q.sb = true → q.acceptAt + 5000000 ≤ nowNs s → ∃ t, exec (.trainTimeout p) s = .next t ∧ portFell s t p.val q.fault) ∧
    (q.tx ≠ .train ∨ nowNs s < q.acceptAt + 5000000 → exec (.trainTimeout p) s = .next s)) ∧
  (∀ (s : State) (p : Fin 64) (f : Frame), let q := portOf s p.val
    let k := frmSeq f
    let bad := ingressBad s p.val { frame := f, fec := false }
    let lost := discard (if stomped f then count s .frameStomped p.val else s) p.val f .frameError p.val 127 0 0
    frmOp f = 9 → clocksRun s = true →
    (q.tx = .sparing → exec (.linkprobe p f) s = .next s) ∧
    (f.w3.getLsbD 0 = false → 2 ≤ q.mfp → q.tx ≠ .sparing → (bad = true ∧ (q.rx = .probe ∨ q.rx = .up ∨ q.rx = .narrow)) ∨ q.rx = .sparing →
      exec (.linkprobe p f) s = .next lost) ∧
    (f.w3.getLsbD 0 = true → q.tx = .probe → bad = true ∨ q.rx = .sparing → exec (.linkprobeEcho p f) s = .next lost) ∧
    (f.w3.getLsbD 0 = false → 2 ≤ q.mfp → q.tx ≠ .sparing → bad = false → q.rx = .probe ∨ q.rx = .up ∨ q.rx = .narrow → ∃ g, exec (.linkprobe p f) s =
      .next { s with out := s.out ++ [.frame p.val g none] } ∧ frmOp g = 9 ∧ frmSeq g = k ∧ frmSrc g = s.dev.eid.toNat ∧ frmDest g = p.val ∧
        g.w3.getLsbD 0 = true ∧ fld g.w3 32 32 = turnaround ∧ g.w0.getLsbD 11 = s.fab.srcEpoch ∧ g.crc = frameCrc g) ∧
    (q.rx ≠ .probe → q.rx ≠ .up → q.rx ≠ .narrow → q.rx ≠ .sparing → exec (.linkprobe p f) s = .next s) ∧
    (f.w3.getLsbD 0 = true → q.tx = .probe → bad = false → q.rx ≠ .sparing → q.sb = true → k = q.probes.length → k < q.probesSent →
      let d := ((scNow s - q.probeAt.getD k 0) - fld f.w3 32 32 + 1) / 2
      let h := headroom p.val q.mfp q.flc
      (k + 1 < 16 → ∃ t, exec (.linkprobeEcho p f) s = .next t ∧ portOf t p.val = { q with
        probes := q.probes ++ [d], probesSent := q.probesSent + 1, probeAt := q.probeAt ++ [scNow s] }) ∧
      (15 ≤ k → (∀ x ∈ q.probes, x = d) → reservedTotal s 0 + h ≤ poolCount 0 → ∃ t, exec (.linkprobeEcho p f) s = .next t ∧ portRose s t p.val d) ∧
      (15 ≤ k → (∃ x ∈ q.probes, x ≠ d) → ∃ t, exec (.linkprobeEcho p f) s = .next t ∧ portFell s t p.val q.fault)) ∧
    (q.tx ≠ .probe ∨ (bad = false ∧ q.rx ≠ .sparing ∧ k ≠ q.probes.length) → exec (.linkprobeEcho p f) s = .next s))

/-- Lanes that fail and the spare (10 R298, R301, R303, R304, R306, Table 10.6): a lane that fails in UP makes its receiver
SPARING and asks for the spare, or for seven lanes; the transmitter stops, moves the lane and marks its codewords; the aligned
receiver is UP or NARROW and says so, and the transmitter follows with a pause word, in the next period when this one has had one; a lane that fails meanwhile starts the
sequence again, with the move in progress taken as made (assumption 90); a third failed lane, or 20 µs without the
next message, takes the port down; lost FEC words are counted with their frames. -/
def Obligations.LaneSparing : Prop :=
  (∀ (s : State) (p : Fin 64) (lane : Fin 9) (row : Instr) (c : Ctr), (row, c) ∈ [(Instr.lossOfSignal p lane, Ctr.losEvent), (.lossOfLock p lane, .lolEvent)] →
    let q := portOf s p.val
    let u := count s c (9 * p.val + lane.val)
    let base := movedRx q
    let lanes := setAt base.2 lane.val .failed
    let failed := (lanes.filter (· == .failed)).length
    (q.rx = .down ∨ q.rx = .negotiate → exec row s = .next s) ∧
    (q.rx ≠ .down → q.rx ≠ .negotiate → q.rxLanes[lane.val]? = some .failed ∨ q.rxLanes[lane.val]? = some .off → exec row s = .next u) ∧
    (∀ l, q.rxLanes[lane.val]? = some l → l ≠ .failed → l ≠ .off → q.sb = true →
      (q.rx ≠ .sparing → base = (q.rxMap, q.rxLanes)) ∧
      (∀ n, q.rx = .sparing → q.rxSparing = some n → q.rehearsed = false →
        base = moveLane q.rxMap q.rxLanes n (q.mfp == 1 || !q.rxLanes.any (· == .standby))) ∧
      (q.rx = .train → ∃ t, exec row s = .next t ∧ portOf t p.val = { q with rxLanes := lanes } ∧ t = { u with ports := t.ports }) ∧
      (q.rx = .probe → ∃ t, exec row s = .next t ∧ portFell s t p.val q.fault) ∧
      (q.rx = .up ∨ q.rx = .narrow ∨ q.rx = .sparing →
        ((if q.mfp = 1 then 2 else 3) ≤ failed → ∃ t, exec row s = .next t ∧ portFell s t p.val q.fault) ∧
        (failed < (if q.mfp = 1 then 2 else 3) → ∀ n, laneOf base.1 lane.val = some n →
          let narrow := q.mfp == 1 || !lanes.any (· == .standby)
          ∃ t w, exec row s = .next t ∧
            portOf t p.val = { q with
              rx := .sparing, rxSparing := some n, rxMap := base.1, rxLanes := lanes, rehearsed := q.rehearsed && q.rx != .sparing
              rxSince := some (nowNs s) } ∧
            t = { u with sbq := waggled s p.val w, ports := t.ports } ∧
            fld w 0 8 = 4 ∧ fld w 8 8 = p.val ∧ fld w 16 3 = n ∧ w.getLsbD 19 = narrow ∧ fld w 64 64 = s.ident.serial.toNat ∧ wagOk w = true)))) ∧
  (∀ (s : State) (p : Fin 64) (lane : Fin 9) (n : Nat), let q := portOf s p.val
    (q.rx = .down ∨ q.rx = .negotiate ∨ q.rx = .train → exec (.fecUncorr p lane n) s = .next s) ∧
    (q.rx ∉ [PState.down, .negotiate, .train] → ∃ c, c < 8 ∧ exec (.fecUncorr p lane n) s = .next (countN
      (count { s with ports := tblMod {} s.ports p.val fun x => { x with resync := true } } .fecUncorr (9 * p.val + lane.val)) .discard (p.val * 128 + c * 16 + Cause.frameError.code) n))) ∧
  (∀ (s : State) (rx : WaggleRx), wagHeard s rx 4 = true → let p := rx.set.port.val
    let q := portOf s p
    (q.tx ∉ [PState.up, .narrow, .sparing] → exec (.spareReq rx) s = .next s) ∧
    (q.tx ∈ [PState.up, .narrow, .sparing] → s.comb.metaErrs = [] → s.hbm.selErrs = [] → s.hbm.lenErrs = [] → ∃ t, exec (.spareReq rx) s = .next t ∧ portOf t p = { q with
      tx := .sparing, txMap := (movedTx q).1, txLanes := (movedTx q).2, txSparing := some (fld rx.bits 16 3), txNarrow := rx.bits.getLsbD 19
      txMoved := false, txSince := some (nowNs s) } ∧
      (q.tx ≠ .sparing ∨ q.txMoved = true → movedTx q = (q.txMap, q.txLanes)) ∧
      (∀ n, q.tx = .sparing → q.txMoved = false → q.txSparing = some n → movedTx q = moveLane q.txMap q.txLanes n q.txNarrow) ∧
      t.comb.queues = s.comb.queues ∧ ((tblGet {} s.comb.egress p).copies = [] → t = { s with ports := t.ports }) ∧
      ∀ c r, q.tx ≠ .sparing → (tblGet {} s.comb.egress p).copies = c :: r → let now := if clocksHeld s then s.dev.frozeAt * 50400 else unitNow s
        (∀ x ∈ c :: r, unitNow s < x.doneAt ∧ now < x.doneAt) →
        (tblGet {} t.comb.egress p).copies.map (·.frame) = (if unstarted s p now c then c :: r else r).map (·.frame))) ∧
  (∀ (s : State) (p : Fin 64), let q := portOf s p.val
    (∀ n, q.tx = .sparing → q.txMoved = false → q.txSparing = some n → ∃ t, exec (.laneMoveComplete p) s = .next t ∧
      t = { s with out := s.out ++ [.lanes p.val 64], ports := t.ports } ∧ let x := portOf t p.val
      x.txMoved = true ∧ x.txSince = some (nowNs s) ∧ x.tx = .sparing ∧ x.txWorn = (if q.txNarrow then .narrow else .spare) ∧
      (∀ k, n < 8 → q.txNarrow = false → q.txLanes[k]? = some .standby → (∀ j, j < k → q.txLanes[j]? ≠ some .standby) →
        fld x.txMap (4 * n) 4 = k % 16 ∧ x.txLanes[k]? = some .active ∧
        ∀ m, m < 8 → m ≠ n → fld x.txMap (4 * m) 4 = fld q.txMap (4 * m) 4) ∧
      (q.txNarrow = true → fld x.txMap 28 4 = 15 ∧ x.txLanes = setAt q.txLanes (fld q.txMap (4 * n) 4) .failed ∧
        ∀ m, m < 7 → fld x.txMap (4 * m) 4 = (((List.range 9).filter fun k => x.txLanes.getD k .off == .active).getD m 15))) ∧
    (q.tx ≠ .sparing ∨ q.txMoved = true → exec (.laneMoveComplete p) s = .next s) ∧
    (∀ n, q.rx = .sparing → q.rxSparing = some n → q.sb = true → let narrow := q.mfp == 1 || !q.rxLanes.any (· == .standby)
      ∃ t w, exec (.spareRxAligned p) s = .next t ∧ t.sbq = waggled s p.val w ∧ fld w 0 8 = 5 ∧ fld w 16 3 = n % 8 ∧
        wagOk w = true ∧ (portOf t p.val).rx = (if narrow then .narrow else .up) ∧ (portOf t p.val).rxSparing = none ∧
        (portOf t p.val).rxWorn = (if narrow then .narrow else if q.rehearsed then q.rxWorn else .spare) ∧
        (portOf t p.val).linkDelay = q.linkDelay ∧ (portOf t p.val).deskew = q.deskew ∧ (portOf t p.val).tx = q.tx) ∧
    (q.rx ≠ .sparing → exec (.spareRxAligned p) s = .next s) ∧
    (∀ since, q.rxSince = some since ∨ q.txSince = some since → q.sb = true → since + 20000 ≤ nowNs s →
      ∃ t, exec (.sparingTimeout p) s = .next t ∧ portFell s t p.val q.fault) ∧
    ((∀ since, q.rxSince = some since ∨ q.txSince = some since → nowNs s < since + 20000) → exec (.sparingTimeout p) s = .next s)) ∧
  ∀ (s : State) (rx : WaggleRx), wagHeard s rx 5 = true → let p := rx.set.port.val
    let q := portOf s p
    (q.tx ≠ .sparing ∨ q.txMoved = false → exec (.spareDone rx) s = .next s) ∧
    (q.tx = .sparing → q.txMoved = true → ∃ t, exec (.spareDone rx) s = .next t ∧
      ((tblGet {} s.comb.pauseTx p).period ≠ periodNow s p → ∃ word evs, t.out = s.out ++ .pause p word :: evs) ∧
      ((tblGet {} s.comb.pauseTx p).period = periodNow s p → (tblGet {} t.comb.pauseTx p).due = true) ∧
      (portOf t p).txSince = none ∧ (portOf t p).tx = (if q.txNarrow then .narrow else .up) ∧ (portOf t p).txSparing = none ∧ (portOf t p).txMap = q.txMap ∧ t.comb.queues = s.comb.queues)
end

