-- ==== Sys2Proof/Laws/Errors.lean ====
section
/-! SUPPORT. Reads that meet errors of the comb's, the stream units' and HBM's own storage (07 R216; 06 R194; 11 R325): what each
operation answers when there are none, and all that it can change when there are. -/

set_option Elab.async false

namespace Sys2Proof.Machine

variable (s : State)

/-- Nothing is wrong with what is read: the comb's read changes nothing. -/
theorem combRead_clean (p : CombMeta → Bool) (h : ∀ e ∈ s.comb.metaErrs, p e.1 = false) : combRead s p = (s, false) := by
  have : (s.comb.metaErrs.filter fun e => p e.1) = [] := by
    rw [List.filter_eq_nil_iff]; intro e he; simp [h e he]
  simp [combRead, this]

/-- Only single-bit errors are met: they are gone and counted, and nothing else changes. -/
theorem combRead_corrects (p : CombMeta → Bool) (h : ∀ e ∈ s.comb.metaErrs, p e.1 = true → e.2 = false) :
    ∃ errs st, combRead s p = ({ s with comb := { s.comb with metaErrs := errs }, stats := st }, false) := by
  have : ((s.comb.metaErrs.filter fun e => p e.1).any (·.2)) = false := by
    rw [List.any_eq_false]; intro e he
    obtain ⟨hm, hp⟩ := List.mem_filter.1 he
    simp [h e hm hp]
  unfold combRead
  dsimp only
  split
  · exact ⟨s.comb.metaErrs, s.stats, rfl⟩
  · rw [this]; exact ⟨_, _, rfl⟩

/-- Nothing is wrong with the words a unit reads: its read changes nothing. -/
theorem unitErrors_clean (u : Nat) (p : UMem → Bool) (h : ∀ e ∈ s.su.errs, (e.1 == u && p e.2.1) = false) : unitErrors s u p = (s, false) := by
  have : (s.su.errs.filter fun e => e.1 == u && p e.2.1) = [] := by
    rw [List.filter_eq_nil_iff]; intro e he; simp [h e he]
  simp [unitErrors, this]

/-- Only single-bit errors are met: they are gone and counted, and nothing else changes. -/
theorem unitErrors_corrects (u : Nat) (p : UMem → Bool) (h : ∀ e ∈ s.su.errs, (e.1 == u && p e.2.1) = true → e.2.2 = false) :
    ∃ errs st, unitErrors s u p = ({ s with su := { s.su with errs := errs }, stats := st }, false) := by
  have : ((s.su.errs.filter fun e => e.1 == u && p e.2.1).any (·.2.2)) = false := by
    rw [List.any_eq_false]; intro e he
    obtain ⟨hm, hp⟩ := List.mem_filter.1 he
    simp [h e hm hp]
  unfold unitErrors
  dsimp only
  split
  · exact ⟨s.su.errs, s.stats, rfl⟩
  · rw [this]; exact ⟨_, _, rfl⟩

/-- Correcting SEL, DIRTY, CLEN and PLEN changes only which of their words have errors. -/
theorem metaFix_frame (a n : Nat) : ∃ x y, metaFix s a n = { s with hbm := { s.hbm with selErrs := x, lenErrs := y } } := by
  unfold metaFix
  split
  · exact ⟨s.hbm.selErrs, s.hbm.lenErrs, rfl⟩
  · exact ⟨_, _, rfl⟩

/-- Without errors there is nothing to correct, and nothing is wrong. -/
theorem metaFix_clean (a n : Nat) (h : s.hbm.selErrs = []) (h' : s.hbm.lenErrs = []) : metaFix s a n = s := by simp [metaFix, h, h']
theorem metaBad_clean (a n : Nat) (h : s.hbm.selErrs = []) (h' : s.hbm.lenErrs = []) : metaBad s a n = false := by simp [metaBad, h, h', tblGet]

end Sys2Proof.Machine
end

