-- ==== Sys2Proof/Laws/Sceuf.lean ====
section
/-! SUPPORT. What the shared operations of the Sceuf service do: one lemma for a command that passes its checks, one for a
command that fails one, and what a response leaves alone. -/

set_option Elab.async false

namespace Sys2Proof.Machine

/-- A command that passes its checks is run (12 R357). -/
theorem checkAndRun_accepted {c : Cmd} {src : ReqSrc} {s : State} {r : Req} (h : accepted c src s r = true) :
    frontReq c.code src s = some r ∧ repeated s r = none ∧ checkAndRun c (takeReq s r) r = c.run (takeReq s r) r := by
  simp only [accepted, Bool.and_eq_true, beq_iff_eq, Option.isNone_iff_eq_none, Bool.not_eq_true', decide_eq_true_eq] at h
  obtain ⟨⟨⟨⟨⟨⟨⟨⟨⟨⟨h1, hr⟩, hl⟩, h2⟩, h3⟩, h4⟩, h5⟩, h6⟩, h7⟩, h8⟩, h9⟩ := h
  have hm : (takeReq s r).dev = s.dev := rfl
  refine ⟨h1, hr, ?_⟩
  unfold checkAndRun
  simp only [h2, h3, hm, hl, h4, h7, h8, h9, Bool.false_and, Bool.false_eq_true, if_false, Bool.not_true, Bool.true_or, if_true]
  simp [Nat.not_lt.mpr h5, Nat.not_lt.mpr h6]

/-- A command that passes its checks runs, and its response goes back (12 R345, R346, R357). -/
theorem runCmd_accepted {c : Cmd} {src : ReqSrc} {s : State} {r : Req} (h : accepted c src s r = true) :
    runCmd c src s = respond (c.run (takeReq s r) r).s r (c.run (takeReq s r) r).status.code (c.run (takeReq s r) r).detail
      (c.run (takeReq s r) r).resp := by
  obtain ⟨front, first, run⟩ := checkAndRun_accepted h
  simp only [runCmd, front, first, run]

/-- A command that is done. -/
theorem runCmd_done {c : Cmd} {src : ReqSrc} {s t : State} {r : Req} {resp : List Word} (h : accepted c src s r = true)
    (hr : c.run (takeReq s r) r = done t resp) : runCmd c src s = okReply t r resp := by
  rw [runCmd_accepted h, hr]; rfl

/-- What a response changes: BAR2, the pending vectors, what leaves the module, kept responses and frames that wait. -/
theorem respond_frame (s : State) (r : Req) (st d : Nat) (resp : List Word) :
    ∃ out bar2 pend kept orig, respond s r st d resp = { s with
      out := out
      host := { s.host with bar2 := bar2, msixPending := pend }
      sceuf := { s.sceuf with kept := kept }
      comb := { s.comb with orig := orig } } := by
  unfold respond
  dsimp only
  split
  · split
    · unfold msix
      split
      · exact ⟨_, _, _, _, _, rfl⟩
      · exact ⟨_, _, _, _, _, rfl⟩
    · exact ⟨_, _, _, _, _, rfl⟩
  · unfold sendMsg
    by_cases hs : (sessionOf s r).isSome = true <;> simp only [hs, if_true, if_false, Bool.false_eq_true]
    · split <;> exact ⟨_, _, _, _, _, rfl⟩
    · split <;> exact ⟨_, _, _, _, _, rfl⟩

section frame
variable (s : State) (r : Req) (st d : Nat) (resp : List Word)

@[simp] theorem respond_pending : (respond s r st d resp).pending = s.pending := by obtain ⟨_, _, _, _, _, h⟩ := respond_frame s r st d resp; rw [h]
@[simp] theorem respond_dev : (respond s r st d resp).dev = s.dev := by obtain ⟨_, _, _, _, _, h⟩ := respond_frame s r st d resp; rw [h]
@[simp] theorem respond_fab : (respond s r st d resp).fab = s.fab := by obtain ⟨_, _, _, _, _, h⟩ := respond_frame s r st d resp; rw [h]
@[simp] theorem respond_su : (respond s r st d resp).su = s.su := by obtain ⟨_, _, _, _, _, h⟩ := respond_frame s r st d resp; rw [h]
@[simp] theorem respond_coll : (respond s r st d resp).coll = s.coll := by obtain ⟨_, _, _, _, _, h⟩ := respond_frame s r st d resp; rw [h]
@[simp] theorem respond_hbm : (respond s r st d resp).hbm = s.hbm := by obtain ⟨_, _, _, _, _, h⟩ := respond_frame s r st d resp; rw [h]
@[simp] theorem respond_fgr : (respond s r st d resp).fgr = s.fgr := by obtain ⟨_, _, _, _, _, h⟩ := respond_frame s r st d resp; rw [h]
@[simp] theorem respond_comp : (respond s r st d resp).comp = s.comp := by obtain ⟨_, _, _, _, _, h⟩ := respond_frame s r st d resp; rw [h]
@[simp] theorem respond_job : (respond s r st d resp).job = s.job := by obtain ⟨_, _, _, _, _, h⟩ := respond_frame s r st d resp; rw [h]
@[simp] theorem respond_stats : (respond s r st d resp).stats = s.stats := by obtain ⟨_, _, _, _, _, h⟩ := respond_frame s r st d resp; rw [h]
@[simp] theorem respond_health : (respond s r st d resp).health = s.health := by obtain ⟨_, _, _, _, _, h⟩ := respond_frame s r st d resp; rw [h]
@[simp] theorem respond_power : (respond s r st d resp).power = s.power := by obtain ⟨_, _, _, _, _, h⟩ := respond_frame s r st d resp; rw [h]
@[simp] theorem respond_sec : (respond s r st d resp).sec = s.sec := by obtain ⟨_, _, _, _, _, h⟩ := respond_frame s r st d resp; rw [h]
@[simp] theorem respond_clk : (respond s r st d resp).clk = s.clk := by obtain ⟨_, _, _, _, _, h⟩ := respond_frame s r st d resp; rw [h]
@[simp] theorem respond_ident : (respond s r st d resp).ident = s.ident := by obtain ⟨_, _, _, _, _, h⟩ := respond_frame s r st d resp; rw [h]
@[simp] theorem respond_ports : (respond s r st d resp).ports = s.ports := by obtain ⟨_, _, _, _, _, h⟩ := respond_frame s r st d resp; rw [h]
@[simp] theorem respond_freeCount : (respond s r st d resp).freeCount = s.freeCount := by obtain ⟨_, _, _, _, _, h⟩ := respond_frame s r st d resp; rw [h]

end frame

/-- A command that is refused by its own checks leaves the state but for the answer. -/
theorem runCmd_refused {c : Cmd} {src : ReqSrc} {s : State} {r : Req} {st : Status} {d : Nat} (h : accepted c src s r = true)
    (hr : c.run (takeReq s r) r = refused (takeReq s r) st d) : runCmd c src s = respond (takeReq s r) r st.code d [] := by
  rw [runCmd_accepted h, hr]; rfl

/-- Argument words that pass lie in their ranges. -/
theorem wordsForm_none {maxes : List Nat} {r : Req} (h : wordsForm maxes r = none) (i : Nat) (hi : i < maxes.length) :
    rn r i ≤ maxes[i] := by
  unfold wordsForm at h
  simp only [Option.map_eq_none_iff, List.find?_eq_none] at h
  have := h (i, maxes[i]) (by
    rw [List.mem_iff_getElem]
    exact ⟨i, by simp [hi], by simp⟩)
  simpa using this

/-- Two checks pass when both do. -/
theorem orForm_none {a b : Option Nat} : orForm a b = none ↔ a = none ∧ b = none := by
  cases a <;> simp [orForm]

/-- An accepted request passes its command's own check. -/
theorem accepted_form {c : Cmd} {src : ReqSrc} {s : State} {r : Req} (h : accepted c src s r = true) :
    c.form (takeReq s r) r = none := by
  simp only [accepted, Bool.and_eq_true, Option.isNone_iff_eq_none] at h
  exact h.1.1.2

end Sys2Proof.Machine
end

