-- ==== Sys2Proof/Laws/State.lean ====
section
/-! SUPPORT. What each shared operation does to each field of the state, true by `rfl`, so that no proof unfolds a record
update; and, for the operations that choose, one lemma that says all they can change. -/

set_option Elab.async false

namespace Sys2Proof.Machine

variable (s : State)

section emit
variable (e : OutEvent)

@[simp] theorem emit_pending : (emit s e).pending = s.pending := rfl
@[simp] theorem emit_freeCount : (emit s e).freeCount = s.freeCount := rfl
@[simp] theorem emit_out : (emit s e).out = s.out ++ [e] := rfl
@[simp] theorem emit_sbq : (emit s e).sbq = s.sbq := rfl
@[simp] theorem emit_ident : (emit s e).ident = s.ident := rfl
@[simp] theorem emit_dev : (emit s e).dev = s.dev := rfl
@[simp] theorem emit_clk : (emit s e).clk = s.clk := rfl
@[simp] theorem emit_host : (emit s e).host = s.host := rfl
@[simp] theorem emit_sceuf : (emit s e).sceuf = s.sceuf := rfl
@[simp] theorem emit_fab : (emit s e).fab = s.fab := rfl
@[simp] theorem emit_comb : (emit s e).comb = s.comb := rfl
@[simp] theorem emit_ports : (emit s e).ports = s.ports := rfl
@[simp] theorem emit_su : (emit s e).su = s.su := rfl
@[simp] theorem emit_coll : (emit s e).coll = s.coll := rfl
@[simp] theorem emit_hbm : (emit s e).hbm = s.hbm := rfl
@[simp] theorem emit_fgr : (emit s e).fgr = s.fgr := rfl
@[simp] theorem emit_comp : (emit s e).comp = s.comp := rfl
@[simp] theorem emit_job : (emit s e).job = s.job := rfl
@[simp] theorem emit_stats : (emit s e).stats = s.stats := rfl
@[simp] theorem emit_health : (emit s e).health = s.health := rfl
@[simp] theorem emit_power : (emit s e).power = s.power := rfl
@[simp] theorem emit_sec : (emit s e).sec = s.sec := rfl

end emit

section countN
variable (c : Ctr) (k n : Nat)

@[simp] theorem countN_pending : (countN s c k n).pending = s.pending := rfl
@[simp] theorem countN_freeCount : (countN s c k n).freeCount = s.freeCount := rfl
@[simp] theorem countN_out : (countN s c k n).out = s.out := rfl
@[simp] theorem countN_sbq : (countN s c k n).sbq = s.sbq := rfl
@[simp] theorem countN_ident : (countN s c k n).ident = s.ident := rfl
@[simp] theorem countN_dev : (countN s c k n).dev = s.dev := rfl
@[simp] theorem countN_clk : (countN s c k n).clk = s.clk := rfl
@[simp] theorem countN_host : (countN s c k n).host = s.host := rfl
@[simp] theorem countN_sceuf : (countN s c k n).sceuf = s.sceuf := rfl
@[simp] theorem countN_fab : (countN s c k n).fab = s.fab := rfl
@[simp] theorem countN_comb : (countN s c k n).comb = s.comb := rfl
@[simp] theorem countN_ports : (countN s c k n).ports = s.ports := rfl
@[simp] theorem countN_su : (countN s c k n).su = s.su := rfl
@[simp] theorem countN_coll : (countN s c k n).coll = s.coll := rfl
@[simp] theorem countN_hbm : (countN s c k n).hbm = s.hbm := rfl
@[simp] theorem countN_fgr : (countN s c k n).fgr = s.fgr := rfl
@[simp] theorem countN_comp : (countN s c k n).comp = s.comp := rfl
@[simp] theorem countN_job : (countN s c k n).job = s.job := rfl
@[simp] theorem countN_health : (countN s c k n).health = s.health := rfl
@[simp] theorem countN_power : (countN s c k n).power = s.power := rfl
@[simp] theorem countN_sec : (countN s c k n).sec = s.sec := rfl

end countN

section count
variable (c : Ctr) (k : Nat)

@[simp] theorem count_pending : (count s c k).pending = s.pending := rfl
@[simp] theorem count_freeCount : (count s c k).freeCount = s.freeCount := rfl
@[simp] theorem count_out : (count s c k).out = s.out := rfl
@[simp] theorem count_sbq : (count s c k).sbq = s.sbq := rfl
@[simp] theorem count_ident : (count s c k).ident = s.ident := rfl
@[simp] theorem count_dev : (count s c k).dev = s.dev := rfl
@[simp] theorem count_clk : (count s c k).clk = s.clk := rfl
@[simp] theorem count_host : (count s c k).host = s.host := rfl
@[simp] theorem count_sceuf : (count s c k).sceuf = s.sceuf := rfl
@[simp] theorem count_fab : (count s c k).fab = s.fab := rfl
@[simp] theorem count_comb : (count s c k).comb = s.comb := rfl
@[simp] theorem count_ports : (count s c k).ports = s.ports := rfl
@[simp] theorem count_su : (count s c k).su = s.su := rfl
@[simp] theorem count_coll : (count s c k).coll = s.coll := rfl
@[simp] theorem count_hbm : (count s c k).hbm = s.hbm := rfl
@[simp] theorem count_fgr : (count s c k).fgr = s.fgr := rfl
@[simp] theorem count_comp : (count s c k).comp = s.comp := rfl
@[simp] theorem count_job : (count s c k).job = s.job := rfl
@[simp] theorem count_health : (count s c k).health = s.health := rfl
@[simp] theorem count_power : (count s c k).power = s.power := rfl
@[simp] theorem count_sec : (count s c k).sec = s.sec := rfl

end count

section modPort
variable (p : Nat) (f : Port → Port)

@[simp] theorem modPort_pending : (modPort s p f).pending = s.pending := rfl
@[simp] theorem modPort_freeCount : (modPort s p f).freeCount = s.freeCount := rfl
@[simp] theorem modPort_out : (modPort s p f).out = s.out := rfl
@[simp] theorem modPort_sbq : (modPort s p f).sbq = s.sbq := rfl
@[simp] theorem modPort_ident : (modPort s p f).ident = s.ident := rfl
@[simp] theorem modPort_dev : (modPort s p f).dev = s.dev := rfl
@[simp] theorem modPort_clk : (modPort s p f).clk = s.clk := rfl
@[simp] theorem modPort_host : (modPort s p f).host = s.host := rfl
@[simp] theorem modPort_sceuf : (modPort s p f).sceuf = s.sceuf := rfl
@[simp] theorem modPort_fab : (modPort s p f).fab = s.fab := rfl
@[simp] theorem modPort_comb : (modPort s p f).comb = s.comb := rfl
@[simp] theorem modPort_ports : (modPort s p f).ports = tblMod {} s.ports p f := rfl
@[simp] theorem modPort_su : (modPort s p f).su = s.su := rfl
@[simp] theorem modPort_coll : (modPort s p f).coll = s.coll := rfl
@[simp] theorem modPort_hbm : (modPort s p f).hbm = s.hbm := rfl
@[simp] theorem modPort_fgr : (modPort s p f).fgr = s.fgr := rfl
@[simp] theorem modPort_comp : (modPort s p f).comp = s.comp := rfl
@[simp] theorem modPort_job : (modPort s p f).job = s.job := rfl
@[simp] theorem modPort_stats : (modPort s p f).stats = s.stats := rfl
@[simp] theorem modPort_health : (modPort s p f).health = s.health := rfl
@[simp] theorem modPort_power : (modPort s p f).power = s.power := rfl
@[simp] theorem modPort_sec : (modPort s p f).sec = s.sec := rfl

end modPort

section modStep
variable (f : Step → Step)

@[simp] theorem modStep_pending : (modStep s f).pending = s.pending := rfl
@[simp] theorem modStep_freeCount : (modStep s f).freeCount = s.freeCount := rfl
@[simp] theorem modStep_out : (modStep s f).out = s.out := rfl
@[simp] theorem modStep_sbq : (modStep s f).sbq = s.sbq := rfl
@[simp] theorem modStep_ident : (modStep s f).ident = s.ident := rfl
@[simp] theorem modStep_dev : (modStep s f).dev = s.dev := rfl
@[simp] theorem modStep_clk : (modStep s f).clk = s.clk := rfl
@[simp] theorem modStep_host : (modStep s f).host = s.host := rfl
@[simp] theorem modStep_sceuf : (modStep s f).sceuf = s.sceuf := rfl
@[simp] theorem modStep_fab : (modStep s f).fab = s.fab := rfl
@[simp] theorem modStep_comb : (modStep s f).comb = s.comb := rfl
@[simp] theorem modStep_ports : (modStep s f).ports = s.ports := rfl
@[simp] theorem modStep_su : (modStep s f).su = s.su := rfl
@[simp] theorem modStep_coll : (modStep s f).coll = s.coll := rfl
@[simp] theorem modStep_hbm : (modStep s f).hbm = s.hbm := rfl
@[simp] theorem modStep_fgr : (modStep s f).fgr = s.fgr := rfl
@[simp] theorem modStep_comp : (modStep s f).comp = s.comp := rfl
@[simp] theorem modStep_job : (modStep s f).job = { s.job with step := s.job.step.map f } := rfl
@[simp] theorem modStep_stats : (modStep s f).stats = s.stats := rfl
@[simp] theorem modStep_health : (modStep s f).health = s.health := rfl
@[simp] theorem modStep_power : (modStep s f).power = s.power := rfl
@[simp] theorem modStep_sec : (modStep s f).sec = s.sec := rfl

end modStep

section originate
variable (i o w : Nat) (f : Frame)

@[simp] theorem originate_pending : (originate s i o w f).pending = s.pending := rfl
@[simp] theorem originate_freeCount : (originate s i o w f).freeCount = s.freeCount := rfl
@[simp] theorem originate_out : (originate s i o w f).out = s.out := rfl
@[simp] theorem originate_sbq : (originate s i o w f).sbq = s.sbq := rfl
@[simp] theorem originate_ident : (originate s i o w f).ident = s.ident := rfl
@[simp] theorem originate_dev : (originate s i o w f).dev = s.dev := rfl
@[simp] theorem originate_clk : (originate s i o w f).clk = s.clk := rfl
@[simp] theorem originate_host : (originate s i o w f).host = s.host := rfl
@[simp] theorem originate_sceuf : (originate s i o w f).sceuf = s.sceuf := rfl
@[simp] theorem originate_fab : (originate s i o w f).fab = s.fab := rfl
@[simp] theorem originate_comb : (originate s i o w f).comb = { s.comb with orig := s.comb.orig ++ [{ input := i, owner := o, frame := f, who := w }] } := rfl
@[simp] theorem originate_ports : (originate s i o w f).ports = s.ports := rfl
@[simp] theorem originate_su : (originate s i o w f).su = s.su := rfl
@[simp] theorem originate_coll : (originate s i o w f).coll = s.coll := rfl
@[simp] theorem originate_hbm : (originate s i o w f).hbm = s.hbm := rfl
@[simp] theorem originate_fgr : (originate s i o w f).fgr = s.fgr := rfl
@[simp] theorem originate_comp : (originate s i o w f).comp = s.comp := rfl
@[simp] theorem originate_job : (originate s i o w f).job = s.job := rfl
@[simp] theorem originate_stats : (originate s i o w f).stats = s.stats := rfl
@[simp] theorem originate_health : (originate s i o w f).health = s.health := rfl
@[simp] theorem originate_power : (originate s i o w f).power = s.power := rfl
@[simp] theorem originate_sec : (originate s i o w f).sec = s.sec := rfl

end originate

section modQueen
variable (q : Nat) (f : Queen → Queen)

@[simp] theorem modQueen_pending : (modQueen s q f).pending = s.pending := rfl
@[simp] theorem modQueen_freeCount : (modQueen s q f).freeCount = s.freeCount := rfl
@[simp] theorem modQueen_out : (modQueen s q f).out = s.out := rfl
@[simp] theorem modQueen_sbq : (modQueen s q f).sbq = s.sbq := rfl
@[simp] theorem modQueen_ident : (modQueen s q f).ident = s.ident := rfl
@[simp] theorem modQueen_dev : (modQueen s q f).dev = s.dev := rfl
@[simp] theorem modQueen_clk : (modQueen s q f).clk = s.clk := rfl
@[simp] theorem modQueen_host : (modQueen s q f).host = s.host := rfl
@[simp] theorem modQueen_sceuf : (modQueen s q f).sceuf = s.sceuf := rfl
@[simp] theorem modQueen_fab : (modQueen s q f).fab = s.fab := rfl
@[simp] theorem modQueen_comb : (modQueen s q f).comb = s.comb := rfl
@[simp] theorem modQueen_ports : (modQueen s q f).ports = s.ports := rfl
@[simp] theorem modQueen_su : (modQueen s q f).su = s.su := rfl
@[simp] theorem modQueen_coll : (modQueen s q f).coll = s.coll := rfl
@[simp] theorem modQueen_hbm : (modQueen s q f).hbm = s.hbm := rfl
@[simp] theorem modQueen_fgr : (modQueen s q f).fgr = s.fgr := rfl
@[simp] theorem modQueen_comp : (modQueen s q f).comp = { s.comp with queens := tblMod {} s.comp.queens q f } := rfl
@[simp] theorem modQueen_job : (modQueen s q f).job = s.job := rfl
@[simp] theorem modQueen_stats : (modQueen s q f).stats = s.stats := rfl
@[simp] theorem modQueen_health : (modQueen s q f).health = s.health := rfl
@[simp] theorem modQueen_power : (modQueen s q f).power = s.power := rfl
@[simp] theorem modQueen_sec : (modQueen s q f).sec = s.sec := rfl

end modQueen

section modCore
variable (k : Nat) (f : Core → Core)

@[simp] theorem modCore_pending : (modCore s k f).pending = s.pending := rfl
@[simp] theorem modCore_freeCount : (modCore s k f).freeCount = s.freeCount := rfl
@[simp] theorem modCore_out : (modCore s k f).out = s.out := rfl
@[simp] theorem modCore_sbq : (modCore s k f).sbq = s.sbq := rfl
@[simp] theorem modCore_ident : (modCore s k f).ident = s.ident := rfl
@[simp] theorem modCore_dev : (modCore s k f).dev = s.dev := rfl
@[simp] theorem modCore_clk : (modCore s k f).clk = s.clk := rfl
@[simp] theorem modCore_host : (modCore s k f).host = s.host := rfl
@[simp] theorem modCore_sceuf : (modCore s k f).sceuf = s.sceuf := rfl
@[simp] theorem modCore_fab : (modCore s k f).fab = s.fab := rfl
@[simp] theorem modCore_comb : (modCore s k f).comb = s.comb := rfl
@[simp] theorem modCore_ports : (modCore s k f).ports = s.ports := rfl
@[simp] theorem modCore_su : (modCore s k f).su = s.su := rfl
@[simp] theorem modCore_coll : (modCore s k f).coll = s.coll := rfl
@[simp] theorem modCore_hbm : (modCore s k f).hbm = s.hbm := rfl
@[simp] theorem modCore_fgr : (modCore s k f).fgr = s.fgr := rfl
@[simp] theorem modCore_comp : (modCore s k f).comp = { s.comp with cores := tblMod {} s.comp.cores k f } := rfl
@[simp] theorem modCore_job : (modCore s k f).job = s.job := rfl
@[simp] theorem modCore_stats : (modCore s k f).stats = s.stats := rfl
@[simp] theorem modCore_health : (modCore s k f).health = s.health := rfl
@[simp] theorem modCore_power : (modCore s k f).power = s.power := rfl
@[simp] theorem modCore_sec : (modCore s k f).sec = s.sec := rfl

end modCore

section modChan
variable (n : Nat) (f : Chan → Chan)

@[simp] theorem modChan_pending : (modChan s n f).pending = s.pending := rfl
@[simp] theorem modChan_freeCount : (modChan s n f).freeCount = s.freeCount := rfl
@[simp] theorem modChan_out : (modChan s n f).out = s.out := rfl
@[simp] theorem modChan_sbq : (modChan s n f).sbq = s.sbq := rfl
@[simp] theorem modChan_ident : (modChan s n f).ident = s.ident := rfl
@[simp] theorem modChan_dev : (modChan s n f).dev = s.dev := rfl
@[simp] theorem modChan_clk : (modChan s n f).clk = s.clk := rfl
@[simp] theorem modChan_host : (modChan s n f).host = s.host := rfl
@[simp] theorem modChan_sceuf : (modChan s n f).sceuf = s.sceuf := rfl
@[simp] theorem modChan_fab : (modChan s n f).fab = s.fab := rfl
@[simp] theorem modChan_comb : (modChan s n f).comb = s.comb := rfl
@[simp] theorem modChan_ports : (modChan s n f).ports = s.ports := rfl
@[simp] theorem modChan_su : (modChan s n f).su = s.su := rfl
@[simp] theorem modChan_coll : (modChan s n f).coll = s.coll := rfl
@[simp] theorem modChan_hbm : (modChan s n f).hbm = s.hbm := rfl
@[simp] theorem modChan_fgr : (modChan s n f).fgr = tblMod {} s.fgr n f := rfl
@[simp] theorem modChan_comp : (modChan s n f).comp = s.comp := rfl
@[simp] theorem modChan_job : (modChan s n f).job = s.job := rfl
@[simp] theorem modChan_stats : (modChan s n f).stats = s.stats := rfl
@[simp] theorem modChan_health : (modChan s n f).health = s.health := rfl
@[simp] theorem modChan_power : (modChan s n f).power = s.power := rfl
@[simp] theorem modChan_sec : (modChan s n f).sec = s.sec := rfl

end modChan

section takeReq
variable (r : Req)

@[simp] theorem takeReq_pending : (takeReq s r).pending = s.pending := rfl
@[simp] theorem takeReq_freeCount : (takeReq s r).freeCount = s.freeCount := rfl
@[simp] theorem takeReq_out : (takeReq s r).out = s.out := rfl
@[simp] theorem takeReq_sbq : (takeReq s r).sbq = s.sbq := rfl
@[simp] theorem takeReq_ident : (takeReq s r).ident = s.ident := rfl
@[simp] theorem takeReq_dev : (takeReq s r).dev = s.dev := rfl
@[simp] theorem takeReq_clk : (takeReq s r).clk = s.clk := rfl
@[simp] theorem takeReq_host : (takeReq s r).host = s.host := rfl
@[simp] theorem takeReq_sceuf : (takeReq s r).sceuf = { s.sceuf with accepted := eraseFirst (fun x => x == r) s.sceuf.accepted } := rfl
@[simp] theorem takeReq_fab : (takeReq s r).fab = s.fab := rfl
@[simp] theorem takeReq_comb : (takeReq s r).comb = s.comb := rfl
@[simp] theorem takeReq_ports : (takeReq s r).ports = s.ports := rfl
@[simp] theorem takeReq_su : (takeReq s r).su = s.su := rfl
@[simp] theorem takeReq_coll : (takeReq s r).coll = s.coll := rfl
@[simp] theorem takeReq_hbm : (takeReq s r).hbm = s.hbm := rfl
@[simp] theorem takeReq_fgr : (takeReq s r).fgr = s.fgr := rfl
@[simp] theorem takeReq_comp : (takeReq s r).comp = s.comp := rfl
@[simp] theorem takeReq_job : (takeReq s r).job = s.job := rfl
@[simp] theorem takeReq_stats : (takeReq s r).stats = s.stats := rfl
@[simp] theorem takeReq_health : (takeReq s r).health = s.health := rfl
@[simp] theorem takeReq_power : (takeReq s r).power = s.power := rfl
@[simp] theorem takeReq_sec : (takeReq s r).sec = s.sec := rfl

end takeReq

section logEvent
variable (k n : Nat)

@[simp] theorem logEvent_pending : (logEvent s k n).pending = s.pending := rfl
@[simp] theorem logEvent_freeCount : (logEvent s k n).freeCount = s.freeCount := rfl
@[simp] theorem logEvent_out : (logEvent s k n).out = s.out := rfl
@[simp] theorem logEvent_sbq : (logEvent s k n).sbq = s.sbq := rfl
@[simp] theorem logEvent_ident : (logEvent s k n).ident = s.ident := rfl
@[simp] theorem logEvent_dev : (logEvent s k n).dev = { s.dev with eventLog := s.dev.eventLog ++ [(k, n, nowNs s)] } := rfl
@[simp] theorem logEvent_clk : (logEvent s k n).clk = s.clk := rfl
@[simp] theorem logEvent_host : (logEvent s k n).host = s.host := rfl
@[simp] theorem logEvent_sceuf : (logEvent s k n).sceuf = s.sceuf := rfl
@[simp] theorem logEvent_fab : (logEvent s k n).fab = s.fab := rfl
@[simp] theorem logEvent_comb : (logEvent s k n).comb = s.comb := rfl
@[simp] theorem logEvent_ports : (logEvent s k n).ports = s.ports := rfl
@[simp] theorem logEvent_su : (logEvent s k n).su = s.su := rfl
@[simp] theorem logEvent_coll : (logEvent s k n).coll = s.coll := rfl
@[simp] theorem logEvent_hbm : (logEvent s k n).hbm = s.hbm := rfl
@[simp] theorem logEvent_fgr : (logEvent s k n).fgr = s.fgr := rfl
@[simp] theorem logEvent_comp : (logEvent s k n).comp = s.comp := rfl
@[simp] theorem logEvent_job : (logEvent s k n).job = s.job := rfl
@[simp] theorem logEvent_stats : (logEvent s k n).stats = s.stats := rfl
@[simp] theorem logEvent_health : (logEvent s k n).health = s.health := rfl
@[simp] theorem logEvent_power : (logEvent s k n).power = s.power := rfl
@[simp] theorem logEvent_sec : (logEvent s k n).sec = s.sec := rfl

end logEvent

/-- An ordered set waits for the sideband n times, and nothing else changes. -/
theorem sendSet_eq (p : Nat) (c : Byte) (y : BitVec 40) (n : Nat) :
    sendSet s p c y n = { s with sbq := s.sbq ++ List.replicate n (.ordered p c y) } := by
  induction n generalizing s with
  | zero => simp [sendSet]
  | succ n ih => rw [sendSet, ih]; simp [List.replicate_succ]

/-- An ordered set waits for the sideband of every port of a list, and nothing else changes. -/
theorem sendSets_eq (ps : List Nat) (c : Byte) (y : BitVec 40) (n : Nat) :
    sendSets s ps c y n = { s with sbq := s.sbq ++ ps.flatMap fun p => List.replicate n (.ordered p c y) } := by
  unfold sendSets
  induction ps generalizing s with
  | nil => simp
  | cons p ps ih => rw [List.foldl_cons, ih, sendSet_eq]; simp

/-- A vector goes out or becomes pending, and nothing else changes. -/
theorem msix_frame (v : Nat) : ∃ o p, msix s v = { s with out := o, host := { s.host with msixPending := p } } := by
  unfold msix
  split
  · exact ⟨s.out ++ [.msix v], s.host.msixPending, rfl⟩
  · exact ⟨s.out, _, rfl⟩

/-- A change of device state changes STATE, and what vector 66 does. -/
theorem setMode_frame (m : Mode) :
    ∃ o p, setMode s m = { s with out := o, host := { s.host with msixPending := p }, dev := { s.dev with mode := m } } := by
  unfold setMode
  split
  · rename_i h
    refine ⟨s.out, s.host.msixPending, ?_⟩
    have : s.dev.mode = m := by simpa using h
    subst this; rfl
  · obtain ⟨o, p, h⟩ := msix_frame { s with dev := { s.dev with mode := m } } 66
    exact ⟨o, p, h⟩

/-- What health can change: the score, the three conditions that follow from it, and the vectors that signal them. -/
theorem recomputeHealth_frame : ∃ o p, recomputeHealth s = { s with
    out := o
    host := { s.host with msixPending := p }
    health := { s.health with score := healthScore s }
    dev := { s.dev with
      degraded := (deductions s).any (·.2)
      replaceRequest := decide (healthScore s < 800) && !s.dev.keepInService
      alertN := !(decide (healthScore s < 800) && !s.dev.keepInService) } } := by
  unfold recomputeHealth
  dsimp only
  generalize hx : ({ s with health := _, dev := _ } : State) = x
  have h2 : ∃ o p, (if ((deductions s).any (·.2) != s.dev.degraded) = true then msix x 66 else x) =
      { x with out := o, host := { x.host with msixPending := p } } := by
    split
    · exact msix_frame x 66
    · exact ⟨x.out, x.host.msixPending, rfl⟩
  obtain ⟨o, p, h2⟩ := h2
  rw [h2]
  split
  · obtain ⟨o', p', h3⟩ := msix_frame { x with out := o, host := { x.host with msixPending := p } } 67
    refine ⟨o', p', h3.trans ?_⟩
    subst hx; rfl
  · refine ⟨o, p, ?_⟩
    subst hx; rfl

end Sys2Proof.Machine
end

