-- ==== Sys2Proof/Laws/Tbl.lean ====
section
/-! SUPPORT. Laws of sparse tables and byte memory: a read after a write, other entries, and the canonical form. -/

set_option Elab.async false

namespace Sys2Proof

variable {α : Type} [DecidableEq α]

/-- A write is read back. -/
theorem tblGet_set_same (d : α) (t : Tbl α) (k : Nat) (v : α) (lo : Nat) (h : tblWfFrom d lo t = true) :
    tblGet d (tblSet d t k v) k = v := by
  induction t generalizing lo with
  | nil => unfold tblSet; split <;> simp_all [tblGet]
  | cons e r ih =>
    obtain ⟨k', v'⟩ := e
    simp only [tblWfFrom, Bool.and_eq_true, decide_eq_true_eq] at h
    have low : ∀ (q : Tbl α) (m : Nat), tblWfFrom d m q = true → k < m → tblGet d q k = d := by
      intro q
      induction q with
      | nil => intros; rfl
      | cons e q ihq =>
        obtain ⟨x, y⟩ := e
        intro m hm hk
        simp only [tblWfFrom, Bool.and_eq_true, decide_eq_true_eq] at hm
        have hx : x ≠ k := by omega
        simp only [tblGet, hx, if_false]
        exact ihq _ hm.2 (by omega)
    unfold tblSet
    split
    · rename_i hk
      split
      · rename_i hv
        have : tblWfFrom d k' ((k', v') :: r) = true := by simp [tblWfFrom, h.1.2, h.2]
        rw [low _ k' this hk, hv]
      · simp [tblGet]
    · split
      · rename_i hk
        split
        · rename_i hv
          rw [low _ _ h.2 (by omega), hv]
        · simp [tblGet]
      · rename_i h1 h2
        have hx : k' ≠ k := fun h => h2 h.symm
        simp only [tblGet, hx, if_false]
        exact ih _ h.2

/-- A write leaves every other entry alone. -/
theorem tblGet_set_other (d : α) (t : Tbl α) (k j : Nat) (v : α) (h : j ≠ k) : tblGet d (tblSet d t k v) j = tblGet d t j := by
  induction t with
  | nil => unfold tblSet; split <;> simp [tblGet, Ne.symm h]
  | cons e r ih =>
    obtain ⟨k', v'⟩ := e
    unfold tblSet
    split
    · split
      · rfl
      · simp [tblGet, Ne.symm h]
    · split
      · rename_i hk
        split <;> simp [tblGet, ← hk, Ne.symm h]
      · simp only [tblGet]
        split
        · rfl
        · exact ih

/-- The canonical form from a number on holds from every lower number on. -/
theorem tblWfFrom_mono (d : α) (t : Tbl α) (a b : Nat) (hab : a ≤ b) (h : tblWfFrom d b t = true) : tblWfFrom d a t = true := by
  cases t with
  | nil => rfl
  | cons e r =>
    simp only [tblWfFrom, Bool.and_eq_true, decide_eq_true_eq] at h ⊢
    exact ⟨⟨by omega, h.1.2⟩, h.2⟩

/-- A write keeps the canonical form. -/
theorem tblWfFrom_set (d : α) (t : Tbl α) (k lo : Nat) (v : α) (hk : lo ≤ k) (h : tblWfFrom d lo t = true) :
    tblWfFrom d lo (tblSet d t k v) = true := by
  induction t generalizing lo with
  | nil =>
    unfold tblSet
    split
    · rfl
    · rename_i hv
      simp [tblWfFrom, hk, hv]
  | cons e r ih =>
    obtain ⟨k', v'⟩ := e
    simp only [tblWfFrom, Bool.and_eq_true, decide_eq_true_eq] at h
    unfold tblSet
    split
    · split
      · simp [tblWfFrom, h.1.1, h.1.2, h.2]
      · rename_i h1 hv
        simp only [tblWfFrom, Bool.and_eq_true, decide_eq_true_eq]
        exact ⟨⟨hk, hv⟩, ⟨by omega, h.1.2⟩, h.2⟩
    · split
      · rename_i h1 h2
        split
        · exact tblWfFrom_mono d r lo (k' + 1) (by omega) h.2
        · rename_i hv
          simp only [tblWfFrom, Bool.and_eq_true, decide_eq_true_eq]
          exact ⟨⟨hk, hv⟩, h2 ▸ h.2⟩
      · simp only [tblWfFrom, Bool.and_eq_true, decide_eq_true_eq]
        exact ⟨h.1, ih (k' + 1) (by omega) h.2⟩

theorem tblWf_set (d : α) (t : Tbl α) (k : Nat) (v : α) (h : tblWf d t = true) : tblWf d (tblSet d t k v) = true :=
  tblWfFrom_set d t k 0 v (Nat.zero_le k) h

theorem tblWf_mod (d : α) (t : Tbl α) (k : Nat) (f : α → α) (h : tblWf d t = true) : tblWf d (tblMod d t k f) = true :=
  tblWf_set d t k _ h

theorem tblWf_setAll (d : α) (vs : List α) (t : Tbl α) (k : Nat) (h : tblWf d t = true) : tblWf d (tblSetAll d t k vs) = true := by
  induction vs generalizing t k with
  | nil => exact h
  | cons v vs ih => exact ih _ _ (tblWf_set d t k v h)

/-- Dropping entries keeps the canonical form. -/
theorem tblWfFrom_filter (d : α) (p : Nat × α → Bool) (t : Tbl α) (lo : Nat) (h : tblWfFrom d lo t = true) :
    tblWfFrom d lo (t.filter p) = true := by
  induction t generalizing lo with
  | nil => rfl
  | cons e r ih =>
    obtain ⟨k, v⟩ := e
    simp only [tblWfFrom, Bool.and_eq_true, decide_eq_true_eq] at h
    rw [List.filter_cons]
    split
    · simp only [tblWfFrom, Bool.and_eq_true, decide_eq_true_eq]
      exact ⟨h.1, ih _ h.2⟩
    · exact tblWfFrom_mono d _ lo (k + 1) (by omega) (ih _ h.2)

theorem tblWf_filter (d : α) (p : Nat × α → Bool) (t : Tbl α) (h : tblWf d t = true) : tblWf d (t.filter p) = true :=
  tblWfFrom_filter d p t 0 h

/-- Entries outside the written run are unchanged. -/
theorem tblGet_setAll_other (d : α) (vs : List α) (t : Tbl α) (k j : Nat) (h : j < k ∨ k + vs.length ≤ j) :
    tblGet d (tblSetAll d t k vs) j = tblGet d t j := by
  induction vs generalizing t k with
  | nil => rfl
  | cons v vs ih =>
    simp only [List.length_cons] at h
    simp only [tblSetAll]
    rw [ih _ _ (by omega), tblGet_set_other d t k j v (by omega)]

/-- Entry i of the written run is read back. -/
theorem tblGet_setAll_same (d : α) (vs : List α) (t : Tbl α) (k i : Nat) (hw : tblWf d t = true) (hi : i < vs.length) :
    tblGet d (tblSetAll d t k vs) (k + i) = vs[i] := by
  induction vs generalizing t k i with
  | nil => exact absurd hi (Nat.not_lt_zero i)
  | cons v vs ih =>
    simp only [tblSetAll]
    cases i with
    | zero =>
      rw [tblGet_setAll_other d vs _ (k + 1) (k + 0) (by omega)]
      exact tblGet_set_same d t k v 0 hw
    | succ i =>
      have := ih (tblSet d t k v) (k + 1) i (tblWf_set d t k v hw) (by simpa using hi)
      simpa [Nat.add_assoc, Nat.add_comm 1 i] using this

/-- Every memory operation keeps the canonical form. -/
theorem memWf_setByte (m : Mem) (a : Nat) (b : Byte) (h : Mem.wf m = true) : Mem.wf (memSetByte m a b) = true :=
  tblWf_set _ m a b h

theorem memWf_write (m : Mem) (a : Nat) (bs : List Byte) (h : Mem.wf m = true) : Mem.wf (memWrite m a bs) = true :=
  tblWf_setAll _ bs m a h

theorem memWf_setWord (m : Mem) (a : Nat) (w : Word) (h : Mem.wf m = true) : Mem.wf (memSetWord m a w) = true :=
  memWf_write m a _ h

theorem memWf_filter (m : Mem) (p : Nat × Byte → Bool) (h : Mem.wf m = true) : Mem.wf (m.filter p) = true :=
  tblWf_filter _ p m h

/-- Entries written one after another keep the canonical form. -/
theorem tblWf_foldl {β : Type} (d : α) (f : Tbl α → β → Tbl α) (l : List β) (t : Tbl α)
    (hf : ∀ u b, tblWf d u = true → tblWf d (f u b) = true) (h : tblWf d t = true) : tblWf d (l.foldl f t) = true := by
  induction l generalizing t with
  | nil => exact h
  | cons b l ih => exact ih _ (hf t b h)

/-- Bytes outside a write are unchanged; bytes within it are read back. -/
theorem memByte_write_other (m : Mem) (a j : Nat) (bs : List Byte) (h : j < a ∨ a + bs.length ≤ j) :
    memByte (memWrite m a bs) j = memByte m j := tblGet_setAll_other _ bs m a j h

theorem memByte_write_same (m : Mem) (a i : Nat) (bs : List Byte) (hw : Mem.wf m = true) (hi : i < bs.length) :
    memByte (memWrite m a bs) (a + i) = bs[i] := tblGet_setAll_same _ bs m a i hw hi

theorem memByte_setByte_other (m : Mem) (a j : Nat) (b : Byte) (h : j ≠ a) : memByte (memSetByte m a b) j = memByte m j :=
  tblGet_set_other _ m a j b h

theorem memByte_setByte_same (m : Mem) (a : Nat) (b : Byte) (hw : Mem.wf m = true) : memByte (memSetByte m a b) a = b :=
  tblGet_set_same _ m a b 0 hw

/-- A read gives as many bytes as it asks for. -/
@[simp] theorem length_memRead (m : Mem) (a n : Nat) : (memRead m a n).length = n := by
  induction n generalizing a with
  | zero => rfl
  | succ n ih => simp [memRead, ih]

@[simp] theorem length_bytesOfNat (v n : Nat) : (bytesOfNat v n).length = n := by
  induction n generalizing v with
  | zero => rfl
  | succ n ih => simp [bytesOfNat, ih]

/-- The number that the bytes of a number spell. -/
theorem natOfBytes_bytesOfNat (v n : Nat) : natOfBytes (bytesOfNat v n) = v % 256 ^ n := by
  induction n generalizing v with
  | zero => simp [bytesOfNat, natOfBytes, Nat.mod_one]
  | succ n ih =>
    have e : (256 : Nat) ^ (n + 1) = 256 * 256 ^ n := by rw [Nat.pow_succ, Nat.mul_comm]
    rw [e, Nat.mod_mul]
    simp only [bytesOfNat, natOfBytes, ih, BitVec.toNat_ofNat, show (2 : Nat) ^ 8 = 256 from rfl]

/-- A read of two tables joined. -/
theorem tblGet_append {α} (d : α) (a b : Tbl α) (k : Nat) :
    tblGet d (a ++ b) k = if a.any (fun e => e.1 == k) then tblGet d a k else tblGet d b k := by
  induction a with
  | nil => rfl
  | cons e a ih =>
    obtain ⟨k', v⟩ := e
    simp only [List.cons_append, tblGet, List.any_cons]
    by_cases h : k' = k
    · simp [h]
    · have : (k' == k) = false := by simp [h]
      simp only [h, if_false, ih, this, Bool.false_or]

/-- A key that is not listed reads as the default. -/
theorem tblGet_nomem {α} (d : α) (a : Tbl α) (k : Nat) (h : ∀ e ∈ a, e.1 ≠ k) : tblGet d a k = d := by
  induction a with
  | nil => rfl
  | cons e a ih =>
    obtain ⟨k', v⟩ := e
    simp only [List.mem_cons, forall_eq_or_imp] at h
    simp [tblGet, h.1]; exact ih h.2

/-- A read of a table cut by its keys. -/
theorem tblGet_filter {α} (d : α) (a : Tbl α) (k : Nat) (p : Nat → Bool) (h : p k = true) :
    tblGet d (a.filter fun e => p e.1) k = tblGet d a k := by
  induction a with
  | nil => rfl
  | cons e a ih =>
    obtain ⟨k', v⟩ := e
    by_cases h2 : p k' = true
    · simp [List.filter_cons, h2, tblGet, ih]
    · simp only [List.filter_cons, h2, tblGet]
      by_cases h3 : k' = k
      · subst h3; simp [h] at h2
      · simp [h3, ih]

/-- A written value other than the default is read back, whatever the table. -/
theorem tblGet_set_ne (d : α) (t : Tbl α) (k : Nat) (v : α) (h : v ≠ d) : tblGet d (tblSet d t k v) k = v := by
  induction t with
  | nil => simp [tblSet, h, tblGet]
  | cons e r ih =>
    obtain ⟨k', v'⟩ := e
    unfold tblSet
    split
    · simp [h, tblGet]
    · split
      · simp [h, tblGet]
      · rename_i h1 h2
        simp [tblGet, Ne.symm h2, ih]

end Sys2Proof
end

