-- ==== Sys2Proof/Laws/Steady.lean ====
section
/-! SUPPORT. `Steady s t` collects what no command may break: the queue, what is fixed at manufacture, fuses that only
go one way (15 R431), free values that are never drawn twice (assumption 2), the agreement of state bits, and the
canonical form of every byte memory. The Laws/Steady files show it of every function of the model. -/

set_option Elab.async false

namespace Sys2Proof.Machine

/-- What holds between a state and every state that the block's functions lead to. -/
structure Steady (s t : State) : Prop where
  pending : t.pending = s.pending
  grade : t.ident.grade = s.ident.grade
  serial : t.ident.serial = s.ident.serial
  keyHash0 : t.sec.keyHash0 = s.sec.keyHash0
  keyHash1 : t.sec.keyHash1 = s.sec.keyHash1
  debugKeyHash : t.sec.debugKeyHash = s.sec.debugKeyHash
  revoked0 : s.sec.revoked0 = true → t.sec.revoked0 = true
  revoked1 : s.sec.revoked1 = true → t.sec.revoked1 = true
  svn : ∀ i, s.sec.svn.getLsbD i = true → t.sec.svn.getLsbD i = true
  draws : s.freeCount ≤ t.freeCount
  safety : (s.dev.safety = true → s.dev.detStrict = true) → t.dev.safety = true → t.dev.detStrict = true
  alert : s.dev.alertN = !s.dev.replaceRequest → t.dev.alertN = !t.dev.replaceRequest
  scopes : (s.sec.scopeEnd = none → s.sec.scopes = 0) → t.sec.scopeEnd = none → t.sec.scopes = 0
  hbm : Mem.wf s.hbm.mem = true → Mem.wf t.hbm.mem = true
  ls : Mem.wf s.comp.ls = true → Mem.wf t.comp.ls = true
  cs : Mem.wf s.comp.cs = true → Mem.wf t.comp.cs = true
  bar2 : Mem.wf s.host.bar2 = true → Mem.wf t.host.bar2 = true
  msix : Mem.wf s.host.msixTable = true → Mem.wf t.host.msixTable = true
  flash0 : Mem.wf s.sec.flash0 = true → Mem.wf t.sec.flash0 = true
  flash1 : Mem.wf s.sec.flash1 = true → Mem.wf t.sec.flash1 = true
  sram : Mem.wf s.sceuf.sram = true → Mem.wf t.sceuf.sram = true

theorem Steady.refl (s : State) : Steady s s := by constructor <;> intros <;> simp_all

theorem Steady.trans {s t u : State} (a : Steady s t) (b : Steady t u) : Steady s u where
  pending := b.pending.trans a.pending
  grade := b.grade.trans a.grade
  serial := b.serial.trans a.serial
  keyHash0 := b.keyHash0.trans a.keyHash0
  keyHash1 := b.keyHash1.trans a.keyHash1
  debugKeyHash := b.debugKeyHash.trans a.debugKeyHash
  revoked0 := fun h => b.revoked0 (a.revoked0 h)
  revoked1 := fun h => b.revoked1 (a.revoked1 h)
  svn := fun i h => b.svn i (a.svn i h)
  draws := Nat.le_trans a.draws b.draws
  safety := fun h => b.safety (a.safety h)
  alert := fun h => b.alert (a.alert h)
  scopes := fun h => b.scopes (a.scopes h)
  hbm := fun h => b.hbm (a.hbm h)
  ls := fun h => b.ls (a.ls h)
  cs := fun h => b.cs (a.cs h)
  bar2 := fun h => b.bar2 (a.bar2 h)
  msix := fun h => b.msix (a.msix h)
  flash0 := fun h => b.flash0 (a.flash0 h)
  flash1 := fun h => b.flash1 (a.flash1 h)
  sram := fun h => b.sram (a.sram h)

/-- An update that touches none of it. -/
theorem steady_upd (s u : State) (o q : List OutEvent) (i : Ident) (d : Dev) (clk : Clock) (host : HostIf) (sceuf : Sceuf) (fab : Fab)
    (comb : Comb) (ports : Tbl Port) (su : Su) (coll : Coll) (hbm : Hbm) (fgr : Tbl Chan) (comp : Comp) (job : Job) (stats : Stats)
    (health : Health) (power : Power) (e : Sec)
    (h1 : i.grade = u.ident.grade) (h2 : i.serial = u.ident.serial)
    (h3 : d.detStrict = u.dev.detStrict) (h4 : d.safety = u.dev.safety) (h5 : d.alertN = u.dev.alertN)
    (h6 : d.replaceRequest = u.dev.replaceRequest)
    (h7 : e.keyHash0 = u.sec.keyHash0) (h8 : e.keyHash1 = u.sec.keyHash1) (h9 : e.debugKeyHash = u.sec.debugKeyHash)
    (h10 : e.revoked0 = u.sec.revoked0) (h11 : e.revoked1 = u.sec.revoked1) (h12 : e.svn = u.sec.svn)
    (h13 : e.scopes = u.sec.scopes) (h14 : e.scopeEnd = u.sec.scopeEnd) (h15 : e.flash0 = u.sec.flash0) (h16 : e.flash1 = u.sec.flash1)
    (h17 : hbm.mem = u.hbm.mem) (h18 : comp.ls = u.comp.ls) (h19 : comp.cs = u.comp.cs)
    (h20 : host.bar2 = u.host.bar2) (h21 : host.msixTable = u.host.msixTable) (h22 : sceuf.sram = u.sceuf.sram) :
    Steady s (State.mk u.pending u.freeCount o q i d clk host sceuf fab comb ports su coll hbm fgr comp job stats health power e) =
      Steady s u := by
  apply propext
  constructor
  · intro h
    refine Steady.trans h ?_
    constructor <;> simp_all
  · intro h
    refine Steady.trans h ?_
    constructor <;> simp_all

/-- An update that changes byte memories and keeps their canonical form. -/
theorem steady_mem {s u : State} (hs : Steady s u) (o q : List OutEvent) (i : Ident) (d : Dev) (clk : Clock) (host : HostIf) (sceuf : Sceuf)
    (fab : Fab) (comb : Comb) (ports : Tbl Port) (su : Su) (coll : Coll) (hbm : Hbm) (fgr : Tbl Chan) (comp : Comp) (job : Job)
    (stats : Stats) (health : Health) (power : Power) (e : Sec)
    (h1 : i.grade = u.ident.grade) (h2 : i.serial = u.ident.serial)
    (h3 : d.detStrict = u.dev.detStrict) (h4 : d.safety = u.dev.safety) (h5 : d.alertN = u.dev.alertN)
    (h6 : d.replaceRequest = u.dev.replaceRequest)
    (h7 : e.keyHash0 = u.sec.keyHash0) (h8 : e.keyHash1 = u.sec.keyHash1) (h9 : e.debugKeyHash = u.sec.debugKeyHash)
    (h10 : e.revoked0 = u.sec.revoked0) (h11 : e.revoked1 = u.sec.revoked1) (h12 : e.svn = u.sec.svn)
    (h13 : e.scopes = u.sec.scopes) (h14 : e.scopeEnd = u.sec.scopeEnd)
    (m1 : Mem.wf u.sec.flash0 = true → Mem.wf e.flash0 = true) (m2 : Mem.wf u.sec.flash1 = true → Mem.wf e.flash1 = true)
    (m3 : Mem.wf u.hbm.mem = true → Mem.wf hbm.mem = true) (m4 : Mem.wf u.comp.ls = true → Mem.wf comp.ls = true)
    (m5 : Mem.wf u.comp.cs = true → Mem.wf comp.cs = true) (m6 : Mem.wf u.host.bar2 = true → Mem.wf host.bar2 = true)
    (m7 : Mem.wf u.host.msixTable = true → Mem.wf host.msixTable = true) (m8 : sceuf.sram = u.sceuf.sram) :
    Steady s (State.mk u.pending u.freeCount o q i d clk host sceuf fab comb ports su coll hbm fgr comp job stats health power e) := by
  refine Steady.trans hs ?_
  constructor <;> simp_all

theorem steady_ite {s a b : State} (c : Prop) [Decidable c] (ha : Steady s a) (hb : Steady s b) : Steady s (if c then a else b) := by
  split <;> assumption

theorem steady_cond {s a b : State} (c : Bool) (ha : Steady s a) (hb : Steady s b) : Steady s (cond c a b) := by
  cases c <;> assumption

theorem steady_when {s a b : State} (c : Bool) (ha : Steady s a) (hb : Steady s b) : Steady s (when c a b) := by
  unfold when; split <;> assumption

theorem steady_foldl {α : Type} {s : State} (f : State → α → State) (l : List α) (t : State) (ht : Steady s t)
    (h : ∀ u a, Steady u (f u a)) : Steady s (l.foldl f t) := by
  induction l generalizing t with
  | nil => exact ht
  | cons a l ih => exact ih _ (ht.trans (h t a))

/-- A fold that carries a value beside the state. -/
theorem steady_foldl_fst {α β : Type} {s : State} (f : State × β → α → State × β) (l : List α) (t : State × β) (ht : Steady s t.1)
    (h : ∀ u a, Steady u.1 (f u a).1) : Steady s (l.foldl f t).1 := by
  induction l generalizing t with
  | nil => exact ht
  | cons a l ih => exact ih _ (ht.trans (h t a))

theorem steady_foldl_snd {α β : Type} {s : State} (f : β × State → α → β × State) (l : List α) (t : β × State) (ht : Steady s t.2)
    (h : ∀ u a, Steady u.2 (f u a).2) : Steady s (l.foldl f t).2 := by
  induction l generalizing t with
  | nil => exact ht
  | cons a l ih => exact ih _ (ht.trans (h t a))

end Sys2Proof.Machine
end

