-- ==== Sys2Proof/Laws/Steady/Counters.lean ====
section
/-! SUPPORT. `Steady` of the functions of Machine/Counters.lean. -/

set_option Elab.async false

namespace Sys2Proof.Machine

seal countDiscard count countN

theorem countN_steady (s : State) (c : Ctr) (unit : Nat) (n : Nat) : Steady s (countN s c unit n) := by
  unfold countN
  try dsimp only
  repeat' first
      | with_reducible exact Steady.refl _ | (simp (disch := with_reducible rfl) only [↓steady_upd])
      | with_reducible apply steady_ite | with_reducible apply steady_when | with_reducible apply steady_foldl
      | with_reducible apply steady_cond | intro _ | split | (grind [Steady.trans, Steady.refl])

theorem count_steady (s : State) (c : Ctr) (unit : Nat) : Steady s (count s c unit) := by
  unfold count
  try dsimp only
  repeat' first
      | with_reducible exact Steady.refl _ | (simp (disch := with_reducible rfl) only [↓steady_upd])
      | with_reducible apply steady_ite | with_reducible apply steady_when | with_reducible apply steady_foldl
      | with_reducible refine Steady.trans ?_ (countN_steady ..) | with_reducible apply steady_cond | intro _ | split
      | (grind [countN_steady, Steady.trans, Steady.refl])

theorem countDiscard_steady (s : State) (index : Nat) (cls : Nat) (c : Cause) : Steady s (countDiscard s index cls c) := by
  unfold countDiscard
  try dsimp only
  repeat' first
      | with_reducible exact Steady.refl _ | (simp (disch := with_reducible rfl) only [↓steady_upd])
      | with_reducible apply steady_ite | with_reducible apply steady_when | with_reducible apply steady_foldl
      | with_reducible refine Steady.trans ?_ (count_steady ..) | with_reducible apply steady_cond | intro _ | split
      | (grind [count_steady, Steady.trans, Steady.refl])

end Sys2Proof.Machine
end

