-- ==== Sys2Proof/Laws/Steady/Ops.lean ====
section
/-! SUPPORT. `Steady` of the functions of Machine/Ops.lean. -/

set_option Elab.async false

namespace Sys2Proof.Machine

seal drawFree modStep emit msix originateForager logEvent originateColl setMode sendSets recomputeHealth sendBeacon originate
  modPort sendSet originateMgmt

theorem emit_steady (s : State) (e : OutEvent) : Steady s (emit s e) := by
  unfold emit
  try dsimp only
  repeat' first
      | with_reducible exact Steady.refl _ | (simp (disch := with_reducible rfl) only [↓steady_upd])
      | with_reducible apply steady_ite | with_reducible apply steady_when | with_reducible apply steady_foldl
      | with_reducible apply steady_cond | intro _ | split | (grind [Steady.trans, Steady.refl])

unseal drawFree in
theorem drawFree_steady (s : State) : Steady s (drawFree s).2 := by
  constructor <;> intros <;> simp_all [drawFree]

theorem msix_steady (s : State) (v : Nat) : Steady s (msix s v) := by
  unfold msix
  try dsimp only
  repeat' first
      | with_reducible exact Steady.refl _ | (simp (disch := with_reducible rfl) only [↓steady_upd])
      | with_reducible apply steady_ite | with_reducible apply steady_when | with_reducible apply steady_foldl
      | with_reducible refine Steady.trans ?_ (emit_steady ..) | with_reducible apply steady_cond | intro _ | split
      | (grind [emit_steady, Steady.trans, Steady.refl])

theorem setMode_steady (s : State) (m : Mode) : Steady s (setMode s m) := by
  unfold setMode
  try dsimp only
  repeat' first
      | with_reducible exact Steady.refl _ | (simp (disch := with_reducible rfl) only [↓steady_upd])
      | with_reducible apply steady_ite | with_reducible apply steady_when | with_reducible apply steady_foldl
      | with_reducible refine Steady.trans ?_ (msix_steady ..) | with_reducible apply steady_cond | intro _ | split
      | (grind [msix_steady, Steady.trans, Steady.refl])

theorem modPort_steady (s : State) (p : Nat) (f : Port → Port) : Steady s (modPort s p f) := by
  unfold modPort
  try dsimp only
  repeat' first
      | with_reducible exact Steady.refl _ | (simp (disch := with_reducible rfl) only [↓steady_upd])
      | with_reducible apply steady_ite | with_reducible apply steady_when | with_reducible apply steady_foldl
      | with_reducible apply steady_cond | intro _ | split | (grind [Steady.trans, Steady.refl])

unseal sendSet in
theorem sendSet_steady (s : State) (p : Nat) (code : Byte) (payload : BitVec 40) (a : Nat) : Steady s (sendSet s p code
  payload a) := by
  revert s; induction a with
  | zero => intro s; exact Steady.refl s
  | succ n ih =>
    intro s
    refine Steady.trans ?_ (ih _)
    simp (disch := with_reducible rfl) only [↓steady_upd]
    exact Steady.refl s

theorem sendSets_steady (s : State) (ps : List Nat) (code : Byte) (payload : BitVec 40) (n : Nat) : Steady s (sendSets s ps
  code payload n) := by
  unfold sendSets
  try dsimp only
  repeat' first
      | with_reducible exact Steady.refl _ | (simp (disch := with_reducible rfl) only [↓steady_upd])
      | with_reducible apply steady_ite | with_reducible apply steady_when | with_reducible apply steady_foldl
      | with_reducible refine Steady.trans ?_ (sendSet_steady ..) | with_reducible apply steady_cond | intro _ | split
      | (grind [sendSet_steady, Steady.trans, Steady.refl])

theorem sendBeacon_steady (s : State) (p : Nat) : Steady s (sendBeacon s p) := by
  unfold sendBeacon
  try dsimp only
  repeat' first
      | with_reducible exact Steady.refl _ | (simp (disch := with_reducible rfl) only [↓steady_upd])
      | with_reducible apply steady_ite | with_reducible apply steady_when | with_reducible apply steady_foldl
      | with_reducible refine Steady.trans ?_ (sendSet_steady ..) | with_reducible refine Steady.trans ?_ (modPort_steady ..)
      | with_reducible apply steady_cond | intro _ | split
      | (grind [sendSet_steady, modPort_steady, Steady.trans, Steady.refl])

unseal recomputeHealth in
theorem recomputeHealth_steady (s : State) : Steady s (recomputeHealth s) := by
  unfold recomputeHealth
  extract_lets h d req dv hl s1 s2
  have a : Steady s s1 := by constructor <;> intros <;> simp_all [s1, dv]
  have b : Steady s s2 := steady_ite _ (a.trans (msix_steady ..)) a
  exact steady_ite _ (b.trans (msix_steady ..)) b

theorem logEvent_steady (s : State) (kind : Nat) (subject : Nat) : Steady s (logEvent s kind subject) := by
  unfold logEvent
  try dsimp only
  repeat' first
      | with_reducible exact Steady.refl _ | (simp (disch := with_reducible rfl) only [↓steady_upd])
      | with_reducible apply steady_ite | with_reducible apply steady_when | with_reducible apply steady_foldl
      | with_reducible apply steady_cond | intro _ | split | (grind [Steady.trans, Steady.refl])

theorem modStep_steady (s : State) (f : Step → Step) : Steady s (modStep s f) := by
  unfold modStep
  try dsimp only
  repeat' first
      | with_reducible exact Steady.refl _ | (simp (disch := with_reducible rfl) only [↓steady_upd])
      | with_reducible apply steady_ite | with_reducible apply steady_when | with_reducible apply steady_foldl
      | with_reducible apply steady_cond | intro _ | split | (grind [Steady.trans, Steady.refl])

theorem originate_steady (s : State) (input : Nat) (owner : Nat) (who : Nat) (f : Frame) (high : Bool) : Steady s (originate
  s input owner who f high) := by
  unfold originate
  try dsimp only
  repeat' first
      | with_reducible exact Steady.refl _ | (simp (disch := with_reducible rfl) only [↓steady_upd])
      | with_reducible apply steady_ite | with_reducible apply steady_when | with_reducible apply steady_foldl
      | with_reducible apply steady_cond | intro _ | split | (grind [Steady.trans, Steady.refl])

theorem originateMgmt_steady (s : State) (f : Frame) : Steady s (originateMgmt s f) := by
  unfold originateMgmt
  try dsimp only
  repeat' first
      | with_reducible exact Steady.refl _ | (simp (disch := with_reducible rfl) only [↓steady_upd])
      | with_reducible apply steady_ite | with_reducible apply steady_when | with_reducible apply steady_foldl
      | with_reducible refine Steady.trans ?_ (originate_steady ..) | with_reducible apply steady_cond | intro _ | split
      | (grind [originate_steady, Steady.trans, Steady.refl])

theorem originateColl_steady (s : State) (f : Frame) : Steady s (originateColl s f) := by
  unfold originateColl
  try dsimp only
  repeat' first
      | with_reducible exact Steady.refl _ | (simp (disch := with_reducible rfl) only [↓steady_upd])
      | with_reducible apply steady_ite | with_reducible apply steady_when | with_reducible apply steady_foldl
      | with_reducible refine Steady.trans ?_ (originate_steady ..) | with_reducible apply steady_cond | intro _ | split
      | (grind [originate_steady, Steady.trans, Steady.refl])

theorem originateForager_steady (s : State) (ch : Nat) (turn : Nat) (f : Frame) (high : Bool) : Steady s (originateForager s
  ch turn f high) := by
  unfold originateForager
  try dsimp only
  repeat' first
      | with_reducible exact Steady.refl _ | (simp (disch := with_reducible rfl) only [↓steady_upd])
      | with_reducible apply steady_ite | with_reducible apply steady_when | with_reducible apply steady_foldl
      | with_reducible refine Steady.trans ?_ (originate_steady ..) | with_reducible apply steady_cond | intro _ | split
      | (grind [originate_steady, Steady.trans, Steady.refl])

end Sys2Proof.Machine
end

