-- ==== Sys2Proof/Laws/Steady/Pool.lean ====
section
/-! SUPPORT. `Steady` of the functions of Machine/Pool.lean. -/

set_option Elab.async false

namespace Sys2Proof.Machine

seal emit takeBuf releaseCells uncharge sendPause updatePause charge freeBufHandle recomputeHealth count doubleFree
  noteDoubleFree

theorem charge_steady (s : State) (owner : Nat) (pool : Nat) (n : Nat) : Steady s (charge s owner pool n) := by
  unfold charge
  try dsimp only
  repeat' first
      | with_reducible exact Steady.refl _ | (simp (disch := with_reducible rfl) only [↓steady_upd])
      | with_reducible apply steady_ite | with_reducible apply steady_when | with_reducible apply steady_foldl
      | with_reducible apply steady_cond | intro _ | split | (grind [Steady.trans, Steady.refl])

theorem uncharge_steady (s : State) (owner : Nat) (pool : Nat) (n : Nat) : Steady s (uncharge s owner pool n) := by
  unfold uncharge
  try dsimp only
  repeat' first
      | with_reducible exact Steady.refl _ | (simp (disch := with_reducible rfl) only [↓steady_upd])
      | with_reducible apply steady_ite | with_reducible apply steady_when | with_reducible apply steady_foldl
      | with_reducible apply steady_cond | intro _ | split | (grind [Steady.trans, Steady.refl])

unseal takeBuf in
theorem takeBuf_steady (s : State) (owner : Nat) (pool : Nat) : (∀ x00 x01, (takeBuf s owner pool) = some (x00, x01) → Steady
  s x01) := by
  unfold takeBuf
  intros; rename_i hx
  split at hx
  · cases hx
    exact Steady.trans (by simp (disch := with_reducible rfl) only [steady_upd]; exact Steady.refl _) (charge_steady ..)
  · cases hx

theorem noteDoubleFree_steady (s : State) (owner : Nat) (requester : Nat) : Steady s (noteDoubleFree s owner requester) := by
  unfold noteDoubleFree
  try dsimp only
  repeat' first
      | with_reducible exact Steady.refl _ | (simp (disch := with_reducible rfl) only [↓steady_upd])
      | with_reducible apply steady_ite | with_reducible apply steady_when | with_reducible apply steady_foldl
      | with_reducible refine Steady.trans ?_ (recomputeHealth_steady ..)
      | with_reducible refine Steady.trans ?_ (count_steady ..)
      | with_reducible refine Steady.trans ?_ (doubleFree_steady ..) | with_reducible apply steady_cond | intro _ | split
      | (grind [recomputeHealth_steady, count_steady, doubleFree_steady, Steady.trans, Steady.refl])

theorem freeBufHandle_steady (s : State) (h : Nat) : Steady s (freeBufHandle s h) := by
  unfold freeBufHandle
  try dsimp only
  repeat' first
      | with_reducible exact Steady.refl _ | (simp (disch := with_reducible rfl) only [↓steady_upd])
      | with_reducible apply steady_ite | with_reducible apply steady_when | with_reducible apply steady_foldl
      | with_reducible refine Steady.trans ?_ (noteDoubleFree_steady ..)
      | with_reducible refine Steady.trans ?_ (uncharge_steady ..) | with_reducible apply steady_cond | intro _ | split
      | (grind [noteDoubleFree_steady, uncharge_steady, Steady.trans, Steady.refl])

theorem addReader_steady (s : State) (h : Nat) : (∀ x00, (addReader s h) = some x00 → Steady s x00) := by
  unfold addReader
  intros; rename_i hx
  try dsimp only at hx
  repeat' split at hx
  all_goals cases hx
  all_goals repeat' first
      | with_reducible exact Steady.refl _ | (simp (disch := with_reducible rfl) only [↓steady_upd])
      | with_reducible apply steady_ite | with_reducible apply steady_when | with_reducible apply steady_foldl
      | with_reducible apply steady_cond | intro _ | split | (grind [Steady.trans, Steady.refl])

theorem sendPause_steady (s : State) (p : Nat) : Steady s (sendPause s p) := by
  unfold sendPause
  try dsimp only
  repeat' first
      | with_reducible exact Steady.refl _ | (simp (disch := with_reducible rfl) only [↓steady_upd])
      | with_reducible apply steady_ite | with_reducible apply steady_when | with_reducible apply steady_foldl
      | with_reducible refine Steady.trans ?_ (emit_steady ..) | with_reducible apply steady_cond | intro _ | split
      | (grind [emit_steady, Steady.trans, Steady.refl])

theorem duePauses_steady (s : State) : Steady s (duePauses s) := by
  unfold duePauses
  try dsimp only
  repeat' first
      | with_reducible exact Steady.refl _ | (simp (disch := with_reducible rfl) only [↓steady_upd])
      | with_reducible apply steady_ite | with_reducible apply steady_when | with_reducible apply steady_foldl
      | with_reducible refine Steady.trans ?_ (sendPause_steady ..) | with_reducible apply steady_cond | intro _ | split
      | (grind [sendPause_steady, Steady.trans, Steady.refl])

theorem updatePause_steady (s : State) (p : Nat) : Steady s (updatePause s p) := by
  unfold updatePause
  try dsimp only
  repeat' first
      | with_reducible exact Steady.refl _ | (simp (disch := with_reducible rfl) only [↓steady_upd])
      | with_reducible apply steady_ite | with_reducible apply steady_when | with_reducible apply steady_foldl
      | with_reducible refine Steady.trans ?_ (sendPause_steady ..) | with_reducible apply steady_cond | intro _ | split
      | (grind [sendPause_steady, Steady.trans, Steady.refl])

theorem releaseCells_steady (s : State) (owner : Nat) (n : Nat) : Steady s (releaseCells s owner n) := by
  unfold releaseCells
  try dsimp only
  repeat' first
      | with_reducible exact Steady.refl _ | (simp (disch := with_reducible rfl) only [↓steady_upd])
      | with_reducible apply steady_ite | with_reducible apply steady_when | with_reducible apply steady_foldl
      | with_reducible refine Steady.trans ?_ (updatePause_steady ..)
      | with_reducible refine Steady.trans ?_ (uncharge_steady ..) | with_reducible apply steady_cond | intro _ | split
      | (grind [updatePause_steady, uncharge_steady, Steady.trans, Steady.refl])

theorem releaseFrame_steady (s : State) (f : CFrame) : Steady s (releaseFrame s f) := by
  unfold releaseFrame
  try dsimp only
  repeat' first
      | with_reducible exact Steady.refl _ | (simp (disch := with_reducible rfl) only [↓steady_upd])
      | with_reducible apply steady_ite | with_reducible apply steady_when | with_reducible apply steady_foldl
      | with_reducible refine Steady.trans ?_ (releaseCells_steady ..) | with_reducible apply steady_cond | intro _
      | split | (grind [releaseCells_steady, Steady.trans, Steady.refl])

end Sys2Proof.Machine
end

