-- ==== Sys2Proof/Laws/Steady/Memory.lean ====
section
/-! SUPPORT. `Steady` of the functions of Machine/Memory.lean. -/

set_option Elab.async false

namespace Sys2Proof.Machine

seal count countN modStep recomputeHealth lsWrite hbmSbe lsRead hbmCheck csWrite hbmWrite hbmDbe hbmRaw spaceRead regionsEnd
  hbmWriteFuel considerSparing digestWrite csRead hbmRead dirtyPage failStep hbmWriteBlock spaceWrite freshCycle
  undoForager lsForagerWrite

theorem considerSparing_steady (s : State) (pc : Nat) : Steady s (considerSparing s pc) := by
  unfold considerSparing
  try dsimp only
  repeat' first
      | with_reducible exact Steady.refl _ | (simp (disch := with_reducible rfl) only [↓steady_upd])
      | with_reducible apply steady_ite | with_reducible apply steady_when | with_reducible apply steady_foldl
      | with_reducible refine Steady.trans ?_ (recomputeHealth_steady ..) | with_reducible apply steady_cond | intro _
      | split | (grind [recomputeHealth_steady, Steady.trans, Steady.refl])

theorem hbmSbe_steady (s : State) (w : Nat) : Steady s (hbmSbe s w) := by
  unfold hbmSbe
  try dsimp only
  repeat' first
      | with_reducible exact Steady.refl _ | (simp (disch := with_reducible rfl) only [↓steady_upd])
      | with_reducible apply steady_ite | with_reducible apply steady_when | with_reducible apply steady_foldl
      | with_reducible refine Steady.trans ?_ (count_steady ..)
      | with_reducible refine Steady.trans ?_ (considerSparing_steady ..) | with_reducible apply steady_cond | intro _
      | split | (grind [count_steady, considerSparing_steady, Steady.trans, Steady.refl])

theorem hbmDbe_steady (s : State) (w : Nat) : Steady s (hbmDbe s w) := by
  unfold hbmDbe
  try dsimp only
  repeat' first
      | with_reducible exact Steady.refl _ | (simp (disch := with_reducible rfl) only [↓steady_upd])
      | with_reducible apply steady_ite | with_reducible apply steady_when | with_reducible apply steady_foldl
      | with_reducible refine Steady.trans ?_ (considerSparing_steady ..) | with_reducible apply steady_cond | intro _
      | split | (grind [considerSparing_steady, Steady.trans, Steady.refl])

unseal hbmCheck in
theorem hbmCheck_steady (s : State) (a : Nat) (n : Nat) : Steady s (hbmCheck s a n).2 := by
  unfold hbmCheck
  split
  · exact Steady.refl _
  · refine steady_foldl_snd _ _ _ (Steady.refl _) ?_
    intro u w
    split
    · exact hbmSbe_steady ..
    · exact hbmDbe_steady ..
    · exact Steady.refl _

theorem hbmRead_steady (s : State) (a : Nat) (n : Nat) : Steady s (hbmRead s a n).2 := by
  unfold hbmRead
  try dsimp only
  repeat' first
      | with_reducible exact Steady.refl _ | (simp (disch := with_reducible rfl) only [↓steady_upd])
      | with_reducible apply steady_ite | with_reducible apply steady_when | with_reducible apply steady_foldl
      | with_reducible refine Steady.trans ?_ (hbmCheck_steady ..) | with_reducible apply steady_cond | intro _ | split
      | (grind [hbmCheck_steady, Steady.trans, Steady.refl])

theorem digestWrite_steady (s : State) (key : Nat) (ws : List Word) : Steady s (digestWrite s key ws) := by
  unfold digestWrite
  try dsimp only
  repeat' first
      | with_reducible exact Steady.refl _ | (simp (disch := with_reducible rfl) only [↓steady_upd])
      | with_reducible apply steady_ite | with_reducible apply steady_when | with_reducible apply steady_foldl
      | with_reducible refine Steady.trans ?_ (modStep_steady ..) | with_reducible apply steady_cond | intro _ | split
      | (grind [modStep_steady, Steady.trans, Steady.refl])

theorem failStep_steady (s : State) (f : Fail) : Steady s (failStep s f) := by
  unfold failStep
  try dsimp only
  repeat' first
      | with_reducible exact Steady.refl _ | (simp (disch := with_reducible rfl) only [↓steady_upd])
      | with_reducible apply steady_ite | with_reducible apply steady_when | with_reducible apply steady_foldl
      | with_reducible refine Steady.trans ?_ (modStep_steady ..) | with_reducible apply steady_cond | intro _ | split
      | (grind [modStep_steady, Steady.trans, Steady.refl])

unseal hbmRaw in
theorem hbmRaw_steady (s : State) (a : Nat) (bs : List Byte) : Steady s (hbmRaw s a bs) := by
  have := memWf_write s.hbm.mem a bs
  constructor <;> intros <;> simp_all [hbmRaw]

unseal dirtyPage in
theorem dirtyPage_steady (s : State) (n : Nat) (r : BitVec 320) (i : Nat) : Steady s (dirtyPage s n r i) := by
  have := fun d (bs : List Byte) => memWf_write s.hbm.mem d bs
  constructor <;> intros <;> simp_all [dirtyPage]

theorem hbmWriteBlock_steady (s : State) (a : Nat) (bs : List Byte) : Steady s (hbmWriteBlock s a bs) := by
  unfold hbmWriteBlock
  try dsimp only
  repeat' first
      | with_reducible exact Steady.refl _ | (simp (disch := with_reducible rfl) only [↓steady_upd])
      | with_reducible apply steady_ite | with_reducible apply steady_when | with_reducible apply steady_foldl
      | with_reducible refine Steady.trans ?_ (hbmRaw_steady ..) | with_reducible refine Steady.trans ?_ (failStep_steady ..)
      | with_reducible refine Steady.trans ?_ (dirtyPage_steady ..) | with_reducible apply steady_cond | intro _ | split
      | (grind [hbmRaw_steady, failStep_steady, dirtyPage_steady, Steady.trans, Steady.refl])

unseal hbmWriteFuel in
theorem hbmWriteFuel_steady (s : State) (a : Nat) (bs : List Byte) (a1 : Nat) : Steady s (hbmWriteFuel s a bs a1) := by
  induction a1 generalizing s a bs with
  | zero => exact Steady.refl s
  | succ n ih =>
    unfold hbmWriteFuel
    exact steady_ite _ (Steady.refl s) ((hbmWriteBlock_steady ..).trans (ih ..))

unseal hbmWrite in
theorem hbmWrite_steady (s : State) (a : Nat) (bs : List Byte) : Steady s (hbmWrite s a bs) := by
  exact steady_ite _ ((hbmWriteFuel_steady ..).trans (digestWrite_steady ..)) (hbmWriteFuel_steady ..)

theorem regionsEnd_steady (s : State) (key : Nat) (commit : Bool) : Steady s (regionsEnd s key commit) := by
  unfold regionsEnd
  try dsimp only
  repeat' first
      | with_reducible exact Steady.refl _ | (simp (disch := with_reducible rfl) only [↓steady_upd])
      | with_reducible apply steady_ite | with_reducible apply steady_when | with_reducible apply steady_foldl
      | with_reducible apply steady_cond | intro _ | split | (grind [Steady.trans, Steady.refl])

theorem lsRead_steady (s : State) (old : List (Nat × Word)) (core off n : Nat) : Steady s (lsRead s old core off n).2.2 := by
  unfold lsRead
  try dsimp only
  repeat' first
      | with_reducible exact Steady.refl _ | (simp (disch := with_reducible rfl) only [↓steady_upd])
      | with_reducible apply steady_ite | with_reducible apply steady_when | with_reducible apply steady_foldl
      | with_reducible refine Steady.trans ?_ (countN_steady ..) | with_reducible apply steady_cond | intro _ | split
      | (grind [countN_steady, Steady.trans, Steady.refl])

theorem csRead_steady (s : State) (old : List (Nat × Word)) (cl off n : Nat) : Steady s (csRead s old cl off n).2.2 := by
  unfold csRead
  try dsimp only
  repeat' first
      | with_reducible exact Steady.refl _ | (simp (disch := with_reducible rfl) only [↓steady_upd])
      | with_reducible apply steady_ite | with_reducible apply steady_when | with_reducible apply steady_foldl
      | with_reducible refine Steady.trans ?_ (countN_steady ..) | with_reducible apply steady_cond | intro _ | split
      | (grind [countN_steady, Steady.trans, Steady.refl])

unseal lsWrite in
theorem lsWrite_steady (s : State) (core : Nat) (off : Nat) (bs : List Byte) : Steady s (lsWrite s core off bs) := by
  unfold lsWrite
  dsimp only
  refine steady_ite _ (Steady.trans ?_ (digestWrite_steady ..)) ?_ <;>
    (apply steady_mem (Steady.refl s) <;> first
        | with_reducible rfl | with_reducible exact id | (intro h; dsimp only; exact memWf_write _ _ _ h))

theorem freshCycle_steady (s : State) : Steady s (freshCycle s) := by
  unfold freshCycle
  try dsimp only
  repeat' first
      | with_reducible exact Steady.refl _ | (simp (disch := with_reducible rfl) only [↓steady_upd])
      | with_reducible apply steady_ite | with_reducible apply steady_when | with_reducible apply steady_foldl
      | with_reducible apply steady_cond | intro _ | split | (grind [Steady.trans, Steady.refl])

unseal undoForager in
theorem undoForager_steady (s : State) (core : Nat) (e : Nat × Word) : Steady s (undoForager s core e) := by
  unfold undoForager
  dsimp only
  refine Steady.trans ?_ (modStep_steady ..)
  apply steady_mem (Steady.refl s) <;> first
        | with_reducible rfl | with_reducible exact id | (intro h; dsimp only; exact memWf_write _ _ _ h)

theorem lsCoreWrite_steady (s : State) (core : Nat) (off : Nat) (bs : List Byte) : Steady s (lsCoreWrite s core off bs) := by
  unfold lsCoreWrite
  try dsimp only
  repeat' first
      | with_reducible exact Steady.refl _ | (simp (disch := with_reducible rfl) only [↓steady_upd])
      | with_reducible apply steady_ite | with_reducible apply steady_when | with_reducible apply steady_foldl
      | with_reducible refine Steady.trans ?_ (freshCycle_steady ..)
      | with_reducible refine Steady.trans ?_ (undoForager_steady ..)
      | with_reducible refine Steady.trans ?_ (lsWrite_steady ..)
      | with_reducible refine Steady.trans ?_ (countN_steady ..) | with_reducible apply steady_cond | intro _ | split
      | (grind [freshCycle_steady, undoForager_steady, lsWrite_steady, countN_steady, Steady.trans, Steady.refl])

theorem lsForagerWrite_steady (s : State) (core : Nat) (off : Nat) (bs : List Byte) : Steady s (lsForagerWrite s core off bs)
  := by
  unfold lsForagerWrite
  try dsimp only
  repeat' first
      | with_reducible exact Steady.refl _ | (simp (disch := with_reducible rfl) only [↓steady_upd])
      | with_reducible apply steady_ite | with_reducible apply steady_when | with_reducible apply steady_foldl
      | with_reducible refine Steady.trans ?_ (freshCycle_steady ..)
      | with_reducible refine Steady.trans ?_ (countN_steady ..)
      | with_reducible refine Steady.trans ?_ (lsWrite_steady ..) | with_reducible apply steady_cond | intro _ | split
      | (grind [freshCycle_steady, countN_steady, lsWrite_steady, Steady.trans, Steady.refl])

unseal csWrite in
theorem csWrite_steady (s : State) (cl : Nat) (off : Nat) (bs : List Byte) : Steady s (csWrite s cl off bs) := by
  unfold csWrite
  dsimp only
  refine steady_ite _ (Steady.trans ?_ (digestWrite_steady ..)) ?_ <;>
    (apply steady_mem (freshCycle_steady s) <;> first
        | with_reducible rfl | with_reducible exact id | (intro h; dsimp only; exact memWf_write _ _ _ h))

theorem metaFix_steady (s : State) (a : Nat) (n : Nat) : Steady s (metaFix s a n) := by
  unfold metaFix
  try dsimp only
  repeat' first
      | with_reducible exact Steady.refl _ | (simp (disch := with_reducible rfl) only [↓steady_upd])
      | with_reducible apply steady_ite | with_reducible apply steady_when | with_reducible apply steady_foldl
      | with_reducible apply steady_cond | intro _ | split | (grind [Steady.trans, Steady.refl])

theorem spaceRead_steady (s : State) (a : Nat) (n : Nat) : Steady s (spaceRead s a n).2 := by
  unfold spaceRead
  try dsimp only
  repeat' first
      | with_reducible exact Steady.refl _ | (simp (disch := with_reducible rfl) only [↓steady_upd])
      | with_reducible apply steady_ite | with_reducible apply steady_when | with_reducible apply steady_foldl
      | with_reducible refine Steady.trans ?_ (hbmRead_steady ..) | with_reducible refine Steady.trans ?_ (csRead_steady ..)
      | with_reducible refine Steady.trans ?_ (lsRead_steady ..) | with_reducible apply steady_cond | intro _ | split
      | (grind [hbmRead_steady, csRead_steady, lsRead_steady, Steady.trans, Steady.refl])

theorem spaceWrite_steady (s : State) (a : Nat) (bs : List Byte) : Steady s (spaceWrite s a bs) := by
  unfold spaceWrite
  try dsimp only
  repeat' first
      | with_reducible exact Steady.refl _ | (simp (disch := with_reducible rfl) only [↓steady_upd])
      | with_reducible apply steady_ite | with_reducible apply steady_when | with_reducible apply steady_foldl
      | with_reducible refine Steady.trans ?_ (hbmWrite_steady ..)
      | with_reducible refine Steady.trans ?_ (csWrite_steady ..)
      | with_reducible refine Steady.trans ?_ (lsForagerWrite_steady ..) | with_reducible apply steady_cond | intro _
      | split | (grind [hbmWrite_steady, csWrite_steady, lsForagerWrite_steady, Steady.trans, Steady.refl])

end Sys2Proof.Machine
end

