-- ==== Sys2Proof/Laws/Steady/StreamWord.lean ====
section
/-! SUPPORT. `Steady` of the functions of Machine/StreamWord.lean. -/

set_option Elab.async false

namespace Sys2Proof.Machine

seal releaseCells dropLeaf settleLeaves noteDoubleFree releaseFrame

theorem dropLeaf_steady (s : State) (id : Nat) : Steady s (dropLeaf s id) := by
  unfold dropLeaf
  try dsimp only
  repeat' first
      | with_reducible exact Steady.refl _ | (simp (disch := with_reducible rfl) only [↓steady_upd])
      | with_reducible apply steady_ite | with_reducible apply steady_when | with_reducible apply steady_foldl
      | with_reducible refine Steady.trans ?_ (noteDoubleFree_steady ..)
      | with_reducible refine Steady.trans ?_ (releaseFrame_steady ..) | with_reducible apply steady_cond | intro _
      | split | (grind [noteDoubleFree_steady, releaseFrame_steady, Steady.trans, Steady.refl])

theorem settleLeaves_steady (s : State) : Steady s (settleLeaves s) := by
  unfold settleLeaves
  try dsimp only
  repeat' first
      | with_reducible exact Steady.refl _ | (simp (disch := with_reducible rfl) only [↓steady_upd])
      | with_reducible apply steady_ite | with_reducible apply steady_when | with_reducible apply steady_foldl
      | with_reducible refine Steady.trans ?_ (dropLeaf_steady ..)
      | with_reducible apply steady_cond | intro _ | split
      | (grind [dropLeaf_steady, Steady.trans, Steady.refl])

end Sys2Proof.Machine
end

