-- ==== Sys2Proof/Laws/Steady/StepEnd.lean ====
section
/-! SUPPORT. `Steady` of the functions of Machine/StepEnd.lean. -/

set_option Elab.async false

namespace Sys2Proof.Machine

seal settleLeaves count modStep setMode sendSets recomputeHealth sendBeacon freeBufHandle regionsEnd failStep stepHbmDbe
  releaseToken doubleFree endStep commitStep endLaunch fenceLaunch writeCompletion actPoison freeChunks modCore safeEntry
  modQueen modChan raisePoison discardStep dropOrigs done stepBoundary unstage fenceOutput fenceOutputs time digestTimeout
  enterSafe safeAlarm hbmDbe noteDoubleFree countN combRead bufRead addReader dropReader releaseChunk checkFree

theorem modQueen_steady (s : State) (l : Nat) (f : Queen → Queen) : Steady s (modQueen s l f) := by
  unfold modQueen
  try dsimp only
  repeat' first
      | with_reducible exact Steady.refl _ | (simp (disch := with_reducible rfl) only [↓steady_upd])
      | with_reducible apply steady_ite | with_reducible apply steady_when | with_reducible apply steady_foldl
      | with_reducible apply steady_cond | intro _ | split | (grind [Steady.trans, Steady.refl])

theorem modCore_steady (s : State) (c : Nat) (f : Core → Core) : Steady s (modCore s c f) := by
  unfold modCore
  try dsimp only
  repeat' first
      | with_reducible exact Steady.refl _ | (simp (disch := with_reducible rfl) only [↓steady_upd])
      | with_reducible apply steady_ite | with_reducible apply steady_when | with_reducible apply steady_foldl
      | with_reducible apply steady_cond | intro _ | split | (grind [Steady.trans, Steady.refl])

theorem modChan_steady (s : State) (n : Nat) (f : Chan → Chan) : Steady s (modChan s n f) := by
  unfold modChan
  try dsimp only
  repeat' first
      | with_reducible exact Steady.refl _ | (simp (disch := with_reducible rfl) only [↓steady_upd])
      | with_reducible apply steady_ite | with_reducible apply steady_when | with_reducible apply steady_foldl
      | with_reducible apply steady_cond | intro _ | split | (grind [Steady.trans, Steady.refl])

theorem writeCompletion_steady (s : State) (o : Outcome') (f : Fail) : Steady s (writeCompletion s o f) := by
  unfold writeCompletion
  try dsimp only
  repeat' first
      | with_reducible exact Steady.refl _ | (simp (disch := with_reducible rfl) only [↓steady_upd])
      | with_reducible apply steady_ite | with_reducible apply steady_when | with_reducible apply steady_foldl
      | with_reducible refine Steady.trans ?_ (count_steady ..) | with_reducible apply steady_cond | intro _ | split
      | (grind [count_steady, Steady.trans, Steady.refl])

theorem releaseToken_steady (s : State) (t : List TokenRec) : Steady s (releaseToken s t) := by
  unfold releaseToken
  try dsimp only
  repeat' first
      | with_reducible exact Steady.refl _ | (simp (disch := with_reducible rfl) only [↓steady_upd])
      | with_reducible apply steady_ite | with_reducible apply steady_when | with_reducible apply steady_foldl
      | with_reducible refine Steady.trans ?_ (count_steady ..) | with_reducible apply steady_cond | intro _ | split
      | (grind [count_steady, Steady.trans, Steady.refl])

theorem freeChunks_steady (s : State) (cs : List Chunk) : Steady s (freeChunks s cs) := by
  unfold freeChunks
  try dsimp only
  repeat' first
      | with_reducible exact Steady.refl _ | (simp (disch := with_reducible rfl) only [↓steady_upd])
      | with_reducible apply steady_ite | with_reducible apply steady_when | with_reducible apply steady_foldl
      | with_reducible refine Steady.trans ?_ (freeBufHandle_steady ..) | with_reducible apply steady_cond | intro _ | split
      | (grind [freeBufHandle_steady, Steady.trans, Steady.refl])

theorem releaseChunk_steady (s : State) (c : Chunk) : Steady s (releaseChunk s c) := by
  unfold releaseChunk
  try dsimp only
  repeat' first
      | with_reducible exact Steady.refl _ | (simp (disch := with_reducible rfl) only [↓steady_upd])
      | with_reducible apply steady_ite | with_reducible apply steady_when | with_reducible apply steady_foldl
      | with_reducible refine Steady.trans ?_ (freeChunks_steady ..) | with_reducible apply steady_cond | intro _ | split
      | (grind [freeChunks_steady, Steady.trans, Steady.refl])

theorem dropOrigs_steady (s : State) (key : Nat) : Steady s (dropOrigs s key) := by
  unfold dropOrigs
  try dsimp only
  repeat' first
      | with_reducible exact Steady.refl _ | (simp (disch := with_reducible rfl) only [↓steady_upd])
      | with_reducible apply steady_ite | with_reducible apply steady_when | with_reducible apply steady_foldl
      | with_reducible apply steady_cond | intro _ | split | (grind [Steady.trans, Steady.refl])

theorem discardStep_steady (s : State) (l : Launch) : Steady s (discardStep s l) := by
  unfold discardStep
  try dsimp only
  repeat' first
      | with_reducible exact Steady.refl _ | (simp (disch := with_reducible rfl) only [↓steady_upd])
      | with_reducible apply steady_ite | with_reducible apply steady_when | with_reducible apply steady_foldl
      | with_reducible refine Steady.trans ?_ (regionsEnd_steady ..)
      | with_reducible refine Steady.trans ?_ (freeBufHandle_steady ..)
      | with_reducible refine Steady.trans ?_ (freeChunks_steady ..)
      | with_reducible refine Steady.trans ?_ (dropOrigs_steady ..)
      | with_reducible refine Steady.trans ?_ (settleLeaves_steady ..)
      | with_reducible refine Steady.trans ?_ (modQueen_steady ..)
      | with_reducible refine Steady.trans ?_ (done_steady ..) | with_reducible refine Steady.trans ?_ (modChan_steady ..)
      | with_reducible apply steady_cond | intro _ | split
      | (grind [regionsEnd_steady, freeBufHandle_steady, freeChunks_steady, dropOrigs_steady, settleLeaves_steady, modQueen_steady, done_steady, modChan_steady, Steady.trans, Steady.refl])

unseal endLaunch in
theorem endLaunch_steady (s : State) : Steady s (endLaunch s) := by
  unfold endLaunch
  split
  · exact Steady.refl s
  · rename_i l _
    dsimp only
    generalize hv : (l.channels.foldl _ _) = v
    have b : Steady s v := by
      rw [← hv]
      exact steady_foldl _ _ _ (steady_foldl _ _ _ (Steady.refl s) (fun u q => modQueen_steady ..)) (fun u c => modChan_steady ..)
    have c : ∀ j h d, d.alertN = v.dev.alertN → d.replaceRequest = v.dev.replaceRequest →
        ((v.dev.safety = true → v.dev.detStrict = true) → d.safety = true → d.detStrict = true) →
        Steady s { v with job := j, health := h, dev := d } := by
      intro j h d h1 h2 h3
      refine b.trans ?_
      constructor <;> simp_all
    refine steady_ite _ (Steady.trans (c _ _ _ ?_ ?_ ?_) (setMode_steady ..)) (steady_ite _ (c _ _ _ ?_ ?_ ?_) (c _ _ _ ?_ ?_ ?_)) <;>
      by_cases hl : l.test = true <;> simp_all

theorem stepBoundary_steady (s : State) : Steady s (stepBoundary s) := by
  unfold stepBoundary
  try dsimp only
  repeat' first
      | with_reducible exact Steady.refl _ | (simp (disch := with_reducible rfl) only [↓steady_upd])
      | with_reducible apply steady_ite | with_reducible apply steady_when | with_reducible apply steady_foldl
      | with_reducible apply steady_cond | intro _ | split | (grind [Steady.trans, Steady.refl])

theorem endStep_steady (s : State) (o : Outcome') (f : Fail) : Steady s (endStep s o f) := by
  unfold endStep
  try dsimp only
  repeat' first
      | with_reducible exact Steady.refl _ | (simp (disch := with_reducible rfl) only [↓steady_upd])
      | with_reducible apply steady_ite | with_reducible apply steady_when | with_reducible apply steady_foldl
      | with_reducible refine Steady.trans ?_ (endLaunch_steady ..)
      | with_reducible refine Steady.trans ?_ (stepBoundary_steady ..)
      | with_reducible refine Steady.trans ?_ (discardStep_steady ..)
      | with_reducible refine Steady.trans ?_ (writeCompletion_steady ..) | with_reducible apply steady_cond | intro _
      | split
      | (grind [endLaunch_steady, stepBoundary_steady, discardStep_steady, writeCompletion_steady, Steady.trans, Steady.refl])

theorem unstage_steady (s : State) (o : Nat) (c : Copy) : Steady s (unstage s o c) := by
  unfold unstage
  try dsimp only
  repeat' first
      | with_reducible exact Steady.refl _ | (simp (disch := with_reducible rfl) only [↓steady_upd])
      | with_reducible apply steady_ite | with_reducible apply steady_when | with_reducible apply steady_foldl
      | with_reducible apply steady_cond | intro _ | split | (grind [Steady.trans, Steady.refl])

theorem fenceOutput_steady (s : State) (o : Nat) : Steady s (fenceOutput s o) := by
  unfold fenceOutput
  try dsimp only
  repeat' first
      | with_reducible exact Steady.refl _ | (simp (disch := with_reducible rfl) only [↓steady_upd])
      | with_reducible apply steady_ite | with_reducible apply steady_when | with_reducible apply steady_foldl
      | with_reducible refine Steady.trans ?_ (unstage_steady ..) | with_reducible apply steady_cond | intro _ | split
      | (grind [unstage_steady, Steady.trans, Steady.refl])

theorem fenceOutputs_steady (s : State) : Steady s (fenceOutputs s) := by
  unfold fenceOutputs
  try dsimp only
  repeat' first
      | with_reducible exact Steady.refl _ | (simp (disch := with_reducible rfl) only [↓steady_upd])
      | with_reducible apply steady_ite | with_reducible apply steady_when | with_reducible apply steady_foldl
      | with_reducible refine Steady.trans ?_ (fenceOutput_steady ..) | with_reducible apply steady_cond | intro _ | split
      | (grind [fenceOutput_steady, Steady.trans, Steady.refl])

unseal enterSafe in
theorem enterSafe_steady (s : State) (alarm : State → State) (m : Mech) (loc : Nat) (ha : ∀ u, Steady u (alarm u)) :
    Steady s (enterSafe s alarm m loc) := by
  unfold enterSafe
  dsimp only
  refine steady_ite _ (Steady.refl s) ?_
  simp (disch := with_reducible rfl) only [↓steady_upd]
  refine steady_foldl _ _ _ ?_ fun u p => sendBeacon_steady u p
  refine Steady.trans (Steady.trans ?_ (ha _)) (setMode_steady ..)
  refine Steady.trans ?_ (fenceOutputs_steady ..)
  simp (disch := with_reducible rfl) only [↓steady_upd]
  exact Steady.refl s

theorem safeAlarm_steady (l : Launch) (st : Step) (s : State) : Steady s (safeAlarm l st s) := by
  unfold safeAlarm
  try dsimp only
  repeat' first
      | with_reducible exact Steady.refl _ | (simp (disch := with_reducible rfl) only [↓steady_upd])
      | with_reducible apply steady_ite | with_reducible apply steady_when | with_reducible apply steady_foldl
      | with_reducible refine Steady.trans ?_ (sendSets_steady ..) | with_reducible apply steady_cond | intro _ | split
      | (grind [sendSets_steady, Steady.trans, Steady.refl])

theorem actPoison_steady (s : State) (cause : Nat) : Steady s (actPoison s cause) := by
  unfold actPoison
  try dsimp only
  repeat' first
      | with_reducible exact Steady.refl _ | (simp (disch := with_reducible rfl) only [↓steady_upd])
      | with_reducible apply steady_ite
      | with_reducible refine Steady.trans ?_ (endStep_steady ..)
      | with_reducible refine Steady.trans ?_ (discardStep_steady ..)
      | with_reducible refine Steady.trans ?_ (enterSafe_steady _ _ _ _ fun u => safeAlarm_steady _ _ u) | split

theorem releaseHold_steady (s : State) : Steady s (releaseHold s) := by
  unfold releaseHold
  try dsimp only
  repeat' first
      | with_reducible exact Steady.refl _ | (simp (disch := with_reducible rfl) only [↓steady_upd])
      | with_reducible apply steady_ite | with_reducible apply steady_when | with_reducible apply steady_foldl
      | with_reducible refine Steady.trans ?_ (modStep_steady ..) | with_reducible apply steady_cond | intro _ | split
      | (grind [modStep_steady, Steady.trans, Steady.refl])

theorem raisePoison_steady (s : State) (c : PCause) : Steady s (raisePoison s c) := by
  unfold raisePoison
  try dsimp only
  repeat' first
      | with_reducible exact Steady.refl _ | (simp (disch := with_reducible rfl) only [↓steady_upd])
      | with_reducible apply steady_ite | with_reducible apply steady_when | with_reducible apply steady_foldl
      | with_reducible refine Steady.trans ?_ (actPoison_steady ..)
      | with_reducible refine Steady.trans ?_ (sendSets_steady ..) | with_reducible apply steady_cond | intro _ | split
      | (grind [actPoison_steady, sendSets_steady, Steady.trans, Steady.refl])

theorem stepHbmDbe_steady (s : State) (ws : List Nat) : Steady s (stepHbmDbe s ws) := by
  unfold stepHbmDbe
  try dsimp only
  repeat' first
      | with_reducible exact Steady.refl _ | (simp (disch := with_reducible rfl) only [↓steady_upd])
      | with_reducible apply steady_ite | with_reducible apply steady_when | with_reducible apply steady_foldl
      | with_reducible refine Steady.trans ?_ (failStep_steady ..)
      | with_reducible refine Steady.trans ?_ (raisePoison_steady ..)
      | with_reducible refine Steady.trans ?_ (modStep_steady ..)
      | with_reducible refine Steady.trans ?_ (hbmDbe_steady ..) | with_reducible apply steady_cond | intro _ | split
      | (grind [failStep_steady, raisePoison_steady, modStep_steady, hbmDbe_steady, Steady.trans, Steady.refl])

theorem doubleFree_steady (s : State) (owner : Nat) (requester : Nat) : Steady s (doubleFree s owner requester) := by
  unfold doubleFree
  try dsimp only
  repeat' first
      | with_reducible exact Steady.refl _ | (simp (disch := with_reducible rfl) only [↓steady_upd])
      | with_reducible apply steady_ite | with_reducible apply steady_when | with_reducible apply steady_foldl
      | with_reducible refine Steady.trans ?_ (raisePoison_steady ..)
      | with_reducible refine Steady.trans ?_ (noteDoubleFree_steady ..) | with_reducible apply steady_cond | intro _
      | split | (grind [raisePoison_steady, noteDoubleFree_steady, Steady.trans, Steady.refl])

unseal checkFree in
theorem checkFree_steady (s t : State) : Steady t (checkFree s t) := by
  unfold checkFree
  exact steady_ite _ (raisePoison_steady ..) (Steady.refl t)

unseal safeEntry in
theorem safeEntry_steady (s : State) (m : Mech) (loc : Nat) : Steady s (safeEntry s m loc) := by
  unfold safeEntry
  exact enterSafe_steady _ _ _ _ fun u => steady_ite _ (Steady.refl u) (raisePoison_steady ..)

theorem combRead_steady (s : State) (p : CombMeta → Bool) : Steady s (combRead s p).1 := by
  unfold combRead
  try dsimp only
  repeat' first
      | with_reducible exact Steady.refl _ | (simp (disch := with_reducible rfl) only [↓steady_upd])
      | with_reducible apply steady_ite | with_reducible apply steady_when | with_reducible apply steady_foldl
      | with_reducible refine Steady.trans ?_ (countN_steady ..)
      | with_reducible refine Steady.trans ?_ (safeEntry_steady ..) | with_reducible apply steady_cond | intro _ | split
      | (grind [countN_steady, safeEntry_steady, Steady.trans, Steady.refl])

theorem settleFree_steady (s : State) : Steady s (settleFree s) := by
  unfold settleFree
  exact (settleLeaves_steady s).trans (checkFree_steady ..)

theorem bufRead_steady (s : State) (h : Nat) : Steady s (bufRead s h).1 := by
  unfold bufRead
  try dsimp only
  repeat' first
      | with_reducible exact Steady.refl _ | (simp (disch := with_reducible rfl) only [↓steady_upd])
      | with_reducible apply steady_ite | with_reducible apply steady_when | with_reducible apply steady_foldl
      | with_reducible refine Steady.trans ?_ (combRead_steady ..) | with_reducible apply steady_cond | intro _ | split
      | (grind [combRead_steady, Steady.trans, Steady.refl])

theorem dropReader_steady (s : State) (requester : Nat) (h : Nat) : Steady s (dropReader s requester h) := by
  unfold dropReader
  try dsimp only
  repeat' first
      | with_reducible exact Steady.refl _ | (simp (disch := with_reducible rfl) only [↓steady_upd])
      | with_reducible apply steady_ite | with_reducible apply steady_when | with_reducible apply steady_foldl
      | with_reducible refine Steady.trans ?_ (bufRead_steady ..)
      | with_reducible refine Steady.trans ?_ (doubleFree_steady ..)
      | with_reducible refine Steady.trans ?_ (freeBufHandle_steady ..) | with_reducible apply steady_cond | intro _
      | split | (grind [bufRead_steady, doubleFree_steady, freeBufHandle_steady, Steady.trans, Steady.refl])

theorem addReader_getD_steady (s : State) (h : Nat) : Steady s ((addReader s h).getD s) := by
  cases e : addReader s h with
  | none => exact Steady.refl s
  | some t => exact addReader_steady s h t e

theorem moreReaders_steady (s : State) (h : Nat) : Steady s (moreReaders s h) := by
  unfold moreReaders
  dsimp only
  exact steady_ite _ (bufRead_steady s h) ((bufRead_steady s h).trans (addReader_getD_steady ..))

theorem returnBuf_steady (s : State) (h : Nat) : Steady s (returnBuf s h) := by
  unfold returnBuf
  dsimp only
  exact steady_ite _ (bufRead_steady s h) (((bufRead_steady s h).trans (freeBufHandle_steady ..)).trans (checkFree_steady ..))

theorem releaseReaders_steady (s : State) (c : Chunk) : Steady s (releaseReaders s c) := by
  unfold releaseReaders
  try dsimp only
  repeat' first
      | with_reducible exact Steady.refl _ | (simp (disch := with_reducible rfl) only [↓steady_upd])
      | with_reducible apply steady_ite | with_reducible apply steady_when | with_reducible apply steady_foldl
      | with_reducible refine Steady.trans ?_ (dropReader_steady ..)
      | with_reducible refine Steady.trans ?_ (releaseChunk_steady ..) | with_reducible apply steady_cond | intro _
      | split | (grind [dropReader_steady, releaseChunk_steady, Steady.trans, Steady.refl])

theorem commitStep_steady (s : State) : Steady s (commitStep s) := by
  unfold commitStep
  try dsimp only
  repeat' first
      | with_reducible exact Steady.refl _ | (simp (disch := with_reducible rfl) only [↓steady_upd])
      | with_reducible apply steady_ite | with_reducible apply steady_when | with_reducible apply steady_foldl
      | with_reducible refine Steady.trans ?_ (safeEntry_steady ..)
      | with_reducible refine Steady.trans ?_ (regionsEnd_steady ..)
      | with_reducible refine Steady.trans ?_ (writeCompletion_steady ..)
      | with_reducible refine Steady.trans ?_ (time_steady ..)
      | with_reducible refine Steady.trans ?_ (releaseToken_steady ..)
      | with_reducible refine Steady.trans ?_ (stepBoundary_steady ..)
      | with_reducible refine Steady.trans ?_ (modQueen_steady ..)
      | with_reducible refine Steady.trans ?_ (recomputeHealth_steady ..) | with_reducible apply steady_cond | intro _
      | split
      | (grind [safeEntry_steady, regionsEnd_steady, writeCompletion_steady, time_steady, releaseToken_steady, stepBoundary_steady, modQueen_steady, recomputeHealth_steady, Steady.trans, Steady.refl])

theorem fenceLaunch_steady (s : State) : Steady s (fenceLaunch s) := by
  unfold fenceLaunch
  try dsimp only
  repeat' first
      | with_reducible exact Steady.refl _ | (simp (disch := with_reducible rfl) only [↓steady_upd])
      | with_reducible apply steady_ite | with_reducible apply steady_when | with_reducible apply steady_foldl
      | with_reducible refine Steady.trans ?_ (endStep_steady ..) | with_reducible apply steady_cond | intro _ | split
      | (grind [endStep_steady, Steady.trans, Steady.refl])

end Sys2Proof.Machine
end

