-- ==== Sys2Proof/Laws/Steady/Route.lean ====
section
/-! SUPPORT. `Steady` of the functions of Machine/Route.lean. -/

set_option Elab.async false

namespace Sys2Proof.Machine

seal countDiscard count releaseCells hbmWriteFuel doubleFree meter decRef discard mirror putRecords modStep ringPut
  releaseFrame

theorem meter_steady (s : State) (p : Nat) (c : Nat) (bytes : Nat) : Steady s (meter s p c bytes).2 := by
  unfold meter
  try dsimp only
  repeat' first
      | with_reducible exact Steady.refl _ | (simp (disch := with_reducible rfl) only [↓steady_upd])
      | with_reducible apply steady_ite | with_reducible apply steady_when | with_reducible apply steady_foldl
      | with_reducible apply steady_cond | intro _ | split | (grind [Steady.trans, Steady.refl])

unseal putRecords in
theorem putRecords_steady (s : State) (off : Nat) (l : List (Nat × List Byte)) : Steady s (putRecords s off l) := by
  induction l generalizing s off with
  | nil => exact Steady.refl _
  | cons x r ih => exact (hbmWriteFuel_steady ..).trans (ih ..)

theorem ringPut_steady (s : State) (rule : Nat) (bs : List Byte) : Steady s (ringPut s rule bs) := by
  unfold ringPut
  try dsimp only
  repeat' first
      | with_reducible exact Steady.refl _ | (simp (disch := with_reducible rfl) only [↓steady_upd])
      | with_reducible apply steady_ite | with_reducible apply steady_when | with_reducible apply steady_foldl
      | with_reducible refine Steady.trans ?_ (modStep_steady ..)
      | with_reducible refine Steady.trans ?_ (putRecords_steady ..) | with_reducible apply steady_cond | intro _ | split
      | (grind [modStep_steady, putRecords_steady, Steady.trans, Steady.refl])

theorem mirror_steady (s : State) (f : Frame) (ev : Nat) (inp : Nat) (out : Nat) (cause : Nat) (colour : Nat) (depth : Nat) :
  Steady s (mirror s f ev inp out cause colour depth) := by
  unfold mirror
  try dsimp only
  repeat' first
      | with_reducible exact Steady.refl _ | (simp (disch := with_reducible rfl) only [↓steady_upd])
      | with_reducible apply steady_ite | with_reducible apply steady_when | with_reducible apply steady_foldl
      | with_reducible refine Steady.trans ?_ (count_steady ..)
      | with_reducible refine Steady.trans ?_ (ringPut_steady ..) | with_reducible apply steady_cond | intro _ | split
      | (grind [count_steady, ringPut_steady, Steady.trans, Steady.refl])

theorem discard_steady (s : State) (index : Nat) (f : Frame) (c : Cause) (inp : Nat) (out : Nat) (colour : Nat) (depth : Nat)
  : Steady s (discard s index f c inp out colour depth) := by
  unfold discard
  try dsimp only
  repeat' first
      | with_reducible exact Steady.refl _ | (simp (disch := with_reducible rfl) only [↓steady_upd])
      | with_reducible apply steady_ite | with_reducible apply steady_when | with_reducible apply steady_foldl
      | with_reducible refine Steady.trans ?_ (mirror_steady ..)
      | with_reducible refine Steady.trans ?_ (countDiscard_steady ..) | with_reducible apply steady_cond | intro _ | split
      | (grind [mirror_steady, countDiscard_steady, Steady.trans, Steady.refl])

theorem decRef_steady (s : State) (id : Nat) (requester : Nat) : Steady s (decRef s id requester) := by
  unfold decRef
  try dsimp only
  repeat' first
      | with_reducible exact Steady.refl _ | (simp (disch := with_reducible rfl) only [↓steady_upd])
      | with_reducible apply steady_ite | with_reducible apply steady_when | with_reducible apply steady_foldl
      | with_reducible refine Steady.trans ?_ (doubleFree_steady ..)
      | with_reducible refine Steady.trans ?_ (releaseFrame_steady ..) | with_reducible apply steady_cond | intro _
      | split | (grind [doubleFree_steady, releaseFrame_steady, Steady.trans, Steady.refl])

end Sys2Proof.Machine
end

