-- ==== Sys2Proof/Laws/Steady/Mailbox.lean ====
section
/-! SUPPORT. `Steady` of the functions of Machine/Mailbox.lean. -/

set_option Elab.async false

namespace Sys2Proof.Machine

seal count emit msix originateMgmt acceptReq keepResp sendMsg mgmtDatagram respond doorbell dhcpv4Reply

theorem keepResp_steady (s : State) (r : Req) (msg : List Word) : Steady s (keepResp s r msg) := by
  unfold keepResp
  try dsimp only
  repeat' first
      | with_reducible exact Steady.refl _ | (simp (disch := with_reducible rfl) only [↓steady_upd])
      | with_reducible apply steady_ite | with_reducible apply steady_when | with_reducible apply steady_foldl
      | with_reducible apply steady_cond | intro _ | split | (grind [Steady.trans, Steady.refl])

theorem sendMsg_steady (s : State) (src : ReqSrc) (peer : BitVec 32) (msg : List Word) : Steady s (sendMsg s src peer msg) := by
  unfold sendMsg
  try dsimp only
  repeat' first
      | with_reducible exact Steady.refl _ | (simp (disch := with_reducible rfl) only [↓steady_upd])
      | with_reducible apply steady_ite | with_reducible apply steady_when | with_reducible apply steady_foldl
      | with_reducible refine Steady.trans ?_ (originateMgmt_steady ..)
      | with_reducible refine Steady.trans ?_ (emit_steady ..) | with_reducible apply steady_cond | intro _ | split
      | (grind [originateMgmt_steady, emit_steady, Steady.trans, Steady.refl])

unseal respond in
theorem respond_steady (s : State) (r : Req) (status : Nat) (detail : Nat) (resp : List Word) : Steady s (respond s r status
  detail resp) := by
  unfold respond
  dsimp only
  split
  · refine steady_ite _ (Steady.trans ?_ (msix_steady ..)) ?_ <;>
      (apply steady_mem (Steady.refl s) <;> first
          | with_reducible rfl | with_reducible exact id
          | (intro h; dsimp only; exact memWf_write _ _ _ (memWf_filter _ _ h)))
  · exact (steady_ite _ (keepResp_steady ..) (Steady.refl _)).trans (sendMsg_steady ..)

theorem acceptReq_steady (s : State) (r : Req) : Steady s (acceptReq s r) := by
  unfold acceptReq
  try dsimp only
  repeat' first
      | with_reducible exact Steady.refl _ | (simp (disch := with_reducible rfl) only [↓steady_upd])
      | with_reducible apply steady_ite | with_reducible apply steady_when | with_reducible apply steady_foldl
      | with_reducible refine Steady.trans ?_ (respond_steady ..) | with_reducible apply steady_cond | intro _ | split
      | (grind [respond_steady, Steady.trans, Steady.refl])

unseal doorbell in
theorem doorbell_steady (v : Word) (s : State) : Steady s (doorbell v s) := by
  unfold doorbell
  dsimp only
  refine steady_ite _ (Steady.refl _) (steady_ite _ (count_steady ..) ?_)
  refine Steady.trans ?_ (acceptReq_steady ..)
  apply steady_mem (Steady.refl s) <;> first
      | with_reducible rfl | with_reducible exact id | (intro h; dsimp only; exact memWf_write _ _ _ h)

theorem mgmtDatagram_steady (peer : BitVec 32) (msg : List Word) (s : State) : Steady s (mgmtDatagram peer msg s) := by
  unfold mgmtDatagram
  try dsimp only
  repeat' first
      | with_reducible exact Steady.refl _ | (simp (disch := with_reducible rfl) only [↓steady_upd])
      | with_reducible apply steady_ite | with_reducible apply steady_when | with_reducible apply steady_foldl
      | with_reducible refine Steady.trans ?_ (sendMsg_steady ..)
      | with_reducible refine Steady.trans ?_ (acceptReq_steady ..) | with_reducible apply steady_cond | intro _ | split
      | (grind [sendMsg_steady, acceptReq_steady, Steady.trans, Steady.refl])

theorem dhcpv4Reply_steady (a : BitVec 32) (s : State) : Steady s (dhcpv4Reply a s) := by
  unfold dhcpv4Reply
  try dsimp only
  repeat' first
      | with_reducible exact Steady.refl _ | (simp (disch := with_reducible rfl) only [↓steady_upd])
      | with_reducible apply steady_ite | with_reducible apply steady_when | with_reducible apply steady_foldl
      | with_reducible apply steady_cond | intro _ | split | (grind [Steady.trans, Steady.refl])

end Sys2Proof.Machine
end

