-- ==== Sys2Proof/Laws/Steady/Debug.lean ====
section
/-! SUPPORT. `Steady` of the functions of Machine/Debug.lean. -/

set_option Elab.async false

namespace Sys2Proof.Machine

seal emit nonceExpiry spdmRequest jtagInstruction debugScopeExpiry putSpdm spdmServe forward setScopes

theorem putSpdm_steady (s : State) (x : SpdmEx) : Steady s (putSpdm s x) := by
  unfold putSpdm
  try dsimp only
  repeat' first
      | with_reducible exact Steady.refl _ | (simp (disch := with_reducible rfl) only [↓steady_upd])
      | with_reducible apply steady_ite | with_reducible apply steady_when | with_reducible apply steady_foldl
      | with_reducible apply steady_cond | intro _ | split | (grind [Steady.trans, Steady.refl])

theorem spdmServe_steady (path : SpdmPath) (version : Byte) (r : SpdmRequest) (s : State) : Steady s (spdmServe path version
  r s) := by
  unfold spdmServe
  try dsimp only
  repeat' first
      | with_reducible exact Steady.refl _ | (simp (disch := with_reducible rfl) only [↓steady_upd])
      | with_reducible apply steady_ite | with_reducible apply steady_when | with_reducible apply steady_foldl
      | with_reducible refine Steady.trans ?_ (emit_steady ..) | with_reducible refine Steady.trans ?_ (putSpdm_steady ..)
      | with_reducible apply steady_cond | intro _ | split
      | (grind [emit_steady, putSpdm_steady, Steady.trans, Steady.refl])

theorem serveWaiting_steady (s : State) : Steady s (serveWaiting s) := by
  unfold serveWaiting
  try dsimp only
  repeat' first
      | with_reducible exact Steady.refl _ | (simp (disch := with_reducible rfl) only [↓steady_upd])
      | with_reducible apply steady_ite | with_reducible apply steady_when | with_reducible apply steady_foldl
      | with_reducible refine Steady.trans ?_ (spdmServe_steady ..) | with_reducible apply steady_cond | intro _ | split
      | (grind [spdmServe_steady, Steady.trans, Steady.refl])

theorem spdmRequest_steady (path : SpdmPath) (version : Byte) (r : SpdmRequest) (s : State) : Steady s (spdmRequest path
  version r s) := by
  unfold spdmRequest
  try dsimp only
  repeat' first
      | with_reducible exact Steady.refl _ | (simp (disch := with_reducible rfl) only [↓steady_upd])
      | with_reducible apply steady_ite | with_reducible apply steady_when | with_reducible apply steady_foldl
      | with_reducible refine Steady.trans ?_ (forward_steady ..)
      | with_reducible refine Steady.trans ?_ (spdmServe_steady ..) | with_reducible apply steady_cond | intro _ | split
      | (grind [forward_steady, spdmServe_steady, Steady.trans, Steady.refl])

theorem jtagInstruction_steady (ir : JtagIr) (s : State) : Steady s (jtagInstruction ir s) := by
  unfold jtagInstruction
  try dsimp only
  repeat' first
      | with_reducible exact Steady.refl _ | (simp (disch := with_reducible rfl) only [↓steady_upd])
      | with_reducible apply steady_ite | with_reducible apply steady_when | with_reducible apply steady_foldl
      | with_reducible apply steady_cond | intro _ | split | (grind [Steady.trans, Steady.refl])

unseal setScopes in
theorem setScopes_steady (s : State) (scopes : BitVec 4) (scopeEnd : Option Nat) (h : scopeEnd = none → scopes = 0) :
    Steady s (setScopes s scopes scopeEnd) := by
  unfold setScopes
  constructor <;> intros <;> first | rfl | assumption | simp_all

unseal debugScopeExpiry in
theorem debugScopeExpiry_steady (s : State) : Steady s (debugScopeExpiry s) := by
  unfold debugScopeExpiry
  split
  · exact steady_when _ (Steady.refl s) (setScopes_steady _ _ _ fun _ => rfl)
  · exact Steady.refl s

theorem nonceExpiry_steady (s : State) : Steady s (nonceExpiry s) := by
  unfold nonceExpiry
  try dsimp only
  repeat' first
      | with_reducible exact Steady.refl _ | (simp (disch := with_reducible rfl) only [↓steady_upd])
      | with_reducible apply steady_ite | with_reducible apply steady_when | with_reducible apply steady_foldl
      | with_reducible apply steady_cond | intro _ | split | (grind [Steady.trans, Steady.refl])

end Sys2Proof.Machine
end

