-- ==== Sys2Proof/Laws/Steady/Frames.lean ====
section
/-! SUPPORT. `Steady` of the functions of Machine/Frames.lean. -/

set_option Elab.async false

namespace Sys2Proof.Machine

seal count modStep emit originateForager originate originateMgmt spaceRead spaceWrite stepHbmDbe modQueen modChan raisePoison
  acceptReq sendMsg respond mrdata mwack originateDie mbox channelWrite takeLocal event applyWrite foragerSignalNow
  writeFrames replicaWrite readFailed endForward answerRead ownWriteDone mboxResponse mwrite mread forwardTimeout ackWrite
  safeEntry metaFix serveWaiting forward

unseal takeLocal in
theorem takeLocal_steady (s : State) (f : Frame) (n : Nat) : (∀ x0, (takeLocal s f n) = some x0 → Steady s x0) := by
  unfold takeLocal
  intros; rename_i hx
  split at hx
  · cases hx
    simp (disch := with_reducible rfl) only [steady_upd]
    exact Steady.refl _
  · cases hx

theorem originateDie_steady (s : State) (d : Nat) (turn : Nat) (f : Frame) : Steady s (originateDie s d turn f) := by
  unfold originateDie
  try dsimp only
  repeat' first
      | with_reducible exact Steady.refl _ | (simp (disch := with_reducible rfl) only [↓steady_upd])
      | with_reducible apply steady_ite | with_reducible apply steady_when | with_reducible apply steady_foldl
      | with_reducible refine Steady.trans ?_ (originate_steady ..) | with_reducible apply steady_cond | intro _ | split
      | (grind [originate_steady, Steady.trans, Steady.refl])

theorem foragerSignalNow_steady (s : State) (ch : Nat) (w0 : Word) : Steady s (foragerSignalNow s ch w0) := by
  unfold foragerSignalNow
  try dsimp only
  repeat' first
      | with_reducible exact Steady.refl _ | (simp (disch := with_reducible rfl) only [↓steady_upd])
      | with_reducible apply steady_ite | with_reducible apply steady_when | with_reducible apply steady_foldl
      | with_reducible refine Steady.trans ?_ (originateForager_steady ..)
      | with_reducible refine Steady.trans ?_ (modChan_steady ..)
      | with_reducible refine Steady.trans ?_ (modQueen_steady ..) | with_reducible apply steady_cond | intro _ | split
      | (grind [originateForager_steady, modChan_steady, modQueen_steady, Steady.trans, Steady.refl])

theorem ownWriteDone_steady (s : State) (ch : Nat) (seq : Nat) : Steady s (ownWriteDone s ch seq) := by
  unfold ownWriteDone
  try dsimp only
  repeat' first
      | with_reducible exact Steady.refl _ | (simp (disch := with_reducible rfl) only [↓steady_upd])
      | with_reducible apply steady_ite | with_reducible apply steady_when | with_reducible apply steady_foldl
      | with_reducible refine Steady.trans ?_ (modChan_steady ..)
      | with_reducible refine Steady.trans ?_ (foragerSignalNow_steady ..) | with_reducible apply steady_cond | intro _
      | split | (grind [modChan_steady, foragerSignalNow_steady, Steady.trans, Steady.refl])

theorem replicaWrite_steady (s : State) (key : Nat) (ws : List Word) : Steady s (replicaWrite s key ws) := by
  unfold replicaWrite
  try dsimp only
  repeat' first
      | with_reducible exact Steady.refl _ | (simp (disch := with_reducible rfl) only [↓steady_upd])
      | with_reducible apply steady_ite | with_reducible apply steady_when | with_reducible apply steady_foldl
      | with_reducible refine Steady.trans ?_ (modStep_steady ..) | with_reducible apply steady_cond | intro _ | split
      | (grind [modStep_steady, Steady.trans, Steady.refl])

theorem ackWrite_steady (s : State) (f : Frame) : Steady s (ackWrite s f) := by
  unfold ackWrite
  try dsimp only
  repeat' first
      | with_reducible exact Steady.refl _ | (simp (disch := with_reducible rfl) only [↓steady_upd])
      | with_reducible apply steady_ite | with_reducible apply steady_when | with_reducible apply steady_foldl
      | with_reducible refine Steady.trans ?_ (originateDie_steady ..)
      | with_reducible refine Steady.trans ?_ (originateMgmt_steady ..) | with_reducible apply steady_cond | intro _ | split
      | (grind [originateDie_steady, originateMgmt_steady, Steady.trans, Steady.refl])

theorem applyWrite_steady (s : State) (f : Frame) : Steady s (applyWrite s f) := by
  unfold applyWrite
  try dsimp only
  repeat' first
      | with_reducible exact Steady.refl _ | (simp (disch := with_reducible rfl) only [↓steady_upd])
      | with_reducible apply steady_ite | with_reducible apply steady_when | with_reducible apply steady_foldl
      | with_reducible refine Steady.trans ?_ (spaceWrite_steady ..)
      | with_reducible refine Steady.trans ?_ (replicaWrite_steady ..)
      | with_reducible refine Steady.trans ?_ (ownWriteDone_steady ..)
      | with_reducible refine Steady.trans ?_ (ackWrite_steady ..) | with_reducible apply steady_cond | intro _ | split
      | (grind [spaceWrite_steady, replicaWrite_steady, ownWriteDone_steady, ackWrite_steady, Steady.trans, Steady.refl])

theorem mwrite_steady (f : Frame) (s : State) : Steady s (mwrite f s) := by
  unfold mwrite
  try dsimp only
  repeat' first
      | with_reducible exact Steady.refl _ | (simp (disch := with_reducible rfl) only [↓steady_upd])
      | with_reducible apply steady_ite | with_reducible apply steady_when | with_reducible apply steady_foldl
      | with_reducible refine Steady.trans ?_ (takeLocal_steady ..)
      | with_reducible refine Steady.trans ?_ (count_steady ..)
      | with_reducible refine Steady.trans ?_ (safeEntry_steady ..)
      | with_reducible refine Steady.trans ?_ (applyWrite_steady ..)
      | with_reducible refine Steady.trans ?_ (metaFix_steady ..) | with_reducible apply steady_cond | intro _ | split
      | (grind [takeLocal_steady, count_steady, safeEntry_steady, applyWrite_steady, metaFix_steady, Steady.trans, Steady.refl])

theorem mwack_steady (f : Frame) (s : State) : Steady s (mwack f s) := by
  unfold mwack
  try dsimp only
  repeat' first
      | with_reducible exact Steady.refl _ | (simp (disch := with_reducible rfl) only [↓steady_upd])
      | with_reducible apply steady_ite | with_reducible apply steady_when | with_reducible apply steady_foldl
      | with_reducible refine Steady.trans ?_ (takeLocal_steady _ _ _ _ (by assumption))
      | with_reducible refine Steady.trans ?_ (modChan_steady ..) | with_reducible apply steady_cond | intro _ | split
      | (grind [takeLocal_steady, modChan_steady, Steady.trans, Steady.refl])

theorem answerRead_steady (s : State) (f : Frame) (bs : List Byte) : Steady s (answerRead s f bs) := by
  unfold answerRead
  try dsimp only
  repeat' first
      | with_reducible exact Steady.refl _ | (simp (disch := with_reducible rfl) only [↓steady_upd])
      | with_reducible apply steady_ite | with_reducible apply steady_when | with_reducible apply steady_foldl
      | with_reducible refine Steady.trans ?_ (originateDie_steady ..) | with_reducible apply steady_cond | intro _ | split
      | (grind [originateDie_steady, Steady.trans, Steady.refl])

theorem readFailed_steady (s : State) (a : Nat) (n : Nat) (ch : Option Nat) (inStep : Bool) : Steady s (readFailed s a n ch
  inStep) := by
  unfold readFailed
  try dsimp only
  repeat' first
      | with_reducible exact Steady.refl _ | (simp (disch := with_reducible rfl) only [↓steady_upd])
      | with_reducible apply steady_ite | with_reducible apply steady_when | with_reducible apply steady_foldl
      | with_reducible refine Steady.trans ?_ (stepHbmDbe_steady ..)
      | with_reducible refine Steady.trans ?_ (raisePoison_steady ..)
      | with_reducible refine Steady.trans ?_ (modChan_steady ..) | with_reducible apply steady_cond | intro _ | split
      | (grind [stepHbmDbe_steady, raisePoison_steady, modChan_steady, Steady.trans, Steady.refl])

unseal mread in
theorem mread_steady (f : Frame) (s : State) : Steady s (mread f s) := by
  unfold mread
  split
  · exact Steady.refl _
  · rename_i s1 h1
    have a : Steady s s1 := takeLocal_steady _ _ _ _ h1
    dsimp only
    refine steady_ite _ (Steady.refl _) (steady_ite _ a (steady_ite _ (a.trans (safeEntry_steady ..)) ?_))
    have b := (a.trans (metaFix_steady ..)).trans
      (spaceRead_steady (metaFix s1 f.w3.toNat (fld ((wordsOfBytes f.payload 1).getD 0 0) 0 32)) f.w3.toNat
        (fld ((wordsOfBytes f.payload 1).getD 0 0) 0 32))
    split
    · rename_i s2 h2
      rw [h2] at b
      exact b.trans (readFailed_steady ..)
    · rename_i bs s2 h2
      rw [h2] at b
      exact steady_ite _ (b.trans (answerRead_steady ..))
        (steady_ite _ (steady_ite _ (b.trans (emit_steady ..)) (Steady.refl _)) (b.trans (emit_steady ..)))

unseal writeFrames in
theorem writeFrames_steady (s : State) (ch eid dst cls : Nat) (circ : Option Nat) (dfix ack high : Bool) (bs : List Byte) (n : Nat) :
    Steady s (writeFrames s ch eid dst cls circ dfix ack high bs n) := by
  induction n generalizing s dst bs with
  | zero => unfold writeFrames; exact Steady.refl s
  | succ n ih =>
    cases bs with
    | nil => unfold writeFrames; exact Steady.refl s
    | cons b bs =>
      unfold writeFrames
      refine Steady.trans ?_ (ih ..)
      split
      · exact (modChan_steady ..).trans (originate_steady ..)
      · exact (modChan_steady ..).trans (originateForager_steady ..)

theorem channelWrite_steady (s : State) (ch : Nat) (r : FRead) (bs : List Byte) : Steady s (channelWrite s ch r bs) := by
  unfold channelWrite
  try dsimp only
  repeat' first
      | with_reducible exact Steady.refl _ | (simp (disch := with_reducible rfl) only [↓steady_upd])
      | with_reducible apply steady_ite | with_reducible apply steady_when | with_reducible apply steady_foldl
      | with_reducible refine Steady.trans ?_ (writeFrames_steady ..)
      | with_reducible refine Steady.trans ?_ (spaceWrite_steady ..) | with_reducible apply steady_cond | intro _ | split
      | (grind [writeFrames_steady, spaceWrite_steady, Steady.trans, Steady.refl])

theorem chanData_steady (f : Frame) (s : State) : Steady s (chanData f s) := by
  unfold chanData
  try dsimp only
  repeat' first
      | with_reducible exact Steady.refl _ | (simp (disch := with_reducible rfl) only [↓steady_upd])
      | with_reducible apply steady_ite | with_reducible apply steady_when | with_reducible apply steady_foldl
      | with_reducible refine Steady.trans ?_ (takeLocal_steady ..)
      | with_reducible refine Steady.trans ?_ (modChan_steady ..)
      | with_reducible refine Steady.trans ?_ (channelWrite_steady ..) | with_reducible apply steady_cond | intro _
      | split | (grind [takeLocal_steady, modChan_steady, channelWrite_steady, Steady.trans, Steady.refl])

theorem event_steady (f : Frame) (s : State) : Steady s (event f s) := by
  unfold event
  try dsimp only
  repeat' first
      | with_reducible exact Steady.refl _ | (simp (disch := with_reducible rfl) only [↓steady_upd])
      | with_reducible apply steady_ite | with_reducible apply steady_when | with_reducible apply steady_foldl
      | with_reducible refine Steady.trans ?_ (takeLocal_steady _ _ _ _ (by assumption))
      | with_reducible refine Steady.trans ?_ (modQueen_steady ..) | with_reducible apply steady_cond | intro _ | split
      | (grind [takeLocal_steady, modQueen_steady, Steady.trans, Steady.refl])

theorem mbox_steady (f : Frame) (s : State) : Steady s (mbox f s) := by
  unfold mbox
  try dsimp only
  repeat' first
      | with_reducible exact Steady.refl _ | (simp (disch := with_reducible rfl) only [↓steady_upd])
      | with_reducible apply steady_ite | with_reducible apply steady_when | with_reducible apply steady_foldl
      | with_reducible refine Steady.trans ?_ (takeLocal_steady _ _ _ _ (by assumption))
      | with_reducible refine Steady.trans ?_ (sendMsg_steady ..)
      | with_reducible refine Steady.trans ?_ (acceptReq_steady ..) | with_reducible apply steady_cond | intro _ | split
      | (grind [takeLocal_steady, sendMsg_steady, acceptReq_steady, Steady.trans, Steady.refl])

theorem endForward_steady (s : State) (fw : Fwd) (st : Status) (detail : Nat) (resp : List Word) : Steady s (endForward s fw
  st detail resp) := by
  unfold endForward
  try dsimp only
  repeat' first
      | with_reducible exact Steady.refl _ | (simp (disch := with_reducible rfl) only [↓steady_upd])
      | with_reducible apply steady_ite | with_reducible apply steady_when | with_reducible apply steady_foldl
      | with_reducible refine Steady.trans ?_ (serveWaiting_steady ..)
      | with_reducible refine Steady.trans ?_ (respond_steady ..)
      | with_reducible refine Steady.trans ?_ (forward_steady ..) | with_reducible apply steady_cond | intro _ | split
      | (grind [serveWaiting_steady, respond_steady, forward_steady, Steady.trans, Steady.refl])

theorem mboxResponse_steady (f : Frame) (s : State) : Steady s (mboxResponse f s) := by
  unfold mboxResponse
  try dsimp only
  repeat' first
      | with_reducible exact Steady.refl _ | (simp (disch := with_reducible rfl) only [↓steady_upd])
      | with_reducible apply steady_ite | with_reducible apply steady_when | with_reducible apply steady_foldl
      | with_reducible refine Steady.trans ?_ (takeLocal_steady _ _ _ _ (by assumption))
      | with_reducible refine Steady.trans ?_ (endForward_steady ..) | with_reducible apply steady_cond | intro _ | split
      | (grind [takeLocal_steady, endForward_steady, Steady.trans, Steady.refl])

theorem forwardTimeout_steady (s : State) : Steady s (forwardTimeout s) := by
  unfold forwardTimeout
  try dsimp only
  repeat' first
      | with_reducible exact Steady.refl _ | (simp (disch := with_reducible rfl) only [↓steady_upd])
      | with_reducible apply steady_ite | with_reducible apply steady_when | with_reducible apply steady_foldl
      | with_reducible refine Steady.trans ?_ (endForward_steady ..) | with_reducible apply steady_cond | intro _ | split
      | (grind [endForward_steady, Steady.trans, Steady.refl])

end Sys2Proof.Machine
end

