-- ==== Sys2Proof/Laws/Steady/Steps.lean ====
section
/-! SUPPORT. `Steady` of the functions of Machine/Steps.lean. -/

set_option Elab.async false

namespace Sys2Proof.Machine

seal count modStep emit msix sendSets recomputeHealth originateMgmt hbmRead stepHbmDbe endStep commitStep endLaunch actPoison
  modCore safeEntry modQueen modChan raisePoison takeLocal chooseAlgorithms twinSend digestTimeout advanceQueen vote
  commitComplete loadCluster release launchComplete replayStart reloadResidents applyParams chargedPoison voteSend
  completionRecord passStepb startStep takeVote stepWatchdog twinCompare tokenRecord actRelease passCommitWait tryRelease
  restoreCluster twin done metaFix readFailed failStep tableRead engineFault byCircuit cmapRead routeContexts
  chooseAlgorithm clearLocators chargedStart lsWrite reloadRegion circuitsThere

theorem twinCompare_steady (s : State) : Steady s (twinCompare s) := by
  unfold twinCompare
  try dsimp only
  repeat' first
      | with_reducible exact Steady.refl _ | (simp (disch := with_reducible rfl) only [↓steady_upd])
      | with_reducible apply steady_ite | with_reducible apply steady_when | with_reducible apply steady_foldl
      | with_reducible refine Steady.trans ?_ (modStep_steady ..) | with_reducible refine Steady.trans ?_ (count_steady ..)
      | with_reducible refine Steady.trans ?_ (safeEntry_steady ..)
      | with_reducible refine Steady.trans ?_ (raisePoison_steady ..) | with_reducible apply steady_cond | intro _ | split
      | (grind [modStep_steady, count_steady, safeEntry_steady, raisePoison_steady, Steady.trans, Steady.refl])

theorem twinSend_steady (s : State) : Steady s (twinSend s) := by
  unfold twinSend
  try dsimp only
  repeat' first
      | with_reducible exact Steady.refl _ | (simp (disch := with_reducible rfl) only [↓steady_upd])
      | with_reducible apply steady_ite | with_reducible apply steady_when | with_reducible apply steady_foldl
      | with_reducible refine Steady.trans ?_ (twinCompare_steady ..)
      | with_reducible refine Steady.trans ?_ (originateMgmt_steady ..)
      | with_reducible refine Steady.trans ?_ (modStep_steady ..) | with_reducible apply steady_cond | intro _ | split
      | (grind [twinCompare_steady, originateMgmt_steady, modStep_steady, Steady.trans, Steady.refl])

theorem twin_steady (f : Frame) (s : State) : Steady s (twin f s) := by
  unfold twin
  try dsimp only
  repeat' first
      | with_reducible exact Steady.refl _ | (simp (disch := with_reducible rfl) only [↓steady_upd])
      | with_reducible apply steady_ite | with_reducible apply steady_when | with_reducible apply steady_foldl
      | with_reducible refine Steady.trans ?_ (takeLocal_steady _ _ _ _ (by assumption))
      | with_reducible refine Steady.trans ?_ (twinCompare_steady ..)
      | with_reducible refine Steady.trans ?_ (modStep_steady ..) | with_reducible apply steady_cond | intro _ | split
      | (grind [takeLocal_steady, twinCompare_steady, modStep_steady, Steady.trans, Steady.refl])

theorem digestTimeout_steady (s : State) : Steady s (digestTimeout s) := by
  unfold digestTimeout
  try dsimp only
  repeat' first
      | with_reducible exact Steady.refl _ | (simp (disch := with_reducible rfl) only [↓steady_upd])
      | with_reducible apply steady_ite | with_reducible apply steady_when | with_reducible apply steady_foldl
      | with_reducible refine Steady.trans ?_ (recomputeHealth_steady ..)
      | with_reducible refine Steady.trans ?_ (count_steady ..)
      | with_reducible refine Steady.trans ?_ (raisePoison_steady ..) | with_reducible apply steady_cond | intro _ | split
      | (grind [recomputeHealth_steady, count_steady, raisePoison_steady, Steady.trans, Steady.refl])

theorem actRelease_steady (s : State) (l : Launch) (outcome : Nat) (status : Nat) (safeClass : Bool) (cls : Nat) : Steady s
  (actRelease s l outcome status safeClass cls) := by
  unfold actRelease
  try dsimp only
  repeat' first
      | with_reducible exact Steady.refl _ | (simp (disch := with_reducible rfl) only [↓steady_upd])
      | with_reducible apply steady_ite | with_reducible apply steady_when | with_reducible apply steady_foldl
      | with_reducible refine Steady.trans ?_ (commitStep_steady ..)
      | with_reducible refine Steady.trans ?_ (endStep_steady ..)
      | with_reducible refine Steady.trans ?_ (safeEntry_steady ..) | with_reducible apply steady_cond | intro _ | split
      | (grind [commitStep_steady, endStep_steady, safeEntry_steady, Steady.trans, Steady.refl])

theorem tryRelease_steady (s : State) (l : Launch) (st : Step) : Steady s (tryRelease s l st) := by
  unfold tryRelease
  try dsimp only
  repeat' first
      | with_reducible exact Steady.refl _ | (simp (disch := with_reducible rfl) only [↓steady_upd])
      | with_reducible apply steady_ite | with_reducible apply steady_when | with_reducible apply steady_foldl
      | with_reducible refine Steady.trans ?_ (actRelease_steady ..)
      | with_reducible refine Steady.trans ?_ (originateMgmt_steady ..) | with_reducible apply steady_cond | intro _ | split
      | (grind [actRelease_steady, originateMgmt_steady, Steady.trans, Steady.refl])

theorem takeVote_steady (s : State) (l : Launch) (st : Step) (v : Vote) : Steady s (takeVote s l st v) := by
  unfold takeVote
  try dsimp only
  repeat' first
      | with_reducible exact Steady.refl _ | (simp (disch := with_reducible rfl) only [↓steady_upd])
      | with_reducible apply steady_ite | with_reducible apply steady_when | with_reducible apply steady_foldl
      | with_reducible refine Steady.trans ?_ (raisePoison_steady ..)
      | with_reducible refine Steady.trans ?_ (tryRelease_steady ..) | with_reducible apply steady_cond | intro _ | split
      | (grind [raisePoison_steady, tryRelease_steady, Steady.trans, Steady.refl])

theorem voteSend_steady (s : State) : Steady s (voteSend s) := by
  unfold voteSend
  try dsimp only
  repeat' first
      | with_reducible exact Steady.refl _ | (simp (disch := with_reducible rfl) only [↓steady_upd])
      | with_reducible apply steady_ite | with_reducible apply steady_when | with_reducible apply steady_foldl
      | with_reducible refine Steady.trans ?_ (modStep_steady ..)
      | with_reducible refine Steady.trans ?_ (takeVote_steady ..)
      | with_reducible refine Steady.trans ?_ (endStep_steady ..)
      | with_reducible refine Steady.trans ?_ (originateMgmt_steady ..) | with_reducible apply steady_cond | intro _ | split
      | (grind [modStep_steady, takeVote_steady, originateMgmt_steady, Steady.trans, Steady.refl])

theorem vote_steady (f : Frame) (s : State) : Steady s (vote f s) := by
  unfold vote
  try dsimp only
  repeat' first
      | with_reducible exact Steady.refl _ | (simp (disch := with_reducible rfl) only [↓steady_upd])
      | with_reducible apply steady_ite | with_reducible apply steady_when | with_reducible apply steady_foldl
      | with_reducible refine Steady.trans ?_ (takeLocal_steady _ _ _ _ (by assumption))
      | with_reducible refine Steady.trans ?_ (count_steady ..) | with_reducible refine Steady.trans ?_ (takeVote_steady ..)
      | with_reducible apply steady_cond | intro _ | split
      | (grind [takeLocal_steady, count_steady, takeVote_steady, Steady.trans, Steady.refl])

theorem release_steady (f : Frame) (s : State) : Steady s (release f s) := by
  unfold release
  try dsimp only
  repeat' first
      | with_reducible exact Steady.refl _ | (simp (disch := with_reducible rfl) only [↓steady_upd])
      | with_reducible apply steady_ite | with_reducible apply steady_when | with_reducible apply steady_foldl
      | with_reducible refine Steady.trans ?_ (takeLocal_steady _ _ _ _ (by assumption))
      | with_reducible refine Steady.trans ?_ (actRelease_steady ..)
      | with_reducible refine Steady.trans ?_ (count_steady ..) | with_reducible apply steady_cond | intro _ | split
      | (grind [takeLocal_steady, actRelease_steady, count_steady, Steady.trans, Steady.refl])

theorem advanceQueen_steady (s : State) (q : Nat) : Steady s (advanceQueen s q) := by
  unfold advanceQueen
  try dsimp only
  repeat' first
      | with_reducible exact Steady.refl _ | (simp (disch := with_reducible rfl) only [↓steady_upd])
      | with_reducible apply steady_ite | with_reducible apply steady_when | with_reducible apply steady_foldl
      | with_reducible refine Steady.trans ?_ (modQueen_steady ..) | with_reducible apply steady_cond | intro _ | split
      | (grind [modQueen_steady, Steady.trans, Steady.refl])

theorem passStepb_steady (s : State) (l : Launch) (q : Nat) : Steady s (passStepb s l q) := by
  unfold passStepb
  try dsimp only
  repeat' first
      | with_reducible exact Steady.refl _ | (simp (disch := with_reducible rfl) only [↓steady_upd])
      | with_reducible apply steady_ite | with_reducible apply steady_when | with_reducible apply steady_foldl
      | with_reducible refine Steady.trans ?_ (modCore_steady ..)
      | with_reducible refine Steady.trans ?_ (modQueen_steady ..)
      | with_reducible refine Steady.trans ?_ (advanceQueen_steady ..) | with_reducible apply steady_cond | intro _ | split
      | (grind [modCore_steady, modQueen_steady, advanceQueen_steady, Steady.trans, Steady.refl])

theorem passCommitWait_steady (s : State) (ch : Nat) : Steady s (passCommitWait s ch) := by
  unfold passCommitWait
  try dsimp only
  repeat' first
      | with_reducible exact Steady.refl _ | (simp (disch := with_reducible rfl) only [↓steady_upd])
      | with_reducible apply steady_ite | with_reducible apply steady_when | with_reducible apply steady_foldl
      | with_reducible refine Steady.trans ?_ (modChan_steady ..) | with_reducible apply steady_cond | intro _ | split
      | (grind [modChan_steady, Steady.trans, Steady.refl])

theorem applyParams_steady (s : State) (seq : Nat) : Steady s (applyParams s seq) := by
  unfold applyParams
  try dsimp only
  repeat' first
      | with_reducible exact Steady.refl _ | (simp (disch := with_reducible rfl) only [↓steady_upd])
      | with_reducible apply steady_ite | with_reducible apply steady_when | with_reducible apply steady_foldl
      | with_reducible apply steady_cond | intro _ | split | (grind [Steady.trans, Steady.refl])

unseal tableRead in
theorem tableRead_steady (s : State) (a : Nat) (n : Nat) (inStep : Bool) (bad : State → State) (hb : ∀ u, Steady u (bad u)) :
    Steady s (tableRead s a n inStep bad).2 := by
  unfold tableRead
  split
  · exact hb s
  · split
    · exact safeEntry_steady ..
    · have b := (metaFix_steady s a n).trans (hbmRead_steady (metaFix s a n) a n)
      split
      · rename_i h
        rw [h] at b
        exact b
      · rename_i h
        rw [h] at b
        exact b.trans (readFailed_steady ..)

theorem engineFault_steady (a : Nat) (s : State) : Steady s (engineFault a s) := by
  unfold engineFault
  try dsimp only
  repeat' first
      | with_reducible exact Steady.refl _ | (simp (disch := with_reducible rfl) only [↓steady_upd])
      | with_reducible apply steady_ite | with_reducible apply steady_when | with_reducible apply steady_foldl
      | with_reducible refine Steady.trans ?_ (failStep_steady ..) | with_reducible apply steady_cond | intro _ | split
      | (grind [failStep_steady, Steady.trans, Steady.refl])

unseal cmapRead in
theorem cmapRead_steady (s : State) (w : BitVec 320) (k : Nat) (inStep : Bool) : Steady s (cmapRead s w k inStep).2 := by
  unfold cmapRead
  refine tableRead_steady _ _ _ _ _ fun u => ?_
  split
  · exact engineFault_steady ..
  · exact Steady.refl u

unseal circuitsThere in
theorem circuitsThere_steady (w : BitVec 320) (inStep : Bool) (l : List Nat) (s : State) : Steady s (circuitsThere w inStep l s).2 := by
  induction l generalizing s with
  | nil => exact Steady.refl s
  | cons k r ih =>
    have b := cmapRead_steady s w k inStep
    unfold circuitsThere
    split
    · rename_i h
      rw [h] at b
      exact b
    · rename_i h
      rw [h] at b
      split
      · exact b.trans (ih _)
      · exact b

theorem routeContexts_steady (s : State) (g : Nat) (w : BitVec 320) (flat : Bool) (dest : Nat) : Steady s (routeContexts s g
  w flat dest) := by
  unfold routeContexts
  try dsimp only
  repeat' first
      | with_reducible exact Steady.refl _ | (simp (disch := with_reducible rfl) only [↓steady_upd])
      | with_reducible apply steady_ite | with_reducible apply steady_when | with_reducible apply steady_foldl
      | with_reducible apply steady_cond | intro _ | split | (grind [Steady.trans, Steady.refl])

theorem chooseAlgorithm_steady (replay : Bool) (inStep : Bool) (anew : Bool) (t : State) (e : Nat × BitVec 320) : Steady t
  (chooseAlgorithm replay inStep anew t e) := by
  unfold chooseAlgorithm
  try dsimp only
  repeat' first
      | with_reducible exact Steady.refl _ | (simp (disch := with_reducible rfl) only [↓steady_upd])
      | with_reducible apply steady_ite | with_reducible apply steady_when | with_reducible apply steady_foldl
      | with_reducible refine Steady.trans ?_ (circuitsThere_steady ..)
      | with_reducible refine Steady.trans ?_ (count_steady ..)
      | with_reducible refine Steady.trans ?_ (cmapRead_steady ..)
      | with_reducible refine Steady.trans ?_ (routeContexts_steady ..) | with_reducible apply steady_cond | intro _
      | split
      | (grind [circuitsThere_steady, count_steady, cmapRead_steady, routeContexts_steady, Steady.trans, Steady.refl])

theorem chooseAlgorithms_steady (s : State) (replay : Bool) : Steady s (chooseAlgorithms s replay) := by
  unfold chooseAlgorithms
  try dsimp only
  repeat' first
      | with_reducible exact Steady.refl _ | (simp (disch := with_reducible rfl) only [↓steady_upd])
      | with_reducible apply steady_ite | with_reducible apply steady_when | with_reducible apply steady_foldl
      | with_reducible refine Steady.trans ?_ (chooseAlgorithm_steady ..) | with_reducible apply steady_cond | intro _
      | split | (grind [chooseAlgorithm_steady, Steady.trans, Steady.refl])

theorem clearLocators_steady (s : State) : Steady s (clearLocators s) := by
  unfold clearLocators
  try dsimp only
  repeat' first
      | with_reducible exact Steady.refl _ | (simp (disch := with_reducible rfl) only [↓steady_upd])
      | with_reducible apply steady_ite | with_reducible apply steady_when | with_reducible apply steady_foldl
      | with_reducible apply steady_cond | intro _ | split | (grind [Steady.trans, Steady.refl])

theorem startStep_steady (s : State) (l : Launch) (seq : Nat) : Steady s (startStep s l seq) := by
  unfold startStep
  try dsimp only
  repeat' first
      | with_reducible exact Steady.refl _ | (simp (disch := with_reducible rfl) only [↓steady_upd])
      | with_reducible apply steady_ite | with_reducible apply steady_when | with_reducible apply steady_foldl
      | with_reducible refine Steady.trans ?_ (clearLocators_steady ..)
      | with_reducible refine Steady.trans ?_ (chooseAlgorithms_steady ..)
      | with_reducible refine Steady.trans ?_ (applyParams_steady ..) | with_reducible apply steady_cond | intro _ | split
      | (grind [clearLocators_steady, chooseAlgorithms_steady, applyParams_steady, Steady.trans, Steady.refl])

theorem chargedPoison_steady (s : State) : Steady s (chargedPoison s) := by
  unfold chargedPoison
  try dsimp only
  repeat' first
      | with_reducible exact Steady.refl _ | (simp (disch := with_reducible rfl) only [↓steady_upd])
      | with_reducible apply steady_ite | with_reducible apply steady_when | with_reducible apply steady_foldl
      | with_reducible refine Steady.trans ?_ (modStep_steady ..)
      | with_reducible refine Steady.trans ?_ (raisePoison_steady ..)
      | with_reducible refine Steady.trans ?_ (actPoison_steady ..)
      | with_reducible refine Steady.trans ?_ (sendSets_steady ..) | with_reducible apply steady_cond | intro _ | split
      | (grind [modStep_steady, raisePoison_steady, actPoison_steady, sendSets_steady, Steady.trans, Steady.refl])

theorem chargedStart_steady (s : State) : Steady s (chargedStart s) := by
  unfold chargedStart
  try dsimp only
  repeat' first
      | with_reducible exact Steady.refl _ | (simp (disch := with_reducible rfl) only [↓steady_upd])
      | with_reducible apply steady_ite | with_reducible apply steady_when | with_reducible apply steady_foldl
      | with_reducible refine Steady.trans ?_ (chargedPoison_steady ..)
      | with_reducible refine Steady.trans ?_ (failStep_steady ..) | with_reducible apply steady_cond | intro _ | split
      | (grind [chargedPoison_steady, failStep_steady, Steady.trans, Steady.refl])

theorem commitComplete_steady (s : State) : Steady s (commitComplete s) := by
  unfold commitComplete
  try dsimp only
  repeat' first
      | with_reducible exact Steady.refl _ | (simp (disch := with_reducible rfl) only [↓steady_upd])
      | with_reducible apply steady_ite | with_reducible apply steady_when | with_reducible apply steady_foldl
      | with_reducible refine Steady.trans ?_ (passStepb_steady ..)
      | with_reducible refine Steady.trans ?_ (passCommitWait_steady ..)
      | with_reducible refine Steady.trans ?_ (chargedStart_steady ..)
      | with_reducible refine Steady.trans ?_ (startStep_steady ..) | with_reducible apply steady_cond | intro _ | split
      | (grind [passStepb_steady, passCommitWait_steady, chargedStart_steady, startStep_steady, Steady.trans, Steady.refl])

theorem stepWatchdog_steady (s : State) : Steady s (stepWatchdog s) := by
  unfold stepWatchdog
  try dsimp only
  repeat' first
      | with_reducible exact Steady.refl _ | (simp (disch := with_reducible rfl) only [↓steady_upd])
      | with_reducible apply steady_ite | with_reducible apply steady_when | with_reducible apply steady_foldl
      | with_reducible refine Steady.trans ?_ (raisePoison_steady ..) | with_reducible apply steady_cond | intro _ | split
      | (grind [raisePoison_steady, Steady.trans, Steady.refl])

unseal reloadRegion in
theorem reloadRegion_steady (core : Nat) (t : State) (e : BitVec 192) : Steady t (reloadRegion core t e) := by
  unfold reloadRegion
  refine steady_ite _ (failStep_steady ..) (steady_ite _ (safeEntry_steady ..) ?_)
  have b := (metaFix_steady t ((fld e 64 64 + core * fld e 128 64) % 2 ^ 64) (fld e 24 24)).trans
    (hbmRead_steady (metaFix t ((fld e 64 64 + core * fld e 128 64) % 2 ^ 64) (fld e 24 24))
      ((fld e 64 64 + core * fld e 128 64) % 2 ^ 64) (fld e 24 24))
  split
  · rename_i h
    rw [h] at b
    exact b.trans (lsWrite_steady ..)
  · rename_i h
    rw [h] at b
    exact b.trans (stepHbmDbe_steady ..)

theorem reloadResidents_steady (s : State) (sl : Slot) (core : Nat) : Steady s (reloadResidents s sl core) := by
  unfold reloadResidents
  try dsimp only
  repeat' first
      | with_reducible exact Steady.refl _ | (simp (disch := with_reducible rfl) only [↓steady_upd])
      | with_reducible apply steady_ite | with_reducible apply steady_when | with_reducible apply steady_foldl
      | with_reducible refine Steady.trans ?_ (reloadRegion_steady ..) | with_reducible apply steady_cond | intro _
      | split | (grind [reloadRegion_steady, Steady.trans, Steady.refl])

theorem loadCluster_steady (s : State) (l : Launch) (q : Nat) : Steady s (loadCluster s l q) := by
  unfold loadCluster
  try dsimp only
  repeat' first
      | with_reducible exact Steady.refl _ | (simp (disch := with_reducible rfl) only [↓steady_upd])
      | with_reducible apply steady_ite | with_reducible apply steady_when | with_reducible apply steady_foldl
      | with_reducible refine Steady.trans ?_ (reloadResidents_steady ..) | with_reducible apply steady_cond | intro _
      | split | (grind [reloadResidents_steady, Steady.trans, Steady.refl])

theorem restoreCluster_steady (s : State) (q : Nat) : Steady s (restoreCluster s q) := by
  unfold restoreCluster
  try dsimp only
  repeat' first
      | with_reducible exact Steady.refl _ | (simp (disch := with_reducible rfl) only [↓steady_upd])
      | with_reducible apply steady_ite | with_reducible apply steady_when | with_reducible apply steady_foldl
      | with_reducible refine Steady.trans ?_ (modCore_steady ..)
      | with_reducible refine Steady.trans ?_ (modQueen_steady ..) | with_reducible apply steady_cond | intro _ | split
      | (grind [modCore_steady, modQueen_steady, Steady.trans, Steady.refl])

theorem replayStart_steady (s : State) : Steady s (replayStart s) := by
  unfold replayStart
  try dsimp only
  repeat' first
      | with_reducible exact Steady.refl _ | (simp (disch := with_reducible rfl) only [↓steady_upd])
      | with_reducible apply steady_ite | with_reducible apply steady_when | with_reducible apply steady_foldl
      | with_reducible refine Steady.trans ?_ (modStep_steady ..)
      | with_reducible refine Steady.trans ?_ (restoreCluster_steady ..)
      | with_reducible refine Steady.trans ?_ (loadCluster_steady ..)
      | with_reducible refine Steady.trans ?_ (modChan_steady ..)
      | with_reducible refine Steady.trans ?_ (chooseAlgorithms_steady ..) | with_reducible apply steady_cond | intro _
      | split
      | (grind [modStep_steady, restoreCluster_steady, loadCluster_steady, modChan_steady, chooseAlgorithms_steady, Steady.trans, Steady.refl])

theorem launchComplete_steady (s : State) : Steady s (launchComplete s) := by
  unfold launchComplete
  try dsimp only
  repeat' first
      | with_reducible exact Steady.refl _ | (simp (disch := with_reducible rfl) only [↓steady_upd])
      | with_reducible apply steady_ite | with_reducible apply steady_when | with_reducible apply steady_foldl
      | with_reducible refine Steady.trans ?_ (endLaunch_steady ..) | with_reducible apply steady_cond | intro _ | split
      | (grind [endLaunch_steady, Steady.trans, Steady.refl])

theorem tokenRecord_steady (s : State) : Steady s (tokenRecord s) := by
  unfold tokenRecord
  try dsimp only
  repeat' first
      | with_reducible exact Steady.refl _ | (simp (disch := with_reducible rfl) only [↓steady_upd])
      | with_reducible apply steady_ite | with_reducible apply steady_when | with_reducible apply steady_foldl
      | with_reducible refine Steady.trans ?_ (emit_steady ..) | with_reducible refine Steady.trans ?_ (msix_steady ..)
      | with_reducible apply steady_cond | intro _ | split | (grind [emit_steady, msix_steady, Steady.trans, Steady.refl])

theorem completionRecord_steady (s : State) : Steady s (completionRecord s) := by
  unfold completionRecord
  try dsimp only
  repeat' first
      | with_reducible exact Steady.refl _ | (simp (disch := with_reducible rfl) only [↓steady_upd])
      | with_reducible apply steady_ite | with_reducible apply steady_when | with_reducible apply steady_foldl
      | with_reducible refine Steady.trans ?_ (emit_steady ..) | with_reducible refine Steady.trans ?_ (msix_steady ..)
      | with_reducible apply steady_cond | intro _ | split | (grind [emit_steady, msix_steady, Steady.trans, Steady.refl])

end Sys2Proof.Machine
end

