-- ==== Sys2Proof/Laws/Steady/Switch.lean ====
section
/-! SUPPORT. `Steady` of the functions of Machine/Switch.lean. -/

set_option Elab.async false

namespace Sys2Proof.Machine

seal settleLeaves countDiscard count countN emit takeBuf releaseCells sendPause updatePause charge freeBufHandle doubleFree
  freeChunks modChan raisePoison meter decRef discard mirror circuitGone pauseWord arbLoop frameAged dropPieces queueSample
  calendarWrap calendarSlotStart takeCells calendarStart admitAt epochDrainEnd pauseWordRepeat epochSwap takeIn
  statsBoundary pauseExpired dropIds poolWaitExpired stageQueue deliver takeOrig enqueue dropChunk toUnit popList startCopy
  poolWaiterGrant frameSent egressArbitration frameIngress portDown deliverDirect releaseFrame combRead dropReader
  releaseReaders leftUnit countCorrected modPort badFrame done slotStart sentRef returnBuf settleFree dropSender forward
  endForward takeSnapshot

theorem deliver_steady (s : State) (f : Frame) : Steady s (deliver s f) := by
  unfold deliver
  try dsimp only
  repeat' first
      | with_reducible exact Steady.refl _ | (simp (disch := with_reducible rfl) only [↓steady_upd])
      | with_reducible apply steady_ite | with_reducible apply steady_when | with_reducible apply steady_foldl
      | with_reducible apply steady_cond | intro _ | split | (grind [Steady.trans, Steady.refl])

theorem toUnit_steady (s : State) (u : Nat) (f : Frame) : Steady s (toUnit s u f) := by
  unfold toUnit
  try dsimp only
  repeat' first
      | with_reducible exact Steady.refl _ | (simp (disch := with_reducible rfl) only [↓steady_upd])
      | with_reducible apply steady_ite | with_reducible apply steady_when | with_reducible apply steady_foldl
      | with_reducible refine Steady.trans ?_ (count_steady ..) | with_reducible apply steady_cond | intro _ | split
      | (grind [count_steady, Steady.trans, Steady.refl])

theorem admitAt_steady (s : State) (cf : CFrame) (hostAcc : Bool) (t : Target) : Steady s (admitAt s cf hostAcc t).1 := by
  unfold admitAt
  try dsimp only
  repeat' first
      | with_reducible exact Steady.refl _ | (simp (disch := with_reducible rfl) only [↓steady_upd])
      | with_reducible apply steady_ite | with_reducible apply steady_when | with_reducible apply steady_foldl
      | with_reducible refine Steady.trans ?_ (discard_steady ..)
      | with_reducible refine Steady.trans ?_ (count_steady ..)
      | with_reducible refine Steady.trans ?_ (portDown_steady ..)
      | with_reducible refine Steady.trans ?_ (mirror_steady ..) | with_reducible apply steady_cond | intro _ | split
      | (grind [discard_steady, count_steady, portDown_steady, mirror_steady, Steady.trans, Steady.refl])

theorem deliverDirect_steady (s : State) (cf : CFrame) : Steady s (deliverDirect s cf) := by
  unfold deliverDirect
  try dsimp only
  repeat' first
      | with_reducible exact Steady.refl _ | (simp (disch := with_reducible rfl) only [↓steady_upd])
      | with_reducible apply steady_ite | with_reducible apply steady_when | with_reducible apply steady_foldl
      | with_reducible refine Steady.trans ?_ (countN_steady ..)
      | with_reducible refine Steady.trans ?_ (discard_steady ..)
      | with_reducible refine Steady.trans ?_ (countDiscard_steady ..)
      | with_reducible refine Steady.trans ?_ (count_steady ..)
      | with_reducible refine Steady.trans ?_ (deliver_steady ..) | with_reducible apply steady_cond | intro _ | split
      | (grind [countN_steady, discard_steady, countDiscard_steady, count_steady, deliver_steady, Steady.trans, Steady.refl])

unseal enqueue in
theorem enqueue_steady (s : State) (cf : CFrame) (hostAcc : Bool) (ts : List Target) : Steady s (enqueue s cf hostAcc ts) := by
  unfold enqueue
  dsimp only
  refine steady_ite _ (Steady.trans ?_ (releaseFrame_steady ..)) ?_
  all_goals
    repeat' first
      | with_reducible apply steady_ite | with_reducible refine Steady.trans ?_ (deliverDirect_steady ..)
      | with_reducible apply steady_foldl_fst | (simp (disch := with_reducible rfl) only [↓steady_upd])
      | with_reducible exact Steady.refl _ | exact admitAt_steady .. | intro _

unseal takeCells in
theorem takeCells_steady (s : State) (owner : Nat) (cls : Nat) (n : Nat) : (∀ x0, (takeCells s owner cls n) = some x0 →
  Steady s x0) := by
  unfold takeCells
  intros; rename_i hx
  split at hx
  · cases hx; exact charge_steady ..
  · split at hx
    · cases hx; simp (disch := with_reducible rfl) only [steady_upd]; exact Steady.refl _
    · cases hx

theorem takeIn_steady (s : State) (input : Nat) (owner : Nat) (wire : Bool) (toOut : Option Nat) (f : Frame) (marks : List
  (Nat × Bool)) (stomp : Bool) : Steady s (takeIn s input owner wire toOut f marks stomp) := by
  unfold takeIn
  try dsimp only
  repeat' first
      | with_reducible exact Steady.refl _ | (simp (disch := with_reducible rfl) only [↓steady_upd])
      | with_reducible apply steady_ite | with_reducible apply steady_when | with_reducible apply steady_foldl
      | with_reducible refine Steady.trans ?_ (discard_steady ..)
      | with_reducible refine Steady.trans ?_ (combRead_steady ..)
      | with_reducible refine Steady.trans ?_ (meter_steady ..)
      | with_reducible refine Steady.trans ?_ (takeCells_steady ..)
      | with_reducible refine Steady.trans ?_ (releaseCells_steady ..)
      | with_reducible refine Steady.trans ?_ (enqueue_steady ..)
      | with_reducible refine Steady.trans ?_ (updatePause_steady ..)
      | (rename_i hx; refine Steady.trans ?_ (takeCells_steady _ _ _ _ _ hx)) | with_reducible apply steady_cond | intro _
      | split
      | (grind [discard_steady, combRead_steady, meter_steady, takeCells_steady, releaseCells_steady, enqueue_steady, updatePause_steady, Steady.trans, Steady.refl])

theorem leftUnit_steady (s : State) (owner : Nat) (f : Frame) : Steady s (leftUnit s owner f) := by
  unfold leftUnit
  try dsimp only
  repeat' first
      | with_reducible exact Steady.refl _ | (simp (disch := with_reducible rfl) only [↓steady_upd])
      | with_reducible apply steady_ite | with_reducible apply steady_when | with_reducible apply steady_foldl
      | with_reducible refine Steady.trans ?_ (dropReader_steady ..)
      | with_reducible refine Steady.trans ?_ (releaseReaders_steady ..) | with_reducible apply steady_cond | intro _
      | split | (grind [dropReader_steady, releaseReaders_steady, Steady.trans, Steady.refl])

theorem takeOrig_steady (s : State) (o : Orig) : Steady s (takeOrig s o) := by
  unfold takeOrig
  try dsimp only
  repeat' first
      | with_reducible exact Steady.refl _ | (simp (disch := with_reducible rfl) only [↓steady_upd])
      | with_reducible apply steady_ite | with_reducible apply steady_when | with_reducible apply steady_foldl
      | with_reducible refine Steady.trans ?_ (takeIn_steady ..)
      | with_reducible refine Steady.trans ?_ (leftUnit_steady ..) | with_reducible apply steady_cond | intro _ | split
      | (grind [takeIn_steady, leftUnit_steady, Steady.trans, Steady.refl])

theorem countCorrected_steady (s : State) (p : Nat) (a : Arrival) : Steady s (countCorrected s p a) := by
  unfold countCorrected
  try dsimp only
  repeat' first
      | with_reducible exact Steady.refl _ | (simp (disch := with_reducible rfl) only [↓steady_upd])
      | with_reducible apply steady_ite | with_reducible apply steady_when | with_reducible apply steady_foldl
      | with_reducible refine Steady.trans ?_ (countN_steady ..) | with_reducible apply steady_cond | intro _ | split
      | (grind [countN_steady, Steady.trans, Steady.refl])

theorem badFrame_steady (s : State) (p : Nat) (a : Arrival) : Steady s (badFrame s p a) := by
  unfold badFrame
  try dsimp only
  repeat' first
      | with_reducible exact Steady.refl _ | (simp (disch := with_reducible rfl) only [↓steady_upd])
      | with_reducible apply steady_ite | with_reducible apply steady_when | with_reducible apply steady_foldl
      | with_reducible refine Steady.trans ?_ (count_steady ..) | with_reducible refine Steady.trans ?_ (takeIn_steady ..)
      | with_reducible refine Steady.trans ?_ (countDiscard_steady ..)
      | with_reducible refine Steady.trans ?_ (discard_steady ..) | with_reducible apply steady_cond | intro _ | split
      | (grind [count_steady, takeIn_steady, countDiscard_steady, discard_steady, Steady.trans, Steady.refl])

theorem frameIngress_steady (i : Ingress) (s : State) : Steady s (frameIngress i s) := by
  unfold frameIngress
  try dsimp only
  repeat' first
      | with_reducible exact Steady.refl _ | (simp (disch := with_reducible rfl) only [↓steady_upd])
      | with_reducible apply steady_ite | with_reducible apply steady_when | with_reducible apply steady_foldl
      | with_reducible refine Steady.trans ?_ (discard_steady ..)
      | with_reducible refine Steady.trans ?_ (countCorrected_steady ..)
      | with_reducible refine Steady.trans ?_ (modPort_steady ..)
      | with_reducible refine Steady.trans ?_ (badFrame_steady ..)
      | with_reducible refine Steady.trans ?_ (takeIn_steady ..)
      | with_reducible refine Steady.trans ?_ (takeOrig_steady ..) | with_reducible apply steady_cond | intro _ | split
      | (grind [discard_steady, countCorrected_steady, modPort_steady, badFrame_steady, takeIn_steady, takeOrig_steady, Steady.trans, Steady.refl])

theorem startCopy_steady (s : State) (o : Nat) (id : Nat) (circuit : Option Nat) : Steady s (startCopy s o id circuit) := by
  unfold startCopy
  try dsimp only
  repeat' first
      | with_reducible exact Steady.refl _ | (simp (disch := with_reducible rfl) only [↓steady_upd])
      | with_reducible apply steady_ite | with_reducible apply steady_when | with_reducible apply steady_foldl
      | with_reducible refine Steady.trans ?_ (doubleFree_steady ..)
      | with_reducible refine Steady.trans ?_ (combRead_steady ..)
      | with_reducible refine Steady.trans ?_ (countN_steady ..)
      | with_reducible refine Steady.trans ?_ (decRef_steady ..)
      | with_reducible refine Steady.trans ?_ (discard_steady ..)
      | with_reducible refine Steady.trans ?_ (mirror_steady ..) | with_reducible apply steady_cond | intro _ | split
      | (grind [doubleFree_steady, combRead_steady, countN_steady, decRef_steady, discard_steady, mirror_steady, Steady.trans, Steady.refl])

theorem stageQueue_steady (s : State) (i : Nat) (o : Nat) (q : Nat) : Steady s (stageQueue s i o q) := by
  unfold stageQueue
  try dsimp only
  repeat' first
      | with_reducible exact Steady.refl _ | (simp (disch := with_reducible rfl) only [↓steady_upd])
      | with_reducible apply steady_ite | with_reducible apply steady_when | with_reducible apply steady_foldl
      | with_reducible refine Steady.trans ?_ (startCopy_steady ..) | with_reducible apply steady_cond | intro _ | split
      | (grind [startCopy_steady, Steady.trans, Steady.refl])

theorem slotStart_steady (s : State) (o : Nat) (slot : Nat) : Steady s (slotStart s o slot) := by
  unfold slotStart
  try dsimp only
  repeat' first
      | with_reducible exact Steady.refl _ | (simp (disch := with_reducible rfl) only [↓steady_upd])
      | with_reducible apply steady_ite | with_reducible apply steady_when | with_reducible apply steady_foldl
      | with_reducible refine Steady.trans ?_ (count_steady ..)
      | with_reducible refine Steady.trans ?_ (startCopy_steady ..) | with_reducible apply steady_cond | intro _ | split
      | (grind [count_steady, startCopy_steady, Steady.trans, Steady.refl])

theorem calendarStart_steady (s : State) (o : Nat) : Steady s (calendarStart s o) := by
  unfold calendarStart
  try dsimp only
  repeat' first
      | with_reducible exact Steady.refl _ | (simp (disch := with_reducible rfl) only [↓steady_upd])
      | with_reducible apply steady_ite | with_reducible apply steady_when | with_reducible apply steady_foldl
      | with_reducible refine Steady.trans ?_ (slotStart_steady ..) | with_reducible apply steady_cond | intro _ | split
      | (grind [slotStart_steady, Steady.trans, Steady.refl])

unseal arbLoop in
theorem arbLoop_steady (s : State) (lists : List (Nat × Nat × Nat)) (it : Nat) (outs : List Nat) (ins : List Nat) (a : Nat) :
  Steady s (arbLoop s lists it outs ins a) := by
  induction a generalizing s it outs ins with
  | zero => unfold arbLoop; exact Steady.refl s
  | succ n ih =>
    unfold arbLoop
    refine Steady.trans ?_ (ih ..)
    refine steady_foldl _ _ _ (Steady.refl s) ?_
    intro u e
    dsimp only
    refine steady_ite _ ?_ (stageQueue_steady ..)
    simp (disch := with_reducible rfl) only [steady_upd]
    exact stageQueue_steady ..

theorem egressArbitration_steady (s : State) : Steady s (egressArbitration s) := by
  unfold egressArbitration
  try dsimp only
  repeat' first
      | with_reducible exact Steady.refl _ | (simp (disch := with_reducible rfl) only [↓steady_upd])
      | with_reducible apply steady_ite | with_reducible apply steady_when | with_reducible apply steady_foldl
      | with_reducible refine Steady.trans ?_ (calendarStart_steady ..)
      | with_reducible refine Steady.trans ?_ (arbLoop_steady ..) | with_reducible apply steady_cond | intro _ | split
      | (grind [calendarStart_steady, arbLoop_steady, Steady.trans, Steady.refl])

theorem calendarSlotStart_steady (o : Nat) (s : State) : Steady s (calendarSlotStart o s) := by
  unfold calendarSlotStart
  try dsimp only
  repeat' first
      | with_reducible exact Steady.refl _ | (simp (disch := with_reducible rfl) only [↓steady_upd])
      | with_reducible apply steady_ite | with_reducible apply steady_when | with_reducible apply steady_foldl
      | with_reducible refine Steady.trans ?_ (calendarStart_steady ..) | with_reducible apply steady_cond | intro _ | split
      | (grind [calendarStart_steady, Steady.trans, Steady.refl])

unseal sentRef in
theorem sentRef_steady (s : State) (l : Option Leaf) (id o : Nat) : Steady s (sentRef s l id o) := by
  cases l with
  | none => exact decRef_steady ..
  | some l => unfold sentRef; simp (disch := with_reducible rfl) only [↓steady_upd]; exact Steady.refl _

theorem frameSent_steady (o : Nat) (late : Bool) (s : State) : Steady s (frameSent o late s) := by
  unfold frameSent
  try dsimp only
  repeat' first
      | with_reducible exact Steady.refl _ | (simp (disch := with_reducible rfl) only [↓steady_upd])
      | with_reducible apply steady_ite | with_reducible apply steady_when | with_reducible apply steady_foldl
      | with_reducible refine Steady.trans ?_ (doubleFree_steady ..)
      | with_reducible refine Steady.trans ?_ (combRead_steady ..)
      | with_reducible refine Steady.trans ?_ (count_steady ..) | with_reducible refine Steady.trans ?_ (emit_steady ..)
      | with_reducible refine Steady.trans ?_ (countDiscard_steady ..)
      | with_reducible refine Steady.trans ?_ (toUnit_steady ..)
      | with_reducible refine Steady.trans ?_ (deliver_steady ..)
      | with_reducible refine Steady.trans ?_ (sentRef_steady ..) | with_reducible apply steady_cond | intro _ | split
      | (grind [doubleFree_steady, combRead_steady, count_steady, emit_steady, countDiscard_steady, toUnit_steady, deliver_steady, sentRef_steady, Steady.trans, Steady.refl])

theorem cutCopy_steady (s : State) (o : Nat) (t : Nat) : Steady s (cutCopy s o t) := by
  unfold cutCopy
  try dsimp only
  repeat' first
      | with_reducible exact Steady.refl _ | (simp (disch := with_reducible rfl) only [↓steady_upd])
      | with_reducible apply steady_ite | with_reducible apply steady_when | with_reducible apply steady_foldl
      | with_reducible refine Steady.trans ?_ (decRef_steady ..) | with_reducible apply steady_cond | intro _ | split
      | (grind [decRef_steady, Steady.trans, Steady.refl])

theorem restartCopies_steady (s : State) (o : Nat) : Steady s (restartCopies s o) := by
  unfold restartCopies
  try dsimp only
  repeat' first
      | with_reducible exact Steady.refl _ | (simp (disch := with_reducible rfl) only [↓steady_upd])
      | with_reducible apply steady_ite | with_reducible apply steady_when | with_reducible apply steady_foldl
      | with_reducible apply steady_cond | intro _ | split | (grind [Steady.trans, Steady.refl])

unseal popList in
theorem popList_steady (s : State) (k : ListKey) : (∀ x00 x01 x02, (popList s k) = some (x00, x01, x02) → Steady s x02) := by
  unfold popList
  intros; rename_i hx
  split at hx <;> dsimp only at hx <;> split at hx <;> cases hx <;> simp (disch := with_reducible rfl) only [steady_upd] <;> exact Steady.refl _

theorem frameAged_steady (k : ListKey) (s : State) : Steady s (frameAged k s) := by
  unfold frameAged
  try dsimp only
  repeat' first
      | with_reducible exact Steady.refl _ | (simp (disch := with_reducible rfl) only [↓steady_upd])
      | with_reducible apply steady_ite | with_reducible apply steady_when | with_reducible apply steady_foldl
      | with_reducible refine Steady.trans ?_ (popList_steady ..)
      | with_reducible refine Steady.trans ?_ (doubleFree_steady ..)
      | with_reducible refine Steady.trans ?_ (combRead_steady ..)
      | with_reducible refine Steady.trans ?_ (decRef_steady ..)
      | with_reducible refine Steady.trans ?_ (discard_steady ..) | with_reducible apply steady_cond | intro _ | split
      | (grind [popList_steady, doubleFree_steady, combRead_steady, decRef_steady, discard_steady, Steady.trans, Steady.refl])

theorem pauseWord_steady (o : Nat) (w : Word) (s : State) : Steady s (pauseWord o w s) := by
  unfold pauseWord
  try dsimp only
  repeat' first
      | with_reducible exact Steady.refl _ | (simp (disch := with_reducible rfl) only [↓steady_upd])
      | with_reducible apply steady_ite | with_reducible apply steady_when | with_reducible apply steady_foldl
      | with_reducible apply steady_cond | intro _ | split | (grind [Steady.trans, Steady.refl])

theorem pauseWordRepeat_steady (p : Nat) (s : State) : Steady s (pauseWordRepeat p s) := by
  unfold pauseWordRepeat
  try dsimp only
  repeat' first
      | with_reducible exact Steady.refl _ | (simp (disch := with_reducible rfl) only [↓steady_upd])
      | with_reducible apply steady_ite | with_reducible apply steady_when | with_reducible apply steady_foldl
      | with_reducible refine Steady.trans ?_ (sendPause_steady ..) | with_reducible apply steady_cond | intro _ | split
      | (grind [sendPause_steady, Steady.trans, Steady.refl])

unseal pauseExpired in
theorem pauseExpired_steady (o : Nat) (c : Nat) (s : State) : Steady s (pauseExpired o c s) := by
  unfold pauseExpired
  dsimp only
  refine steady_when _ (Steady.refl s) (Steady.trans ?_ (count_steady _ _ _))
  (simp (disch := with_reducible rfl) only [steady_upd]; exact Steady.refl _)

theorem poolWaiterGrant_steady (pool : Nat) (s : State) : Steady s (poolWaiterGrant pool s) := by
  unfold poolWaiterGrant
  try dsimp only
  repeat' first
      | with_reducible exact Steady.refl _ | (simp (disch := with_reducible rfl) only [↓steady_upd])
      | with_reducible apply steady_ite | with_reducible apply steady_when | with_reducible apply steady_foldl
      | with_reducible refine Steady.trans ?_ (takeOrig_steady ..)
      | with_reducible refine Steady.trans ?_ (combRead_steady ..)
      | with_reducible refine Steady.trans ?_ (takeBuf_steady ..)
      | (rename_i hx; refine Steady.trans ?_ (takeBuf_steady _ _ _ _ _ hx)) | with_reducible apply steady_cond | intro _
      | split | (grind [takeOrig_steady, combRead_steady, takeBuf_steady, Steady.trans, Steady.refl])

theorem dropChunk_steady (s : State) (c : Nat) (q : Nat) (k : Nat) : Steady s (dropChunk s c q k) := by
  unfold dropChunk
  try dsimp only
  repeat' first
      | with_reducible exact Steady.refl _ | (simp (disch := with_reducible rfl) only [↓steady_upd])
      | with_reducible apply steady_ite | with_reducible apply steady_when | with_reducible apply steady_foldl
      | with_reducible refine Steady.trans ?_ (returnBuf_steady ..) | with_reducible apply steady_cond | intro _ | split
      | (grind [returnBuf_steady, Steady.trans, Steady.refl])

theorem dropPieces_steady (s : State) (c : Nat) (q : Nat) (k : Nat) : Steady s (dropPieces s c q k) := by
  unfold dropPieces
  try dsimp only
  repeat' first
      | with_reducible exact Steady.refl _ | (simp (disch := with_reducible rfl) only [↓steady_upd])
      | with_reducible apply steady_ite | with_reducible apply steady_when | with_reducible apply steady_foldl
      | with_reducible refine Steady.trans ?_ (settleFree_steady ..) | with_reducible apply steady_cond | intro _ | split
      | (grind [settleFree_steady, Steady.trans, Steady.refl])

theorem dropSender_steady (s : State) (owner : Nat) (o : Option Orig) : Steady s (dropSender s owner o) := by
  unfold dropSender
  try dsimp only
  repeat' first
      | with_reducible exact Steady.refl _ | (simp (disch := with_reducible rfl) only [↓steady_upd])
      | with_reducible apply steady_ite | with_reducible apply steady_when | with_reducible apply steady_foldl
      | with_reducible refine Steady.trans ?_ (dropChunk_steady ..) | with_reducible apply steady_cond | intro _ | split
      | (grind [dropChunk_steady, Steady.trans, Steady.refl])

theorem poolWaitExpired_steady (pool : Nat) (s : State) : Steady s (poolWaitExpired pool s) := by
  unfold poolWaitExpired
  try dsimp only
  repeat' first
      | with_reducible exact Steady.refl _ | (simp (disch := with_reducible rfl) only [↓steady_upd])
      | with_reducible apply steady_ite | with_reducible apply steady_when | with_reducible apply steady_foldl
      | with_reducible refine Steady.trans ?_ (raisePoison_steady ..)
      | with_reducible refine Steady.trans ?_ (dropPieces_steady ..)
      | with_reducible refine Steady.trans ?_ (dropChunk_steady ..)
      | with_reducible refine Steady.trans ?_ (dropSender_steady ..)
      | with_reducible refine Steady.trans ?_ (modChan_steady ..)
      | with_reducible refine Steady.trans ?_ (forward_steady ..)
      | with_reducible refine Steady.trans ?_ (endForward_steady ..) | with_reducible apply steady_cond | intro _ | split
      | (grind [raisePoison_steady, dropPieces_steady, dropChunk_steady, dropSender_steady, modChan_steady, forward_steady, endForward_steady, Steady.trans, Steady.refl])

theorem dropIds_steady (s : State) (o : Nat) (c : Cause) (depth : Nat) (ids : List Nat) : Steady s (dropIds s o c depth ids)
  := by
  unfold dropIds
  try dsimp only
  repeat' first
      | with_reducible exact Steady.refl _ | (simp (disch := with_reducible rfl) only [↓steady_upd])
      | with_reducible apply steady_ite | with_reducible apply steady_when | with_reducible apply steady_foldl
      | with_reducible refine Steady.trans ?_ (combRead_steady ..)
      | with_reducible refine Steady.trans ?_ (decRef_steady ..)
      | with_reducible refine Steady.trans ?_ (discard_steady ..)
      | with_reducible refine Steady.trans ?_ (doubleFree_steady ..) | with_reducible apply steady_cond | intro _ | split
      | (grind [combRead_steady, decRef_steady, discard_steady, doubleFree_steady, Steady.trans, Steady.refl])

theorem circuitGone_steady (s : State) (id : Nat) : Steady s (circuitGone s id) := by
  unfold circuitGone
  try dsimp only
  repeat' first
      | with_reducible exact Steady.refl _ | (simp (disch := with_reducible rfl) only [↓steady_upd])
      | with_reducible apply steady_ite | with_reducible apply steady_when | with_reducible apply steady_foldl
      | with_reducible refine Steady.trans ?_ (dropIds_steady ..) | with_reducible apply steady_cond | intro _ | split
      | (grind [dropIds_steady, Steady.trans, Steady.refl])

theorem calendarWrap_steady (s : State) : Steady s (calendarWrap s) := by
  unfold calendarWrap
  try dsimp only
  repeat' first
      | with_reducible exact Steady.refl _ | (simp (disch := with_reducible rfl) only [↓steady_upd])
      | with_reducible apply steady_ite | with_reducible apply steady_when | with_reducible apply steady_foldl
      | with_reducible refine Steady.trans ?_ (circuitGone_steady ..) | with_reducible apply steady_cond | intro _ | split
      | (grind [circuitGone_steady, Steady.trans, Steady.refl])

theorem queueSample_steady (s : State) : Steady s (queueSample s) := by
  unfold queueSample
  try dsimp only
  repeat' first
      | with_reducible exact Steady.refl _ | (simp (disch := with_reducible rfl) only [↓steady_upd])
      | with_reducible apply steady_ite | with_reducible apply steady_when | with_reducible apply steady_foldl
      | with_reducible apply steady_cond | intro _ | split | (grind [Steady.trans, Steady.refl])

theorem takeSnapshot_steady (s : State) (now : Nat) (step : Bool) : Steady s (takeSnapshot s now step) := by
  unfold takeSnapshot
  try dsimp only
  repeat' first
      | with_reducible exact Steady.refl _ | (simp (disch := with_reducible rfl) only [↓steady_upd])
      | with_reducible apply steady_ite | with_reducible apply steady_when | with_reducible apply steady_foldl
      | with_reducible apply steady_cond | intro _ | split | (grind [Steady.trans, Steady.refl])

theorem statsBoundary_steady (s : State) : Steady s (statsBoundary s) := by
  unfold statsBoundary
  try dsimp only
  repeat' first
      | with_reducible exact Steady.refl _ | (simp (disch := with_reducible rfl) only [↓steady_upd])
      | with_reducible apply steady_ite | with_reducible apply steady_when | with_reducible apply steady_foldl
      | with_reducible refine Steady.trans ?_ (takeSnapshot_steady ..) | with_reducible apply steady_cond | intro _
      | split | (grind [takeSnapshot_steady, Steady.trans, Steady.refl])

theorem epochSwap_steady (s : State) : Steady s (epochSwap s) := by
  unfold epochSwap
  try dsimp only
  repeat' first
      | with_reducible exact Steady.refl _ | (simp (disch := with_reducible rfl) only [↓steady_upd])
      | with_reducible apply steady_ite | with_reducible apply steady_when | with_reducible apply steady_foldl
      | with_reducible apply steady_cond | intro _ | split | (grind [Steady.trans, Steady.refl])

theorem epochDrainEnd_steady (s : State) : Steady s (epochDrainEnd s) := by
  unfold epochDrainEnd
  try dsimp only
  repeat' first
      | with_reducible exact Steady.refl _ | (simp (disch := with_reducible rfl) only [↓steady_upd])
      | with_reducible apply steady_ite | with_reducible apply steady_when | with_reducible apply steady_foldl
      | with_reducible apply steady_cond | intro _ | split | (grind [Steady.trans, Steady.refl])

end Sys2Proof.Machine
end

