-- ==== Sys2Proof/Laws/Steady/Operands.lean ====
section
/-! SUPPORT. `Steady` of the functions of Machine/Operands.lean. -/

set_option Elab.async false

namespace Sys2Proof.Machine

seal lsWrite lsRead csRead modCore putStream coreRead coreWrite putCx putV lsCoreWrite countN

theorem readsMet_steady (s : State) (met : Option Met) : Steady s (readsMet s met) := by
  unfold readsMet
  try dsimp only
  repeat' first
      | with_reducible exact Steady.refl _ | (simp (disch := with_reducible rfl) only [↓steady_upd])
      | with_reducible apply steady_ite | with_reducible apply steady_when | with_reducible apply steady_foldl
      | with_reducible refine Steady.trans ?_ (countN_steady ..) | with_reducible apply steady_cond | intro _ | split
      | (grind [countN_steady, Steady.trans, Steady.refl])

theorem coreRead_steady (s : State) (i : Issue) (key : Nat) (space : Nat) (a : Nat) (n : Nat) : (∀ x00 x01, (coreRead s i key
  space a n) = .ok (x00, x01) → Steady s x01) := by
  unfold coreRead
  first
  | (grind [lsRead_steady, csRead_steady, Steady.trans, Steady.refl])
  | (intros; rename_i hx; (try dsimp only at hx); (repeat' split at hx) <;> first | contradiction | (cases hx; done) | (cases hx; (repeat' first | with_reducible exact Steady.refl _ | (simp (disch := with_reducible rfl) only [↓steady_upd]) | with_reducible apply steady_ite | with_reducible apply steady_when | with_reducible apply steady_foldl | with_reducible refine Steady.trans ?_ (lsRead_steady ..) | with_reducible refine Steady.trans ?_ (csRead_steady ..) | with_reducible apply steady_cond | intro _ | split | (grind [lsRead_steady, csRead_steady, Steady.trans, Steady.refl])); done))

unseal coreWrite in
theorem coreWrite_steady (s : State) (i : Issue) (key : Nat) (space : Nat) (a : Nat) (bs : List Byte) : (∀ x0, (coreWrite s i
  key space a bs) = .ok x0 → Steady s x0) := by
  unfold coreWrite
  intro x hx
  split at hx <;> cases hx
  exact lsCoreWrite_steady ..

theorem putStream_steady (s : State) (key : Nat) (n : Nat) (d : SDesc) : Steady s (putStream s key n d) := by
  unfold putStream
  try dsimp only
  repeat' first
      | with_reducible exact Steady.refl _ | (simp (disch := with_reducible rfl) only [↓steady_upd])
      | with_reducible apply steady_ite | with_reducible apply steady_when | with_reducible apply steady_foldl
      | with_reducible refine Steady.trans ?_ (modCore_steady ..) | with_reducible apply steady_cond | intro _ | split
      | (grind [modCore_steady, Steady.trans, Steady.refl])

theorem putV_steady (s : State) (key : Nat) (n : Nat) (v : BitVec 2048) : Steady s (putV s key n v) := by
  unfold putV
  try dsimp only
  repeat' first
      | with_reducible exact Steady.refl _ | (simp (disch := with_reducible rfl) only [↓steady_upd])
      | with_reducible apply steady_ite | with_reducible apply steady_when | with_reducible apply steady_foldl
      | with_reducible refine Steady.trans ?_ (modCore_steady ..) | with_reducible apply steady_cond | intro _ | split
      | (grind [modCore_steady, Steady.trans, Steady.refl])

theorem putCx_steady (s : State) (key : Nat) (n : Nat) (x : Cx) : Steady s (putCx s key n x) := by
  unfold putCx
  try dsimp only
  repeat' first
      | with_reducible exact Steady.refl _ | (simp (disch := with_reducible rfl) only [↓steady_upd])
      | with_reducible apply steady_ite | with_reducible apply steady_when | with_reducible apply steady_foldl
      | with_reducible refine Steady.trans ?_ (modCore_steady ..) | with_reducible apply steady_cond | intro _ | split
      | (grind [modCore_steady, Steady.trans, Steady.refl])

end Sys2Proof.Machine
end

