-- ==== Sys2Proof/Laws/Steady/Flags.lean ====
section
/-! SUPPORT. `Steady` of the functions of Machine/Flags.lean. -/

set_option Elab.async false

namespace Sys2Proof.Machine

seal modCore latchTile raiseLanes raiseFlags

theorem raiseFlags_steady (s : State) (key : Nat) (was : Core) (f : Fl) (o : Option Timed) : Steady s (raiseFlags s key was f
  o) := by
  unfold raiseFlags
  try dsimp only
  repeat' first
      | with_reducible exact Steady.refl _ | (simp (disch := with_reducible rfl) only [↓steady_upd])
      | with_reducible apply steady_ite | with_reducible apply steady_when | with_reducible apply steady_foldl
      | with_reducible refine Steady.trans ?_ (modCore_steady ..) | with_reducible apply steady_cond | intro _ | split
      | (grind [modCore_steady, Steady.trans, Steady.refl])

theorem raiseLanes_steady (s : State) (i : Issue) (key : Nat) (was : Core) (rs : List Fr) : Steady s (raiseLanes s i key was
  rs) := by
  unfold raiseLanes
  try dsimp only
  repeat' first
      | with_reducible exact Steady.refl _ | (simp (disch := with_reducible rfl) only [↓steady_upd])
      | with_reducible apply steady_ite | with_reducible apply steady_when | with_reducible apply steady_foldl
      | with_reducible refine Steady.trans ?_ (raiseFlags_steady ..) | with_reducible apply steady_cond | intro _ | split
      | (grind [raiseFlags_steady, Steady.trans, Steady.refl])

theorem latchTile_steady (s : State) (key : Nat) (tensor : Nat) (tile : Nat) (check : Nat) : Steady s (latchTile s key tensor
  tile check) := by
  unfold latchTile
  try dsimp only
  repeat' first
      | with_reducible exact Steady.refl _ | (simp (disch := with_reducible rfl) only [↓steady_upd])
      | with_reducible apply steady_ite | with_reducible apply steady_when | with_reducible apply steady_foldl
      | with_reducible refine Steady.trans ?_ (modCore_steady ..) | with_reducible apply steady_cond | intro _ | split
      | (grind [modCore_steady, Steady.trans, Steady.refl])

end Sys2Proof.Machine
end

