-- ==== Sys2Proof/Laws/Steady/Vector.lean ====
section
/-! SUPPORT. `Steady` of the functions of Machine/Vector.lean. -/

set_option Elab.async false

namespace Sys2Proof.Machine

seal modCore putStream coreRead coreWrite putCx putV raiseLanes raiseFlags vfuncCore arithCore vldCore putLanes vmiscCore
  faddOne faddCore advanceCore fexpLoop faddLoop vcvtCore joinEarly vselCore vredCore cxadvCore putFold fexpCore sldCore
  vcmpCore fclrCore cxsetCore vstCore cldCore frdCore

theorem vldCore_steady (s : State) (i : Issue) (key : Nat) (c : Core) : (∀ x0, (vldCore s i key c) = .ok x0 → Steady s x0) := by
  unfold vldCore
  first
  | (grind [coreRead_steady, putStream_steady, putV_steady, Steady.trans, Steady.refl])
  | (intros; rename_i hx; (try dsimp only at hx); (repeat' split at hx) <;> first | contradiction | (cases hx; done) | (cases hx; (repeat' first | with_reducible exact Steady.refl _ | (simp (disch := with_reducible rfl) only [↓steady_upd]) | with_reducible apply steady_ite | with_reducible apply steady_when | with_reducible apply steady_foldl | with_reducible refine Steady.trans ?_ (coreRead_steady _ _ _ _ _ _ _ _ (by assumption)) | with_reducible refine Steady.trans ?_ (putStream_steady ..) | with_reducible refine Steady.trans ?_ (putV_steady ..) | with_reducible apply steady_cond | intro _ | split | (grind [coreRead_steady, putStream_steady, putV_steady, Steady.trans, Steady.refl])); done))

theorem vstCore_steady (s : State) (i : Issue) (key : Nat) (c : Core) : (∀ x0, (vstCore s i key c) = .ok x0 → Steady s x0) := by
  unfold vstCore
  first
  | (grind [coreWrite_steady, putStream_steady, Steady.trans, Steady.refl])
  | (intros; rename_i hx; (try dsimp only at hx); (repeat' split at hx) <;> first | contradiction | (cases hx; done) | (cases hx; (repeat' first | with_reducible exact Steady.refl _ | (simp (disch := with_reducible rfl) only [↓steady_upd]) | with_reducible apply steady_ite | with_reducible apply steady_when | with_reducible apply steady_foldl | with_reducible refine Steady.trans ?_ (coreWrite_steady _ _ _ _ _ _ _ (by assumption)) | with_reducible refine Steady.trans ?_ (putStream_steady ..) | with_reducible apply steady_cond | intro _ | split | (grind [coreWrite_steady, putStream_steady, Steady.trans, Steady.refl])); done))

theorem cldCore_steady (s : State) (i : Issue) (key : Nat) (c : Core) : (∀ x0, (cldCore s i key c) = .ok x0 → Steady s x0) := by
  unfold cldCore
  first
  | (grind [coreRead_steady, coreWrite_steady, putStream_steady, Steady.trans, Steady.refl])
  | (intros; rename_i hx; (try dsimp only at hx); (repeat' split at hx) <;> first | contradiction | (cases hx; done) | (cases hx; (repeat' first | with_reducible exact Steady.refl _ | (simp (disch := with_reducible rfl) only [↓steady_upd]) | with_reducible apply steady_ite | with_reducible apply steady_when | with_reducible apply steady_foldl | with_reducible refine Steady.trans ?_ (coreRead_steady _ _ _ _ _ _ _ _ (by assumption)) | with_reducible refine Steady.trans ?_ (coreWrite_steady _ _ _ _ _ _ _ (by assumption)) | with_reducible refine Steady.trans ?_ (putStream_steady ..) | with_reducible apply steady_cond | intro _ | split | (grind [coreRead_steady, coreWrite_steady, putStream_steady, Steady.trans, Steady.refl])); done))

theorem putLanes_steady (s : State) (i : Issue) (key : Nat) (was : Core) (w : Nat) (rs : List Fr) : Steady s (putLanes s i
  key was w rs) := by
  unfold putLanes
  try dsimp only
  repeat' first
      | with_reducible exact Steady.refl _ | (simp (disch := with_reducible rfl) only [↓steady_upd])
      | with_reducible apply steady_ite | with_reducible apply steady_when | with_reducible apply steady_foldl
      | with_reducible refine Steady.trans ?_ (raiseLanes_steady ..)
      | with_reducible refine Steady.trans ?_ (putV_steady ..) | with_reducible apply steady_cond | intro _ | split
      | (grind [raiseLanes_steady, putV_steady, Steady.trans, Steady.refl])

theorem arithCore_steady (f : Ty → Rm → Nat → Nat → Nat → Fr) (s : State) (i : Issue) (key : Nat) (c : Core) : (∀ x0,
  (arithCore f s i key c) = .ok x0 → Steady s x0) := by
  unfold arithCore
  first
  | (grind [putLanes_steady, Steady.trans, Steady.refl])
  | (intros; rename_i hx; (try dsimp only at hx); (repeat' split at hx) <;> first | contradiction | (cases hx; done) | (cases hx; (repeat' first | with_reducible exact Steady.refl _ | (simp (disch := with_reducible rfl) only [↓steady_upd]) | with_reducible apply steady_ite | with_reducible apply steady_when | with_reducible apply steady_foldl | with_reducible refine Steady.trans ?_ (putLanes_steady ..) | with_reducible apply steady_cond | intro _ | split | (grind [putLanes_steady, Steady.trans, Steady.refl])); done))

theorem vcmpCore_steady (s : State) (i : Issue) (key : Nat) (c : Core) : (∀ x0, (vcmpCore s i key c) = .ok x0 → Steady s x0) := by
  unfold vcmpCore
  first
  | (grind [putLanes_steady, Steady.trans, Steady.refl])
  | (intros; rename_i hx; (try dsimp only at hx); (repeat' split at hx) <;> first | contradiction | (cases hx; done) | (cases hx; (repeat' first | with_reducible exact Steady.refl _ | (simp (disch := with_reducible rfl) only [↓steady_upd]) | with_reducible apply steady_ite | with_reducible apply steady_when | with_reducible apply steady_foldl | with_reducible refine Steady.trans ?_ (putLanes_steady ..) | with_reducible apply steady_cond | intro _ | split | (grind [putLanes_steady, Steady.trans, Steady.refl])); done))

theorem vselCore_steady (s : State) (i : Issue) (key : Nat) (c : Core) : (∀ x0, (vselCore s i key c) = .ok x0 → Steady s x0) := by
  unfold vselCore
  first
  | (grind [putV_steady, Steady.trans, Steady.refl])
  | (intros; rename_i hx; (try dsimp only at hx); (repeat' split at hx) <;> first | contradiction | (cases hx; done) | (cases hx; (repeat' first | with_reducible exact Steady.refl _ | (simp (disch := with_reducible rfl) only [↓steady_upd]) | with_reducible apply steady_ite | with_reducible apply steady_when | with_reducible apply steady_foldl | with_reducible refine Steady.trans ?_ (putV_steady ..) | with_reducible apply steady_cond | intro _ | split | (grind [putV_steady, Steady.trans, Steady.refl])); done))

theorem vfuncCore_steady (s : State) (i : Issue) (key : Nat) (c : Core) : (∀ x0, (vfuncCore s i key c) = .ok x0 → Steady s
  x0) := by
  unfold vfuncCore
  first
  | (grind [putLanes_steady, Steady.trans, Steady.refl])
  | (intros; rename_i hx; (try dsimp only at hx); (repeat' split at hx) <;> first | contradiction | (cases hx; done) | (cases hx; (repeat' first | with_reducible exact Steady.refl _ | (simp (disch := with_reducible rfl) only [↓steady_upd]) | with_reducible apply steady_ite | with_reducible apply steady_when | with_reducible apply steady_foldl | with_reducible refine Steady.trans ?_ (putLanes_steady ..) | with_reducible apply steady_cond | intro _ | split | (grind [putLanes_steady, Steady.trans, Steady.refl])); done))

theorem vcvtCore_steady (s : State) (i : Issue) (key : Nat) (c : Core) : (∀ x0, (vcvtCore s i key c) = .ok x0 → Steady s x0) := by
  unfold vcvtCore
  first
  | (grind [putCx_steady, putLanes_steady, Steady.trans, Steady.refl])
  | (intros; rename_i hx; (try dsimp only at hx); (repeat' split at hx) <;> first | contradiction | (cases hx; done) | (cases hx; (repeat' first | with_reducible exact Steady.refl _ | (simp (disch := with_reducible rfl) only [↓steady_upd]) | with_reducible apply steady_ite | with_reducible apply steady_when | with_reducible apply steady_foldl | with_reducible refine Steady.trans ?_ (putCx_steady ..) | with_reducible refine Steady.trans ?_ (putLanes_steady ..) | with_reducible apply steady_cond | intro _ | split | (grind [putCx_steady, putLanes_steady, Steady.trans, Steady.refl])); done))

theorem vredCore_steady (s : State) (i : Issue) (key : Nat) (c : Core) : (∀ x0, (vredCore s i key c) = .ok x0 → Steady s x0) := by
  unfold vredCore
  first
  | (grind [putLanes_steady, Steady.trans, Steady.refl])
  | (intros; rename_i hx; (try dsimp only at hx); (repeat' split at hx) <;> first | contradiction | (cases hx; done) | (cases hx; (repeat' first | with_reducible exact Steady.refl _ | (simp (disch := with_reducible rfl) only [↓steady_upd]) | with_reducible apply steady_ite | with_reducible apply steady_when | with_reducible apply steady_foldl | with_reducible refine Steady.trans ?_ (putLanes_steady ..) | with_reducible apply steady_cond | intro _ | split | (grind [putLanes_steady, Steady.trans, Steady.refl])); done))

theorem vmiscCore_steady (s : State) (i : Issue) (key : Nat) (c : Core) : (∀ x0, (vmiscCore s i key c) = .ok x0 → Steady s
  x0) := by
  unfold vmiscCore
  first
  | (grind [putLanes_steady, Steady.trans, Steady.refl])
  | (intros; rename_i hx; (try dsimp only at hx); (repeat' split at hx) <;> first | contradiction | (cases hx; done) | (cases hx; (repeat' first | with_reducible exact Steady.refl _ | (simp (disch := with_reducible rfl) only [↓steady_upd]) | with_reducible apply steady_ite | with_reducible apply steady_when | with_reducible apply steady_foldl | with_reducible refine Steady.trans ?_ (putLanes_steady ..) | with_reducible apply steady_cond | intro _ | split | (grind [putLanes_steady, Steady.trans, Steady.refl])); done))

theorem sldCore_steady (s : State) (i : Issue) (key : Nat) (_c : Core) : (∀ x0, (sldCore s i key _c) = .ok x0 → Steady s x0) := by
  unfold sldCore
  first
  | (grind [putStream_steady, Steady.trans, Steady.refl])
  | (intros; rename_i hx; (try dsimp only at hx); (repeat' split at hx) <;> first | contradiction | (cases hx; done) | (cases hx; (repeat' first | with_reducible exact Steady.refl _ | (simp (disch := with_reducible rfl) only [↓steady_upd]) | with_reducible apply steady_ite | with_reducible apply steady_when | with_reducible apply steady_foldl | with_reducible refine Steady.trans ?_ (putStream_steady ..) | with_reducible apply steady_cond | intro _ | split | (grind [putStream_steady, Steady.trans, Steady.refl])); done))

theorem advanceCore_steady (s : State) (i : Issue) (key : Nat) (_c : Core) : (∀ x0, (advanceCore s i key _c) = .ok x0 →
  Steady s x0) := by
  unfold advanceCore
  first
  | (grind [putStream_steady, Steady.trans, Steady.refl])
  | (intros; rename_i hx; (try dsimp only at hx); (repeat' split at hx) <;> first | contradiction | (cases hx; done) | (cases hx; (repeat' first | with_reducible exact Steady.refl _ | (simp (disch := with_reducible rfl) only [↓steady_upd]) | with_reducible apply steady_ite | with_reducible apply steady_when | with_reducible apply steady_foldl | with_reducible refine Steady.trans ?_ (putStream_steady ..) | with_reducible apply steady_cond | intro _ | split | (grind [putStream_steady, Steady.trans, Steady.refl])); done))

theorem putFold_steady (s : State) (key : Nat) (n : Nat) (e : FoldE) : Steady s (putFold s key n e) := by
  unfold putFold
  try dsimp only
  repeat' first
      | with_reducible exact Steady.refl _ | (simp (disch := with_reducible rfl) only [↓steady_upd])
      | with_reducible apply steady_ite | with_reducible apply steady_when | with_reducible apply steady_foldl
      | with_reducible refine Steady.trans ?_ (modCore_steady ..) | with_reducible apply steady_cond | intro _ | split
      | (grind [modCore_steady, Steady.trans, Steady.refl])

theorem fclrCore_steady (s : State) (i : Issue) (key : Nat) (_c : Core) : (∀ x0, (fclrCore s i key _c) = .ok x0 → Steady s
  x0) := by
  unfold fclrCore
  first
  | (grind [modCore_steady, putFold_steady, Steady.trans, Steady.refl])
  | (intros; rename_i hx; (try dsimp only at hx); (repeat' split at hx) <;> first | contradiction | (cases hx; done) | (cases hx; (repeat' first | with_reducible exact Steady.refl _ | (simp (disch := with_reducible rfl) only [↓steady_upd]) | with_reducible apply steady_ite | with_reducible apply steady_when | with_reducible apply steady_foldl | with_reducible refine Steady.trans ?_ (modCore_steady ..) | with_reducible refine Steady.trans ?_ (putFold_steady ..) | with_reducible apply steady_cond | intro _ | split | (grind [modCore_steady, putFold_steady, Steady.trans, Steady.refl])); done))

theorem frdCore_steady (s : State) (i : Issue) (key : Nat) (c : Core) : (∀ x0, (frdCore s i key c) = .ok x0 → Steady s x0) := by
  unfold frdCore
  first
  | (grind [raiseLanes_steady, putV_steady, putCx_steady, Steady.trans, Steady.refl])
  | (intros; rename_i hx; (try dsimp only at hx); (repeat' split at hx) <;> first | contradiction | (cases hx; done) | (cases hx; (repeat' first | with_reducible exact Steady.refl _ | (simp (disch := with_reducible rfl) only [↓steady_upd]) | with_reducible apply steady_ite | with_reducible apply steady_when | with_reducible apply steady_foldl | with_reducible refine Steady.trans ?_ (raiseLanes_steady ..) | with_reducible refine Steady.trans ?_ (putV_steady ..) | with_reducible refine Steady.trans ?_ (putCx_steady ..) | with_reducible apply steady_cond | intro _ | split | (grind [raiseLanes_steady, putV_steady, putCx_steady, Steady.trans, Steady.refl])); done))

unseal fexpLoop in
theorem fexpLoop_steady (s : State) (i : Issue) (key : Nat) (sp : Nat) (c : Core) (a : List (Nat × Nat)) : (∀ x0, (fexpLoop s
  i key sp c a) = .ok x0 → Steady s x0) := by
  induction a generalizing s with
  | nil => intros; rename_i hx; unfold fexpLoop at hx; cases hx; exact Steady.refl _
  | cons e r ih =>
    intros; rename_i hx
    unfold fexpLoop at hx
    (try dsimp only at hx)
    repeat' split at hx
    all_goals first | contradiction | (cases hx; done) | (cases hx; (repeat' first | with_reducible exact Steady.refl _ | (simp (disch := with_reducible rfl) only [↓steady_upd]) | with_reducible apply steady_ite | with_reducible apply steady_when | with_reducible apply steady_foldl | with_reducible refine Steady.trans ?_ (coreWrite_steady _ _ _ _ _ _ _ (by assumption)) | with_reducible refine Steady.trans ?_ (ih _ _ (by assumption)) | with_reducible apply steady_cond | intro _ | split | (grind [coreWrite_steady, Steady.trans, Steady.refl])); done) | ((repeat' first | with_reducible exact Steady.refl _ | (simp (disch := with_reducible rfl) only [↓steady_upd]) | with_reducible apply steady_ite | with_reducible apply steady_when | with_reducible apply steady_foldl | with_reducible refine Steady.trans ?_ (coreWrite_steady _ _ _ _ _ _ _ (by assumption)) | with_reducible refine Steady.trans ?_ (ih _ _ (by assumption)) | with_reducible apply steady_cond | intro _ | split | (grind [coreWrite_steady, Steady.trans, Steady.refl])); done)

theorem fexpCore_steady (s : State) (i : Issue) (key : Nat) (c : Core) : (∀ x0, (fexpCore s i key c) = .ok x0 → Steady s x0) := by
  unfold fexpCore
  first
  | (grind [fexpLoop_steady, putStream_steady, Steady.trans, Steady.refl])
  | (intros; rename_i hx; (try dsimp only at hx); (repeat' split at hx) <;> first | contradiction | (cases hx; done) | (cases hx; (repeat' first | with_reducible exact Steady.refl _ | (simp (disch := with_reducible rfl) only [↓steady_upd]) | with_reducible apply steady_ite | with_reducible apply steady_when | with_reducible apply steady_foldl | with_reducible refine Steady.trans ?_ (fexpLoop_steady _ _ _ _ _ _ _ (by assumption)) | with_reducible refine Steady.trans ?_ (putStream_steady ..) | with_reducible apply steady_cond | intro _ | split | (grind [fexpLoop_steady, putStream_steady, Steady.trans, Steady.refl])); done))

unseal joinEarly in
theorem joinEarly_steady (s : State) (i : Issue) (key : Nat) (was : Core) (n : Nat) (a : Nat) :
    Steady s (joinEarly s i key was n a) := by
  induction a generalizing s with
  | zero => unfold joinEarly; exact Steady.refl s
  | succ k ih =>
    unfold joinEarly
    dsimp only
    split
    · exact Steady.refl s
    · refine Steady.trans ?_ (ih ..)
      repeat' first
          | with_reducible exact Steady.refl _ | (simp (disch := with_reducible rfl) only [↓steady_upd])
          | with_reducible apply steady_ite | with_reducible apply steady_when | with_reducible apply steady_foldl
          | with_reducible refine Steady.trans ?_ (modCore_steady ..)
          | with_reducible refine Steady.trans ?_ (putFold_steady ..)
          | with_reducible refine Steady.trans ?_ (raiseFlags_steady ..) | with_reducible apply steady_cond | intro _ | split
          | (grind [modCore_steady, putFold_steady, raiseFlags_steady, Steady.trans, Steady.refl])

theorem faddOne_steady (s : State) (i : Issue) (key : Nat) (was : Core) (n : Nat) (lane : Nat) (r : FoldE) :
    (∀ x0, (faddOne s i key was n lane r) = .ok x0 → Steady s x0) := by
  unfold faddOne
  first
  | (grind [modCore_steady, putFold_steady, raiseFlags_steady, joinEarly_steady, Steady.trans, Steady.refl])
  | (intros; rename_i hx; (try dsimp only at hx); (repeat' split at hx) <;> first | contradiction | (cases hx; done) | (cases hx; (repeat' first | with_reducible exact Steady.refl _ | (simp (disch := with_reducible rfl) only [↓steady_upd]) | with_reducible apply steady_ite | with_reducible apply steady_when | with_reducible apply steady_foldl | with_reducible refine Steady.trans ?_ (modCore_steady ..) | with_reducible refine Steady.trans ?_ (putFold_steady ..) | with_reducible refine Steady.trans ?_ (raiseFlags_steady ..) | with_reducible refine Steady.trans ?_ (joinEarly_steady ..) | with_reducible apply steady_cond | intro _ | split | (grind [modCore_steady, putFold_steady, raiseFlags_steady, joinEarly_steady, Steady.trans, Steady.refl])); done))

unseal faddLoop in
theorem faddLoop_steady (s : State) (i : Issue) (key : Nat) (was : Core) (sp : Nat) (a : List (Nat × Nat × Nat)) :
    (∀ x0, (faddLoop s i key was sp a) = .ok x0 → Steady s x0) := by
  induction a generalizing s with
  | nil => intros; rename_i hx; unfold faddLoop at hx; cases hx; exact Steady.refl _
  | cons e r ih =>
    intros; rename_i hx
    unfold faddLoop at hx
    (try dsimp only at hx)
    repeat' split at hx
    all_goals first | contradiction | (cases hx; done) | (cases hx; (repeat' first | with_reducible exact Steady.refl _ | (simp (disch := with_reducible rfl) only [↓steady_upd]) | with_reducible apply steady_ite | with_reducible apply steady_when | with_reducible apply steady_foldl | with_reducible refine Steady.trans ?_ (coreRead_steady _ _ _ _ _ _ _ _ (by assumption)) | with_reducible refine Steady.trans ?_ (faddOne_steady _ _ _ _ _ _ _ _ (by assumption)) | with_reducible refine Steady.trans ?_ (ih _ _ (by assumption)) | with_reducible apply steady_cond | intro _ | split | (grind [coreRead_steady, faddOne_steady, Steady.trans, Steady.refl])); done) | ((repeat' first | with_reducible exact Steady.refl _ | (simp (disch := with_reducible rfl) only [↓steady_upd]) | with_reducible apply steady_ite | with_reducible apply steady_when | with_reducible apply steady_foldl | with_reducible refine Steady.trans ?_ (coreRead_steady _ _ _ _ _ _ _ _ (by assumption)) | with_reducible refine Steady.trans ?_ (faddOne_steady _ _ _ _ _ _ _ _ (by assumption)) | with_reducible refine Steady.trans ?_ (ih _ _ (by assumption)) | with_reducible apply steady_cond | intro _ | split | (grind [coreRead_steady, faddOne_steady, Steady.trans, Steady.refl])); done)

theorem faddCore_steady (s : State) (i : Issue) (key : Nat) (c : Core) : (∀ x0, (faddCore s i key c) = .ok x0 → Steady s x0) := by
  unfold faddCore
  first
  | (grind [faddLoop_steady, putStream_steady, Steady.trans, Steady.refl])
  | (intros; rename_i hx; (try dsimp only at hx); (repeat' split at hx) <;> first | contradiction | (cases hx; done) | (cases hx; (repeat' first | with_reducible exact Steady.refl _ | (simp (disch := with_reducible rfl) only [↓steady_upd]) | with_reducible apply steady_ite | with_reducible apply steady_when | with_reducible apply steady_foldl | with_reducible refine Steady.trans ?_ (faddLoop_steady _ _ _ _ _ _ _ (by assumption)) | with_reducible refine Steady.trans ?_ (putStream_steady ..) | with_reducible apply steady_cond | intro _ | split | (grind [faddLoop_steady, putStream_steady, Steady.trans, Steady.refl])); done))

theorem cxsetCore_steady (s : State) (i : Issue) (key : Nat) (_c : Core) : (∀ x0, (cxsetCore s i key _c) = .ok x0 → Steady s
  x0) := by
  unfold cxsetCore
  first
  | (grind [putCx_steady, Steady.trans, Steady.refl])
  | (intros; rename_i hx; (try dsimp only at hx); (repeat' split at hx) <;> first | contradiction | (cases hx; done) | (cases hx; (repeat' first | with_reducible exact Steady.refl _ | (simp (disch := with_reducible rfl) only [↓steady_upd]) | with_reducible apply steady_ite | with_reducible apply steady_when | with_reducible apply steady_foldl | with_reducible refine Steady.trans ?_ (putCx_steady ..) | with_reducible apply steady_cond | intro _ | split | (grind [putCx_steady, Steady.trans, Steady.refl])); done))

theorem cxadvCore_steady (s : State) (i : Issue) (key : Nat) (c : Core) : (∀ x0, (cxadvCore s i key c) = .ok x0 → Steady s
  x0) := by
  unfold cxadvCore
  first
  | (grind [putCx_steady, Steady.trans, Steady.refl])
  | (intros; rename_i hx; (try dsimp only at hx); (repeat' split at hx) <;> first | contradiction | (cases hx; done) | (cases hx; (repeat' first | with_reducible exact Steady.refl _ | (simp (disch := with_reducible rfl) only [↓steady_upd]) | with_reducible apply steady_ite | with_reducible apply steady_when | with_reducible apply steady_foldl | with_reducible refine Steady.trans ?_ (putCx_steady ..) | with_reducible apply steady_cond | intro _ | split | (grind [putCx_steady, Steady.trans, Steady.refl])); done))

end Sys2Proof.Machine
end

