-- ==== Sys2Proof/Laws/Steady/Engine.lean ====
section
/-! SUPPORT. `Steady` of the functions of Machine/Engine.lean. -/

set_option Elab.async false

namespace Sys2Proof.Machine

seal modCore putStream coreRead coreWrite putCx latchTile raiseFlags putFold emvCore endRun emvTiles readDesc tencValuesRun
  poisonEntries readTile eopLoop tencCore eopPos tencStore emvRows eopCore batchValues emvRow foldInto denseSlices

theorem foldInto_steady (r : Run) (key : Nat) (n : Nat) (cycle : Nat) (bf : Bool) (sc : Int) (p : Partial) (o : Occur) : (∀
  x0, (foldInto r key n cycle bf sc p o) = .ok x0 → Steady r.s x0.s) := by
  unfold foldInto
  first
  | (grind [putFold_steady, Steady.trans, Steady.refl])
  | (intros; rename_i hx; (try dsimp only at hx); (repeat' split at hx) <;> first | contradiction | (cases hx; done) | (cases hx; (repeat' first | with_reducible exact Steady.refl _ | (simp (disch := with_reducible rfl) only [↓steady_upd]) | with_reducible apply steady_ite | with_reducible apply steady_when | with_reducible apply steady_foldl | with_reducible refine Steady.trans ?_ (putFold_steady ..) | with_reducible apply steady_cond | intro _ | split | (grind [putFold_steady, Steady.trans, Steady.refl])); done))

unseal denseSlices in
theorem denseSlices_steady (s : State) (i : Issue) (key : Nat) (sp : Nat) (b : Nat) (tile : Nat) (a : List Nat) : (∀ x00 x01,
  (denseSlices s i key sp b tile a) = .ok (x00, x01) → Steady s x01) := by
  induction a generalizing s with
  | nil => intros; rename_i hx; unfold denseSlices at hx; cases hx; exact Steady.refl _
  | cons e r ih =>
    intros; rename_i hx
    unfold denseSlices at hx
    (try dsimp only at hx)
    repeat' split at hx
    all_goals first | contradiction | (cases hx; done) | (cases hx; (repeat' first | with_reducible exact Steady.refl _ | (simp (disch := with_reducible rfl) only [↓steady_upd]) | with_reducible apply steady_ite | with_reducible apply steady_when | with_reducible apply steady_foldl | with_reducible refine Steady.trans ?_ (coreRead_steady _ _ _ _ _ _ _ _ (by assumption)) | with_reducible refine Steady.trans ?_ (ih _ _ _ (by assumption)) | with_reducible apply steady_cond | intro _ | split | (grind [coreRead_steady, Steady.trans, Steady.refl])); done) | ((repeat' first | with_reducible exact Steady.refl _ | (simp (disch := with_reducible rfl) only [↓steady_upd]) | with_reducible apply steady_ite | with_reducible apply steady_when | with_reducible apply steady_foldl | with_reducible refine Steady.trans ?_ (coreRead_steady _ _ _ _ _ _ _ _ (by assumption)) | with_reducible refine Steady.trans ?_ (ih _ _ _ (by assumption)) | with_reducible apply steady_cond | intro _ | split | (grind [coreRead_steady, Steady.trans, Steady.refl])); done)

unseal emvRow in
theorem emvRow_steady (r : Run) (a : EmvArgs) (h : Word) (nv lane : Nat) (base : Nat) (idx : Nat) (ps : List (Pos × Nat)) (g :
  Nat) (j : Nat) (dense : List Nat) : (∀ x0, (emvRow r a h nv lane base idx ps g j dense) = .ok x0 → Steady r.s x0.s) := by
  unfold emvRow
  intros; rename_i hx
  dsimp only at hx
  split at hx
  · cases hx; exact Steady.refl _
  · refine Steady.trans ?_ (foldInto_steady _ _ _ _ _ _ _ _ _ hx)
    repeat' split
    all_goals exact Steady.refl _

unseal emvRows in
theorem emvRows_steady (r : Run) (a : EmvArgs) (h : Word) (nv lane : Nat) (base : Nat) (idx : Nat) (ps : List (Pos × Nat))
  (dense : List (List Nat)) (a1 : List (Nat × Nat)) : (∀ x0, (emvRows r a h nv lane base idx ps dense a1) = .ok x0 → Steady r.s
  x0.s) := by
  induction a1 generalizing r with
  | nil => intros; rename_i hx; unfold emvRows at hx; cases hx; exact Steady.refl _
  | cons e q ih =>
    intros; rename_i hx
    unfold emvRows at hx
    (try dsimp only at hx)
    repeat' split at hx
    all_goals first | contradiction | (cases hx; done) | (cases hx; (repeat' first | with_reducible exact Steady.refl _ | (simp (disch := with_reducible rfl) only [↓steady_upd]) | with_reducible apply steady_ite | with_reducible apply steady_when | with_reducible apply steady_foldl | with_reducible refine Steady.trans ?_ (emvRow_steady _ _ _ _ _ _ _ _ _ _ _ _ (by assumption)) | with_reducible refine Steady.trans ?_ (ih _ _ (by assumption)) | with_reducible apply steady_cond | intro _ | split | (grind [emvRow_steady, Steady.trans, Steady.refl])); done) | ((repeat' first | with_reducible exact Steady.refl _ | (simp (disch := with_reducible rfl) only [↓steady_upd]) | with_reducible apply steady_ite | with_reducible apply steady_when | with_reducible apply steady_foldl | with_reducible refine Steady.trans ?_ (emvRow_steady _ _ _ _ _ _ _ _ _ _ _ _ (by assumption)) | with_reducible refine Steady.trans ?_ (ih _ _ (by assumption)) | with_reducible apply steady_cond | intro _ | split | (grind [emvRow_steady, Steady.trans, Steady.refl])); done)

theorem poisonEntries_steady (s : State) (key : Nat) (a : Nat) (n : Nat) : Steady s (poisonEntries s key a n) := by
  unfold poisonEntries
  try dsimp only
  repeat' first
      | with_reducible exact Steady.refl _ | (simp (disch := with_reducible rfl) only [↓steady_upd])
      | with_reducible apply steady_ite | with_reducible apply steady_when | with_reducible apply steady_foldl
      | with_reducible refine Steady.trans ?_ (putFold_steady ..) | with_reducible apply steady_cond | intro _ | split
      | (grind [putFold_steady, Steady.trans, Steady.refl])

theorem readTile_steady (s : State) (i : Issue) (key : Nat) (sp : Nat) (a : Nat) : (∀ x00 x01 x02, (readTile s i key sp a) =
  .ok (x00, x01, x02) → Steady s x02) := by
  unfold readTile
  first
  | (grind [coreRead_steady, Steady.trans, Steady.refl])
  | (intros; rename_i hx; (try dsimp only at hx); (repeat' split at hx) <;> first | contradiction | (cases hx; done) | (cases hx; (repeat' first | with_reducible exact Steady.refl _ | (simp (disch := with_reducible rfl) only [↓steady_upd]) | with_reducible apply steady_ite | with_reducible apply steady_when | with_reducible apply steady_foldl | with_reducible refine Steady.trans ?_ (coreRead_steady _ _ _ _ _ _ _ _ (by assumption)) | with_reducible apply steady_cond | intro _ | split | (grind [coreRead_steady, Steady.trans, Steady.refl])); done))

unseal emvTiles in
theorem emvTiles_steady (r : Run) (i : Issue) (a : EmvArgs) (st : SDesc) (sdSp : Nat) (vecs : List Nat) (n : Nat) (a1 : Nat)
  : (∀ x00 x01, (emvTiles r i a st sdSp vecs n a1) = .ok (x00, x01) → Steady r.s x00.s) := by
  induction a1 generalizing r st n with
  | zero => intros; rename_i hx; unfold emvTiles at hx; cases hx; exact Steady.refl _
  | succ k ih =>
    intros; rename_i hx
    unfold emvTiles at hx
    (try dsimp only at hx)
    repeat' split at hx
    all_goals first | contradiction | (cases hx; done) | (cases hx; (repeat' first | with_reducible exact Steady.refl _ | (simp (disch := with_reducible rfl) only [↓steady_upd]) | with_reducible apply steady_ite | with_reducible apply steady_when | with_reducible apply steady_foldl | with_reducible refine Steady.trans ?_ (readTile_steady _ _ _ _ _ _ _ _ (by assumption)) | with_reducible refine Steady.trans ?_ (latchTile_steady ..) | with_reducible refine Steady.trans ?_ (poisonEntries_steady ..) | with_reducible refine Steady.trans ?_ (denseSlices_steady _ _ _ _ _ _ _ _ _ (by assumption)) | with_reducible refine Steady.trans ?_ (emvRows_steady _ _ _ _ _ _ _ _ _ _ _ (by assumption)) | with_reducible refine Steady.trans ?_ (ih _ _ _ _ _ (by assumption)) | with_reducible apply steady_cond | intro _ | split | (grind [readTile_steady, latchTile_steady, poisonEntries_steady, denseSlices_steady, emvRows_steady, Steady.trans, Steady.refl])); done) | ((repeat' first | with_reducible exact Steady.refl _ | (simp (disch := with_reducible rfl) only [↓steady_upd]) | with_reducible apply steady_ite | with_reducible apply steady_when | with_reducible apply steady_foldl | with_reducible refine Steady.trans ?_ (readTile_steady _ _ _ _ _ _ _ _ (by assumption)) | with_reducible refine Steady.trans ?_ (latchTile_steady ..) | with_reducible refine Steady.trans ?_ (poisonEntries_steady ..) | with_reducible refine Steady.trans ?_ (denseSlices_steady _ _ _ _ _ _ _ _ _ (by assumption)) | with_reducible refine Steady.trans ?_ (emvRows_steady _ _ _ _ _ _ _ _ _ _ _ (by assumption)) | with_reducible refine Steady.trans ?_ (ih _ _ _ _ _ (by assumption)) | with_reducible apply steady_cond | intro _ | split | (grind [readTile_steady, latchTile_steady, poisonEntries_steady, denseSlices_steady, emvRows_steady, Steady.trans, Steady.refl])); done)

theorem endRun_steady (r : Run) (key : Nat) (was : Core) : Steady r.s (endRun r key was) := by
  unfold endRun
  try dsimp only
  repeat' first
      | with_reducible exact Steady.refl _ | (simp (disch := with_reducible rfl) only [↓steady_upd])
      | with_reducible apply steady_ite | with_reducible apply steady_when | with_reducible apply steady_foldl
      | with_reducible refine Steady.trans ?_ (raiseFlags_steady ..) | with_reducible apply steady_cond | intro _ | split
      | (grind [raiseFlags_steady, Steady.trans, Steady.refl])

theorem readDesc_steady (s : State) (i : Issue) (key : Nat) (a : Nat) : (∀ x00 x01, (readDesc s i key a) = .ok (x00, x01) →
  Steady s x01) := by
  unfold readDesc
  first
  | (grind [coreRead_steady, Steady.trans, Steady.refl])
  | (intros; rename_i hx; (try dsimp only at hx); (repeat' split at hx) <;> first | contradiction | (cases hx; done) | (cases hx; (repeat' first | with_reducible exact Steady.refl _ | (simp (disch := with_reducible rfl) only [↓steady_upd]) | with_reducible apply steady_ite | with_reducible apply steady_when | with_reducible apply steady_foldl | with_reducible refine Steady.trans ?_ (coreRead_steady _ _ _ _ _ _ _ _ (by assumption)) | with_reducible apply steady_cond | intro _ | split | (grind [coreRead_steady, Steady.trans, Steady.refl])); done))

theorem emvCore_steady (s : State) (i : Issue) (key : Nat) (c : Core) : (∀ x0, (emvCore s i key c) = .ok x0 → Steady s x0) := by
  unfold emvCore
  first
  | (grind [readDesc_steady, emvTiles_steady, putStream_steady, endRun_steady, Steady.trans, Steady.refl])
  | (intros; rename_i hx; (try dsimp only at hx); (repeat' split at hx) <;> first | contradiction | (cases hx; done) | (cases hx; (repeat' first | with_reducible exact Steady.refl _ | (simp (disch := with_reducible rfl) only [↓steady_upd]) | with_reducible apply steady_ite | with_reducible apply steady_when | with_reducible apply steady_foldl | with_reducible refine Steady.trans ?_ (readDesc_steady _ _ _ _ _ _ (by assumption)) | with_reducible refine Steady.trans ?_ (emvTiles_steady _ _ _ _ _ _ _ _ _ _ (by assumption)) | with_reducible refine Steady.trans ?_ (putStream_steady ..) | with_reducible refine Steady.trans ?_ (endRun_steady ..) | with_reducible apply steady_cond | intro _ | split | (grind [readDesc_steady, emvTiles_steady, putStream_steady, endRun_steady, Steady.trans, Steady.refl])); done))

unseal batchValues in
theorem batchValues_steady (s : State) (i : Issue) (key : Nat) (sp : Nat) (b : Nat) (a : List Nat) : (∀ x00 x01, (batchValues
  s i key sp b a) = .ok (x00, x01) → Steady s x01) := by
  induction a generalizing s with
  | nil => intros; rename_i hx; unfold batchValues at hx; cases hx; exact Steady.refl _
  | cons e r ih =>
    intros; rename_i hx
    unfold batchValues at hx
    (try dsimp only at hx)
    repeat' split at hx
    all_goals first | contradiction | (cases hx; done) | (cases hx; (repeat' first | with_reducible exact Steady.refl _ | (simp (disch := with_reducible rfl) only [↓steady_upd]) | with_reducible apply steady_ite | with_reducible apply steady_when | with_reducible apply steady_foldl | with_reducible refine Steady.trans ?_ (coreRead_steady _ _ _ _ _ _ _ _ (by assumption)) | with_reducible refine Steady.trans ?_ (ih _ _ _ (by assumption)) | with_reducible apply steady_cond | intro _ | split | (grind [coreRead_steady, Steady.trans, Steady.refl])); done) | ((repeat' first | with_reducible exact Steady.refl _ | (simp (disch := with_reducible rfl) only [↓steady_upd]) | with_reducible apply steady_ite | with_reducible apply steady_when | with_reducible apply steady_foldl | with_reducible refine Steady.trans ?_ (coreRead_steady _ _ _ _ _ _ _ _ (by assumption)) | with_reducible refine Steady.trans ?_ (ih _ _ _ (by assumption)) | with_reducible apply steady_cond | intro _ | split | (grind [coreRead_steady, Steady.trans, Steady.refl])); done)

unseal eopPos in
theorem eopPos_steady (r : Run) (key : Nat) (n : Nat) (pass : Nat) (rot : Nat) (bf : Bool) (sc : Option Int) (occ : Occur)
  (wide : Nat) (a : List (List (Val × Val))) (a1 : Nat) : (∀ x0, (eopPos r key n pass rot bf sc occ wide a a1) = .ok x0 →
  Steady r.s x0.s) := by
  induction a generalizing r a1 with
  | nil => intros; rename_i hx; unfold eopPos at hx; cases hx; exact Steady.refl _
  | cons e q ih =>
    intros; rename_i hx
    unfold eopPos at hx
    (try dsimp only at hx)
    repeat' split at hx
    all_goals first | contradiction | (cases hx; done) | (cases hx; (repeat' first | with_reducible exact Steady.refl _ | (simp (disch := with_reducible rfl) only [↓steady_upd]) | with_reducible apply steady_ite | with_reducible apply steady_when | with_reducible apply steady_foldl | with_reducible refine Steady.trans ?_ (foldInto_steady _ _ _ _ _ _ _ _ _ (by assumption)) | with_reducible refine Steady.trans ?_ (ih _ _ _ (by assumption)) | with_reducible apply steady_cond | intro _ | split | (grind [foldInto_steady, Steady.trans, Steady.refl])); done) | ((repeat' first | with_reducible exact Steady.refl _ | (simp (disch := with_reducible rfl) only [↓steady_upd]) | with_reducible apply steady_ite | with_reducible apply steady_when | with_reducible apply steady_foldl | with_reducible refine Steady.trans ?_ (foldInto_steady _ _ _ _ _ _ _ _ _ (by assumption)) | with_reducible refine Steady.trans ?_ (ih _ _ _ (by assumption)) | with_reducible apply steady_cond | intro _ | split | (grind [foldInto_steady, Steady.trans, Steady.refl])); done)

unseal eopLoop in
theorem eopLoop_steady (r : Run) (key : Nat) (facc : Nat) (rot : Nat) (bf : Bool) (sc : Option Int) (id : Nat) (idx : Nat)
  (wide : Nat) (ty : Ty) (tx : Ty) (ys : List (List Nat)) (xs : List (List Nat)) (a : List (Pos × Nat)) : (∀ x0, (eopLoop r
  key facc rot bf sc id idx wide ty tx ys xs a) = .ok x0 → Steady r.s x0.s) := by
  induction a generalizing r with
  | nil => intros; rename_i hx; unfold eopLoop at hx; cases hx; exact Steady.refl _
  | cons e q ih =>
    intros; rename_i hx
    unfold eopLoop at hx
    (try dsimp only at hx)
    repeat' split at hx
    all_goals first | contradiction | (cases hx; done) | (cases hx; (repeat' first | with_reducible exact Steady.refl _ | (simp (disch := with_reducible rfl) only [↓steady_upd]) | with_reducible apply steady_ite | with_reducible apply steady_when | with_reducible apply steady_foldl | with_reducible refine Steady.trans ?_ (eopPos_steady _ _ _ _ _ _ _ _ _ _ _ _ (by assumption)) | with_reducible refine Steady.trans ?_ (ih _ _ (by assumption)) | with_reducible apply steady_cond | intro _ | split | (grind [eopPos_steady, Steady.trans, Steady.refl])); done) | ((repeat' first | with_reducible exact Steady.refl _ | (simp (disch := with_reducible rfl) only [↓steady_upd]) | with_reducible apply steady_ite | with_reducible apply steady_when | with_reducible apply steady_foldl | with_reducible refine Steady.trans ?_ (eopPos_steady _ _ _ _ _ _ _ _ _ _ _ _ (by assumption)) | with_reducible refine Steady.trans ?_ (ih _ _ (by assumption)) | with_reducible apply steady_cond | intro _ | split | (grind [eopPos_steady, Steady.trans, Steady.refl])); done)

theorem eopCore_steady (s : State) (i : Issue) (key : Nat) (c : Core) : (∀ x0, (eopCore s i key c) = .ok x0 → Steady s x0) := by
  unfold eopCore
  first
  | (grind [readDesc_steady, readTile_steady, batchValues_steady, putStream_steady, latchTile_steady, poisonEntries_steady, eopLoop_steady, modCore_steady, endRun_steady, Steady.trans, Steady.refl])
  | (intros; rename_i hx; (try dsimp only at hx); (repeat' split at hx) <;> first | contradiction | (cases hx; done) | (cases hx; (repeat' first | with_reducible exact Steady.refl _ | (simp (disch := with_reducible rfl) only [↓steady_upd]) | with_reducible apply steady_ite | with_reducible apply steady_when | with_reducible apply steady_foldl | with_reducible refine Steady.trans ?_ (readDesc_steady _ _ _ _ _ _ (by assumption)) | with_reducible refine Steady.trans ?_ (readTile_steady _ _ _ _ _ _ _ _ (by assumption)) | with_reducible refine Steady.trans ?_ (batchValues_steady _ _ _ _ _ _ _ _ (by assumption)) | with_reducible refine Steady.trans ?_ (putStream_steady ..) | with_reducible refine Steady.trans ?_ (latchTile_steady ..) | with_reducible refine Steady.trans ?_ (poisonEntries_steady ..) | with_reducible refine Steady.trans ?_ (eopLoop_steady _ _ _ _ _ _ _ _ _ _ _ _ _ _ _ (by assumption)) | with_reducible refine Steady.trans ?_ (modCore_steady ..) | with_reducible refine Steady.trans ?_ (endRun_steady ..) | with_reducible apply steady_cond | intro _ | split | (grind [readDesc_steady, readTile_steady, batchValues_steady, putStream_steady, latchTile_steady, poisonEntries_steady, eopLoop_steady, modCore_steady, endRun_steady, Steady.trans, Steady.refl])); done))

unseal tencStore in
theorem tencStore_steady (s : State) (i : Issue) (key sp a : Nat) (ps : List (Nat × List Byte)) :
    (∀ x0, (tencStore s i key sp a ps) = .ok x0 → Steady s x0) := by
  induction ps generalizing s with
  | nil => intro x hx; unfold tencStore at hx; cases hx; exact Steady.refl _
  | cons e r ih =>
    intro x hx
    unfold tencStore at hx
    split at hx
    · exact ih _ _ hx
    · split at hx
      · contradiction
      · rename_i h1
        exact (coreWrite_steady _ _ _ _ _ _ _ h1).trans (ih _ _ hx)

theorem tencValuesRun_steady (s : State) (i : Issue) (key : Nat) (oa : Nat) (oidx : Nat) (c : Core) (so : SDesc) (x : Cx) (h
  : Word) (bs : List Byte) (ps : List Pos) : (∀ x0, (tencValuesRun s i key oa oidx c so x h bs ps) = .ok x0 → Steady s x0) :=
  by
  unfold tencValuesRun
  first
  | (grind [tencStore_steady, putStream_steady, raiseFlags_steady, putCx_steady, Steady.trans, Steady.refl])
  | (intros; rename_i hx; (try dsimp only at hx); (repeat' split at hx) <;> first | contradiction | (cases hx; done) | (cases hx; (repeat' first | with_reducible exact Steady.refl _ | (simp (disch := with_reducible rfl) only [↓steady_upd]) | with_reducible apply steady_ite | with_reducible apply steady_when | with_reducible apply steady_foldl | with_reducible refine Steady.trans ?_ (tencStore_steady _ _ _ _ _ _ _ (by assumption)) | with_reducible refine Steady.trans ?_ (putStream_steady ..) | with_reducible refine Steady.trans ?_ (raiseFlags_steady ..) | with_reducible refine Steady.trans ?_ (putCx_steady ..) | with_reducible apply steady_cond | intro _ | split | (grind [tencStore_steady, putStream_steady, raiseFlags_steady, putCx_steady, Steady.trans, Steady.refl])); done))

unseal tencCore in
theorem tencCore_steady (s : State) (i : Issue) (key : Nat) (c : Core) : (∀ x0, (tencCore s i key c) = .ok x0 → Steady s x0) := by
  unfold tencCore
  intros; rename_i hx
  dsimp only at hx
  split at hx
  · contradiction
  · split at hx
    · contradiction
    · rename_i h bs s1 h1
      have a := readTile_steady _ _ _ _ _ _ _ _ h1
      refine Steady.trans (a.trans (putStream_steady s1 key (sf i 14 4) (afterTile (strOf c (sf i 14 4)) (ciOf key) (tileLen h)))) ?_
      repeat' split at hx
      all_goals first
        | contradiction
        | (cases hx; exact Steady.refl _)
        | (cases hx; exact latchTile_steady ..)
        | exact tencValuesRun_steady _ _ _ _ _ _ _ _ _ _ _ _ hx
        | (cases hx; exact putCx_steady ..)
        | (rename_i h2; cases hx
           exact ((putCx_steady _ _ _ _).trans (coreWrite_steady _ _ _ _ _ _ _ h2)).trans (putStream_steady ..))

end Sys2Proof.Machine
end

