-- ==== Sys2Proof/Laws/Steady/Bundle.lean ====
section
/-! SUPPORT. `Steady` of the functions of Machine/Bundle.lean. -/

set_option Elab.async false

namespace Sys2Proof.Machine

seal failStep modCore modQueen raisePoison advanceQueen skipNops setSem waitRun loopRun coreFails waitPass runCores
  waitReleaseRun waitTimeout issueAt applyStop evclrRun runSlot vsetRun finishControl signalRun slotFinish endProgramRun
  runControl stepbRun queenFault done recomputeHealth spareUnavailable readsMet

unseal skipNops in
theorem skipNops_steady (s : State) (l : Launch) (q : Nat) (a : Nat) : Steady s (skipNops s l q a) := by
  induction a generalizing s with
  | zero => unfold skipNops; exact Steady.refl s
  | succ k ih =>
    unfold skipNops
    exact steady_ite _ ((advanceQueen_steady ..).trans (ih _)) (Steady.refl s)

theorem issueAt_steady (s : State) (q : Nat) (k : Nat) (op : Nat) : (∀ x00 x01, (issueAt s q k op) = some (x00, x01) → Steady
  s x00) := by
  unfold issueAt
  first
  | (grind [skipNops_steady, Steady.trans, Steady.refl])
  | (intros; rename_i hx; (try dsimp only at hx); (repeat' split at hx) <;> first | contradiction | (cases hx; done) | (cases hx; (repeat' first | with_reducible exact Steady.refl _ | (simp (disch := with_reducible rfl) only [↓steady_upd]) | with_reducible apply steady_ite | with_reducible apply steady_when | with_reducible apply steady_foldl | with_reducible refine Steady.trans ?_ (skipNops_steady ..) | with_reducible apply steady_cond | intro _ | split | (grind [skipNops_steady, Steady.trans, Steady.refl])); done))

theorem coreFails_steady (s : State) (ph : Nat) (k : Nat) : Steady s (coreFails s ph k) := by
  unfold coreFails
  try dsimp only
  repeat' first
      | with_reducible exact Steady.refl _ | (simp (disch := with_reducible rfl) only [↓steady_upd])
      | with_reducible apply steady_ite | with_reducible apply steady_when | with_reducible apply steady_foldl
      | with_reducible refine Steady.trans ?_ (raisePoison_steady ..) | with_reducible apply steady_cond | intro _ | split
      | (grind [raisePoison_steady, Steady.trans, Steady.refl])

theorem spareUnavailable_steady (s : State) (ph : Nat) : Steady s (spareUnavailable s ph) := by
  unfold spareUnavailable
  try dsimp only
  repeat' first
      | with_reducible exact Steady.refl _ | (simp (disch := with_reducible rfl) only [↓steady_upd])
      | with_reducible apply steady_ite | with_reducible apply steady_when | with_reducible apply steady_foldl
      | with_reducible refine Steady.trans ?_ (recomputeHealth_steady ..) | with_reducible apply steady_cond | intro _
      | split | (grind [recomputeHealth_steady, Steady.trans, Steady.refl])

unseal applyStop in
theorem applyStop_steady (s : State) (key : Nat) (e : Stop) : Steady s (applyStop s key e) := by
  cases e with
  | fail f m => exact (readsMet_steady s m).trans (failStep_steady ..)
  | storeDbe m => exact (readsMet_steady s m).trans (raisePoison_steady ..)
  | coreFail m =>
    unfold applyStop
    dsimp only
    split
    · exact (readsMet_steady s m).trans (coreFails_steady ..)
    · exact ((readsMet_steady s m).trans (spareUnavailable_steady ..)).trans (raisePoison_steady ..)

unseal runCores in
theorem runCores_steady (f : SlotFn) (i : Issue) (snap : List Core) (s : State) (a : List Nat) (hf : ∀ t i k c x, f t i k c =
  .ok x → Steady t x) : (∀ x0, (runCores f i snap s a) = .ok x0 → Steady s x0) := by
  induction a generalizing s with
  | nil => intros; rename_i hx; unfold runCores at hx; cases hx; exact Steady.refl s
  | cons k r ih =>
    intros; rename_i hx
    unfold runCores at hx
    split at hx
    · contradiction
    · rename_i s1 h1
      exact (hf _ _ _ _ _ h1).trans (ih _ _ hx)

theorem slotFinish_steady (s : State) (q : Nat) (k : Nat) (snap : List Core) (b : BitVec 256) : Steady s (slotFinish s q k
  snap b) := by
  unfold slotFinish
  try dsimp only
  repeat' first
      | with_reducible exact Steady.refl _ | (simp (disch := with_reducible rfl) only [↓steady_upd])
      | with_reducible apply steady_ite | with_reducible apply steady_when | with_reducible apply steady_foldl
      | with_reducible refine Steady.trans ?_ (modQueen_steady ..)
      | with_reducible refine Steady.trans ?_ (advanceQueen_steady ..) | with_reducible apply steady_cond | intro _ | split
      | (grind [modQueen_steady, advanceQueen_steady, Steady.trans, Steady.refl])

unseal runCores in
theorem steady_of_runCores_error (f : SlotFn) (i : Issue) (snap : List Core) (s : State) (l : List Nat)
    (hf : ∀ t i k c x, f t i k c = .ok x → Steady t x) : ∀ x, runCores f i snap s l = .error x → Steady s x.2.2 := by
  induction l generalizing s with
  | nil => intro x hx; simp [runCores] at hx
  | cons k r ih =>
    intro x hx
    unfold runCores at hx
    split at hx
    · cases hx
      exact Steady.refl s
    · rename_i s1 h1
      exact (hf _ _ _ _ _ h1).trans (ih _ _ hx)

unseal runSlot in
theorem runSlot_steady (q : Nat) (k : Nat) (op : Nat) (f : SlotFn) (s : State) (hf : ∀ t i k c x, f t i k c = .ok x → Steady
  t x) : Steady s (runSlot q k op f s) := by
  unfold runSlot
  split
  · exact Steady.refl s
  · rename_i s1 i h1
    have a := issueAt_steady _ _ _ _ _ _ h1
    dsimp only
    split
    · rename_i h2
      exact (a.trans (steady_of_runCores_error _ _ _ _ _ hf _ h2)).trans (applyStop_steady ..)
    · rename_i s2 h2
      exact (a.trans (runCores_steady _ _ _ _ _ hf _ h2)).trans (slotFinish_steady ..)

unseal runControl in
theorem runControl_steady (q : Nat) (op : Nat) (f : State → Issue → State) (s : State) (hf : ∀ t i, Steady t (f t i)) :
  Steady s (runControl q op f s) := by
  unfold runControl
  split
  · exact Steady.refl s
  · rename_i s1 i h1
    exact (issueAt_steady _ _ _ _ _ _ h1).trans (hf _ _)

theorem finishControl_steady (s : State) (i : Issue) : Steady s (finishControl s i) := by
  unfold finishControl
  try dsimp only
  repeat' first
      | with_reducible exact Steady.refl _ | (simp (disch := with_reducible rfl) only [↓steady_upd])
      | with_reducible apply steady_ite | with_reducible apply steady_when | with_reducible apply steady_foldl
      | with_reducible refine Steady.trans ?_ (slotFinish_steady ..) | with_reducible apply steady_cond | intro _ | split
      | (grind [slotFinish_steady, Steady.trans, Steady.refl])

theorem queenFault_steady (s : State) (i : Issue) : Steady s (queenFault s i) := by
  unfold queenFault
  try dsimp only
  repeat' first
      | with_reducible exact Steady.refl _ | (simp (disch := with_reducible rfl) only [↓steady_upd])
      | with_reducible apply steady_ite | with_reducible apply steady_when | with_reducible apply steady_foldl
      | with_reducible refine Steady.trans ?_ (failStep_steady ..) | with_reducible apply steady_cond | intro _ | split
      | (grind [failStep_steady, Steady.trans, Steady.refl])

theorem loopRun_steady (s : State) (i : Issue) : Steady s (loopRun s i) := by
  unfold loopRun
  try dsimp only
  repeat' first
      | with_reducible exact Steady.refl _ | (simp (disch := with_reducible rfl) only [↓steady_upd])
      | with_reducible apply steady_ite | with_reducible apply steady_when | with_reducible apply steady_foldl
      | with_reducible refine Steady.trans ?_ (queenFault_steady ..)
      | with_reducible refine Steady.trans ?_ (modQueen_steady ..) | with_reducible apply steady_cond | intro _ | split
      | (grind [queenFault_steady, modQueen_steady, Steady.trans, Steady.refl])

theorem setSem_steady (s : State) (q : Nat) (n : Nat) (v : Nat) : Steady s (setSem s q n v) := by
  unfold setSem
  try dsimp only
  repeat' first
      | with_reducible exact Steady.refl _ | (simp (disch := with_reducible rfl) only [↓steady_upd])
      | with_reducible apply steady_ite | with_reducible apply steady_when | with_reducible apply steady_foldl
      | with_reducible refine Steady.trans ?_ (modQueen_steady ..) | with_reducible apply steady_cond | intro _ | split
      | (grind [modQueen_steady, Steady.trans, Steady.refl])

theorem waitPass_steady (s : State) (i : Issue) : Steady s (waitPass s i) := by
  unfold waitPass
  try dsimp only
  repeat' first
      | with_reducible exact Steady.refl _ | (simp (disch := with_reducible rfl) only [↓steady_upd])
      | with_reducible apply steady_ite | with_reducible apply steady_when | with_reducible apply steady_foldl
      | with_reducible refine Steady.trans ?_ (finishControl_steady ..)
      | with_reducible refine Steady.trans ?_ (modQueen_steady ..) | with_reducible refine Steady.trans ?_ (setSem_steady ..)
      | with_reducible apply steady_cond | intro _ | split
      | (grind [finishControl_steady, modQueen_steady, setSem_steady, Steady.trans, Steady.refl])

theorem waitRun_steady (s : State) (i : Issue) : Steady s (waitRun s i) := by
  unfold waitRun
  try dsimp only
  repeat' first
      | with_reducible exact Steady.refl _ | (simp (disch := with_reducible rfl) only [↓steady_upd])
      | with_reducible apply steady_ite | with_reducible apply steady_when | with_reducible apply steady_foldl
      | with_reducible refine Steady.trans ?_ (waitPass_steady ..)
      | with_reducible refine Steady.trans ?_ (modQueen_steady ..) | with_reducible apply steady_cond | intro _ | split
      | (grind [waitPass_steady, modQueen_steady, Steady.trans, Steady.refl])

theorem waitReleaseRun_steady (s : State) (i : Issue) : Steady s (waitReleaseRun s i) := by
  unfold waitReleaseRun
  try dsimp only
  repeat' first
      | with_reducible exact Steady.refl _ | (simp (disch := with_reducible rfl) only [↓steady_upd])
      | with_reducible apply steady_ite | with_reducible apply steady_when | with_reducible apply steady_foldl
      | with_reducible refine Steady.trans ?_ (waitPass_steady ..) | with_reducible apply steady_cond | intro _ | split
      | (grind [waitPass_steady, Steady.trans, Steady.refl])

theorem signalRun_steady (s : State) (i : Issue) : Steady s (signalRun s i) := by
  unfold signalRun
  try dsimp only
  repeat' first
      | with_reducible exact Steady.refl _ | (simp (disch := with_reducible rfl) only [↓steady_upd])
      | with_reducible apply steady_ite | with_reducible apply steady_when | with_reducible apply steady_foldl
      | with_reducible refine Steady.trans ?_ (queenFault_steady ..)
      | with_reducible refine Steady.trans ?_ (finishControl_steady ..)
      | with_reducible refine Steady.trans ?_ (setSem_steady ..) | with_reducible apply steady_cond | intro _ | split
      | (grind [queenFault_steady, finishControl_steady, setSem_steady, Steady.trans, Steady.refl])

theorem evclrRun_steady (s : State) (i : Issue) : Steady s (evclrRun s i) := by
  unfold evclrRun
  try dsimp only
  repeat' first
      | with_reducible exact Steady.refl _ | (simp (disch := with_reducible rfl) only [↓steady_upd])
      | with_reducible apply steady_ite | with_reducible apply steady_when | with_reducible apply steady_foldl
      | with_reducible refine Steady.trans ?_ (finishControl_steady ..)
      | with_reducible refine Steady.trans ?_ (modQueen_steady ..) | with_reducible apply steady_cond | intro _ | split
      | (grind [finishControl_steady, modQueen_steady, Steady.trans, Steady.refl])

theorem vsetRun_steady (s : State) (i : Issue) : Steady s (vsetRun s i) := by
  unfold vsetRun
  try dsimp only
  repeat' first
      | with_reducible exact Steady.refl _ | (simp (disch := with_reducible rfl) only [↓steady_upd])
      | with_reducible apply steady_ite | with_reducible apply steady_when | with_reducible apply steady_foldl
      | with_reducible refine Steady.trans ?_ (finishControl_steady ..)
      | with_reducible refine Steady.trans ?_ (modCore_steady ..) | with_reducible apply steady_cond | intro _ | split
      | (grind [finishControl_steady, modCore_steady, Steady.trans, Steady.refl])

theorem stepbRun_steady (s : State) (i : Issue) : Steady s (stepbRun s i) := by
  unfold stepbRun
  try dsimp only
  repeat' first
      | with_reducible exact Steady.refl _ | (simp (disch := with_reducible rfl) only [↓steady_upd])
      | with_reducible apply steady_ite | with_reducible apply steady_when | with_reducible apply steady_foldl
      | with_reducible refine Steady.trans ?_ (modQueen_steady ..) | with_reducible apply steady_cond | intro _ | split
      | (grind [modQueen_steady, Steady.trans, Steady.refl])

theorem endProgramRun_steady (s : State) (i : Issue) : Steady s (endProgramRun s i) := by
  unfold endProgramRun
  try dsimp only
  repeat' first
      | with_reducible exact Steady.refl _ | (simp (disch := with_reducible rfl) only [↓steady_upd])
      | with_reducible apply steady_ite | with_reducible apply steady_when | with_reducible apply steady_foldl
      | with_reducible refine Steady.trans ?_ (modQueen_steady ..) | with_reducible apply steady_cond | intro _ | split
      | (grind [modQueen_steady, Steady.trans, Steady.refl])

theorem waitTimeout_steady (cl : Option (Fin 32)) (ch : Option (Fin 320)) (s : State) : Steady s (waitTimeout cl ch s) := by
  unfold waitTimeout
  try dsimp only
  repeat' first
      | with_reducible exact Steady.refl _ | (simp (disch := with_reducible rfl) only [↓steady_upd])
      | with_reducible apply steady_ite | with_reducible apply steady_when | with_reducible apply steady_foldl
      | with_reducible refine Steady.trans ?_ (raisePoison_steady ..) | with_reducible apply steady_cond | intro _ | split
      | (grind [raisePoison_steady, Steady.trans, Steady.refl])

end Sys2Proof.Machine
end

