-- ==== Sys2Proof/Laws/Steady/Upkeep.lean ====
section
/-! SUPPORT. `Steady` of the functions of Machine/Upkeep.lean. -/

set_option Elab.async false

namespace Sys2Proof.Machine

seal countN recomputeHealth modQueen raisePoison reloadResidents coreFails coreSpareMap queenLockstepMismatch retireCluster
  clusterFails replaceCore sparePatrolFail spareUnavailable storeWalk patrolCore mapSpare corePatrol done

theorem retireCluster_steady (s : State) (q : Nat) : Steady s (retireCluster s q) := by
  unfold retireCluster
  try dsimp only
  repeat' first
      | with_reducible exact Steady.refl _ | (simp (disch := with_reducible rfl) only [↓steady_upd])
      | with_reducible apply steady_ite | with_reducible apply steady_when | with_reducible apply steady_foldl
      | with_reducible refine Steady.trans ?_ (modQueen_steady ..)
      | with_reducible refine Steady.trans ?_ (recomputeHealth_steady ..) | with_reducible apply steady_cond | intro _
      | split | (grind [modQueen_steady, recomputeHealth_steady, Steady.trans, Steady.refl])

unseal mapSpare in
theorem mapSpare_steady (s : State) (q : Nat) (i : Nat) : Steady s (mapSpare s q i) := by
  unfold mapSpare
  dsimp only
  refine Steady.trans ?_ (recomputeHealth_steady ..)
  apply steady_mem (Steady.refl s) <;> first
    | with_reducible rfl
    | with_reducible exact id
    | (intro h; exact tblWf_foldl _ _ _ _ (fun u e hu => memWf_setByte u _ _ hu) (memWf_filter _ _ h))

theorem replaceCore_steady (s : State) (q : Nat) (i : Nat) : Steady s (replaceCore s q i) := by
  unfold replaceCore
  try dsimp only
  repeat' first
      | with_reducible exact Steady.refl _ | (simp (disch := with_reducible rfl) only [↓steady_upd])
      | with_reducible apply steady_ite | with_reducible apply steady_when | with_reducible apply steady_foldl
      | with_reducible refine Steady.trans ?_ (mapSpare_steady ..)
      | with_reducible refine Steady.trans ?_ (retireCluster_steady ..) | with_reducible apply steady_cond | intro _ | split
      | (grind [mapSpare_steady, retireCluster_steady, Steady.trans, Steady.refl])

theorem coreSpareMap_steady (q : Nat) (i : Nat) (s : State) : Steady s (coreSpareMap q i s) := by
  unfold coreSpareMap
  try dsimp only
  repeat' first
      | with_reducible exact Steady.refl _ | (simp (disch := with_reducible rfl) only [↓steady_upd])
      | with_reducible apply steady_ite | with_reducible apply steady_when | with_reducible apply steady_foldl
      | with_reducible refine Steady.trans ?_ (replaceCore_steady ..)
      | with_reducible refine Steady.trans ?_ (reloadResidents_steady ..) | with_reducible apply steady_cond | intro _
      | split | (grind [replaceCore_steady, reloadResidents_steady, Steady.trans, Steady.refl])

theorem clusterFails_steady (s : State) (q : Nat) : Steady s (clusterFails s q) := by
  unfold clusterFails
  try dsimp only
  repeat' first
      | with_reducible exact Steady.refl _ | (simp (disch := with_reducible rfl) only [↓steady_upd])
      | with_reducible apply steady_ite | with_reducible apply steady_when | with_reducible apply steady_foldl
      | with_reducible refine Steady.trans ?_ (retireCluster_steady ..)
      | with_reducible refine Steady.trans ?_ (raisePoison_steady ..) | with_reducible apply steady_cond | intro _ | split
      | (grind [retireCluster_steady, raisePoison_steady, Steady.trans, Steady.refl])

theorem patrolCore_steady (ph : Nat) (s : State) (k : Nat) : Steady s (patrolCore ph s k) := by
  unfold patrolCore
  try dsimp only
  repeat' first
      | with_reducible exact Steady.refl _ | (simp (disch := with_reducible rfl) only [↓steady_upd])
      | with_reducible apply steady_ite | with_reducible apply steady_when | with_reducible apply steady_foldl
      | with_reducible refine Steady.trans ?_ (coreFails_steady ..)
      | with_reducible refine Steady.trans ?_ (spareUnavailable_steady ..) | with_reducible apply steady_cond | intro _
      | split | (grind [coreFails_steady, spareUnavailable_steady, Steady.trans, Steady.refl])

theorem corePatrol_steady (ph : Nat) (failed : List (Fin 17)) (queenFailed : Bool) (s : State) : Steady s (corePatrol ph
  failed queenFailed s) := by
  unfold corePatrol
  try dsimp only
  repeat' first
      | with_reducible exact Steady.refl _ | (simp (disch := with_reducible rfl) only [↓steady_upd])
      | with_reducible apply steady_ite | with_reducible apply steady_when | with_reducible apply steady_foldl
      | with_reducible refine Steady.trans ?_ (modQueen_steady ..)
      | with_reducible refine Steady.trans ?_ (patrolCore_steady ..)
      | with_reducible refine Steady.trans ?_ (clusterFails_steady ..) | with_reducible apply steady_cond | intro _ | split
      | (grind [modQueen_steady, patrolCore_steady, clusterFails_steady, Steady.trans, Steady.refl])

theorem sparePatrolFail_steady (ph : Nat) (s : State) : Steady s (sparePatrolFail ph s) := by
  unfold sparePatrolFail
  try dsimp only
  repeat' first
      | with_reducible exact Steady.refl _ | (simp (disch := with_reducible rfl) only [↓steady_upd])
      | with_reducible apply steady_ite | with_reducible apply steady_when | with_reducible apply steady_foldl
      | with_reducible refine Steady.trans ?_ (spareUnavailable_steady ..) | with_reducible apply steady_cond | intro _
      | split | (grind [spareUnavailable_steady, Steady.trans, Steady.refl])

theorem storeWalk_steady (s : State) : Steady s (storeWalk s) := by
  unfold storeWalk
  try dsimp only
  repeat' first
      | with_reducible exact Steady.refl _ | (simp (disch := with_reducible rfl) only [↓steady_upd])
      | with_reducible apply steady_ite | with_reducible apply steady_when | with_reducible apply steady_foldl
      | with_reducible refine Steady.trans ?_ (countN_steady ..)
      | with_reducible refine Steady.trans ?_ (raisePoison_steady ..) | with_reducible apply steady_cond | intro _ | split
      | (grind [countN_steady, raisePoison_steady, Steady.trans, Steady.refl])

theorem queenLockstepMismatch_steady (q : Nat) (s : State) : Steady s (queenLockstepMismatch q s) := by
  unfold queenLockstepMismatch
  try dsimp only
  repeat' first
      | with_reducible exact Steady.refl _ | (simp (disch := with_reducible rfl) only [↓steady_upd])
      | with_reducible apply steady_ite | with_reducible apply steady_when | with_reducible apply steady_foldl
      | with_reducible refine Steady.trans ?_ (clusterFails_steady ..) | with_reducible apply steady_cond | intro _ | split
      | (grind [clusterFails_steady, Steady.trans, Steady.refl])

end Sys2Proof.Machine
end

