-- ==== Sys2Proof/Laws/Steady/Image.lean ====
section
/-! SUPPORT. `Steady` of the functions of Machine/Image.lean. -/

set_option Elab.async false

namespace Sys2Proof.Machine

seal modChan startChannel safeEntry spaceRead metaFix readFailed imageTouch imageReads

theorem imageTouch_steady (s : State) (a : Nat) (n : Nat) : Steady s (imageTouch s a n) := by
  unfold imageTouch
  try dsimp only
  repeat' first
      | with_reducible exact Steady.refl _ | (simp (disch := with_reducible rfl) only [↓steady_upd])
      | with_reducible apply steady_ite | with_reducible apply steady_when | with_reducible apply steady_foldl
      | with_reducible refine Steady.trans ?_ (safeEntry_steady ..)
      | with_reducible refine Steady.trans ?_ (spaceRead_steady ..)
      | with_reducible refine Steady.trans ?_ (metaFix_steady ..)
      | with_reducible refine Steady.trans ?_ (readFailed_steady ..) | with_reducible apply steady_cond | intro _ | split
      | (grind [safeEntry_steady, spaceRead_steady, metaFix_steady, readFailed_steady, Steady.trans, Steady.refl])

theorem imageReads_steady (s : State) (a : Nat) (hn : Nat) (len : List Byte → Option Nat) : Steady s (imageReads s a hn len)
  := by
  unfold imageReads
  try dsimp only
  repeat' first
      | with_reducible exact Steady.refl _ | (simp (disch := with_reducible rfl) only [↓steady_upd])
      | with_reducible apply steady_ite | with_reducible apply steady_when | with_reducible apply steady_foldl
      | with_reducible refine Steady.trans ?_ (imageTouch_steady ..) | with_reducible apply steady_cond | intro _ | split
      | (grind [imageTouch_steady, Steady.trans, Steady.refl])

theorem foragerReads_steady (s : State) (ch : Nat) (a : Nat) : Steady s (foragerReads s ch a) := by
  unfold foragerReads
  try dsimp only
  repeat' first
      | with_reducible exact Steady.refl _ | (simp (disch := with_reducible rfl) only [↓steady_upd])
      | with_reducible apply steady_ite | with_reducible apply steady_when | with_reducible apply steady_foldl
      | with_reducible refine Steady.trans ?_ (imageReads_steady ..) | with_reducible apply steady_cond | intro _ | split
      | (grind [imageReads_steady, Steady.trans, Steady.refl])

theorem startChannel_steady (s : State) (ch : Nat) (key : Nat) (im : FImage) : Steady s (startChannel s ch key im) := by
  unfold startChannel
  try dsimp only
  repeat' first
      | with_reducible exact Steady.refl _ | (simp (disch := with_reducible rfl) only [↓steady_upd])
      | with_reducible apply steady_ite | with_reducible apply steady_when | with_reducible apply steady_foldl
      | with_reducible refine Steady.trans ?_ (modChan_steady ..) | with_reducible apply steady_cond | intro _ | split
      | (grind [modChan_steady, Steady.trans, Steady.refl])

theorem coreReads_steady (s : State) (a : Nat) : Steady s (coreReads s a) := by
  unfold coreReads
  try dsimp only
  repeat' first
      | with_reducible exact Steady.refl _ | (simp (disch := with_reducible rfl) only [↓steady_upd])
      | with_reducible apply steady_ite | with_reducible apply steady_when | with_reducible apply steady_foldl
      | with_reducible refine Steady.trans ?_ (imageReads_steady ..) | with_reducible apply steady_cond | intro _ | split
      | (grind [imageReads_steady, Steady.trans, Steady.refl])

end Sys2Proof.Machine
end

