-- ==== Sys2Proof/Laws/Steady/Forager.lean ====
section
/-! SUPPORT. `Steady` of the functions of Machine/Forager.lean. -/

set_option Elab.async false

namespace Sys2Proof.Machine

seal originateForager spaceRead failStep modChan raisePoison channelWrite foragerSignalNow readFailed setSem chanOn chanFault
  foragerWaitRelease chanIndex foragerEnd foragerCount foragerTimeout sendReads foragerWaitPass foragerLoop sendRead
  moveComplete moveAdvance foragerSignal moveRun moveEnd foragerWait move safeEntry metaFix sendIndexRead done

/-- Every state that the read of an index or count word comes to keeps what `Steady` says. -/
def indexSteady (s : State) : IndexRes → Prop
  | .word _ t => Steady s t
  | .fault _ => True
  | .failed t => Steady s t
  | .sent t => Steady s t

theorem chanOn_steady (s : State) (ch : Nat) : Steady s (chanOn s ch) := by
  unfold chanOn
  try dsimp only
  repeat' first
      | with_reducible exact Steady.refl _ | (simp (disch := with_reducible rfl) only [↓steady_upd])
      | with_reducible apply steady_ite | with_reducible apply steady_when | with_reducible apply steady_foldl
      | with_reducible refine Steady.trans ?_ (modChan_steady ..) | with_reducible apply steady_cond | intro _ | split
      | (grind [modChan_steady, Steady.trans, Steady.refl])

theorem chanFault_steady (s : State) (ch : Nat) (cause : Nat) : Steady s (chanFault s ch cause) := by
  unfold chanFault
  try dsimp only
  repeat' first
      | with_reducible exact Steady.refl _ | (simp (disch := with_reducible rfl) only [↓steady_upd])
      | with_reducible apply steady_ite | with_reducible apply steady_when | with_reducible apply steady_foldl
      | with_reducible refine Steady.trans ?_ (failStep_steady ..)
      | with_reducible refine Steady.trans ?_ (modChan_steady ..) | with_reducible apply steady_cond | intro _ | split
      | (grind [failStep_steady, modChan_steady, Steady.trans, Steady.refl])

theorem sendIndexRead_steady (s : State) (ch : Nat) (a : Nat) (cls : Nat) : Steady s (sendIndexRead s ch a cls) := by
  unfold sendIndexRead
  try dsimp only
  repeat' first
      | with_reducible exact Steady.refl _ | (simp (disch := with_reducible rfl) only [↓steady_upd])
      | with_reducible apply steady_ite | with_reducible apply steady_when | with_reducible apply steady_foldl
      | with_reducible refine Steady.trans ?_ (originateForager_steady ..)
      | with_reducible refine Steady.trans ?_ (modChan_steady ..) | with_reducible apply steady_cond | intro _ | split
      | (grind [originateForager_steady, modChan_steady, Steady.trans, Steady.refl])

unseal chanIndex in
theorem chanIndex_steady (s : State) (ch i cls : Nat) : indexSteady s (chanIndex s ch i cls) := by
  unfold chanIndex
  dsimp only
  have b := (metaFix_steady s (chanCur s ch i) 4).trans (spaceRead_steady (metaFix s (chanCur s ch i) 4) (chanCur s ch i) 4)
  repeat' split
  all_goals first
    | exact True.intro
    | (rename_i h; rw [h] at b; exact b.trans (readFailed_steady ..))
    | (rename_i h; rw [h] at b; exact b)
    | exact modChan_steady ..
    | exact safeEntry_steady ..
    | exact sendIndexRead_steady ..

theorem sendRead_steady (s : State) (ch : Nat) (eid : Nat) (cls : Nat) (src : Nat) (n : Nat) (r : FRead) : Steady s (sendRead
  s ch eid cls src n r) := by
  unfold sendRead
  try dsimp only
  repeat' first
      | with_reducible exact Steady.refl _ | (simp (disch := with_reducible rfl) only [↓steady_upd])
      | with_reducible apply steady_ite | with_reducible apply steady_when | with_reducible apply steady_foldl
      | with_reducible refine Steady.trans ?_ (originateForager_steady ..)
      | with_reducible refine Steady.trans ?_ (modChan_steady ..) | with_reducible apply steady_cond | intro _ | split
      | (grind [originateForager_steady, modChan_steady, Steady.trans, Steady.refl])

unseal sendReads in
theorem sendReads_steady (s : State) (ch : Nat) (eid : Nat) (cls : Nat) (src : Nat) (sfix : Bool) (r : FRead) (a : Nat) (a1 :
  Nat) : Steady s (sendReads s ch eid cls src sfix r a a1) := by
  induction a1 generalizing s src r a with
  | zero => cases a <;> exact Steady.refl s
  | succ k ih =>
    cases a with
    | zero => exact Steady.refl s
    | succ n => exact (sendRead_steady ..).trans (ih ..)

theorem moveAdvance_steady (s : State) (ch : Nat) : Steady s (moveAdvance s ch) := by
  unfold moveAdvance
  try dsimp only
  repeat' first
      | with_reducible exact Steady.refl _ | (simp (disch := with_reducible rfl) only [↓steady_upd])
      | with_reducible apply steady_ite | with_reducible apply steady_when | with_reducible apply steady_foldl
      | with_reducible refine Steady.trans ?_ (modChan_steady ..) | with_reducible apply steady_cond | intro _ | split
      | (grind [modChan_steady, Steady.trans, Steady.refl])

theorem moveEnd_steady (s : State) (ch : Nat) : Steady s (moveEnd s ch) := by
  unfold moveEnd
  try dsimp only
  repeat' first
      | with_reducible exact Steady.refl _ | (simp (disch := with_reducible rfl) only [↓steady_upd])
      | with_reducible apply steady_ite | with_reducible apply steady_when | with_reducible apply steady_foldl
      | with_reducible refine Steady.trans ?_ (chanOn_steady ..)
      | with_reducible refine Steady.trans ?_ (moveAdvance_steady ..) | with_reducible apply steady_cond | intro _ | split
      | (grind [chanOn_steady, moveAdvance_steady, Steady.trans, Steady.refl])

theorem moveRun_steady (s : State) (ch : Nat) (m : MoveArgs) : Steady s (moveRun s ch m) := by
  unfold moveRun
  try dsimp only
  repeat' first
      | with_reducible exact Steady.refl _ | (simp (disch := with_reducible rfl) only [↓steady_upd])
      | with_reducible apply steady_ite | with_reducible apply steady_when | with_reducible apply steady_foldl
      | with_reducible refine Steady.trans ?_ (moveEnd_steady ..)
      | with_reducible refine Steady.trans ?_ (safeEntry_steady ..)
      | with_reducible refine Steady.trans ?_ (metaFix_steady ..)
      | with_reducible refine Steady.trans ?_ (sendRead_steady ..)
      | with_reducible refine Steady.trans ?_ (sendReads_steady ..)
      | with_reducible refine Steady.trans ?_ (modChan_steady ..)
      | with_reducible refine Steady.trans ?_ (spaceRead_steady ..)
      | with_reducible refine Steady.trans ?_ (readFailed_steady ..)
      | with_reducible refine Steady.trans ?_ (channelWrite_steady ..) | with_reducible apply steady_cond | intro _
      | split
      | (grind [moveEnd_steady, safeEntry_steady, metaFix_steady, sendRead_steady, sendReads_steady, modChan_steady, spaceRead_steady, readFailed_steady, channelWrite_steady, Steady.trans, Steady.refl])

unseal move in
theorem move_steady (ch : Nat) (s : State) : Steady s (move ch s) := by
  unfold move
  refine steady_ite _ (Steady.refl s) (steady_ite _ ?_ ?_)
  · have b := chanIndex_steady s ch (fld (chanWord s ch 0) 10 3) (fld (chanWord s ch 0) 20 3)
    split <;> rename_i h <;> rw [h] at b
    · exact chanFault_steady ..
    · exact b
    · exact b
    · exact b.trans (steady_ite _ (chanFault_steady ..) (moveRun_steady ..))
  · exact steady_ite _ (chanFault_steady ..) (moveRun_steady ..)

theorem moveComplete_steady (ch : Nat) (s : State) : Steady s (moveComplete ch s) := by
  unfold moveComplete
  try dsimp only
  repeat' first
      | with_reducible exact Steady.refl _ | (simp (disch := with_reducible rfl) only [↓steady_upd])
      | with_reducible apply steady_ite | with_reducible apply steady_when | with_reducible apply steady_foldl
      | with_reducible refine Steady.trans ?_ (moveEnd_steady ..) | with_reducible apply steady_cond | intro _ | split
      | (grind [moveEnd_steady, Steady.trans, Steady.refl])

theorem foragerTimeout_steady (ch : Nat) (s : State) : Steady s (foragerTimeout ch s) := by
  unfold foragerTimeout
  try dsimp only
  repeat' first
      | with_reducible exact Steady.refl _ | (simp (disch := with_reducible rfl) only [↓steady_upd])
      | with_reducible apply steady_ite | with_reducible apply steady_when | with_reducible apply steady_foldl
      | with_reducible refine Steady.trans ?_ (raisePoison_steady ..)
      | with_reducible refine Steady.trans ?_ (modChan_steady ..) | with_reducible apply steady_cond | intro _ | split
      | (grind [raisePoison_steady, modChan_steady, Steady.trans, Steady.refl])

unseal foragerCount in
theorem foragerCount_steady (s : State) (ch : Nat) : indexSteady s (foragerCount s ch) := by
  unfold foragerCount
  dsimp only
  split
  · exact chanIndex_steady ..
  · exact Steady.refl s

unseal foragerLoop in
theorem foragerLoop_steady (ch : Nat) (s : State) : Steady s (foragerLoop ch s) := by
  unfold foragerLoop
  refine steady_ite _ (Steady.refl s) ?_
  dsimp only
  have b := foragerCount_steady s ch
  split <;> rename_i h <;> rw [h] at b
  · exact chanFault_steady ..
  · exact b
  · exact b
  · exact b.trans (steady_ite _ (modChan_steady ..) (modChan_steady ..))

theorem foragerWaitPass_steady (s : State) (ch : Nat) : Steady s (foragerWaitPass s ch) := by
  unfold foragerWaitPass
  try dsimp only
  repeat' first
      | with_reducible exact Steady.refl _ | (simp (disch := with_reducible rfl) only [↓steady_upd])
      | with_reducible apply steady_ite | with_reducible apply steady_when | with_reducible apply steady_foldl
      | with_reducible refine Steady.trans ?_ (chanOn_steady ..) | with_reducible refine Steady.trans ?_ (setSem_steady ..)
      | with_reducible apply steady_cond | intro _ | split
      | (grind [chanOn_steady, setSem_steady, Steady.trans, Steady.refl])

theorem foragerWait_steady (ch : Nat) (s : State) : Steady s (foragerWait ch s) := by
  unfold foragerWait
  try dsimp only
  repeat' first
      | with_reducible exact Steady.refl _ | (simp (disch := with_reducible rfl) only [↓steady_upd])
      | with_reducible apply steady_ite | with_reducible apply steady_when | with_reducible apply steady_foldl
      | with_reducible refine Steady.trans ?_ (modChan_steady ..)
      | with_reducible refine Steady.trans ?_ (chanFault_steady ..)
      | with_reducible refine Steady.trans ?_ (foragerWaitPass_steady ..) | with_reducible apply steady_cond | intro _
      | split | (grind [modChan_steady, chanFault_steady, foragerWaitPass_steady, Steady.trans, Steady.refl])

theorem foragerWaitRelease_steady (ch : Nat) (s : State) : Steady s (foragerWaitRelease ch s) := by
  unfold foragerWaitRelease
  try dsimp only
  repeat' first
      | with_reducible exact Steady.refl _ | (simp (disch := with_reducible rfl) only [↓steady_upd])
      | with_reducible apply steady_ite | with_reducible apply steady_when | with_reducible apply steady_foldl
      | with_reducible refine Steady.trans ?_ (foragerWaitPass_steady ..) | with_reducible apply steady_cond | intro _
      | split | (grind [foragerWaitPass_steady, Steady.trans, Steady.refl])

theorem foragerSignal_steady (ch : Nat) (s : State) : Steady s (foragerSignal ch s) := by
  unfold foragerSignal
  try dsimp only
  repeat' first
      | with_reducible exact Steady.refl _ | (simp (disch := with_reducible rfl) only [↓steady_upd])
      | with_reducible apply steady_ite | with_reducible apply steady_when | with_reducible apply steady_foldl
      | with_reducible refine Steady.trans ?_ (chanFault_steady ..)
      | with_reducible refine Steady.trans ?_ (foragerSignalNow_steady ..)
      | with_reducible refine Steady.trans ?_ (modChan_steady ..) | with_reducible refine Steady.trans ?_ (chanOn_steady ..)
      | with_reducible apply steady_cond | intro _ | split
      | (grind [chanFault_steady, foragerSignalNow_steady, modChan_steady, chanOn_steady, Steady.trans, Steady.refl])

theorem foragerEnd_steady (ch : Nat) (s : State) : Steady s (foragerEnd ch s) := by
  unfold foragerEnd
  try dsimp only
  repeat' first
      | with_reducible exact Steady.refl _ | (simp (disch := with_reducible rfl) only [↓steady_upd])
      | with_reducible apply steady_ite | with_reducible apply steady_when | with_reducible apply steady_foldl
      | with_reducible refine Steady.trans ?_ (modChan_steady ..) | with_reducible apply steady_cond | intro _ | split
      | (grind [modChan_steady, Steady.trans, Steady.refl])

end Sys2Proof.Machine
end

