-- ==== Sys2Proof/Laws/Steady/Coll.lean ====
section
/-! SUPPORT. `Steady` of the functions of Machine/Coll.lean. -/

set_option Elab.async false

namespace Sys2Proof.Machine

seal originateColl spaceRead originateDie readFailed delivered collSend sendUp sendResult modOp pump resultWrites sourceSend
  unitSend sendChunk modQueen dropOp failStep completeOp putResult tableRead opsFail opTable sourceOut toMember byCircuit
  toNode requestData sendData safeEntry metaFix done

theorem modOp_steady (s : State) (o : COp) (f : COp → COp) : Steady s (modOp s o f) := by
  unfold modOp
  try dsimp only
  repeat' first
      | with_reducible exact Steady.refl _ | (simp (disch := with_reducible rfl) only [↓steady_upd])
      | with_reducible apply steady_ite | with_reducible apply steady_when | with_reducible apply steady_foldl
      | with_reducible apply steady_cond | intro _ | split | (grind [Steady.trans, Steady.refl])

theorem putResult_steady (s : State) (g : Nat) (l : Nat) (seq : Nat) (st : Nat) : Steady s (putResult s g l seq st) := by
  unfold putResult
  try dsimp only
  repeat' first
      | with_reducible exact Steady.refl _ | (simp (disch := with_reducible rfl) only [↓steady_upd])
      | with_reducible apply steady_ite | with_reducible apply steady_when | with_reducible apply steady_foldl
      | with_reducible apply steady_cond | intro _ | split | (grind [Steady.trans, Steady.refl])

theorem dropOp_steady (s : State) (o : COp) : Steady s (dropOp s o) := by
  unfold dropOp
  try dsimp only
  repeat' first
      | with_reducible exact Steady.refl _ | (simp (disch := with_reducible rfl) only [↓steady_upd])
      | with_reducible apply steady_ite | with_reducible apply steady_when | with_reducible apply steady_foldl
      | with_reducible apply steady_cond | intro _ | split | (grind [Steady.trans, Steady.refl])

theorem completeOp_steady (s : State) (o : COp) : Steady s (completeOp s o) := by
  unfold completeOp
  try dsimp only
  repeat' first
      | with_reducible exact Steady.refl _ | (simp (disch := with_reducible rfl) only [↓steady_upd])
      | with_reducible apply steady_ite | with_reducible apply steady_when | with_reducible apply steady_foldl
      | with_reducible refine Steady.trans ?_ (modQueen_steady ..)
      | with_reducible refine Steady.trans ?_ (dropOp_steady ..) | with_reducible apply steady_cond | intro _ | split
      | (grind [modQueen_steady, dropOp_steady, Steady.trans, Steady.refl])

theorem opsFail_steady (s : State) (g : Nat) (seq : Nat) (ecause : Nat) (addr : Nat) : Steady s (opsFail s g seq ecause addr)
  := by
  unfold opsFail
  try dsimp only
  repeat' first
      | with_reducible exact Steady.refl _ | (simp (disch := with_reducible rfl) only [↓steady_upd])
      | with_reducible apply steady_ite | with_reducible apply steady_when | with_reducible apply steady_foldl
      | with_reducible refine Steady.trans ?_ (failStep_steady ..)
      | with_reducible refine Steady.trans ?_ (completeOp_steady ..)
      | with_reducible refine Steady.trans ?_ (putResult_steady ..) | with_reducible apply steady_cond | intro _ | split
      | (grind [failStep_steady, completeOp_steady, putResult_steady, Steady.trans, Steady.refl])

unseal opTable in
theorem opTable_steady (s : State) (g : Nat) (seq : Nat) (a : Nat) : Steady s (opTable s g seq a).2 :=
  tableRead_steady _ _ _ _ _ fun _ => opsFail_steady ..

unseal toMember in
theorem toMember_steady (s : State) (g seq m : Nat) (send : State → Nat → State) (h : ∀ t e, Steady t (send t e)) :
    Steady s (toMember s g seq m send) := by
  unfold toMember
  have b := opTable_steady s g seq (gpMlist (groupOf s g) + 2 * m)
  dsimp only
  split <;> rename_i e <;> rw [e] at b
  · exact b
  · split
    · exact b.trans (opsFail_steady ..)
    · exact b.trans (h ..)

unseal byCircuit in
theorem byCircuit_steady (s : State) (g seq : Nat) (w : BitVec 320) (k : Nat) (send : State → Nat → State) (other : State → State)
    (h : ∀ t d, Steady t (send t d)) (ho : ∀ t, Steady t (other t)) : Steady s (byCircuit s g seq w k send other) := by
  unfold byCircuit
  have b := opTable_steady s g seq (gpCmap w + 2 * k)
  refine steady_ite _ (ho s) ?_
  split <;> rename_i e <;> rw [e] at b
  · exact b
  · exact steady_ite _ (b.trans (h ..)) (b.trans (ho _))

theorem unitSend_steady (s : State) (u : Nat) (key : Nat) (cls : Nat) (op : Nat) (d : Dest) (payload : List Byte) : Steady s
  (unitSend s u key cls op d payload) := by
  unfold unitSend
  try dsimp only
  repeat' first
      | with_reducible exact Steady.refl _ | (simp (disch := with_reducible rfl) only [↓steady_upd])
      | with_reducible apply steady_ite | with_reducible apply steady_when | with_reducible apply steady_foldl
      | with_reducible apply steady_cond | intro _ | split | (grind [Steady.trans, Steady.refl])

theorem collSend_steady (s : State) (u : Nat) (key : Nat) (ctx : Nat) (seq : Nat) (chunk : Nat) (p : Piece) (d : Dest) :
  Steady s (collSend s u key ctx seq chunk p d) := by
  unfold collSend
  try dsimp only
  repeat' first
      | with_reducible exact Steady.refl _ | (simp (disch := with_reducible rfl) only [↓steady_upd])
      | with_reducible apply steady_ite | with_reducible apply steady_when | with_reducible apply steady_foldl
      | with_reducible refine Steady.trans ?_ (unitSend_steady ..) | with_reducible apply steady_cond | intro _ | split
      | (grind [unitSend_steady, Steady.trans, Steady.refl])

unseal sourceOut in
theorem sourceOut_steady (s : State) (lsrc : Nat) (mk : Nat → Frame) : Steady s (sourceOut s lsrc mk) := by
  unfold sourceOut
  refine Steady.trans ?_ (originateDie_steady ..)
  simp (disch := with_reducible rfl) only [steady_upd]
  exact Steady.refl _

theorem sourceSend_steady (s : State) (lsrc : Nat) (key : Nat) (ctx : Nat) (seq : Nat) (chunk : Nat) (p : Piece) (d : Dest) :
  Steady s (sourceSend s lsrc key ctx seq chunk p d) := by
  unfold sourceSend
  try dsimp only
  repeat' first
      | with_reducible exact Steady.refl _ | (simp (disch := with_reducible rfl) only [↓steady_upd])
      | with_reducible apply steady_ite | with_reducible apply steady_when | with_reducible apply steady_foldl
      | with_reducible refine Steady.trans ?_ (sourceOut_steady ..) | with_reducible apply steady_cond | intro _ | split
      | (grind [sourceOut_steady, Steady.trans, Steady.refl])

unseal toNode in
theorem toNode_steady (s : State) (o : COp) (c : Nat) (send : State → Nat → Nat → Dest → State)
    (h : ∀ t a b d, Steady t (send t a b d)) : Steady s (toNode s o c send) := by
  unfold toNode
  have r : ∀ t node src, Steady t (toMember t o.gid o.seq node fun t e => send t o.gid src (.eid e)) :=
    fun t _ _ => toMember_steady t _ _ _ _ fun _ _ => h ..
  exact steady_ite _ (h ..) (steady_ite _ (r ..)
    (byCircuit_steady _ _ _ _ _ _ _ (fun t _ => toMember_steady t _ _ _ _ fun _ _ => h ..) fun _ => r ..))

unseal sendData in
theorem sendData_steady (s : State) (o : COp) (c : Nat) (bs : List Byte) : Steady s (sendData s o c bs) := by
  unfold sendData
  exact toNode_steady _ _ _ _ fun t _ _ _ => steady_foldl _ _ _ (Steady.refl t) fun _ _ => sourceSend_steady ..

unseal requestData in
theorem requestData_steady (s : State) (o : COp) (c a n k : Nat) : Steady s (requestData s o c a n k) := by
  induction k generalizing s a n with
  | zero => cases n <;> exact Steady.refl s
  | succ k ih =>
    cases n with
    | zero => exact Steady.refl s
    | succ n => exact ((modOp_steady ..).trans (sourceOut_steady ..)).trans (ih ..)

theorem sendChunk_steady (s : State) (o : COp) (c : Nat) : Steady s (sendChunk s o c) := by
  unfold sendChunk
  try dsimp only
  repeat' first
      | with_reducible exact Steady.refl _ | (simp (disch := with_reducible rfl) only [↓steady_upd])
      | with_reducible apply steady_ite | with_reducible apply steady_when | with_reducible apply steady_foldl
      | with_reducible refine Steady.trans ?_ (sendData_steady ..)
      | with_reducible refine Steady.trans ?_ (opsFail_steady ..)
      | with_reducible refine Steady.trans ?_ (requestData_steady ..)
      | with_reducible refine Steady.trans ?_ (safeEntry_steady ..)
      | with_reducible refine Steady.trans ?_ (spaceRead_steady ..)
      | with_reducible refine Steady.trans ?_ (metaFix_steady ..)
      | with_reducible refine Steady.trans ?_ (readFailed_steady ..) | with_reducible apply steady_cond | intro _ | split
      | (grind [sendData_steady, opsFail_steady, requestData_steady, safeEntry_steady, spaceRead_steady, metaFix_steady, readFailed_steady, Steady.trans, Steady.refl])

theorem collData_steady (s : State) (f : Frame) : Steady s (collData s f) := by
  unfold collData
  try dsimp only
  repeat' first
      | with_reducible exact Steady.refl _ | (simp (disch := with_reducible rfl) only [↓steady_upd])
      | with_reducible apply steady_ite | with_reducible apply steady_when | with_reducible apply steady_foldl
      | with_reducible refine Steady.trans ?_ (modOp_steady ..)
      | with_reducible refine Steady.trans ?_ (sendData_steady ..) | with_reducible apply steady_cond | intro _ | split
      | (grind [modOp_steady, sendData_steady, Steady.trans, Steady.refl])

unseal pump in
theorem pump_steady (s : State) (g : Nat) (lsrc : Nat) (a : Nat) : Steady s (pump s g lsrc a) := by
  induction a generalizing s with
  | zero => unfold pump; exact Steady.refl s
  | succ k ih =>
    unfold pump
    dsimp only
    split
    · exact Steady.refl s
    · exact steady_ite _ (Steady.refl s) (((modOp_steady ..).trans (sendChunk_steady ..)).trans (ih _))

unseal sendResult in
theorem sendResult_steady (s : State) (u : Nat) (g : Nat) (w : BitVec 320) (r : BitVec 320) (seq : Nat) (c : Nat) (ps : List
  Piece) : Steady s (sendResult s u g w r seq c ps) := by
  have f : ∀ (t : State) (d : Dest) (l : List Piece) (k x : Nat), Steady t (l.foldl (fun t p => collSend t u k x seq c p d) t) :=
    fun t _ _ _ _ => steady_foldl _ _ _ (Steady.refl t) fun _ _ => collSend_steady ..
  unfold sendResult
  exact steady_ite _ (byCircuit_steady _ _ _ _ _ _ _ (fun _ _ => f ..) fun _ => f ..)
    (steady_foldl _ _ _ (Steady.refl s) fun t _ => toMember_steady t _ _ _ _ fun _ _ => f ..)

unseal sendUp in
theorem sendUp_steady (s : State) (u : Nat) (g : Nat) (w : BitVec 320) (r : BitVec 320) (seq : Nat) (c : Nat) (ps : List
  Piece) : Steady s (sendUp s u g w r seq c ps) := by
  unfold sendUp
  exact toMember_steady _ _ _ _ _ fun t _ => steady_foldl _ _ _ (Steady.refl t) fun _ _ => collSend_steady ..

unseal resultWrites in
theorem resultWrites_steady (s : State) (o : COp) (key : Nat) (a : Nat) (a1 : List Byte) (a2 : Nat) : Steady s (resultWrites
  s o key a a1 a2) := by
  induction a2 generalizing s a a1 with
  | zero => cases a1 <;> exact Steady.refl s
  | succ k ih =>
    cases a1 with
    | nil => exact Steady.refl s
    | cons b bs =>
      refine Steady.trans (Steady.trans (Steady.trans ?_ (modOp_steady ..)) (originateColl_steady ..)) (ih ..)
      (simp (disch := with_reducible rfl) only [steady_upd]; exact Steady.refl _)

theorem delivered_steady (s : State) (g : Nat) (seq : Nat) (c : Nat) (ps : List Piece) : Steady s (delivered s g seq c ps) :=
  by
  unfold delivered
  try dsimp only
  repeat' first
      | with_reducible exact Steady.refl _ | (simp (disch := with_reducible rfl) only [↓steady_upd])
      | with_reducible apply steady_ite | with_reducible apply steady_when | with_reducible apply steady_foldl
      | with_reducible refine Steady.trans ?_ (modOp_steady ..) | with_reducible refine Steady.trans ?_ (done_steady ..)
      | with_reducible refine Steady.trans ?_ (opsFail_steady ..)
      | with_reducible refine Steady.trans ?_ (resultWrites_steady ..)
      | with_reducible refine Steady.trans ?_ (pump_steady ..) | with_reducible apply steady_cond | intro _ | split
      | (grind [modOp_steady, done_steady, opsFail_steady, resultWrites_steady, pump_steady, Steady.trans, Steady.refl])

end Sys2Proof.Machine
end

