-- ==== Sys2Proof/Laws/Steady/Stream.lean ====
section
/-! SUPPORT. `Steady` of the functions of Machine/Stream.lean. -/

set_option Elab.async false

namespace Sys2Proof.Machine

seal settleLeaves unqueue joinPiece takeNode syncTree freeBufHandle count countN modStep recomputeHealth takeBuf freeChunks
  raisePoison dropPieces dropChunk delivered sendUp sendResult unitSend feed passOn acceptPiece stream takePiece applyEff
  streamUnitRetire completeChunk streamTimeout closeChunk noteEndOfRun putChunk finishChunk feedRun streamUnitPatrol
  unitErrors unitFails sendPieces withBuffer dequeue returnBuf decRef dropUnitQueue settleFree dropReader moreReaders
  releaseReaders awaitOut passSend failStep combRead giveUp renumberQueues

theorem putChunk_steady (s : State) (c : Chunk) : Steady s (putChunk s c) := by
  unfold putChunk
  try dsimp only
  repeat' first
      | with_reducible exact Steady.refl _ | (simp (disch := with_reducible rfl) only [↓steady_upd])
      | with_reducible apply steady_ite | with_reducible apply steady_when | with_reducible apply steady_foldl
      | with_reducible apply steady_cond | intro _ | split | (grind [Steady.trans, Steady.refl])

theorem closeChunk_steady (s : State) (c : Chunk) : Steady s (closeChunk s c) := by
  unfold closeChunk
  try dsimp only
  repeat' first
      | with_reducible exact Steady.refl _ | (simp (disch := with_reducible rfl) only [↓steady_upd])
      | with_reducible apply steady_ite | with_reducible apply steady_when | with_reducible apply steady_foldl
      | with_reducible refine Steady.trans ?_ (returnBuf_steady ..) | with_reducible apply steady_cond | intro _ | split
      | (grind [returnBuf_steady, Steady.trans, Steady.refl])

theorem dropUnitQueue_steady (s : State) (u : Nat) : Steady s (dropUnitQueue s u) := by
  unfold dropUnitQueue
  try dsimp only
  repeat' first
      | with_reducible exact Steady.refl _ | (simp (disch := with_reducible rfl) only [↓steady_upd])
      | with_reducible apply steady_ite | with_reducible apply steady_when | with_reducible apply steady_foldl
      | with_reducible refine Steady.trans ?_ (decRef_steady ..) | with_reducible refine Steady.trans ?_ (count_steady ..)
      | with_reducible apply steady_cond | intro _ | split
      | (grind [decRef_steady, count_steady, Steady.trans, Steady.refl])

theorem unitFails_steady (s : State) (u : Nat) : Steady s (unitFails s u) := by
  unfold unitFails
  try dsimp only
  repeat' first
      | with_reducible exact Steady.refl _ | (simp (disch := with_reducible rfl) only [↓steady_upd])
      | with_reducible apply steady_ite | with_reducible apply steady_when | with_reducible apply steady_foldl
      | with_reducible refine Steady.trans ?_ (dropUnitQueue_steady ..)
      | with_reducible refine Steady.trans ?_ (countN_steady ..)
      | with_reducible refine Steady.trans ?_ (raisePoison_steady ..)
      | with_reducible refine Steady.trans ?_ (dropChunk_steady ..)
      | with_reducible refine Steady.trans ?_ (settleFree_steady ..) | with_reducible apply steady_cond | intro _ | split
      | (grind [dropUnitQueue_steady, countN_steady, raisePoison_steady, dropChunk_steady, settleFree_steady, Steady.trans, Steady.refl])

theorem applyEff_steady (s : State) (x : Ctx) (c : Chunk) (e : SEff) : Steady s (applyEff s x c e) := by
  unfold applyEff
  try dsimp only
  repeat' first
      | with_reducible exact Steady.refl _ | (simp (disch := with_reducible rfl) only [↓steady_upd])
      | with_reducible apply steady_ite | with_reducible apply steady_when | with_reducible apply steady_foldl
      | with_reducible refine Steady.trans ?_ (unitSend_steady ..)
      | with_reducible refine Steady.trans ?_ (modStep_steady ..) | with_reducible apply steady_cond | intro _ | split
      | (grind [unitSend_steady, modStep_steady, Steady.trans, Steady.refl])

theorem sendPieces_steady (s : State) (u : Nat) (x : Ctx) (c : Chunk) (ps : List Piece) : Steady s (sendPieces s u x c ps) := by
  unfold sendPieces
  try dsimp only
  repeat' first
      | with_reducible exact Steady.refl _ | (simp (disch := with_reducible rfl) only [↓steady_upd])
      | with_reducible apply steady_ite | with_reducible apply steady_when | with_reducible apply steady_foldl
      | with_reducible refine Steady.trans ?_ (unitSend_steady ..) | with_reducible apply steady_cond | intro _ | split
      | (grind [unitSend_steady, Steady.trans, Steady.refl])

theorem finishChunk_steady (s : State) (c : Chunk) (res : List Bool) : Steady s (finishChunk s c res).1 := by
  unfold finishChunk
  try dsimp only
  repeat' first
      | with_reducible exact Steady.refl _ | (simp (disch := with_reducible rfl) only [↓steady_upd])
      | with_reducible apply steady_ite | with_reducible apply steady_when | with_reducible apply steady_foldl
      | with_reducible apply steady_foldl_snd | with_reducible refine Steady.trans ?_ (returnBuf_steady ..)
      | with_reducible refine Steady.trans ?_ (dropReader_steady ..)
      | with_reducible refine Steady.trans ?_ (moreReaders_steady ..)
      | with_reducible refine Steady.trans ?_ (putChunk_steady ..) | with_reducible apply steady_cond | intro _ | split
      | (grind [returnBuf_steady, dropReader_steady, moreReaders_steady, putChunk_steady, Steady.trans, Steady.refl])

/-- What waits for a complete chunk's pieces. -/
theorem awaitOut_steady (s0 s : State) (c : Chunk) (res : List Bool) : Steady s (awaitOut s0 s c res) := by
  unfold awaitOut
  exact steady_ite _ (releaseReaders_steady ..) (putChunk_steady ..)

unseal passSend in
theorem passSend_steady (s : State) (c : Chunk) (g : Nat) (w : BitVec 320) (role : Role) (o : COp) (ps : List Piece) :
    Steady s (passSend s c g w role o ps) := by
  cases role
  · exact steady_ite _ (sendUp_steady ..) (sendResult_steady ..)
  · exact sendResult_steady ..
  · exact delivered_steady ..

unseal passOn in
theorem passOn_steady (s : State) (x : Ctx) (c : Chunk) (g : Nat) (w : BitVec 320) (role : Role) (o : COp) : Steady s (passOn
  s x c g w role o) := by
  unfold passOn
  split
  · exact putChunk_steady ..
  · exact ((((putChunk_steady ..).trans (applyEff_steady ..)).trans (finishChunk_steady ..)).trans (passSend_steady ..)).trans
      (awaitOut_steady ..)

unseal completeChunk in
theorem completeChunk_steady (s : State) (x : Ctx) (c : Chunk) (e : SEnv) (w0 : SWork) : Steady s (completeChunk s x c e w0) := by
  unfold completeChunk
  dsimp only
  refine steady_ite _ ((putChunk_steady ..).trans (unitFails_steady ..)) (Steady.trans ?_ (awaitOut_steady ..))
  have b : ∀ (d d' : Chunk) (f : SEff) (n : Nat) (r : List Bool),
      Steady s (finishChunk (countN (applyEff (putChunk s d) x d' f) .streamTail c.unit n) d' r).1 :=
    fun _ _ _ _ _ => (((putChunk_steady ..).trans (applyEff_steady ..)).trans (countN_steady ..)).trans (finishChunk_steady ..)
  split
  · exact (b _ _ _ _ _).trans (sendPieces_steady ..)
  · split
    · exact b _ _ _ _ _
    · exact steady_ite _ ((b _ _ _ _ _).trans (sendUp_steady ..)) ((b _ _ _ _ _).trans (sendResult_steady ..))

theorem takeNode_steady (s : State) (c : Chunk) (d : Nat × (Nat × Nat) × Nat) : Steady s (takeNode s c d).1 := by
  unfold takeNode
  try dsimp only
  repeat' first
      | with_reducible exact Steady.refl _ | exact failStep_steady .. | exact combRead_steady ..
      | (simp (disch := with_reducible rfl) only [↓steady_upd])
      | with_reducible refine Steady.trans ?_ (takeBuf_steady _ _ _ _ _ (by assumption))
      | with_reducible apply steady_ite | with_reducible apply steady_cond | intro _ | split
      | (grind [takeBuf_steady, Steady.trans, Steady.refl])

theorem takeNodes_steady (due : List (Nat × (Nat × Nat) × Nat)) : ∀ (s : State) (c : Chunk),
    Steady s (due.foldl (fun a d => takeNode a.1 a.2 d) (s, c)).1 := by
  induction due with
  | nil => intro s c; exact Steady.refl _
  | cons d r ih => intro s c; exact Steady.trans (takeNode_steady s c d) (ih (takeNode s c d).1 (takeNode s c d).2)

unseal syncTree in
theorem syncTree_steady (s : State) (e : SEnv) (c : Chunk) : Steady s (syncTree s e c).1 := by
  unfold syncTree
  refine Steady.trans ?_ (takeNodes_steady _ _ _)
  exact steady_foldl _ _ _ (Steady.refl _) fun t x => dropReader_steady ..

theorem unitErrors_steady (s : State) (u : Nat) (p : UMem → Bool) : Steady s (unitErrors s u p).1 := by
  unfold unitErrors
  try dsimp only
  repeat' first
      | with_reducible exact Steady.refl _ | (simp (disch := with_reducible rfl) only [↓steady_upd])
      | with_reducible apply steady_ite | with_reducible apply steady_when | with_reducible apply steady_foldl
      | with_reducible refine Steady.trans ?_ (countN_steady ..)
      | with_reducible refine Steady.trans ?_ (raisePoison_steady ..) | with_reducible apply steady_cond | intro _ | split
      | (grind [countN_steady, raisePoison_steady, Steady.trans, Steady.refl])

theorem giveUp_steady (s : State) (c : Chunk) : Steady s (giveUp s c) := by
  unfold giveUp
  try dsimp only
  repeat' first
      | with_reducible exact Steady.refl _ | (simp (disch := with_reducible rfl) only [↓steady_upd])
      | with_reducible apply steady_ite | with_reducible apply steady_when | with_reducible apply steady_foldl
      | with_reducible refine Steady.trans ?_ (dropChunk_steady ..) | with_reducible apply steady_cond | intro _ | split
      | (grind [dropChunk_steady, Steady.trans, Steady.refl])

theorem feedRun_steady (s : State) (x : Ctx) (c : Chunk) : Steady s (feedRun s x c) := by
  unfold feedRun
  try dsimp only
  repeat' first
      | with_reducible exact Steady.refl _ | (simp (disch := with_reducible rfl) only [↓steady_upd])
      | with_reducible apply steady_ite | with_reducible apply steady_when | with_reducible apply steady_foldl
      | with_reducible refine Steady.trans ?_ (unitErrors_steady ..)
      | with_reducible refine Steady.trans ?_ (giveUp_steady ..)
      | with_reducible refine Steady.trans ?_ (unitFails_steady ..)
      | with_reducible refine Steady.trans ?_ (putChunk_steady ..)
      | with_reducible refine Steady.trans ?_ (completeChunk_steady ..)
      | with_reducible refine Steady.trans ?_ (syncTree_steady ..)
      | with_reducible refine Steady.trans ?_ (applyEff_steady ..)
      | with_reducible refine Steady.trans ?_ (sendPieces_steady ..) | with_reducible apply steady_cond | intro _ | split
      | (grind [unitErrors_steady, giveUp_steady, unitFails_steady, putChunk_steady, completeChunk_steady, syncTree_steady, applyEff_steady, sendPieces_steady, Steady.trans, Steady.refl])

theorem feed_steady (s : State) (x : Ctx) (c : Chunk) : Steady s (feed s x c) := by
  unfold feed
  try dsimp only
  repeat' first
      | with_reducible exact Steady.refl _ | (simp (disch := with_reducible rfl) only [↓steady_upd])
      | with_reducible apply steady_ite | with_reducible apply steady_when | with_reducible apply steady_foldl
      | with_reducible refine Steady.trans ?_ (feedRun_steady ..)
      | with_reducible refine Steady.trans ?_ (putChunk_steady ..)
      | with_reducible refine Steady.trans ?_ (unitErrors_steady ..)
      | with_reducible refine Steady.trans ?_ (giveUp_steady ..)
      | with_reducible refine Steady.trans ?_ (passOn_steady ..) | with_reducible apply steady_cond | intro _ | split
      | (grind [feedRun_steady, putChunk_steady, unitErrors_steady, giveUp_steady, passOn_steady, Steady.trans, Steady.refl])

theorem unqueue_steady (s : State) (u : Nat) (f : Frame) : Steady s (unqueue s u f) := by
  unfold unqueue
  try dsimp only
  repeat' first
      | with_reducible exact Steady.refl _ | (simp (disch := with_reducible rfl) only [↓steady_upd])
      | with_reducible apply steady_ite | with_reducible apply steady_when | with_reducible apply steady_foldl
      | with_reducible apply steady_cond | intro _ | split
      | (grind [Steady.trans, Steady.refl])

theorem dequeue_steady (s : State) (u : Nat) (f : Frame) : Steady s (dequeue s u f) := by
  unfold dequeue
  try dsimp only
  repeat' first
      | with_reducible exact Steady.refl _ | (simp (disch := with_reducible rfl) only [↓steady_upd])
      | with_reducible apply steady_ite | with_reducible apply steady_when | with_reducible apply steady_foldl
      | with_reducible refine Steady.trans ?_ (settleFree_steady ..)
      | with_reducible refine Steady.trans ?_ (unqueue_steady ..) | with_reducible apply steady_cond | intro _ | split
      | (grind [settleFree_steady, unqueue_steady, Steady.trans, Steady.refl])

theorem noteEndOfRun_steady (s : State) (ctx : Nat) (p : Piece) : Steady s (noteEndOfRun s ctx p) := by
  unfold noteEndOfRun
  try dsimp only
  repeat' first
      | with_reducible exact Steady.refl _ | (simp (disch := with_reducible rfl) only [↓steady_upd])
      | with_reducible apply steady_ite | with_reducible apply steady_when | with_reducible apply steady_foldl
      | with_reducible refine Steady.trans ?_ (modStep_steady ..) | with_reducible apply steady_cond | intro _ | split
      | (grind [modStep_steady, Steady.trans, Steady.refl])

theorem joinPiece_steady (s : State) (u : Nat) (x : Ctx) (c : Chunk) (f : Frame) : Steady s (joinPiece s u x c f) := by
  unfold joinPiece
  try dsimp only
  repeat' first
      | with_reducible exact Steady.refl _ | (simp (disch := with_reducible rfl) only [↓steady_upd])
      | with_reducible apply steady_ite | with_reducible apply steady_when | with_reducible apply steady_foldl
      | with_reducible refine Steady.trans ?_ (unqueue_steady ..)
      | with_reducible refine Steady.trans ?_ (applyEff_steady ..)
      | with_reducible refine Steady.trans ?_ (putChunk_steady ..)
      | with_reducible refine Steady.trans ?_ (raisePoison_steady ..)
      | with_reducible refine Steady.trans ?_ (count_steady ..)
      | with_reducible refine Steady.trans ?_ (noteEndOfRun_steady ..)
      | with_reducible refine Steady.trans ?_ (feed_steady ..) | with_reducible apply steady_cond | intro _ | split
      | (grind [unqueue_steady, applyEff_steady, putChunk_steady, raisePoison_steady, count_steady, noteEndOfRun_steady, feed_steady, Steady.trans, Steady.refl])

theorem takePiece_steady (s : State) (u : Nat) (x : Ctx) (c : Chunk) (f : Frame) : Steady s (takePiece s u x c f) := by
  unfold takePiece
  try dsimp only
  repeat' first
      | with_reducible exact Steady.refl _ | (simp (disch := with_reducible rfl) only [↓steady_upd])
      | with_reducible apply steady_ite | with_reducible apply steady_when | with_reducible apply steady_foldl
      | with_reducible refine Steady.trans ?_ (settleFree_steady ..)
      | with_reducible refine Steady.trans ?_ (joinPiece_steady ..) | with_reducible apply steady_cond | intro _ | split
      | (grind [settleFree_steady, joinPiece_steady, Steady.trans, Steady.refl])

theorem withBuffer_steady (s : State) (u : Nat) (c : Chunk) (need : Bool) : Steady s (withBuffer s u c need).2.1 := by
  unfold withBuffer
  try dsimp only
  repeat' first
      | with_reducible exact Steady.refl _ | (simp (disch := with_reducible rfl) only [↓steady_upd])
      | with_reducible apply steady_ite | with_reducible apply steady_when | with_reducible apply steady_foldl
      | with_reducible apply steady_foldl_snd | with_reducible refine Steady.trans ?_ (putChunk_steady ..)
      | with_reducible refine Steady.trans ?_ (combRead_steady ..)
      | with_reducible refine Steady.trans ?_ (takeBuf_steady ..)
      | (rename_i hx; refine Steady.trans ?_ (takeBuf_steady _ _ _ _ _ hx)) | with_reducible apply steady_cond | intro _
      | split | (grind [putChunk_steady, combRead_steady, takeBuf_steady, Steady.trans, Steady.refl])

theorem acceptPiece_steady (s : State) (u : Nat) (x : Ctx) (f : Frame) : Steady s (acceptPiece s u x f) := by
  unfold acceptPiece
  try dsimp only
  repeat' first
      | with_reducible exact Steady.refl _ | (simp (disch := with_reducible rfl) only [↓steady_upd])
      | with_reducible apply steady_ite | with_reducible apply steady_when | with_reducible apply steady_foldl
      | with_reducible refine Steady.trans ?_ (withBuffer_steady ..)
      | with_reducible refine Steady.trans ?_ (takePiece_steady ..)
      | with_reducible refine Steady.trans ?_ (unitErrors_steady ..)
      | with_reducible refine Steady.trans ?_ (dequeue_steady ..)
      | with_reducible refine Steady.trans ?_ (giveUp_steady ..) | with_reducible refine Steady.trans ?_ (count_steady ..)
      | with_reducible apply steady_cond | intro _ | split
      | (grind [withBuffer_steady, takePiece_steady, unitErrors_steady, dequeue_steady, giveUp_steady, count_steady, Steady.trans, Steady.refl])

theorem stream_steady (u : Nat) (s : State) : Steady s (stream u s) := by
  unfold stream
  try dsimp only
  repeat' first
      | with_reducible exact Steady.refl _ | (simp (disch := with_reducible rfl) only [↓steady_upd])
      | with_reducible apply steady_ite | with_reducible apply steady_when | with_reducible apply steady_foldl
      | with_reducible refine Steady.trans ?_ (unitErrors_steady ..)
      | with_reducible refine Steady.trans ?_ (count_steady ..) | with_reducible refine Steady.trans ?_ (dequeue_steady ..)
      | with_reducible refine Steady.trans ?_ (acceptPiece_steady ..) | with_reducible apply steady_cond | intro _ | split
      | (grind [unitErrors_steady, count_steady, dequeue_steady, acceptPiece_steady, Steady.trans, Steady.refl])

theorem streamTimeout_steady (c : Nat) (q : Nat) (k : Nat) (s : State) : Steady s (streamTimeout c q k s) := by
  unfold streamTimeout
  try dsimp only
  repeat' first
      | with_reducible exact Steady.refl _ | (simp (disch := with_reducible rfl) only [↓steady_upd])
      | with_reducible apply steady_ite | with_reducible apply steady_when | with_reducible apply steady_foldl
      | with_reducible refine Steady.trans ?_ (dropPieces_steady ..)
      | with_reducible refine Steady.trans ?_ (dropChunk_steady ..)
      | with_reducible refine Steady.trans ?_ (raisePoison_steady ..)
      | with_reducible refine Steady.trans ?_ (count_steady ..) | with_reducible apply steady_cond | intro _ | split
      | (grind [dropPieces_steady, dropChunk_steady, raisePoison_steady, count_steady, Steady.trans, Steady.refl])

theorem streamUnitPatrol_steady (u : Nat) (mismatch : Bool) (s : State) : Steady s (streamUnitPatrol u mismatch s) := by
  unfold streamUnitPatrol
  try dsimp only
  repeat' first
      | with_reducible exact Steady.refl _ | (simp (disch := with_reducible rfl) only [↓steady_upd])
      | with_reducible apply steady_ite | with_reducible apply steady_when | with_reducible apply steady_foldl
      | with_reducible refine Steady.trans ?_ (unitFails_steady ..) | with_reducible apply steady_cond | intro _ | split
      | (grind [unitFails_steady, Steady.trans, Steady.refl])

theorem renumberQueues_steady (s : State) (l : Nat) : Steady s (renumberQueues s l) := by
  unfold renumberQueues
  try dsimp only
  repeat' first
      | with_reducible exact Steady.refl _ | (simp (disch := with_reducible rfl) only [↓steady_upd])
      | with_reducible apply steady_ite | with_reducible apply steady_when | with_reducible apply steady_foldl
      | with_reducible apply steady_cond | intro _ | split | (grind [Steady.trans, Steady.refl])

theorem streamUnitRetire_steady (u : Nat) (s : State) : Steady s (streamUnitRetire u s) := by
  unfold streamUnitRetire
  try dsimp only
  repeat' first
      | with_reducible exact Steady.refl _ | (simp (disch := with_reducible rfl) only [↓steady_upd])
      | with_reducible apply steady_ite | with_reducible apply steady_when | with_reducible apply steady_foldl
      | with_reducible refine Steady.trans ?_ (renumberQueues_steady ..)
      | with_reducible refine Steady.trans ?_ (recomputeHealth_steady ..) | with_reducible apply steady_cond | intro _
      | split | (grind [renumberQueues_steady, recomputeHealth_steady, Steady.trans, Steady.refl])

end Sys2Proof.Machine
end

