-- ==== Sys2Proof/Laws/Steady/StreamImage.lean ====
section
/-! SUPPORT. `Steady` of the functions of Machine/StreamImage.lean. -/

set_option Elab.async false

namespace Sys2Proof.Machine

seal settleLeaves takeBuf freeBufHandle hbmRead closeChunk loadStreamProg armContext armGroup putGroup disarmGroup
  disarmContext loadEngineProgs imageReads dropReader returnBuf settleFree chooseAlgorithm

theorem streamReads_steady (s : State) (a : Nat) : Steady s (streamReads s a) := by
  unfold streamReads
  try dsimp only
  repeat' first
      | with_reducible exact Steady.refl _ | (simp (disch := with_reducible rfl) only [↓steady_upd])
      | with_reducible apply steady_ite | with_reducible apply steady_when | with_reducible apply steady_foldl
      | with_reducible refine Steady.trans ?_ (imageReads_steady ..) | with_reducible apply steady_cond | intro _ | split
      | (grind [imageReads_steady, Steady.trans, Steady.refl])

theorem loadStreamProg_steady (s : State) (n : Nat) (code : List Word) : Steady s (loadStreamProg s n code) := by
  unfold loadStreamProg
  try dsimp only
  repeat' first
      | with_reducible exact Steady.refl _ | (simp (disch := with_reducible rfl) only [↓steady_upd])
      | with_reducible apply steady_ite | with_reducible apply steady_when | with_reducible apply steady_foldl
      | with_reducible apply steady_cond | intro _ | split | (grind [Steady.trans, Steady.refl])

theorem loadEngineProgs_steady (s : State) : Steady s (loadEngineProgs s) := by
  unfold loadEngineProgs
  try dsimp only
  repeat' first
      | with_reducible exact Steady.refl _ | (simp (disch := with_reducible rfl) only [↓steady_upd])
      | with_reducible apply steady_ite | with_reducible apply steady_when | with_reducible apply steady_foldl
      | with_reducible refine Steady.trans ?_ (loadStreamProg_steady ..) | with_reducible apply steady_cond | intro _ | split
      | (grind [loadStreamProg_steady, Steady.trans, Steady.refl])

unseal armContext in
theorem armContext_steady (s : State) (ctx : Nat) (key : Nat) (word : BitVec 1024) (group : Option Nat) : (∀ x0, (armContext
  s ctx key word group) = some x0 → Steady s x0) := by
  unfold armContext
  intros; rename_i hx
  dsimp only at hx
  split at hx
  · cases hx
    simp (disch := with_reducible rfl) only [steady_upd]
    exact Steady.refl s
  · split at hx
    · contradiction
    · rename_i h s1 h1
      have a := takeBuf_steady _ _ _ _ _ h1
      have b := hbmRead_steady s1 (fld word 768 64) (fld word 832 13)
      split at hx
      · rename_i bs s2 h2
        rw [h2] at b
        cases hx
        simp (disch := with_reducible rfl) only [steady_upd]
        exact a.trans b
      · contradiction

theorem disarmContext_steady (s : State) (ctx : Nat) : Steady s (disarmContext s ctx) := by
  unfold disarmContext
  try dsimp only
  repeat' first
      | with_reducible exact Steady.refl _ | (simp (disch := with_reducible rfl) only [↓steady_upd])
      | with_reducible apply steady_ite | with_reducible apply steady_when | with_reducible apply steady_foldl
      | with_reducible refine Steady.trans ?_ (dropReader_steady ..)
      | with_reducible refine Steady.trans ?_ (closeChunk_steady ..)
      | with_reducible refine Steady.trans ?_ (returnBuf_steady ..)
      | with_reducible refine Steady.trans ?_ (settleFree_steady ..) | with_reducible apply steady_cond | intro _ | split
      | (grind [dropReader_steady, closeChunk_steady, returnBuf_steady, settleFree_steady, Steady.trans, Steady.refl])

unseal putGroup in
theorem putGroup_steady (s : State) (g : Nat) (w : BitVec 320) : Steady s (putGroup s g w) := by
  unfold putGroup
  dsimp only
  refine Steady.trans (steady_foldl _ _ _ ?_ ?_) (chooseAlgorithm_steady ..)
  · simp (disch := with_reducible rfl) only [steady_upd]
    exact Steady.refl s
  · intro u id
    cases h : armContext u id (gpKey w) (groupCtxWord g w id) (some g) with
    | none => exact Steady.refl u
    | some t => exact armContext_steady _ _ _ _ _ _ h

theorem armGroup_steady (s : State) (g : Nat) (w : BitVec 320) : (∀ x0, (armGroup s g w) = .ok x0 → Steady s x0) := by
  unfold armGroup
  first
  | (grind [putGroup_steady, Steady.trans, Steady.refl])
  | (intros; rename_i hx; (try dsimp only at hx); (repeat' split at hx) <;> first | contradiction | (cases hx; done) | (cases hx; (repeat' first | with_reducible exact Steady.refl _ | (simp (disch := with_reducible rfl) only [↓steady_upd]) | with_reducible apply steady_ite | with_reducible apply steady_when | with_reducible apply steady_foldl | with_reducible refine Steady.trans ?_ (putGroup_steady ..) | with_reducible apply steady_cond | intro _ | split | (grind [putGroup_steady, Steady.trans, Steady.refl])); done))

theorem disarmGroup_steady (s : State) (g : Nat) : Steady s (disarmGroup s g) := by
  unfold disarmGroup
  try dsimp only
  repeat' first
      | with_reducible exact Steady.refl _ | (simp (disch := with_reducible rfl) only [↓steady_upd])
      | with_reducible apply steady_ite | with_reducible apply steady_when | with_reducible apply steady_foldl
      | with_reducible refine Steady.trans ?_ (disarmContext_steady ..) | with_reducible apply steady_cond | intro _ | split
      | (grind [disarmContext_steady, Steady.trans, Steady.refl])

end Sys2Proof.Machine
end

