-- ==== Sys2Proof/Laws/Steady/Care.lean ====
section
/-! SUPPORT. `Steady` of the functions of Machine/Care.lean. -/

set_option Elab.async false

namespace Sys2Proof.Machine

seal count recomputeHealth hbmSbe hbmDbe scrubWord patrolScrub pcSpareCopyComplete copyCorrected

theorem scrubWord_steady (s : State) (e : Nat × Option Bool) : Steady s (scrubWord s e) := by
  unfold scrubWord
  try dsimp only
  repeat' first
      | with_reducible exact Steady.refl _ | (simp (disch := with_reducible rfl) only [↓steady_upd])
      | with_reducible apply steady_ite | with_reducible apply steady_when | with_reducible apply steady_foldl
      | with_reducible refine Steady.trans ?_ (hbmSbe_steady ..) | with_reducible refine Steady.trans ?_ (count_steady ..)
      | with_reducible refine Steady.trans ?_ (hbmDbe_steady ..) | with_reducible apply steady_cond | intro _ | split
      | (grind [hbmSbe_steady, count_steady, hbmDbe_steady, Steady.trans, Steady.refl])

theorem patrolScrub_steady (s : State) : Steady s (patrolScrub s) := by
  unfold patrolScrub
  try dsimp only
  repeat' first
      | with_reducible exact Steady.refl _ | (simp (disch := with_reducible rfl) only [↓steady_upd])
      | with_reducible apply steady_ite | with_reducible apply steady_when | with_reducible apply steady_foldl
      | with_reducible refine Steady.trans ?_ (scrubWord_steady ..) | with_reducible apply steady_cond | intro _ | split
      | (grind [scrubWord_steady, Steady.trans, Steady.refl])

theorem copyCorrected_steady (s : State) (pc : Nat) : Steady s (copyCorrected s pc) := by
  unfold copyCorrected
  try dsimp only
  repeat' first
      | with_reducible exact Steady.refl _ | (simp (disch := with_reducible rfl) only [↓steady_upd])
      | with_reducible apply steady_ite | with_reducible apply steady_when | with_reducible apply steady_foldl
      | with_reducible apply steady_cond | intro _ | split | (grind [Steady.trans, Steady.refl])

theorem pcSpareCopyComplete_steady (pc : Nat) (s : State) : Steady s (pcSpareCopyComplete pc s) := by
  unfold pcSpareCopyComplete
  try dsimp only
  repeat' first
      | with_reducible exact Steady.refl _ | (simp (disch := with_reducible rfl) only [↓steady_upd])
      | with_reducible apply steady_ite | with_reducible apply steady_when | with_reducible apply steady_foldl
      | with_reducible refine Steady.trans ?_ (recomputeHealth_steady ..)
      | with_reducible refine Steady.trans ?_ (copyCorrected_steady ..) | with_reducible apply steady_cond | intro _
      | split | (grind [recomputeHealth_steady, copyCorrected_steady, Steady.trans, Steady.refl])

end Sys2Proof.Machine
end

