-- ==== Sys2Proof/Laws/Steady/Collective.lean ====
section
/-! SUPPORT. `Steady` of the functions of Machine/Collective.lean. -/

set_option Elab.async false

namespace Sys2Proof.Machine

seal settleLeaves modQueen raisePoison pump feed feedWaiting issue collectiveComplete dropOp collTimeout collectiveIssue
  settleFree failStep putResult refuseIssue completeOp takeLocal collData chanData

theorem feedWaiting_steady (s : State) (g : Nat) (seq : Nat) : Steady s (feedWaiting s g seq) := by
  unfold feedWaiting
  try dsimp only
  repeat' first
      | with_reducible exact Steady.refl _ | (simp (disch := with_reducible rfl) only [↓steady_upd])
      | with_reducible apply steady_ite | with_reducible apply steady_when | with_reducible apply steady_foldl
      | with_reducible refine Steady.trans ?_ (settleFree_steady ..)
      | with_reducible refine Steady.trans ?_ (feed_steady ..) | with_reducible apply steady_cond | intro _ | split
      | (grind [settleFree_steady, feed_steady, Steady.trans, Steady.refl])

theorem issue_steady (s : State) (r : BitVec 320) : Steady s (issue s r) := by
  unfold issue
  try dsimp only
  repeat' first
      | with_reducible exact Steady.refl _ | (simp (disch := with_reducible rfl) only [↓steady_upd])
      | with_reducible apply steady_ite | with_reducible apply steady_when | with_reducible apply steady_foldl
      | with_reducible refine Steady.trans ?_ (pump_steady ..)
      | with_reducible refine Steady.trans ?_ (feedWaiting_steady ..) | with_reducible apply steady_cond | intro _ | split
      | (grind [pump_steady, feedWaiting_steady, Steady.trans, Steady.refl])

theorem refuseIssue_steady (s : State) (r : BitVec 320) (e : Status) : Steady s (refuseIssue s r e) := by
  unfold refuseIssue
  try dsimp only
  repeat' first
      | with_reducible exact Steady.refl _ | (simp (disch := with_reducible rfl) only [↓steady_upd])
      | with_reducible apply steady_ite | with_reducible apply steady_when | with_reducible apply steady_foldl
      | with_reducible refine Steady.trans ?_ (failStep_steady ..)
      | with_reducible refine Steady.trans ?_ (putResult_steady ..) | with_reducible apply steady_cond | intro _ | split
      | (grind [failStep_steady, putResult_steady, Steady.trans, Steady.refl])

theorem collectiveIssue_steady (s : State) : Steady s (collectiveIssue s) := by
  unfold collectiveIssue
  try dsimp only
  repeat' first
      | with_reducible exact Steady.refl _ | (simp (disch := with_reducible rfl) only [↓steady_upd])
      | with_reducible apply steady_ite | with_reducible apply steady_when | with_reducible apply steady_foldl
      | with_reducible refine Steady.trans ?_ (issue_steady ..)
      | with_reducible refine Steady.trans ?_ (refuseIssue_steady ..) | with_reducible apply steady_cond | intro _ | split
      | (grind [issue_steady, refuseIssue_steady, Steady.trans, Steady.refl])

theorem collectiveComplete_steady (g : Nat) (q : Nat) (l : Nat) (s : State) : Steady s (collectiveComplete g q l s) := by
  unfold collectiveComplete
  try dsimp only
  repeat' first
      | with_reducible exact Steady.refl _ | (simp (disch := with_reducible rfl) only [↓steady_upd])
      | with_reducible apply steady_ite | with_reducible apply steady_when | with_reducible apply steady_foldl
      | with_reducible refine Steady.trans ?_ (completeOp_steady ..) | with_reducible apply steady_cond | intro _ | split
      | (grind [completeOp_steady, Steady.trans, Steady.refl])

theorem collTimeout_steady (g : Nat) (q : Nat) (l : Nat) (s : State) : Steady s (collTimeout g q l s) := by
  unfold collTimeout
  try dsimp only
  repeat' first
      | with_reducible exact Steady.refl _ | (simp (disch := with_reducible rfl) only [↓steady_upd])
      | with_reducible apply steady_ite | with_reducible apply steady_when | with_reducible apply steady_foldl
      | with_reducible refine Steady.trans ?_ (raisePoison_steady ..)
      | with_reducible refine Steady.trans ?_ (completeOp_steady ..)
      | with_reducible refine Steady.trans ?_ (putResult_steady ..) | with_reducible apply steady_cond | intro _ | split
      | (grind [raisePoison_steady, completeOp_steady, putResult_steady, Steady.trans, Steady.refl])

theorem mrdata_steady (f : Frame) (s : State) : Steady s (mrdata f s) := by
  unfold mrdata
  try dsimp only
  repeat' first
      | with_reducible exact Steady.refl _ | (simp (disch := with_reducible rfl) only [↓steady_upd])
      | with_reducible apply steady_ite | with_reducible apply steady_when | with_reducible apply steady_foldl
      | with_reducible refine Steady.trans ?_ (takeLocal_steady ..)
      | with_reducible refine Steady.trans ?_ (collData_steady ..)
      | with_reducible refine Steady.trans ?_ (chanData_steady ..)
      | (rename_i hx; refine Steady.trans ?_ (takeLocal_steady _ _ _ _ hx)) | with_reducible apply steady_cond | intro _
      | split | (grind [takeLocal_steady, collData_steady, chanData_steady, Steady.trans, Steady.refl])

end Sys2Proof.Machine
end

