-- ==== Sys2Proof/Laws/Steady/HostAccess.lean ====
section
/-! SUPPORT. `Steady` of the functions of Machine/HostAccess.lean. -/

set_option Elab.async false

namespace Sys2Proof.Machine

seal count emit originate cmplRptr tokenRptr hostWrites bar4Write hostFrame bar4Read regByte regBytes registerWrite

theorem tokenRptr_steady (v : Word) (s : State) : Steady s (tokenRptr v s) := by
  unfold tokenRptr
  try dsimp only
  repeat' first
      | with_reducible exact Steady.refl _ | (simp (disch := with_reducible rfl) only [↓steady_upd])
      | with_reducible apply steady_ite | with_reducible apply steady_when | with_reducible apply steady_foldl
      | with_reducible apply steady_cond | intro _ | split | (grind [Steady.trans, Steady.refl])

theorem cmplRptr_steady (v : Word) (s : State) : Steady s (cmplRptr v s) := by
  unfold cmplRptr
  try dsimp only
  repeat' first
      | with_reducible exact Steady.refl _ | (simp (disch := with_reducible rfl) only [↓steady_upd])
      | with_reducible apply steady_ite | with_reducible apply steady_when | with_reducible apply steady_foldl
      | with_reducible apply steady_cond | intro _ | split | (grind [Steady.trans, Steady.refl])

theorem hostFrame_steady (s : State) (op : Nat) (a : Nat) (payload : List Byte) : Steady s (hostFrame s op a payload) := by
  unfold hostFrame
  try dsimp only
  repeat' first
      | with_reducible exact Steady.refl _ | (simp (disch := with_reducible rfl) only [↓steady_upd])
      | with_reducible apply steady_ite | with_reducible apply steady_when | with_reducible apply steady_foldl
      | with_reducible refine Steady.trans ?_ (originate_steady ..) | with_reducible apply steady_cond | intro _ | split
      | (grind [originate_steady, Steady.trans, Steady.refl])

theorem bar4Read_steady (off : BitVec 30) (n : Nat) (s : State) : Steady s (bar4Read off n s) := by
  unfold bar4Read
  try dsimp only
  repeat' first
      | with_reducible exact Steady.refl _ | (simp (disch := with_reducible rfl) only [↓steady_upd])
      | with_reducible apply steady_ite | with_reducible apply steady_when | with_reducible apply steady_foldl
      | with_reducible refine Steady.trans ?_ (hostFrame_steady ..) | with_reducible refine Steady.trans ?_ (emit_steady ..)
      | with_reducible apply steady_cond | intro _ | split
      | (grind [hostFrame_steady, emit_steady, Steady.trans, Steady.refl])

unseal hostWrites in
theorem hostWrites_steady (s : State) (a : Nat) (bs : List Byte) : Steady s (hostWrites s a bs) := by
  exact steady_foldl_snd _ _ _ (Steady.refl s) (fun u b => hostFrame_steady ..)

theorem bar4Write_steady (off : BitVec 30) (bs : List Byte) (s : State) : Steady s (bar4Write off bs s) := by
  unfold bar4Write
  try dsimp only
  repeat' first
      | with_reducible exact Steady.refl _ | (simp (disch := with_reducible rfl) only [↓steady_upd])
      | with_reducible apply steady_ite | with_reducible apply steady_when | with_reducible apply steady_foldl
      | with_reducible refine Steady.trans ?_ (hostWrites_steady ..)
      | with_reducible refine Steady.trans ?_ (count_steady ..) | with_reducible apply steady_cond | intro _ | split
      | (grind [hostWrites_steady, count_steady, Steady.trans, Steady.refl])

unseal regByte in
theorem regByte_steady (s : State) (bar : Bar) (o : Nat) (b : Byte) : Steady s (regByte s bar o b) := by
  unfold regByte
  split
  · refine steady_ite _ (Steady.refl s) ?_
    apply steady_mem (Steady.refl s) <;> first
        | with_reducible rfl | with_reducible exact id | (intro h; exact memWf_setByte _ _ _ h)
  · refine steady_ite _ (steady_ite _ ?_ (Steady.refl s)) (steady_ite _ ?_ (Steady.refl s))
    · simp (disch := with_reducible rfl) only [steady_upd]; exact Steady.refl s
    · apply steady_mem (Steady.refl s) <;> first
        | with_reducible rfl | with_reducible exact id | (intro h; exact memWf_setByte _ _ _ h)

unseal regBytes in
theorem regBytes_steady (s : State) (bar : Bar) (o : Nat) (a : List Byte) : Steady s (regBytes s bar o a) := by
  induction a generalizing s o with
  | nil => exact Steady.refl s
  | cons b bs ih => exact (regByte_steady ..).trans (ih ..)

theorem registerWrite_steady (bar : Bar) (o : Nat) (bs : List Byte) (s : State) : Steady s (registerWrite bar o bs s) := by
  unfold registerWrite
  try dsimp only
  repeat' first
      | with_reducible exact Steady.refl _ | (simp (disch := with_reducible rfl) only [↓steady_upd])
      | with_reducible apply steady_ite | with_reducible apply steady_when | with_reducible apply steady_foldl
      | with_reducible refine Steady.trans ?_ (regBytes_steady ..) | with_reducible refine Steady.trans ?_ (count_steady ..)
      | with_reducible apply steady_cond | intro _ | split
      | (grind [regBytes_steady, count_steady, Steady.trans, Steady.refl])

end Sys2Proof.Machine
end

