-- ==== Sys2Proof/Laws/Steady/Clock.lean ====
section
/-! SUPPORT. `Steady` of the functions of Machine/Clock.lean. -/

set_option Elab.async false

namespace Sys2Proof.Machine

seal tick modPort emit sideTaken sideSend sideSends duePauses

theorem sideTaken_steady (s : State) (p : Nat) (waggle : Bool) : Steady s (sideTaken s p waggle) := by
  unfold sideTaken
  try dsimp only
  repeat' first
      | with_reducible exact Steady.refl _ | (simp (disch := with_reducible rfl) only [↓steady_upd])
      | with_reducible apply steady_ite | with_reducible apply steady_when | with_reducible apply steady_foldl
      | with_reducible refine Steady.trans ?_ (modPort_steady ..) | with_reducible apply steady_cond | intro _ | split
      | (grind [modPort_steady, Steady.trans, Steady.refl])

theorem sideSend_steady (s : State) (p : Nat) : Steady s (sideSend s p) := by
  unfold sideSend
  try dsimp only
  repeat' first
      | with_reducible exact Steady.refl _ | (simp (disch := with_reducible rfl) only [↓steady_upd])
      | with_reducible apply steady_ite | with_reducible apply steady_when | with_reducible apply steady_foldl
      | with_reducible refine Steady.trans ?_ (emit_steady ..)
      | with_reducible refine Steady.trans ?_ (sideTaken_steady ..) | with_reducible apply steady_cond | intro _ | split
      | (grind [emit_steady, sideTaken_steady, Steady.trans, Steady.refl])

theorem sideSends_steady (s : State) : Steady s (sideSends s) := by
  unfold sideSends
  try dsimp only
  repeat' first
      | with_reducible exact Steady.refl _ | (simp (disch := with_reducible rfl) only [↓steady_upd])
      | with_reducible apply steady_ite | with_reducible apply steady_when | with_reducible apply steady_foldl
      | with_reducible refine Steady.trans ?_ (sideSend_steady ..) | with_reducible apply steady_cond | intro _ | split
      | (grind [sideSend_steady, Steady.trans, Steady.refl])

theorem tick_steady (s : State) : Steady s (tick s) := by
  unfold tick
  try dsimp only
  repeat' first
      | with_reducible exact Steady.refl _ | (simp (disch := with_reducible rfl) only [↓steady_upd])
      | with_reducible apply steady_ite | with_reducible apply steady_when | with_reducible apply steady_foldl
      | with_reducible refine Steady.trans ?_ (sideSends_steady ..)
      | with_reducible refine Steady.trans ?_ (duePauses_steady ..) | with_reducible apply steady_cond | intro _ | split
      | (grind [sideSends_steady, duePauses_steady, Steady.trans, Steady.refl])

end Sys2Proof.Machine
end

