-- ==== Sys2Proof/Laws/Steady/Sideband.lean ====
section
/-! SUPPORT. `Steady` of the functions of Machine/Sideband.lean. -/

set_option Elab.async false

namespace Sys2Proof.Machine

seal count countN modStep msix logEvent setMode sendSets sendBeacon modPort sendSet fenceLaunch actPoison decRef timeSend
  freezeNAssert takeFreeze resume neighbourSilent timeAnswerMissing clearFreeze fenceSet beacon timeParentChange fence
  onSet time actHeld noteSet thawOrderedSet freezeNRelease poisonSet freezeOrderedSet useAnswer poison timeAnswer onTriple
  freezeNow beaconSend forwardSet countPoison releaseHold skipPatrols slotStart takeSnapshot missedEvents cutCopy passSet
  emit sideTaken

theorem noteSet_steady (s : State) (code : Byte) (rx : SetRx) : Steady s (noteSet s code rx) := by
  unfold noteSet
  try dsimp only
  repeat' first
      | with_reducible exact Steady.refl _ | (simp (disch := with_reducible rfl) only [↓steady_upd])
      | with_reducible apply steady_ite | with_reducible apply steady_when | with_reducible apply steady_foldl
      | with_reducible refine Steady.trans ?_ (modPort_steady ..) | with_reducible apply steady_cond | intro _ | split
      | (grind [modPort_steady, Steady.trans, Steady.refl])

unseal onSet in
theorem onSet_steady (s : State) (code : Byte) (zero : BitVec 40) (rx : SetRx) (f : State → State) (hf : Steady s (f s)) :
  Steady s (onSet s code zero rx f) := by
  unfold onSet
  exact steady_ite _ (Steady.refl s) (steady_ite _ (count_steady ..) hf)

unseal onTriple in
theorem onTriple_steady (s : State) (code : Byte) (zero : BitVec 40) (rx : SetRx) (f : State → State) (hf : ∀ u, Steady u (f
  u)) : Steady s (onTriple s code zero rx f) := by
  unfold onTriple
  exact onSet_steady _ _ _ _ _ (steady_ite _ (Steady.refl s) ((noteSet_steady ..).trans (hf _)))

theorem countPoison_steady (s : State) (pay : BitVec 40) : Steady s (countPoison s pay) := by
  unfold countPoison
  try dsimp only
  repeat' first
      | with_reducible exact Steady.refl _ | (simp (disch := with_reducible rfl) only [↓steady_upd])
      | with_reducible apply steady_ite | with_reducible apply steady_when | with_reducible apply steady_foldl
      | with_reducible refine Steady.trans ?_ (count_steady ..) | with_reducible apply steady_cond | intro _ | split
      | (grind [count_steady, Steady.trans, Steady.refl])

theorem poisonSet_steady (s : State) (port : Nat) (pay : BitVec 40) : Steady s (poisonSet s port pay) := by
  unfold poisonSet
  try dsimp only
  repeat' first
      | with_reducible exact Steady.refl _ | (simp (disch := with_reducible rfl) only [↓steady_upd])
      | with_reducible apply steady_ite | with_reducible apply steady_when | with_reducible apply steady_foldl
      | with_reducible refine Steady.trans ?_ (countPoison_steady ..)
      | with_reducible refine Steady.trans ?_ (sendSets_steady ..)
      | with_reducible refine Steady.trans ?_ (actPoison_steady ..)
      | with_reducible refine Steady.trans ?_ (releaseHold_steady ..) | with_reducible apply steady_cond | intro _ | split
      | (grind [countPoison_steady, sendSets_steady, actPoison_steady, releaseHold_steady, Steady.trans, Steady.refl])

theorem fenceSet_steady (s : State) (pay : BitVec 40) : Steady s (fenceSet s pay) := by
  unfold fenceSet
  try dsimp only
  repeat' first
      | with_reducible exact Steady.refl _ | (simp (disch := with_reducible rfl) only [↓steady_upd])
      | with_reducible apply steady_ite | with_reducible apply steady_when | with_reducible apply steady_foldl
      | with_reducible refine Steady.trans ?_ (setMode_steady ..)
      | with_reducible refine Steady.trans ?_ (fenceLaunch_steady ..) | with_reducible apply steady_cond | intro _ | split
      | (grind [setMode_steady, fenceLaunch_steady, Steady.trans, Steady.refl])

theorem poison_steady (rx : SetRx) (s : State) : Steady s (poison rx s) := by
  unfold poison
  try dsimp only
  repeat' first
      | with_reducible exact Steady.refl _ | (simp (disch := with_reducible rfl) only [↓steady_upd])
      | with_reducible apply steady_ite | with_reducible apply steady_when | with_reducible apply steady_foldl
      | with_reducible apply onTriple_steady | with_reducible refine Steady.trans ?_ (poisonSet_steady ..)
      | with_reducible apply steady_cond | intro _ | split
      | (grind [onTriple_steady, poisonSet_steady, Steady.trans, Steady.refl])

theorem fence_steady (rx : SetRx) (s : State) : Steady s (fence rx s) := by
  unfold fence
  try dsimp only
  repeat' first
      | with_reducible exact Steady.refl _ | (simp (disch := with_reducible rfl) only [↓steady_upd])
      | with_reducible apply steady_ite | with_reducible apply steady_when | with_reducible apply steady_foldl
      | with_reducible apply onTriple_steady | with_reducible refine Steady.trans ?_ (fenceSet_steady ..)
      | with_reducible apply steady_cond | intro _ | split
      | (grind [onTriple_steady, fenceSet_steady, Steady.trans, Steady.refl])

theorem actHeld_steady (s : State) : Steady s (actHeld s) := by
  unfold actHeld
  try dsimp only
  repeat' first
      | with_reducible exact Steady.refl _ | (simp (disch := with_reducible rfl) only [↓steady_upd])
      | with_reducible apply steady_ite | with_reducible apply steady_when | with_reducible apply steady_foldl
      | with_reducible refine Steady.trans ?_ (poisonSet_steady ..)
      | with_reducible refine Steady.trans ?_ (fenceSet_steady ..) | with_reducible apply steady_cond | intro _ | split
      | (grind [poisonSet_steady, fenceSet_steady, Steady.trans, Steady.refl])

theorem beacon_steady (rx : SetRx) (s : State) : Steady s (beacon rx s) := by
  unfold beacon
  try dsimp only
  repeat' first
      | with_reducible exact Steady.refl _ | (simp (disch := with_reducible rfl) only [↓steady_upd])
      | with_reducible apply steady_ite | with_reducible apply steady_when | with_reducible apply steady_foldl
      | with_reducible apply onSet_steady | with_reducible refine Steady.trans ?_ (modPort_steady ..)
      | with_reducible refine Steady.trans ?_ (logEvent_steady ..) | with_reducible apply steady_cond | intro _ | split
      | (grind [onSet_steady, modPort_steady, logEvent_steady, Steady.trans, Steady.refl])

theorem beaconSend_steady (s : State) : Steady s (beaconSend s) := by
  unfold beaconSend
  try dsimp only
  repeat' first
      | with_reducible exact Steady.refl _ | (simp (disch := with_reducible rfl) only [↓steady_upd])
      | with_reducible apply steady_ite | with_reducible apply steady_when | with_reducible apply steady_foldl
      | with_reducible refine Steady.trans ?_ (sendBeacon_steady ..) | with_reducible apply steady_cond | intro _ | split
      | (grind [sendBeacon_steady, Steady.trans, Steady.refl])

theorem neighbourSilent_steady (p : Nat) (s : State) : Steady s (neighbourSilent p s) := by
  unfold neighbourSilent
  try dsimp only
  repeat' first
      | with_reducible exact Steady.refl _ | (simp (disch := with_reducible rfl) only [↓steady_upd])
      | with_reducible apply steady_ite | with_reducible apply steady_when | with_reducible apply steady_foldl
      | with_reducible refine Steady.trans ?_ (logEvent_steady ..) | with_reducible refine Steady.trans ?_ (count_steady ..)
      | with_reducible refine Steady.trans ?_ (modPort_steady ..) | with_reducible apply steady_cond | intro _ | split
      | (grind [logEvent_steady, count_steady, modPort_steady, Steady.trans, Steady.refl])

theorem freezeNow_steady (s : State) : Steady s (freezeNow s) := by
  unfold freezeNow
  try dsimp only
  repeat' first
      | with_reducible exact Steady.refl _ | (simp (disch := with_reducible rfl) only [↓steady_upd])
      | with_reducible apply steady_ite | with_reducible apply steady_when | with_reducible apply steady_foldl
      | with_reducible refine Steady.trans ?_ (setMode_steady ..) | with_reducible refine Steady.trans ?_ (msix_steady ..)
      | with_reducible apply steady_cond | intro _ | split | (grind [setMode_steady, msix_steady, Steady.trans, Steady.refl])

theorem skipPatrols_steady (s : State) (t : Nat) : Steady s (skipPatrols s t) := by
  unfold skipPatrols
  try dsimp only
  repeat' first
      | with_reducible exact Steady.refl _ | (simp (disch := with_reducible rfl) only [↓steady_upd])
      | with_reducible apply steady_ite | with_reducible apply steady_when | with_reducible apply steady_foldl
      | with_reducible apply steady_cond | intro _ | split | (grind [Steady.trans, Steady.refl])

theorem missedEvents_steady (s : State) (t48 : Nat) : Steady s (missedEvents s t48) := by
  unfold missedEvents
  try dsimp only
  repeat' first
      | with_reducible exact Steady.refl _ | (simp (disch := with_reducible rfl) only [↓steady_upd])
      | with_reducible apply steady_ite | with_reducible apply steady_when | with_reducible apply steady_foldl
      | with_reducible refine Steady.trans ?_ (skipPatrols_steady ..)
      | with_reducible refine Steady.trans ?_ (slotStart_steady ..)
      | with_reducible refine Steady.trans ?_ (takeSnapshot_steady ..) | with_reducible apply steady_cond | intro _
      | split | (grind [skipPatrols_steady, slotStart_steady, takeSnapshot_steady, Steady.trans, Steady.refl])

theorem resume_steady (s : State) : Steady s (resume s) := by
  unfold resume
  try dsimp only
  repeat' first
      | with_reducible exact Steady.refl _ | (simp (disch := with_reducible rfl) only [↓steady_upd])
      | with_reducible apply steady_ite | with_reducible apply steady_when | with_reducible apply steady_foldl
      | with_reducible refine Steady.trans ?_ (countN_steady ..)
      | with_reducible refine Steady.trans ?_ (setMode_steady ..)
      | with_reducible refine Steady.trans ?_ (actHeld_steady ..)
      | with_reducible refine Steady.trans ?_ (missedEvents_steady ..)
      | with_reducible refine Steady.trans ?_ (cutCopy_steady ..) | with_reducible apply steady_cond | intro _ | split
      | (grind [countN_steady, setMode_steady, actHeld_steady, missedEvents_steady, cutCopy_steady, Steady.trans, Steady.refl])

theorem takeFreeze_steady (s : State) (id : Nat) (quiet : Bool) : Steady s (takeFreeze s id quiet) := by
  unfold takeFreeze
  try dsimp only
  repeat' first
      | with_reducible exact Steady.refl _ | (simp (disch := with_reducible rfl) only [↓steady_upd])
      | with_reducible apply steady_ite | with_reducible apply steady_when | with_reducible apply steady_foldl
      | with_reducible refine Steady.trans ?_ (freezeNow_steady ..) | with_reducible apply steady_cond | intro _ | split
      | (grind [freezeNow_steady, Steady.trans, Steady.refl])

theorem forwardSet_steady (s : State) (code : Byte) (port : Nat) (pay : BitVec 40) : Steady s (forwardSet s code port pay) := by
  unfold forwardSet
  try dsimp only
  repeat' first
      | with_reducible exact Steady.refl _ | (simp (disch := with_reducible rfl) only [↓steady_upd])
      | with_reducible apply steady_ite | with_reducible apply steady_when | with_reducible apply steady_foldl
      | with_reducible refine Steady.trans ?_ (sendSets_steady ..) | with_reducible apply steady_cond | intro _ | split
      | (grind [sendSets_steady, Steady.trans, Steady.refl])

theorem passSet_steady (s : State) (code : Byte) (port : Nat) (pay : BitVec 40) : Steady s (passSet s code port pay) := by
  unfold passSet
  try dsimp only
  repeat' first
      | with_reducible exact Steady.refl _ | (simp (disch := with_reducible rfl) only [↓steady_upd])
      | with_reducible apply steady_ite | with_reducible apply steady_when | with_reducible apply steady_foldl
      | with_reducible refine Steady.trans ?_ (sendSets_steady ..)
      | with_reducible refine Steady.trans ?_ (forwardSet_steady ..) | with_reducible apply steady_cond | intro _ | split
      | (grind [sendSets_steady, forwardSet_steady, Steady.trans, Steady.refl])

theorem freezeOrderedSet_steady (rx : SetRx) (s : State) : Steady s (freezeOrderedSet rx s) := by
  unfold freezeOrderedSet
  try dsimp only
  repeat' first
      | with_reducible exact Steady.refl _ | (simp (disch := with_reducible rfl) only [↓steady_upd])
      | with_reducible apply steady_ite | with_reducible apply steady_when | with_reducible apply steady_foldl
      | with_reducible refine Steady.trans ?_ (onTriple_steady ..)
      | with_reducible refine Steady.trans ?_ (takeFreeze_steady ..)
      | with_reducible refine Steady.trans ?_ (passSet_steady ..) | with_reducible apply steady_cond | intro _ | split
      | (grind [onTriple_steady, takeFreeze_steady, passSet_steady, Steady.trans, Steady.refl])

theorem clearFreeze_steady (s : State) (id : Nat) : Steady s (clearFreeze s id) := by
  unfold clearFreeze
  try dsimp only
  repeat' first
      | with_reducible exact Steady.refl _ | (simp (disch := with_reducible rfl) only [↓steady_upd])
      | with_reducible apply steady_ite | with_reducible apply steady_when | with_reducible apply steady_foldl
      | with_reducible apply steady_cond | intro _ | split | (grind [Steady.trans, Steady.refl])

theorem thawOrderedSet_steady (rx : SetRx) (s : State) : Steady s (thawOrderedSet rx s) := by
  unfold thawOrderedSet
  try dsimp only
  repeat' first
      | with_reducible exact Steady.refl _ | (simp (disch := with_reducible rfl) only [↓steady_upd])
      | with_reducible apply steady_ite | with_reducible apply steady_when | with_reducible apply steady_foldl
      | with_reducible refine Steady.trans ?_ (onTriple_steady ..)
      | with_reducible refine Steady.trans ?_ (resume_steady ..)
      | with_reducible refine Steady.trans ?_ (clearFreeze_steady ..)
      | with_reducible refine Steady.trans ?_ (passSet_steady ..) | with_reducible apply steady_cond | intro _ | split
      | (grind [onTriple_steady, resume_steady, clearFreeze_steady, passSet_steady, Steady.trans, Steady.refl])

theorem freezeNAssert_steady (s : State) : Steady s (freezeNAssert s) := by
  unfold freezeNAssert
  try dsimp only
  repeat' first
      | with_reducible exact Steady.refl _ | (simp (disch := with_reducible rfl) only [↓steady_upd])
      | with_reducible apply steady_ite | with_reducible apply steady_when | with_reducible apply steady_foldl
      | with_reducible refine Steady.trans ?_ (freezeNow_steady ..) | with_reducible apply steady_cond | intro _ | split
      | (grind [freezeNow_steady, Steady.trans, Steady.refl])

theorem freezeNRelease_steady (s : State) : Steady s (freezeNRelease s) := by
  unfold freezeNRelease
  try dsimp only
  repeat' first
      | with_reducible exact Steady.refl _ | (simp (disch := with_reducible rfl) only [↓steady_upd])
      | with_reducible apply steady_ite | with_reducible apply steady_when | with_reducible apply steady_foldl
      | with_reducible refine Steady.trans ?_ (resume_steady ..) | with_reducible apply steady_cond | intro _ | split
      | (grind [resume_steady, Steady.trans, Steady.refl])

theorem timeParentChange_steady (s : State) : Steady s (timeParentChange s) := by
  unfold timeParentChange
  try dsimp only
  repeat' first
      | with_reducible exact Steady.refl _ | (simp (disch := with_reducible rfl) only [↓steady_upd])
      | with_reducible apply steady_ite | with_reducible apply steady_when | with_reducible apply steady_foldl
      | with_reducible apply steady_cond | intro _ | split | (grind [Steady.trans, Steady.refl])

theorem timeSend_steady (s : State) : Steady s (timeSend s) := by
  unfold timeSend
  try dsimp only
  repeat' first
      | with_reducible exact Steady.refl _ | (simp (disch := with_reducible rfl) only [↓steady_upd])
      | with_reducible apply steady_ite | with_reducible apply steady_when | with_reducible apply steady_foldl
      | with_reducible refine Steady.trans ?_ (sendSet_steady ..) | with_reducible apply steady_cond | intro _ | split
      | (grind [sendSet_steady, Steady.trans, Steady.refl])

theorem timeAnswer_steady (p : Nat) (s : State) : Steady s (timeAnswer p s) := by
  unfold timeAnswer
  try dsimp only
  repeat' first
      | with_reducible exact Steady.refl _ | (simp (disch := with_reducible rfl) only [↓steady_upd])
      | with_reducible apply steady_ite | with_reducible apply steady_when | with_reducible apply steady_foldl
      | with_reducible refine Steady.trans ?_ (emit_steady ..)
      | with_reducible refine Steady.trans ?_ (sideTaken_steady ..) | with_reducible apply steady_cond | intro _ | split
      | (grind [emit_steady, sideTaken_steady, Steady.trans, Steady.refl])

theorem useAnswer_steady (s : State) (t1 : Nat) (p : BitVec 40) : Steady s (useAnswer s t1 p) := by
  unfold useAnswer
  try dsimp only
  repeat' first
      | with_reducible exact Steady.refl _ | (simp (disch := with_reducible rfl) only [↓steady_upd])
      | with_reducible apply steady_ite | with_reducible apply steady_when | with_reducible apply steady_foldl
      | with_reducible apply steady_cond | intro _ | split | (grind [Steady.trans, Steady.refl])

theorem time_steady (rx : SetRx) (s : State) : Steady s (time rx s) := by
  unfold time
  try dsimp only
  repeat' first
      | with_reducible exact Steady.refl _ | (simp (disch := with_reducible rfl) only [↓steady_upd])
      | with_reducible apply steady_ite | with_reducible apply steady_when | with_reducible apply steady_foldl
      | with_reducible apply onSet_steady | with_reducible refine Steady.trans ?_ (useAnswer_steady ..)
      | with_reducible apply steady_cond | intro _ | split
      | (grind [onSet_steady, useAnswer_steady, Steady.trans, Steady.refl])

theorem timeAnswerMissing_steady (s : State) : Steady s (timeAnswerMissing s) := by
  unfold timeAnswerMissing
  try dsimp only
  repeat' first
      | with_reducible exact Steady.refl _ | (simp (disch := with_reducible rfl) only [↓steady_upd])
      | with_reducible apply steady_ite | with_reducible apply steady_when | with_reducible apply steady_foldl
      | with_reducible apply steady_cond | intro _ | split | (grind [Steady.trans, Steady.refl])

end Sys2Proof.Machine
end

