-- ==== Sys2Proof/Laws/Steady/Ports.lean ====
section
/-! SUPPORT. `Steady` of the functions of Machine/Ports.lean. -/

set_option Elab.async false

namespace Sys2Proof.Machine

seal count countN emit recomputeHealth modPort sendSet sendPause decRef dropIds dropOutput sbLost sendProbe sparingTimeout
  tryTrain accept sidebandUp spareRxAligned lossOfLock cutCopy twinLostRow bringUp spareDone linkprobeEcho rejectPeer
  linkprobe portDown trainTimeout portFault laneMoveComplete laneFailed lossOfSignal reject announce announceSend
  sendWaggle trainComplete spareReq sendSparing fecUncorr onSet wagIgnored discard probeFrame? frameSent sentBefore
  restartCopies

theorem sendWaggle_steady (s : State) (p : Nat) (w : BitVec 512) : Steady s (sendWaggle s p w) := by
  unfold sendWaggle
  try dsimp only
  repeat' first
      | with_reducible exact Steady.refl _ | (simp (disch := with_reducible rfl) only [↓steady_upd])
      | with_reducible apply steady_ite | with_reducible apply steady_when | with_reducible apply steady_foldl
      | with_reducible refine Steady.trans ?_ (emit_steady ..) | with_reducible refine Steady.trans ?_ (sendSet_steady ..)
      | with_reducible apply steady_cond | intro _ | split | (grind [emit_steady, sendSet_steady, Steady.trans, Steady.refl])

theorem sendSparing_steady (s : State) (p : Nat) (type : Nat) (llane : Nat) (narrow : Bool) : Steady s (sendSparing s p type
  llane narrow) := by
  unfold sendSparing
  try dsimp only
  repeat' first
      | with_reducible exact Steady.refl _ | (simp (disch := with_reducible rfl) only [↓steady_upd])
      | with_reducible apply steady_ite | with_reducible apply steady_when | with_reducible apply steady_foldl
      | with_reducible refine Steady.trans ?_ (sendWaggle_steady ..) | with_reducible apply steady_cond | intro _ | split
      | (grind [sendWaggle_steady, Steady.trans, Steady.refl])

theorem dropOutput_steady (s : State) (o : Nat) : Steady s (dropOutput s o) := by
  unfold dropOutput
  try dsimp only
  repeat' first
      | with_reducible exact Steady.refl _ | (simp (disch := with_reducible rfl) only [↓steady_upd])
      | with_reducible apply steady_ite | with_reducible apply steady_when | with_reducible apply steady_foldl
      | with_reducible refine Steady.trans ?_ (dropIds_steady ..) | with_reducible refine Steady.trans ?_ (decRef_steady ..)
      | with_reducible apply steady_cond | intro _ | split
      | (grind [dropIds_steady, decRef_steady, Steady.trans, Steady.refl])

theorem portDown_steady (s : State) (p : Nat) : Steady s (portDown s p) := by
  unfold portDown
  try dsimp only
  repeat' first
      | with_reducible exact Steady.refl _ | (simp (disch := with_reducible rfl) only [↓steady_upd])
      | with_reducible apply steady_ite | with_reducible apply steady_when | with_reducible apply steady_foldl
      | with_reducible refine Steady.trans ?_ (modPort_steady ..)
      | with_reducible refine Steady.trans ?_ (recomputeHealth_steady ..)
      | with_reducible refine Steady.trans ?_ (dropOutput_steady ..) | with_reducible apply steady_cond | intro _ | split
      | (grind [modPort_steady, recomputeHealth_steady, dropOutput_steady, Steady.trans, Steady.refl])

theorem portFault_steady (s : State) (p : Nat) (f : PFault) (c : Ctr) : Steady s (portFault s p f c) := by
  unfold portFault
  try dsimp only
  repeat' first
      | with_reducible exact Steady.refl _ | (simp (disch := with_reducible rfl) only [↓steady_upd])
      | with_reducible apply steady_ite | with_reducible apply steady_when | with_reducible apply steady_foldl
      | with_reducible refine Steady.trans ?_ (recomputeHealth_steady ..)
      | with_reducible refine Steady.trans ?_ (modPort_steady ..)
      | with_reducible refine Steady.trans ?_ (portDown_steady ..) | with_reducible refine Steady.trans ?_ (count_steady ..)
      | with_reducible apply steady_cond | intro _ | split
      | (grind [recomputeHealth_steady, modPort_steady, portDown_steady, count_steady, Steady.trans, Steady.refl])

theorem announceSend_steady (p : Nat) (s : State) : Steady s (announceSend p s) := by
  unfold announceSend
  try dsimp only
  repeat' first
      | with_reducible exact Steady.refl _ | (simp (disch := with_reducible rfl) only [↓steady_upd])
      | with_reducible apply steady_ite | with_reducible apply steady_when | with_reducible apply steady_foldl
      | with_reducible refine Steady.trans ?_ (sendWaggle_steady ..)
      | with_reducible refine Steady.trans ?_ (modPort_steady ..) | with_reducible apply steady_cond | intro _ | split
      | (grind [sendWaggle_steady, modPort_steady, Steady.trans, Steady.refl])

theorem tryTrain_steady (s : State) (p : Nat) : Steady s (tryTrain s p) := by
  unfold tryTrain
  try dsimp only
  repeat' first
      | with_reducible exact Steady.refl _ | (simp (disch := with_reducible rfl) only [↓steady_upd])
      | with_reducible apply steady_ite | with_reducible apply steady_when | with_reducible apply steady_foldl
      | with_reducible refine Steady.trans ?_ (portFault_steady ..)
      | with_reducible refine Steady.trans ?_ (modPort_steady ..) | with_reducible apply steady_cond | intro _ | split
      | (grind [portFault_steady, modPort_steady, Steady.trans, Steady.refl])

theorem rejectPeer_steady (s : State) (p : Nat) (w : BitVec 512) (reason : Nat) : Steady s (rejectPeer s p w reason) := by
  unfold rejectPeer
  try dsimp only
  repeat' first
      | with_reducible exact Steady.refl _ | (simp (disch := with_reducible rfl) only [↓steady_upd])
      | with_reducible apply steady_ite | with_reducible apply steady_when | with_reducible apply steady_foldl
      | with_reducible refine Steady.trans ?_ (sendWaggle_steady ..)
      | with_reducible refine Steady.trans ?_ (portFault_steady ..) | with_reducible refine Steady.trans ?_ (count_steady ..)
      | with_reducible refine Steady.trans ?_ (recomputeHealth_steady ..)
      | with_reducible refine Steady.trans ?_ (portDown_steady ..) | with_reducible apply steady_cond | intro _ | split
      | (grind [sendWaggle_steady, portFault_steady, count_steady, recomputeHealth_steady, portDown_steady, Steady.trans, Steady.refl])

theorem wagIgnored_steady (s : State) (rx : WaggleRx) : Steady s (wagIgnored s rx) := by
  unfold wagIgnored
  try dsimp only
  repeat' first
      | with_reducible exact Steady.refl _ | (simp (disch := with_reducible rfl) only [↓steady_upd])
      | with_reducible apply steady_ite | with_reducible apply steady_when | with_reducible apply steady_foldl
      | with_reducible refine Steady.trans ?_ (onSet_steady ..) | with_reducible apply steady_cond | intro _ | split
      | (grind [onSet_steady, Steady.trans, Steady.refl])

theorem announce_steady (rx : WaggleRx) (s : State) : Steady s (announce rx s) := by
  unfold announce
  try dsimp only
  repeat' first
      | with_reducible exact Steady.refl _ | (simp (disch := with_reducible rfl) only [↓steady_upd])
      | with_reducible apply steady_ite | with_reducible apply steady_when | with_reducible apply steady_foldl
      | with_reducible refine Steady.trans ?_ (wagIgnored_steady ..)
      | with_reducible refine Steady.trans ?_ (modPort_steady ..)
      | with_reducible refine Steady.trans ?_ (portDown_steady ..)
      | with_reducible refine Steady.trans ?_ (rejectPeer_steady ..)
      | with_reducible refine Steady.trans ?_ (sendWaggle_steady ..)
      | with_reducible refine Steady.trans ?_ (tryTrain_steady ..) | with_reducible apply steady_cond | intro _ | split
      | (grind [wagIgnored_steady, modPort_steady, portDown_steady, rejectPeer_steady, sendWaggle_steady, tryTrain_steady, Steady.trans, Steady.refl])

theorem accept_steady (rx : WaggleRx) (s : State) : Steady s (accept rx s) := by
  unfold accept
  try dsimp only
  repeat' first
      | with_reducible exact Steady.refl _ | (simp (disch := with_reducible rfl) only [↓steady_upd])
      | with_reducible apply steady_ite | with_reducible apply steady_when | with_reducible apply steady_foldl
      | with_reducible refine Steady.trans ?_ (wagIgnored_steady ..)
      | with_reducible refine Steady.trans ?_ (tryTrain_steady ..)
      | with_reducible refine Steady.trans ?_ (modPort_steady ..) | with_reducible apply steady_cond | intro _ | split
      | (grind [wagIgnored_steady, tryTrain_steady, modPort_steady, Steady.trans, Steady.refl])

theorem reject_steady (rx : WaggleRx) (s : State) : Steady s (reject rx s) := by
  unfold reject
  try dsimp only
  repeat' first
      | with_reducible exact Steady.refl _ | (simp (disch := with_reducible rfl) only [↓steady_upd])
      | with_reducible apply steady_ite | with_reducible apply steady_when | with_reducible apply steady_foldl
      | with_reducible refine Steady.trans ?_ (wagIgnored_steady ..)
      | with_reducible refine Steady.trans ?_ (portFault_steady ..)
      | with_reducible refine Steady.trans ?_ (count_steady ..)
      | with_reducible refine Steady.trans ?_ (recomputeHealth_steady ..)
      | with_reducible refine Steady.trans ?_ (portDown_steady ..) | with_reducible apply steady_cond | intro _ | split
      | (grind [wagIgnored_steady, portFault_steady, count_steady, recomputeHealth_steady, portDown_steady, Steady.trans, Steady.refl])

theorem sendProbe_steady (s : State) (p : Nat) : Steady s (sendProbe s p) := by
  unfold sendProbe
  try dsimp only
  repeat' first
      | with_reducible exact Steady.refl _ | (simp (disch := with_reducible rfl) only [↓steady_upd])
      | with_reducible apply steady_ite | with_reducible apply steady_when | with_reducible apply steady_foldl
      | with_reducible refine Steady.trans ?_ (emit_steady ..) | with_reducible refine Steady.trans ?_ (modPort_steady ..)
      | with_reducible apply steady_cond | intro _ | split | (grind [emit_steady, modPort_steady, Steady.trans, Steady.refl])

theorem bringUp_steady (s : State) (p : Nat) (delay : Nat) : Steady s (bringUp s p delay) := by
  unfold bringUp
  try dsimp only
  repeat' first
      | with_reducible exact Steady.refl _ | (simp (disch := with_reducible rfl) only [↓steady_upd])
      | with_reducible apply steady_ite | with_reducible apply steady_when | with_reducible apply steady_foldl
      | with_reducible refine Steady.trans ?_ (portFault_steady ..)
      | with_reducible refine Steady.trans ?_ (modPort_steady ..)
      | with_reducible refine Steady.trans ?_ (recomputeHealth_steady ..) | with_reducible apply steady_cond | intro _
      | split | (grind [portFault_steady, modPort_steady, recomputeHealth_steady, Steady.trans, Steady.refl])

theorem trainComplete_steady (p : Nat) (marks : List Nat) (s : State) : Steady s (trainComplete p marks s) := by
  unfold trainComplete
  try dsimp only
  repeat' first
      | with_reducible exact Steady.refl _ | (simp (disch := with_reducible rfl) only [↓steady_upd])
      | with_reducible apply steady_ite | with_reducible apply steady_when | with_reducible apply steady_foldl
      | with_reducible refine Steady.trans ?_ (portFault_steady ..)
      | with_reducible refine Steady.trans ?_ (modPort_steady ..)
      | with_reducible refine Steady.trans ?_ (bringUp_steady ..)
      | with_reducible refine Steady.trans ?_ (sendProbe_steady ..) | with_reducible apply steady_cond | intro _ | split
      | (grind [portFault_steady, modPort_steady, bringUp_steady, sendProbe_steady, Steady.trans, Steady.refl])

theorem trainTimeout_steady (p : Nat) (s : State) : Steady s (trainTimeout p s) := by
  unfold trainTimeout
  try dsimp only
  repeat' first
      | with_reducible exact Steady.refl _ | (simp (disch := with_reducible rfl) only [↓steady_upd])
      | with_reducible apply steady_ite | with_reducible apply steady_when | with_reducible apply steady_foldl
      | with_reducible refine Steady.trans ?_ (portDown_steady ..) | with_reducible apply steady_cond | intro _ | split
      | (grind [portDown_steady, Steady.trans, Steady.refl])

theorem probeFrame?_steady (s : State) (p : Nat) (f : Frame) : (∀ x00, (probeFrame? s p f) = some x00 → Steady s x00) := by
  unfold probeFrame?
  intros; rename_i hx
  try dsimp only at hx
  repeat' split at hx
  all_goals cases hx
  all_goals repeat' first
      | with_reducible exact Steady.refl _ | (simp (disch := with_reducible rfl) only [↓steady_upd])
      | with_reducible apply steady_ite | with_reducible apply steady_when | with_reducible apply steady_foldl
      | with_reducible refine Steady.trans ?_ (discard_steady ..)
      | with_reducible refine Steady.trans ?_ (count_steady ..) | with_reducible apply steady_cond | intro _ | split
      | (grind [discard_steady, count_steady, Steady.trans, Steady.refl])

theorem linkprobe_steady (p : Nat) (f : Frame) (s : State) : Steady s (linkprobe p f s) := by
  unfold linkprobe
  try dsimp only
  repeat' first
      | with_reducible exact Steady.refl _ | (simp (disch := with_reducible rfl) only [↓steady_upd])
      | with_reducible apply steady_ite | with_reducible apply steady_when | with_reducible apply steady_foldl
      | with_reducible refine Steady.trans ?_ (probeFrame?_steady ..)
      | with_reducible refine Steady.trans ?_ (emit_steady ..) | with_reducible apply steady_cond | intro _ | split
      | (grind [probeFrame?_steady, emit_steady, Steady.trans, Steady.refl])

theorem linkprobeEcho_steady (p : Nat) (f : Frame) (s : State) : Steady s (linkprobeEcho p f s) := by
  unfold linkprobeEcho
  try dsimp only
  repeat' first
      | with_reducible exact Steady.refl _ | (simp (disch := with_reducible rfl) only [↓steady_upd])
      | with_reducible apply steady_ite | with_reducible apply steady_when | with_reducible apply steady_foldl
      | with_reducible refine Steady.trans ?_ (probeFrame?_steady ..)
      | with_reducible refine Steady.trans ?_ (modPort_steady ..)
      | with_reducible refine Steady.trans ?_ (sendProbe_steady ..)
      | with_reducible refine Steady.trans ?_ (bringUp_steady ..)
      | with_reducible refine Steady.trans ?_ (portDown_steady ..)
      | with_reducible refine Steady.trans ?_ (count_steady ..) | with_reducible apply steady_cond | intro _ | split
      | (grind [probeFrame?_steady, modPort_steady, sendProbe_steady, bringUp_steady, portDown_steady, count_steady, Steady.trans, Steady.refl])

theorem sidebandUp_steady (p : Nat) (s : State) : Steady s (sidebandUp p s) := by
  unfold sidebandUp
  try dsimp only
  repeat' first
      | with_reducible exact Steady.refl _ | (simp (disch := with_reducible rfl) only [↓steady_upd])
      | with_reducible apply steady_ite | with_reducible apply steady_when | with_reducible apply steady_foldl
      | with_reducible refine Steady.trans ?_ (modPort_steady ..) | with_reducible apply steady_cond | intro _ | split
      | (grind [modPort_steady, Steady.trans, Steady.refl])

theorem sbLost_steady (p : Nat) (s : State) : Steady s (sbLost p s) := by
  unfold sbLost
  try dsimp only
  repeat' first
      | with_reducible exact Steady.refl _ | (simp (disch := with_reducible rfl) only [↓steady_upd])
      | with_reducible apply steady_ite | with_reducible apply steady_when | with_reducible apply steady_foldl
      | with_reducible refine Steady.trans ?_ (portFault_steady ..)
      | with_reducible refine Steady.trans ?_ (modPort_steady ..) | with_reducible apply steady_cond | intro _ | split
      | (grind [portFault_steady, modPort_steady, Steady.trans, Steady.refl])

theorem laneFailed_steady (s : State) (p : Nat) (lane : Nat) : Steady s (laneFailed s p lane) := by
  unfold laneFailed
  try dsimp only
  repeat' first
      | with_reducible exact Steady.refl _ | (simp (disch := with_reducible rfl) only [↓steady_upd])
      | with_reducible apply steady_ite | with_reducible apply steady_when | with_reducible apply steady_foldl
      | with_reducible refine Steady.trans ?_ (modPort_steady ..)
      | with_reducible refine Steady.trans ?_ (portDown_steady ..)
      | with_reducible refine Steady.trans ?_ (recomputeHealth_steady ..)
      | with_reducible refine Steady.trans ?_ (sendSparing_steady ..) | with_reducible apply steady_cond | intro _ | split
      | (grind [modPort_steady, portDown_steady, recomputeHealth_steady, sendSparing_steady, Steady.trans, Steady.refl])

theorem lossOfSignal_steady (p : Nat) (lane : Nat) (s : State) : Steady s (lossOfSignal p lane s) := by
  unfold lossOfSignal
  try dsimp only
  repeat' first
      | with_reducible exact Steady.refl _ | (simp (disch := with_reducible rfl) only [↓steady_upd])
      | with_reducible apply steady_ite | with_reducible apply steady_when | with_reducible apply steady_foldl
      | with_reducible refine Steady.trans ?_ (laneFailed_steady ..)
      | with_reducible refine Steady.trans ?_ (count_steady ..) | with_reducible apply steady_cond | intro _ | split
      | (grind [laneFailed_steady, count_steady, Steady.trans, Steady.refl])

theorem lossOfLock_steady (p : Nat) (lane : Nat) (s : State) : Steady s (lossOfLock p lane s) := by
  unfold lossOfLock
  try dsimp only
  repeat' first
      | with_reducible exact Steady.refl _ | (simp (disch := with_reducible rfl) only [↓steady_upd])
      | with_reducible apply steady_ite | with_reducible apply steady_when | with_reducible apply steady_foldl
      | with_reducible refine Steady.trans ?_ (laneFailed_steady ..)
      | with_reducible refine Steady.trans ?_ (count_steady ..) | with_reducible apply steady_cond | intro _ | split
      | (grind [laneFailed_steady, count_steady, Steady.trans, Steady.refl])

theorem fecUncorr_steady (p : Nat) (lane : Nat) (n : Nat) (s : State) : Steady s (fecUncorr p lane n s) := by
  unfold fecUncorr
  try dsimp only
  repeat' first
      | with_reducible exact Steady.refl _ | (simp (disch := with_reducible rfl) only [↓steady_upd])
      | with_reducible apply steady_ite | with_reducible apply steady_when | with_reducible apply steady_foldl
      | with_reducible refine Steady.trans ?_ (count_steady ..)
      | with_reducible refine Steady.trans ?_ (modPort_steady ..)
      | with_reducible refine Steady.trans ?_ (countN_steady ..)
      | with_reducible refine Steady.trans ?_ (discard_steady ..) | with_reducible apply steady_cond | intro _ | split
      | (grind [count_steady, modPort_steady, countN_steady, discard_steady, Steady.trans, Steady.refl])

theorem sentBefore_steady (s : State) (o : Nat) : Steady s (sentBefore s o) := by
  unfold sentBefore
  try dsimp only
  repeat' first
      | with_reducible exact Steady.refl _ | (simp (disch := with_reducible rfl) only [↓steady_upd])
      | with_reducible apply steady_ite | with_reducible apply steady_when | with_reducible apply steady_foldl
      | with_reducible refine Steady.trans ?_ (frameSent_steady ..) | with_reducible apply steady_cond | intro _ | split
      | (grind [frameSent_steady, Steady.trans, Steady.refl])

theorem spareReq_steady (rx : WaggleRx) (s : State) : Steady s (spareReq rx s) := by
  unfold spareReq
  try dsimp only
  repeat' first
      | with_reducible exact Steady.refl _ | (simp (disch := with_reducible rfl) only [↓steady_upd])
      | with_reducible apply steady_ite | with_reducible apply steady_when | with_reducible apply steady_foldl
      | with_reducible refine Steady.trans ?_ (wagIgnored_steady ..)
      | with_reducible refine Steady.trans ?_ (cutCopy_steady ..)
      | with_reducible refine Steady.trans ?_ (sentBefore_steady ..)
      | with_reducible refine Steady.trans ?_ (modPort_steady ..) | with_reducible apply steady_cond | intro _ | split
      | (grind [wagIgnored_steady, cutCopy_steady, sentBefore_steady, modPort_steady, Steady.trans, Steady.refl])

theorem laneMoveComplete_steady (p : Nat) (s : State) : Steady s (laneMoveComplete p s) := by
  unfold laneMoveComplete
  try dsimp only
  repeat' first
      | with_reducible exact Steady.refl _ | (simp (disch := with_reducible rfl) only [↓steady_upd])
      | with_reducible apply steady_ite | with_reducible apply steady_when | with_reducible apply steady_foldl
      | with_reducible refine Steady.trans ?_ (emit_steady ..) | with_reducible refine Steady.trans ?_ (modPort_steady ..)
      | with_reducible apply steady_cond | intro _ | split | (grind [emit_steady, modPort_steady, Steady.trans, Steady.refl])

theorem spareRxAligned_steady (p : Nat) (s : State) : Steady s (spareRxAligned p s) := by
  unfold spareRxAligned
  try dsimp only
  repeat' first
      | with_reducible exact Steady.refl _ | (simp (disch := with_reducible rfl) only [↓steady_upd])
      | with_reducible apply steady_ite | with_reducible apply steady_when | with_reducible apply steady_foldl
      | with_reducible refine Steady.trans ?_ (modPort_steady ..)
      | with_reducible refine Steady.trans ?_ (recomputeHealth_steady ..)
      | with_reducible refine Steady.trans ?_ (sendSparing_steady ..) | with_reducible apply steady_cond | intro _ | split
      | (grind [modPort_steady, recomputeHealth_steady, sendSparing_steady, Steady.trans, Steady.refl])

theorem spareDone_steady (rx : WaggleRx) (s : State) : Steady s (spareDone rx s) := by
  unfold spareDone
  try dsimp only
  repeat' first
      | with_reducible exact Steady.refl _ | (simp (disch := with_reducible rfl) only [↓steady_upd])
      | with_reducible apply steady_ite | with_reducible apply steady_when | with_reducible apply steady_foldl
      | with_reducible refine Steady.trans ?_ (wagIgnored_steady ..)
      | with_reducible refine Steady.trans ?_ (modPort_steady ..)
      | with_reducible refine Steady.trans ?_ (recomputeHealth_steady ..)
      | with_reducible refine Steady.trans ?_ (sendPause_steady ..)
      | with_reducible refine Steady.trans ?_ (restartCopies_steady ..) | with_reducible apply steady_cond | intro _
      | split
      | (grind [wagIgnored_steady, modPort_steady, recomputeHealth_steady, sendPause_steady, restartCopies_steady, Steady.trans, Steady.refl])

theorem sparingTimeout_steady (p : Nat) (s : State) : Steady s (sparingTimeout p s) := by
  unfold sparingTimeout
  try dsimp only
  repeat' first
      | with_reducible exact Steady.refl _ | (simp (disch := with_reducible rfl) only [↓steady_upd])
      | with_reducible apply steady_ite | with_reducible apply steady_when | with_reducible apply steady_foldl
      | with_reducible refine Steady.trans ?_ (portDown_steady ..) | with_reducible apply steady_cond | intro _ | split
      | (grind [portDown_steady, Steady.trans, Steady.refl])

theorem twinLostRow_steady (s : State) : Steady s (twinLostRow s) := by
  unfold twinLostRow
  try dsimp only
  repeat' first
      | with_reducible exact Steady.refl _ | (simp (disch := with_reducible rfl) only [↓steady_upd])
      | with_reducible apply steady_ite | with_reducible apply steady_when | with_reducible apply steady_foldl
      | with_reducible refine Steady.trans ?_ (recomputeHealth_steady ..)
      | with_reducible refine Steady.trans ?_ (count_steady ..) | with_reducible apply steady_cond | intro _ | split
      | (grind [recomputeHealth_steady, count_steady, Steady.trans, Steady.refl])

end Sys2Proof.Machine
end

