-- ==== Sys2Proof/Laws/Steady/Boot.lean ====
section
/-! SUPPORT. `Steady` of the functions of Machine/Boot.lean. -/

set_option Elab.async false

namespace Sys2Proof.Machine

seal count setMode recomputeHealth portDown replaceCore spareUnavailable streamUnitRetire loadEngineProgs trainHbm stageWork
  lanesOff endScopes mainPowerLost bootStageComplete fullReset bootFails resetDomains stageDone settleCore settleUnits
  tryBoot latchSlot numberUnits bootDone fwAuth selfTest doubleFree setScopes leakN retireCluster settleQueen

theorem lanesOff_steady (s : State) : Steady s (lanesOff s) := by
  unfold lanesOff
  try dsimp only
  repeat' first
      | with_reducible exact Steady.refl _ | (simp (disch := with_reducible rfl) only [↓steady_upd])
      | with_reducible apply steady_ite | with_reducible apply steady_when | with_reducible apply steady_foldl
      | with_reducible refine Steady.trans ?_ (portDown_steady ..) | with_reducible apply steady_cond | intro _ | split
      | (grind [portDown_steady, Steady.trans, Steady.refl])

unseal resetDomains in
theorem resetDomains_steady (s : State) : Steady s (resetDomains s) := by
  unfold resetDomains
  refine Steady.trans (lanesOff_steady s) ?_
  generalize lanesOff s = v
  constructor <;> intros <;> first | rfl | assumption | simp_all

theorem mainPowerLost_steady (s : State) : Steady s (mainPowerLost s) := by
  unfold mainPowerLost
  try dsimp only
  repeat' first
      | with_reducible exact Steady.refl _ | (simp (disch := with_reducible rfl) only [↓steady_upd])
      | with_reducible apply steady_ite | with_reducible apply steady_when | with_reducible apply steady_foldl
      | with_reducible refine Steady.trans ?_ (resetDomains_steady ..)
      | with_reducible refine Steady.trans ?_ (recomputeHealth_steady ..)
      | with_reducible refine Steady.trans ?_ (setMode_steady ..) | with_reducible apply steady_cond | intro _ | split
      | (grind [resetDomains_steady, recomputeHealth_steady, setMode_steady, Steady.trans, Steady.refl])

unseal endScopes in
theorem endScopes_steady (s : State) : Steady s (endScopes s) := by
  unfold endScopes
  dsimp only
  refine Steady.trans (setScopes_steady s 0 none fun _ => rfl) ?_
  simp (disch := with_reducible rfl) only [steady_upd]
  exact Steady.refl _

theorem fullReset_steady (s : State) : Steady s (fullReset s) := by
  unfold fullReset
  try dsimp only
  repeat' first
      | with_reducible exact Steady.refl _ | (simp (disch := with_reducible rfl) only [↓steady_upd])
      | with_reducible apply steady_ite | with_reducible apply steady_when | with_reducible apply steady_foldl
      | with_reducible refine Steady.trans ?_ (endScopes_steady ..)
      | with_reducible refine Steady.trans ?_ (resetDomains_steady ..)
      | with_reducible refine Steady.trans ?_ (recomputeHealth_steady ..)
      | with_reducible refine Steady.trans ?_ (setMode_steady ..) | with_reducible apply steady_cond | intro _ | split
      | (grind [endScopes_steady, resetDomains_steady, recomputeHealth_steady, setMode_steady, Steady.trans, Steady.refl])

theorem tryBoot_steady (s : State) : Steady s (tryBoot s) := by
  unfold tryBoot
  try dsimp only
  repeat' first
      | with_reducible exact Steady.refl _ | (simp (disch := with_reducible rfl) only [↓steady_upd])
      | with_reducible apply steady_ite | with_reducible apply steady_when | with_reducible apply steady_foldl
      | with_reducible refine Steady.trans ?_ (setMode_steady ..) | with_reducible apply steady_cond | intro _ | split
      | (grind [setMode_steady, Steady.trans, Steady.refl])

theorem bootFails_steady (s : State) (code : Byte) : Steady s (bootFails s code) := by
  unfold bootFails
  try dsimp only
  repeat' first
      | with_reducible exact Steady.refl _ | (simp (disch := with_reducible rfl) only [↓steady_upd])
      | with_reducible apply steady_ite | with_reducible apply steady_when | with_reducible apply steady_foldl
      | with_reducible refine Steady.trans ?_ (mainPowerLost_steady ..) | with_reducible apply steady_cond | intro _ | split
      | (grind [mainPowerLost_steady, Steady.trans, Steady.refl])

theorem fwAuth_steady (s : State) : Steady s (fwAuth s) := by
  unfold fwAuth
  try dsimp only
  repeat' first
      | with_reducible exact Steady.refl _ | (simp (disch := with_reducible rfl) only [↓steady_upd])
      | with_reducible apply steady_ite | with_reducible apply steady_when | with_reducible apply steady_foldl
      | with_reducible refine Steady.trans ?_ (mainPowerLost_steady ..) | with_reducible apply steady_cond | intro _ | split
      | (grind [mainPowerLost_steady, Steady.trans, Steady.refl])

theorem latchSlot_steady (s : State) : Steady s (latchSlot s) := by
  unfold latchSlot
  try dsimp only
  repeat' first
      | with_reducible exact Steady.refl _ | (simp (disch := with_reducible rfl) only [↓steady_upd])
      | with_reducible apply steady_ite | with_reducible apply steady_when | with_reducible apply steady_foldl
      | with_reducible refine Steady.trans ?_ (count_steady ..) | with_reducible apply steady_cond | intro _ | split
      | (grind [count_steady, Steady.trans, Steady.refl])

theorem selfTest_steady (s : State) (r : StageReport) : Steady s (selfTest s r) := by
  unfold selfTest
  try dsimp only
  repeat' first
      | with_reducible exact Steady.refl _ | (simp (disch := with_reducible rfl) only [↓steady_upd])
      | with_reducible apply steady_ite | with_reducible apply steady_when | with_reducible apply steady_foldl
      | with_reducible apply steady_cond | intro _ | split | (grind [Steady.trans, Steady.refl])

theorem settleCore_steady (s : State) (f : Nat × Nat) : Steady s (settleCore s f) := by
  unfold settleCore
  try dsimp only
  repeat' first
      | with_reducible exact Steady.refl _ | (simp (disch := with_reducible rfl) only [↓steady_upd])
      | with_reducible apply steady_ite | with_reducible apply steady_when | with_reducible apply steady_foldl
      | with_reducible refine Steady.trans ?_ (replaceCore_steady ..)
      | with_reducible refine Steady.trans ?_ (spareUnavailable_steady ..) | with_reducible apply steady_cond | intro _
      | split | (grind [replaceCore_steady, spareUnavailable_steady, Steady.trans, Steady.refl])

theorem settleQueen_steady (s : State) (ph : Nat) : Steady s (settleQueen s ph) := by
  unfold settleQueen
  try dsimp only
  repeat' first
      | with_reducible exact Steady.refl _ | (simp (disch := with_reducible rfl) only [↓steady_upd])
      | with_reducible apply steady_ite | with_reducible apply steady_when | with_reducible apply steady_foldl
      | with_reducible refine Steady.trans ?_ (retireCluster_steady ..) | with_reducible apply steady_cond | intro _
      | split | (grind [retireCluster_steady, Steady.trans, Steady.refl])

theorem settleUnits_steady (s : State) : Steady s (settleUnits s) := by
  unfold settleUnits
  try dsimp only
  repeat' first
      | with_reducible exact Steady.refl _ | (simp (disch := with_reducible rfl) only [↓steady_upd])
      | with_reducible apply steady_ite | with_reducible apply steady_when | with_reducible apply steady_foldl
      | with_reducible refine Steady.trans ?_ (settleQueen_steady ..)
      | with_reducible refine Steady.trans ?_ (settleCore_steady ..)
      | with_reducible refine Steady.trans ?_ (streamUnitRetire_steady ..) | with_reducible apply steady_cond | intro _
      | split | (grind [settleQueen_steady, settleCore_steady, streamUnitRetire_steady, Steady.trans, Steady.refl])

theorem numberUnits_steady (s : State) : Steady s (numberUnits s) := by
  unfold numberUnits
  try dsimp only
  repeat' first
      | with_reducible exact Steady.refl _ | (simp (disch := with_reducible rfl) only [↓steady_upd])
      | with_reducible apply steady_ite | with_reducible apply steady_when | with_reducible apply steady_foldl
      | with_reducible refine Steady.trans ?_ (settleUnits_steady ..) | with_reducible apply steady_cond | intro _ | split
      | (grind [settleUnits_steady, Steady.trans, Steady.refl])

theorem trainHbm_steady (s : State) (r : StageReport) : Steady s (trainHbm s r) := by
  unfold trainHbm
  try dsimp only
  repeat' first
      | with_reducible exact Steady.refl _ | (simp (disch := with_reducible rfl) only [↓steady_upd])
      | with_reducible apply steady_ite | with_reducible apply steady_when | with_reducible apply steady_foldl
      | with_reducible refine Steady.trans ?_ (recomputeHealth_steady ..) | with_reducible apply steady_cond | intro _
      | split | (grind [recomputeHealth_steady, Steady.trans, Steady.refl])

unseal stageWork in
theorem stageWork_steady (s : State) (k : Nat) (r : StageReport) : Steady s (stageWork s k r) := by
  unfold stageWork
  split
  all_goals first
    | exact Steady.refl s
    | (simp (disch := with_reducible rfl) only [steady_upd]; exact Steady.refl s)
    | exact fwAuth_steady s
    | exact latchSlot_steady s
    | exact selfTest_steady ..
    | exact numberUnits_steady s
    | exact trainHbm_steady ..
    | (refine Steady.trans ?_ (loadEngineProgs_steady ..); simp (disch := with_reducible rfl) only [steady_upd]; exact Steady.refl s)
    | (apply steady_mem (Steady.refl s) <;> first | with_reducible rfl | with_reducible exact id | exact fun _ => rfl)

theorem bootDone_steady (s : State) : Steady s (bootDone s) := by
  unfold bootDone
  try dsimp only
  repeat' first
      | with_reducible exact Steady.refl _ | (simp (disch := with_reducible rfl) only [↓steady_upd])
      | with_reducible apply steady_ite | with_reducible apply steady_when | with_reducible apply steady_foldl
      | with_reducible refine Steady.trans ?_ (setMode_steady ..) | with_reducible apply steady_cond | intro _ | split
      | (grind [setMode_steady, Steady.trans, Steady.refl])

theorem stageDone_steady (s : State) (k : Nat) (r : StageReport) : Steady s (stageDone s k r) := by
  unfold stageDone
  try dsimp only
  repeat' first
      | with_reducible exact Steady.refl _ | (simp (disch := with_reducible rfl) only [↓steady_upd])
      | with_reducible apply steady_ite | with_reducible apply steady_when | with_reducible apply steady_foldl
      | with_reducible refine Steady.trans ?_ (stageWork_steady ..)
      | with_reducible refine Steady.trans ?_ (tryBoot_steady ..)
      | with_reducible refine Steady.trans ?_ (bootDone_steady ..) | with_reducible apply steady_cond | intro _ | split
      | (grind [stageWork_steady, tryBoot_steady, bootDone_steady, Steady.trans, Steady.refl])

theorem bootStageComplete_steady (r : StageReport) (s : State) : Steady s (bootStageComplete r s) := by
  unfold bootStageComplete
  try dsimp only
  repeat' first
      | with_reducible exact Steady.refl _ | (simp (disch := with_reducible rfl) only [↓steady_upd])
      | with_reducible apply steady_ite | with_reducible apply steady_when | with_reducible apply steady_foldl
      | with_reducible refine Steady.trans ?_ (bootFails_steady ..)
      | with_reducible refine Steady.trans ?_ (stageDone_steady ..) | with_reducible apply steady_cond | intro _ | split
      | (grind [bootFails_steady, stageDone_steady, Steady.trans, Steady.refl])

end Sys2Proof.Machine
end

