-- ==== Sys2Proof/Laws/Steady/Sceuf.lean ====
section
/-! SUPPORT. `Steady` of the functions of Machine/Sceuf.lean. -/

set_option Elab.async false

namespace Sys2Proof.Machine

seal respond runCmd done refused takeReq stateRefusal checkAndRun sendMsg

theorem refused_steady (s : State) (st : Status) (detail : Nat) : Steady s (refused s st detail).s := by
  unfold refused
  try dsimp only
  repeat' first
      | with_reducible exact Steady.refl _ | (simp (disch := with_reducible rfl) only [↓steady_upd])
      | with_reducible apply steady_ite | with_reducible apply steady_when | with_reducible apply steady_foldl
      | with_reducible apply steady_cond | intro _ | split | (grind [Steady.trans, Steady.refl])

theorem done_steady (s : State) (resp : List Word) : Steady s (done s resp).s := by
  unfold done
  try dsimp only
  repeat' first
      | with_reducible exact Steady.refl _ | (simp (disch := with_reducible rfl) only [↓steady_upd])
      | with_reducible apply steady_ite | with_reducible apply steady_when | with_reducible apply steady_foldl
      | with_reducible apply steady_cond | intro _ | split | (grind [Steady.trans, Steady.refl])

theorem stateRefusal_steady (s : State) (mask : Nat) : Steady s (stateRefusal s mask).s := by
  unfold stateRefusal
  try dsimp only
  repeat' first
      | with_reducible exact Steady.refl _ | (simp (disch := with_reducible rfl) only [↓steady_upd])
      | with_reducible apply steady_ite | with_reducible apply steady_when | with_reducible apply steady_foldl
      | with_reducible refine Steady.trans ?_ (refused_steady ..) | with_reducible apply steady_cond | intro _ | split
      | (grind [refused_steady, Steady.trans, Steady.refl])

unseal checkAndRun in
theorem checkAndRun_steady (c : Cmd) (s : State) (r : Req) (hc : c.form s r = none → Steady s (c.run s r).s) : Steady s
  (checkAndRun c s r).s := by
  unfold checkAndRun
  split
  · exact refused_steady ..
  · split
    · exact refused_steady ..
    · split
      · exact refused_steady ..
      · split
        · refine Steady.trans ?_ (refused_steady ..)
          simp (disch := with_reducible rfl) only [steady_upd]
          exact Steady.refl s
        · split
          · exact refused_steady ..
          · split
            · exact refused_steady ..
            · rename_i hf
              split
              · exact refused_steady ..
              · split
                · exact hc hf
                · exact stateRefusal_steady ..

theorem takeReq_steady (s : State) (r : Req) : Steady s (takeReq s r) := by
  unfold takeReq
  try dsimp only
  repeat' first
      | with_reducible exact Steady.refl _ | (simp (disch := with_reducible rfl) only [↓steady_upd])
      | with_reducible apply steady_ite | with_reducible apply steady_when | with_reducible apply steady_foldl
      | with_reducible apply steady_cond | intro _ | split | (grind [Steady.trans, Steady.refl])

unseal runCmd in
theorem runCmd_steady (c : Cmd) (src : ReqSrc) (s : State) (hc : ∀ t r, c.form t r = none → Steady t (c.run t r).s) : Steady
  s (runCmd c src s) := by
  unfold runCmd
  split
  · exact Steady.refl s
  · rename_i r _
    dsimp only
    split
    · exact (takeReq_steady s r).trans (sendMsg_steady ..)
    · exact ((takeReq_steady s r).trans (checkAndRun_steady _ _ _ (hc _ _))).trans (respond_steady ..)

end Sys2Proof.Machine
end

