-- ==== Sys2Proof/Laws/Steady/Session.lean ====
section
/-! SUPPORT. `Steady` of the functions of Machine/Session.lean. -/

set_option Elab.async false

namespace Sys2Proof.Machine

seal originateMgmt respond done refused takeReq checkAndRun extendHistory renumber forwardRun setTestMode openSessionRun
  forward showClusters forwardCmd sendMsg

unseal renumber in
theorem renumber_steady (s : State) : Steady s (renumber s) := by
  have mv : ∀ (n : Nat) (f : Nat → Option Nat) (m : Mem), Mem.wf (moveBanks 0 n f m) = true := by
    intro n f m
    show tblWf 0#8 (moveBanks 0#8 n f m) = true
    refine tblWf_foldl _ _ _ _ ?_ rfl
    intro u e hu
    split
    · exact tblWf_set _ _ _ _ hu
    · exact hu
  unfold renumber
  apply steady_mem (Steady.refl s) <;> first
      | with_reducible rfl | with_reducible exact id | (intro _; dsimp only; exact mv _ _ _)

theorem showClusters_steady (s : State) : Steady s (showClusters s) := by
  unfold showClusters
  try dsimp only
  repeat' first
      | with_reducible exact Steady.refl _ | (simp (disch := with_reducible rfl) only [↓steady_upd])
      | with_reducible apply steady_ite | with_reducible apply steady_when | with_reducible apply steady_foldl
      | with_reducible apply steady_cond | intro _ | split | (grind [Steady.trans, Steady.refl])

theorem openSessionRun_steady (s : State) (r : Req) : Steady s (openSessionRun s r).s := by
  unfold openSessionRun
  try dsimp only
  repeat' first
      | with_reducible exact Steady.refl _ | (simp (disch := with_reducible rfl) only [↓steady_upd])
      | with_reducible apply steady_ite | with_reducible apply steady_when | with_reducible apply steady_foldl
      | with_reducible refine Steady.trans ?_ (refused_steady ..)
      | with_reducible refine Steady.trans ?_ (renumber_steady ..) | with_reducible refine Steady.trans ?_ (done_steady ..)
      | with_reducible refine Steady.trans ?_ (showClusters_steady ..)
      | with_reducible apply steady_cond | intro _ | split
      | (grind [refused_steady, renumber_steady, done_steady, Steady.trans, Steady.refl])

theorem openSessionCmd_steady  (t : State) (r : Req) (_hf : openSessionCmd.form t r = none) : Steady t (openSessionCmd.run t
  r).s := by
  dsimp only [openSessionCmd]
  repeat' first
      | with_reducible exact Steady.refl _ | (simp (disch := with_reducible rfl) only [↓steady_upd])
      | with_reducible apply steady_ite | with_reducible apply steady_when | with_reducible apply steady_foldl
      | with_reducible refine Steady.trans ?_ (openSessionRun_steady ..) | with_reducible apply steady_cond | intro _ | split
      | (grind [openSessionRun_steady, Steady.trans, Steady.refl])

theorem closeSessionCmd_steady  (t : State) (r : Req) (_hf : closeSessionCmd.form t r = none) : Steady t (closeSessionCmd.run
  t r).s := by
  dsimp only [closeSessionCmd]
  repeat' first
      | with_reducible exact Steady.refl _ | (simp (disch := with_reducible rfl) only [↓steady_upd])
      | with_reducible apply steady_ite | with_reducible apply steady_when | with_reducible apply steady_foldl
      | with_reducible refine Steady.trans ?_ (done_steady ..) | with_reducible apply steady_cond | intro _ | split
      | (grind [done_steady, Steady.trans, Steady.refl])

theorem getIdentityCmd_steady  (t : State) (r : Req) (_hf : getIdentityCmd.form t r = none) : Steady t (getIdentityCmd.run t
  r).s := by
  dsimp only [getIdentityCmd]
  repeat' first
      | with_reducible exact Steady.refl _ | (simp (disch := with_reducible rfl) only [↓steady_upd])
      | with_reducible apply steady_ite | with_reducible apply steady_when | with_reducible apply steady_foldl
      | with_reducible refine Steady.trans ?_ (done_steady ..) | with_reducible apply steady_cond | intro _ | split
      | (grind [done_steady, Steady.trans, Steady.refl])

theorem getStateCmd_steady  (t : State) (r : Req) (_hf : getStateCmd.form t r = none) : Steady t (getStateCmd.run t r).s := by
  dsimp only [getStateCmd]
  repeat' first
      | with_reducible exact Steady.refl _ | (simp (disch := with_reducible rfl) only [↓steady_upd])
      | with_reducible apply steady_ite | with_reducible apply steady_when | with_reducible apply steady_foldl
      | with_reducible refine Steady.trans ?_ (done_steady ..) | with_reducible apply steady_cond | intro _ | split
      | (grind [done_steady, Steady.trans, Steady.refl])

theorem extendHistory_steady (s : State) (x : List Byte) : Steady s (extendHistory s x) := by
  unfold extendHistory
  try dsimp only
  repeat' first
      | with_reducible exact Steady.refl _ | (simp (disch := with_reducible rfl) only [↓steady_upd])
      | with_reducible apply steady_ite | with_reducible apply steady_when | with_reducible apply steady_foldl
      | with_reducible apply steady_cond | intro _ | split | (grind [Steady.trans, Steady.refl])

theorem setTestMode_steady (s : State) (on : Bool) : Steady s (setTestMode s on) := by
  unfold setTestMode
  try dsimp only
  repeat' first
      | with_reducible exact Steady.refl _ | (simp (disch := with_reducible rfl) only [↓steady_upd])
      | with_reducible apply steady_ite | with_reducible apply steady_when | with_reducible apply steady_foldl
      | with_reducible refine Steady.trans ?_ (extendHistory_steady ..) | with_reducible apply steady_cond | intro _ | split
      | (grind [extendHistory_steady, Steady.trans, Steady.refl])

theorem setTestModeCmd_steady  (t : State) (r : Req) (_hf : setTestModeCmd.form t r = none) : Steady t (setTestModeCmd.run t
  r).s := by
  dsimp only [setTestModeCmd]
  repeat' first
      | with_reducible exact Steady.refl _ | (simp (disch := with_reducible rfl) only [↓steady_upd])
      | with_reducible apply steady_ite | with_reducible apply steady_when | with_reducible apply steady_foldl
      | with_reducible refine Steady.trans ?_ (done_steady ..)
      | with_reducible refine Steady.trans ?_ (setTestMode_steady ..) | with_reducible apply steady_cond | intro _ | split
      | (grind [done_steady, setTestMode_steady, Steady.trans, Steady.refl])

theorem forwardRun_steady (s : State) (r : Req) : Steady s (forwardRun s r) := by
  unfold forwardRun
  try dsimp only
  repeat' first
      | with_reducible exact Steady.refl _ | (simp (disch := with_reducible rfl) only [↓steady_upd])
      | with_reducible apply steady_ite | with_reducible apply steady_when | with_reducible apply steady_foldl
      | with_reducible refine Steady.trans ?_ (originateMgmt_steady ..) | with_reducible apply steady_cond | intro _ | split
      | (grind [originateMgmt_steady, Steady.trans, Steady.refl])

unseal forwardCmd in
theorem forwardCmd_steady  (t : State) (r : Req) (_hf : forwardCmd.form t r = none) : Steady t (forwardCmd.run t r).s := by
  dsimp only [forwardCmd]
  repeat' first
      | with_reducible exact Steady.refl _ | (simp (disch := with_reducible rfl) only [↓steady_upd])
      | with_reducible apply steady_ite | with_reducible apply steady_when | with_reducible apply steady_foldl
      | with_reducible refine Steady.trans ?_ (done_steady ..) | with_reducible refine Steady.trans ?_ (forwardRun_steady ..)
      | with_reducible apply steady_cond | intro _ | split
      | (grind [done_steady, forwardRun_steady, Steady.trans, Steady.refl])

unseal forward in
theorem forward_steady (src : ReqSrc) (s : State) : Steady s (forward src s) := by
  unfold forward
  split
  · exact Steady.refl s
  · rename_i r _
    have a := (takeReq_steady s r).trans (checkAndRun_steady forwardCmd (takeReq s r) r (forwardCmd_steady _ _))
    split
    · exact (takeReq_steady s r).trans (sendMsg_steady ..)
    · exact steady_ite _ a (a.trans (respond_steady ..))

end Sys2Proof.Machine
end

