-- ==== Sys2Proof/Laws/Steady/Membership.lean ====
section
/-! SUPPORT. `Steady` of the functions of Machine/Membership.lean. -/

set_option Elab.async false

namespace Sys2Proof.Machine

seal modStep setMode raisePoison done refused joinRun teardownCircuit writeRoutes setBank armEpochRun membershipChange
  setupCircuitRun writeMcast writeRankmap

theorem setEidCmd_steady  (t : State) (r : Req) (_hf : setEidCmd.form t r = none) : Steady t (setEidCmd.run t r).s := by
  dsimp only [setEidCmd]
  repeat' first
      | with_reducible exact Steady.refl _ | (simp (disch := with_reducible rfl) only [↓steady_upd])
      | with_reducible apply steady_ite | with_reducible apply steady_when | with_reducible apply steady_foldl
      | with_reducible refine Steady.trans ?_ (done_steady ..) | with_reducible apply steady_cond | intro _ | split
      | (grind [done_steady, Steady.trans, Steady.refl])

theorem membershipChange_steady (s : State) : Steady s (membershipChange s) := by
  unfold membershipChange
  try dsimp only
  repeat' first
      | with_reducible exact Steady.refl _ | (simp (disch := with_reducible rfl) only [↓steady_upd])
      | with_reducible apply steady_ite | with_reducible apply steady_when | with_reducible apply steady_foldl
      | with_reducible refine Steady.trans ?_ (modStep_steady ..)
      | with_reducible refine Steady.trans ?_ (raisePoison_steady ..) | with_reducible apply steady_cond | intro _ | split
      | (grind [modStep_steady, raisePoison_steady, Steady.trans, Steady.refl])

unseal joinRun in
theorem joinRun_steady (s : State) (r : Req) (hf : rn r 2 = 1 → rn r 1 = 1) : Steady s (joinRun s r).s := by
  unfold joinRun
  dsimp only
  split
  · refine Steady.trans (Steady.trans ?_ (setMode_steady ..)) (done_steady ..)
    constructor <;> intros <;> first | rfl | assumption | simp_all
  · split
    · exact refused_steady ..
    · split
      · exact refused_steady ..
      · refine Steady.trans (steady_ite _ (Steady.trans ?_ (membershipChange_steady ..)) ?_) (done_steady ..) <;>
          (simp (disch := with_reducible rfl) only [steady_upd]; exact Steady.refl s)

theorem joinCmd_steady  (t : State) (r : Req) (hf : joinCmd.form t r = none) : Steady t (joinCmd.run t r).s := by
  refine joinRun_steady t r fun h2 => ?_
  dsimp only [joinCmd, orForm, needs] at hf
  split at hf
  · simp_all
  · simp_all

theorem leaveCmd_steady  (t : State) (r : Req) (_hf : leaveCmd.form t r = none) : Steady t (leaveCmd.run t r).s := by
  dsimp only [leaveCmd]
  repeat' first
      | with_reducible exact Steady.refl _ | (simp (disch := with_reducible rfl) only [↓steady_upd])
      | with_reducible apply steady_ite | with_reducible apply steady_when | with_reducible apply steady_foldl
      | with_reducible refine Steady.trans ?_ (done_steady ..) | with_reducible refine Steady.trans ?_ (setMode_steady ..)
      | with_reducible apply steady_cond | intro _ | split | (grind [done_steady, setMode_steady, Steady.trans, Steady.refl])

theorem writeRoutes_steady (s : State) (r : Req) : Steady s (writeRoutes s r) := by
  unfold writeRoutes
  try dsimp only
  repeat' first
      | with_reducible exact Steady.refl _ | (simp (disch := with_reducible rfl) only [↓steady_upd])
      | with_reducible apply steady_ite | with_reducible apply steady_when | with_reducible apply steady_foldl
      | with_reducible apply steady_cond | intro _ | split | (grind [Steady.trans, Steady.refl])

theorem writeRoutesCmd_steady  (t : State) (r : Req) (_hf : writeRoutesCmd.form t r = none) : Steady t (writeRoutesCmd.run t
  r).s := by
  dsimp only [writeRoutesCmd]
  repeat' first
      | with_reducible exact Steady.refl _ | (simp (disch := with_reducible rfl) only [↓steady_upd])
      | with_reducible apply steady_ite | with_reducible apply steady_when | with_reducible apply steady_foldl
      | with_reducible refine Steady.trans ?_ (done_steady ..)
      | with_reducible refine Steady.trans ?_ (writeRoutes_steady ..)
      | with_reducible refine Steady.trans ?_ (refused_steady ..) | with_reducible apply steady_cond | intro _ | split
      | (grind [done_steady, writeRoutes_steady, refused_steady, Steady.trans, Steady.refl])

theorem writeMcast_steady (s : State) (r : Req) : Steady s (writeMcast s r) := by
  unfold writeMcast
  try dsimp only
  repeat' first
      | with_reducible exact Steady.refl _ | (simp (disch := with_reducible rfl) only [↓steady_upd])
      | with_reducible apply steady_ite | with_reducible apply steady_when | with_reducible apply steady_foldl
      | with_reducible apply steady_cond | intro _ | split | (grind [Steady.trans, Steady.refl])

theorem writeMcastCmd_steady  (t : State) (r : Req) (_hf : writeMcastCmd.form t r = none) : Steady t (writeMcastCmd.run t
  r).s := by
  dsimp only [writeMcastCmd]
  repeat' first
      | with_reducible exact Steady.refl _ | (simp (disch := with_reducible rfl) only [↓steady_upd])
      | with_reducible apply steady_ite | with_reducible apply steady_when | with_reducible apply steady_foldl
      | with_reducible refine Steady.trans ?_ (done_steady ..) | with_reducible refine Steady.trans ?_ (writeMcast_steady ..)
      | with_reducible refine Steady.trans ?_ (refused_steady ..) | with_reducible apply steady_cond | intro _ | split
      | (grind [done_steady, writeMcast_steady, refused_steady, Steady.trans, Steady.refl])

theorem setBank_steady (s : State) (b : Bool) (x : Bank) : Steady s (setBank s b x) := by
  unfold setBank
  try dsimp only
  repeat' first
      | with_reducible exact Steady.refl _ | (simp (disch := with_reducible rfl) only [↓steady_upd])
      | with_reducible apply steady_ite | with_reducible apply steady_when | with_reducible apply steady_foldl
      | with_reducible apply steady_cond | intro _ | split | (grind [Steady.trans, Steady.refl])

theorem armEpochRun_steady (s : State) (r : Req) : Steady s (armEpochRun s r).s := by
  unfold armEpochRun
  try dsimp only
  repeat' first
      | with_reducible exact Steady.refl _ | (simp (disch := with_reducible rfl) only [↓steady_upd])
      | with_reducible apply steady_ite | with_reducible apply steady_when | with_reducible apply steady_foldl
      | with_reducible refine Steady.trans ?_ (refused_steady ..) | with_reducible refine Steady.trans ?_ (setBank_steady ..)
      | with_reducible refine Steady.trans ?_ (done_steady ..) | with_reducible apply steady_cond | intro _ | split
      | (grind [refused_steady, setBank_steady, done_steady, Steady.trans, Steady.refl])

theorem armEpochCmd_steady  (t : State) (r : Req) (_hf : armEpochCmd.form t r = none) : Steady t (armEpochCmd.run t r).s := by
  dsimp only [armEpochCmd]
  repeat' first
      | with_reducible exact Steady.refl _ | (simp (disch := with_reducible rfl) only [↓steady_upd])
      | with_reducible apply steady_ite | with_reducible apply steady_when | with_reducible apply steady_foldl
      | with_reducible refine Steady.trans ?_ (armEpochRun_steady ..) | with_reducible apply steady_cond | intro _ | split
      | (grind [armEpochRun_steady, Steady.trans, Steady.refl])

theorem cancelArmCmd_steady  (t : State) (r : Req) (_hf : cancelArmCmd.form t r = none) : Steady t (cancelArmCmd.run t r).s := by
  dsimp only [cancelArmCmd]
  repeat' first
      | with_reducible exact Steady.refl _ | (simp (disch := with_reducible rfl) only [↓steady_upd])
      | with_reducible apply steady_ite | with_reducible apply steady_when | with_reducible apply steady_foldl
      | with_reducible refine Steady.trans ?_ (done_steady ..) | with_reducible refine Steady.trans ?_ (setBank_steady ..)
      | with_reducible refine Steady.trans ?_ (refused_steady ..) | with_reducible apply steady_cond | intro _ | split
      | (grind [done_steady, setBank_steady, refused_steady, Steady.trans, Steady.refl])

theorem setupCircuitRun_steady (s : State) (r : Req) : Steady s (setupCircuitRun s r).s := by
  unfold setupCircuitRun
  try dsimp only
  repeat' first
      | with_reducible exact Steady.refl _ | (simp (disch := with_reducible rfl) only [↓steady_upd])
      | with_reducible apply steady_ite | with_reducible apply steady_when | with_reducible apply steady_foldl
      | with_reducible refine Steady.trans ?_ (refused_steady ..) | with_reducible refine Steady.trans ?_ (done_steady ..)
      | with_reducible apply steady_cond | intro _ | split | (grind [refused_steady, done_steady, Steady.trans, Steady.refl])

theorem setupCircuitCmd_steady  (t : State) (r : Req) (_hf : setupCircuitCmd.form t r = none) : Steady t (setupCircuitCmd.run
  t r).s := by
  dsimp only [setupCircuitCmd]
  repeat' first
      | with_reducible exact Steady.refl _ | (simp (disch := with_reducible rfl) only [↓steady_upd])
      | with_reducible apply steady_ite | with_reducible apply steady_when | with_reducible apply steady_foldl
      | with_reducible refine Steady.trans ?_ (setupCircuitRun_steady ..) | with_reducible apply steady_cond | intro _
      | split | (grind [setupCircuitRun_steady, Steady.trans, Steady.refl])

theorem teardownCircuit_steady (s : State) (id : Nat) : Steady s (teardownCircuit s id) := by
  unfold teardownCircuit
  try dsimp only
  repeat' first
      | with_reducible exact Steady.refl _ | (simp (disch := with_reducible rfl) only [↓steady_upd])
      | with_reducible apply steady_ite | with_reducible apply steady_when | with_reducible apply steady_foldl
      | with_reducible apply steady_cond | intro _ | split | (grind [Steady.trans, Steady.refl])

theorem teardownCircuitCmd_steady  (t : State) (r : Req) (_hf : teardownCircuitCmd.form t r = none) : Steady t
  (teardownCircuitCmd.run t r).s := by
  dsimp only [teardownCircuitCmd]
  repeat' first
      | with_reducible exact Steady.refl _ | (simp (disch := with_reducible rfl) only [↓steady_upd])
      | with_reducible apply steady_ite | with_reducible apply steady_when | with_reducible apply steady_foldl
      | with_reducible refine Steady.trans ?_ (done_steady ..)
      | with_reducible refine Steady.trans ?_ (teardownCircuit_steady ..) | with_reducible apply steady_cond | intro _
      | split | (grind [done_steady, teardownCircuit_steady, Steady.trans, Steady.refl])

theorem writeRankmap_steady (s : State) (r : Req) : Steady s (writeRankmap s r) := by
  unfold writeRankmap
  try dsimp only
  repeat' first
      | with_reducible exact Steady.refl _ | (simp (disch := with_reducible rfl) only [↓steady_upd])
      | with_reducible apply steady_ite | with_reducible apply steady_when | with_reducible apply steady_foldl
      | with_reducible apply steady_cond | intro _ | split | (grind [Steady.trans, Steady.refl])

theorem writeRankmapCmd_steady  (t : State) (r : Req) (_hf : writeRankmapCmd.form t r = none) : Steady t (writeRankmapCmd.run
  t r).s := by
  dsimp only [writeRankmapCmd]
  repeat' first
      | with_reducible exact Steady.refl _ | (simp (disch := with_reducible rfl) only [↓steady_upd])
      | with_reducible apply steady_ite | with_reducible apply steady_when | with_reducible apply steady_foldl
      | with_reducible refine Steady.trans ?_ (refused_steady ..) | with_reducible refine Steady.trans ?_ (done_steady ..)
      | with_reducible refine Steady.trans ?_ (writeRankmap_steady ..) | with_reducible apply steady_cond | intro _ | split
      | (grind [refused_steady, done_steady, writeRankmap_steady, Steady.trans, Steady.refl])

end Sys2Proof.Machine
end

