-- ==== Sys2Proof/Laws/Steady/Guards.lean ====
section
/-! SUPPORT. `Steady` of the functions of Machine/Guards.lean. -/

set_option Elab.async false

namespace Sys2Proof.Machine

seal sendSet updatePause hbmCheck armContext armGroup disarmGroup disarmContext done refused setGuard setComb armGroupRun
  setMirror armContextRun disarmContextRun setKeymap setPort fence combRead safeEntry metaFix mirror

theorem setKeymap_steady (s : State) (r : Req) : Steady s (setKeymap s r) := by
  unfold setKeymap
  try dsimp only
  repeat' first
      | with_reducible exact Steady.refl _ | (simp (disch := with_reducible rfl) only [↓steady_upd])
      | with_reducible apply steady_ite | with_reducible apply steady_when | with_reducible apply steady_foldl
      | with_reducible refine Steady.trans ?_ (sendSet_steady ..) | with_reducible apply steady_cond | intro _ | split
      | (grind [sendSet_steady, Steady.trans, Steady.refl])

theorem setKeymapCmd_steady  (t : State) (r : Req) (_hf : setKeymapCmd.form t r = none) : Steady t (setKeymapCmd.run t r).s := by
  dsimp only [setKeymapCmd]
  repeat' first
      | with_reducible exact Steady.refl _ | (simp (disch := with_reducible rfl) only [↓steady_upd])
      | with_reducible apply steady_ite | with_reducible apply steady_when | with_reducible apply steady_foldl
      | with_reducible refine Steady.trans ?_ (done_steady ..) | with_reducible refine Steady.trans ?_ (setKeymap_steady ..)
      | with_reducible apply steady_cond | intro _ | split
      | (grind [done_steady, setKeymap_steady, Steady.trans, Steady.refl])

theorem setGuard_steady (s : State) (r : Req) : Steady s (setGuard s r) := by
  unfold setGuard
  try dsimp only
  repeat' first
      | with_reducible exact Steady.refl _ | (simp (disch := with_reducible rfl) only [↓steady_upd])
      | with_reducible apply steady_ite | with_reducible apply steady_when | with_reducible apply steady_foldl
      | with_reducible refine Steady.trans ?_ (updatePause_steady ..) | with_reducible apply steady_cond | intro _ | split
      | (grind [updatePause_steady, Steady.trans, Steady.refl])

theorem setGuardCmd_steady  (t : State) (r : Req) (_hf : setGuardCmd.form t r = none) : Steady t (setGuardCmd.run t r).s := by
  dsimp only [setGuardCmd]
  repeat' first
      | with_reducible exact Steady.refl _ | (simp (disch := with_reducible rfl) only [↓steady_upd])
      | with_reducible apply steady_ite | with_reducible apply steady_when | with_reducible apply steady_foldl
      | with_reducible refine Steady.trans ?_ (done_steady ..) | with_reducible refine Steady.trans ?_ (setGuard_steady ..)
      | with_reducible apply steady_cond | intro _ | split
      | (grind [done_steady, setGuard_steady, Steady.trans, Steady.refl])

theorem setComb_steady (s : State) (r : Req) : Steady s (setComb s r) := by
  unfold setComb
  try dsimp only
  repeat' first
      | with_reducible exact Steady.refl _ | (simp (disch := with_reducible rfl) only [↓steady_upd])
      | with_reducible apply steady_ite | with_reducible apply steady_when | with_reducible apply steady_foldl
      | with_reducible apply steady_cond | intro _ | split | (grind [Steady.trans, Steady.refl])

theorem setCombCmd_steady  (t : State) (r : Req) (_hf : setCombCmd.form t r = none) : Steady t (setCombCmd.run t r).s := by
  dsimp only [setCombCmd]
  repeat' first
      | with_reducible exact Steady.refl _ | (simp (disch := with_reducible rfl) only [↓steady_upd])
      | with_reducible apply steady_ite | with_reducible apply steady_when | with_reducible apply steady_foldl
      | with_reducible refine Steady.trans ?_ (setComb_steady ..) | with_reducible refine Steady.trans ?_ (refused_steady ..)
      | with_reducible refine Steady.trans ?_ (done_steady ..) | with_reducible apply steady_cond | intro _ | split
      | (grind [setComb_steady, refused_steady, done_steady, Steady.trans, Steady.refl])

theorem armGroupRun_steady (s : State) (r : Req) : Steady s (armGroupRun s r).s := by
  unfold armGroupRun
  try dsimp only
  repeat' first
      | with_reducible exact Steady.refl _ | (simp (disch := with_reducible rfl) only [↓steady_upd])
      | with_reducible apply steady_ite | with_reducible apply steady_when | with_reducible apply steady_foldl
      | with_reducible refine Steady.trans ?_ (armGroup_steady _ _ _ _ (by assumption))
      | with_reducible refine Steady.trans ?_ (done_steady ..) | with_reducible refine Steady.trans ?_ (refused_steady ..)
      | with_reducible apply steady_cond | intro _ | split
      | (grind [armGroup_steady, done_steady, refused_steady, Steady.trans, Steady.refl])

theorem armGroupCmd_steady  (t : State) (r : Req) (_hf : armGroupCmd.form t r = none) : Steady t (armGroupCmd.run t r).s := by
  dsimp only [armGroupCmd]
  repeat' first
      | with_reducible exact Steady.refl _ | (simp (disch := with_reducible rfl) only [↓steady_upd])
      | with_reducible apply steady_ite | with_reducible apply steady_when | with_reducible apply steady_foldl
      | with_reducible refine Steady.trans ?_ (armGroupRun_steady ..) | with_reducible apply steady_cond | intro _ | split
      | (grind [armGroupRun_steady, Steady.trans, Steady.refl])

theorem disarmGroupCmd_steady  (t : State) (r : Req) (_hf : disarmGroupCmd.form t r = none) : Steady t (disarmGroupCmd.run t
  r).s := by
  dsimp only [disarmGroupCmd]
  repeat' first
      | with_reducible exact Steady.refl _ | (simp (disch := with_reducible rfl) only [↓steady_upd])
      | with_reducible apply steady_ite | with_reducible apply steady_when | with_reducible apply steady_foldl
      | with_reducible refine Steady.trans ?_ (refused_steady ..) | with_reducible refine Steady.trans ?_ (done_steady ..)
      | with_reducible refine Steady.trans ?_ (disarmGroup_steady ..) | with_reducible apply steady_cond | intro _ | split
      | (grind [refused_steady, done_steady, disarmGroup_steady, Steady.trans, Steady.refl])

unseal armContextRun in
theorem armContextRun_steady (s : State) (r : Req) : Steady s (armContextRun s r).s := by
  unfold armContextRun
  dsimp only
  split
  · exact refused_steady ..
  · split
    · exact (combRead_steady ..).trans (refused_steady ..)
    · split
      · exact (safeEntry_steady ..).trans (refused_steady ..)
      · split
        · exact refused_steady ..
        · split
          · rename_i h
            exact (((combRead_steady ..).trans (metaFix_steady ..)).trans (armContext_steady _ _ _ _ _ _ h)).trans (done_steady ..)
          · exact refused_steady ..

theorem armContextCmd_steady  (t : State) (r : Req) (_hf : armContextCmd.form t r = none) : Steady t (armContextCmd.run t
  r).s := by
  dsimp only [armContextCmd]
  repeat' first
      | with_reducible exact Steady.refl _ | (simp (disch := with_reducible rfl) only [↓steady_upd])
      | with_reducible apply steady_ite | with_reducible apply steady_when | with_reducible apply steady_foldl
      | with_reducible refine Steady.trans ?_ (armContextRun_steady ..) | with_reducible apply steady_cond | intro _ | split
      | (grind [armContextRun_steady, Steady.trans, Steady.refl])

theorem disarmContextRun_steady (s : State) (r : Req) : Steady s (disarmContextRun s r).s := by
  unfold disarmContextRun
  try dsimp only
  repeat' first
      | with_reducible exact Steady.refl _ | (simp (disch := with_reducible rfl) only [↓steady_upd])
      | with_reducible apply steady_ite | with_reducible apply steady_when | with_reducible apply steady_foldl
      | with_reducible refine Steady.trans ?_ (refused_steady ..) | with_reducible refine Steady.trans ?_ (done_steady ..)
      | with_reducible refine Steady.trans ?_ (disarmContext_steady ..) | with_reducible apply steady_cond | intro _ | split
      | (grind [refused_steady, done_steady, disarmContext_steady, Steady.trans, Steady.refl])

theorem disarmContextCmd_steady  (t : State) (r : Req) (_hf : disarmContextCmd.form t r = none) : Steady t
  (disarmContextCmd.run t r).s := by
  dsimp only [disarmContextCmd]
  repeat' first
      | with_reducible exact Steady.refl _ | (simp (disch := with_reducible rfl) only [↓steady_upd])
      | with_reducible apply steady_ite | with_reducible apply steady_when | with_reducible apply steady_foldl
      | with_reducible refine Steady.trans ?_ (disarmContextRun_steady ..) | with_reducible apply steady_cond | intro _
      | split | (grind [disarmContextRun_steady, Steady.trans, Steady.refl])

theorem setMirror_steady (s : State) (r : Req) : Steady s (setMirror s r) := by
  unfold setMirror
  try dsimp only
  repeat' first
      | with_reducible exact Steady.refl _ | (simp (disch := with_reducible rfl) only [↓steady_upd])
      | with_reducible apply steady_ite | with_reducible apply steady_when | with_reducible apply steady_foldl
      | with_reducible apply steady_cond | intro _ | split | (grind [Steady.trans, Steady.refl])

theorem setMirrorCmd_steady  (t : State) (r : Req) (_hf : setMirrorCmd.form t r = none) : Steady t (setMirrorCmd.run t r).s := by
  dsimp only [setMirrorCmd]
  repeat' first
      | with_reducible exact Steady.refl _ | (simp (disch := with_reducible rfl) only [↓steady_upd])
      | with_reducible apply steady_ite | with_reducible apply steady_when | with_reducible apply steady_foldl
      | with_reducible refine Steady.trans ?_ (done_steady ..) | with_reducible refine Steady.trans ?_ (setMirror_steady ..)
      | with_reducible apply steady_cond | intro _ | split
      | (grind [done_steady, setMirror_steady, Steady.trans, Steady.refl])

theorem setPort_steady (s : State) (r : Req) : Steady s (setPort s r) := by
  unfold setPort
  try dsimp only
  repeat' first
      | with_reducible exact Steady.refl _ | (simp (disch := with_reducible rfl) only [↓steady_upd])
      | with_reducible apply steady_ite | with_reducible apply steady_when | with_reducible apply steady_foldl
      | with_reducible apply steady_cond | intro _ | split | (grind [Steady.trans, Steady.refl])

theorem setPortCmd_steady  (t : State) (r : Req) (_hf : setPortCmd.form t r = none) : Steady t (setPortCmd.run t r).s := by
  dsimp only [setPortCmd]
  repeat' first
      | with_reducible exact Steady.refl _ | (simp (disch := with_reducible rfl) only [↓steady_upd])
      | with_reducible apply steady_ite | with_reducible apply steady_when | with_reducible apply steady_foldl
      | with_reducible refine Steady.trans ?_ (done_steady ..) | with_reducible refine Steady.trans ?_ (setPort_steady ..)
      | with_reducible apply steady_cond | intro _ | split | (grind [done_steady, setPort_steady, Steady.trans, Steady.refl])

end Sys2Proof.Machine
end

