-- ==== Sys2Proof/Laws/Steady/ProgCmd.lean ====
section
/-! SUPPORT. `Steady` of the functions of Machine/ProgCmd.lean. -/

set_option Elab.async false

namespace Sys2Proof.Machine

seal loadStreamProg done refused loadCoreRun setRings setParamsRun loadStreamRun coreReads streamReads tokenRptr cmplRptr

theorem loadCoreRun_steady (s : State) (r : Req) : Steady s (loadCoreRun s r).s := by
  unfold loadCoreRun
  try dsimp only
  repeat' first
      | with_reducible exact Steady.refl _ | (simp (disch := with_reducible rfl) only [↓steady_upd])
      | with_reducible apply steady_ite | with_reducible apply steady_when | with_reducible apply steady_foldl
      | with_reducible refine Steady.trans ?_ (refused_steady ..) | with_reducible refine Steady.trans ?_ (done_steady ..)
      | with_reducible refine Steady.trans ?_ (coreReads_steady ..)
      | with_reducible apply steady_cond | intro _ | split | (grind [coreReads_steady, refused_steady, done_steady, Steady.trans, Steady.refl])

theorem loadCoreCmd_steady  (t : State) (r : Req) (_hf : loadCoreCmd.form t r = none) : Steady t (loadCoreCmd.run t r).s := by
  dsimp only [loadCoreCmd]
  repeat' first
      | with_reducible exact Steady.refl _ | (simp (disch := with_reducible rfl) only [↓steady_upd])
      | with_reducible apply steady_ite | with_reducible apply steady_when | with_reducible apply steady_foldl
      | with_reducible refine Steady.trans ?_ (loadCoreRun_steady ..) | with_reducible apply steady_cond | intro _ | split
      | (grind [loadCoreRun_steady, Steady.trans, Steady.refl])

theorem unloadCoreCmd_steady  (t : State) (r : Req) (_hf : unloadCoreCmd.form t r = none) : Steady t (unloadCoreCmd.run t
  r).s := by
  dsimp only [unloadCoreCmd]
  repeat' first
      | with_reducible exact Steady.refl _ | (simp (disch := with_reducible rfl) only [↓steady_upd])
      | with_reducible apply steady_ite | with_reducible apply steady_when | with_reducible apply steady_foldl
      | with_reducible refine Steady.trans ?_ (refused_steady ..) | with_reducible refine Steady.trans ?_ (done_steady ..)
      | with_reducible apply steady_cond | intro _ | split | (grind [refused_steady, done_steady, Steady.trans, Steady.refl])

theorem loadStreamRun_steady (s : State) (r : Req) : Steady s (loadStreamRun s r).s := by
  unfold loadStreamRun
  try dsimp only
  repeat' first
      | with_reducible exact Steady.refl _ | (simp (disch := with_reducible rfl) only [↓steady_upd])
      | with_reducible apply steady_ite | with_reducible apply steady_when | with_reducible apply steady_foldl
      | with_reducible refine Steady.trans ?_ (refused_steady ..) | with_reducible refine Steady.trans ?_ (done_steady ..)
      | with_reducible refine Steady.trans ?_ (loadStreamProg_steady ..) | with_reducible refine Steady.trans ?_ (streamReads_steady ..)
      | with_reducible apply steady_cond | intro _ | split
      | (grind [streamReads_steady, refused_steady, done_steady, loadStreamProg_steady, Steady.trans, Steady.refl])

theorem loadStreamCmd_steady  (t : State) (r : Req) (_hf : loadStreamCmd.form t r = none) : Steady t (loadStreamCmd.run t
  r).s := by
  dsimp only [loadStreamCmd]
  repeat' first
      | with_reducible exact Steady.refl _ | (simp (disch := with_reducible rfl) only [↓steady_upd])
      | with_reducible apply steady_ite | with_reducible apply steady_when | with_reducible apply steady_foldl
      | with_reducible refine Steady.trans ?_ (loadStreamRun_steady ..) | with_reducible apply steady_cond | intro _ | split
      | (grind [loadStreamRun_steady, Steady.trans, Steady.refl])

theorem setParamsRun_steady (s : State) (r : Req) : Steady s (setParamsRun s r).s := by
  unfold setParamsRun
  try dsimp only
  repeat' first
      | with_reducible exact Steady.refl _ | (simp (disch := with_reducible rfl) only [↓steady_upd])
      | with_reducible apply steady_ite | with_reducible apply steady_when | with_reducible apply steady_foldl
      | with_reducible refine Steady.trans ?_ (refused_steady ..) | with_reducible refine Steady.trans ?_ (done_steady ..)
      | with_reducible apply steady_cond | intro _ | split | (grind [refused_steady, done_steady, Steady.trans, Steady.refl])

theorem setParamsCmd_steady  (t : State) (r : Req) (_hf : setParamsCmd.form t r = none) : Steady t (setParamsCmd.run t r).s := by
  dsimp only [setParamsCmd]
  repeat' first
      | with_reducible exact Steady.refl _ | (simp (disch := with_reducible rfl) only [↓steady_upd])
      | with_reducible apply steady_ite | with_reducible apply steady_when | with_reducible apply steady_foldl
      | with_reducible refine Steady.trans ?_ (setParamsRun_steady ..) | with_reducible apply steady_cond | intro _ | split
      | (grind [setParamsRun_steady, Steady.trans, Steady.refl])

theorem setRings_steady (s : State) (r : Req) : Steady s (setRings s r) := by
  unfold setRings
  try dsimp only
  repeat' first
      | with_reducible exact Steady.refl _ | (simp (disch := with_reducible rfl) only [↓steady_upd])
      | with_reducible apply steady_ite | with_reducible apply steady_when | with_reducible apply steady_foldl
      | with_reducible apply steady_cond | intro _ | split | (grind [Steady.trans, Steady.refl])

theorem setRingsCmd_steady  (t : State) (r : Req) (_hf : setRingsCmd.form t r = none) : Steady t (setRingsCmd.run t r).s := by
  dsimp only [setRingsCmd]
  repeat' first
      | with_reducible exact Steady.refl _ | (simp (disch := with_reducible rfl) only [↓steady_upd])
      | with_reducible apply steady_ite | with_reducible apply steady_when | with_reducible apply steady_foldl
      | with_reducible refine Steady.trans ?_ (done_steady ..) | with_reducible refine Steady.trans ?_ (setRings_steady ..)
      | with_reducible apply steady_cond | intro _ | split
      | (grind [done_steady, setRings_steady, Steady.trans, Steady.refl])

end Sys2Proof.Machine
end

