-- ==== Sys2Proof/Laws/Steady/LaunchCmd.lean ====
section
/-! SUPPORT. `Steady` of the functions of Machine/LaunchCmd.lean. -/

set_option Elab.async false

namespace Sys2Proof.Machine

seal drawFree modStep setMode sendSets modCore modQueen modChan raisePoison startStep startChannel done refused launchRun
  abortStep beginLaunch launchCluster seedContexts launchChannel commitStepRun launchSeed writeStops replayStepRun
  foragerReads launchReads endLaunch releaseHold

theorem launchSeed_steady (s : State) (r : Req) : Steady s (launchSeed s r).2 := by
  unfold launchSeed
  try dsimp only
  repeat' first
      | with_reducible exact Steady.refl _ | (simp (disch := with_reducible rfl) only [↓steady_upd])
      | with_reducible apply steady_ite | with_reducible apply steady_when | with_reducible apply steady_foldl
      | with_reducible refine Steady.trans ?_ (drawFree_steady ..) | with_reducible apply steady_cond | intro _ | split
      | (grind [drawFree_steady, Steady.trans, Steady.refl])

theorem seedContexts_steady (s : State) (key : Nat) (seed : Word) : Steady s (seedContexts s key seed) := by
  unfold seedContexts
  try dsimp only
  repeat' first
      | with_reducible exact Steady.refl _ | (simp (disch := with_reducible rfl) only [↓steady_upd])
      | with_reducible apply steady_ite | with_reducible apply steady_when | with_reducible apply steady_foldl
      | with_reducible apply steady_cond | intro _ | split | (grind [Steady.trans, Steady.refl])

theorem launchCluster_steady (s : State) (vctrl : BitVec 16) (q : Nat) : Steady s (launchCluster s vctrl q) := by
  unfold launchCluster
  try dsimp only
  repeat' first
      | with_reducible exact Steady.refl _ | (simp (disch := with_reducible rfl) only [↓steady_upd])
      | with_reducible apply steady_ite | with_reducible apply steady_when | with_reducible apply steady_foldl
      | with_reducible refine Steady.trans ?_ (modCore_steady ..)
      | with_reducible refine Steady.trans ?_ (modQueen_steady ..) | with_reducible apply steady_cond | intro _ | split
      | (grind [modCore_steady, modQueen_steady, Steady.trans, Steady.refl])

theorem launchChannel_steady (s : State) (key : Nat) (e : Nat × FImage) : Steady s (launchChannel s key e) := by
  unfold launchChannel
  try dsimp only
  repeat' first
      | with_reducible exact Steady.refl _ | (simp (disch := with_reducible rfl) only [↓steady_upd])
      | with_reducible apply steady_ite | with_reducible apply steady_when | with_reducible apply steady_foldl
      | with_reducible refine Steady.trans ?_ (modChan_steady ..)
      | with_reducible refine Steady.trans ?_ (startChannel_steady ..) | with_reducible apply steady_cond | intro _ | split
      | (grind [modChan_steady, startChannel_steady, Steady.trans, Steady.refl])

theorem writeStops_steady (s : State) (r : Req) : Steady s (writeStops s r) := by
  unfold writeStops
  try dsimp only
  repeat' first
      | with_reducible exact Steady.refl _ | (simp (disch := with_reducible rfl) only [↓steady_upd])
      | with_reducible apply steady_ite | with_reducible apply steady_when | with_reducible apply steady_foldl
      | with_reducible apply steady_cond | intro _ | split | (grind [Steady.trans, Steady.refl])

unseal beginLaunch in
theorem beginLaunch_steady (isRun : Bool) (s : State) (r : Req) (mask : BitVec 32) (ims : List (Nat × FImage)) (hf :
  s.dev.testMode = true → lbSafety r = true → lbDet r = true) : Steady s (beginLaunch isRun s r mask ims) := by
  unfold beginLaunch
  have a := launchSeed_steady s r
  generalize launchSeed s r = ss at a ⊢
  obtain ⟨seed, s0⟩ := ss
  dsimp only
  have b := a.trans (seedContexts_steady s0 (launchOf isRun s r mask seed (List.map (fun x => x.fst) ims)).pkey seed)
  generalize hl : launchOf isRun s r mask seed (List.map (fun x => x.fst) ims) = l at b ⊢
  have ht : l.test = s.dev.testMode := by rw [← hl]; rfl
  have hd : l.det = lbDet r := by rw [← hl]; rfl
  have hs : l.safety = lbSafety r := by rw [← hl]; rfl
  generalize seedContexts s0 l.pkey seed = s1 at b ⊢
  have c : Steady s { s1 with
      comp := { s1.comp with p := tblSetAll 0 [] 0 (rws r 5 (lbParams r)), sched := [] }
      job := { launch := some l, lastCommit := s1.job.lastCommit }
      dev := if l.test then { s1.dev with detStrict := l.det, safety := l.safety } else s1.dev } := by
    refine b.trans ?_
    by_cases h : l.test = true <;> constructor <;> intros <;> simp_all
  generalize (State.mk s1.pending _ _ _ _ _ _ _ _ _ _ _ _ _ _ _ _ _ _ _ _ _) = s2 at c ⊢
  have d : Steady s ((maskClusters s2 mask).foldl (fun t q => launchCluster t (match lbImage s r with
    | some sl => sl.vctrl
    | none => 0x0010) q) s2) := steady_foldl _ _ _ c (fun u q => launchCluster_steady ..)
  have e := steady_foldl (fun t e => launchChannel t l.pkey e) ims _ d (fun u e => launchChannel_steady ..)
  have f := steady_ite (isRun = true) (e.trans (writeStops_steady _ r)) e
  refine steady_ite _ (Steady.trans ?_ (startStep_steady ..)) ?_ <;> exact steady_ite _ f (f.trans (setMode_steady ..))

theorem launchReads_steady (s : State) (r : Req) : Steady s (launchReads s r) := by
  unfold launchReads
  try dsimp only
  repeat' first
      | with_reducible exact Steady.refl _ | (simp (disch := with_reducible rfl) only [↓steady_upd])
      | with_reducible apply steady_ite | with_reducible apply steady_when | with_reducible apply steady_foldl
      | with_reducible refine Steady.trans ?_ (foragerReads_steady ..) | with_reducible apply steady_cond | intro _
      | split | (grind [foragerReads_steady, Steady.trans, Steady.refl])

/-- While no launch runs, a read of memory leaves that so, and the test mode as it is. -/
structure KeepsTest (s t : State) : Prop where
  keep : s.job.launch = none → t.job.launch = none ∧ t.dev.testMode = s.dev.testMode

theorem keepsTest_refl (s : State) : KeepsTest s s := ⟨fun h => ⟨h, rfl⟩⟩

theorem keepsTest_trans {s t u : State} (a : KeepsTest s t) (b : KeepsTest t u) : KeepsTest s u :=
  ⟨fun h => ⟨(b.keep (a.keep h).1).1, (b.keep (a.keep h).1).2.trans (a.keep h).2⟩⟩

theorem keepsTest_foldl {α : Type} (f : State → α → State) (l : List α) (s : State) (h : ∀ u a, KeepsTest u (f u a)) :
    KeepsTest s (l.foldl f s) := by
  induction l generalizing s with
  | nil => exact keepsTest_refl s
  | cons a l ih => exact keepsTest_trans (h s a) (ih _)

theorem keepsTest_of_eq {s t : State} (hj : t.job = s.job) (hd : t.dev.testMode = s.dev.testMode) : KeepsTest s t :=
  ⟨fun h => ⟨hj ▸ h, hd⟩⟩

theorem considerSparing_keepsTest (s : State) (pc : Nat) : KeepsTest s (considerSparing s pc) := by
  unfold considerSparing
  split
  · exact keepsTest_refl s
  · split
    · split
      · obtain ⟨o, p, h⟩ := recomputeHealth_frame { s with hbm := { s.hbm with keptBad := s.hbm.keptBad ++ [pc] } }
        rw [h]; exact keepsTest_of_eq rfl rfl
      · exact keepsTest_of_eq rfl rfl
    · exact keepsTest_refl s

theorem hbmSbe_keepsTest (s : State) (w : Nat) : KeepsTest s (hbmSbe s w) := by
  unfold hbmSbe
  dsimp only
  refine keepsTest_trans (t := { s with hbm := _, stats := _ }) ?_ (considerSparing_keepsTest ..)
  exact keepsTest_of_eq rfl rfl

theorem hbmDbe_keepsTest (s : State) (w : Nat) : KeepsTest s (hbmDbe s w) := by
  unfold hbmDbe
  dsimp only
  refine keepsTest_trans (t := { s with hbm := _ }) ?_ (considerSparing_keepsTest ..)
  exact keepsTest_of_eq rfl rfl

theorem hbmRead_keepsTest (s : State) (a n : Nat) : KeepsTest s (hbmRead s a n).2 := by
  have f : ∀ (l : List Nat) (x : Option Nat × State), KeepsTest x.2 (l.foldl (fun acc w =>
      match tblGet none acc.2.hbm.errs w with
      | some false => (acc.1, hbmSbe acc.2 w)
      | some true => (if acc.1.isSome then acc.1 else some w, hbmDbe acc.2 w)
      | none => acc) x).2 := by
    intro l
    induction l with
    | nil => intro x; exact keepsTest_refl _
    | cons w l ih =>
      intro x
      refine keepsTest_trans ?_ (ih _)
      dsimp only
      split
      · exact hbmSbe_keepsTest ..
      · exact hbmDbe_keepsTest ..
      · exact keepsTest_refl _
  have c : KeepsTest s (hbmCheck s a n).2 := by
    unfold hbmCheck
    split
    · exact keepsTest_refl s
    · exact f _ (none, s)
  unfold hbmRead
  split <;> (rename_i h; rw [h] at c; exact c)

theorem spaceRead_keepsTest (s : State) (a n : Nat) : KeepsTest s (spaceRead s a n).2 := by
  unfold spaceRead
  dsimp only
  split
  · exact hbmRead_keepsTest ..
  · split
    · unfold csRead; dsimp only; split <;> exact keepsTest_of_eq rfl rfl
    · unfold lsRead; dsimp only; split <;> exact keepsTest_of_eq rfl rfl

theorem readFailed_keepsTest (s : State) (a n : Nat) (b : Bool) : KeepsTest s (readFailed s a n none b) := by
  constructor
  intro h
  unfold readFailed stepHbmDbe raisePoison failStep modStep
  simp only [h]
  repeat' split
  all_goals first | exact ⟨h, rfl⟩ | exact ⟨rfl, rfl⟩ | simp_all

theorem setMode_keepsTest (s : State) (m : Mode) : KeepsTest s (setMode s m) := by
  obtain ⟨o, p, h⟩ := setMode_frame (s := s) m
  rw [h]; exact keepsTest_of_eq rfl rfl

theorem raisePoison_keepsTest (s : State) (c : PCause) : KeepsTest s (raisePoison s c) := by
  constructor
  intro h
  have e : raisePoison s c = s := by
    unfold raisePoison
    simp only [h]
  rw [e]
  exact ⟨h, rfl⟩

theorem fenceOutputs_keepsTest (s : State) : KeepsTest s (fenceOutputs s) := by
  refine keepsTest_foldl _ _ _ fun u e => ?_
  unfold fenceOutput
  dsimp only
  split
  · exact keepsTest_refl u
  · refine keepsTest_trans (keepsTest_foldl _ _ _ fun v x => ?_) (keepsTest_of_eq rfl rfl)
    unfold unstage
    split
    · exact keepsTest_of_eq rfl rfl
    · split <;> exact keepsTest_of_eq rfl rfl

theorem safeEntry_keepsTest (s : State) (m : Mech) (loc : Nat) : KeepsTest s (safeEntry s m loc) := by
  unfold safeEntry enterSafe
  split
  · exact keepsTest_refl s
  · dsimp only
    refine keepsTest_trans (t := (sbPorts _).foldl sendBeacon _) ?_ (keepsTest_of_eq rfl rfl)
    refine keepsTest_trans ?_ (keepsTest_foldl _ _ _ fun u p => ?_)
    · refine keepsTest_trans ?_ (setMode_keepsTest ..)
      refine keepsTest_trans (t := fenceOutputs { s with dev := { s.dev with safeN := false } }) ?_ ?_
      · refine keepsTest_trans (t := { s with dev := { s.dev with safeN := false } }) (keepsTest_of_eq rfl rfl) ?_
        exact fenceOutputs_keepsTest _
      · split
        · exact keepsTest_refl _
        · exact raisePoison_keepsTest ..
    · unfold sendBeacon
      rw [sendSet_eq]
      exact keepsTest_of_eq rfl rfl

theorem metaFix_keepsTest (s : State) (a n : Nat) : KeepsTest s (metaFix s a n) := by
  unfold metaFix
  split
  · exact keepsTest_refl s
  · exact keepsTest_of_eq rfl rfl

theorem imageTouch_keepsTest (s : State) (a n : Nat) : KeepsTest s (imageTouch s a n) := by
  have b := keepsTest_trans (metaFix_keepsTest s a n) (spaceRead_keepsTest (metaFix s a n) a n)
  unfold imageTouch
  split
  · exact safeEntry_keepsTest ..
  · split <;> rename_i h <;> rw [h] at b
    · exact b
    · exact keepsTest_trans b (readFailed_keepsTest ..)

unseal launchReads in
theorem launchReads_keepsTest (s : State) (r : Req) : KeepsTest s (launchReads s r) := by
  refine keepsTest_foldl _ _ _ fun u i => ?_
  unfold foragerReads imageReads
  split
  · exact keepsTest_refl u
  · split
    · exact keepsTest_trans (imageTouch_keepsTest ..) (imageTouch_keepsTest ..)
    · exact imageTouch_keepsTest ..

unseal launchRun in
theorem launchRun_steady (isRun : Bool) (s : State) (r : Req) (hf : s.dev.testMode = true → lbSafety r = true → lbDet r =
  true) : Steady s (launchRun isRun s r).s := by
  unfold launchRun
  split
  · exact refused_steady ..
  · rename_i hl
    have ht := ((launchReads_keepsTest s r).keep (by simpa using hl)).2
    split
    · exact refused_steady ..
    · split
      · exact (launchReads_steady s r).trans (refused_steady ..)
      · split
        · exact refused_steady ..
        · split
          · exact refused_steady ..
          · split
            · exact refused_steady ..
            · exact ((launchReads_steady s r).trans (beginLaunch_steady _ _ _ _ _ (ht ▸ hf))).trans (done_steady ..)

theorem launchCmd_steady  (t : State) (r : Req) (hf : launchCmd.form t r = none) : Steady t (launchCmd.run t r).s := by
  refine launchRun_steady _ t r fun ht hs => ?_
  by_cases hd : lbDet r = true
  · exact hd
  · exfalso
    dsimp only [launchCmd, launchForm, blockForm, orForm, needs] at hf
    simp [ht, hs, hd] at hf

theorem startRunCmd_steady  (t : State) (r : Req) (hf : startRunCmd.form t r = none) : Steady t (startRunCmd.run t r).s := by
  refine launchRun_steady _ t r fun ht hs => ?_
  by_cases hd : lbDet r = true
  · exact hd
  · exfalso
    dsimp only [startRunCmd, launchForm, blockForm, orForm, needs] at hf
    simp [ht, hs, hd] at hf

theorem commitStepRun_steady (s : State) (r : Req) : Steady s (commitStepRun s r).s := by
  unfold commitStepRun
  try dsimp only
  repeat' first
      | with_reducible exact Steady.refl _ | (simp (disch := with_reducible rfl) only [↓steady_upd])
      | with_reducible apply steady_ite | with_reducible apply steady_when | with_reducible apply steady_foldl
      | with_reducible refine Steady.trans ?_ (refused_steady ..) | with_reducible refine Steady.trans ?_ (done_steady ..)
      | with_reducible refine Steady.trans ?_ (modStep_steady ..) | with_reducible apply steady_cond | intro _ | split
      | (grind [refused_steady, done_steady, modStep_steady, Steady.trans, Steady.refl])

theorem commitStepCmd_steady  (t : State) (r : Req) (_hf : commitStepCmd.form t r = none) : Steady t (commitStepCmd.run t
  r).s := by
  dsimp only [commitStepCmd]
  repeat' first
      | with_reducible exact Steady.refl _ | (simp (disch := with_reducible rfl) only [↓steady_upd])
      | with_reducible apply steady_ite | with_reducible apply steady_when | with_reducible apply steady_foldl
      | with_reducible refine Steady.trans ?_ (commitStepRun_steady ..) | with_reducible apply steady_cond | intro _ | split
      | (grind [commitStepRun_steady, Steady.trans, Steady.refl])

theorem abortStep_steady (s : State) : Steady s (abortStep s) := by
  unfold abortStep
  try dsimp only
  repeat' first
      | with_reducible exact Steady.refl _ | (simp (disch := with_reducible rfl) only [↓steady_upd])
      | with_reducible apply steady_ite | with_reducible apply steady_when | with_reducible apply steady_foldl
      | with_reducible refine Steady.trans ?_ (modStep_steady ..)
      | with_reducible refine Steady.trans ?_ (raisePoison_steady ..)
      | with_reducible refine Steady.trans ?_ (endLaunch_steady ..) | with_reducible apply steady_cond | intro _ | split
      | (grind [modStep_steady, raisePoison_steady, endLaunch_steady, Steady.trans, Steady.refl])

theorem abortCmd_steady  (t : State) (r : Req) (_hf : abortCmd.form t r = none) : Steady t (abortCmd.run t r).s := by
  dsimp only [abortCmd]
  repeat' first
      | with_reducible exact Steady.refl _ | (simp (disch := with_reducible rfl) only [↓steady_upd])
      | with_reducible apply steady_ite | with_reducible apply steady_when | with_reducible apply steady_foldl
      | with_reducible refine Steady.trans ?_ (refused_steady ..) | with_reducible refine Steady.trans ?_ (done_steady ..)
      | with_reducible refine Steady.trans ?_ (abortStep_steady ..) | with_reducible apply steady_cond | intro _ | split
      | (grind [refused_steady, done_steady, abortStep_steady, Steady.trans, Steady.refl])

theorem replayStepRun_steady (s : State) (r : Req) : Steady s (replayStepRun s r).s := by
  unfold replayStepRun
  try dsimp only
  repeat' first
      | with_reducible exact Steady.refl _ | (simp (disch := with_reducible rfl) only [↓steady_upd])
      | with_reducible apply steady_ite | with_reducible apply steady_when | with_reducible apply steady_foldl
      | with_reducible refine Steady.trans ?_ (refused_steady ..) | with_reducible refine Steady.trans ?_ (done_steady ..)
      | with_reducible refine Steady.trans ?_ (modStep_steady ..)
      | with_reducible refine Steady.trans ?_ (sendSets_steady ..)
      | with_reducible refine Steady.trans ?_ (releaseHold_steady ..)
      | with_reducible refine Steady.trans ?_ (raisePoison_steady ..) | with_reducible apply steady_cond | intro _ | split
      | (grind [refused_steady, done_steady, modStep_steady, sendSets_steady, raisePoison_steady, Steady.trans, Steady.refl])

theorem replayStepCmd_steady  (t : State) (r : Req) (_hf : replayStepCmd.form t r = none) : Steady t (replayStepCmd.run t
  r).s := by
  dsimp only [replayStepCmd]
  repeat' first
      | with_reducible exact Steady.refl _ | (simp (disch := with_reducible rfl) only [↓steady_upd])
      | with_reducible apply steady_ite | with_reducible apply steady_when | with_reducible apply steady_foldl
      | with_reducible refine Steady.trans ?_ (replayStepRun_steady ..) | with_reducible apply steady_cond | intro _ | split
      | (grind [replayStepRun_steady, Steady.trans, Steady.refl])

end Sys2Proof.Machine
end

