-- ==== Sys2Proof/Laws/Steady/MemCmd.lean ====
section
/-! SUPPORT. `Steady` of the functions of Machine/MemCmd.lean. -/

set_option Elab.async false

namespace Sys2Proof.Machine

seal originate startChannel hostWrites done refused startForagerRun hostReadFrame zeroize regionDeleteRun hostCopyRun
  dropRegion regionChangeRun putRegion regionCreateRun hostReads foragerReads

theorem putRegion_steady (s : State) (n : Nat) (w : BitVec 320) : Steady s (putRegion s n w) := by
  unfold putRegion
  try dsimp only
  repeat' first
      | with_reducible exact Steady.refl _ | (simp (disch := with_reducible rfl) only [↓steady_upd])
      | with_reducible apply steady_ite | with_reducible apply steady_when | with_reducible apply steady_foldl
      | with_reducible apply steady_cond | intro _ | split | (grind [Steady.trans, Steady.refl])

theorem regionCreateRun_steady (s : State) (r : Req) : Steady s (regionCreateRun s r).s := by
  unfold regionCreateRun
  try dsimp only
  repeat' first
      | with_reducible exact Steady.refl _ | (simp (disch := with_reducible rfl) only [↓steady_upd])
      | with_reducible apply steady_ite | with_reducible apply steady_when | with_reducible apply steady_foldl
      | with_reducible refine Steady.trans ?_ (refused_steady ..) | with_reducible refine Steady.trans ?_ (done_steady ..)
      | with_reducible refine Steady.trans ?_ (putRegion_steady ..) | with_reducible apply steady_cond | intro _ | split
      | (grind [refused_steady, done_steady, putRegion_steady, Steady.trans, Steady.refl])

theorem regionCreateCmd_steady  (t : State) (r : Req) (_hf : regionCreateCmd.form t r = none) : Steady t (regionCreateCmd.run
  t r).s := by
  dsimp only [regionCreateCmd]
  repeat' first
      | with_reducible exact Steady.refl _ | (simp (disch := with_reducible rfl) only [↓steady_upd])
      | with_reducible apply steady_ite | with_reducible apply steady_when | with_reducible apply steady_foldl
      | with_reducible refine Steady.trans ?_ (regionCreateRun_steady ..) | with_reducible apply steady_cond | intro _
      | split | (grind [regionCreateRun_steady, Steady.trans, Steady.refl])

theorem regionChangeRun_steady (s : State) (r : Req) : Steady s (regionChangeRun s r).s := by
  unfold regionChangeRun
  try dsimp only
  repeat' first
      | with_reducible exact Steady.refl _ | (simp (disch := with_reducible rfl) only [↓steady_upd])
      | with_reducible apply steady_ite | with_reducible apply steady_when | with_reducible apply steady_foldl
      | with_reducible refine Steady.trans ?_ (refused_steady ..) | with_reducible refine Steady.trans ?_ (done_steady ..)
      | with_reducible refine Steady.trans ?_ (putRegion_steady ..) | with_reducible apply steady_cond | intro _ | split
      | (grind [refused_steady, done_steady, putRegion_steady, Steady.trans, Steady.refl])

theorem regionChangeCmd_steady  (t : State) (r : Req) (_hf : regionChangeCmd.form t r = none) : Steady t (regionChangeCmd.run
  t r).s := by
  dsimp only [regionChangeCmd]
  repeat' first
      | with_reducible exact Steady.refl _ | (simp (disch := with_reducible rfl) only [↓steady_upd])
      | with_reducible apply steady_ite | with_reducible apply steady_when | with_reducible apply steady_foldl
      | with_reducible refine Steady.trans ?_ (regionChangeRun_steady ..) | with_reducible apply steady_cond | intro _
      | split | (grind [regionChangeRun_steady, Steady.trans, Steady.refl])

theorem dropRegion_steady (s : State) (n : Nat) : Steady s (dropRegion s n) := by
  unfold dropRegion
  try dsimp only
  repeat' first
      | with_reducible exact Steady.refl _ | (simp (disch := with_reducible rfl) only [↓steady_upd])
      | with_reducible apply steady_ite | with_reducible apply steady_when | with_reducible apply steady_foldl
      | with_reducible apply steady_cond | intro _ | split | (grind [Steady.trans, Steady.refl])

theorem regionDeleteRun_steady (s : State) (r : Req) : Steady s (regionDeleteRun s r).s := by
  unfold regionDeleteRun
  try dsimp only
  repeat' first
      | with_reducible exact Steady.refl _ | (simp (disch := with_reducible rfl) only [↓steady_upd])
      | with_reducible apply steady_ite | with_reducible apply steady_when | with_reducible apply steady_foldl
      | with_reducible refine Steady.trans ?_ (refused_steady ..) | with_reducible refine Steady.trans ?_ (done_steady ..)
      | with_reducible refine Steady.trans ?_ (dropRegion_steady ..) | with_reducible apply steady_cond | intro _ | split
      | (grind [refused_steady, done_steady, dropRegion_steady, Steady.trans, Steady.refl])

theorem regionDeleteCmd_steady  (t : State) (r : Req) (_hf : regionDeleteCmd.form t r = none) : Steady t (regionDeleteCmd.run
  t r).s := by
  dsimp only [regionDeleteCmd]
  repeat' first
      | with_reducible exact Steady.refl _ | (simp (disch := with_reducible rfl) only [↓steady_upd])
      | with_reducible apply steady_ite | with_reducible apply steady_when | with_reducible apply steady_foldl
      | with_reducible refine Steady.trans ?_ (regionDeleteRun_steady ..) | with_reducible apply steady_cond | intro _
      | split | (grind [regionDeleteRun_steady, Steady.trans, Steady.refl])

unseal zeroize in
theorem zeroize_steady (s : State) : Steady s (zeroize s) := by
  unfold zeroize
  apply steady_mem (Steady.refl s) <;> first | with_reducible rfl | with_reducible exact id | exact fun _ => rfl

theorem zeroizeCmd_steady  (t : State) (r : Req) (_hf : zeroizeCmd.form t r = none) : Steady t (zeroizeCmd.run t r).s := by
  dsimp only [zeroizeCmd]
  repeat' first
      | with_reducible exact Steady.refl _ | (simp (disch := with_reducible rfl) only [↓steady_upd])
      | with_reducible apply steady_ite | with_reducible apply steady_when | with_reducible apply steady_foldl
      | with_reducible refine Steady.trans ?_ (done_steady ..) | with_reducible refine Steady.trans ?_ (zeroize_steady ..)
      | with_reducible apply steady_cond | intro _ | split | (grind [done_steady, zeroize_steady, Steady.trans, Steady.refl])

theorem startForagerRun_steady (s : State) (r : Req) : Steady s (startForagerRun s r).s := by
  unfold startForagerRun
  try dsimp only
  repeat' first
      | with_reducible exact Steady.refl _ | (simp (disch := with_reducible rfl) only [↓steady_upd])
      | with_reducible apply steady_ite | with_reducible apply steady_when | with_reducible apply steady_foldl
      | with_reducible refine Steady.trans ?_ (refused_steady ..) | with_reducible refine Steady.trans ?_ (done_steady ..)
      | with_reducible refine Steady.trans ?_ (startChannel_steady ..) | with_reducible refine Steady.trans ?_ (foragerReads_steady ..)
      | with_reducible apply steady_cond | intro _ | split
      | (grind [foragerReads_steady, refused_steady, done_steady, startChannel_steady, Steady.trans, Steady.refl])

theorem startForagerCmd_steady  (t : State) (r : Req) (_hf : startForagerCmd.form t r = none) : Steady t (startForagerCmd.run
  t r).s := by
  dsimp only [startForagerCmd]
  repeat' first
      | with_reducible exact Steady.refl _ | (simp (disch := with_reducible rfl) only [↓steady_upd])
      | with_reducible apply steady_ite | with_reducible apply steady_when | with_reducible apply steady_foldl
      | with_reducible refine Steady.trans ?_ (startForagerRun_steady ..) | with_reducible apply steady_cond | intro _
      | split | (grind [startForagerRun_steady, Steady.trans, Steady.refl])

theorem foragerStatusCmd_steady  (t : State) (r : Req) (_hf : foragerStatusCmd.form t r = none) : Steady t
  (foragerStatusCmd.run t r).s := by
  dsimp only [foragerStatusCmd]
  repeat' first
      | with_reducible exact Steady.refl _ | (simp (disch := with_reducible rfl) only [↓steady_upd])
      | with_reducible apply steady_ite | with_reducible apply steady_when | with_reducible apply steady_foldl
      | with_reducible refine Steady.trans ?_ (done_steady ..) | with_reducible apply steady_cond | intro _ | split
      | (grind [done_steady, Steady.trans, Steady.refl])

theorem hostReadFrame_steady (s : State) (a : Nat) (n : Nat) (host : Word) : Steady s (hostReadFrame s a n host) := by
  unfold hostReadFrame
  try dsimp only
  repeat' first
      | with_reducible exact Steady.refl _ | (simp (disch := with_reducible rfl) only [↓steady_upd])
      | with_reducible apply steady_ite | with_reducible apply steady_when | with_reducible apply steady_foldl
      | with_reducible refine Steady.trans ?_ (originate_steady ..) | with_reducible apply steady_cond | intro _ | split
      | (grind [originate_steady, Steady.trans, Steady.refl])

unseal hostReads in
theorem hostReads_steady (s : State) (a : Nat) (host : Word) (a1 : Nat) (a2 : Nat) : Steady s (hostReads s a host a1 a2) := by
  induction a2 generalizing s a host a1 with
  | zero => cases a1 <;> exact Steady.refl s
  | succ k ih =>
    cases a1 with
    | zero => exact Steady.refl s
    | succ n => exact (hostReadFrame_steady ..).trans (ih ..)

theorem hostCopyRun_steady (data : List Word) (s : State) (r : Req) : Steady s (hostCopyRun data s r).s := by
  unfold hostCopyRun
  try dsimp only
  repeat' first
      | with_reducible exact Steady.refl _ | (simp (disch := with_reducible rfl) only [↓steady_upd])
      | with_reducible apply steady_ite | with_reducible apply steady_when | with_reducible apply steady_foldl
      | with_reducible refine Steady.trans ?_ (done_steady ..) | with_reducible refine Steady.trans ?_ (hostWrites_steady ..)
      | with_reducible refine Steady.trans ?_ (hostReads_steady ..) | with_reducible apply steady_cond | intro _ | split
      | (grind [done_steady, hostWrites_steady, hostReads_steady, Steady.trans, Steady.refl])

theorem hostCopyCmd_steady (data : List Word) (t : State) (r : Req) (_hf : (hostCopyCmd data).form t r = none) : Steady t
  ((hostCopyCmd data).run t r).s := by
  dsimp only [hostCopyCmd]
  repeat' first
      | with_reducible exact Steady.refl _ | (simp (disch := with_reducible rfl) only [↓steady_upd])
      | with_reducible apply steady_ite | with_reducible apply steady_when | with_reducible apply steady_foldl
      | with_reducible refine Steady.trans ?_ (hostCopyRun_steady ..) | with_reducible apply steady_cond | intro _ | split
      | (grind [hostCopyRun_steady, Steady.trans, Steady.refl])

end Sys2Proof.Machine
end

