-- ==== Sys2Proof/Laws/Steady/Power.lean ====
section
/-! SUPPORT. `Steady` of the functions of Machine/Power.lean. -/

set_option Elab.async false

namespace Sys2Proof.Machine

seal count emit recomputeHealth safeEntry mainPowerLost tryBoot mainConversionStop perstN powerCapPeriod mainPowerGood
  currentLimit managementLockstepMismatch thermalSample busMasterEnable currentLevelDecay slotChanged main54vFault
  auxPowerGood railFault stopBy thermtrip pwrEnAssert auxLost auxPowerLost leakNDeassert leakN pwrEnDeassert clockFault
  msix

unseal auxLost in
theorem auxLost_steady (s : State) : Steady s (auxLost s) := by
  unfold auxLost
  constructor <;> intros <;> first | rfl | assumption | simp_all

theorem auxPowerLost_steady (s : State) : Steady s (auxPowerLost s) := by
  unfold auxPowerLost
  try dsimp only
  repeat' first
      | with_reducible exact Steady.refl _ | (simp (disch := with_reducible rfl) only [↓steady_upd])
      | with_reducible apply steady_ite | with_reducible apply steady_when | with_reducible apply steady_foldl
      | with_reducible refine Steady.trans ?_ (auxLost_steady ..) | with_reducible apply steady_cond | intro _ | split
      | (grind [auxLost_steady, Steady.trans, Steady.refl])

theorem auxPowerGood_steady (s : State) : Steady s (auxPowerGood s) := by
  unfold auxPowerGood
  try dsimp only
  repeat' first
      | with_reducible exact Steady.refl _ | (simp (disch := with_reducible rfl) only [↓steady_upd])
      | with_reducible apply steady_ite | with_reducible apply steady_when | with_reducible apply steady_foldl
      | with_reducible refine Steady.trans ?_ (recomputeHealth_steady ..) | with_reducible apply steady_cond | intro _
      | split | (grind [recomputeHealth_steady, Steady.trans, Steady.refl])

theorem pwrEnAssert_steady (s : State) : Steady s (pwrEnAssert s) := by
  unfold pwrEnAssert
  try dsimp only
  repeat' first
      | with_reducible exact Steady.refl _ | (simp (disch := with_reducible rfl) only [↓steady_upd])
      | with_reducible apply steady_ite | with_reducible apply steady_when | with_reducible apply steady_foldl
      | with_reducible refine Steady.trans ?_ (tryBoot_steady ..) | with_reducible apply steady_cond | intro _ | split
      | (grind [tryBoot_steady, Steady.trans, Steady.refl])

theorem pwrEnDeassert_steady (s : State) : Steady s (pwrEnDeassert s) := by
  unfold pwrEnDeassert
  try dsimp only
  repeat' first
      | with_reducible exact Steady.refl _ | (simp (disch := with_reducible rfl) only [↓steady_upd])
      | with_reducible apply steady_ite | with_reducible apply steady_when | with_reducible apply steady_foldl
      | with_reducible refine Steady.trans ?_ (mainPowerLost_steady ..) | with_reducible apply steady_cond | intro _ | split
      | (grind [mainPowerLost_steady, Steady.trans, Steady.refl])

theorem stopBy_steady (s : State) (ns : Nat) : Steady s (stopBy s ns) := by
  unfold stopBy
  try dsimp only
  repeat' first
      | with_reducible exact Steady.refl _ | (simp (disch := with_reducible rfl) only [↓steady_upd])
      | with_reducible apply steady_ite | with_reducible apply steady_when | with_reducible apply steady_foldl
      | with_reducible apply steady_cond | intro _ | split | (grind [Steady.trans, Steady.refl])

theorem main54vFault_steady (s : State) : Steady s (main54vFault s) := by
  unfold main54vFault
  try dsimp only
  repeat' first
      | with_reducible exact Steady.refl _ | (simp (disch := with_reducible rfl) only [↓steady_upd])
      | with_reducible apply steady_ite | with_reducible apply steady_when | with_reducible apply steady_foldl
      | with_reducible refine Steady.trans ?_ (stopBy_steady ..)
      | with_reducible refine Steady.trans ?_ (safeEntry_steady ..) | with_reducible apply steady_cond | intro _ | split
      | (grind [stopBy_steady, safeEntry_steady, Steady.trans, Steady.refl])

theorem mainPowerGood_steady (s : State) : Steady s (mainPowerGood s) := by
  unfold mainPowerGood
  try dsimp only
  repeat' first
      | with_reducible exact Steady.refl _ | (simp (disch := with_reducible rfl) only [↓steady_upd])
      | with_reducible apply steady_ite | with_reducible apply steady_when | with_reducible apply steady_foldl
      | with_reducible refine Steady.trans ?_ (tryBoot_steady ..) | with_reducible apply steady_cond | intro _ | split
      | (grind [tryBoot_steady, Steady.trans, Steady.refl])

theorem railFault_steady (rail : Nat) (s : State) : Steady s (railFault rail s) := by
  unfold railFault
  try dsimp only
  repeat' first
      | with_reducible exact Steady.refl _ | (simp (disch := with_reducible rfl) only [↓steady_upd])
      | with_reducible apply steady_ite | with_reducible apply steady_when | with_reducible apply steady_foldl
      | with_reducible refine Steady.trans ?_ (safeEntry_steady ..) | with_reducible apply steady_cond | intro _ | split
      | (grind [safeEntry_steady, Steady.trans, Steady.refl])

theorem clockFault_steady (clock : Nat) (s : State) : Steady s (clockFault clock s) := by
  unfold clockFault
  try dsimp only
  repeat' first
      | with_reducible exact Steady.refl _ | (simp (disch := with_reducible rfl) only [↓steady_upd])
      | with_reducible apply steady_ite | with_reducible apply steady_when | with_reducible apply steady_foldl
      | with_reducible refine Steady.trans ?_ (safeEntry_steady ..) | with_reducible apply steady_cond | intro _ | split
      | (grind [safeEntry_steady, Steady.trans, Steady.refl])

theorem managementLockstepMismatch_steady (s : State) : Steady s (managementLockstepMismatch s) := by
  unfold managementLockstepMismatch
  try dsimp only
  repeat' first
      | with_reducible exact Steady.refl _ | (simp (disch := with_reducible rfl) only [↓steady_upd])
      | with_reducible apply steady_ite | with_reducible apply steady_when | with_reducible apply steady_foldl
      | with_reducible refine Steady.trans ?_ (safeEntry_steady ..) | with_reducible apply steady_cond | intro _ | split
      | (grind [safeEntry_steady, Steady.trans, Steady.refl])

theorem mainConversionStop_steady (s : State) : Steady s (mainConversionStop s) := by
  unfold mainConversionStop
  try dsimp only
  repeat' first
      | with_reducible exact Steady.refl _ | (simp (disch := with_reducible rfl) only [↓steady_upd])
      | with_reducible apply steady_ite | with_reducible apply steady_when | with_reducible apply steady_foldl
      | with_reducible refine Steady.trans ?_ (mainPowerLost_steady ..) | with_reducible apply steady_cond | intro _ | split
      | (grind [mainPowerLost_steady, Steady.trans, Steady.refl])

theorem thermtrip_steady (r : ThermalReading) (s : State) : Steady s (thermtrip r s) := by
  unfold thermtrip
  try dsimp only
  repeat' first
      | with_reducible exact Steady.refl _ | (simp (disch := with_reducible rfl) only [↓steady_upd])
      | with_reducible apply steady_ite | with_reducible apply steady_when | with_reducible apply steady_foldl
      | with_reducible refine Steady.trans ?_ (stopBy_steady ..)
      | with_reducible refine Steady.trans ?_ (safeEntry_steady ..) | with_reducible apply steady_cond | intro _ | split
      | (grind [stopBy_steady, safeEntry_steady, Steady.trans, Steady.refl])

theorem leakN_steady (s : State) : Steady s (leakN s) := by
  unfold leakN
  try dsimp only
  repeat' first
      | with_reducible exact Steady.refl _ | (simp (disch := with_reducible rfl) only [↓steady_upd])
      | with_reducible apply steady_ite | with_reducible apply steady_when | with_reducible apply steady_foldl
      | with_reducible refine Steady.trans ?_ (stopBy_steady ..)
      | with_reducible refine Steady.trans ?_ (safeEntry_steady ..) | with_reducible apply steady_cond | intro _ | split
      | (grind [stopBy_steady, safeEntry_steady, Steady.trans, Steady.refl])

theorem leakNDeassert_steady (s : State) : Steady s (leakNDeassert s) := by
  unfold leakNDeassert
  try dsimp only
  repeat' first
      | with_reducible exact Steady.refl _ | (simp (disch := with_reducible rfl) only [↓steady_upd])
      | with_reducible apply steady_ite | with_reducible apply steady_when | with_reducible apply steady_foldl
      | with_reducible refine Steady.trans ?_ (tryBoot_steady ..) | with_reducible apply steady_cond | intro _ | split
      | (grind [tryBoot_steady, Steady.trans, Steady.refl])

theorem thermalSample_steady (r : ThermalReading) (s : State) : Steady s (thermalSample r s) := by
  unfold thermalSample
  try dsimp only
  repeat' first
      | with_reducible exact Steady.refl _ | (simp (disch := with_reducible rfl) only [↓steady_upd])
      | with_reducible apply steady_ite | with_reducible apply steady_when | with_reducible apply steady_foldl
      | with_reducible apply steady_cond | intro _ | split | (grind [Steady.trans, Steady.refl])

theorem powerCapPeriod_steady (r : PowerReading) (s : State) : Steady s (powerCapPeriod r s) := by
  unfold powerCapPeriod
  try dsimp only
  repeat' first
      | with_reducible exact Steady.refl _ | (simp (disch := with_reducible rfl) only [↓steady_upd])
      | with_reducible apply steady_ite | with_reducible apply steady_when | with_reducible apply steady_foldl
      | with_reducible apply steady_cond | intro _ | split | (grind [Steady.trans, Steady.refl])

theorem currentLimit_steady (s : State) : Steady s (currentLimit s) := by
  unfold currentLimit
  try dsimp only
  repeat' first
      | with_reducible exact Steady.refl _ | (simp (disch := with_reducible rfl) only [↓steady_upd])
      | with_reducible apply steady_ite | with_reducible apply steady_when | with_reducible apply steady_foldl
      | with_reducible apply steady_cond | intro _ | split | (grind [Steady.trans, Steady.refl])

theorem currentLevelDecay_steady (s : State) : Steady s (currentLevelDecay s) := by
  unfold currentLevelDecay
  try dsimp only
  repeat' first
      | with_reducible exact Steady.refl _ | (simp (disch := with_reducible rfl) only [↓steady_upd])
      | with_reducible apply steady_ite | with_reducible apply steady_when | with_reducible apply steady_foldl
      | with_reducible apply steady_cond | intro _ | split | (grind [Steady.trans, Steady.refl])

theorem perstN_steady (s : State) : Steady s (perstN s) := by
  unfold perstN
  try dsimp only
  repeat' first
      | with_reducible exact Steady.refl _ | (simp (disch := with_reducible rfl) only [↓steady_upd])
      | with_reducible apply steady_ite | with_reducible apply steady_when | with_reducible apply steady_foldl
      | with_reducible apply steady_cond | intro _ | split | (grind [Steady.trans, Steady.refl])

theorem busMasterEnable_steady (s : State) : Steady s (busMasterEnable s) := by
  unfold busMasterEnable
  try dsimp only
  repeat' first
      | with_reducible exact Steady.refl _ | (simp (disch := with_reducible rfl) only [↓steady_upd])
      | with_reducible apply steady_ite | with_reducible apply steady_when | with_reducible apply steady_foldl
      | with_reducible refine Steady.trans ?_ (emit_steady ..) | with_reducible apply steady_cond | intro _ | split
      | (grind [emit_steady, Steady.trans, Steady.refl])

theorem slotChanged_steady (slot : BitVec 5) (hiveN : Bool) (twinN : Bool) (s : State) : Steady s (slotChanged slot hiveN
  twinN s) := by
  unfold slotChanged
  try dsimp only
  repeat' first
      | with_reducible exact Steady.refl _ | (simp (disch := with_reducible rfl) only [↓steady_upd])
      | with_reducible apply steady_ite | with_reducible apply steady_when | with_reducible apply steady_foldl
      | with_reducible refine Steady.trans ?_ (count_steady ..) | with_reducible apply steady_cond | intro _ | split
      | (grind [count_steady, Steady.trans, Steady.refl])

end Sys2Proof.Machine
end

