-- ==== Sys2Proof/Laws/Steady/ReadConfig.lean ====
section
/-! SUPPORT. `Steady` of the functions of Machine/ReadConfig.lean. -/

set_option Elab.async false

namespace Sys2Proof.Machine

seal done readConfigRun

theorem readConfigRun_steady (s : State) (r : Req) : Steady s (readConfigRun s r).s := by
  unfold readConfigRun
  try dsimp only
  repeat' first
      | with_reducible exact Steady.refl _ | (simp (disch := with_reducible rfl) only [↓steady_upd])
      | with_reducible apply steady_ite | with_reducible apply steady_when | with_reducible apply steady_foldl
      | with_reducible refine Steady.trans ?_ (done_steady ..) | with_reducible apply steady_cond | intro _ | split
      | (grind [done_steady, Steady.trans, Steady.refl])

theorem readConfigCmd_steady  (t : State) (r : Req) (_hf : readConfigCmd.form t r = none) : Steady t (readConfigCmd.run t
  r).s := by
  dsimp only [readConfigCmd]
  repeat' first
      | with_reducible exact Steady.refl _ | (simp (disch := with_reducible rfl) only [↓steady_upd])
      | with_reducible apply steady_ite | with_reducible apply steady_when | with_reducible apply steady_foldl
      | with_reducible refine Steady.trans ?_ (readConfigRun_steady ..) | with_reducible apply steady_cond | intro _ | split
      | (grind [readConfigRun_steady, Steady.trans, Steady.refl])

end Sys2Proof.Machine
end

