-- ==== Sys2Proof/Laws/Steady/Smoker.lean ====
section
/-! SUPPORT. `Steady` of the functions of Machine/Smoker.lean. -/

set_option Elab.async false

namespace Sys2Proof.Machine

seal logEvent recomputeHealth modPort raisePoison laneFailed coreFails smokerRehearsal injectComb inject
  healthDeductionExpiry count

theorem injectComb_steady (s : State) (key : Nat) : Steady s (injectComb s key) := by
  unfold injectComb
  try dsimp only
  repeat' first
      | with_reducible exact Steady.refl _ | (simp (disch := with_reducible rfl) only [↓steady_upd])
      | with_reducible apply steady_ite | with_reducible apply steady_when | with_reducible apply steady_foldl
      | with_reducible apply steady_cond | intro _ | split | (grind [Steady.trans, Steady.refl])

theorem inject_steady (s : State) (t : Nat) (port : Nat) (lane : Nat) (q : Nat) (i : Nat) : Steady s (inject s t port lane q
  i) := by
  unfold inject
  try dsimp only
  repeat' first
      | with_reducible exact Steady.refl _ | (simp (disch := with_reducible rfl) only [↓steady_upd])
      | with_reducible apply steady_ite | with_reducible apply steady_when | with_reducible apply steady_foldl
      | with_reducible refine Steady.trans ?_ (count_steady ..)
      | with_reducible refine Steady.trans ?_ (injectComb_steady ..)
      | with_reducible refine Steady.trans ?_ (laneFailed_steady ..)
      | with_reducible refine Steady.trans ?_ (modPort_steady ..)
      | with_reducible refine Steady.trans ?_ (coreFails_steady ..)
      | with_reducible refine Steady.trans ?_ (raisePoison_steady ..) | with_reducible apply steady_cond | intro _ | split
      | (grind [count_steady, injectComb_steady, laneFailed_steady, modPort_steady, coreFails_steady, raisePoison_steady, Steady.trans, Steady.refl])

unseal smokerRehearsal in
theorem smokerRehearsal_steady (port : Nat) (lane : Nat) (q : Nat) (i : Nat) (s : State) : Steady s (smokerRehearsal port
  lane q i s) := by
  unfold smokerRehearsal
  refine steady_ite _ (Steady.refl s) ?_
  extract_lets hv s1
  have a : Steady s s1 := by
    constructor <;> intros <;> simp_all [s1]
  split
  · exact a
  · extract_lets skip s2
    have b : Steady s s2 := by
      refine a.trans ?_
      constructor <;> intros <;> simp_all [s2]
    exact steady_ite _ (b.trans (logEvent_steady ..)) ((b.trans (logEvent_steady ..)).trans (inject_steady ..))

theorem healthDeductionExpiry_steady (s : State) : Steady s (healthDeductionExpiry s) := by
  unfold healthDeductionExpiry
  try dsimp only
  repeat' first
      | with_reducible exact Steady.refl _ | (simp (disch := with_reducible rfl) only [↓steady_upd])
      | with_reducible apply steady_ite | with_reducible apply steady_when | with_reducible apply steady_foldl
      | with_reducible refine Steady.trans ?_ (recomputeHealth_steady ..) | with_reducible apply steady_cond | intro _
      | split | (grind [recomputeHealth_steady, Steady.trans, Steady.refl])

end Sys2Proof.Machine
end

