-- ==== Sys2Proof/Laws/Steady/Service.lean ====
section
/-! SUPPORT. `Steady` of the functions of Machine/Service.lean. -/

set_option Elab.async false

namespace Sys2Proof.Machine

seal countN drawFree sendSets recomputeHealth endLaunch discardStep takeFreeze resume clearFreeze fullReset settleUnits
  selfTest runCmd done warmReset drawWords runReset readoutRun dropLaunch setSmoker freezeCommand clearLogs thawCommand

theorem getHealthCmd_steady  (t : State) (r : Req) (_hf : getHealthCmd.form t r = none) : Steady t (getHealthCmd.run t r).s := by
  dsimp only [getHealthCmd]
  repeat' first
      | with_reducible exact Steady.refl _ | (simp (disch := with_reducible rfl) only [↓steady_upd])
      | with_reducible apply steady_ite | with_reducible apply steady_when | with_reducible apply steady_foldl
      | with_reducible refine Steady.trans ?_ (done_steady ..) | with_reducible apply steady_cond | intro _ | split
      | (grind [done_steady, Steady.trans, Steady.refl])

theorem setStatsCmd_steady  (t : State) (r : Req) (_hf : setStatsCmd.form t r = none) : Steady t (setStatsCmd.run t r).s := by
  dsimp only [setStatsCmd]
  repeat' first
      | with_reducible exact Steady.refl _ | (simp (disch := with_reducible rfl) only [↓steady_upd])
      | with_reducible apply steady_ite | with_reducible apply steady_when | with_reducible apply steady_foldl
      | with_reducible refine Steady.trans ?_ (done_steady ..) | with_reducible apply steady_cond | intro _ | split
      | (grind [done_steady, Steady.trans, Steady.refl])

theorem readLogsCmd_steady  (t : State) (r : Req) (_hf : readLogsCmd.form t r = none) : Steady t (readLogsCmd.run t r).s := by
  dsimp only [readLogsCmd]
  repeat' first
      | with_reducible exact Steady.refl _ | (simp (disch := with_reducible rfl) only [↓steady_upd])
      | with_reducible apply steady_ite | with_reducible apply steady_when | with_reducible apply steady_foldl
      | with_reducible refine Steady.trans ?_ (done_steady ..) | with_reducible apply steady_cond | intro _ | split
      | (grind [done_steady, Steady.trans, Steady.refl])

theorem clearLogs_steady (s : State) (log : Nat) (k : Nat) (n : Nat) : Steady s (clearLogs s log k n) := by
  unfold clearLogs
  try dsimp only
  repeat' first
      | with_reducible exact Steady.refl _ | (simp (disch := with_reducible rfl) only [↓steady_upd])
      | with_reducible apply steady_ite | with_reducible apply steady_when | with_reducible apply steady_foldl
      | with_reducible apply steady_cond | intro _ | split | (grind [Steady.trans, Steady.refl])

theorem clearLogsCmd_steady  (t : State) (r : Req) (_hf : clearLogsCmd.form t r = none) : Steady t (clearLogsCmd.run t r).s := by
  dsimp only [clearLogsCmd]
  repeat' first
      | with_reducible exact Steady.refl _ | (simp (disch := with_reducible rfl) only [↓steady_upd])
      | with_reducible apply steady_ite | with_reducible apply steady_when | with_reducible apply steady_foldl
      | with_reducible refine Steady.trans ?_ (done_steady ..) | with_reducible refine Steady.trans ?_ (clearLogs_steady ..)
      | with_reducible apply steady_cond | intro _ | split
      | (grind [done_steady, clearLogs_steady, Steady.trans, Steady.refl])

theorem keepInServiceCmd_steady  (t : State) (r : Req) (_hf : keepInServiceCmd.form t r = none) : Steady t
  (keepInServiceCmd.run t r).s := by
  dsimp only [keepInServiceCmd]
  repeat' first
      | with_reducible exact Steady.refl _ | (simp (disch := with_reducible rfl) only [↓steady_upd])
      | with_reducible apply steady_ite | with_reducible apply steady_when | with_reducible apply steady_foldl
      | with_reducible refine Steady.trans ?_ (done_steady ..)
      | with_reducible refine Steady.trans ?_ (recomputeHealth_steady ..) | with_reducible apply steady_cond | intro _
      | split | (grind [done_steady, recomputeHealth_steady, Steady.trans, Steady.refl])

theorem getPowerCmd_steady  (t : State) (r : Req) (_hf : getPowerCmd.form t r = none) : Steady t (getPowerCmd.run t r).s := by
  dsimp only [getPowerCmd]
  repeat' first
      | with_reducible exact Steady.refl _ | (simp (disch := with_reducible rfl) only [↓steady_upd])
      | with_reducible apply steady_ite | with_reducible apply steady_when | with_reducible apply steady_foldl
      | with_reducible refine Steady.trans ?_ (done_steady ..) | with_reducible apply steady_cond | intro _ | split
      | (grind [done_steady, Steady.trans, Steady.refl])

theorem setPowerCapCmd_steady  (t : State) (r : Req) (_hf : setPowerCapCmd.form t r = none) : Steady t (setPowerCapCmd.run t
  r).s := by
  dsimp only [setPowerCapCmd]
  repeat' first
      | with_reducible exact Steady.refl _ | (simp (disch := with_reducible rfl) only [↓steady_upd])
      | with_reducible apply steady_ite | with_reducible apply steady_when | with_reducible apply steady_foldl
      | with_reducible refine Steady.trans ?_ (done_steady ..) | with_reducible apply steady_cond | intro _ | split
      | (grind [done_steady, Steady.trans, Steady.refl])

theorem freezeCommand_steady (s : State) (id : Nat) (propagate : Bool) : Steady s (freezeCommand s id propagate) := by
  unfold freezeCommand
  try dsimp only
  repeat' first
      | with_reducible exact Steady.refl _ | (simp (disch := with_reducible rfl) only [↓steady_upd])
      | with_reducible apply steady_ite | with_reducible apply steady_when | with_reducible apply steady_foldl
      | with_reducible refine Steady.trans ?_ (takeFreeze_steady ..)
      | with_reducible refine Steady.trans ?_ (sendSets_steady ..) | with_reducible apply steady_cond | intro _ | split
      | (grind [takeFreeze_steady, sendSets_steady, Steady.trans, Steady.refl])

theorem freezeCmd_steady  (t : State) (r : Req) (_hf : freezeCmd.form t r = none) : Steady t (freezeCmd.run t r).s := by
  dsimp only [freezeCmd]
  repeat' first
      | with_reducible exact Steady.refl _ | (simp (disch := with_reducible rfl) only [↓steady_upd])
      | with_reducible apply steady_ite | with_reducible apply steady_when | with_reducible apply steady_foldl
      | with_reducible refine Steady.trans ?_ (done_steady ..)
      | with_reducible refine Steady.trans ?_ (freezeCommand_steady ..) | with_reducible apply steady_cond | intro _ | split
      | (grind [done_steady, freezeCommand_steady, Steady.trans, Steady.refl])

theorem thawCommand_steady (s : State) (id : Nat) : Steady s (thawCommand s id) := by
  unfold thawCommand
  try dsimp only
  repeat' first
      | with_reducible exact Steady.refl _ | (simp (disch := with_reducible rfl) only [↓steady_upd])
      | with_reducible apply steady_ite | with_reducible apply steady_when | with_reducible apply steady_foldl
      | with_reducible refine Steady.trans ?_ (resume_steady ..)
      | with_reducible refine Steady.trans ?_ (clearFreeze_steady ..)
      | with_reducible refine Steady.trans ?_ (sendSets_steady ..) | with_reducible apply steady_cond | intro _ | split
      | (grind [resume_steady, clearFreeze_steady, sendSets_steady, Steady.trans, Steady.refl])

theorem thawCmd_steady  (t : State) (r : Req) (_hf : thawCmd.form t r = none) : Steady t (thawCmd.run t r).s := by
  dsimp only [thawCmd]
  repeat' first
      | with_reducible exact Steady.refl _ | (simp (disch := with_reducible rfl) only [↓steady_upd])
      | with_reducible apply steady_ite | with_reducible apply steady_when | with_reducible apply steady_foldl
      | with_reducible refine Steady.trans ?_ (done_steady ..)
      | with_reducible refine Steady.trans ?_ (thawCommand_steady ..) | with_reducible apply steady_cond | intro _ | split
      | (grind [done_steady, thawCommand_steady, Steady.trans, Steady.refl])

unseal drawWords in
theorem drawWords_steady (s : State) (a : Nat) : Steady s (drawWords s a).2 := by
  induction a generalizing s with
  | zero => exact Steady.refl s
  | succ n ih => exact (drawFree_steady s).trans (ih _)

theorem readoutRun_steady (s : State) (r : Req) : Steady s (readoutRun s r).s := by
  unfold readoutRun
  try dsimp only
  repeat' first
      | with_reducible exact Steady.refl _ | (simp (disch := with_reducible rfl) only [↓steady_upd])
      | with_reducible apply steady_ite | with_reducible apply steady_when | with_reducible apply steady_foldl
      | with_reducible refine Steady.trans ?_ (drawWords_steady ..) | with_reducible refine Steady.trans ?_ (done_steady ..)
      | with_reducible apply steady_cond | intro _ | split
      | (grind [drawWords_steady, done_steady, Steady.trans, Steady.refl])

theorem readoutCmd_steady  (t : State) (r : Req) (_hf : readoutCmd.form t r = none) : Steady t (readoutCmd.run t r).s := by
  dsimp only [readoutCmd]
  repeat' first
      | with_reducible exact Steady.refl _ | (simp (disch := with_reducible rfl) only [↓steady_upd])
      | with_reducible apply steady_ite | with_reducible apply steady_when | with_reducible apply steady_foldl
      | with_reducible refine Steady.trans ?_ (readoutRun_steady ..) | with_reducible apply steady_cond | intro _ | split
      | (grind [readoutRun_steady, Steady.trans, Steady.refl])

theorem setSmoker_steady (s : State) (w : Word) : Steady s (setSmoker s w) := by
  unfold setSmoker
  try dsimp only
  repeat' first
      | with_reducible exact Steady.refl _ | (simp (disch := with_reducible rfl) only [↓steady_upd])
      | with_reducible apply steady_ite | with_reducible apply steady_when | with_reducible apply steady_foldl
      | with_reducible apply steady_cond | intro _ | split | (grind [Steady.trans, Steady.refl])

theorem setSmokerCmd_steady  (t : State) (r : Req) (_hf : setSmokerCmd.form t r = none) : Steady t (setSmokerCmd.run t r).s := by
  dsimp only [setSmokerCmd]
  repeat' first
      | with_reducible exact Steady.refl _ | (simp (disch := with_reducible rfl) only [↓steady_upd])
      | with_reducible apply steady_ite | with_reducible apply steady_when | with_reducible apply steady_foldl
      | with_reducible refine Steady.trans ?_ (done_steady ..) | with_reducible refine Steady.trans ?_ (setSmoker_steady ..)
      | with_reducible apply steady_cond | intro _ | split
      | (grind [done_steady, setSmoker_steady, Steady.trans, Steady.refl])

theorem setWindowCmd_steady  (t : State) (r : Req) (_hf : setWindowCmd.form t r = none) : Steady t (setWindowCmd.run t r).s := by
  dsimp only [setWindowCmd]
  repeat' first
      | with_reducible exact Steady.refl _ | (simp (disch := with_reducible rfl) only [↓steady_upd])
      | with_reducible apply steady_ite | with_reducible apply steady_when | with_reducible apply steady_foldl
      | with_reducible refine Steady.trans ?_ (done_steady ..) | with_reducible apply steady_cond | intro _ | split
      | (grind [done_steady, Steady.trans, Steady.refl])

theorem dropLaunch_steady (s : State) : Steady s (dropLaunch s) := by
  unfold dropLaunch
  try dsimp only
  repeat' first
      | with_reducible exact Steady.refl _ | (simp (disch := with_reducible rfl) only [↓steady_upd])
      | with_reducible apply steady_ite | with_reducible apply steady_when | with_reducible apply steady_foldl
      | with_reducible refine Steady.trans ?_ (endLaunch_steady ..)
      | with_reducible refine Steady.trans ?_ (discardStep_steady ..) | with_reducible apply steady_cond | intro _ | split
      | (grind [endLaunch_steady, discardStep_steady, Steady.trans, Steady.refl])

unseal warmReset in
theorem warmReset_steady (s : State) (failed : List (Nat × Nat)) : Steady s (warmReset s failed) := by
  unfold warmReset
  dsimp only
  refine Steady.trans (Steady.trans ?_ (selfTest_steady ..)) (settleUnits_steady ..)
  apply steady_mem ((dropLaunch_steady s).trans (countN_steady ..)) <;> first
    | with_reducible rfl
    | with_reducible exact id
    | exact fun _ => rfl

theorem resetWarmCmd_steady (failed : List (Nat × Nat)) (t : State) (r : Req) (_hf : (resetWarmCmd failed).form t r = none) :
  Steady t ((resetWarmCmd failed).run t r).s := by
  dsimp only [resetWarmCmd]
  repeat' first
      | with_reducible exact Steady.refl _ | (simp (disch := with_reducible rfl) only [↓steady_upd])
      | with_reducible apply steady_ite | with_reducible apply steady_when | with_reducible apply steady_foldl
      | with_reducible refine Steady.trans ?_ (done_steady ..) | with_reducible refine Steady.trans ?_ (warmReset_steady ..)
      | with_reducible apply steady_cond | intro _ | split
      | (grind [done_steady, warmReset_steady, Steady.trans, Steady.refl])

theorem resetFullCmd_steady  (t : State) (r : Req) (_hf : resetFullCmd.form t r = none) : Steady t (resetFullCmd.run t r).s := by
  dsimp only [resetFullCmd]
  repeat' first
      | with_reducible exact Steady.refl _ | (simp (disch := with_reducible rfl) only [↓steady_upd])
      | with_reducible apply steady_ite | with_reducible apply steady_when | with_reducible apply steady_foldl
      | with_reducible refine Steady.trans ?_ (done_steady ..) | with_reducible refine Steady.trans ?_ (fullReset_steady ..)
      | with_reducible apply steady_cond | intro _ | split
      | (grind [done_steady, fullReset_steady, Steady.trans, Steady.refl])

unseal runReset in
theorem runReset_steady (full : Bool) (c : Cmd) (src : ReqSrc) (s : State) (hc : ∀ t r, c.form t r = none → Steady t (c.run t
  r).s) : Steady s (runReset full c src s) := by
  unfold runReset
  split
  · exact steady_ite _ (runCmd_steady _ _ _ hc) (Steady.refl s)
  · exact Steady.refl s

end Sys2Proof.Machine
end

