-- ==== Sys2Proof/Laws/Steady/Security.lean ====
section
/-! SUPPORT. `Steady` of the functions of Machine/Security.lean. -/

set_option Elab.async false

namespace Sys2Proof.Machine

seal endScopes fullReset done refused extendHistory drawWords debugUnlockRun restart debugChallengeRun fwStage fwActivate
  forward setScopes

unseal fwStage in
theorem fwStage_steady (s : State) (off : Nat) (bs : List Byte) : Steady s (fwStage s off bs) := by
  have w : ∀ (m : Mem) o b, Mem.wf m = true → Mem.wf (memWrite (if off = 0 then [] else m) o b) = true := by
    intro m o b h
    refine memWf_write _ _ _ ?_
    split
    · rfl
    · exact h
  unfold fwStage
  dsimp only
  cases hr : s.sec.running <;>
    (apply steady_mem (Steady.refl s) <;> first
      | with_reducible rfl
      | with_reducible exact id
      | (intro h; dsimp only; exact w _ _ _ h))

theorem fwStageCmd_steady  (t : State) (r : Req) (_hf : fwStageCmd.form t r = none) : Steady t (fwStageCmd.run t r).s := by
  dsimp only [fwStageCmd]
  repeat' first
      | with_reducible exact Steady.refl _ | (simp (disch := with_reducible rfl) only [↓steady_upd])
      | with_reducible apply steady_ite | with_reducible apply steady_when | with_reducible apply steady_foldl
      | with_reducible refine Steady.trans ?_ (done_steady ..) | with_reducible refine Steady.trans ?_ (fwStage_steady ..)
      | with_reducible apply steady_cond | intro _ | split | (grind [done_steady, fwStage_steady, Steady.trans, Steady.refl])

unseal restart in
theorem restart_steady (s : State) : Steady s (restart s) := by
  unfold restart
  have a := steady_ite (s := s) (s.dev.recovery = true) (endScopes_steady s) (fullReset_steady s)
  apply steady_mem a <;> first
    | with_reducible rfl
    | with_reducible exact id
    | exact fun _ => show Mem.wf ({} : HostIf).bar2 = true by decide +kernel

unseal fwActivate in
theorem fwActivate_steady (s : State) (w : Word) : Steady s (fwActivate s w) := by
  unfold fwActivate
  dsimp only
  have a : Steady s { s with sec := { s.sec with
      svn := if flag w 2 then s.sec.svn ||| BitVec.ofNat 64 (2 ^ svnAfter s (flag w 2) - 1) else s.sec.svn
      revoked0 := s.sec.revoked0 || flag w 3
      preferred := if flag w 0 then !s.sec.running else s.sec.preferred } } := by
    constructor <;> intros <;> first | rfl | assumption | skip
    all_goals first | (dsimp only; split <;> simp_all [BitVec.getLsbD_or]) | simp_all
  exact steady_ite _ (a.trans (restart_steady _)) a

theorem fwActivateCmd_steady  (t : State) (r : Req) (_hf : fwActivateCmd.form t r = none) : Steady t (fwActivateCmd.run t
  r).s := by
  dsimp only [fwActivateCmd]
  repeat' first
      | with_reducible exact Steady.refl _ | (simp (disch := with_reducible rfl) only [↓steady_upd])
      | with_reducible apply steady_ite | with_reducible apply steady_when | with_reducible apply steady_foldl
      | with_reducible refine Steady.trans ?_ (done_steady ..) | with_reducible refine Steady.trans ?_ (fwActivate_steady ..)
      | with_reducible apply steady_cond | intro _ | split
      | (grind [done_steady, fwActivate_steady, Steady.trans, Steady.refl])

theorem debugChallengeRun_steady (s : State) (x : Req) : Steady s (debugChallengeRun s x).s := by
  unfold debugChallengeRun
  try dsimp only
  repeat' first
      | with_reducible exact Steady.refl _ | (simp (disch := with_reducible rfl) only [↓steady_upd])
      | with_reducible apply steady_ite | with_reducible apply steady_when | with_reducible apply steady_foldl
      | with_reducible refine Steady.trans ?_ (drawWords_steady ..) | with_reducible refine Steady.trans ?_ (done_steady ..)
      | with_reducible apply steady_cond | intro _ | split
      | (grind [drawWords_steady, done_steady, Steady.trans, Steady.refl])

theorem debugChallengeCmd_steady  (t : State) (r : Req) (_hf : debugChallengeCmd.form t r = none) : Steady t
  (debugChallengeCmd.run t r).s := by
  dsimp only [debugChallengeCmd]
  repeat' first
      | with_reducible exact Steady.refl _ | (simp (disch := with_reducible rfl) only [↓steady_upd])
      | with_reducible apply steady_ite | with_reducible apply steady_when | with_reducible apply steady_foldl
      | with_reducible refine Steady.trans ?_ (debugChallengeRun_steady ..) | with_reducible apply steady_cond | intro _
      | split | (grind [debugChallengeRun_steady, Steady.trans, Steady.refl])

unseal debugUnlockRun in
theorem debugUnlockRun_steady (s : State) (r : Req) : Steady s (debugUnlockRun s r).s := by
  unfold debugUnlockRun
  dsimp only
  split
  · refine Steady.trans ?_ (done_steady ..)
    refine Steady.trans ?_ (setScopes_steady _ _ _ (by simp))
    refine Steady.trans ?_ (extendHistory_steady ..)
    simp (disch := with_reducible rfl) only [steady_upd]
    exact Steady.refl s
  · refine Steady.trans ?_ (refused_steady ..)
    simp (disch := with_reducible rfl) only [steady_upd]
    exact Steady.refl s

theorem debugUnlockCmd_steady  (t : State) (r : Req) (_hf : debugUnlockCmd.form t r = none) : Steady t (debugUnlockCmd.run t
  r).s := by
  dsimp only [debugUnlockCmd]
  repeat' first
      | with_reducible exact Steady.refl _ | (simp (disch := with_reducible rfl) only [↓steady_upd])
      | with_reducible apply steady_ite | with_reducible apply steady_when | with_reducible apply steady_foldl
      | with_reducible refine Steady.trans ?_ (debugUnlockRun_steady ..) | with_reducible apply steady_cond | intro _ | split
      | (grind [debugUnlockRun_steady, Steady.trans, Steady.refl])

theorem debugLockCmd_steady  (t : State) (r : Req) (hf : debugLockCmd.form t r = none) : Steady t (debugLockCmd.run t r).s := by
  refine Steady.trans ?_ (done_steady ..)
  exact setScopes_steady _ _ _ fun _ => rfl

end Sys2Proof.Machine
end

