-- ==== Sys2Proof/Laws/Steady/Exec.lean ====
section
/-! SUPPORT. Every command keeps what `Steady` collects. -/

set_option Elab.async false

namespace Sys2Proof.Machine

/-- An answer is the state it was built from. -/
theorem steady_ok {s a t : State} (ha : Steady s a) (h : ok a = .next t) : Steady s t := by
  cases h; exact ha

theorem exec_openSession_steady (src : ReqSrc) (s t : State) (h : exec (.openSession src) s = .next t) : Steady s t :=
  steady_ok (runCmd_steady _ _ _ (openSessionCmd_steady)) h

theorem exec_closeSession_steady (src : ReqSrc) (s t : State) (h : exec (.closeSession src) s = .next t) : Steady s t :=
  steady_ok (runCmd_steady _ _ _ (closeSessionCmd_steady)) h

theorem exec_getIdentity_steady (src : ReqSrc) (s t : State) (h : exec (.getIdentity src) s = .next t) : Steady s t :=
  steady_ok (runCmd_steady _ _ _ (getIdentityCmd_steady)) h

theorem exec_getState_steady (src : ReqSrc) (s t : State) (h : exec (.getState src) s = .next t) : Steady s t :=
  steady_ok (runCmd_steady _ _ _ (getStateCmd_steady)) h

theorem exec_setTestMode_steady (src : ReqSrc) (s t : State) (h : exec (.setTestMode src) s = .next t) : Steady s t :=
  steady_ok (runCmd_steady _ _ _ (setTestModeCmd_steady)) h

theorem exec_forward_steady (src : ReqSrc) (s t : State) (h : exec (.forward src) s = .next t) : Steady s t :=
  steady_ok (forward_steady ..) h

theorem exec_setEid_steady (src : ReqSrc) (s t : State) (h : exec (.setEid src) s = .next t) : Steady s t :=
  steady_ok (runCmd_steady _ _ _ (setEidCmd_steady)) h

theorem exec_join_steady (src : ReqSrc) (s t : State) (h : exec (.join src) s = .next t) : Steady s t :=
  steady_ok (runCmd_steady _ _ _ (joinCmd_steady)) h

theorem exec_leave_steady (src : ReqSrc) (s t : State) (h : exec (.leave src) s = .next t) : Steady s t :=
  steady_ok (runCmd_steady _ _ _ (leaveCmd_steady)) h

theorem exec_writeRoutes_steady (src : ReqSrc) (s t : State) (h : exec (.writeRoutes src) s = .next t) : Steady s t :=
  steady_ok (runCmd_steady _ _ _ (writeRoutesCmd_steady)) h

theorem exec_writeMcast_steady (src : ReqSrc) (s t : State) (h : exec (.writeMcast src) s = .next t) : Steady s t :=
  steady_ok (runCmd_steady _ _ _ (writeMcastCmd_steady)) h

theorem exec_armEpoch_steady (src : ReqSrc) (s t : State) (h : exec (.armEpoch src) s = .next t) : Steady s t :=
  steady_ok (runCmd_steady _ _ _ (armEpochCmd_steady)) h

theorem exec_cancelArm_steady (src : ReqSrc) (s t : State) (h : exec (.cancelArm src) s = .next t) : Steady s t :=
  steady_ok (runCmd_steady _ _ _ (cancelArmCmd_steady)) h

theorem exec_setupCircuit_steady (src : ReqSrc) (s t : State) (h : exec (.setupCircuit src) s = .next t) : Steady s t :=
  steady_ok (runCmd_steady _ _ _ (setupCircuitCmd_steady)) h

theorem exec_teardownCircuit_steady (src : ReqSrc) (s t : State) (h : exec (.teardownCircuit src) s = .next t) : Steady s t :=
  steady_ok (runCmd_steady _ _ _ (teardownCircuitCmd_steady)) h

theorem exec_writeRankmap_steady (src : ReqSrc) (s t : State) (h : exec (.writeRankmap src) s = .next t) : Steady s t :=
  steady_ok (runCmd_steady _ _ _ (writeRankmapCmd_steady)) h

theorem exec_setKeymap_steady (src : ReqSrc) (s t : State) (h : exec (.setKeymap src) s = .next t) : Steady s t :=
  steady_ok (runCmd_steady _ _ _ (setKeymapCmd_steady)) h

theorem exec_setGuard_steady (src : ReqSrc) (s t : State) (h : exec (.setGuard src) s = .next t) : Steady s t :=
  steady_ok (runCmd_steady _ _ _ (setGuardCmd_steady)) h

theorem exec_setComb_steady (src : ReqSrc) (s t : State) (h : exec (.setComb src) s = .next t) : Steady s t :=
  steady_ok (runCmd_steady _ _ _ (setCombCmd_steady)) h

theorem exec_armGroup_steady (src : ReqSrc) (s t : State) (h : exec (.armGroup src) s = .next t) : Steady s t :=
  steady_ok (runCmd_steady _ _ _ (armGroupCmd_steady)) h

theorem exec_disarmGroup_steady (src : ReqSrc) (s t : State) (h : exec (.disarmGroup src) s = .next t) : Steady s t :=
  steady_ok (runCmd_steady _ _ _ (disarmGroupCmd_steady)) h

theorem exec_armContext_steady (src : ReqSrc) (s t : State) (h : exec (.armContext src) s = .next t) : Steady s t :=
  steady_ok (runCmd_steady _ _ _ (armContextCmd_steady)) h

theorem exec_disarmContext_steady (src : ReqSrc) (s t : State) (h : exec (.disarmContext src) s = .next t) : Steady s t :=
  steady_ok (runCmd_steady _ _ _ (disarmContextCmd_steady)) h

theorem exec_setMirror_steady (src : ReqSrc) (s t : State) (h : exec (.setMirror src) s = .next t) : Steady s t :=
  steady_ok (runCmd_steady _ _ _ (setMirrorCmd_steady)) h

theorem exec_setPort_steady (src : ReqSrc) (s t : State) (h : exec (.setPort src) s = .next t) : Steady s t :=
  steady_ok (runCmd_steady _ _ _ (setPortCmd_steady)) h

theorem exec_readConfig_steady (src : ReqSrc) (s t : State) (h : exec (.readConfig src) s = .next t) : Steady s t :=
  steady_ok (runCmd_steady _ _ _ (readConfigCmd_steady)) h

theorem exec_loadCore_steady (src : ReqSrc) (s t : State) (h : exec (.loadCore src) s = .next t) : Steady s t :=
  steady_ok (runCmd_steady _ _ _ (loadCoreCmd_steady)) h

theorem exec_unloadCore_steady (src : ReqSrc) (s t : State) (h : exec (.unloadCore src) s = .next t) : Steady s t :=
  steady_ok (runCmd_steady _ _ _ (unloadCoreCmd_steady)) h

theorem exec_loadStream_steady (src : ReqSrc) (s t : State) (h : exec (.loadStream src) s = .next t) : Steady s t :=
  steady_ok (runCmd_steady _ _ _ (loadStreamCmd_steady)) h

theorem exec_setParams_steady (src : ReqSrc) (s t : State) (h : exec (.setParams src) s = .next t) : Steady s t :=
  steady_ok (runCmd_steady _ _ _ (setParamsCmd_steady)) h

theorem exec_setRings_steady (src : ReqSrc) (s t : State) (h : exec (.setRings src) s = .next t) : Steady s t :=
  steady_ok (runCmd_steady _ _ _ (setRingsCmd_steady)) h

theorem exec_launch_steady (src : ReqSrc) (s t : State) (h : exec (.launch src) s = .next t) : Steady s t :=
  steady_ok (runCmd_steady _ _ _ (launchCmd_steady)) h

theorem exec_startRun_steady (src : ReqSrc) (s t : State) (h : exec (.startRun src) s = .next t) : Steady s t :=
  steady_ok (runCmd_steady _ _ _ (startRunCmd_steady)) h

theorem exec_commitStep_steady (src : ReqSrc) (s t : State) (h : exec (.commitStep src) s = .next t) : Steady s t :=
  steady_ok (runCmd_steady _ _ _ (commitStepCmd_steady)) h

theorem exec_abort_steady (src : ReqSrc) (s t : State) (h : exec (.abort src) s = .next t) : Steady s t :=
  steady_ok (runCmd_steady _ _ _ (abortCmd_steady)) h

theorem exec_replayStep_steady (src : ReqSrc) (s t : State) (h : exec (.replayStep src) s = .next t) : Steady s t :=
  steady_ok (runCmd_steady _ _ _ (replayStepCmd_steady)) h

theorem exec_regionCreate_steady (src : ReqSrc) (s t : State) (h : exec (.regionCreate src) s = .next t) : Steady s t :=
  steady_ok (runCmd_steady _ _ _ (regionCreateCmd_steady)) h

theorem exec_regionChange_steady (src : ReqSrc) (s t : State) (h : exec (.regionChange src) s = .next t) : Steady s t :=
  steady_ok (runCmd_steady _ _ _ (regionChangeCmd_steady)) h

theorem exec_regionDelete_steady (src : ReqSrc) (s t : State) (h : exec (.regionDelete src) s = .next t) : Steady s t :=
  steady_ok (runCmd_steady _ _ _ (regionDeleteCmd_steady)) h

theorem exec_zeroize_steady (src : ReqSrc) (s t : State) (h : exec (.zeroize src) s = .next t) : Steady s t :=
  steady_ok (runCmd_steady _ _ _ (zeroizeCmd_steady)) h

theorem exec_startForager_steady (src : ReqSrc) (s t : State) (h : exec (.startForager src) s = .next t) : Steady s t :=
  steady_ok (runCmd_steady _ _ _ (startForagerCmd_steady)) h

theorem exec_foragerStatus_steady (src : ReqSrc) (s t : State) (h : exec (.foragerStatus src) s = .next t) : Steady s t :=
  steady_ok (runCmd_steady _ _ _ (foragerStatusCmd_steady)) h

theorem exec_hostCopy_steady (src : ReqSrc) (hostData : List Word) (s t : State) (h : exec (.hostCopy src hostData) s = .next t) : Steady s t :=
  steady_ok (runCmd_steady _ _ _ (hostCopyCmd_steady _)) h

theorem exec_getHealth_steady (src : ReqSrc) (s t : State) (h : exec (.getHealth src) s = .next t) : Steady s t :=
  steady_ok (runCmd_steady _ _ _ (getHealthCmd_steady)) h

theorem exec_setStats_steady (src : ReqSrc) (s t : State) (h : exec (.setStats src) s = .next t) : Steady s t :=
  steady_ok (runCmd_steady _ _ _ (setStatsCmd_steady)) h

theorem exec_readLogs_steady (src : ReqSrc) (s t : State) (h : exec (.readLogs src) s = .next t) : Steady s t :=
  steady_ok (runCmd_steady _ _ _ (readLogsCmd_steady)) h

theorem exec_clearLogs_steady (src : ReqSrc) (s t : State) (h : exec (.clearLogs src) s = .next t) : Steady s t :=
  steady_ok (runCmd_steady _ _ _ (clearLogsCmd_steady)) h

theorem exec_keepInService_steady (src : ReqSrc) (s t : State) (h : exec (.keepInService src) s = .next t) : Steady s t :=
  steady_ok (runCmd_steady _ _ _ (keepInServiceCmd_steady)) h

theorem exec_getPower_steady (src : ReqSrc) (s t : State) (h : exec (.getPower src) s = .next t) : Steady s t :=
  steady_ok (runCmd_steady _ _ _ (getPowerCmd_steady)) h

theorem exec_setPowerCap_steady (src : ReqSrc) (s t : State) (h : exec (.setPowerCap src) s = .next t) : Steady s t :=
  steady_ok (runCmd_steady _ _ _ (setPowerCapCmd_steady)) h

theorem exec_freeze_steady (src : ReqSrc) (s t : State) (h : exec (.freeze src) s = .next t) : Steady s t :=
  steady_ok (runCmd_steady _ _ _ (freezeCmd_steady)) h

theorem exec_thaw_steady (src : ReqSrc) (s t : State) (h : exec (.thaw src) s = .next t) : Steady s t :=
  steady_ok (runCmd_steady _ _ _ (thawCmd_steady)) h

theorem exec_readout_steady (src : ReqSrc) (s t : State) (h : exec (.readout src) s = .next t) : Steady s t :=
  steady_ok (runCmd_steady _ _ _ (readoutCmd_steady)) h

theorem exec_setSmoker_steady (src : ReqSrc) (s t : State) (h : exec (.setSmoker src) s = .next t) : Steady s t :=
  steady_ok (runCmd_steady _ _ _ (setSmokerCmd_steady)) h

theorem exec_setWindow_steady (src : ReqSrc) (s t : State) (h : exec (.setWindow src) s = .next t) : Steady s t :=
  steady_ok (runCmd_steady _ _ _ (setWindowCmd_steady)) h

theorem exec_resetWarmCompute_steady (src : ReqSrc) (failed : List (Nat × Nat)) (s t : State) (h : exec (.resetWarmCompute src failed) s = .next t) : Steady s t :=
  steady_ok (runReset_steady _ _ _ _ (resetWarmCmd_steady _)) h

theorem exec_resetFull_steady (src : ReqSrc) (s t : State) (h : exec (.resetFull src) s = .next t) : Steady s t :=
  steady_ok (runReset_steady _ _ _ _ (resetFullCmd_steady)) h

theorem exec_fwStage_steady (src : ReqSrc) (s t : State) (h : exec (.fwStage src) s = .next t) : Steady s t :=
  steady_ok (runCmd_steady _ _ _ (fwStageCmd_steady)) h

theorem exec_fwActivate_steady (src : ReqSrc) (s t : State) (h : exec (.fwActivate src) s = .next t) : Steady s t :=
  steady_ok (runCmd_steady _ _ _ (fwActivateCmd_steady)) h

theorem exec_debugChallenge_steady (src : ReqSrc) (s t : State) (h : exec (.debugChallenge src) s = .next t) : Steady s t :=
  steady_ok (runCmd_steady _ _ _ (debugChallengeCmd_steady)) h

theorem exec_debugUnlock_steady (src : ReqSrc) (s t : State) (h : exec (.debugUnlock src) s = .next t) : Steady s t :=
  steady_ok (runCmd_steady _ _ _ (debugUnlockCmd_steady)) h

theorem exec_debugLock_steady (src : ReqSrc) (s t : State) (h : exec (.debugLock src) s = .next t) : Steady s t :=
  steady_ok (runCmd_steady _ _ _ (debugLockCmd_steady)) h

theorem exec_doorbell_steady (value : Word) (s t : State) (h : exec (.doorbell value) s = .next t) : Steady s t :=
  steady_ok (doorbell_steady ..) h

theorem exec_tokenRptr_steady (value : Word) (s t : State) (h : exec (.tokenRptr value) s = .next t) : Steady s t :=
  steady_ok (tokenRptr_steady ..) h

theorem exec_cmplRptr_steady (value : Word) (s t : State) (h : exec (.cmplRptr value) s = .next t) : Steady s t :=
  steady_ok (cmplRptr_steady ..) h

theorem exec_bar4Read_steady (offset : BitVec 30) (bytes : Nat) (s t : State) (h : exec (.bar4Read offset bytes) s = .next t) : Steady s t :=
  steady_ok (bar4Read_steady ..) h

theorem exec_bar4Write_steady (offset : BitVec 30) (data : List Byte) (s t : State) (h : exec (.bar4Write offset data) s = .next t) : Steady s t :=
  steady_ok (bar4Write_steady ..) h

theorem exec_registerWrite_steady (bar : Bar) (offset : Nat) (data : List Byte) (s t : State) (h : exec (.registerWrite bar offset data) s = .next t) : Steady s t :=
  steady_ok (registerWrite_steady ..) h

theorem exec_mgmtDatagram_steady (peer : BitVec 32) (message : List Word) (s t : State) (h : exec (.mgmtDatagram peer message) s = .next t) : Steady s t :=
  steady_ok (mgmtDatagram_steady ..) h

theorem exec_spdmRequest_steady (path : SpdmPath) (request : SpdmMsg) (s t : State) (h : exec (.spdmRequest path request) s = .next t) : Steady s t :=
  steady_ok (spdmRequest_steady ..) h

theorem exec_jtagInstruction_steady (ir : JtagIr) (s t : State) (h : exec (.jtagInstruction ir) s = .next t) : Steady s t :=
  steady_ok (jtagInstruction_steady ..) h

theorem exec_frameIngress_steady (arrival : Ingress) (s t : State) (h : exec (.frameIngress arrival) s = .next t) : Steady s t :=
  steady_ok (frameIngress_steady ..) h

theorem exec_egressArbitration_steady (s t : State) (h : exec .egressArbitration s = .next t) : Steady s t :=
  steady_ok (egressArbitration_steady ..) h

theorem exec_calendarSlotStart_steady (output : Fin 113) (s t : State) (h : exec (.calendarSlotStart output) s = .next t) : Steady s t :=
  steady_ok (calendarSlotStart_steady ..) h

theorem exec_frameSent_steady (output : Sent) (s t : State) (h : exec (.frameSent output) s = .next t) : Steady s t :=
  steady_ok (frameSent_steady ..) h

theorem exec_frameAged_steady (list : ListKey) (s t : State) (h : exec (.frameAged list) s = .next t) : Steady s t :=
  steady_ok (frameAged_steady ..) h

theorem exec_pauseWord_steady (output : Fin 81) (word : Word) (s t : State) (h : exec (.pauseWord output word) s = .next t) : Steady s t :=
  steady_ok (pauseWord_steady ..) h

theorem exec_pauseWordRepeat_steady (port : Fin 81) (s t : State) (h : exec (.pauseWordRepeat port) s = .next t) : Steady s t :=
  steady_ok (pauseWordRepeat_steady ..) h

theorem exec_pauseExpired_steady (output : Fin 64) (cls : Fin 8) (s t : State) (h : exec (.pauseExpired output cls) s = .next t) : Steady s t :=
  steady_ok (pauseExpired_steady ..) h

theorem exec_poolWaiterGrant_steady (pool : Fin 4) (s t : State) (h : exec (.poolWaiterGrant pool) s = .next t) : Steady s t :=
  steady_ok (poolWaiterGrant_steady ..) h

theorem exec_poolWaitExpired_steady (pool : Fin 4) (s t : State) (h : exec (.poolWaitExpired pool) s = .next t) : Steady s t :=
  steady_ok (poolWaitExpired_steady ..) h

theorem exec_calendarWrap_steady (s t : State) (h : exec .calendarWrap s = .next t) : Steady s t :=
  steady_ok (calendarWrap_steady ..) h

theorem exec_queueSample_steady (s t : State) (h : exec .queueSample s = .next t) : Steady s t :=
  steady_ok (queueSample_steady ..) h

theorem exec_statsBoundary_steady (s t : State) (h : exec .statsBoundary s = .next t) : Steady s t :=
  steady_ok (statsBoundary_steady ..) h

theorem exec_epochSwap_steady (s t : State) (h : exec .epochSwap s = .next t) : Steady s t :=
  steady_ok (epochSwap_steady ..) h

theorem exec_epochDrainEnd_steady (s t : State) (h : exec .epochDrainEnd s = .next t) : Steady s t :=
  steady_ok (epochDrainEnd_steady ..) h

theorem exec_mwrite_steady (frame : Frame) (s t : State) (h : exec (.mwrite frame) s = .next t) : Steady s t :=
  steady_ok (mwrite_steady ..) h

theorem exec_mwack_steady (frame : Frame) (s t : State) (h : exec (.mwack frame) s = .next t) : Steady s t :=
  steady_ok (mwack_steady ..) h

theorem exec_mread_steady (frame : Frame) (s t : State) (h : exec (.mread frame) s = .next t) : Steady s t :=
  steady_ok (mread_steady ..) h

theorem exec_mrdata_steady (frame : Frame) (s t : State) (h : exec (.mrdata frame) s = .next t) : Steady s t :=
  steady_ok (mrdata_steady ..) h

theorem exec_event_steady (frame : Frame) (s t : State) (h : exec (.event frame) s = .next t) : Steady s t :=
  steady_ok (event_steady ..) h

theorem exec_mbox_steady (frame : Frame) (s t : State) (h : exec (.mbox frame) s = .next t) : Steady s t :=
  steady_ok (mbox_steady ..) h

theorem exec_mboxResponse_steady (frame : Frame) (s t : State) (h : exec (.mboxResponse frame) s = .next t) : Steady s t :=
  steady_ok (mboxResponse_steady ..) h

theorem exec_forwardTimeout_steady (s t : State) (h : exec .forwardTimeout s = .next t) : Steady s t :=
  steady_ok (forwardTimeout_steady ..) h

theorem exec_linkprobe_steady (port : Fin 64) (frame : Frame) (s t : State) (h : exec (.linkprobe port frame) s = .next t) : Steady s t :=
  steady_ok (linkprobe_steady ..) h

theorem exec_linkprobeEcho_steady (port : Fin 64) (frame : Frame) (s t : State) (h : exec (.linkprobeEcho port frame) s = .next t) : Steady s t :=
  steady_ok (linkprobeEcho_steady ..) h

theorem exec_twin_steady (frame : Frame) (s t : State) (h : exec (.twin frame) s = .next t) : Steady s t :=
  steady_ok (twin_steady ..) h

theorem exec_twinSend_steady (s t : State) (h : exec .twinSend s = .next t) : Steady s t :=
  steady_ok (twinSend_steady ..) h

theorem exec_digestTimeout_steady (s t : State) (h : exec .digestTimeout s = .next t) : Steady s t :=
  steady_ok (digestTimeout_steady ..) h

theorem exec_voteSend_steady (s t : State) (h : exec .voteSend s = .next t) : Steady s t :=
  steady_ok (voteSend_steady ..) h

theorem exec_vote_steady (frame : Frame) (s t : State) (h : exec (.vote frame) s = .next t) : Steady s t :=
  steady_ok (vote_steady ..) h

theorem exec_release_steady (frame : Frame) (s t : State) (h : exec (.release frame) s = .next t) : Steady s t :=
  steady_ok (release_steady ..) h

theorem exec_commitComplete_steady (s t : State) (h : exec .commitComplete s = .next t) : Steady s t :=
  steady_ok (commitComplete_steady ..) h

theorem exec_stepWatchdog_steady (s t : State) (h : exec .stepWatchdog s = .next t) : Steady s t :=
  steady_ok (stepWatchdog_steady ..) h

theorem exec_replayStart_steady (s t : State) (h : exec .replayStart s = .next t) : Steady s t :=
  steady_ok (replayStart_steady ..) h

theorem exec_launchComplete_steady (s t : State) (h : exec .launchComplete s = .next t) : Steady s t :=
  steady_ok (launchComplete_steady ..) h

theorem exec_tokenRecord_steady (s t : State) (h : exec .tokenRecord s = .next t) : Steady s t :=
  steady_ok (tokenRecord_steady ..) h

theorem exec_completionRecord_steady (s t : State) (h : exec .completionRecord s = .next t) : Steady s t :=
  steady_ok (completionRecord_steady ..) h

theorem exec_loop_steady (cluster : Fin 32) (s t : State) (h : exec (.loop cluster) s = .next t) : Steady s t :=
  steady_ok (runControl_steady _ _ _ _ (loopRun_steady)) h

theorem exec_wait_steady (cluster : Fin 32) (s t : State) (h : exec (.wait cluster) s = .next t) : Steady s t :=
  steady_ok (runControl_steady _ _ _ _ (waitRun_steady)) h

theorem exec_waitRelease_steady (cluster : Fin 32) (s t : State) (h : exec (.waitRelease cluster) s = .next t) : Steady s t :=
  steady_ok (runControl_steady _ _ _ _ (waitReleaseRun_steady)) h

theorem exec_waitTimeout_steady (cluster : Option (Fin 32)) (channel : Option (Fin 320)) (s t : State) (h : exec (.waitTimeout cluster channel) s = .next t) : Steady s t :=
  steady_ok (waitTimeout_steady ..) h

theorem exec_signal_steady (cluster : Fin 32) (s t : State) (h : exec (.signal cluster) s = .next t) : Steady s t :=
  steady_ok (runControl_steady _ _ _ _ (signalRun_steady)) h

theorem exec_evclr_steady (cluster : Fin 32) (s t : State) (h : exec (.evclr cluster) s = .next t) : Steady s t :=
  steady_ok (runControl_steady _ _ _ _ (evclrRun_steady)) h

theorem exec_vset_steady (cluster : Fin 32) (s t : State) (h : exec (.vset cluster) s = .next t) : Steady s t :=
  steady_ok (runControl_steady _ _ _ _ (vsetRun_steady)) h

theorem exec_stepb_steady (cluster : Fin 32) (s t : State) (h : exec (.stepb cluster) s = .next t) : Steady s t :=
  steady_ok (runControl_steady _ _ _ _ (stepbRun_steady)) h

theorem exec_endProgram_steady (cluster : Fin 32) (s t : State) (h : exec (.endProgram cluster) s = .next t) : Steady s t :=
  steady_ok (runControl_steady _ _ _ _ (endProgramRun_steady)) h

theorem exec_vld_steady (cluster : Fin 32) (s t : State) (h : exec (.vld cluster) s = .next t) : Steady s t :=
  steady_ok (runSlot_steady _ _ _ _ _ (vldCore_steady)) h

theorem exec_vst_steady (cluster : Fin 32) (s t : State) (h : exec (.vst cluster) s = .next t) : Steady s t :=
  steady_ok (runSlot_steady _ _ _ _ _ (vstCore_steady)) h

theorem exec_cld_steady (cluster : Fin 32) (s t : State) (h : exec (.cld cluster) s = .next t) : Steady s t :=
  steady_ok (runSlot_steady _ _ _ _ _ (cldCore_steady)) h

theorem exec_emv_steady (cluster : Fin 32) (s t : State) (h : exec (.emv cluster) s = .next t) : Steady s t :=
  steady_ok (runSlot_steady _ _ _ _ _ (emvCore_steady)) h

theorem exec_eop_steady (cluster : Fin 32) (s t : State) (h : exec (.eop cluster) s = .next t) : Steady s t :=
  steady_ok (runSlot_steady _ _ _ _ _ (eopCore_steady)) h

theorem exec_vadd_steady (cluster : Fin 32) (s t : State) (h : exec (.vadd cluster) s = .next t) : Steady s t :=
  steady_ok (runSlot_steady _ _ _ _ _ (arithCore_steady _)) h

theorem exec_vsub_steady (cluster : Fin 32) (s t : State) (h : exec (.vsub cluster) s = .next t) : Steady s t :=
  steady_ok (runSlot_steady _ _ _ _ _ (arithCore_steady _)) h

theorem exec_vmul_steady (cluster : Fin 32) (s t : State) (h : exec (.vmul cluster) s = .next t) : Steady s t :=
  steady_ok (runSlot_steady _ _ _ _ _ (arithCore_steady _)) h

theorem exec_vfma_steady (cluster : Fin 32) (s t : State) (h : exec (.vfma cluster) s = .next t) : Steady s t :=
  steady_ok (runSlot_steady _ _ _ _ _ (arithCore_steady _)) h

theorem exec_vdiv_steady (cluster : Fin 32) (s t : State) (h : exec (.vdiv cluster) s = .next t) : Steady s t :=
  steady_ok (runSlot_steady _ _ _ _ _ (arithCore_steady _)) h

theorem exec_vsqrt_steady (cluster : Fin 32) (s t : State) (h : exec (.vsqrt cluster) s = .next t) : Steady s t :=
  steady_ok (runSlot_steady _ _ _ _ _ (arithCore_steady _)) h

theorem exec_vmax_steady (cluster : Fin 32) (s t : State) (h : exec (.vmax cluster) s = .next t) : Steady s t :=
  steady_ok (runSlot_steady _ _ _ _ _ (arithCore_steady _)) h

theorem exec_vmin_steady (cluster : Fin 32) (s t : State) (h : exec (.vmin cluster) s = .next t) : Steady s t :=
  steady_ok (runSlot_steady _ _ _ _ _ (arithCore_steady _)) h

theorem exec_vmaxn_steady (cluster : Fin 32) (s t : State) (h : exec (.vmaxn cluster) s = .next t) : Steady s t :=
  steady_ok (runSlot_steady _ _ _ _ _ (arithCore_steady _)) h

theorem exec_vminn_steady (cluster : Fin 32) (s t : State) (h : exec (.vminn cluster) s = .next t) : Steady s t :=
  steady_ok (runSlot_steady _ _ _ _ _ (arithCore_steady _)) h

theorem exec_vcmp_steady (cluster : Fin 32) (s t : State) (h : exec (.vcmp cluster) s = .next t) : Steady s t :=
  steady_ok (runSlot_steady _ _ _ _ _ (vcmpCore_steady)) h

theorem exec_vsel_steady (cluster : Fin 32) (s t : State) (h : exec (.vsel cluster) s = .next t) : Steady s t :=
  steady_ok (runSlot_steady _ _ _ _ _ (vselCore_steady)) h

theorem exec_vfunc_steady (cluster : Fin 32) (s t : State) (h : exec (.vfunc cluster) s = .next t) : Steady s t :=
  steady_ok (runSlot_steady _ _ _ _ _ (vfuncCore_steady)) h

theorem exec_vcvt_steady (cluster : Fin 32) (s t : State) (h : exec (.vcvt cluster) s = .next t) : Steady s t :=
  steady_ok (runSlot_steady _ _ _ _ _ (vcvtCore_steady)) h

theorem exec_vred_steady (cluster : Fin 32) (s t : State) (h : exec (.vred cluster) s = .next t) : Steady s t :=
  steady_ok (runSlot_steady _ _ _ _ _ (vredCore_steady)) h

theorem exec_vmisc_steady (cluster : Fin 32) (s t : State) (h : exec (.vmisc cluster) s = .next t) : Steady s t :=
  steady_ok (runSlot_steady _ _ _ _ _ (vmiscCore_steady)) h

theorem exec_sld_steady (cluster : Fin 32) (s t : State) (h : exec (.sld cluster) s = .next t) : Steady s t :=
  steady_ok (runSlot_steady _ _ _ _ _ (sldCore_steady)) h

theorem exec_advance_steady (cluster : Fin 32) (s t : State) (h : exec (.advance cluster) s = .next t) : Steady s t :=
  steady_ok (runSlot_steady _ _ _ _ _ (advanceCore_steady)) h

theorem exec_fclr_steady (cluster : Fin 32) (s t : State) (h : exec (.fclr cluster) s = .next t) : Steady s t :=
  steady_ok (runSlot_steady _ _ _ _ _ (fclrCore_steady)) h

theorem exec_frd_steady (cluster : Fin 32) (s t : State) (h : exec (.frd cluster) s = .next t) : Steady s t :=
  steady_ok (runSlot_steady _ _ _ _ _ (frdCore_steady)) h

theorem exec_fexp_steady (cluster : Fin 32) (s t : State) (h : exec (.fexp cluster) s = .next t) : Steady s t :=
  steady_ok (runSlot_steady _ _ _ _ _ (fexpCore_steady)) h

theorem exec_fadd_steady (cluster : Fin 32) (s t : State) (h : exec (.fadd cluster) s = .next t) : Steady s t :=
  steady_ok (runSlot_steady _ _ _ _ _ (faddCore_steady)) h

theorem exec_tenc_steady (cluster : Fin 32) (s t : State) (h : exec (.tenc cluster) s = .next t) : Steady s t :=
  steady_ok (runSlot_steady _ _ _ _ _ (tencCore_steady)) h

theorem exec_cxset_steady (cluster : Fin 32) (s t : State) (h : exec (.cxset cluster) s = .next t) : Steady s t :=
  steady_ok (runSlot_steady _ _ _ _ _ (cxsetCore_steady)) h

theorem exec_cxadv_steady (cluster : Fin 32) (s t : State) (h : exec (.cxadv cluster) s = .next t) : Steady s t :=
  steady_ok (runSlot_steady _ _ _ _ _ (cxadvCore_steady)) h

theorem exec_corePatrol_steady (cluster : Fin 32) (failed : List (Fin 17)) (queenFailed : Bool) (s t : State) (h : exec (.corePatrol cluster failed queenFailed) s = .next t) : Steady s t :=
  steady_ok (corePatrol_steady ..) h

theorem exec_sparePatrolFail_steady (cluster : Fin 32) (s t : State) (h : exec (.sparePatrolFail cluster) s = .next t) : Steady s t :=
  steady_ok (sparePatrolFail_steady ..) h

theorem exec_coreSpareMap_steady (cluster : Fin 32) (core : Fin 16) (s t : State) (h : exec (.coreSpareMap cluster core) s = .next t) : Steady s t :=
  steady_ok (coreSpareMap_steady ..) h

theorem exec_storeWalk_steady (s t : State) (h : exec .storeWalk s = .next t) : Steady s t :=
  steady_ok (storeWalk_steady ..) h

theorem exec_stream_steady (unit : Fin 32) (s t : State) (h : exec (.stream unit) s = .next t) : Steady s t :=
  steady_ok (stream_steady ..) h

theorem exec_streamTimeout_steady (ctx : Fin 4096) (seq : BitVec 32) (chunk : BitVec 16) (s t : State) (h : exec (.streamTimeout ctx seq chunk) s = .next t) : Steady s t :=
  steady_ok (streamTimeout_steady ..) h

theorem exec_streamUnitPatrol_steady (unit : Fin 32) (mismatch : Bool) (s t : State) (h : exec (.streamUnitPatrol unit mismatch) s = .next t) : Steady s t :=
  steady_ok (streamUnitPatrol_steady ..) h

theorem exec_streamUnitRetire_steady (unit : Fin 32) (s t : State) (h : exec (.streamUnitRetire unit) s = .next t) : Steady s t :=
  steady_ok (streamUnitRetire_steady ..) h

theorem exec_collectiveIssue_steady (s t : State) (h : exec .collectiveIssue s = .next t) : Steady s t :=
  steady_ok (collectiveIssue_steady ..) h

theorem exec_collectiveComplete_steady (group : Fin 4096) (seq : BitVec 32) (lsrc : Fin 4) (s t : State) (h : exec (.collectiveComplete group seq lsrc) s = .next t) : Steady s t :=
  steady_ok (collectiveComplete_steady ..) h

theorem exec_collTimeout_steady (group : Fin 4096) (seq : BitVec 32) (lsrc : Fin 4) (s t : State) (h : exec (.collTimeout group seq lsrc) s = .next t) : Steady s t :=
  steady_ok (collTimeout_steady ..) h

theorem exec_move_steady (channel : Fin 320) (s t : State) (h : exec (.move channel) s = .next t) : Steady s t :=
  steady_ok (move_steady ..) h

theorem exec_moveComplete_steady (channel : Fin 320) (s t : State) (h : exec (.moveComplete channel) s = .next t) : Steady s t :=
  steady_ok (moveComplete_steady ..) h

theorem exec_foragerTimeout_steady (channel : Fin 320) (s t : State) (h : exec (.foragerTimeout channel) s = .next t) : Steady s t :=
  steady_ok (foragerTimeout_steady ..) h

theorem exec_foragerLoop_steady (channel : Fin 320) (s t : State) (h : exec (.foragerLoop channel) s = .next t) : Steady s t :=
  steady_ok (foragerLoop_steady ..) h

theorem exec_foragerWait_steady (channel : Fin 320) (s t : State) (h : exec (.foragerWait channel) s = .next t) : Steady s t :=
  steady_ok (foragerWait_steady ..) h

theorem exec_foragerWaitRelease_steady (channel : Fin 320) (s t : State) (h : exec (.foragerWaitRelease channel) s = .next t) : Steady s t :=
  steady_ok (foragerWaitRelease_steady ..) h

theorem exec_foragerSignal_steady (channel : Fin 320) (s t : State) (h : exec (.foragerSignal channel) s = .next t) : Steady s t :=
  steady_ok (foragerSignal_steady ..) h

theorem exec_foragerEnd_steady (channel : Fin 320) (s t : State) (h : exec (.foragerEnd channel) s = .next t) : Steady s t :=
  steady_ok (foragerEnd_steady ..) h

theorem exec_patrolScrub_steady (s t : State) (h : exec .patrolScrub s = .next t) : Steady s t :=
  steady_ok (patrolScrub_steady ..) h

theorem exec_pcSpareCopyComplete_steady (stack : Fin 16) (channel : Fin 64) (s t : State) (h : exec (.pcSpareCopyComplete stack channel) s = .next t) : Steady s t :=
  steady_ok (pcSpareCopyComplete_steady ..) h

theorem exec_poison_steady (set : SetRx) (s t : State) (h : exec (.poison set) s = .next t) : Steady s t :=
  steady_ok (poison_steady ..) h

theorem exec_fence_steady (set : SetRx) (s t : State) (h : exec (.fence set) s = .next t) : Steady s t :=
  steady_ok (fence_steady ..) h

theorem exec_beacon_steady (set : SetRx) (s t : State) (h : exec (.beacon set) s = .next t) : Steady s t :=
  steady_ok (beacon_steady ..) h

theorem exec_beaconSend_steady (s t : State) (h : exec .beaconSend s = .next t) : Steady s t :=
  steady_ok (beaconSend_steady ..) h

theorem exec_neighbourSilent_steady (port : Fin 64) (s t : State) (h : exec (.neighbourSilent port) s = .next t) : Steady s t :=
  steady_ok (neighbourSilent_steady ..) h

theorem exec_freezeOrderedSet_steady (set : SetRx) (s t : State) (h : exec (.freezeOrderedSet set) s = .next t) : Steady s t :=
  steady_ok (freezeOrderedSet_steady ..) h

theorem exec_thawOrderedSet_steady (set : SetRx) (s t : State) (h : exec (.thawOrderedSet set) s = .next t) : Steady s t :=
  steady_ok (thawOrderedSet_steady ..) h

theorem exec_freezeNAssert_steady (s t : State) (h : exec .freezeNAssert s = .next t) : Steady s t :=
  steady_ok (freezeNAssert_steady ..) h

theorem exec_freezeNRelease_steady (s t : State) (h : exec .freezeNRelease s = .next t) : Steady s t :=
  steady_ok (freezeNRelease_steady ..) h

theorem exec_timeSend_steady (s t : State) (h : exec .timeSend s = .next t) : Steady s t :=
  steady_ok (timeSend_steady ..) h

theorem exec_timeAnswer_steady (port : Fin 64) (s t : State) (h : exec (.timeAnswer port) s = .next t) : Steady s t :=
  steady_ok (timeAnswer_steady ..) h

theorem exec_time_steady (set : SetRx) (s t : State) (h : exec (.time set) s = .next t) : Steady s t :=
  steady_ok (time_steady ..) h

theorem exec_timeAnswerMissing_steady (s t : State) (h : exec .timeAnswerMissing s = .next t) : Steady s t :=
  steady_ok (timeAnswerMissing_steady ..) h

theorem exec_timeParentChange_steady (s t : State) (h : exec .timeParentChange s = .next t) : Steady s t :=
  steady_ok (timeParentChange_steady ..) h

theorem exec_announceSend_steady (port : Fin 64) (s t : State) (h : exec (.announceSend port) s = .next t) : Steady s t :=
  steady_ok (announceSend_steady ..) h

theorem exec_announce_steady (rx : WaggleRx) (s t : State) (h : exec (.announce rx) s = .next t) : Steady s t :=
  steady_ok (announce_steady ..) h

theorem exec_accept_steady (rx : WaggleRx) (s t : State) (h : exec (.accept rx) s = .next t) : Steady s t :=
  steady_ok (accept_steady ..) h

theorem exec_reject_steady (rx : WaggleRx) (s t : State) (h : exec (.reject rx) s = .next t) : Steady s t :=
  steady_ok (reject_steady ..) h

theorem exec_trainComplete_steady (port : Fin 64) (marks : List Nat) (s t : State) (h : exec (.trainComplete port marks) s = .next t) : Steady s t :=
  steady_ok (trainComplete_steady ..) h

theorem exec_trainTimeout_steady (port : Fin 64) (s t : State) (h : exec (.trainTimeout port) s = .next t) : Steady s t :=
  steady_ok (trainTimeout_steady ..) h

theorem exec_sidebandUp_steady (port : Fin 64) (s t : State) (h : exec (.sidebandUp port) s = .next t) : Steady s t :=
  steady_ok (sidebandUp_steady ..) h

theorem exec_sbLost_steady (port : Fin 64) (s t : State) (h : exec (.sbLost port) s = .next t) : Steady s t :=
  steady_ok (sbLost_steady ..) h

theorem exec_lossOfSignal_steady (port : Fin 64) (lane : Fin 9) (s t : State) (h : exec (.lossOfSignal port lane) s = .next t) : Steady s t :=
  steady_ok (lossOfSignal_steady ..) h

theorem exec_lossOfLock_steady (port : Fin 64) (lane : Fin 9) (s t : State) (h : exec (.lossOfLock port lane) s = .next t) : Steady s t :=
  steady_ok (lossOfLock_steady ..) h

theorem exec_fecUncorr_steady (port : Fin 64) (lane : Fin 9) (framesLost : Nat) (s t : State) (h : exec (.fecUncorr port lane framesLost) s = .next t) : Steady s t :=
  steady_ok (fecUncorr_steady ..) h

theorem exec_spareReq_steady (rx : WaggleRx) (s t : State) (h : exec (.spareReq rx) s = .next t) : Steady s t :=
  steady_ok (spareReq_steady ..) h

theorem exec_laneMoveComplete_steady (port : Fin 64) (s t : State) (h : exec (.laneMoveComplete port) s = .next t) : Steady s t :=
  steady_ok (laneMoveComplete_steady ..) h

theorem exec_spareRxAligned_steady (port : Fin 64) (s t : State) (h : exec (.spareRxAligned port) s = .next t) : Steady s t :=
  steady_ok (spareRxAligned_steady ..) h

theorem exec_spareDone_steady (rx : WaggleRx) (s t : State) (h : exec (.spareDone rx) s = .next t) : Steady s t :=
  steady_ok (spareDone_steady ..) h

theorem exec_sparingTimeout_steady (port : Fin 64) (s t : State) (h : exec (.sparingTimeout port) s = .next t) : Steady s t :=
  steady_ok (sparingTimeout_steady ..) h

theorem exec_twinLost_steady (s t : State) (h : exec .twinLost s = .next t) : Steady s t :=
  steady_ok (twinLostRow_steady ..) h

theorem exec_smokerRehearsal_steady (port : Fin 64) (lane : Fin 9) (cluster : Fin 32) (core : Fin 16) (unit : Fin 32) (s t : State) (h : exec (.smokerRehearsal port lane cluster core unit) s = .next t) : Steady s t :=
  steady_ok (smokerRehearsal_steady ..) h

theorem exec_debugScopeExpiry_steady (s t : State) (h : exec .debugScopeExpiry s = .next t) : Steady s t :=
  steady_ok (debugScopeExpiry_steady ..) h

theorem exec_nonceExpiry_steady (s t : State) (h : exec .nonceExpiry s = .next t) : Steady s t :=
  steady_ok (nonceExpiry_steady ..) h

theorem exec_auxPowerGood_steady (s t : State) (h : exec .auxPowerGood s = .next t) : Steady s t :=
  steady_ok (auxPowerGood_steady ..) h

theorem exec_auxPowerLost_steady (s t : State) (h : exec .auxPowerLost s = .next t) : Steady s t :=
  steady_ok (auxPowerLost_steady ..) h

theorem exec_pwrEnAssert_steady (s t : State) (h : exec .pwrEnAssert s = .next t) : Steady s t :=
  steady_ok (pwrEnAssert_steady ..) h

theorem exec_pwrEnDeassert_steady (s t : State) (h : exec .pwrEnDeassert s = .next t) : Steady s t :=
  steady_ok (pwrEnDeassert_steady ..) h

theorem exec_main54vFault_steady (s t : State) (h : exec .main54vFault s = .next t) : Steady s t :=
  steady_ok (main54vFault_steady ..) h

theorem exec_railFault_steady (rail : Nat) (s t : State) (h : exec (.railFault rail) s = .next t) : Steady s t :=
  steady_ok (railFault_steady ..) h

theorem exec_clockFault_steady (clock : Nat) (s t : State) (h : exec (.clockFault clock) s = .next t) : Steady s t :=
  steady_ok (clockFault_steady ..) h

theorem exec_mainConversionStop_steady (s t : State) (h : exec .mainConversionStop s = .next t) : Steady s t :=
  steady_ok (mainConversionStop_steady ..) h

theorem exec_thermtrip_steady (reading : ThermalReading) (s t : State) (h : exec (.thermtrip reading) s = .next t) : Steady s t :=
  steady_ok (thermtrip_steady ..) h

theorem exec_leakN_steady (s t : State) (h : exec .leakN s = .next t) : Steady s t :=
  steady_ok (leakN_steady ..) h

theorem exec_thermalSample_steady (reading : ThermalReading) (s t : State) (h : exec (.thermalSample reading) s = .next t) : Steady s t :=
  steady_ok (thermalSample_steady ..) h

theorem exec_powerCapPeriod_steady (reading : PowerReading) (s t : State) (h : exec (.powerCapPeriod reading) s = .next t) : Steady s t :=
  steady_ok (powerCapPeriod_steady ..) h

theorem exec_currentLimit_steady (s t : State) (h : exec .currentLimit s = .next t) : Steady s t :=
  steady_ok (currentLimit_steady ..) h

theorem exec_currentLevelDecay_steady (s t : State) (h : exec .currentLevelDecay s = .next t) : Steady s t :=
  steady_ok (currentLevelDecay_steady ..) h

theorem exec_perstN_steady (s t : State) (h : exec .perstN s = .next t) : Steady s t :=
  steady_ok (perstN_steady ..) h

theorem exec_slotChanged_steady (slot : BitVec 5) (hivePresentN twinPresentN : Bool) (s t : State) (h : exec (.slotChanged slot hivePresentN twinPresentN) s = .next t) : Steady s t :=
  steady_ok (slotChanged_steady ..) h

theorem exec_bootStageComplete_steady (report : StageReport) (s t : State) (h : exec (.bootStageComplete report) s = .next t) : Steady s t :=
  steady_ok (bootStageComplete_steady ..) h

theorem exec_queenLockstepMismatch_steady (cluster : Fin 32) (s t : State) (h : exec (.queenLockstepMismatch cluster) s = .next t) : Steady s t :=
  steady_ok (queenLockstepMismatch_steady ..) h

theorem exec_managementLockstepMismatch_steady (s t : State) (h : exec .managementLockstepMismatch s = .next t) : Steady s t :=
  steady_ok (managementLockstepMismatch_steady ..) h

theorem exec_mainPowerGood_steady (s t : State) (h : exec .mainPowerGood s = .next t) : Steady s t :=
  steady_ok (mainPowerGood_steady ..) h

theorem exec_leakNDeassert_steady (s t : State) (h : exec .leakNDeassert s = .next t) : Steady s t :=
  steady_ok (leakNDeassert_steady ..) h

theorem exec_healthDeductionExpiry_steady (s t : State) (h : exec .healthDeductionExpiry s = .next t) : Steady s t :=
  steady_ok (healthDeductionExpiry_steady ..) h

theorem exec_busMasterEnable_steady (s t : State) (h : exec .busMasterEnable s = .next t) : Steady s t :=
  steady_ok (busMasterEnable_steady ..) h

theorem exec_dhcpv4Reply_steady (address : BitVec 32) (s t : State) (h : exec (.dhcpv4Reply address) s = .next t) : Steady s t :=
  steady_ok (dhcpv4Reply_steady ..) h

/-- What a command leads to. -/
theorem exec_steady (c : Instr) (s t : State) (h : exec c s = .next t) : Steady s t := by
  cases c with
  | openSession _ => exact exec_openSession_steady _ _ _ h
  | closeSession _ => exact exec_closeSession_steady _ _ _ h
  | getIdentity _ => exact exec_getIdentity_steady _ _ _ h
  | getState _ => exact exec_getState_steady _ _ _ h
  | setTestMode _ => exact exec_setTestMode_steady _ _ _ h
  | forward _ => exact exec_forward_steady _ _ _ h
  | setEid _ => exact exec_setEid_steady _ _ _ h
  | join _ => exact exec_join_steady _ _ _ h
  | leave _ => exact exec_leave_steady _ _ _ h
  | writeRoutes _ => exact exec_writeRoutes_steady _ _ _ h
  | writeMcast _ => exact exec_writeMcast_steady _ _ _ h
  | armEpoch _ => exact exec_armEpoch_steady _ _ _ h
  | cancelArm _ => exact exec_cancelArm_steady _ _ _ h
  | setupCircuit _ => exact exec_setupCircuit_steady _ _ _ h
  | teardownCircuit _ => exact exec_teardownCircuit_steady _ _ _ h
  | writeRankmap _ => exact exec_writeRankmap_steady _ _ _ h
  | setKeymap _ => exact exec_setKeymap_steady _ _ _ h
  | setGuard _ => exact exec_setGuard_steady _ _ _ h
  | setComb _ => exact exec_setComb_steady _ _ _ h
  | armGroup _ => exact exec_armGroup_steady _ _ _ h
  | disarmGroup _ => exact exec_disarmGroup_steady _ _ _ h
  | armContext _ => exact exec_armContext_steady _ _ _ h
  | disarmContext _ => exact exec_disarmContext_steady _ _ _ h
  | setMirror _ => exact exec_setMirror_steady _ _ _ h
  | setPort _ => exact exec_setPort_steady _ _ _ h
  | readConfig _ => exact exec_readConfig_steady _ _ _ h
  | loadCore _ => exact exec_loadCore_steady _ _ _ h
  | unloadCore _ => exact exec_unloadCore_steady _ _ _ h
  | loadStream _ => exact exec_loadStream_steady _ _ _ h
  | setParams _ => exact exec_setParams_steady _ _ _ h
  | setRings _ => exact exec_setRings_steady _ _ _ h
  | launch _ => exact exec_launch_steady _ _ _ h
  | startRun _ => exact exec_startRun_steady _ _ _ h
  | commitStep _ => exact exec_commitStep_steady _ _ _ h
  | abort _ => exact exec_abort_steady _ _ _ h
  | replayStep _ => exact exec_replayStep_steady _ _ _ h
  | regionCreate _ => exact exec_regionCreate_steady _ _ _ h
  | regionChange _ => exact exec_regionChange_steady _ _ _ h
  | regionDelete _ => exact exec_regionDelete_steady _ _ _ h
  | zeroize _ => exact exec_zeroize_steady _ _ _ h
  | startForager _ => exact exec_startForager_steady _ _ _ h
  | foragerStatus _ => exact exec_foragerStatus_steady _ _ _ h
  | hostCopy _ _ => exact exec_hostCopy_steady _ _ _ _ h
  | getHealth _ => exact exec_getHealth_steady _ _ _ h
  | setStats _ => exact exec_setStats_steady _ _ _ h
  | readLogs _ => exact exec_readLogs_steady _ _ _ h
  | clearLogs _ => exact exec_clearLogs_steady _ _ _ h
  | keepInService _ => exact exec_keepInService_steady _ _ _ h
  | getPower _ => exact exec_getPower_steady _ _ _ h
  | setPowerCap _ => exact exec_setPowerCap_steady _ _ _ h
  | freeze _ => exact exec_freeze_steady _ _ _ h
  | thaw _ => exact exec_thaw_steady _ _ _ h
  | readout _ => exact exec_readout_steady _ _ _ h
  | setSmoker _ => exact exec_setSmoker_steady _ _ _ h
  | setWindow _ => exact exec_setWindow_steady _ _ _ h
  | resetWarmCompute _ _ => exact exec_resetWarmCompute_steady _ _ _ _ h
  | resetFull _ => exact exec_resetFull_steady _ _ _ h
  | fwStage _ => exact exec_fwStage_steady _ _ _ h
  | fwActivate _ => exact exec_fwActivate_steady _ _ _ h
  | debugChallenge _ => exact exec_debugChallenge_steady _ _ _ h
  | debugUnlock _ => exact exec_debugUnlock_steady _ _ _ h
  | debugLock _ => exact exec_debugLock_steady _ _ _ h
  | doorbell _ => exact exec_doorbell_steady _ _ _ h
  | tokenRptr _ => exact exec_tokenRptr_steady _ _ _ h
  | cmplRptr _ => exact exec_cmplRptr_steady _ _ _ h
  | bar4Read _ _ => exact exec_bar4Read_steady _ _ _ _ h
  | bar4Write _ _ => exact exec_bar4Write_steady _ _ _ _ h
  | registerWrite _ _ _ => exact exec_registerWrite_steady _ _ _ _ _ h
  | mgmtDatagram _ _ => exact exec_mgmtDatagram_steady _ _ _ _ h
  | spdmRequest _ _ => exact exec_spdmRequest_steady _ _ _ _ h
  | jtagInstruction _ => exact exec_jtagInstruction_steady _ _ _ h
  | frameIngress _ => exact exec_frameIngress_steady _ _ _ h
  | egressArbitration => exact exec_egressArbitration_steady _ _ h
  | calendarSlotStart _ => exact exec_calendarSlotStart_steady _ _ _ h
  | frameSent _ => exact exec_frameSent_steady _ _ _ h
  | frameAged _ => exact exec_frameAged_steady _ _ _ h
  | pauseWord _ _ => exact exec_pauseWord_steady _ _ _ _ h
  | pauseWordRepeat _ => exact exec_pauseWordRepeat_steady _ _ _ h
  | pauseExpired _ _ => exact exec_pauseExpired_steady _ _ _ _ h
  | poolWaiterGrant _ => exact exec_poolWaiterGrant_steady _ _ _ h
  | poolWaitExpired _ => exact exec_poolWaitExpired_steady _ _ _ h
  | calendarWrap => exact exec_calendarWrap_steady _ _ h
  | queueSample => exact exec_queueSample_steady _ _ h
  | statsBoundary => exact exec_statsBoundary_steady _ _ h
  | epochSwap => exact exec_epochSwap_steady _ _ h
  | epochDrainEnd => exact exec_epochDrainEnd_steady _ _ h
  | mwrite _ => exact exec_mwrite_steady _ _ _ h
  | mwack _ => exact exec_mwack_steady _ _ _ h
  | mread _ => exact exec_mread_steady _ _ _ h
  | mrdata _ => exact exec_mrdata_steady _ _ _ h
  | event _ => exact exec_event_steady _ _ _ h
  | mbox _ => exact exec_mbox_steady _ _ _ h
  | mboxResponse _ => exact exec_mboxResponse_steady _ _ _ h
  | forwardTimeout => exact exec_forwardTimeout_steady _ _ h
  | linkprobe _ _ => exact exec_linkprobe_steady _ _ _ _ h
  | linkprobeEcho _ _ => exact exec_linkprobeEcho_steady _ _ _ _ h
  | twin _ => exact exec_twin_steady _ _ _ h
  | twinSend => exact exec_twinSend_steady _ _ h
  | digestTimeout => exact exec_digestTimeout_steady _ _ h
  | voteSend => exact exec_voteSend_steady _ _ h
  | vote _ => exact exec_vote_steady _ _ _ h
  | release _ => exact exec_release_steady _ _ _ h
  | commitComplete => exact exec_commitComplete_steady _ _ h
  | stepWatchdog => exact exec_stepWatchdog_steady _ _ h
  | replayStart => exact exec_replayStart_steady _ _ h
  | launchComplete => exact exec_launchComplete_steady _ _ h
  | tokenRecord => exact exec_tokenRecord_steady _ _ h
  | completionRecord => exact exec_completionRecord_steady _ _ h
  | loop _ => exact exec_loop_steady _ _ _ h
  | wait _ => exact exec_wait_steady _ _ _ h
  | waitRelease _ => exact exec_waitRelease_steady _ _ _ h
  | waitTimeout _ _ => exact exec_waitTimeout_steady _ _ _ _ h
  | signal _ => exact exec_signal_steady _ _ _ h
  | evclr _ => exact exec_evclr_steady _ _ _ h
  | vset _ => exact exec_vset_steady _ _ _ h
  | stepb _ => exact exec_stepb_steady _ _ _ h
  | endProgram _ => exact exec_endProgram_steady _ _ _ h
  | vld _ => exact exec_vld_steady _ _ _ h
  | vst _ => exact exec_vst_steady _ _ _ h
  | cld _ => exact exec_cld_steady _ _ _ h
  | emv _ => exact exec_emv_steady _ _ _ h
  | eop _ => exact exec_eop_steady _ _ _ h
  | vadd _ => exact exec_vadd_steady _ _ _ h
  | vsub _ => exact exec_vsub_steady _ _ _ h
  | vmul _ => exact exec_vmul_steady _ _ _ h
  | vfma _ => exact exec_vfma_steady _ _ _ h
  | vdiv _ => exact exec_vdiv_steady _ _ _ h
  | vsqrt _ => exact exec_vsqrt_steady _ _ _ h
  | vmax _ => exact exec_vmax_steady _ _ _ h
  | vmin _ => exact exec_vmin_steady _ _ _ h
  | vmaxn _ => exact exec_vmaxn_steady _ _ _ h
  | vminn _ => exact exec_vminn_steady _ _ _ h
  | vcmp _ => exact exec_vcmp_steady _ _ _ h
  | vsel _ => exact exec_vsel_steady _ _ _ h
  | vfunc _ => exact exec_vfunc_steady _ _ _ h
  | vcvt _ => exact exec_vcvt_steady _ _ _ h
  | vred _ => exact exec_vred_steady _ _ _ h
  | vmisc _ => exact exec_vmisc_steady _ _ _ h
  | sld _ => exact exec_sld_steady _ _ _ h
  | advance _ => exact exec_advance_steady _ _ _ h
  | fclr _ => exact exec_fclr_steady _ _ _ h
  | frd _ => exact exec_frd_steady _ _ _ h
  | fexp _ => exact exec_fexp_steady _ _ _ h
  | fadd _ => exact exec_fadd_steady _ _ _ h
  | tenc _ => exact exec_tenc_steady _ _ _ h
  | cxset _ => exact exec_cxset_steady _ _ _ h
  | cxadv _ => exact exec_cxadv_steady _ _ _ h
  | corePatrol _ _ _ => exact exec_corePatrol_steady _ _ _ _ _ h
  | sparePatrolFail _ => exact exec_sparePatrolFail_steady _ _ _ h
  | coreSpareMap _ _ => exact exec_coreSpareMap_steady _ _ _ _ h
  | storeWalk => exact exec_storeWalk_steady _ _ h
  | stream _ => exact exec_stream_steady _ _ _ h
  | streamTimeout _ _ _ => exact exec_streamTimeout_steady _ _ _ _ _ h
  | streamUnitPatrol _ _ => exact exec_streamUnitPatrol_steady _ _ _ _ h
  | streamUnitRetire _ => exact exec_streamUnitRetire_steady _ _ _ h
  | collectiveIssue => exact exec_collectiveIssue_steady _ _ h
  | collectiveComplete _ _ _ => exact exec_collectiveComplete_steady _ _ _ _ _ h
  | collTimeout _ _ _ => exact exec_collTimeout_steady _ _ _ _ _ h
  | move _ => exact exec_move_steady _ _ _ h
  | moveComplete _ => exact exec_moveComplete_steady _ _ _ h
  | foragerTimeout _ => exact exec_foragerTimeout_steady _ _ _ h
  | foragerLoop _ => exact exec_foragerLoop_steady _ _ _ h
  | foragerWait _ => exact exec_foragerWait_steady _ _ _ h
  | foragerWaitRelease _ => exact exec_foragerWaitRelease_steady _ _ _ h
  | foragerSignal _ => exact exec_foragerSignal_steady _ _ _ h
  | foragerEnd _ => exact exec_foragerEnd_steady _ _ _ h
  | patrolScrub => exact exec_patrolScrub_steady _ _ h
  | pcSpareCopyComplete _ _ => exact exec_pcSpareCopyComplete_steady _ _ _ _ h
  | poison _ => exact exec_poison_steady _ _ _ h
  | fence _ => exact exec_fence_steady _ _ _ h
  | beacon _ => exact exec_beacon_steady _ _ _ h
  | beaconSend => exact exec_beaconSend_steady _ _ h
  | neighbourSilent _ => exact exec_neighbourSilent_steady _ _ _ h
  | freezeOrderedSet _ => exact exec_freezeOrderedSet_steady _ _ _ h
  | thawOrderedSet _ => exact exec_thawOrderedSet_steady _ _ _ h
  | freezeNAssert => exact exec_freezeNAssert_steady _ _ h
  | freezeNRelease => exact exec_freezeNRelease_steady _ _ h
  | timeSend => exact exec_timeSend_steady _ _ h
  | timeAnswer _ => exact exec_timeAnswer_steady _ _ _ h
  | time _ => exact exec_time_steady _ _ _ h
  | timeAnswerMissing => exact exec_timeAnswerMissing_steady _ _ h
  | timeParentChange => exact exec_timeParentChange_steady _ _ h
  | announceSend _ => exact exec_announceSend_steady _ _ _ h
  | announce _ => exact exec_announce_steady _ _ _ h
  | accept _ => exact exec_accept_steady _ _ _ h
  | reject _ => exact exec_reject_steady _ _ _ h
  | trainComplete _ _ => exact exec_trainComplete_steady _ _ _ _ h
  | trainTimeout _ => exact exec_trainTimeout_steady _ _ _ h
  | sidebandUp _ => exact exec_sidebandUp_steady _ _ _ h
  | sbLost _ => exact exec_sbLost_steady _ _ _ h
  | lossOfSignal _ _ => exact exec_lossOfSignal_steady _ _ _ _ h
  | lossOfLock _ _ => exact exec_lossOfLock_steady _ _ _ _ h
  | fecUncorr _ _ _ => exact exec_fecUncorr_steady _ _ _ _ _ h
  | spareReq _ => exact exec_spareReq_steady _ _ _ h
  | laneMoveComplete _ => exact exec_laneMoveComplete_steady _ _ _ h
  | spareRxAligned _ => exact exec_spareRxAligned_steady _ _ _ h
  | spareDone _ => exact exec_spareDone_steady _ _ _ h
  | sparingTimeout _ => exact exec_sparingTimeout_steady _ _ _ h
  | twinLost => exact exec_twinLost_steady _ _ h
  | smokerRehearsal _ _ _ _ _ => exact exec_smokerRehearsal_steady _ _ _ _ _ _ _ h
  | debugScopeExpiry => exact exec_debugScopeExpiry_steady _ _ h
  | nonceExpiry => exact exec_nonceExpiry_steady _ _ h
  | auxPowerGood => exact exec_auxPowerGood_steady _ _ h
  | auxPowerLost => exact exec_auxPowerLost_steady _ _ h
  | pwrEnAssert => exact exec_pwrEnAssert_steady _ _ h
  | pwrEnDeassert => exact exec_pwrEnDeassert_steady _ _ h
  | main54vFault => exact exec_main54vFault_steady _ _ h
  | railFault _ => exact exec_railFault_steady _ _ _ h
  | clockFault _ => exact exec_clockFault_steady _ _ _ h
  | mainConversionStop => exact exec_mainConversionStop_steady _ _ h
  | thermtrip _ => exact exec_thermtrip_steady _ _ _ h
  | leakN => exact exec_leakN_steady _ _ h
  | thermalSample _ => exact exec_thermalSample_steady _ _ _ h
  | powerCapPeriod _ => exact exec_powerCapPeriod_steady _ _ _ h
  | currentLimit => exact exec_currentLimit_steady _ _ h
  | currentLevelDecay => exact exec_currentLevelDecay_steady _ _ h
  | perstN => exact exec_perstN_steady _ _ h
  | slotChanged _ _ _ => exact exec_slotChanged_steady _ _ _ _ _ h
  | bootStageComplete _ => exact exec_bootStageComplete_steady _ _ _ h
  | queenLockstepMismatch _ => exact exec_queenLockstepMismatch_steady _ _ _ h
  | managementLockstepMismatch => exact exec_managementLockstepMismatch_steady _ _ h
  | mainPowerGood => exact exec_mainPowerGood_steady _ _ h
  | leakNDeassert => exact exec_leakNDeassert_steady _ _ h
  | healthDeductionExpiry => exact exec_healthDeductionExpiry_steady _ _ h
  | busMasterEnable => exact exec_busMasterEnable_steady _ _ h
  | dhcpv4Reply _ => exact exec_dhcpv4Reply_steady _ _ _ h

end Sys2Proof.Machine
end

