-- ==== Sys2Proof/Laws/Wire.lean ====
section
/-! SUPPORT. Small laws of the word streams and codewords of Machine/Wire.lean. -/

set_option Elab.async false

namespace Sys2Proof.Machine

@[simp] theorem laneWords_length (W N n : Nat) (ws : List PortWord) : (laneWords W N n ws).length = N := by simp [laneWords]
@[simp] theorem payloadSymbols_length (c : Fec) (h : CwHeader) (ws : List PortWord) : (payloadSymbols c h ws).length = c.data := by
  simp [payloadSymbols]
@[simp] theorem headerOf_lane (k n : Nat) (ws : List PortWord) : (headerOf k n ws).lane = n := rfl
@[simp] theorem headerOf_mark (k n : Nat) (ws : List PortWord) : (headerOf k n ws).mark = markPeriod k := rfl
@[simp] theorem headerOf_stby (k n : Nat) (ws : List PortWord) : (headerOf k n ws).stby = false := rfl

/-- An idle word between frames changes nothing at the receiver (R297). -/
theorem delimitWord_idle (d : Delimit) (h : d.cur = []) : delimitWord d 0 = d := by simp [delimitWord, h, fld]

theorem timesRoot_length (g : List (BitVec 10)) (r : BitVec 10) : (timesRoot g r).length = g.length + 1 := by simp [timesRoot]

/-- The generator of n parity symbols has degree n. -/
theorem generator_length (n : Nat) : (generator n).length = n + 1 := by
  have : ∀ (rs g : List (BitVec 10)), (rs.foldl timesRoot g).length = g.length + rs.length := by
    intro rs
    induction rs with
    | nil => simp
    | cons r rs ih => intro g; simp [ih, timesRoot_length]; omega
  simp [generator, this]; omega

theorem parityStep_length (g r : List (BitVec 10)) (x : BitVec 10) (h : g.length = r.length + 1) : (parityStep g r x).length = r.length := by
  cases r with
  | nil => simp [parityStep, List.length_zipWith, h]
  | cons a r => simp [parityStep, List.length_zipWith, h]

/-- A code's parity has as many symbols as the code gives it. -/
theorem parityOf_length (c : Fec) (data : List (BitVec 10)) : (parityOf c data).length = c.parity := by
  have : ∀ (xs r : List (BitVec 10)), r.length = c.parity → (xs.foldl (parityStep (generator c.parity)) r).length = c.parity := by
    intro xs
    induction xs with
    | nil => intro r h; exact h
    | cons x xs ih =>
      intro r h
      exact ih _ ((parityStep_length _ _ _ (by rw [generator_length, h])).trans h)
  exact this data _ (by simp)

@[simp] theorem codeword_length (c : Fec) (h : CwHeader) (ws : List PortWord) : (codeword c h ws).length = c.size := by
  simp [codeword, parityOf_length, Fec.size]

end Sys2Proof.Machine
end

