-- ==== Sys2Proof/WellFormed.lean ====
section
/-! DEFINITION. Well-formed commands: operands within the ranges that the spec gives them. -/

namespace Sys2Proof

/-- A host access of 1 to 4,096 bytes that stays inside its window of `size` bytes. -/
def accessWf (offset n size : Nat) : Bool := decide (1 ≤ n) && decide (n ≤ 4096) && decide (offset + n ≤ size)

/-- A frame whose payload has at most 4,096 bytes (08 R242); an arrival may break this, and is then discarded. -/
def frameWf (f : Frame) : Bool := decide (f.payload.length ≤ 4096)

/-- Physical cores named by a report exist: cluster 0 to 31, core 0 to 16 (00 R3). -/
def coresWf (l : List (Nat × Nat)) : Bool := l.all fun e => decide (e.1 < 32) && decide (e.2 < 17)

/-- A boot report names units, stacks and pseudo-channels that exist (11 R312, 06 R155). -/
def reportWf (r : StageReport) : Bool :=
  coresWf r.cores && r.units.all (fun u => decide (u < 32)) && r.channels.all fun e => decide (e.1 < 16) && decide (e.2 < 64)

/-- The check of one command. -/
def Instr.wf : Instr → Bool
  | .bar4Read o n => accessWf o.toNat n (2 ^ 30)
  | .bar4Write o d => accessWf o.toNat d.length (2 ^ 30)
  | .registerWrite .bar0 o d => accessWf o d.length (2 ^ 24)
  | .registerWrite .bar2 o d => accessWf o d.length (2 ^ 18)
  | .mgmtDatagram _ m => decide (8 ≤ m.length) && decide (m.length ≤ 512)
  | .resetWarmCompute _ f => coresWf f
  | .bootStageComplete r => reportWf r
  | .railFault r => decide (r < 6)
  | .clockFault c => decide (c < 6)
  | .mwrite f | .mwack f | .mread f | .mrdata f | .event f | .mbox f | .mboxResponse f | .twin f | .vote f | .release f => frameWf f
  | .linkprobe _ f | .linkprobeEcho _ f => frameWf f
  | .openSession .. | .closeSession .. | .getIdentity .. | .getState .. | .setTestMode .. | .forward .. | .setEid ..
  | .join .. | .leave .. | .writeRoutes .. | .writeMcast .. | .armEpoch .. | .cancelArm .. | .setupCircuit ..
  | .teardownCircuit .. | .writeRankmap .. | .setKeymap .. | .setGuard .. | .setComb .. | .armGroup ..
  | .disarmGroup .. | .armContext .. | .disarmContext .. | .setMirror .. | .setPort .. | .readConfig ..
  | .loadCore .. | .unloadCore .. | .loadStream .. | .setParams .. | .setRings .. | .launch .. | .startRun ..
  | .commitStep .. | .abort .. | .replayStep .. | .regionCreate .. | .regionChange .. | .regionDelete ..
  | .zeroize .. | .startForager .. | .foragerStatus .. | .hostCopy .. | .getHealth .. | .setStats .. | .readLogs ..
  | .clearLogs .. | .keepInService .. | .getPower .. | .setPowerCap .. | .freeze .. | .thaw .. | .readout ..
  | .setSmoker .. | .setWindow .. | .resetFull .. | .fwStage .. | .fwActivate .. | .debugChallenge ..
  | .debugUnlock .. | .debugLock .. | .doorbell .. | .tokenRptr .. | .cmplRptr .. | .spdmRequest ..
  | .jtagInstruction .. | .frameIngress .. | .egressArbitration .. | .calendarSlotStart .. | .frameSent ..
  | .frameAged .. | .pauseWord .. | .pauseWordRepeat .. | .pauseExpired .. | .poolWaiterGrant ..
  | .poolWaitExpired .. | .calendarWrap .. | .queueSample .. | .statsBoundary .. | .epochSwap .. | .epochDrainEnd ..
  | .forwardTimeout .. | .twinSend .. | .digestTimeout .. | .voteSend .. | .commitComplete .. | .stepWatchdog ..
  | .replayStart .. | .launchComplete .. | .tokenRecord .. | .completionRecord .. | .loop .. | .wait ..
  | .waitRelease .. | .waitTimeout .. | .signal .. | .evclr .. | .vset .. | .stepb .. | .endProgram .. | .vld ..
  | .vst .. | .cld .. | .emv .. | .eop .. | .vadd .. | .vsub .. | .vmul .. | .vfma .. | .vdiv .. | .vsqrt ..
  | .vmax .. | .vmin .. | .vmaxn .. | .vminn .. | .vcmp .. | .vsel .. | .vfunc .. | .vcvt .. | .vred .. | .vmisc ..
  | .sld .. | .advance .. | .fclr .. | .frd .. | .fexp .. | .fadd .. | .tenc .. | .cxset .. | .cxadv ..
  | .corePatrol .. | .sparePatrolFail .. | .coreSpareMap .. | .storeWalk .. | .stream .. | .streamTimeout ..
  | .streamUnitPatrol .. | .streamUnitRetire .. | .collectiveIssue .. | .collectiveComplete .. | .collTimeout ..
  | .move .. | .moveComplete .. | .foragerTimeout .. | .foragerLoop .. | .foragerWait .. | .foragerWaitRelease ..
  | .foragerSignal .. | .foragerEnd .. | .patrolScrub .. | .pcSpareCopyComplete .. | .poison .. | .fence ..
  | .beacon .. | .beaconSend .. | .neighbourSilent .. | .freezeOrderedSet .. | .thawOrderedSet .. | .freezeNAssert ..
  | .freezeNRelease .. | .timeSend .. | .timeAnswer .. | .time .. | .timeAnswerMissing .. | .timeParentChange ..
  | .announceSend .. | .announce .. | .accept .. | .reject .. | .trainComplete .. | .trainTimeout .. | .sidebandUp ..
  | .sbLost .. | .lossOfSignal .. | .lossOfLock .. | .fecUncorr .. | .spareReq .. | .laneMoveComplete ..
  | .spareRxAligned .. | .spareDone .. | .sparingTimeout .. | .twinLost .. | .smokerRehearsal ..
  | .debugScopeExpiry .. | .nonceExpiry .. | .auxPowerGood .. | .auxPowerLost .. | .pwrEnAssert ..
  | .pwrEnDeassert .. | .main54vFault .. | .mainConversionStop .. | .thermtrip .. | .leakN .. | .thermalSample ..
  | .powerCapPeriod .. | .currentLimit .. | .currentLevelDecay .. | .perstN .. | .slotChanged ..
  | .queenLockstepMismatch .. | .managementLockstepMismatch .. | .mainPowerGood .. | .leakNDeassert ..
  | .healthDeductionExpiry .. | .busMasterEnable .. | .dhcpv4Reply .. => true

end Sys2Proof
end

