-- ==== Sys2Proof/Tests/Slice0.lean ====
section
/-! SUPPORT. Tests: for each statement of Certificates/Slice0/Obligations.lean a state and operands that meet its hypotheses
(witness_…), one-step checks against results taken from the spec's rules by hand (test_…), and the well-formedness smoke test. -/

open Sys2Proof Sys2Proof.Machine

set_option Elab.async false
set_option maxRecDepth 100000

namespace Sys2Proof.Tests

/-! Small states for the witnesses: a booted module with host session 1, and a request on host mailbox 0. -/

/-- A module in READY, with the host's session 1. -/
def up : State := { State.reset with
  dev := { mode := .ready, bootStage := 0x18, main54Good := true, pwrEn := true, pwrGood := true, eid := 5 }
  sceuf := { sessions := [{ id := 1, kind := 0, peer := 0, major := 3 }] }
  hbm := { undef := false } }

/-- The request of command code c with its arguments, on host mailbox 0. -/
def req (c : Nat) (args : List Word) : Req :=
  { src := .host 0, peer := 0, w0 := BitVec.ofNat 64 (c + 0x30000), w1 := BitVec.ofNat 64 (8 * args.length * 65536), w2 := 1, args := args }

/-- A state with that request accepted. -/
def ask (s : State) (c : Nat) (args : List Word) : State :=
  { s with sceuf := { s.sceuf with accepted := [req c args] } }

/-- The request of a command passes every check. -/
abbrev can (c : Cmd) (s : State) (args : List Word) : Prop :=
  accepted c (.host 0) (ask s c.code args) (req c.code args) = true

/-- The state that a row leads to. -/
def after (c : Instr) (s : State) : State := match exec c s with
  | .next t => t
  | _ => s

/-- The same module in another device state. -/
def inMode (m : Mode) : State := { up with dev := { up.dev with mode := m } }

/-- A launch of key 1 with cluster 0, and its step 0. -/
def aLaunch : Launch := {
  id := 7, pkey := 1, slot := 0, det := false, safety := false, trap := false, autocommit := false, seed := 0, cmask := 1
  waitLimit := 50000, firstSeq := 0, stepLimit := 100, isRun := false, test := false, channels := [], issues := [] }
def aStep : Step := { seq := 0, startL := 0 }

/-- A module whose key 1 names one rank, itself, with that launch in step 0. -/
def running : State := { inMode .active with
  fab := { rankmap := [(0, 0x10005)], windows := [(1, 0x8000)] }
  job := { launch := some aLaunch, step := some aStep } }

/-- Port 3 up on an MFP 3.1 link, with its sideband. -/
def linkPort : Port := { tx := .up, rx := .up, mfp := 3, sb := true, linkUp := some (9, 3) }
def linked : State := { up with ports := [(3, linkPort)] }

/-- What a check answers: its value, or its error. -/
def valueOf {ε α : Type} (x : Except ε α) : Option α := match x with
  | .ok v => some v
  | .error _ => none
def errorOf {ε α : Type} (x : Except ε α) : Option ε := match x with
  | .ok _ => none
  | .error e => some e

/-- A good ordered set on a port (10 Table 10.7). -/
def aSet (port : Fin 64) (code : Byte) (payload : BitVec 40) : SetRx :=
  { port := port, payload := payload, chk := crc8 (code :: bytesOfNat payload.toNat 5), violation := false }

/-- A module with the scope TEST unlocked. -/
def testScope : State := { up with sec := { scopes := 8, scopeEnd := some 1000000000 } }

/-- A bundle whose only slot is END. -/
def endBundle : BitVec 256 := BitVec.ofNat 256 (7 * 2 ^ 16)

/-- The one-bundle program as it lies in a slot. -/
def endSlot : Slot := { phys := false, vctrl := 0, nparam := 0, bundles := [endBundle], res := [], base := 0 }

/-- A module joined with key 1: one rank, itself, circuit 0 for the RELEASE, rings set, and a program in slot 0. -/
def joined : State := { inMode .joined with
  fab := { rankmap := [(0, 0x10005)], windows := [(1, 0x8000)], circuits := [(0, 0x80)] }
  host := { ringsSet := true }
  comp := { slots := [(0, some endSlot)] } }

/-- A FULL region of one page at 4,096 with its shadow at 8,192, key 1, as a command carries it, and as entry n holds it. -/
def regionArgs : List Word := [0x80000001000, 4096, 8192, 0, 0]
def aRegion : BitVec 320 := setFlag (ofWords 320 regionArgs) 40 true

def withFrame (s : State) (f : Frame) : State := { s with comb := { s.comb with localIn := [f] } }

/-- A frame put before the module waits for its target. -/
theorem at_hand {s : State} {f : Frame} {op : Nat} (h : clocksRun s = true) (g : frmOp f = op) : atTarget (withFrame s f) f op :=
  ⟨h, g, List.mem_singleton.mpr rfl⟩

/-! ## One step, and what every step keeps -/

/-- A sound state with commands waiting (StepRunsFront, FusesOnlyBurn, StateBitsAgree, MemoriesStayCanonical). -/
def waiting : State := { ask up 0x0101 [9] with pending := [.setEid (.host 0), .egressArbitration], sec := { svn := 5, revoked0 := true } }

theorem witness_step_front : step waiting = .next (after (.setEid (.host 0)) { waiting with pending := [.egressArbitration] }) ∧
    safetyNeedsDet waiting = true ∧ scopesHaveEnd waiting = true ∧ alertFollows waiting = true ∧ memoriesWf waiting = true ∧
    waiting.sec.svn.getLsbD 2 = true ∧ waiting.sec.revoked0 = true := ⟨rfl, by decide +kernel⟩

theorem witness_revoked1 : step { waiting with sec := { revoked1 := true } } =
    .next (after (.setEid (.host 0)) { waiting with pending := [.egressArbitration], sec := { revoked1 := true } }) := rfl

theorem witness_step_idle : State.reset.pending = [] ∧ step State.reset = .next (tick State.reset) := ⟨rfl, rfl⟩

theorem test_step_takes_front : (after (.setEid (.host 0)) { waiting with pending := [.egressArbitration] }).dev.eid = 9 ∧
    (after (.setEid (.host 0)) { waiting with pending := [.egressArbitration] }).pending = [.egressArbitration] := by decide +kernel

/-! ## Sceuf: refusals and responses -/

/-- A request like `req` with its transport. -/
def reqBy (src : ReqSrc) (c : Nat) (args : List Word) : Req := { req c args with src := src }

/-- A state with a request accepted from any transport. -/
def askBy (src : ReqSrc) (s : State) (c : Nat) (args : List Word) : State :=
  { s with sceuf := { s.sceuf with accepted := [reqBy src c args] } }

/-- The request is at the front. -/
abbrev front (c : Cmd) (s : State) (args : List Word) : Prop :=
  frontReq c.code (.host 0) (ask s c.code args) = some (req c.code args)

/-- The session, transport and length checks pass. -/
abbrev plain (c : Cmd) (s : State) (args : List Word) : Prop :=
  let t := takeReq (ask s c.code args) (req c.code args)
  sessionCheck t (req c.code args) = none ∧
    (byFabric (req c.code args) && !fabricCarries c.code || s.dev.recovery && !recoveryServes c.code) = false ∧
    decide (c.full (req c.code args) < reqLen (req c.code args).w1 || 4032 < reqLen (req c.code args).w1) = false

theorem witness_no_session : front setEidCmd { up with sceuf := {} } [9] ∧
    sessionCheck (takeReq (ask { up with sceuf := {} } 0x0101 [9]) (req 0x0101 [9])) (req 0x0101 [9]) = some (.denied, 0) := by decide +kernel

/-- The same module, where session 1 has major version 2. -/
def up2 : State := { up with sceuf := { sessions := [{ id := 1, kind := 0, peer := 0, major := 2 }] } }

theorem witness_session_version : front setEidCmd up2 [9] ∧
    sessionCheck (takeReq (ask up2 0x0101 [9]) (req 0x0101 [9])) (req 0x0101 [9]) = some (.badVersion, 0x0202) := by decide +kernel

theorem witness_recovery : front setEidCmd { up with dev := { up.dev with recovery := true } } [9] ∧
    sessionCheck (takeReq (ask { up with dev := { up.dev with recovery := true } } 0x0101 [9]) (req 0x0101 [9])) (req 0x0101 [9]) = none ∧
    recoveryServes 0x0101 = false := by decide +kernel

/-- A session of a fabric peer. -/
def peerUp : State := { up with sceuf := { sessions := [{ id := 1, kind := 1, peer := 0, major := 3 }] } }

theorem witness_fabric_family : frontReq 0x0301 (.fabric 2) (askBy (.fabric 2) peerUp 0x0301 []) = some (reqBy (.fabric 2) 0x0301 []) ∧
    sessionCheck (takeReq (askBy (.fabric 2) peerUp 0x0301 []) (reqBy (.fabric 2) 0x0301 [])) (reqBy (.fabric 2) 0x0301 []) = none ∧
    byFabric (reqBy (.fabric 2) 0x0301 []) = true ∧ fabricCarries 0x0301 = false := by decide +kernel

theorem witness_long : front setEidCmd up [9, 0] ∧ setEidCmd.full (req 0x0101 [9, 0]) < reqLen (req 0x0101 [9, 0]).w1 ∧
    sessionCheck (takeReq (ask up 0x0101 [9, 0]) (req 0x0101 [9, 0])) (req 0x0101 [9, 0]) = none := by decide +kernel

theorem witness_form : front setEidCmd up [0x10000] ∧ plain setEidCmd up [0x10000] ∧
    setEidCmd.form (takeReq (ask up 0x0101 [0x10000]) (req 0x0101 [0x10000])) (req 0x0101 [0x10000]) = some 0 := by decide +kernel

theorem witness_auth : front setTestModeCmd up [1] ∧ plain setTestModeCmd up [1] ∧
    setTestModeCmd.form (takeReq (ask up 0x0005 [1]) (req 0x0005 [1])) (req 0x0005 [1]) = none ∧
    setTestModeCmd.auth (takeReq (ask up 0x0005 [1]) (req 0x0005 [1])) (req 0x0005 [1]) = false := by decide +kernel

theorem witness_state : front setEidCmd (inMode .active) [0xFFFF] ∧ plain setEidCmd (inMode .active) [0xFFFF] ∧
    setEidCmd.form (takeReq (ask (inMode .active) 0x0101 [0xFFFF]) (req 0x0101 [0xFFFF])) (req 0x0101 [0xFFFF]) = none ∧
    setEidCmd.auth (takeReq (ask (inMode .active) 0x0101 [0xFFFF]) (req 0x0101 [0xFFFF])) (req 0x0101 [0xFFFF]) = true ∧
    (setEidCmd.states (takeReq (ask (inMode .active) 0x0101 [0xFFFF]) (req 0x0101 [0xFFFF])) (req 0x0101 [0xFFFF])).testBit 5 = false := by
  decide +kernel

theorem witness_fenced : front joinCmd (inMode .fenced) [1, 0, 0] ∧ plain joinCmd (inMode .fenced) [1, 0, 0] ∧
    joinCmd.form (takeReq (ask (inMode .fenced) 0x0102 [1, 0, 0]) (req 0x0102 [1, 0, 0])) (req 0x0102 [1, 0, 0]) = none ∧
    (joinCmd.states (takeReq (ask (inMode .fenced) 0x0102 [1, 0, 0]) (req 0x0102 [1, 0, 0])) (req 0x0102 [1, 0, 0])).testBit 7 = false := by
  decide +kernel

theorem witness_response : (req 1 []).src = .host 0 ∧ Mem.wf up.host.bar2 = true ∧ [(7 : Word)].length ≤ 504 ∧
    (reqBy (.fabric 2) 1 []).src = .fabric 2 ∧ (reqBy .mgmt 1 []).src = .mgmt := by decide +kernel

theorem test_response_in_mailbox : memWords (respond up (req 0x0004 []) 0 0 [7]).host.bar2 0 9 =
    [0x30004, 0x3000000000000, 0x800000001, 0, 0, 0, 0, 0, 7] := by decide +kernel

/-! ## Sessions, membership, routes, circuits, settings -/

theorem witness_openSession : can openSessionCmd up [1, 0xFF] ∧ (1 ≤ 3 ∧ 3 ≤ 3) ∧ rn (req openSessionCmd.code [1, 0xFF]) 0 ≤ 3 ∧ 3 ≤ rn (req openSessionCmd.code [1, 0xFF]) 1 ∧
    (ask up openSessionCmd.code [1, 0xFF]).sceuf.sessions.length < 16 := by decide +kernel

theorem witness_openSession_lower : can openSessionCmd up [2, 2] ∧ (1 ≤ 2 ∧ 2 ≤ 3) ∧ rn (req openSessionCmd.code [2, 2]) 0 ≤ 2 ∧ 2 ≤ rn (req openSessionCmd.code [2, 2]) 1 ∧
    rn (req openSessionCmd.code [2, 2]) 1 < 3 := by decide +kernel

theorem witness_closeSession : can closeSessionCmd up [] := by decide +kernel
theorem witness_getIdentity : can getIdentityCmd up [] := by decide +kernel
theorem witness_getState : can getStateCmd (inMode .safe) [] := by decide +kernel

theorem witness_setTestMode : can setTestModeCmd testScope [1] ∧ can setTestModeCmd testScope [0] := by decide +kernel
theorem witness_forward : can forwardCmd up [6, 15, 0x30004] ∧ can forwardCmd up [0x1003F, 0, 0x30004] := by decide +kernel
theorem witness_setEid : can setEidCmd up [0xFFFF] := by decide +kernel
theorem witness_join : can joinCmd up [0xFFFFFFFF, 1, 1] ∧ up.dev.mode = .ready := by decide +kernel
theorem witness_join_joined : can joinCmd (inMode .joined) [1, 0, 0] ∧ (inMode .joined).dev.mode = .joined ∧
    (inMode .joined).dev.epoch.toNat < rn (req joinCmd.code [1, 0, 0]) 0 ∧ (rn (req joinCmd.code [1, 0, 0]) 1 == 1) = (inMode .joined).dev.detStrict ∧
    (rn (req joinCmd.code [1, 0, 0]) 2 == 1) = (inMode .joined).dev.safety := by decide +kernel
theorem witness_join_low : can joinCmd (inMode .active) [0, 0, 0] ∧ (inMode .active).dev.mode ≠ .ready ∧
    rn (req joinCmd.code [0, 0, 0]) 0 ≤ (inMode .active).dev.epoch.toNat := by decide +kernel
theorem witness_leave : can leaveCmd (inMode .joined) [] ∧ can leaveCmd (inMode .fenced) [] := by decide +kernel

theorem test_join_joins : (after (.join (.host 0)) (ask up 0x0102 [7, 1, 1])).dev.mode = .joined ∧
    (after (.join (.host 0)) (ask up 0x0102 [7, 1, 1])).dev.epoch = 7 ∧
    (after (.join (.host 0)) (ask up 0x0102 [7, 1, 1])).dev.safety = true := by decide +kernel

theorem witness_writeRankmap : can writeRankmapCmd running [32767, 1, 0x10005, 0] ∧
    ranksBusy (ask running writeRankmapCmd.code [32767, 1, 0x10005, 0]) (req writeRankmapCmd.code [32767, 1, 0x10005, 0]) = false := by decide +kernel
theorem witness_writeRankmap_busy : can writeRankmapCmd running [0, 1, 0x10005, 0] ∧
    ranksBusy (ask running writeRankmapCmd.code [0, 1, 0x10005, 0]) (req writeRankmapCmd.code [0, 1, 0x10005, 0]) = true := by decide +kernel

/-- Banks as they stand while bank 1 is armed for the present time, or bank 0 drains. -/
def armed1 : State := { up with fab := { bank1 := .armed, swapTime := 10 } }
def draining0 : State := { up with clk := { t48 := 64010 * 48 }, fab := { bank0 := .draining, bank1 := .active, swapTime := 10 } }

theorem witness_writeRoutes : can writeRoutesCmd up [1, 65535, 1, 0x3FFFF] ∧ bankOf (ask up writeRoutesCmd.code [1, 65535, 1, 0x3FFFF]) true = .inactive := by
  decide +kernel
theorem witness_writeRoutes_busy : can writeRoutesCmd up [0, 0, 0] ∧ bankOf (ask up writeRoutesCmd.code [0, 0, 0]) false ≠ .inactive := by decide +kernel
theorem witness_writeMcast : can writeMcastCmd up [1, 4095, 1, 5, 0xFFFFF] ∧ bankOf (ask up writeMcastCmd.code [1, 4095, 1, 5, 0xFFFFF]) true = .inactive := by
  decide +kernel
theorem witness_writeMcast_busy : can writeMcastCmd up [0, 0, 0] ∧ bankOf (ask up writeMcastCmd.code [0, 0, 0]) false ≠ .inactive := by decide +kernel
theorem witness_armEpoch : can armEpochCmd up [1, 10000] ∧ (req armEpochCmd.code [1, 10000]).at_ + 10000 ≤ rn (req armEpochCmd.code [1, 10000]) 1 ∧
    bankOf (ask up armEpochCmd.code [1, 10000]) true = .inactive ∧
    ∀ x, bankOf (ask up armEpochCmd.code [1, 10000]) x ≠ .armed ∧ bankOf (ask up armEpochCmd.code [1, 10000]) x ≠ .draining := by decide +kernel
theorem witness_cancelArm : can cancelArmCmd armed1 [1, 0] ∧ bankOf (ask armed1 cancelArmCmd.code [1, 0]) true = .armed ∧
    nowNs (ask armed1 cancelArmCmd.code [1, 0]) < armed1.fab.swapTime.toNat := by decide +kernel
theorem witness_epochSwap : let s := { armed1 with clk := { t48 := 480 } }
    clocksRun s = true ∧ bankOf s true = .armed ∧ bankOf s (!true) = .active ∧ s.fab.swapTime.toNat ≤ nowNs s := by decide +kernel
theorem witness_epochDrainEnd : clocksRun draining0 = true ∧ bankOf draining0 false = .draining ∧
    draining0.fab.swapTime.toNat + 64000 ≤ nowNs draining0 := by decide +kernel

/-- SETUP_CIRCUIT of a circuit from port 0 to port 3 in slot 1023. -/
def circuitArgs : List Word := [4095, 0, 8, 0, 1, 0x3FF0003]

theorem witness_setupCircuit : let s := ask linked setupCircuitCmd.code circuitArgs
    let r := req setupCircuitCmd.code circuitArgs
    can setupCircuitCmd linked circuitArgs ∧ (egressOf (setupTargets r)).find? (fenceBit s) = none ∧ circuitValid s (rn r 0) = false ∧
      slotsFit s (calendarSlots r) = true := by decide +kernel
theorem witness_setupCircuit_fenced : let m := { linked with fab := { fence := [(3, true)] } }
    can setupCircuitCmd m circuitArgs ∧
      (egressOf (setupTargets (req setupCircuitCmd.code circuitArgs))).find? (fenceBit (ask m setupCircuitCmd.code circuitArgs)) = some 3 := by decide +kernel
/-- The circuit set up, its slot in the shadow. -/
def circuitUp : State := { linked with fab := { circuits := [(4095, setFlag (ofWords 192 [0, 8, 0]) 7 true)], calShadow := [(4095, 0x1FFF)] } }
theorem witness_setupCircuit_used : let s := ask circuitUp setupCircuitCmd.code circuitArgs
    let r := req setupCircuitCmd.code circuitArgs
    can setupCircuitCmd circuitUp circuitArgs ∧ (egressOf (setupTargets r)).find? (fenceBit s) = none ∧ circuitValid s (rn r 0) = true := by decide +kernel
theorem witness_setupCircuit_full : let m := { linked with fab := { calShadow := [(4095, 0x1001)] } }
    let s := ask m setupCircuitCmd.code circuitArgs
    let r := req setupCircuitCmd.code circuitArgs
    can setupCircuitCmd m circuitArgs ∧ (egressOf (setupTargets r)).find? (fenceBit s) = none ∧ circuitValid s (rn r 0) = false ∧
      slotsFit s (calendarSlots r) = false := by decide +kernel
theorem witness_teardownCircuit : can teardownCircuitCmd circuitUp [4095] := by decide +kernel
theorem witness_calendarWrap : let s := { circuitUp with clk := { t48 := 40960 }, fab := { circuitUp.fab with teardown := [4095] } }
    clocksRun s = true ∧ s.comb.wrapAt < scNow s / 1024 ∧ (∀ e ∈ s.comb.circuitQ, e.1 / 113 ∉ s.fab.teardown) := by decide +kernel

/-- SET_KEYMAP of port p: map, key 64 set, FENCE. -/
def keymapArgs (p m fence : Word) : List Word := [p, m, 0, 1] ++ List.replicate 62 0 ++ [fence]

theorem witness_setKeymap : can setKeymapCmd linked (keymapArgs 3 1 1) ∧ can setKeymapCmd linked (keymapArgs 80 1 0) := by decide +kernel
theorem test_setKeymap : let t := after (.setKeymap (.host 0)) (ask linked setKeymapCmd.code (keymapArgs 3 0 0))
    keyInBit t 3 64 = true ∧ keyInBit t 3 65 = false ∧ keyInBit t 3 0 = true ∧ keyOutBit t 3 64 = keyOutBit linked 3 64 := by decide +kernel
/-- A guard of port 3, TC6: CIR 100, PIR 200, EN, CBS 8,192, PBS 9,000, XOFF_TH 1. -/
def guardArgs : List Word := [3, 6, 100 + 200 * 2 ^ 22 + 2 ^ 44, 8192 + 9000 * 2 ^ 24, 0, 1]

theorem witness_setGuard : can setGuardCmd up [80, 7, 0, 0, 0, 1] ∧ can setGuardCmd up guardArgs := by decide +kernel
theorem witness_setComb : can setCombCmd up [0, 0, 1, 2, 3, 4] := by decide +kernel
theorem witness_setMirror : can setMirrorCmd up (List.replicate 21 0) := by decide +kernel
theorem witness_setPort : can setPortCmd up [80, 7, 0xFFFFFF] := by decide +kernel
theorem witness_readConfig : can readConfigCmd up [1, 65535, 1] := by decide +kernel

/-! ## Groups, contexts, programs, launches -/

/-- The stream program IN 256, SUM of FP32 into ACC, PASS of ACC. -/
def sumProg : List Word := [0x10000000201, 0x22208, 0x34245]
def withProg : State := { up with su := { programs := [(1, some { code := sumProg })] } }

/-- ARM_GROUP of group g: key 1, one rank, program 1, FP32, chunks of 256 elements. -/
def groupArgs (g : Word) : List Word := [g, 0x0200800000000011, 255, 0, 0, 0]

theorem witness_armGroup : let r := req armGroupCmd.code (groupArgs 4062)
    let s := ask withProg armGroupCmd.code (groupArgs 4062)
    can armGroupCmd withProg (groupArgs 4062) ∧ stepBlocks s (gpKey (ofWords 320 (rws r 1 5))) = false ∧
      (∀ id ∈ groupIds (rn r 0) (ofWords 320 (rws r 1 5)), ctxOf s id = none) := by decide +kernel

/-- A context of program 1 under key 1, armed by command or by a group. -/
def aCtx (g : Option Nat) : Ctx := { word := BitVec.ofNat 1024 (0x8001000 + 5), pkey := 1, group := g, auxBuf := none, aux := [] }

/-- Group 4 armed with its contexts 4 and 5; context 9 armed by command. -/
def withGroup : State := { withProg with
  su := { withProg.su with ctxs := [(4, some (aCtx (some 4))), (5, some (aCtx (some 4))), (9, some (aCtx none))] }
  coll := { groups := [(4, 0x0200800000000011 + 255 * 2 ^ 64)] } }

/-- The same, with step 0 of key 1 in progress. -/
def busyGroup : State := { withGroup with dev := running.dev, job := running.job }

theorem witness_armGroup_refused : (can armGroupCmd withGroup (groupArgs 8) ∧ ctxOf withGroup 9 ≠ none ∧ 9 ∈ groupIds 8 (ofWords 320 (rws (req 0 (groupArgs 8)) 1 5))) ∧
    can armGroupCmd busyGroup (groupArgs 20) ∧ stepBlocks busyGroup (gpKey (ofWords 320 (rws (req 0 (groupArgs 20)) 1 5))) = true := by decide +kernel
theorem witness_disarmGroup : can disarmGroupCmd withGroup [4] ∧ stepBlocks (ask withGroup disarmGroupCmd.code [4]) (gpKey (groupOf withGroup 4)) = false := by
  decide +kernel

/-- ARM_CONTEXT of context 4095: program 1, FP32, `len` bytes of auxiliary data at 64, key 1. -/
def contextArgs (len : Word) : List Word := [0x8001FFF] ++ List.replicate 11 0 ++ [64, len, 0, 0, 1]

theorem witness_armContext : let r := req armContextCmd.code (contextArgs 0)
    let s := ask withProg armContextCmd.code (contextArgs 0)
    can armContextCmd withProg (contextArgs 0) ∧ ctxOf s (ctxNumber r) = none ∧ stepBlocks s (rn r 16) = false ∧ fld (ctxRecord r) 832 13 = 0 := by
  decide +kernel
theorem witness_armContext_aux : let r := req armContextCmd.code (contextArgs 4096)
    let s := ask withProg armContextCmd.code (contextArgs 4096)
    let x := ctxRecord r
    let u := takeReq s r
    can armContextCmd withProg (contextArgs 4096) ∧ ctxOf s (ctxNumber r) = none ∧ stepBlocks s (rn r 16) = false ∧ fld x 832 13 ≠ 0 ∧
      (hbmCheck u (fld x 768 64) (fld x 832 13)).1 = none ∧
      (match takeBuf u (648 + s.su.map.getD (fld x 20 5 % max 1 s.su.map.length) 0) 1 with
        | some (_, v) => (hbmRead v (fld x 768 64) (fld x 832 13)).1.isSome
        | none => false) = true := by decide +kernel
theorem witness_disarmContext : can disarmContextCmd withGroup (9 :: List.replicate 15 0) ∧ ctxOf withGroup 9 = some (aCtx none) ∧
    (aCtx none).group = none ∧ stepBlocks withGroup (aCtx none).pkey = false ∧ (∀ k ∈ withGroup.su.chunks, k.ctx ≠ 9) ∧
    (∀ g ∈ withGroup.su.granted, g.1 ≠ 9) := by decide +kernel
theorem witness_disarmContext_refused : can disarmContextCmd withGroup (4 :: List.replicate 15 0) ∧ ctxOf withGroup 4 = some (aCtx (some 4)) ∧
    (aCtx (some 4)).group ≠ none ∧ can disarmContextCmd busyGroup (9 :: List.replicate 15 0) ∧ ctxOf busyGroup 9 = some (aCtx none) ∧
    stepBlocks busyGroup (aCtx none).pkey = true := by decide +kernel

/-- A core program image: header and bundles, CRC in place (05 Table 5.11). -/
def coreBytes (minor : Nat) (bundles : List (BitVec 256)) : List Byte :=
  let n := bundles.length
  let body := fun crc : Word => bytesOfWords ([BitVec.ofNat 64 (0x41544741 + 2 ^ 32 * minor + 3 * 2 ^ 40), BitVec.ofNat 64 n, 64, 64, crc, 0, 0, 0] ++
    bundles.flatMap fun b => (List.range 4).map (wordAt b))
  body ((crc32c (body 0)).setWidth 64)

/-- HBM with that one-bundle program at 0, one of version 3.2 at 4,096, and a stream program at 8,192 and 12,288. -/
def streamBytes (minor : Nat) : List Byte :=
  let body := fun crc : Word => bytesOfWords ([BitVec.ofNat 64 (0x53544741 + 2 ^ 32 * minor + 3 * 2 ^ 40 + 2 * 2 ^ 48), crc] ++ sumProg)
  body ((crc32c (body 0)).setWidth 64)
def images : Mem :=
  memWrite (memWrite (memWrite (memWrite [] 0 (coreBytes 0 [endBundle])) 4096 (coreBytes 2 [endBundle])) 8192 (streamBytes 0)) 12288 (streamBytes 2)
def withImages : State := { up with hbm := { undef := false, mem := images } }

/-- How the images end. -/
def coreEnd (a : Nat) : Option Status := errorOf (coreImage withImages a)
def streamEnd (a : Nat) : Option Status := errorOf (streamImage withImages 3 a)

/-- LOAD_CORE and LOAD_STREAM are accepted as `up` accepts them, so the images alone decide. -/
theorem witness_loadCore : can loadCoreCmd withImages [15, 0] ∧ slotRuns withImages 15 = false ∧ coreEnd 0 = none ∧
    can loadCoreCmd withImages [0, 4096] ∧ coreEnd 4096 = some .badVersion ∧ coreEnd 16384 = some .badArg := by decide +kernel
theorem witness_unloadCore : can unloadCoreCmd withImages [15] ∧ slotRuns withImages 15 = false := by decide +kernel
theorem witness_slot_runs : slotRuns running 0 = true ∧ can loadCoreCmd running [0, 0] ∧ can unloadCoreCmd running [0] := by decide +kernel
theorem witness_loadStream : can loadStreamCmd withImages [253, 8192] ∧ streamEnd 8192 = none ∧ streamEnd 12288 = some .badVersion ∧
    streamEnd 16384 = some .badArg := by decide +kernel
theorem test_loadCore : (after (.loadCore (.host 0)) (ask withImages 0x0201 [15, 0])).comp.slots = [(15, some endSlot)] := by decide +kernel
theorem test_loadStream : (after (.loadStream (.host 0)) (ask withImages 0x0203 [3, 8192])).su.programs = [(3, some { code := sumProg })] := by decide +kernel
theorem witness_setParams : can setParamsCmd running [1, 63, 1, 8] ∧ running.job.step = some aStep ∧ aStep.seq < 1 := by decide +kernel
theorem witness_setParams_begun : can setParamsCmd running [0, 0, 0] ∧ running.job.step = some aStep ∧ 0 ≤ aStep.seq := by decide +kernel
theorem witness_setRings : can setRingsCmd (inMode .joined) [4096, 0, 12, 24, 64] := by decide +kernel
theorem witness_pointers : auxOn State.reset = true := by decide +kernel

/-- The launch block of key 1, slot 0, on the clusters of a mask (12 Table 12.10). -/
def launchArgs (mask : Word) : List Word := [7 + 2 ^ 32, 5, mask, 0, 0]

theorem witness_launch : let r := req launchCmd.code (launchArgs 0x80000001)
    let s := ask joined launchCmd.code (launchArgs 0x80000001)
    let u := takeReq s r
    can launchCmd joined (launchArgs 0x80000001) ∧ s.job.launch = none ∧ (lbDet r = s.dev.detStrict ∧ lbSafety r = s.dev.safety) ∧
      lbForagers r = 0 ∧ valueOf (launchMask u r) = some 0x80000001 ∧ s.host.ringsSet = true := by decide +kernel
theorem witness_startRun : let m := { joined with su := { programs := [(1, some { code := sumProg })], ctxs := [(9, some { aCtx none with word := setFld (aCtx none).word 832 13 80 })] } }
    let a := launchArgs 1 ++ [0x90000000000] ++ List.replicate 8 0
    let r := req startRunCmd.code a
    let s := ask m startRunCmd.code a
    can startRunCmd m a ∧ s.job.launch = none ∧ (lbDet r = s.dev.detStrict ∧ lbSafety r = s.dev.safety) ∧ lbForagers r = 0 ∧
      valueOf (launchMask (takeReq s r) r) = some 1 ∧ s.host.ringsSet = true := by decide +kernel
/-- A launch in test mode, in READY. -/
def busyTest : State := { joined with dev := { joined.dev with mode := .ready, testMode := true }, job := { launch := some aLaunch, step := some aStep } }
theorem witness_one_launch : running.job.launch ≠ none ∧ accepted launchCmd (.host 0) (ask busyTest 0x0302 (launchArgs 1)) (req 0x0302 (launchArgs 1)) = true ∧
    busyTest.job.launch ≠ none := by decide +kernel
theorem witness_launch_flags : let m := { joined with dev := { joined.dev with detStrict := true } }
    can launchCmd m (launchArgs 1) ∧ m.job.launch = none ∧ m.dev.testMode = false ∧ lbDet (req launchCmd.code (launchArgs 1)) ≠ m.dev.detStrict := by decide +kernel
/-- A forager start of channel 319 from an address. -/
def launchForager (a : Word) : List Word := [7 + 2 ^ 32, 5, 1, 0, 256, 319, a]
theorem witness_launch_forager : let r := req launchCmd.code (launchForager 0)
    can launchCmd joined (launchForager 0) ∧ joined.job.launch = none ∧
      errorOf (launchImages (takeReq (ask joined launchCmd.code (launchForager 0)) r) r (lbForagers r)) = some (.badArg, 48) := by decide +kernel
theorem witness_launch_absent : let m := { joined with ident := { grade := .m }, comp := { joined.comp with clusters := (List.range 28).map some } }
    let r := req launchCmd.code (launchArgs 0x80000001)
    can launchCmd m (launchArgs 0x80000001) ∧ errorOf (launchMask (takeReq (ask m launchCmd.code (launchArgs 0x80000001)) r) r) = some 31 := by decide +kernel
theorem witness_launch_rings : let m := { joined with host := {} }
    can launchCmd m (launchArgs 1) ∧ m.host.ringsSet = false := by decide +kernel
theorem test_launch : let t := after (.launch (.host 0)) (ask joined 0x0302 (launchArgs 0x80000001))
    t.dev.mode = .active ∧ (t.job.launch.map (·.cmask)) = some 0x80000001 ∧ (queenOf t 31).st = .run ∧ (queenOf t 1).st = .idle := by decide +kernel

theorem witness_commitStep : can commitStepCmd running [1, 0] ∧ running.job.launch = some aLaunch ∧ running.job.step = some aStep ∧ aLaunch.pkey = 1 := by
  decide +kernel
/-- The same in step 5, voted, committing or poisoned. -/
def inStep (st : Step) : State := { running with job := { running.job with step := some st } }
def step5 : Step := { seq := 5, startL := 0 }
theorem witness_step_below : can commitStepCmd (inStep step5) [1, 4] ∧ can replayStepCmd (inStep step5) [1, 4] ∧ 4 < step5.seq := by decide +kernel
theorem witness_step_above : can commitStepCmd (inStep step5) [1, 6] ∧ can replayStepCmd (inStep step5) [1, 6] ∧ step5.seq < 6 := by decide +kernel
theorem witness_abort : can abortCmd (inStep { step5 with committing := true }) [1] ∧ can abortCmd (inStep { step5 with voted := true }) [1] ∧
    can abortCmd (inStep step5) [1] ∧ step5.voted = false ∧ step5.committing = false := by decide +kernel
theorem witness_replayStep : can replayStepCmd (inStep step5) [1, 5] ∧ can replayStepCmd (inStep { step5 with voted := true }) [1, 5] ∧
    can replayStepCmd (inStep { step5 with poisoned := some (0, 6), held := true }) [1, 5] ∧ step5.poisoned = none := by decide +kernel
theorem witness_other_key : can commitStepCmd running [2, 0] ∧ can abortCmd running [2] ∧ can replayStepCmd running [2, 0] ∧ aLaunch.pkey ≠ 2 := by decide +kernel
theorem test_abort_after_vote : ((after (.abort (.host 0)) (ask (inStep { step5 with voted := true }) 0x0305 [1])).job.step.map (·.abortPending)) = some true := by
  decide +kernel

/-! ## Regions, foragers by command, the BARs, how requests arrive -/

def withRegion : State := { up with hbm := { undef := false, regions := [(0, aRegion)] } }
def busyRegion : State := { withRegion with dev := running.dev, job := running.job }

theorem witness_regionCreate : can regionCreateCmd up regionArgs ∧ stepBlocks up (rgKey (ofWords 320 regionArgs)) = false ∧ 0 < 64 ∧
    rgValid (tblGet 0 up.hbm.regions 0) = false := by decide +kernel
/-- Every entry taken by a region of no bytes elsewhere. -/
def fullRegions : State := { up with hbm := { undef := false, regions := (List.range 64).map fun n => (n, BitVec.ofNat 320 (2 ^ 40 + 2 ^ 41 + 65536 * (n + 1))) } }
theorem witness_regionCreate_full : can regionCreateCmd fullRegions regionArgs ∧ stepBlocks fullRegions (rgKey (ofWords 320 regionArgs)) = false ∧
    (∀ k, k < 64 → rgValid (tblGet 0 fullRegions.hbm.regions k) = true) := by decide +kernel
theorem witness_regionCreate_busy : can regionCreateCmd running regionArgs ∧ stepBlocks running (rgKey (ofWords 320 regionArgs)) = true := by decide +kernel
theorem witness_regionChange : can regionChangeCmd withRegion [0xA0000001000, 4096, 0, 0, 0] ∧
    regionByBase withRegion (ofWords 320 [0xA0000001000, 4096, 0, 0, 0]) = some (0, aRegion) ∧ stepBlocks withRegion (rgKey aRegion) = false ∧
    rgAppend (tblGet 0 withRegion.hbm.regions 0) ≠ rgAppend (ofWords 320 [0xA0000001000, 4096, 0, 0, 0]) := by decide +kernel
theorem witness_regionDelete : can regionDeleteCmd withRegion regionArgs ∧ regionByBase withRegion (ofWords 320 regionArgs) = some (0, aRegion) ∧
    stepBlocks withRegion (rgKey aRegion) = false := by decide +kernel
theorem witness_region_busy : can regionChangeCmd busyRegion regionArgs ∧ can regionDeleteCmd busyRegion regionArgs ∧
    regionByBase busyRegion (ofWords 320 regionArgs) = some (0, aRegion) ∧ stepBlocks busyRegion (rgKey aRegion) = true := by decide +kernel
theorem witness_zeroize : can zeroizeCmd withRegion [] := by decide +kernel

/-- A forager program image of one END (11 Table 11.4), at 0, and one of version 3.2 at 4,096. -/
def foragerBytes (minor : Nat) : List Byte :=
  let body := fun crc : Word => bytesOfWords ([BitVec.ofNat 64 (0x46544741 + 2 ^ 32 * minor + 3 * 2 ^ 40 + 2 ^ 48), crc, 0, 0] ++ List.replicate 16 0 ++ [5, 0, 0, 0])
  body ((crc32c (body 0)).setWidth 64)
def foragerImages : Mem := memWrite (memWrite [] 0 (foragerBytes 0)) 4096 (foragerBytes 2)
def withForager : State := { up with hbm := { undef := false, mem := foragerImages } }
theorem witness_startForager : can startForagerCmd withForager [319, 0xFFF, 0] ∧ (chanOf withForager 319).st ≠ .run ∧ (chanOf withForager 319).st ≠ .wait ∧
    valueOf (foragerImage withForager 319 0) = some { cur := List.replicate 8 0, inc := List.replicate 8 0, code := [5] } ∧
    errorOf (foragerImage withForager 319 4096) = some .badVersion ∧ errorOf (foragerImage withForager 0 (2 ^ 42)) = some .badArg ∧
    errorOf (foragerImage withForager 0 (2 ^ 41 + 2 ^ 40)) = some .badArg := by decide +kernel
theorem witness_startForager_busy : let m := { up with fgr := [(7, { st := .run })] }
    can startForagerCmd m [7, 1, 0] ∧ (chanOf m 7).st = .run := by decide +kernel
theorem witness_foragerStatus : can foragerStatusCmd (inMode .safe) [319, 1] ∧ can foragerStatusCmd up [0, 320] := by decide +kernel
theorem witness_hostCopy : can (hostCopyCmd [1, 2]) up [0, 0, 4096, 16] ∧ rn (req (hostCopyCmd [1, 2]).code [0, 0, 4096, 16]) 0 = 0 ∧
    can (hostCopyCmd []) up [1, 64, 4096, 5000] ∧ rn (req (hostCopyCmd []).code [1, 64, 4096, 5000]) 0 = 1 := by decide +kernel
theorem test_hostCopy_frames : (hostReads up 4096 64 5000 2).comb.orig.map (fun o => (o.frame.w3, o.frame.payload)) =
    [(4096, bytesOfWords [4096, 64]), (8192, bytesOfWords [904, 4160])] := by decide +kernel

theorem witness_aperture : auxOn up = true ∧ mboxStatus up (262143 / 4096) ≠ 0x8001 ∧ 262143 < 262144 ∧
    (let m := { up with host := { up.host with bar2 := memWrite up.host.bar2 12 [0x01#8, 0x80#8] } }
     mboxStatus m (0 / 4096) = 0x8001) ∧ 0x8000 ≤ 0x847F ∧ 0x847F < 0x8480 ∧ 0x2018 ≤ 0x201F ∧ 0x201F < 0x2020 ∧ 0x8480 ≤ 0x8480 := by decide +kernel
theorem test_bar4_denied : (after (.bar4Read 0 2) up).out = [.hostRead [0xFF, 0xFF]] := by decide +kernel

/-- A datagram or mailbox message of code c, session 1, and an MBOX frame that carries it to mailbox n. -/
def message (c : Nat) (args : List Word) : List Word := [BitVec.ofNat 64 (c + 0x30000 + 2 ^ 32), BitVec.ofNat 64 (8 * args.length * 65536), 1, 0, 0, 0, 0, 0] ++ args
def mboxFrame (n : Word) (ws : List Word) : Frame := mkFrame 7 0 0 7 5 6 0 0 0 false n (bytesOfWords ws)
def withHostMsg (c : Nat) : State := { up with host := { up.host with bar2 := memWrite up.host.bar2 (4096 * 63) (bytesOfWords (message c [])) } }

theorem witness_doorbell : mailServed up = true ∧ (127 : Word).toNat % 64 = 63 ∧ mboxStatus (withHostMsg 4) 63 ≠ 0x8001 ∧
    cmdKnown (reqCmd (hostRequest (withHostMsg 4) 63)) = true ∧ mboxStatus (withHostMsg 0x20F) 63 ≠ 0x8001 ∧
    cmdKnown (reqCmd (hostRequest (withHostMsg 0x20F) 63)) = false := by decide +kernel
theorem witness_doorbell_busy : let m := { up with host := { up.host with bar2 := memWrite up.host.bar2 12 [0x01#8, 0x80#8] } }
    mailServed m = true ∧ mboxStatus m 0 = 0x8001 := by decide +kernel
/-- A module with an address and a session of the peer 6. -/
def managed : State := { up with sceuf := { sessions := [{ id := 1, kind := 2, peer := 6, major := 3 }, { id := 1, kind := 1, peer := 6, major := 3 }], ipv4 := some 0x0A000001 } }
def managedKept : State := { managed with sceuf := { managed.sceuf with kept := [(1, 1, [7, 8])] } }
theorem witness_mgmtDatagram : mailServed managed = true ∧ managed.sceuf.ipv4 ≠ none ∧ keptResp managed (reqOf .mgmt 6 (message 4 [])) = none ∧
    cmdKnown (reqCmd (reqOf .mgmt 6 (message 4 []))) = true ∧ keptResp managedKept (reqOf .mgmt 6 (message 4 [])) = some [7, 8] ∧
    up.sceuf.ipv4 = none := by decide +kernel
theorem witness_mbox : let f := mboxFrame 15 (message 4 [])
    let s := withFrame managed f
    takeLocal s f 7 = some (taken s f) ∧ fwRuns s = true ∧ f.w3.toNat = 15 ∧ flag (arg (mboxWords f) 1) 1 = false ∧
      keptResp (taken s f) (reqOf (.fabric 15) (BitVec.ofNat 32 (frmSrc f)) (mboxWords f)) = none ∧ srcBusy (taken s f) (.fabric 15) = false ∧
      cmdKnown (reqCmd (reqOf (.fabric 15) (BitVec.ofNat 32 (frmSrc f)) (mboxWords f))) = true := by decide +kernel
theorem witness_mbox_kept : let f := mboxFrame 15 (message 4 [])
    let s := withFrame managedKept f
    takeLocal s f 7 = some (taken s f) ∧ flag (arg (mboxWords f) 1) 1 = false ∧
      keptResp (taken s f) (reqOf (.fabric 15) (BitVec.ofNat 32 (frmSrc f)) (mboxWords f)) = some [7, 8] := by decide +kernel
theorem witness_mbox_busy : let f := mboxFrame 15 (message 4 [])
    let s := withFrame { managed with sceuf := { managed.sceuf with accepted := [{ req 4 [] with src := .fabric 15 }] } } f
    takeLocal s f 7 = some (taken s f) ∧ flag (arg (mboxWords f) 1) 1 = false ∧
      keptResp (taken s f) (reqOf (.fabric 15) (BitVec.ofNat 32 (frmSrc f)) (mboxWords f)) = none ∧ srcBusy (taken s f) (.fabric 15) = true := by decide +kernel
/-- A FORWARD to mailbox 3 of module 6, sent at time 0, and its response. -/
def aForward : Fwd := { req := req 6 [6, 3, 0x100000000], target := 6, viaPort := false, mailbox := 3, sentAt := 0 }
def forwarding : State := { up with sceuf := { up.sceuf with forward := some aForward } }
def answerFrame : Frame := mboxFrame 3 ([0x100030004, 2] ++ List.replicate 6 0)
theorem witness_mboxResponse : takeLocal (withFrame forwarding answerFrame) answerFrame 7 = some (taken (withFrame forwarding answerFrame) answerFrame) ∧
    fwRuns (withFrame forwarding answerFrame) = true ∧ flag (arg (mboxWords answerFrame) 1) 1 = true ∧ forwarding.sceuf.forward = some aForward ∧
    mboxForm answerFrame = true ∧ (answerFrame.w3.toNat = aForward.mailbox ∧
    fld (arg (mboxWords answerFrame) 0) 32 32 = fld (arg aForward.req.args 2) 32 32 ∧ frmSrc answerFrame = aForward.target) ∧ up.sceuf.forward = none ∧
    takeLocal (withFrame up answerFrame) answerFrame 7 = some (taken (withFrame up answerFrame) answerFrame) := by decide +kernel
theorem witness_forwardTimeout : let m := { forwarding with clk := { t48 := 10000000 * 48 } }
    m.sceuf.forward = some aForward ∧ fwRuns m = true ∧ aForward.sentAt + 10000000 ≤ nowNs m ∧
    nowNs { forwarding with clk := { t48 := 10000000 * 48 - 1 } } < aForward.sentAt + 10000000 := by decide +kernel

/-! ## Service, health, freezing, resets, security, power, boot -/

theorem witness_service : can getHealthCmd (inMode .safe) [] ∧ can setStatsCmd up [1] ∧ can readLogsCmd up [4, 0, 168] ∧ can clearLogsCmd up [4, 1, 0] ∧
    can keepInServiceCmd up [1] ∧ can getPowerCmd up [] ∧ can setPowerCapCmd up [0] ∧ can setPowerCapCmd up [700] ∧
    can readoutCmd (inMode .frozen) [0, 0, 4032] ∧ can setSmokerCmd up [1200] ∧
    can setWindowCmd { up with sec := { scopes := 1, scopeEnd := some 9 } } [0x3FF, 1] := by decide +kernel
theorem test_setPowerCap : (after (.setPowerCap (.host 0)) (ask { up with power := { cap := 900 } } 0x0602 [0])).power.cap = 3600 ∧
    (after (.setPowerCap (.host 0)) (ask up 0x0602 [699])).power.cap = 3600 ∧
    (after (.setPowerCap (.host 0)) (ask up 0x0602 [700])).power.cap = 700 := by decide +kernel
theorem test_clearLogs : let m := { up with dev := { up.dev with eventLog := [(1, 0, 0), (2, 0, 0), (3, 0, 0)] } }
    (after (.clearLogs (.host 0)) (ask m 0x0504 [4, 1, 1])).dev.eventLog = [(1, 0, 0), (3, 0, 0)] ∧
    (after (.clearLogs (.host 0)) (ask m 0x0504 [4, 1, 0])).dev.eventLog = [(1, 0, 0)] := by decide +kernel

/-- A module long after its reset whose rehearsals of every type are enabled, each 600 s. -/
def rehearses (t : Nat) : State := { joined with
  clk := { t48 := 1201000000000 * 48 }, health := { smoker := BitVec.ofNat 64 (1 + 600 * 2 + 15 * 2 ^ 17), nextType := t }
  ports := [(3, { linkPort with rxLanes := List.replicate 8 .active ++ [.standby], txLanes := List.replicate 8 .active ++ [.standby] })] }
theorem witness_rehearsal_idle : let m := { up with health := { smoker := 0x3E1C20 } }
    smokerEn m = false ∧ rehearsalsDue { up with health := { lastRehearsal := 1 } } ≤ 1 := by decide +kernel
theorem witness_rehearsal : (∀ t, t < 4 → clocksRun (rehearses t) = true ∧ smokerEn (rehearses t) = true ∧
      (rehearses t).health.lastRehearsal < rehearsalsDue (rehearses t) ∧ nextRehearsal (rehearses t) (rehearses t).health.nextType = some t) ∧
    rehearsalSpare (rehearses 1) 1 3 0 = true ∧ rehearsalSpare (rehearses 2) 2 3 0 = true ∧ faultHandled (rehearses 0) = false ∧
    smokerActiveOnly (rehearses 0) = false ∧ rehearsalSpare (rehearses 1) 1 4 0 = false ∧
    (portOf (rehearses 1) 3).rxLanes[(2 : Fin 9).val]? = some .active := by decide +kernel
/-- Two frames of key 1 in the comb. -/
def held (id : Nat) : CFrame := { chain := [id], frame := mkFrame 4 1 0 5 5 5 0 0 0 false 0 [], ref := 1, epoch := false, owner := 640, input := 64, cls := 4, arrival := 0, colour := 0, marks := [], stomp := false }
theorem witness_injectComb : (({ up with comb := { frames := [held 3, held 8] } } : State).comb.frames.filter fun f => frmPkey f.frame == 1) = [held 3, held 8] ∧
    frameId (held 3) ≠ frameId (held 8) := by decide +kernel
theorem witness_twinLost : let m := { up with ident := { twinPresent := true }, health := { readyAt := some 5 }, clk := { t48 := 1000000005 * 48 } }
    m.health.readyAt = some 5 ∧ m.ident.twinPresent = true ∧ m.health.paired = false ∧ m.health.twinLost = false ∧ 5 + 1000000000 ≤ nowNs m ∧
    ({ m with health := { m.health with paired := true } } : State).health.paired = true ∧ nowNs { m with clk := { t48 := 1000000005 * 48 - 1 } } < 5 + 1000000000 := by decide +kernel
theorem test_health_deducts : (recomputeHealth { up with comp := { up.comp with retired := [3, 4] } }).health.score = 700 ∧
    (recomputeHealth { up with comp := { up.comp with retired := [3, 4] } }).dev.alertN = false ∧
    (recomputeHealth { up with comp := { up.comp with retired := [3, 4] } }).dev.degraded = true := by decide +kernel

/-- A frozen module that holds id 7, taken from a command with propagate set or clear. -/
def frozenBy (quiet : Bool) : State := { inMode .frozen with dev := { (inMode .frozen).dev with frozenPin := true, freezeIds := [(7, quiet)] }, ports := [(3, linkPort)] }
theorem witness_freeze : can freezeCmd linked [0x10007] ∧ 7 ∉ linked.dev.freezeIds.map (·.1) ∧ can freezeCmd { linked with dev := { linked.dev with freezeIds := [(7, true)] } } [7] ∧
    can thawCmd (frozenBy false) [7] ∧ can thawCmd (frozenBy true) [0xFFFF] ∧ (∀ h ∈ (frozenBy true).dev.freezeIds, h.2 = true) := by decide +kernel
theorem test_freeze_stops : let t := after (.freeze (.host 0)) (ask linked 0x0701 [0x10007])
    t.dev.mode = .frozen ∧ t.dev.remembered = .ready ∧ clocksRun t = false ∧ t.sbq.count (.ordered 3 codeFreeze 0x50007) = 3 := by decide +kernel
theorem test_thaw_resumes : (after (.thaw (.host 0)) (ask (frozenBy false) 0x0702 [7])).dev.mode = .ready ∧
    clocksRun (after (.thaw (.host 0)) (ask (frozenBy false) 0x0702 [7])) = true := by decide +kernel
theorem witness_freeze_sets : let rx := aSet 3 codeFreeze 0xFE00050007
    let rx2 := aSet 3 codeThaw 0xFE00050007
    (auxOn linked = true ∧ (portOf linked 3).sb = true ∧ setOk codeFreeze 0 rx = true ∧ isRepeat linked codeFreeze rx = false) ∧ fld rx.payload 32 8 < 255 ∧
    (auxOn (frozenBy false) = true ∧ (portOf (frozenBy false) 3).sb = true ∧ setOk codeThaw 0 rx2 = true ∧ isRepeat (frozenBy false) codeThaw rx2 = false) ∧
    fld rx2.payload 0 16 ≠ 0xFFFF ∧ fld rx2.payload 0 16 ∈ (frozenBy false).dev.freezeIds.map (·.1) ∧ fld rx.payload 0 16 ∉ linked.dev.freezeIds.map (·.1) := by decide +kernel
theorem witness_freezeNow : up.dev.frozenPin = false ∧ up.dev.mode ∈ [Mode.ready, .joined, .active, .fenced] ∧
    State.reset.dev.frozenPin = false ∧ State.reset.dev.mode ∈ [Mode.off, .aux, .boot, .safe] ∧ (frozenBy true).dev.frozenPin = true ∧ isFrozen (frozenBy true) = true := by
  decide +kernel
theorem witness_resume : let m := { frozenBy true with dev := { (frozenBy true).dev with freezeIds := [] } }
    isFrozen m = false ∧ m.dev.frozenPin = true ∧ m.dev.mode = .frozen ∧ m.dev.heldSets = [] ∧ (∀ e ∈ m.comb.egress, e.2.copies = []) := by decide +kernel
theorem witness_frozen_tick : (frozenBy true).dev.frozenPin = true ∧ (frozenBy true).dev.mode = .frozen ∧ (frozenBy true).pending = [] ∧
    step (frozenBy true) = .next (tick (frozenBy true)) := ⟨by decide +kernel, by decide +kernel, by decide +kernel, rfl⟩

theorem witness_resets : can (resetWarmCmd []) (inMode .joined) [0] ∧ can (resetWarmCmd []) (inMode .fenced) [0] ∧ can (resetWarmCmd []) up [0] ∧ can resetFullCmd up [1] ∧
    frontReq 0x0706 (.host 0) (ask up 0x0706 [1]) = some (req 0x0706 [1]) ∧ frontReq 0x0706 (.host 0) (ask up 0x0706 [0]) = some (req 0x0706 [0]) ∧
    up.job.launch = none ∧ up.comp.failed = [] ∧ up.su.failed = [] := by decide +kernel
theorem witness_busMaster : auxOn up = true ∧ ({ up with host := { up.host with busMaster := false } } : State).host.busMaster = false := by decide +kernel

theorem witness_fwStage : can fwStageCmd up [0, 9, 1, 2] ∧ can fwStageCmd up [29360127, 1, 5] ∧ memoriesWf up = true := by decide +kernel
theorem witness_fwActivate : can fwActivateCmd up [5] ∧ (rw (req fwActivateCmd.code [5]) 0).getLsbD 1 = false ∧ can fwActivateCmd up [7] ∧
    (rw (req fwActivateCmd.code [7]) 0).getLsbD 1 = true := by decide +kernel
theorem test_fwStage : (after (.fwStage (.host 0)) (ask up 0x0801 [0, 3, 0xA1B2C3])).sec.flash1 = [(0, 0x3C), (1, 0x4D), (2, 0x5E)] ∧
    flashBytes (after (.fwStage (.host 0)) (ask up 0x0801 [0, 3, 0xA1B2C3])) true 0 4 = [0xC3, 0xB2, 0xA1, 0xFF] := by decide +kernel
theorem witness_debug : can debugChallengeCmd up [] ∧ can debugUnlockCmd up [0, 0, 0, 0, 0, 1, 86400] ∧ unlockGood up (req debugUnlockCmd.code [0, 0, 0, 0, 0, 1, 86400]) = false ∧
    can debugLockCmd up [] := by decide +kernel
/-- An unlock request names the serial number and the nonce in force; its key and signature are judged by the open cryptography of
`Config`, on which alone its being good then rests. -/
theorem witness_debugUnlock : let m := { up with sec := { nonce := some (7, 0) } }
    let r := req debugUnlockCmd.code [0, 7, 0, 0, 0, 1, 1]
    can debugUnlockCmd m [0, 7, 0, 0, 0, 1, 1] ∧ m.sec.refusals < 8 ∧ rw r 0 = m.ident.serial ∧ nonceGood m r = true := by decide +kernel
/-- A scope and a nonce that have run out. -/
def outOfTime : State := { testScope with clk := { t48 := 60000000000 * 48, ticks := 8000000000 }, sec := { testScope.sec with nonce := some (1, 0) } }
theorem witness_expiries : let m := outOfTime
    m.sec.scopeEnd = some 1000000000 ∧ 1000000000 ≤ m.clk.ticks / 8 ∧ m.sec.nonce = some (1, 0) ∧ 0 + 60000000000 ≤ nowNs m ∧
    testScope.clk.ticks / 8 < 1000000000 ∧ nowNs testScope < 0 + 60000000000 := by decide +kernel
theorem witness_spdm : fwRuns up = true ∧ up.sceuf.forward = none ∧ (spdmEx up .doe).stage < 3 ∧
    (spdmEx { up with sec := { spdm := [{ path := .doe, stage := 3, version := 0x12, log := [] }] } } .doe).stage = 3 ∧ up.sceuf.ipv4 = none ∧
    JtagIr.extest ∈ [JtagIr.bypass, .idcode, .samplePreload, .extest] := by decide +kernel
/-- SPDM's requests that come before its last stage are open in their bytes only. -/
theorem test_jtag_private_locked : (after (.jtagInstruction (.priv 9)) up).sec.jtag = .bypass ∧
    (after (.jtagInstruction (.priv 9)) { up with sec := { scopes := 4, scopeEnd := some 9 } }).sec.jtag = .priv 9 := by decide +kernel

/-- AUX reached, MAIN_54V good. -/
def inAux : State := { State.reset with dev := { bootStage := 3, main54Good := true } }
def off : State := { State.reset with dev := { mode := .off, aux12Good := false } }
theorem witness_power : auxOn up = true ∧ auxOn off = false ∧ inAux.dev.pwrEn = false ∧ bootHeld inAux = false ∧ inAux.dev.needPwrToggle = false ∧
    2 ≤ up.dev.mode.code ∧ bootHeld { inAux with dev := { inAux.dev with pwrEn := true, main54Good := true } } = false ∧
    115 ≤ tjMax { tj0 := 0, tj1 := 0, tj2 := 0, tj3 := 0, tjFabric := 115, th := 0 } ∧ 105 ≤ (105 : Byte).toNat ∧ up.dev.stopAt = none ∧
    ({ up with dev := { up.dev with stopAt := some 0 } } : State).dev.stopAt = some 0 ∧ 0 ≤ nowNs up ∧ nowNs up < 1 := by decide +kernel
theorem test_boot_begins : (after .pwrEnAssert inAux).dev.mode = .boot ∧ (after .pwrEnAssert { inAux with dev := { inAux.dev with leakN := false } }).dev.mode = .aux := by
  decide +kernel
theorem witness_safeEntry : 2 ≤ linked.dev.mode.code ∧ linked.dev.mode ≠ .safe ∧ (portOf linked 3).sb = true ∧ linked.job.step = none ∧
    State.reset.dev.mode.code < 2 ∧ (inMode .safe).dev.mode = .safe := by decide +kernel
theorem test_safe_state : let t := after (.railFault 5) linked
    t.dev.mode = .safe ∧ t.dev.safeN = false ∧ t.dev.safetyLog.map (·.loc) = [5] ∧ unitsRun t = false := by decide +kernel

/-- Readings whose highest junction temperature is t, with the HBM at 20. -/
def reading (t : Byte) : ThermalReading := { tj0 := 20, tj1 := t, tj2 := 20, tj3 := 20, tjFabric := 20, th := 20 }
def cooling (since now : Nat) : State := { up with clk := { t48 := now * 48 }, power := { levelTherm := 5, coolSince := some since } }
theorem witness_thermal : auxOn up = true ∧ up.power.thermAt + 100000 ≤ nowNs (cooling 0 1000000) ∧ 105 ≤ tjMax (reading 105) ∧
    (tjMax (reading 104) < 105 ∧ 100 ≤ tjMax (reading 100) ∧ (reading 100).th.toNat < 95) ∧ (tjMax (reading 96) < 97 ∧ (reading 96).th.toNat < 87) ∧
    (cooling 0 1000000).power.coolSince = some 0 ∧ 0 + 1000000 ≤ nowNs (cooling 0 1000000) ∧ nowNs (cooling 5 1000000) < 5 + 1000000 ∧
    up.power.coolSince = none ∧ (97 ≤ tjMax (reading 97) ∧ tjMax (reading 99) < 100) ∧ nowNs up < up.power.thermAt + 100000 := by decide +kernel
theorem test_thermal_levels : (after (.thermalSample (reading 105)) (cooling 0 1000000)).power.levelTherm = 12 ∧
    (after (.thermalSample (reading 100)) (cooling 0 1000000)).power.levelTherm = 6 ∧ (after (.thermalSample (reading 96)) (cooling 0 1000000)).power.levelTherm = 4 ∧
    (after (.thermalSample (reading 97)) (cooling 0 1000000)).power.levelTherm = 5 := by decide +kernel
theorem witness_currentDecay : let m := { cooling 0 1000000 with power := { levelCur := 8, currentLowSince := some 0 } }
    m.power.currentLowSince = some 0 ∧ 0 < m.power.levelCur ∧ 0 + 1000000 ≤ nowNs m := by decide +kernel
/-- A module 1 ms on, with a cap of 1,000 W and n low periods. -/
def capped (n : Nat) : State := { up with clk := { t48 := 48000000 }, power := { cap := 1000, levelCap := 3, lowPeriods := n } }
theorem witness_powerCap : fwRuns (capped 0) = true ∧ (capped 0).power.capAt + 1000000 ≤ nowNs (capped 0) ∧ (capped 0).power.cap < 1001 ∧
    (1000 ≤ (capped 0).power.cap ∧ 95 * (capped 0).power.cap ≤ 100 * 950) ∧ (100 * 949 < 95 * (capped 8).power.cap ∧ (capped 8).power.lowPeriods + 1 < 10) ∧
    10 ≤ (capped 9).power.lowPeriods + 1 := by decide +kernel
theorem test_powerCap : let p := fun (w : BitVec 16) (n : Nat) => (after (.powerCapPeriod { vin := 0, iin := 0, pin := w }) (capped n)).power
    (p 1001 9).levelCap = 4 ∧ (p 1000 9).levelCap = 3 ∧ (p 950 9).lowPeriods = 0 ∧ (p 949 8).lowPeriods = 9 ∧ (p 949 9).levelCap = 2 := by decide +kernel
theorem witness_levels : levelsWithin (capped 0) = true ∧ exec .currentLimit (capped 0) = .next (after .currentLimit (capped 0)) := ⟨by decide +kernel, rfl⟩

/-- A module whose last stage was b, in AUX below 0x10 and in BOOT from there on. -/
def atStage (b : Byte) : State := { State.reset with dev := { mode := if b.toNat < 3 then .aux else .boot, bootStage := b, pwrEn := true, main54Good := true } }
def clean : StageReport := { fail := 0, cores := [], units := [], channels := [] }
theorem witness_boot : (∀ e ∈ [((0x00 : Byte), 0x01), (0x01, 0x02), (0x02, 0x03), (0x03, 0x10), (0x10, 0x11), (0x14, 0x15), (0x15, 0x16), (0x17, 0x18)],
      nextStage (atStage e.1).dev.bootStage.toNat = some e.2 ∧ stageRuns (atStage e.1) e.2 = true ∧ (atStage e.1).dev.recovery = false ∧
        isFrozen (atStage e.1) = false) ∧
    stageFail 0x10 = 1 ∧ stageFail 0x15 = 6 ∧ bootSlot (atStage 1) = some false ∧
    bootSlot { atStage 1 with sec := { shipped0 := false, shipped1 := false, base0 := false, base1 := false } } = none ∧ (atStage 2).ident.latched = false ∧
    isFrozen { atStage 0x17 with dev := { (atStage 0x17).dev with freezeNLow := true } } = true ∧
    stageRuns { atStage 0x17 with dev := { (atStage 0x17).dev with freezeNLow := true } } 0x18 = true ∧
    stageRuns { atStage 3 with dev := { (atStage 3).dev with mode := .aux } } 0x10 = false ∧ up.dev.bootStage = 0x18 := by decide +kernel
theorem test_boot_ready : (after (.bootStageComplete clean) (atStage 0x17)).dev.mode = .ready ∧
    (after (.bootStageComplete { clean with fail := 6 }) (atStage 0x14)).dev.bootFail = 6 ∧
    (after (.bootStageComplete { clean with fail := 5 }) (atStage 0x14)).dev.bootStage = 0x15 := by decide +kernel

/-! ## The switch core and memory -/

/-- Ports 3 and 4 up with key 1, and EID 7 behind port 4. -/
def fabric : State := { up with
  ports := [(3, linkPort), (4, linkPort)]
  fab := { route0 := [(7, 4 + 127 * 128)], keyIn := [(3 * 4096 + 1, true)], keyOut := [(4 * 4096 + 1, true)] } }
/-- A frame of class c and key k for EID 7, with 8 bytes of payload, as it comes. -/
def frameFor (c k : Nat) : Frame := mkFrame c k 0 1 7 6 0 0 0 false 0 [1, 2, 3, 4, 5, 6, 7, 8]
def arrives (f : Frame) : Arrival := { frame := f, fec := false }

theorem witness_arrives : (clocksRun fabric = true ∧ fabric.dev.frozenPin = false ∧ ((portOf fabric 3).rx = .up ∨ (portOf fabric 3).rx = .narrow)) ∧
    fabric.fab.mirror = [] ∧ ingressBad fabric 3 (arrives (frameFor 4 1)) = false ∧ (portOf fabric 3).mfp ≠ 1 ∧
    (frmCls (frameFor 4 1) = 7 ↔ frmPkey (frameFor 4 1) = 0) ∧ keyInBit fabric 3 1 = true ∧ fenceBit fabric 3 = false ∧
    (tblGet 0 fabric.fab.guards (3 * 8 + 4)).getLsbD 44 = false ∧ canTake fabric (8 * 3 + 4) 0 1 = true ∧
    targetsOf fabric 3 true (frameFor 4 1) = some [.queue 4] ∧
    ((80 < 4 ∨ keyOutBit fabric 4 1 = true) ∧ fenceBit fabric 4 = false ∧ fabric.dev.mode ≠ .safe ∧ (portOf fabric 4).tx ≠ .down ∧ entriesUsed fabric < 1048576) := by
  decide +kernel
theorem witness_discards : let f := frameFor 4 1
    let bad := { f with crc := f.crc + 1 }
    ingressBad fabric 3 (arrives bad) = true ∧ stomped bad = false ∧ keyInBit fabric 3 (frmPkey (frameFor 4 2)) = false ∧
    (frmCls (frameFor 7 1) = 7 ∧ frmPkey (frameFor 7 1) ≠ 0) ∧ fenceBit { fabric with fab := { fabric.fab with fence := [(3, true)] } } 3 = true ∧
    canTake { fabric with comb := { used := [(104, 131072)] } } (8 * 3 + 2) 0 1 = false ∧
    canTake { fabric with comb := { used := [(112, 131072)] } } (8 * 3 + 4) 0 1 = false ∧
    hdrmSizeOf fabric 3 < hdrmUsedAll fabric 3 + 1 ∧ ({ fabric with dev := { fabric.dev with frozenPin := true } } : State).dev.frozenPin = true := by decide +kernel
theorem test_ingress : let t := after (.frameIngress (.wire 3 (arrives (frameFor 4 1)))) fabric
    t.comb.queues = [((3 * 113 + 4) * 8 + 4, [0])] ∧ usedOf t 28 0 = 1 ∧ (t.comb.frames.map (·.ref)) = [1] := by decide +kernel
theorem test_ingress_bad : (after (.frameIngress (.wire 3 { arrives (frameFor 4 1) with fec := true })) fabric).stats =
    (count fabric .discard (3 * 128 + 4 * 16 + 9)).stats := by decide +kernel

/-- A frame that a die offers at input 64, and one of a forager at input 113, whose account of P0 is full. -/
def offers : State := { fabric with comb := { orig := [{ input := 64, owner := 512, frame := frameFor 4 1 }, { input := 113, owner := 936, frame := frameFor 4 1, who := 0 }], used := [(936 * 4, 4096)] } }
theorem witness_offers : clocksRun offers = true ∧ pickOrig offers 65 = none ∧ pickOrig offers 64 = some { input := 64, owner := 512, frame := frameFor 4 1 } ∧
    512 < 648 ∧ pickOrig offers 113 = some { input := 113, owner := 936, frame := frameFor 4 1, who := 0 } ∧ 648 ≤ 936 ∧
    canTake offers 936 0 (cellsFor (frameFor 4 1).payload.length) = false := by decide +kernel

/-- A held frame with id 1 and references, and an output that has one copy of it. -/
def heldRef (n owner : Nat) : CFrame := { chain := [1], frame := frameFor 4 1, epoch := false, ref := n, owner := owner, input := 3, cls := 4, arrival := 0, colour := 0, marks := [], stomp := false }
def aCopy (c : Option Nat) (d : Nat) : Copy := { frame := 1, circuit := c, stomp := false, doneAt := d }
def sending (o : Nat) (c : Copy) : State := { fabric with comb := { frames := [heldRef 1 936], egress := [(o, { copies := [c] })] } }
theorem witness_frameSent : (tblGet {} (sending 4 (aCopy none 1)).comb.egress 4).copies = [aCopy none 1] ∧ heldFrame (sending 4 (aCopy none 1)) 1 = some (heldRef 1 936) ∧
    clocksRun (sending 4 (aCopy none 1)) = true ∧ unitNow (sending 4 (aCopy none 1)) < (aCopy none 1).doneAt ∧ (aCopy none 0).doneAt ≤ unitNow (sending 4 (aCopy none 0)) ∧
    31 ∉ (sending 112 (aCopy none 0)).su.failed ++ (sending 112 (aCopy none 0)).su.retired ∧ frmOp (frameFor 4 1) ≠ 5 ∧ (heldRef 1 936).stomp = false := by decide +kernel
theorem witness_decRef : fabric.comb.frames = [] ∧ (sending 4 (aCopy none 0)).comb.frames.find? (fun x => frameId x == 1) = some (heldRef 1 936) ∧
    (heldRef 1 936).ref = 1 ∧ 648 ≤ (heldRef 1 936).owner ∧ 1 < (heldRef 2 936).ref := by decide +kernel
/-- One frame waits in the list of input 3, output 4, class 4. -/
def oneQueued : State := { fabric with comb := { frames := [heldRef 1 28], queues := [((3 * 113 + 4) * 8 + 4, [1])] } }
theorem witness_arbitration : clocksRun oneQueued = true ∧ oneQueued.comb.arbAt ≠ scNow oneQueued + 1 ∧ oneQueued.fab.calCur = [] ∧ oneQueued.fab.mirror = [] ∧
    oneQueued.comb.queues = [((3 * 113 + 4) * 8 + 4, [1])] ∧ heldFrame oneQueued 1 = some (heldRef 1 28) ∧ (heldRef 1 28).marks = [] ∧
    stageEmpty oneQueued 4 = true ∧ eligible oneQueued 3 4 4 = true ∧ ({ oneQueued with comb := { arbAt := 1 } } : State).comb.arbAt = scNow oneQueued + 1 := by decide +kernel
theorem test_arbitration : let t := after .egressArbitration oneQueued
    t.comb.queues = [] ∧ (tblGet {} t.comb.egress 4).copies.length = 1 ∧ tblGet 0 t.comb.gp (4 * 8 + 4) = 4 ∧ tblGet 0 t.comb.ap (3 * 8 + 4) = 5 := by decide +kernel
/-- Slot 0 of output 4 is circuit 9's, whose frame waits. -/
def slotted : State := { fabric with fab := { fabric.fab with calCur := [(4096, 0x1009)] }, comb := { frames := [heldRef 1 28], circuitQ := [(9 * 113 + 4, [1])] } }
def overrun : State := { slotted with comb := { slotted.comb with egress := [(4, { copies := [aCopy (some 9) 5, aCopy none 6] })] } }
theorem witness_calendarSlot : clocksRun slotted = true ∧ (calOf slotted 4 (scNow slotted % 1024)).getLsbD 12 = true ∧
    tblGet [] slotted.comb.circuitQ (fld (calOf slotted 4 (scNow slotted % 1024)) 0 12 * 113 + 4) = [1] ∧ outUp slotted 4 = true ∧ stageEmpty slotted 4 = true ∧
    (calOf slotted 5 (scNow slotted % 1024)).getLsbD 12 = false ∧ stageEmpty overrun 4 = false ∧
    (∃ k ∈ (tblGet {} overrun.comb.egress 4).copies, k.circuit = some 9 ∧ unitNow overrun < k.doneAt) := by decide +kernel
theorem witness_frameAged : (match popList { oneQueued with clk := { t48 := 24000 * 40 } } (.queue 3 4 4) with
      | some (id, o, u) => id = 1 ∧ o = 4 ∧ u.comb.queues = []
      | none => False) ∧ 0 + oneQueued.fab.lifetime * 1200 ≤ scNow { oneQueued with clk := { t48 := 24000 * 40 } } ∧
    scNow { oneQueued with clk := { t48 := 24000 * 40 - 1 } } < 0 + oneQueued.fab.lifetime * 1200 := by
  refine ⟨?_, by decide +kernel⟩
  exact ⟨rfl, rfl, rfl⟩

/-- Class 7 of output 63 paused at SCLK cycle 0, at a later time. -/
def paused (sc : Nat) : State := { up with clk := { t48 := 40 * sc, logic := 4 * sc }, ports := [(63, linkPort)], comb := { pauseRx := [(63, { xoff := 0x80 })], pauseTx := [(80, { xoff := 8 })] } }
theorem witness_pauseExpired : clocksRun (paused 4096) = true ∧ (portOf (paused 4096) 63).rx ≠ .sparing ∧ (tblGet {} (paused 4096).comb.pauseRx 63).xoff.getLsbD 7 = true ∧
    (portOf (paused 4096) 63).mfp = 3 ∧ (tblGet {} (paused 4096).comb.pauseRx 63).last + 4096 ≤ logicSc (paused 4096) ∧
    logicSc (paused 4095) < (tblGet {} (paused 4095).comb.pauseRx 63).last + 4096 := by decide +kernel
theorem test_pauseExpired : (tblGet {} (after (.pauseExpired 63 7) (paused 4096)).comb.pauseRx 63).xoff = 0 ∧
    (tblGet {} (after (.pauseExpired 63 7) (paused 4095)).comb.pauseRx 63).xoff = 0x80 := by decide +kernel
theorem witness_pauseRepeat : (tblGet {} (paused 1024).comb.pauseTx 80).xoff ≠ 0 ∧ (tblGet {} (paused 1024).comb.pauseTx 80).last + 1024 ≤ logicSc (paused 1024) ∧
    logicSc (paused 1023) < (tblGet {} (paused 1023).comb.pauseTx 80).last + 1024 := by decide +kernel

/-- Waiters of pool 1 and pool 0, and the time of POOL_WAIT. -/
def aWaiter (p owner : Nat) (w : WaitFor) : Waiter := { pool := p, owner := owner, what := w, since := 0 }
def waits (w : Waiter) (sc : Nat) : State := { fabric with clk := { t48 := 40 * sc }, comb := { waiters := [w] } }
theorem witness_poolGrant : let w := aWaiter 1 648 (.buffer 9 1 2)
    clocksRun (waits w 0) = true ∧ ((waits w 0).comb.waiters.filter fun w => w.pool == 1).find? (waiterOk (waits w 0)) = some w ∧ w.what = .buffer 9 1 2 ∧
      canTake (waits w 0) w.owner 1 1 = true ∧ (∀ x ∈ (waits w 0).comb.waiters, x.pool = 3 → waiterOk (waits w 0) x = false) := by decide +kernel
theorem witness_poolExpired : let w := aWaiter 1 648 (.buffer 9 1 2)
    let v := aWaiter 0 999 (.origin 113)
    let m := aWaiter 0 1000 (.origin 113)
    ((waits w 24000).comb.waiters.filter fun w => w.pool == 1).find? (fun x => decide (x.since + tblGet 20 (waits w 24000).fab.poolWait 1 * 1200 ≤ scNow (waits w 24000))) = some w ∧
    ((waits v 24000).comb.waiters.filter fun w => w.pool == 0).find? (fun x => decide (x.since + tblGet 20 (waits v 24000).fab.poolWait 0 * 1200 ≤ scNow (waits v 24000))) = some v ∧
    680 ≤ v.owner ∧ v.owner < 1000 ∧ waitingOrig (waits v 24000) 113 v.owner = none ∧ (waits v 24000).job.step = none ∧ 1000 ≤ m.owner ∧
    waitingOrig (waits m 24000) 113 m.owner = none ∧ (∀ x ∈ (waits w 23999).comb.waiters, x.pool = 1 → scNow (waits w 23999) < x.since + tblGet 20 (waits w 23999).fab.poolWait 1 * 1200) := by
  decide +kernel
theorem witness_sampling : let m := { fabric with clk := { t48 := 40960 } }
    clocksRun m = true ∧ m.comb.sampAt < scNow m / 1024 ∧ scNow fabric / 1024 ≤ fabric.comb.sampAt ∧ fabric.stats.stepMode = false ∧
    fabric.stats.start / 1000000 < nowNs { fabric with clk := { t48 := 48000000 } } / 1000000 ∧ nowNs fabric / 1000000 ≤ fabric.stats.start / 1000000 ∧ fabric.stats.stepDue = false := by
  decide +kernel

/-- Frames of operation op that wait for their target: a write, acknowledgement, read, read data, event of EID 5. -/
def forMe (c k op cfid step seq : Nat) (w3 : Word) (p : List Byte) : Frame := mkFrame c k 0 op 5 6 cfid step seq false w3 p
def aWrite : Frame := forMe 4 1 1 0 0 0 4094 [7, 8]
theorem witness_mwrite : atTarget (withFrame up aWrite) aWrite 1 ∧ writeStep (withFrame up aWrite) aWrite = .now ∧ (withFrame up aWrite).job.step = none ∧
    aWrite.w3.toNat + aWrite.payload.length ≤ hbmBytes up ∧ 0 < aWrite.payload.length ∧ aWrite.w3.toNat % 4096 + aWrite.payload.length ≤ 4096 ∧
    up.hbm.regions = [] ∧ frmSrc aWrite ≠ up.dev.eid.toNat ∧ frmAckreq aWrite = false ∧ Mem.wf up.hbm.mem = true := by
  refine ⟨⟨by decide +kernel, by decide +kernel, by decide +kernel⟩, by decide +kernel⟩
/-- Writes of step 0, 1 and 2 of key 1 while step 0 is in progress. -/
def stepWrite (n : Nat) : Frame := forMe 4 1 1 0 n 0 64 [7]
theorem witness_writeSteps : (stepOf running (frmPkey (stepWrite 0)) = some aStep ∧ frmPkey (stepWrite 0) ≠ 0) ∧ frmStep (stepWrite 1) = (aStep.seq + 1) % 65536 ∧
    (frmStep (stepWrite 2) ≠ (aStep.seq + 1) % 65536 ∧ frmStep (stepWrite 2) ≠ aStep.seq % 65536) ∧ frmStep (stepWrite 0) = aStep.seq % 65536 ∧
    writeStep running (stepWrite 1) = .held ∧ writeStep running (stepWrite 2) = .stale ∧
    addrFault up (2 ^ 42) 1 ≠ 0 := by decide +kernel
theorem test_mwrite : hbmByte (after (.mwrite aWrite) (withFrame up aWrite)) 4095 = 8 ∧ hbmByte (after (.mwrite aWrite) (withFrame up aWrite)) 4096 = 0 := by decide +kernel
def isFor (s : State) (f : Frame) (op : Nat) : Prop := atTarget (withFrame s f) f op
theorem isFor_of {s : State} {f : Frame} {op : Nat} (h : clocksRun s = true) (g : frmOp f = op) : isFor s f op := ⟨h, g, List.mem_singleton.mpr rfl⟩
theorem witness_mwack : isFor up (forMe 4 1 2 0 0 0 (319 + 5 * 2 ^ 32) []) 2 ∧ fld (319 + 5 * 2 ^ 32 : Word) 0 9 < 320 ∧ isFor up (forMe 4 1 2 0 0 0 320 []) 2 ∧
    fld (320 : Word) 0 9 = 320 ∧ isFor up (forMe 4 1 2 0 0 0 321 []) 2 ∧ 320 < fld (321 : Word) 0 9 :=
  ⟨isFor_of (by decide +kernel) (by decide +kernel), by decide +kernel, isFor_of (by decide +kernel) (by decide +kernel), by decide +kernel,
    isFor_of (by decide +kernel) (by decide +kernel), by decide +kernel⟩
def aRead (k a n : Nat) : Frame := forMe (if k = 0 then 1 else 4) k 3 0 0 9 (BitVec.ofNat 64 a) (bytesOfWords [BitVec.ofNat 64 n, 0])
theorem witness_mread : isFor up (aRead 1 64 4096) 3 ∧ isFor up (aRead 0 64 8) 3 ∧ fld (BitVec.ofNat 64 (natOfBytes ((aRead 1 64 4096).payload.take 8))) 0 32 = 4096 ∧
    64 + 4096 ≤ hbmBytes up ∧ up.hbm.errs = [] ∧ frmPkey (aRead 1 64 4096) ≠ 0 ∧ frmCls (aRead 1 64 4096) < 6 ∧ frmDtype (aRead 1 64 4096) ≠ 2 ∧
    frmPkey (aRead 0 64 8) = 0 ∧ frmCls (aRead 0 64 8) = 1 ∧ frmCfid (aRead 0 64 8) ≠ 1 ∧ addrFault up (2 ^ 42) 8 ≠ 0 :=
  ⟨isFor_of (by decide +kernel) (by decide +kernel), isFor_of (by decide +kernel) (by decide +kernel), by decide +kernel⟩
/-- Channel 7 waits for read data 9 of 4 bytes. -/
def aFRead : FRead := { seq := 9, left := 4, dst := 128, dfix := false, eid := none, cls := 1, circ := none, ack := true }
def reads : State := { up with fgr := [(7, { st := .run, reads := [aFRead], moveSince := some 0 })] }
def theData (seq : Nat) : Frame := forMe 4 1 4 0 0 seq 7 [1, 2, 3, 4]
theorem witness_mrdata : isFor reads (theData 9) 4 ∧ (chanOf reads 7).reads = [aFRead] ∧ aFRead.seq = frmSeq (theData 9) ∧ aFRead.left = (theData 9).payload.length ∧
    isFor reads (theData 8) 4 ∧ (∀ r ∈ (chanOf reads 7).reads, r.seq ≠ frmSeq (theData 8)) :=
  ⟨isFor_of (by decide +kernel) (by decide +kernel), by decide +kernel, by decide +kernel, by decide +kernel, isFor_of (by decide +kernel) (by decide +kernel), by decide +kernel⟩
def anEvent (n : Word) : Frame := forMe 4 1 6 0 0 0 0 (bytesOfWords [n])
theorem witness_event : isFor up (anEvent 15) 6 ∧ 0 < fld (BitVec.ofNat 64 (natOfBytes ((anEvent 15).payload.take 8))) 0 4 ∧ isFor up (anEvent 16) 6 ∧
    fld (BitVec.ofNat 64 (natOfBytes ((anEvent 16).payload.take 8))) 0 4 = 0 :=
  ⟨isFor_of (by decide +kernel) (by decide +kernel), by decide +kernel, isFor_of (by decide +kernel) (by decide +kernel), by decide +kernel⟩
theorem test_event : (queenOf (after (.event (anEvent 15)) (withFrame up (anEvent 15))) 31).evt = 0x8000 := by decide +kernel

/-- A FULL region of one page under key 1, in step 0. -/
def shadowed : State := { running with hbm := { undef := false, regions := [(0, aRegion)], mem := [(4100, 9)] } }
theorem witness_shadow : shadowed.hbm.regions = [(0, aRegion)] ∧ rgValid aRegion = true ∧ rgAppend aRegion = false ∧ rgBase aRegion ≤ 8190 ∧
    8190 + 2 ≤ rgBase aRegion + rgLen aRegion ∧ rgLen aRegion % rgPage aRegion = 0 ∧ rgBase aRegion % rgPage aRegion = 0 ∧ rgLen aRegion / rgPage aRegion ≤ 2 ^ 20 ∧
    8190 % 4096 + 2 ≤ 4096 ∧ rgBase aRegion + rgLen aRegion ≤ rgShadow aRegion ∧ (stepOf shadowed (rgKey aRegion)).isSome = true ∧
    tblGet false shadowed.hbm.dirty (pageKey 0 ((8190 - rgBase aRegion) / rgPage aRegion)) = false ∧ dirtyOnDie shadowed (8190 / dieBytes shadowed) < 65536 ∧
    Mem.wf shadowed.hbm.mem = true ∧ tblWf false shadowed.hbm.sel = true ∧ tblWf false shadowed.hbm.dirty = true := by decide +kernel
theorem test_shadow : let t := hbmWriteBlock shadowed 4100 [7]
    hbmByte t 4100 = 7 ∧ hbmByte (regionsEnd t 1 false) 4100 = 9 ∧ hbmByte (regionsEnd t 1 true) 4100 = 7 ∧ memByte t.hbm.mem 8196 = 7 := by decide +kernel

/-- A word with a single-bit or a double-bit error. -/
def withErr (d : Bool) : State := { up with hbm := { undef := false, mem := [(64, 5)], errs := [(64, some d)] } }
theorem witness_hbmErrors : (withErr false).hbm.regions = [] ∧ 64 % 8 = 0 ∧ tblGet none (withErr false).hbm.errs 64 = some false ∧ tblGet none (withErr true).hbm.errs 64 = some true ∧
    clocksRun up = true ∧ up.hbm.undef = false ∧ up.hbm.scrubAt ≤ nowNs up / 86400000000000 ∧ up.hbm.errs = [] ∧
    nowNs up / 86400000000000 < ({ up with hbm := { undef := false, scrubAt := 1 } } : State).hbm.scrubAt ∧
    15 * 64 + 63 ∈ ({ up with hbm := { undef := false, copying := [1023] } } : State).hbm.copying ∧ 15 * 64 + 63 ∉ up.hbm.copying := by decide +kernel
theorem test_hbm_sbe : (hbmRead (withErr false) 64 8).1 = some [5, 0, 0, 0, 0, 0, 0, 0] ∧ (hbmRead (withErr true) 64 8).1 = none := by decide +kernel

/-! ## Steps, votes, records, bundles -/

/-- The state with another step 0 of key 1 in progress. -/
def atStep (st : Step) : State := { running with job := { launch := some aLaunch, step := some st } }
/-- A module of two ranks whose commit rank is the other one, EID 6. -/
def member (st : Step) : State := { atStep st with fab := { rankmap := [(0, 0x10005), (1, 0x10006)], windows := [(1, 0x80010000)] } }
def aPoison (key step cause : Nat) : SetRx := aSet 3 codePoison (poisonPayload key step cause)
def onSideband (s : State) : State := { s with ports := [(3, linkPort)] }
/-- A module that waits for step 7 after committing step 6. -/
def laterStep : State := onSideband { running with job := { launch := some aLaunch, step := some { seq := 7, startL := 0 }, lastCommit := some (1, 6) } }
def frozenMod : State := onSideband { inMode .frozen with dev := { (inMode .frozen).dev with frozenPin := true } }

theorem witness_raisePoison : running.job.launch = some aLaunch ∧ running.job.step = some aStep ∧ running.health.rehearsing = none ∧
    ((atStep { aStep with committing := true }).job.step = some { aStep with committing := true }) ∧
    isCommitRank (member { aStep with voted := true }) aLaunch.pkey = false ∧ isCommitRank running aLaunch.pkey = true ∧
    aStep.committing = false ∧ aStep.voted = false ∧ 1 % 128 ≠ 19 ∧ aStep.poisoned = none ∧ aStep.attempt + 1 < 8 ∧
    (atStep { aStep with attempt := 7 }).job.step = some { aStep with attempt := 7 } ∧ 8 ≤ 7 + 1 ∧ running.dev.mode = .active ∧ aLaunch.test = false ∧
    (atStep { aStep with poisoned := some (0, 1) }).job.step.any (fun x => x.poisoned.isSome) = true ∧ (19 + 128) % 128 = 19 := by decide +kernel
theorem witness_poisonSet : setFresh (onSideband running) codePoison 0xF000 (aPoison 1 0 1) ∧ clocksHeld (onSideband running) = false ∧
    (onSideband running).job.launch = some aLaunch ∧ fld (aPoison 1 0 1).payload 0 12 = aLaunch.pkey ∧ (onSideband running).job.step = some aStep ∧
    aStep.seq % 65536 = fld (aPoison 1 0 1).payload 16 16 ∧ setFresh (onSideband running) codePoison 0xF000 (aPoison 2 0 1) ∧
    fld (aPoison 2 0 1).payload 0 12 ≠ aLaunch.pkey ∧ setFresh frozenMod codePoison 0xF000 (aPoison 1 0 1) ∧ clocksHeld frozenMod = true ∧
    setFresh linked codePoison 0xF000 (aPoison 1 0 1) ∧ clocksHeld linked = false ∧ linked.job.launch = none :=
  ⟨by unfold setFresh; decide +kernel, by decide +kernel, by decide +kernel, by decide +kernel, by decide +kernel, by decide +kernel,
    by unfold setFresh; decide +kernel, by decide +kernel, by unfold setFresh; decide +kernel, by decide +kernel, by unfold setFresh; decide +kernel,
    by decide +kernel, by decide +kernel⟩
theorem witness_poisonSet_late : setFresh laterStep codePoison 0xF000 (aPoison 1 6 1) ∧ setFresh laterStep codePoison 0xF000 (aPoison 1 8 1) ∧
    clocksHeld laterStep = false ∧ laterStep.job.lastCommit = some (1, 6) ∧ (6 + 65536 - 6) % 65536 < 32768 ∧ 32768 ≤ (6 + 65536 - 8) % 65536 :=
  ⟨by unfold setFresh; decide +kernel, by unfold setFresh; decide +kernel, by decide +kernel⟩
theorem test_poison : let t := after (.poison (aPoison 1 0 0x81)) (onSideband running)
    (t.job.step.map (·.attempt)) = some 1 ∧ (t.job.step.bind (·.poisoned)) = some (0, 0x81) := by decide +kernel
theorem test_poison_late : (after (.poison (aPoison 1 6 1)) laterStep).stats = (count laterStep .poisonLate).stats ∧
    (after (.poison (aPoison 1 8 1)) laterStep).stats = (count laterStep .poisonStale).stats := by decide +kernel

/-- A launch whose only cluster has ended, in a step authorised to commit. -/
def readyToVote : Step := { aStep with authorised := true }
def ended (s : State) : State := { s with comp := { queens := [(0, { st := .ended })] } }
/-- A digest of kind k from a rank, with outcome o, epoch e and, at bit 6, INVALID. -/
def aDigest (k o inv rank epoch : Nat) (full : Word) : List Byte :=
  bytesOfWords [packW [(0, 4, k), (4, 2, o), (6, 1, inv), (8, 12, 1), (20, 15, rank)], full, 0, packW [(0, 32, 7), (32, 32, epoch)]]
def aVote (o rank epoch : Nat) : Frame := mkFrame 7 0 0 8 5 6 0 0 0 false 0 (aDigest 2 o 0 rank epoch 0)
def aRelease (o : Nat) : Frame := mkFrame 6 1 2 8 0 6 0 0 0 false 0 (aDigest 3 o 0 0 0 0)
/-- The commit rank of two ranks, with epoch 1. -/
def chair : State := { running with
  dev := { running.dev with epoch := 1 }
  fab := { rankmap := [(0, 0x10005), (1, 0x10006)], windows := [(1, 0x10000)] } }

theorem witness_voteSend : (ended (atStep readyToVote)).job.step = some readyToVote ∧ unitsRun (ended (atStep readyToVote)) = true ∧ attemptOpen readyToVote = true ∧
    voteReady (ended (atStep readyToVote)) aLaunch readyToVote = true ∧ isCommitRank (ended (atStep readyToVote)) aLaunch.pkey = true ∧
    isCommitRank (ended (member readyToVote)) aLaunch.pkey = false ∧ rankEid (ended (member readyToVote)) aLaunch.pkey (commitRank (ended (member readyToVote)) aLaunch.pkey) = some 6 ∧
    attemptOpen { aStep with voted := true } = false ∧ aStep.fail = none ∧ voteReady running aLaunch aStep = false ∧
    myRank (ended (atStep readyToVote)) aLaunch.pkey = some 0 := by decide +kernel
/-- A member whose rank map names no commit rank. -/
def unranked : State := { ended (member readyToVote) with fab := {} }
theorem test_voteSend_unranked : rankEid unranked aLaunch.pkey (commitRank unranked aLaunch.pkey) = none ∧ unitsRun unranked = true ∧
    voteReady unranked aLaunch readyToVote = true ∧
    ((after .voteSend unranked).host.cmplHeld.map fun r => natOfBytes (r.take 3) % 2 ^ 20) = [0x42] := by decide +kernel
theorem witness_vote : atTarget (withFrame chair (aVote 0 1 1)) (aVote 0 1 1) 8 ∧ atTarget (withFrame chair (aVote 0 1 0)) (aVote 0 1 0) 8 ∧
    (fld (digestWord (aVote 0 1 1) 0) 0 4 = 2 ∧ fld (digestWord (aVote 0 1 1) 0) 8 12 = aLaunch.pkey ∧ isCommitRank chair aLaunch.pkey = true ∧
      (aVote 0 1 1).w3 = BitVec.ofNat 64 aStep.seq ∧ fld (digestWord (aVote 0 1 1) 3) 0 32 = aLaunch.id.toNat ∧
      chair.dev.epoch.toNat ≤ fld (digestWord (aVote 0 1 1) 3) 32 32 ∧ fld (digestWord (aVote 0 1 0) 3) 32 32 < chair.dev.epoch.toNat) :=
  ⟨at_hand (by decide +kernel) (by decide +kernel), at_hand (by decide +kernel) (by decide +kernel), by decide +kernel⟩
def okVote (rank : Nat) : Vote := { rank := rank, fail := false, invalid := true, det := false, status := 0, replica := 0 }
theorem witness_takeVote : rankCount chair aLaunch.pkey ≤ (okVote 2).rank ∧ ¬rankCount chair aLaunch.pkey ≤ (okVote 1).rank ∧ replEn chair aLaunch.pkey = false ∧
    (∃ r, r < rankCount chair aLaunch.pkey ∧ ∀ x ∈ chair.job.votes ++ [okVote 1], x.rank ≠ r) ∧
    (∀ r, r < rankCount running aLaunch.pkey → ∃ x ∈ running.job.votes ++ [okVote 0], x.rank = r) ∧ (okVote 0).rank < rankCount running aLaunch.pkey := by decide +kernel
def votedMember : State := member { aStep with voted := true }
theorem witness_release : atTarget (withFrame votedMember (aRelease 0)) (aRelease 0) 8 ∧ atTarget (withFrame (member aStep) (aRelease 0)) (aRelease 0) 8 ∧
    (fld (digestWord (aRelease 0) 0) 0 4 = 3 ∧ frmSrc (aRelease 0) ≠ votedMember.dev.eid.toNat ∧ votedMember.dev.mode ≠ .safe ∧
      fld (digestWord (aRelease 0) 0) 8 12 = aLaunch.pkey ∧ (aRelease 0).w3 = BitVec.ofNat 64 aStep.seq ∧ fld (digestWord (aRelease 0) 3) 0 32 = aLaunch.id.toNat) :=
  ⟨at_hand (by decide +kernel) (by decide +kernel), at_hand (by decide +kernel) (by decide +kernel), by decide +kernel⟩
theorem test_voteSend : let t := after .voteSend (ended (atStep readyToVote))
    (t.job.step.map (·.committing)) = some true ∧ t.job.lastCommit = some (1, 0) ∧ t.host.cmplHeld.length = 1 := by decide +kernel
theorem test_release_trap : let t := after (.release (aRelease 2)) (withFrame votedMember (aRelease 2))
    t.job.launch = none ∧ t.dev.mode = .joined ∧ (t.host.cmplHeld.map fun r => (r.headD 0) % 16) = [1] := by decide +kernel

/-- A paired module at its twin digest. -/
def pairedAt (l : Launch) (st : Step) : State := { running with job := { launch := some l, step := some st }, health := { paired := true } }
def safeLaunch : Launch := { aLaunch with safety := true, det := true }
def sentDigest : Step := { aStep with twinSent := some 0 }
def aTwin (full : Word) : Frame := mkFrame 7 0 3 8 31 6 0 0 0 false 0 (aDigest 1 0 0 0 0 full)
def later (s : State) (ns : Nat) : State := { s with clk := { t48 := 48 * ns, logic := (24 * ns + 4) / 5 } }
theorem witness_twinSend : unitsRun (ended (pairedAt safeLaunch aStep)) = true ∧ (ended (pairedAt safeLaunch aStep)).health.paired = true ∧ attemptOpen aStep = true ∧
    aStep.fail = none ∧ aStep.twinSent = none ∧ workDone (ended (pairedAt safeLaunch aStep)) safeLaunch = true ∧ aStep.twinRx = none ∧
    workDone (pairedAt safeLaunch aStep) safeLaunch = false := by decide +kernel
theorem witness_twin : atTarget (withFrame (pairedAt aLaunch aStep) (aTwin 0)) (aTwin 0) 8 ∧ atTarget (withFrame (pairedAt aLaunch sentDigest) (aTwin 0)) (aTwin 0) 8 ∧
    atTarget (withFrame (pairedAt aLaunch sentDigest) (aTwin 1)) (aTwin 1) 8 ∧
    (fld (digestWord (aTwin 0) 0) 0 4 = 1 ∧ digestWord (aTwin 0) 1 = fullDigest aLaunch sentDigest ∧ (aTwin 0).w3 = BitVec.ofNat 64 sentDigest.seq ∧
      fld (digestWord (aTwin 0) 3) 0 32 = aLaunch.id.toNat ∧ digestWord (aTwin 1) 1 ≠ fullDigest aLaunch sentDigest ∧ aLaunch.safety = false) :=
  ⟨at_hand (by decide +kernel) (by decide +kernel), at_hand (by decide +kernel) (by decide +kernel), at_hand (by decide +kernel) (by decide +kernel), by decide +kernel⟩
def lateTwin (n : Nat) : State := { later (pairedAt safeLaunch sentDigest) 10000 with health := { paired := true, twinTimeouts := n } }
theorem witness_digestTimeout : unitsRun (lateTwin 1) = true ∧ (lateTwin 1).health.paired = true ∧ sentDigest.twinSent = some 0 ∧ safeLaunch.safety = true ∧ attemptOpen sentDigest = true ∧
    sentDigest.twinRx = none ∧ 0 + 10000 ≤ logicNs (lateTwin 1) ∧ (lateTwin 1).health.twinTimeouts + 1 < 3 ∧ 3 ≤ (lateTwin 2).health.twinTimeouts + 1 ∧
    logicNs (later (pairedAt safeLaunch sentDigest) 9999) < 0 + 10000 := by decide +kernel
theorem test_digestTimeout : (after .digestTimeout (lateTwin 2)).health.paired = false ∧ (after .digestTimeout (lateTwin 1)).health.paired = true := by decide +kernel

/-- A committed step whose records are held, with a queen at STEPB. -/
def committed (s : State) : State := { s with job := { s.job with step := some { aStep with committing := true } }, comp := { queens := [(0, { st := .held })], slots := [(0, some endSlot)] } }
def stopping : State := let s := committed running; { s with job := { s.job with stopRun := true } }
def fullRing : State := { committed running with host := { cmplHeld := [List.replicate 128 0], clog := 7 } }
theorem witness_commitComplete : unitsRun (committed running) = true ∧ (committed running).job.step = some { aStep with committing := true } ∧ (committed running).job.jobOver = false ∧
    recordsFit (committed running) = true ∧ recordsFit fullRing = false ∧ fullRing.job.launch = some aLaunch ∧ stopping.job.stopRun = true ∧
    (committed running).job.stopRun = false ∧ clustersEnded (committed running) aLaunch = false ∧ (committed running).job.membershipNext = false ∧ (committed running).job.chargeNext = none ∧
    aLaunch.cmask.getLsbD 0 = true ∧ clusterPresent (committed running) 0 = true ∧ (queenOf (committed running) 0).st = .held := by decide +kernel
theorem test_commitComplete : let t := after .commitComplete (committed running)
    (t.job.step.map (·.seq)) = some 1 ∧ (queenOf t 0).st = .run ∧ (queenOf t 0).pc = 1 := by decide +kernel
theorem witness_stepWatchdog : unitsRun (later running 100000) = true ∧ attemptOpen aStep = true ∧ aStep.startL + aLaunch.stepLimit * 1000 ≤ logicNs (later running 100000) ∧
    logicNs (later running 99999) < aStep.startL + aLaunch.stepLimit * 1000 ∧ safeLaunch.safety = true ∧ aStep.startL + 1000000 ≤ logicNs (later running 1000000) ∧
    (fun l : Launch => if l.safety then 1000000 else l.stepLimit * 1000) { aLaunch with stepLimit := 0 } = 0 := by decide +kernel
/-- A step poisoned at time 0, whose queen has a checkpoint. -/
def ckptAt : QCkpt := { pc := 3, loops := [], lc := [0, 0, 0, 0], evt := 5, sem := [(1, 2)], vctrl := [], s := [], cx := [], rot := [] }
def poisonedAt (ns : Nat) : State := { later (atStep { aStep with poisoned := some (0, 1), attempt := 1 }) ns with comp := { queens := [(0, { st := .run, pc := 9, ckpt := some ckptAt })] } }
theorem witness_replayStart : unitsRun (poisonedAt 20000) = true ∧ (poisonedAt 20000).job.step = some { aStep with poisoned := some (0, 1), attempt := 1 } ∧
    0 + 20000 ≤ logicNs (poisonedAt 20000) ∧ (poisonedAt 20000).comp.failed = [] ∧ (poisonedAt 20000).su.failed = [] ∧
    tblGet none (poisonedAt 20000).comp.slots aLaunch.slot = none ∧ clusterPresent (poisonedAt 20000) 0 = true ∧ (queenOf (poisonedAt 20000) 0).ckpt = some ckptAt ∧
    logicNs (poisonedAt 19999) < 0 + 20000 := by decide +kernel
theorem witness_launchComplete : let s := { running with job := { running.job with jobOver := true } }
    unitsRun s = true ∧ s.job.jobOver = true ∧ s.dev.mode = .active ∧ running.job.jobOver = false := by decide +kernel

/-- Records held, in rings of 256 and 512 bytes. -/
def aToken : TokenRec := { sample := 1, launchId := 7, s := 1, time := 0 }
def tokenRing (wptr : Word) : State := { up with host := { tokenHeld := [aToken], tlog := 8, tokenWptr := wptr } }
def cmplRing (n : Nat) (wptr rptr : Word) : State := { up with host := { cmplHeld := [List.replicate n 0], clog := 9, cmplWptr := wptr, cmplRptr := rptr } }
theorem witness_tokenRecord : (tokenRing 192).host.tokenHeld = [aToken] ∧ ringsRun (tokenRing 192) = true ∧
    ((tokenRing 192).host.tokenWptr - (tokenRing 192).host.tokenRptr).toNat % 2 ^ 8 + 64 ≤ 2 ^ 8 ∧
    2 ^ 8 < ((tokenRing 224).host.tokenWptr - (tokenRing 224).host.tokenRptr).toNat % 2 ^ 8 + 64 ∧ up.host.tokenHeld = [] ∧ up.host.cmplHeld = [] := by decide +kernel
theorem witness_completionRecord : ringsRun (cmplRing 128 256 0) = true ∧ (256 + 128 ≤ 2 ^ 9 ∧ 256 + 128 + 128 ≤ 2 ^ 9) ∧
    (2 ^ 9 < (cmplRing 256 384 384).host.cmplWptr.toNat % 2 ^ 9 + 256 ∧ 0 + (2 ^ 9 - 384) + 256 + 128 ≤ 2 ^ 9) ∧
    2 ^ 9 < ((cmplRing 128 384 0).host.cmplWptr - (cmplRing 128 384 0).host.cmplRptr).toNat % 2 ^ 9 + 128 + 128 := by decide +kernel
theorem test_completion_pad : (after .completionRecord (cmplRing 256 384 384)).host.cmplWptr = 256 ∧ (after .completionRecord (cmplRing 128 384 0)).out = [] := by decide +kernel

/-- A bundle whose slot k is `slot`, for core 0; and the module that runs cluster 0 on bundles. -/
def bundleWith (k slot : Nat) : Nat := 1 + slot * 2 ^ (16 + 48 * k)
def runs (b : Nat) : State := { running with comp := {
  queens := [(0, { st := .run })]
  slots := [(0, some { endSlot with bundles := [BitVec.ofNat 256 b, endBundle] })] } }
def issued (k b : Nat) : Issue := { q := 0, launch := aLaunch, pc := 0, slot := slotOf (BitVec.ofNat 256 b) k }
/-- VLD and EVCLR in one bundle. -/
def twoSlots : Nat := bundleWith 1 (1 + 3 * 2 ^ 6) + 4 * 2 ^ 16
theorem witness_issueAt : (runs twoSlots).job.launch = some aLaunch ∧ bundleNop (bundleOf (runs twoSlots) aLaunch 0).1 = false ∧ queenIssues (runs twoSlots) aLaunch 0 = true ∧
    opOf (slotOf (BitVec.ofNat 256 twoSlots) 1) = 1 ∧ (∀ j ∈ slotsBefore (BitVec.ofNat 256 twoSlots) 1, slotDone (BitVec.ofNat 256 twoSlots) 0 j = true) ∧
    (∃ j ∈ slotsBefore (BitVec.ofNat 256 twoSlots) 0, slotDone (BitVec.ofNat 256 twoSlots) 0 j = false) ∧ queenIssues running aLaunch 0 = false := by decide +kernel
theorem witness_coreRows : (Instr.vld 0, 1, 1, vldCore) ∈ coreRows 0 ∧ issueAt (runs twoSlots) 0 1 1 = some (runs twoSlots, issued 1 twoSlots) ∧
    bundleMask (runs twoSlots) aLaunch 0 = [0] ∧ issueAt (runs twoSlots) 0 0 4 = none := by
  refine ⟨?_, by decide +kernel⟩
  unfold coreRows
  exact List.mem_append_right _ (List.mem_cons_self ..)
theorem witness_runCores : (valueOf (vldCore (runs twoSlots) (issued 1 twoSlots) 0 {})).isSome = true ∧
    errorOf (vldCore (runs twoSlots) (issued 1 twoSlots) 0 { s := [(0, { word := 2 ^ 25 })] }) = some (stopAt (runs twoSlots) (progFault (issued 1 twoSlots) 0)) := by decide +kernel
/-- The innermost of two loops whose last bundle is 4. -/
def aLoop : QLoop := { start := 1, last := 4, x := false, ev := 0 }
theorem witness_nextPc : aLoop.last = 4 ∧ 1 < (([2] : List (BitVec 32)).getD 0 0).toNat ∧ aLoop.x = false ∧ (([1] : List (BitVec 32)).getD 0 0).toNat ≤ 1 ∧ aLoop.last ≠ 3 ∧
    ({ aLoop with x := true, ev := 15 } : QLoop).x = true ∧ flag (0x8000 : BitVec 16) 15 = true := by decide +kernel
theorem test_nextPc : nextPc 4 0 [2, 1, 0, 0] [aLoop, aLoop] = (2, [aLoop], [1, 0, 0, 0]) ∧ nextPc 4 0 [1, 0, 0, 0] [aLoop] = (5, [], [0, 0, 0, 0]) := by decide +kernel
theorem witness_slotEnds : (∃ j, j < 5 ∧ slotDone (bundleOf (runs twoSlots) aLaunch 0).1 (setFlag (0 : BitVec 5) 1 true) j = false) ∧
    (∀ j, j < 5 → slotDone (bundleOf (runs (bundleWith 1 1)) aLaunch 0).1 (setFlag (0 : BitVec 5) 1 true) j = true) := by decide +kernel
theorem test_bundle : let t := after (.vld 0) (runs twoSlots)
    (queenOf t 0).done = 2 ∧ (queenOf t 0).pc = 0 ∧ (queenOf (after (.evclr 0) t) 0).pc = 1 := by decide +kernel

/-- CONTROL slots: LOOP of P 1, its last bundle 0; WAIT and SIGNAL of SEM 63 by 255; and the others. -/
def control (slot : Nat) : State := runs (1 + slot * 2 ^ 16)
def loopSlot (x : Nat) : Nat := 1 + 1 * 2 ^ 8 + x * 2 ^ 25 + 3 * 2 ^ 26
def semSlot (op : Nat) : Nat := op + 63 * 2 ^ 6 + 255 * 2 ^ 12
def withP (s : State) (v : Word) : State := { s with comp := { s.comp with p := [(1, v)] } }
def withSem (s : State) (v : Nat) (w : Option Nat) : State := { s with comp := { s.comp with queens := [(0, { st := .run, sem := [(63, v)], waitSince := w })] } }
def slotIssue (slot : Nat) : Issue := { q := 0, launch := aLaunch, pc := 0, slot := slot }
theorem witness_loop : issueAt (withP (control (loopSlot 0)) 2) 0 0 1 = some (withP (control (loopSlot 0)) 2, slotIssue (loopSlot 0)) ∧
    issueAt (withP (control (loopSlot 0)) (2 ^ 32)) 0 0 1 = some (withP (control (loopSlot 0)) (2 ^ 32), slotIssue (loopSlot 0)) ∧
    issueAt (control (loopSlot 0)) 0 0 1 = some (control (loopSlot 0), slotIssue (loopSlot 0)) ∧
    pReg (withP (control (loopSlot 0)) 2) (sf (slotIssue (loopSlot 0)) 8 6) = 2 ∧ pReg (control (loopSlot 0)) (sf (slotIssue (loopSlot 0)) 8 6) = 0 ∧
    sf (slotIssue (loopSlot 0)) 25 1 = 0 ∧ sf (slotIssue (loopSlot 1)) 25 1 = 1 ∧ flag (8 : BitVec 16) (sf (slotIssue (loopSlot 1)) 26 4) = true := by decide +kernel
theorem witness_wait : issueAt (withSem (control (semSlot 2)) 255 none) 0 0 2 = some (withSem (control (semSlot 2)) 255 none, slotIssue (semSlot 2)) ∧
    issueAt (withSem (control (semSlot 2)) 254 none) 0 0 2 = some (withSem (control (semSlot 2)) 254 none, slotIssue (semSlot 2)) ∧
    issueAt (withSem (control (semSlot 2)) 255 (some 0)) 0 0 2 = some (withSem (control (semSlot 2)) 255 (some 0), slotIssue (semSlot 2)) ∧
    sf (slotIssue (semSlot 2)) 12 8 = 255 ∧ sf (slotIssue (semSlot 2)) 6 6 = 63 := by decide +kernel
theorem witness_signal : issueAt (withSem (control (semSlot 3)) 65280 none) 0 0 3 = some (withSem (control (semSlot 3)) 65280 none, slotIssue (semSlot 3)) ∧
    issueAt (withSem (control (semSlot 3)) 65281 none) 0 0 3 = some (withSem (control (semSlot 3)) 65281 none, slotIssue (semSlot 3)) ∧
    65280 + 255 ≤ 65535 ∧ 65535 < 65281 + 255 := by decide +kernel
theorem witness_control : (∀ op ∈ [4, 5, 6, 7], issueAt (control (op + 15 * 2 ^ 6)) 0 0 op = some (control (op + 15 * 2 ^ 6), slotIssue (op + 15 * 2 ^ 6))) := by decide +kernel
theorem witness_waitTimeout : let s := later (withSem (control (semSlot 2)) 0 (some 0)) 50001
    s.job.launch = some aLaunch ∧ unitsRun s = true ∧ stepRuns s = true ∧ aLaunch.cmask.getLsbD 0 = true ∧ (queenOf s 0).waitSince = some 0 ∧
    0 + aLaunch.waitLimit < logicNs s ∧ logicNs (later s 50000) ≤ 0 + aLaunch.waitLimit := by decide +kernel
theorem test_wait : tblGet 0 (queenOf (after (.wait 0) (withSem (control (semSlot 2)) 255 none)) 0).sem 63 = 0 ∧
    (queenOf (after (.wait 0) (withSem (control (semSlot 2)) 254 none)) 0).waitSince = some 0 := by decide +kernel
theorem test_loop : (queenOf (after (.loop 0) (withP (control (loopSlot 0)) 2)) 0).loops = [{ start := 0, last := 0, x := false, ev := 3 }] ∧
    (queenOf (after (.loop 0) (withP (control (loopSlot 0)) 2)) 0).lc = [2, 0, 0, 0] ∧
    (queenOf (after (.loop 0) (control (loopSlot 0))) 0).pc = 1 := by decide +kernel

/-- Core 0 with a stream 2 of a space, at a base, and stream 3 in the local store; V1 is 5. -/
def aStream (space base : Nat) (fixed : Bool) : SDesc := { word := BitVec.ofNat 192 (base + space * 2 ^ 24 + fixed.toNat * 2 ^ 26 + 2 ^ 64 * 256 + 2 ^ 112 * 3), pos := 2 }
def withStreams (b space base : Nat) : State := let s := runs b
  { s with comp := { s.comp with
    cores := [(0, { s := [(2, aStream space base true), (3, aStream 0 0 true)], v := [(1, 5)] })], p := [(4, 2 ^ 24 - 1), (5, 7), (6, 8), (7, 9)] } }
/-- VLD V1, s2; VST V1, s2; CLD s2, s3. -/
def vldB : Nat := bundleWith 1 (1 + 1 * 2 ^ 6 + 2 * 2 ^ 11)
def vstB : Nat := bundleWith 1 (2 + 1 * 2 ^ 6 + 2 * 2 ^ 11)
def cldB : Nat := bundleWith 1 (3 + 2 * 2 ^ 6 + 3 * 2 ^ 10)
/-- SLD s2, P4; ADVANCE s2, P4; CXSET c3, P4; CXADV c3, P4. -/
def moveB (op k lo : Nat) : Nat := bundleWith 4 (op + k * 2 ^ 6 + 4 * 2 ^ lo)
theorem witness_loads : (∀ x ∈ [(0, 196352), (1, 4194048), (0, 196353), (2, 0)],
      slotOnCore (withStreams vldB x.1 x.2) 0 1 1 (withStreams vldB x.1 x.2) (issued 1 vldB) 0 ∧ sdSpace (strOf (coreBefore (withStreams vldB x.1 x.2) 0 0) 2) = x.1) ∧
    (sdBase (aStream 0 196352 true) + 256 ≤ 196608 ∧ 196608 < sdBase (aStream 0 196353 true) + 256 ∧ sdBase (aStream 1 4194048 true) + 256 ≤ 4194304 ∧ 1 < sdSpace (aStream 2 0 true)) ∧
    (∀ x ∈ [(0, 196352), (1, 0)], slotOnCore (withStreams vstB x.1 x.2) 0 1 2 (withStreams vstB x.1 x.2) (issued 1 vstB) 0) := by
  unfold slotOnCore; decide +kernel
theorem witness_cld : slotOnCore (withStreams cldB 1 4193280) 0 1 3 (withStreams cldB 1 4193280) (issued 1 cldB) 0 ∧ sdSpace (aStream 1 4193280 true) = 1 ∧
    (element (aStream 1 4193280 true) 0).1 + 1024 ≤ 4194304 ∧ (element (aStream 0 0 true) 0).1 + 1024 ≤ 196608 ∧ sdVtype (aStream 1 4193280 true) ≤ 5 := by
  unfold slotOnCore; decide +kernel
theorem witness_moves : (∀ x ∈ [(1, 2, 10), (2, 2, 10), (8, 3, 8), (9, 3, 8)], let b := moveB x.1 x.2.1 x.2.2
    slotOnCore (withStreams b 0 2) 0 4 x.1 (withStreams b 0 2) (issued 4 b) 0) := by unfold slotOnCore; decide +kernel
theorem test_loads : memRead (after (.vst 0) (withStreams vstB 0 64)).comp.ls 64 2 = [5, 0] ∧
    (strOf (coreOf (after (.vst 0) (withStreams vstB 0 64)) 0) 2).pos = 0 ∧
    ((after (.vld 0) (withStreams vldB 0 196353)).job.step.bind (·.fail)) = some { status := 4, ecause := 2 } := by decide +kernel
theorem test_moves : sdBase (strOf (coreOf (after (.advance 0) (withStreams (moveB 2 2 10) 0 2)) 0) 2) = 1 ∧
    (cxOf (coreOf (after (.cxset 0) (withStreams (moveB 8 3 8) 0 2)) 0) 3).word = ofWords 256 [2 ^ 24 - 1, 7, 8, 9] := by decide +kernel

/-! ## VECTOR, MOVE and ENGINE slots, number formats, upkeep -/

/-- A VECTOR bundle: V1 from V2, V3 and V4, with a type, a variant and a second type, context 1. -/
def vecB (op ty var t2 : Nat) : Nat := bundleWith 3 (op + 1 * 2 ^ 6 + 2 * 2 ^ 11 + 3 * 2 ^ 16 + 4 * 2 ^ 21 + ty * 2 ^ 26 + var * 2 ^ 29 + t2 * 2 ^ 34 + 1 * 2 ^ 37)
def withCore (b : Nat) (c : Core) : State := let s := runs b
  { s with comp := { s.comp with cores := [(0, c)] } }
/-- FP32 1.0 in V2, 2.0 in V3 and all ones in V4; flushing off. -/
def vecCore : Core := { v := [(2, 0x3F800000), (3, 0x40000000), (4, 0xFFFFFFFF)] }
def vecRun (op ty var t2 : Nat) : State := withCore (vecB op ty var t2) vecCore
def vecIssue (op ty var t2 : Nat) : Issue := issued 3 (vecB op ty var t2)
theorem witness_arith : (∀ op ∈ [1, 2, 3, 4, 5, 6, 7, 8, 9, 10], ∀ ty ∈ [3, 4, 5], slotOnCore (vecRun op ty 0 0) 0 3 op (vecRun op ty 0 0) (vecIssue op ty 0 0) 0) ∧
    arithTy (vecIssue 1 4 0 0) = some .fp32 ∧ arithTy (vecIssue 1 5 16 0) = some .fp64 ∧ arithTy (vecIssue 1 3 0 0) = none ∧ (arithRows 0).map (fun r => (r.1, r.2.1)) =
      [(.vadd 0, 1), (.vsub 0, 2), (.vmul 0, 3), (.vfma 0, 4), (.vdiv 0, 5), (.vsqrt 0, 6), (.vmax 0, 7), (.vmin 0, 8), (.vmaxn 0, 9), (.vminn 0, 10)] := by
  unfold slotOnCore; decide +kernel
theorem witness_vec : (∀ x ∈ [(0x0B, 4, 15), (0x0C, 5, 0), (0x0D, 4, 3), (0x0D, 4, 4), (0x0D, 5, 0), (0x0F, 4, 0), (0x0F, 5, 2), (0x0F, 4, 4), (0x0F, 4, 3)],
    slotOnCore (vecRun x.1 x.2.1 x.2.2 0) 0 3 x.1 (vecRun x.1 x.2.1 x.2.2 0) (vecIssue x.1 x.2.1 x.2.2 0) 0) := by unfold slotOnCore; decide +kernel
theorem witness_vfunc : vecTy (vecIssue 0x0D 4 3 0) = some .fp32 ∧ vecVar (vecIssue 0x0D 4 3 0) = 3 ∧ 3 < vecVar (vecIssue 0x0D 4 4 0) ∧ vecTy (vecIssue 0x0D 5 0 0) ≠ some .fp32 ∧
    [exp32, rcp32, rsq32, logistic32].length = 4 := by decide +kernel
theorem witness_vcvt : slotOnCore (vecRun 0x0E 4 0 2) 0 3 0x0E (vecRun 0x0E 4 0 2) (vecIssue 0x0E 4 0 2) 0 ∧ vecTy (vecIssue 0x0E 4 0 2) = some .fp32 ∧
    tyOf (sf (vecIssue 0x0E 4 0 2) 34 3) = some .fp16 ∧ isFp8 .fp16 = false := by unfold slotOnCore; decide +kernel
theorem witness_vmisc : (∀ var ∈ [0, 10, 11, 14, 15, 16, 17, 18, 19, 28, 29], slotOnCore (vecRun 0x10 4 var 0) 0 3 0x10 (vecRun 0x10 4 var 0) (vecIssue 0x10 4 var 0) 0 ∧
    vecVar (vecIssue 0x10 4 var 0) = var) ∧ arithTy (vecIssue 0x10 4 0 0) = some .fp32 ∧ vcFtz vecCore.vctrl = false := by unfold slotOnCore; decide +kernel
/-- Lane 0 of V1 after a row. -/
def lane0 (row : Instr) (s : State) : Nat := nfld (vOf (coreOf (after row s) 0) 1).toNat 0 32
theorem test_vadd : lane0 (.vadd 0) (vecRun 1 4 0 0) = 0x40400000 ∧ lane0 (.vsub 0) (vecRun 2 4 0 0) = 0xBF800000 ∧ lane0 (.vmul 0) (vecRun 3 4 0 0) = 0x40000000 ∧
    lane0 (.vdiv 0) (vecRun 5 4 0 0) = 0x3F000000 := by decide +kernel
theorem test_vsqrt : lane0 (.vsqrt 0) (withCore (vecB 6 4 0 0) { v := [(2, 0x40800000)] }) = 0x40000000 ∧ lane0 (.vmax 0) (vecRun 7 4 0 0) = 0x40000000 ∧
    lane0 (.vmin 0) (vecRun 8 4 0 0) = 0x3F800000 ∧ lane0 (.vsel 0) (vecRun 0x0C 4 0 0) = 0x3F800000 := by decide +kernel
theorem test_vcmp : lane0 (.vcmp 0) (vecRun 0x0B 4 1 0) = 0xFFFFFFFF ∧ lane0 (.vcmp 0) (vecRun 0x0B 4 0 0) = 0 := by decide +kernel
theorem test_vcvt : nfld (vOf (coreOf (after (.vcvt 0) (vecRun 0x0E 4 0 2)) 0) 1).toNat 0 16 = 0x3C00 := by decide +kernel

theorem witness_formats : 0x7E < 2 ^ tyWidth .e4m3 ∧ decodeVal .e4m3 0x7E = .fin false 14 5 ∧ (∃ n m e, decodeVal .fp64 1 = .fin n m e) := by
  refine ⟨by decide +kernel, by decide +kernel, ?_⟩
  exact ⟨_, _, _, rfl⟩
theorem witness_folds : ({} : FoldE).mode = false ∧ (-144 : Int) ≤ -144 ∧ (63 : Int) ≤ 63 ∧ ({} : FoldE).folds + 2 ≤ 16777216 ∧
    -(2 ^ 319) ≤ ({} : FoldE).value + 1 * 2 ^ (63 + 144) ∧ ({} : FoldE).value + 1 * 2 ^ (63 + 144) < 2 ^ 319 ∧ residueOk {} = true := by decide +kernel
theorem witness_saccs : ({} : SAcc).residue < 255 ∧ accOk {} = true ∧ accLsb .fp32 ≤ 0 ∧ (-(2 ^ 319) : Int) ≤ ({ value := -1 } : SAcc).value ∧
    ({ value := -1 } : SAcc).value < 2 ^ 319 ∧ ({ value := -1 } : SAcc).value ≠ 0 ∧ ({ value := -1 } : SAcc).nan = false := by decide +kernel

/-- FCLR, FRD, FEXP and FADD of `n` entries from a on; stream 2, V1, FP32 or FP64. -/
def fclrB (a n : Nat) : Nat := bundleWith 4 (3 + a * 2 ^ 6 + (n - 1) * 2 ^ 14)
def frdB (a n ty : Nat) : Nat := bundleWith 4 (4 + a * 2 ^ 6 + (n - 1) * 2 ^ 14 + 1 * 2 ^ 20 + ty * 2 ^ 25)
def recB (op a : Nat) : Nat := bundleWith 4 (op + a * 2 ^ 6 + 2 * 2 ^ 20)
/-- An entry that holds 1.0, with its residue or with another, and a core with it as entry 255. -/
def oneEntry (r : Nat) : FoldE := { value := 2 ^ 192, anz := false, apz := false, folds := 1, residue := r }
def foldCore (r : Nat) (base : Nat) : Core := { s := [(2, aStream 0 base true)], fold := [(255, foldWord (oneEntry r))] }
theorem witness_fclr : slotOnCore (withCore (fclrB 248 8) {}) 0 4 3 (withCore (fclrB 248 8) {}) (issued 4 (fclrB 248 8)) 0 ∧ 248 + 8 ≤ 256 ∧
    slotOnCore (withCore (fclrB 248 9) {}) 0 4 3 (withCore (fclrB 248 9) {}) (issued 4 (fclrB 248 9)) 0 ∧ 256 < 248 + 9 := by unfold slotOnCore; decide +kernel
theorem witness_frd : (∀ x ∈ [(255, 1, 4), (224, 32, 5), (255, 2, 4)], ∀ r ∈ [1, 0],
      let s := withCore (frdB x.1 x.2.1 x.2.2) (foldCore r 0)
      slotOnCore s 0 4 4 s (issued 4 (frdB x.1 x.2.1 x.2.2)) 0) ∧ residueOk (oneEntry 1) = true ∧ residueOk (oneEntry 0) = false ∧ 255 + 1 ≤ 256 ∧ 256 < 255 + 2 ∧
    tyOf (sf (issued 4 (frdB 224 32 5)) 25 3) = some .fp64 ∧ foldOf (foldWord (oneEntry 1)) = oneEntry 1 := by unfold slotOnCore; decide +kernel
theorem witness_fexp : let s := withCore (recB 5 255) (foldCore 1 196560)
    slotOnCore s 0 4 5 s (issued 4 (recB 5 255)) 0 ∧ (element (aStream 0 196560 true) 0).1 + 48 ≤ 196608 ∧ sf (issued 4 (recB 5 255)) 14 6 = 0 := by
  unfold slotOnCore; decide +kernel
def faddState : State := let s := withCore (recB 6 255) (foldCore 1 64)
  { s with comp := { s.comp with ls := memWrite [] 64 (bytesOfNat (foldWord (oneEntry 1)).toNat 48) } }
theorem witness_fadd : let e : FoldE := { oneEntry 2 with value := 2 ^ 193, folds := 2 }
    slotOnCore faddState 0 4 6 faddState (issued 4 (recB 6 255)) 0 ∧ combineRecord (foldAt faddState 0 255) (oneEntry 1) = (e, 0, false) ∧
    (coreOf (putFold faddState 0 255 e) 0).early = [] ∧ faddState.comp.lsErrs = [] ∧
    foldOf (BitVec.ofNat 384 (natOfBytes (memRead faddState.comp.ls 64 48))) = oneEntry 1 ∧ residueOk e = true := by unfold slotOnCore; decide +kernel
theorem test_frd : lane0 (.frd 0) (withCore (frdB 255 1 4) (foldCore 1 0)) = 0x3F800000 ∧
    (after (.frd 0) (withCore (frdB 255 1 4) (foldCore 0 0))).comp.failed = [(0, 0)] := by decide +kernel
theorem test_fexp_fadd : memRead (after (.fexp 0) (withCore (recB 5 255) (foldCore 1 0))).comp.ls 24 1 = [1] ∧
    (foldAt (after (.fadd 0) faddState) 0 255).value = 2 ^ 193 := by decide +kernel

/-- An engine's operands on core 0: a descriptor of a 32 by 32 tensor at 0 of the cluster store, a tile at 64 and values at 256 of the
local store; stream 2 is the tile's, stream 3 the values', stream 4 a place for a tile at 512; P5 is 1. -/
def scaled (base : Nat) : SDesc := { word := BitVec.ofNat 192 (base + 127 * 2 ^ 30 + 2 ^ 112 * 3) }
def engine (b format k : Nat) (h : Word) (rest : List Byte) : State := let s := withCore b { s := [(2, scaled 64), (3, scaled 256), (4, scaled 512)] }
  { s with comp := { s.comp with
    cs := memWrite [] 0 (bytesOfWords [3 + 2 ^ 37, BitVec.ofNat 64 (32 + format * 2 ^ 32 + k * 2 ^ 40), 0, 0, 0])
    ls := memWrite (memWrite [] 64 (bytesOfNat h.toNat 8 ++ rest)) 256 (List.replicate 32 0x38)
    p := [(5, 1)] } }
/-- EMV, EOP and TENC with those streams; the descriptor at P4, the count in P5. -/
def emvB (p : Nat) : Nat := bundleWith 2 (1 + 2 * 2 ^ 6 + 3 * 2 ^ 10 + 4 * 2 ^ 14 + p * 2 ^ 20)
def eopB : Nat := bundleWith 2 (2 + 2 * 2 ^ 6 + 3 * 2 ^ 10 + 3 * 2 ^ 14 + 5 * 2 ^ 18 + 4 * 2 ^ 33)
def tencB : Nat := bundleWith 4 (7 + 2 * 2 ^ 14 + 4 * 2 ^ 18)
/-- A LIST tile with 1.0 at (0, 1) and 2.0 at (3, 2), and a header with a reserved bit set. -/
def listTile : Word := tileHeader 4 0 2 0x7F false
def listRest : List Byte := [0x38, 0x40, 1, 0x88, 1]
def badTile : Word := listTile + 2 ^ 27
def emvState (p : Nat) (h : Word) : State := engine (emvB p) 4 0 h listRest
theorem witness_emv : (∀ x ∈ [(4, listTile), (5, listTile), (5, badTile)], slotOnCore (emvState x.1 x.2) 0 2 1 (emvState x.1 x.2) (issued 2 (emvB x.1)) 0) ∧
    (pReg (emvState 4 listTile) 4).toNat = 0 ∧ (pReg (emvState 5 listTile) 5).toNat = 1 ∧
    valueOf (readDesc (emvState 5 listTile) (issued 2 (emvB 5)) 0 0) = some (tdescOf [3 + 2 ^ 37, 32 + 2 ^ 34, 0, 0, 0], emvState 5 listTile) ∧
    tdescOk (tdescOf [3 + 2 ^ 37, 32 + 2 ^ 34, 0, 0, 0]) false = true ∧ family (tdescOf [3 + 2 ^ 37, 32 + 2 ^ 34, 0, 0, 0]).vtype = family (sdVtype (scaled 256)) := by
  unfold slotOnCore; decide +kernel
theorem witness_emv_tile : let d := tdescOf [3 + 2 ^ 37, 32 + 2 ^ 34, 0, 0, 0]
    let bs := bytesOfNat listTile.toNat 8 ++ listRest ++ [0, 0, 0]
    valueOf (readTile (emvState 5 listTile) (issued 2 (emvB 5)) 0 0 64) = some (listTile, bs, emvState 5 listTile) ∧
    tileCheck listTile (tileDisallowed d listTile) (tilePositions bs listTile 32 32) 32 32 = 0 ∧
    (valueOf (denseSlices (emvState 5 listTile) (issued 2 (emvB 5)) 0 0 1 0 [256])).isSome = true ∧
    (valueOf (emvRows ⟨emvState 5 listTile, List.replicate 8 (0, 0), none, false⟩ ⟨0, d, false, 0, 0, 127⟩ listTile 1 0 0 0 (viewOrder false (tilePositions bs listTile 32 32)).zipIdx
      [List.replicate 32 0x38] ((List.range 32).flatMap fun g => (List.range 1).map fun j => (g, j)))).isSome = true ∧
    tileCheck badTile (tileDisallowed d badTile) (tilePositions bs badTile 32 32) 32 32 = 1 := by decide +kernel
/-- A descriptor that fails R86: rows 0. -/
def badDesc (b : Nat) : State := let s := engine b 4 0 listTile listRest
  { s with comp := { s.comp with cs := memWrite [] 0 (bytesOfWords [3, 32 + 2 ^ 34, 0, 0, 0]) } }
theorem witness_badDesc : (∀ b ∈ [emvB 5], slotOnCore (badDesc b) 0 2 1 (badDesc b) (issued 2 b) 0) ∧ slotOnCore (badDesc eopB) 0 2 2 (badDesc eopB) (issued 2 eopB) 0 ∧
    (valueOf (readDesc (badDesc eopB) (issued 2 eopB) 0 0)).map (·.1) = some (tdescOf [3, 32 + 2 ^ 34, 0, 0, 0]) ∧ tdescOk (tdescOf [3, 32 + 2 ^ 34, 0, 0, 0]) false = false := by
  unfold slotOnCore; decide +kernel
/-- A ROWK tile with K 1 of zeros. -/
def rowTile : Word := tileHeader 2 0 1 0x7F false
def eopState : State := engine eopB 2 1 rowTile []
theorem witness_eop : slotOnCore eopState 0 2 2 eopState (issued 2 eopB) 0 ∧ (valueOf (eopCore eopState (issued 2 eopB) 0 (coreOf eopState 0))).isSome = true := by
  unfold slotOnCore; decide +kernel
def tencState (h : Word) : State := engine tencB 4 0 h []
theorem witness_tenc : (slotOnCore (tencState 0) 0 4 7 (tencState 0) (issued 4 tencB) 0 ∧ slotOnCore (tencState badTile) 0 4 7 (tencState badTile) (issued 4 tencB) 0 ∧
      slotOnCore (tencState rowTile) 0 4 7 (tencState rowTile) (issued 4 tencB) 0) ∧
    (valueOf (tencCore (tencState rowTile) (issued 4 tencB) 0 (coreOf (tencState rowTile) 0))).isSome = true ∧
    (valueOf (readTile (tencState 0) (issued 4 tencB) 0 0 64)).map (·.1) = some 0 ∧ tileCheck 0 false [] 32 32 = 0 ∧ thFormat 0 = 0 ∧ sf (issued 4 tencB) 24 1 = 0 ∧ 512 + 8 ≤ 196608 := by
  unfold slotOnCore; decide +kernel
/-- All that EMV, EOP and TENC need in order to complete: descriptor, tile and operands lie in their stores, the tile is good, and no fold mismatches. -/
theorem witness_emv_completes : let u := emvState 5 listTile
    let d := descAt u 0 0
    let ps := tilePositions (tileBody u 0 0 64) listTile 32 32
    let sc := pairScale 0 127 0 127
    u.comp.lsErrs = [] ∧ u.comp.csErrs = [] ∧ inSpace 1 0 40 = true ∧ tdescOk d false = true ∧ family d.vtype = family (sdVtype (scaled 256)) ∧ tileHead u 0 0 64 = listTile ∧
    (inSpace 0 64 8 = true ∧ inSpace 0 64 (max 8 (tileLen listTile)) = true) ∧ tileCheck listTile (tileDisallowed d listTile) ps 32 32 = 0 ∧
    elements (scaled 256) 0 1 = ([256], { scaled 256 with pos := 1 }) ∧ inSpace 0 256 32 = true ∧ 0 + 32 * 1 ≤ 256 ∧
    ∀ g, g < 32 → let part := rowPartial false sc.isNone (linePairs ⟨0, d, false, 0, 0, 127⟩ listTile (lineOf false g ps.zipIdx) (codesAt u 0 0 1 256))
      let r := foldPartial (foldAt u 0 g) false (sc.getD 0) part.1
      r.2 ≠ 0 ∨ residueOk r.1 = true := by decide +kernel
theorem witness_eop_completes : let u := eopState
    let d := descAt u 0 0
    let ps := tilePositions (tileBody u 0 0 64) rowTile 32 32
    let xs := [codesAt u 0 0 1 256]
    u.comp.lsErrs = [] ∧ u.comp.csErrs = [] ∧ inSpace 1 0 40 = true ∧ tdescOk d false = true ∧ d.format = 2 ∧ family (sdVtype (scaled 256)) = family (sdVtype (scaled 256)) ∧
    tileHead u 0 0 64 = rowTile ∧ (inSpace 0 64 8 = true ∧ inSpace 0 64 (max 8 (tileLen rowTile)) = true) ∧ tileCheck rowTile (tileDisallowed d rowTile) ps 32 32 = 0 ∧
    0 + ((ps.drop 0).take 256).length ≤ 256 ∧ inSpace 0 256 32 = true ∧
    ∀ e ∈ ((ps.drop 0).take 256).zipIdx, ∀ g ∈ (batchGroups .e4m3 .e4m3 xs xs e.1).zipIdx, let r := foldPartial (foldAt u 0 e.2) false 0 (rowPartial false false (batchPairs g.1 g.2)).1
      g.2 = 0 ∧ (r.2 ≠ 0 ∨ residueOk r.1 = true) := by decide +kernel
theorem witness_tenc_completes : let u := tencState rowTile
    let c := coreOf u 0
    let ps := tilePositions (tileBody u 0 0 64) rowTile 32 32
    let here := ((ps.drop 0).take 256).zipIdx
    let es := here.map fun e => foldOf (tblGet clearedFold c.fold e.2)
    let scale := scaleOf c.vctrl (cxOf c 0) .e4m3 (es.map fun e => (foldVal e).1)
    Mem.wf u.comp.ls = true ∧ u.comp.lsErrs = [] ∧ u.comp.csErrs = [] ∧ tileHead u 0 0 64 = rowTile ∧ (inSpace 0 64 8 = true ∧ inSpace 0 64 (max 8 (tileLen rowTile)) = true) ∧
    tileCheck rowTile (maskDisallowed rowTile) ps 32 32 = 0 ∧ thFormat rowTile ≠ 0 ∧ 0 + here.length ≤ 256 ∧ (∀ e ∈ es, residueOk e = true) ∧ sdSpace (scaled 512) = 0 ∧
    ∀ e ∈ tencPieces rowTile (tileBody u 0 0 64) ps 0 0 scale (tencValues c (issued 4 tencB) (cxOf c 0) .e4m3 0 scale 0 here), 512 + e.1 + e.2.length ≤ 196608 := by decide +kernel
/-- R127: a reserved VTYPE of the tile stream, in ST and SM. -/
def reservedVtype (s : State) : State := putStream s 0 2 { scaled 64 with word := (scaled 64).word + 6 * 2 ^ 27 }
theorem witness_reserved_vtype : 5 < sdVtype (strOf (coreBefore (reservedVtype (emvState 5 listTile)) 0 0) 2) ∧
    5 < sdVtype (strOf (coreBefore (reservedVtype (tencState rowTile)) 0 0) 2) := by decide +kernel
theorem test_eop_tenc : (foldAt (after (.eop 0) eopState) 0 0).folds = 1 ∧ (coreOf (after (.eop 0) eopState) 0).rot = 1 ∧
    memRead (after (.tenc 0) (tencState rowTile)).comp.ls 512 2 = [2, 1] := by decide +kernel
theorem test_emv : (foldAt (after (.emv 0) (emvState 5 listTile)) 0 0).value = 2 ^ 192 ∧ (foldAt (after (.emv 0) (emvState 5 listTile)) 0 3).value = 2 ^ 193 := by decide +kernel
theorem test_emv_bad : (coreOf (after (.emv 0) (emvState 5 badTile)) 0).mtile = some (3, 0, 1) ∧ (foldAt (after (.emv 0) (emvState 5 badTile)) 0 31).nan = true := by decide +kernel
theorem test_eop : (foldAt (after (.eop 0) eopState) 0 31).folds = 1 ∧ (coreOf (after (.eop 0) eopState) 0).rot = 1 := by decide +kernel
theorem test_tenc : memRead (after (.tenc 0) (tencState rowTile)).comp.ls 512 2 = [2, 1] ∧ (strOf (coreOf (after (.tenc 0) (tencState rowTile)) 0) 4).off = 64 := by decide +kernel

/-- Core 15 of the last cluster has failed, at time t. -/
def coreDown (bad : List Nat) : State := { up with comp := { failed := [(31, 15)], spareBad := bad, ls := [((512 + 31) * 196608 + 7, 9)] } }
theorem witness_coreSpareMap : clocksRun (coreDown []) = true ∧ clusterPresent (coreDown []) 31 = true ∧ physCluster (coreDown []) 31 = 31 ∧ physOfKey (coreDown []) (16 * 31 + 15) = 15 ∧
    spareFree (coreDown []) 31 = true ∧ spareFree (coreDown [31]) 31 = false ∧ (coreDown []).health.rehearsedCore ≠ some (31, 15) ∧
    ({ coreDown [] with health := { rehearsedCore := some (31, 15) } } : State).health.rehearsedCore = some (31, 15) ∧ (coreDown []).job.launch = none ∧
    Mem.wf (coreDown []).comp.ls = true ∧ (31, 15) ∉ up.comp.failed := by decide +kernel
theorem test_coreSpareMap : let t := after (.coreSpareMap 31 15) (coreDown [])
    physOfKey t (16 * 31 + 15) = 16 ∧ t.health.spareCores = [31] ∧ memByte t.comp.ls ((16 * 31 + 15) * 196608 + 7) = 9 := by decide +kernel
def noCluster : State := { up with comp := { clusters := setAt ((List.range 32).map some) 31 none } }
theorem witness_lockstep : unitsRun up = true ∧ clusterPresent up 31 = true ∧ clusterPresent noCluster 31 = false := by decide +kernel
theorem witness_patrols : logicalCluster up 0 = some 0 ∧ unitsRun up = true ∧ 0 ∉ up.comp.spareBad ∧ 0 ∉ up.health.spareCores ∧ 31 ∈ (coreDown [31]).comp.spareBad ∧
    (queenOf up 0).lastPatrol < passesOf up (0 * 15625) ∧ passesOf up (31 * 15625) ≤ (queenOf up 31).lastPatrol ∧ (logicalCore up 0 15).isSome = true ∧ logicalCore up 0 16 = none := by
  decide +kernel
/-- A store with a single-bit or a double-bit error, a day of 10 ms later. -/
def storeErr (d : Bool) : State := { later running 10000000 with comp := { lsErrs := [(64, some false)], csErrs := [(8, some d)] } }
theorem witness_storeWalk : unitsRun (storeErr true) = true ∧ (storeErr true).comp.walkAt < nowNs (storeErr true) / 10000000 ∧ nowNs running / 10000000 ≤ running.comp.walkAt ∧
    (∃ e ∈ (storeErr true).comp.lsErrs ++ (storeErr true).comp.csErrs, e.2 = some true) ∧ (∀ e ∈ (storeErr false).comp.lsErrs ++ (storeErr false).comp.csErrs, e.2 ≠ some true) := by decide +kernel
theorem test_storeWalk : (after .storeWalk (storeErr true)).comp.csErrs = [(8, some true)] ∧ ((after .storeWalk (storeErr true)).job.step.bind (·.poisoned)).isSome = true ∧
    (after .storeWalk (storeErr false)).comp.lsErrs = [] := by decide +kernel

/-! ## Stream units, collectives, foragers -/

/-- A piece of stream context 9, chunk 0, SEQ 0, source 0 with one FP32 element 1.0, of a step. -/
def pieceFrame (ctx step piece : Nat) (last : Bool) : Frame := mkFrame 5 1 0 5 5 6 0 step 0 false 0
  (bytesOfWords [packW [(0, 12, ctx), (44, 1, last.toNat), (48, 8, 127)], packW [(32, 6, piece), (40, 12, 1)]] ++ [0, 0, 0x80, 0x3F])
/-- The stream program IN 256, SUM of FP32 into ACC, OUT of ACC. -/
def outProg : List Word := [0x10000000001, 0x22208, 0x5242]
/-- Context 9 runs program 1 on a FP32 source; unit 31 has a frame in its queue. -/
def queued (s : State) (f : Frame) : State := { s with su := { programs := [(1, some { code := outProg })], ctxs := [(9, some (aCtx none))], queue := [(31, f)] } }
/-- A chunk of it that has its piece n, LAST or not. -/
def aChunk (n : Nat) (last : Bool) : Chunk := { ctx := 9, seq := 0, chunk := 0, unit := 31, pages := 24, startT := 0, stepSeq := none, got := [(0, n, last, 1)] }
def chunked (s : State) (c : Chunk) (f : Frame) : State := let t := queued s f
  { t with su := { t.su with chunks := [c] } }
def goodPiece : Frame := pieceFrame 9 0 0 true
theorem witness_stream : let s := queued up goodPiece
    unitsRun s = true ∧ 31 ∉ s.su.failed ∧ 31 ∉ s.su.retired ∧ (∀ e ∈ s.su.errs, e.1 ≠ 31) ∧ headPiece s 31 = some goodPiece ∧ 16 ≤ goodPiece.payload.length ∧
    ctxOf s (spCtx goodPiece) = some (aCtx none) ∧ stepOf s (aCtx none).pkey = none ∧ frmStep goodPiece = 0 ∧ s.su.chunks.find? (isChunk 9 0 0 31) = none ∧
    usesRes (progOf s (cxtProg (aCtx none))) = false ∧ roomFor s 31 9 0 (aCtx none) (ctxPages s 9 (aCtx none)) = some false ∧ s.job.launch = none := by decide +kernel
theorem witness_stream_drops : ({ goodPiece with payload := List.replicate 15 0 } : Frame).payload.length < 16 ∧ ctxOf (queued up (pieceFrame 8 0 0 true)) (spCtx (pieceFrame 8 0 0 true)) = none ∧
    headPiece (queued up (pieceFrame 8 0 0 true)) 31 = some (pieceFrame 8 0 0 true) ∧ frmStep (pieceFrame 9 1 0 true) ≠ 0 ∧
    stepOf (queued running goodPiece) (aCtx none).pkey = some aStep ∧ frmStep (pieceFrame 9 1 0 true) ≠ aStep.seq % 65536 ∧ frmStep goodPiece = aStep.seq % 65536 ∧
    stepOf (queued (atStep { aStep with committing := true }) goodPiece) 1 = some { aStep with committing := true } ∧
    (stepOf (queued (atStep { aStep with poisoned := some (0, 1) }) goodPiece) 1).any (fun x => x.poisoned.isSome) = true ∧
    roomFor (chunked up { aChunk 0 true with chunk := 1 } goodPiece) 31 9 0 (aCtx none) (ctxPages (queued up goodPiece) 9 (aCtx none)) = none := by decide +kernel
theorem witness_stream_joins : let s := chunked running (aChunk 0 true) goodPiece
    s.su.chunks.find? (isChunk 9 0 0 31) = some (aChunk 0 true) ∧ (pieceOf goodPiece).piece = 0 ∧ (pieceOf goodPiece).src = 0 ∧ (pieceOf (pieceFrame 9 0 1 false)).piece = 1 ∧
    (pieceOf (pieceFrame 9 0 1 true)).last = true ∧ (∃ g ∈ (aChunk 2 false).got, 1 < g.2.1) ∧ (∃ g ∈ (aChunk 0 true).got, g.2.2.1 = true ∧ g.2.1 < 1) ∧ aLaunch.isRun = false ∧
    ({ aChunk 0 true with complete := true } : Chunk).complete = true := by decide +kernel
theorem test_stream : let t := after (.stream 31) (queued up goodPiece)
    t.su.queue = [] ∧ t.su.chunks.map (fun c => (c.complete, c.out)) = [(true, [(0, false)])] ∧ (t.comb.orig.map (fun o => o.frame.payload.drop 16)) = [[0, 0, 0x80, 0x3F]] := by decide +kernel
theorem test_stream_dup : ((after (.stream 31) (chunked running (aChunk 0 true) goodPiece)).job.step.bind (·.poisoned)) = some (0, 2) := by decide +kernel
/-- A three-source FP64 SUM: context 10 with program 2 (06 Tables 6.3, 6.7); the piece of source n with the FP64 element 1.0. -/
def treeCtx : Ctx := { word := BitVec.ofNat 1024 (2 * 2 ^ 12 + 5 * 2 ^ 25 + 2 * 2 ^ 28 + 5), pkey := 1, group := none, auxBuf := none, aux := [] }
def treePiece (n : Nat) : Frame := mkFrame 5 1 0 5 5 6 0 0 0 false 0
  (bytesOfWords [packW [(0, 12, 10), (32, 12, n), (44, 1, 1), (48, 8, 127)], packW [(40, 12, 1)]] ++ [0, 0, 0, 0, 0, 0, 0xF0, 0x3F])
def treeProg : List Word := [0x10000000281, 0x22288, 0x5642]
/-- Source 0's piece has been taken; source 1's waits at unit 31. Both frames are still in the comb. -/
def treeHalf : State := { up with
  comb := { frames := [{ heldRef 1 28 with frame := treePiece 0 }, { heldRef 1 28 with chain := [2], frame := treePiece 1 }], used := [(28 * 4, 2)] }
  su := { programs := [(2, some { code := treeProg })], ctxs := [(10, some treeCtx)], queue := [(31, treePiece 1)]
          chunks := [{ ctx := 10, seq := 0, chunk := 0, unit := 31, pages := 0, startT := 0, stepSeq := none, got := [(0, 0, true, 1)]
                       pieces := [pieceOf (treePiece 0)], ran := 1, held := [(0, 0)] }]
          leaves := [{ frame := 1, ctx := 10, seq := 0, chunk := 0, src := 0, piece := 0 }, { frame := 2, ctx := 10, seq := 0, chunk := 0, src := 1, piece := 0 }] } }
/-- R161: sources 0 and 1 combine; their frames leave the comb, and their node waits for source 2 in a P1 buffer of the unit. -/
theorem test_stream_tree : let t := after (.stream 31) treeHalf
    t.comb.frames = [] ∧ t.su.leaves = [] ∧ t.comb.bufs = [{ pool := 1, id := 0, owner := 679, ref := 1 }] ∧ t.comb.used = [(679 * 4 + 1, 1)] := by decide +kernel
/-- Output 112 has sent source 2's piece to unit 31. -/
def treeSent : State := { treeHalf with comb := { frames := [{ heldRef 1 28 with frame := treePiece 2 }], egress := [(112, { copies := [aCopy none 0] })] } }
theorem witness_frameSent_leaf : heldFrame treeSent 1 = some { heldRef 1 28 with frame := treePiece 2 } ∧ (aCopy none 0).doneAt ≤ unitNow treeSent ∧ clocksRun treeSent = true ∧
    leafOf treeSent 1 (treePiece 2) = some { frame := 1, ctx := 10, seq := 0, chunk := 0, src := 2, piece := 0 } ∧ leafOf (sending 112 (aCopy none 0)) 1 (frameFor 4 1) = none := by
  decide +kernel
theorem test_frameSent_leaf : let t := after (.frameSent ⟨112, false⟩) treeSent
    (t.comb.frames.map (·.ref)) = [1] ∧ t.su.leaves.length = 3 ∧ t.su.queue = [(31, treePiece 1), (31, treePiece 2)] := by decide +kernel
def oldChunk (s : State) (ns : Nat) : State := later (chunked s (aChunk 0 false) goodPiece) ns
theorem witness_streamTimeout : ctxOf (oldChunk running 100000) 9 = some (aCtx none) ∧
    (oldChunk running 100000).su.chunks.find? (fun e => (e.ctx == 9 && e.seq == 0 && e.chunk == 0) && !e.complete) = some (aChunk 0 false) ∧ unitsRun (oldChunk running 100000) = true ∧
    (aChunk 0 false).startT + cxtTimeout (aCtx none) ≤ logicNs (oldChunk running 100000) ∧ logicNs (oldChunk running 99999) < (aChunk 0 false).startT + cxtTimeout (aCtx none) ∧
    (stepOf (oldChunk running 100000) 1).isSome = true ∧ stepOf (oldChunk up 100000) 1 = none := by decide +kernel
theorem test_streamTimeout : (after (.streamTimeout 9 0 0) (oldChunk up 100000)).su.chunks = [] ∧ (after (.streamTimeout 9 0 0) (oldChunk up 99999)).su.chunks.length = 1 := by decide +kernel
def unitDown : State := { up with su := { failed := [31] } }
theorem witness_unitPatrol : tblGet 0 up.su.lastPatrol 0 < passesOf up (0 * 15625) ∧ passesOf up (31 * 15625) ≤ tblGet 0 up.su.lastPatrol 31 ∧ 0 ∉ up.su.failed ∧ 0 ∉ up.su.retired ∧
    31 ∈ unitDown.su.failed ∧ clocksRun unitDown = true := by decide +kernel
theorem test_unitRetire : (after (.streamUnitRetire 31) unitDown).su.map = List.range 31 ∧ (after (.streamUnitRetire 31) unitDown).su.retired = [31] := by decide +kernel

/-- An issue record of group 4: an operation over n elements of the one member, semaphore 63 of cluster 31. -/
def aRecord (op n seg : Nat) : BitVec 320 := BitVec.ofNat 320 (4 + op * 2 ^ 12 + n * 2 ^ 32 + 64 * 2 ^ 64 + 128 * 2 ^ 128 + seg * 2 ^ 192 + 63 * 2 ^ 224 + 2 ^ (256 + 31))
def anOp (done : List Nat) : COp := { gid := 4, seq := 0, lsrc := 0, word := aRecord 5 256 0, issuedAt := 0, inStep := true, nextChunk := 1, done := done }
def collState (s : State) (queue : List (BitVec 320)) (ops : List COp) : State := { s with
  su := withGroup.su, coll := { groups := withGroup.coll.groups, queue := queue, ops := ops }, hbm := { undef := false } }
theorem witness_collIssue : unitsRun (collState running [aRecord 5 256 0] []) = true ∧ issueOk (collState running [aRecord 5 256 0] []) (aRecord 5 256 0) = true ∧
    issueOk (collState running [aRecord 0 1 0] []) (aRecord 0 1 0) = false ∧ aStep.poisoned = none ∧ aStep.held = false ∧ aStep.committing = false ∧
    (∃ st, (collState (atStep { aStep with held := true }) [aRecord 5 256 0] []).job.step = some st ∧ st.held = true) ∧
    8 ≤ ((collState running [aRecord 5 256 0] (List.replicate 8 (anOp []))).coll.ops.filter fun o => o.gid == irGid (aRecord 5 256 0) && o.lsrc == irLsrc (aRecord 5 256 0)).length := by
  refine ⟨by decide +kernel, by decide +kernel, by decide +kernel, rfl, rfl, rfl, ⟨_, rfl, rfl⟩, by decide +kernel⟩
theorem witness_collComplete : findOp (collState running [] [anOp [0]]) 4 0 0 = some (anOp [0]) ∧ opDone (collState running [] [anOp [0]]) (anOp [0]) = true ∧
    opDone (collState running [] [anOp []]) (anOp []) = false ∧ (anOp []).issuedAt + gpTimeout (groupOf (collState running [] []) 4) ≤ logicNs (later running 100000) ∧
    ¬(anOp []).issuedAt + gpTimeout (groupOf (collState running [] []) 4) ≤ logicNs (later running 99999) ∧ 31 ∈ maskClusters running (irCmask (aRecord 5 256 0)) ∧
    irSem (aRecord 5 256 0) = 63 ∧ semOf running 31 63 < 65535 ∧ 30 ∉ maskClusters running (irCmask (aRecord 5 256 0)) ∧
    (stepOf (collState running [] []) (gpKey (groupOf (collState running [] []) 4))).isSome = true ∧ stepOf (collState up [] []) (gpKey (groupOf (collState up [] []) 4)) = none := by decide +kernel
theorem witness_chunkSpans : let w := groupOf withGroup 4
    (irOp (aRecord 5 257 0) ≠ 3 ∧ irOp (aRecord 5 257 0) ≠ 4 ∧ 256 < irCount (aRecord 5 257 0) ∧ chunkSpan w (aRecord 5 257 0) 1 = (0, 256, 1)) ∧
    (irOp (aRecord 3 256 256) = 3 ∧ 0 < irSeg (aRecord 3 256 256) ∧ 0 < gpN w ∧ 255 < segLen (aRecord 3 256 256) 0) ∧
    (irOp (aRecord 4 1 256) = 4 ∧ 255 < segLen (aRecord 4 1 256) 0) := by decide +kernel
theorem test_collIssue : let t := after .collectiveIssue (collState running [aRecord 5 256 0] [])
    t.coll.queue = [] ∧ (t.coll.ops.map (·.nextChunk)) = [1] ∧ tblGet 0 t.coll.nextSeq 16 = 1 ∧ t.comb.orig.length = 1 := by decide +kernel
theorem test_collComplete : let t := after (.collectiveComplete 4 0 0) (collState running [] [anOp [0]])
    t.coll.ops = [] ∧ semOf t 31 63 = 1 ∧ ((after (.collTimeout 4 0 0) (collState (later running 100000) [] [anOp []])).job.step.bind (·.poisoned)).isSome = true := by decide +kernel

/-- Channel 0 at an instruction, with 64 and 4,096 in its registers. -/
def aChan (i : BitVec 256) : Chan := { st := .run, pkey := 1, code := [i], cur := [64, 4096, 8, 0, 0, 0, 0, 0], inc := [8, 16, 0, 0, 0, 0, 0, 0] }
def forage (s : State) (c : Chan) : State := { s with fgr := [(0, c)], hbm := { undef := false, mem := [(8, 1), (64, 7)] } }
/-- The word that an index read gives at once. -/
def indexOf (x : IndexRes) : Option (Nat × State) := match x with
  | .word v s => some (v, s)
  | _ => none

/-- MOVE of n bytes from register 0 to register 1 with flags above bit 10. -/
def aMove (flags n : Nat) : BitVec 256 := BitVec.ofNat 256 (1 + 1 * 2 ^ 7 + flags * 2 ^ 10 + n * 2 ^ 64 + 8 * 2 ^ 128)
def moving (flags n : Nat) : State := forage running (aChan (aMove flags n))
theorem witness_move : chanReady (moving 0 16) 0 1 = true ∧ (chanWord (moving 0 16) 0 0).getLsbD 13 = false ∧ moveFault (moving 0 16) 0 (moveArgs (moving 0 16) 0 0) = 0 ∧
    (moveArgs (moving 0 16) 0 0).len ≠ 0 ∧ (moveArgs (moving 0 0) 0 0).len = 0 ∧ moveFault (moving 0 0) 0 (moveArgs (moving 0 0) 0 0) = 0 ∧
    moveEid (moving 0 16) 0 false 0 64 16 = none ∧ moveEid (moving 0 16) 0 false 0 4096 16 = none ∧ (spaceRead (moving 0 16) 64 16).1.isSome = true ∧
    moveFault (moving 0 12) 0 (moveArgs (moving 0 12) 0 0) = 1 ∧ (chanOf (moving 0 12) 0).bound = false ∧ chanReady (moving 0 16) 1 1 = false := by decide +kernel
theorem witness_move_index : (chanWord (moving 10 16) 0 0).getLsbD 13 = true ∧ indexOf (chanIndex (moving 10 16) 0 2 0) = some (1, moving 10 16) ∧
    (moveArgs (moving 10 16) 0 1).src = 72 := by decide +kernel
def boundChan (s : State) : State := { s with fgr := s.fgr.map fun e => (e.1, { e.2 with bound := true }) }
/-- A source at a rank: flag SREM, class 5, rank 0; and a barrier with an acknowledgement awaited. -/
def remoteMove : State := moving (2 ^ 6 + 5 * 2 ^ 10) 4096
def barred : State := forage running { aChan (aMove (2 ^ 8) 16) with acks := [3] }
theorem witness_move_forms : (chanOf (boundChan (moving 0 12)) 0).bound = true ∧ (boundChan (moving 0 12)).job.step.isSome = true ∧ moveFault remoteMove 0 (moveArgs remoteMove 0 0) = 0 ∧
    moveEid remoteMove 0 true 0 64 4096 = some 5 ∧ (moveArgs remoteMove 0 0).srem = true ∧ (moveArgs remoteMove 0 0).len ≤ 4096 ∧ (moveArgs remoteMove 0 0).sfix = false ∧
    (moveArgs barred 0 0).barrier = true ∧ (chanOf barred 0).acks ≠ [] ∧ moveFault barred 0 (moveArgs barred 0 0) = 0 := by decide +kernel
theorem test_move : let t := after (.move 0) (moving 0 16)
    hbmByte t 4096 = 7 ∧ (chanOf t 0).pc = 1 ∧ (chanOf t 0).cur.take 2 = [72, 4112] := by decide +kernel
theorem witness_moveEnd : (chanOf (moving 0 16) 0).st = .run ∧ (chanOf (moving 0 16) 0).loops = [] := by decide +kernel
def sinceMove (bound : Bool) (reads : List FRead) (ns : Nat) : State := later (forage running { aChan (aMove (2 ^ 8) 16) with bound := bound, reads := reads, moveSince := some 0 }) ns
theorem witness_moveComplete : (chanOf (sinceMove true [] 0) 0).moveSince = some 0 ∧ chanRuns (sinceMove true [] 0) 0 = true ∧ (chanOf (sinceMove true [] 0) 0).reads = [] ∧
    (chanOf (sinceMove true [] 0) 0).acks = [] ∧ (chanOf (sinceMove true [aFRead] 0) 0).reads ≠ [] ∧ 0 + 50000 ≤ logicNs (sinceMove true [] 50000) ∧
    logicNs (sinceMove true [] 49999) < 0 + 50000 ∧ (chanOf (sinceMove false [] 50000) 0).bound = false ∧ (sinceMove true [] 50000).job.step.isSome = true := by decide +kernel
theorem test_foragerTimeout : (chanOf (after (.foragerTimeout 0) (sinceMove false [aFRead] 50000)) 0).cause = 3 ∧
    (chanOf (after (.foragerTimeout 0) (sinceMove false [] 50000)) 0).cause = 0 ∧
    (chanOf (after (.moveComplete 0) (sinceMove true [] 0)) 0).pc = 1 := by decide +kernel

/-- LOOP with END 9 and a count, or its count at register 2; WAIT for 255 of semaphore 63 of cluster 31, or for the commit; SIGNAL of cluster 7, or of rank 0. -/
def loopI (cind n : Nat) : BitVec 256 := BitVec.ofNat 256 (2 + 9 * 2 ^ 6 + cind * 2 ^ 14 + 2 * 2 ^ 15 + 2 ^ 21 + n * 2 ^ 32 + 24 * 2 ^ 64)
def waitI (cond q : Nat) : BitVec 256 := BitVec.ofNat 256 (3 + cond * 2 ^ 4 + 63 * 2 ^ 6 + 255 * 2 ^ 12 + q * 2 ^ 20)
def signalI (remote q cls : Nat) : BitVec 256 := BitVec.ofNat 256 (4 + remote * 2 ^ 4 + 63 * 2 ^ 5 + 255 * 2 ^ 11 + q * 2 ^ 19 + 15 * 2 ^ 24 + cls * 2 ^ 43)
def withSem' (s : State) (n : Nat) : State := { s with comp := { queens := [(31, { sem := [(63, n)] })] } }
def atI (i : BitVec 256) : State := forage running (aChan i)
theorem witness_foragerLoop : (∀ x ∈ [(0, 3), (0, 0), (1, 0)], chanReady (atI (loopI x.1 x.2)) 0 2 = true) ∧ (chanWord (atI (loopI 0 3)) 0 0).getLsbD 14 = false ∧
    (chanWord (atI (loopI 1 0)) 0 0).getLsbD 14 = true ∧ indexOf (chanIndex (atI (loopI 1 0)) 0 2 1) = some (1, atI (loopI 1 0)) ∧
    (∀ lp ∈ (chanOf (atI (loopI 0 0)) 0).loops, lp.last ≠ 9) ∧ chanReady (atI (loopI 0 3)) 0 3 = false := by decide +kernel
theorem witness_foragerWait : (∀ x ∈ [(0, 31), (1, 31)], chanReady (withSem' (atI (waitI x.1 x.2)) 255) 0 3 = true) ∧ clusterPresent (withSem' (atI (waitI 0 31)) 255) 31 = true ∧
    255 ≤ semOf (withSem' (atI (waitI 0 31)) 255) 31 63 ∧ semOf (withSem' (atI (waitI 0 31)) 254) 31 63 < 255 ∧
    clusterPresent { atI (waitI 0 31) with comp := noCluster.comp } 31 = false := by decide +kernel
theorem witness_foragerWaitRelease : let s := forage running { aChan (waitI 0 31) with st := .wait, waitSince := some 0 }
    chanRuns s 0 = true ∧ (chanOf s 0).st = .wait ∧ fld (chanWord s 0 0) 0 6 = 3 ∧ 255 ≤ semOf (withSem' s 255) 31 63 ∧ semOf s 31 63 < 255 := by decide +kernel
theorem witness_foragerSignal : (∀ x ∈ [(0, 7, 0), (0, 8, 0), (1, 0, 5), (1, 0, 6)], chanReady (atI (signalI x.1 x.2.1 x.2.2)) 0 4 = true) ∧
    signalFault (atI (signalI 0 7 0)) 0 (chanWord (atI (signalI 0 7 0)) 0 0) = 0 ∧ signalFault (atI (signalI 0 8 0)) 0 (chanWord (atI (signalI 0 8 0)) 0 0) = 1 ∧
    signalFault (atI (signalI 1 0 5)) 0 (chanWord (atI (signalI 1 0 5)) 0 0) = 0 ∧ signalFault (atI (signalI 1 0 6)) 0 (chanWord (atI (signalI 1 0 6)) 0 0) = 1 ∧
    rankEid (atI (signalI 1 0 5)) (chanOf (atI (signalI 1 0 5)) 0).pkey (fld (chanWord (atI (signalI 1 0 5)) 0 0) 28 15) = some 5 ∧ (chanOf (atI (signalI 0 7 0)) 0).ownWrites = [] ∧
    (chanOf (forage running { aChan (signalI 0 7 0) with ownWrites := [9] }) 0).ownWrites ≠ [] ∧ chanReady (atI 5) 0 5 = true ∧ 65280 + 255 ≤ 65535 := by decide +kernel
theorem test_foragerWait : semOf (after (.foragerWait 0) (withSem' (atI (waitI 0 31)) 255)) 31 63 = 0 ∧ (chanOf (after (.foragerWait 0) (withSem' (atI (waitI 0 31)) 254)) 0).st = .wait := by decide +kernel
theorem test_foragerSignal : semOf (after (.foragerSignal 0) (atI (signalI 0 7 0))) 7 63 = 255 ∧ ((after (.foragerSignal 0) (atI (signalI 1 0 5))).comb.orig.map (·.owner)) = [680] ∧
    (chanOf (after (.foragerEnd 0) (atI 5)) 0).st = .done ∧ (chanOf (after (.foragerLoop 0) (atI (loopI 0 0))) 0).pc = 10 := by decide +kernel

/-! ## The sideband, swarm time, the waggle, links -/

theorem witness_setRows : (Instr.time (aSet 3 codeTime 0), codeTime, 0) ∈ setRows (aSet 3 codeTime 0) ∧ auxOn linked = true ∧ (portOf linked 3).sb = true ∧
    setOk codeTime 0 { aSet 3 codeTime 0 with chk := 1 } = false ∧ (portOf linked 4).sb = false ∧ setOk codeFence 0xFE00000000 (aSet 3 codeFence 0xFE00000000) = false ∧
    isRepeat { linked with ports := [(4, { linkPort with recent := [(codeFence, 5, 0)] })] } codeFence (aSet 3 codeFence 5) = true := by
  refine ⟨?_, by decide +kernel⟩
  unfold setRows
  exact List.mem_of_elem_eq_true (by decide +kernel)
/-- A FENCE of an epoch, and the module in a mode with epoch 4. -/
def aFence (set : Nat) (epoch : Nat) : SetRx := aSet 3 codeFence (BitVec.ofNat 40 (epoch + set * 2 ^ 32))
def epoch4 (s : State) : State := onSideband { s with dev := { s.dev with epoch := 4 } }
theorem witness_fence : setFresh (epoch4 running) codeFence 0xFE00000000 (aFence 1 5) ∧ setFresh (epoch4 running) codeFence 0xFE00000000 (aFence 1 4) ∧
    setFresh (epoch4 (inMode .joined)) codeFence 0xFE00000000 (aFence 1 5) ∧ setFresh (epoch4 (inMode .fenced)) codeFence 0xFE00000000 (aFence 0 5) ∧
    setFresh frozenMod codeFence 0xFE00000000 (aFence 1 5) ∧
    (clocksHeld (epoch4 running) = false ∧ (epoch4 running).dev.epoch.toNat < fld (aFence 1 5).payload 0 32 ∧ fld (aFence 1 4).payload 0 32 ≤ (epoch4 running).dev.epoch.toNat ∧
      (aFence 1 5).payload.getLsbD 32 = true ∧ (aFence 0 5).payload.getLsbD 32 = false ∧ (epoch4 running).dev.mode = .active ∧ clocksHeld frozenMod = true) := by
  unfold setFresh; decide +kernel
theorem test_fence : (after (.fence (aFence 1 5)) (epoch4 running)).dev.mode = .fenced ∧ (after (.fence (aFence 1 5)) (epoch4 running)).job.launch = none ∧
    (after (.fence (aFence 0 5)) (epoch4 (inMode .fenced))).dev.mode = .joined := by decide +kernel
def aBeacon (st : Nat) : SetRx := aSet 3 codeBeacon (BitVec.ofNat 40 (st * 2 ^ 32 + 7 * 2 ^ 16))
def deadPort : Port := { linkPort with nbW1 := 2 ^ 49 }
theorem witness_beacon : setOk codeBeacon 0 (aBeacon 8) = true ∧ setOk codeBeacon 0 (aBeacon 3) = true ∧ (portOf { linked with ports := [(3, deadPort)] } 3).nbW1.getLsbD 49 = true ∧
    (portOf linked 3).nbW1.getLsbD 49 = false := by decide +kernel
theorem test_beacon : tblGet false (after (.beacon (aBeacon 8)) linked).fab.fence 3 = true ∧ tblGet false (after (.beacon (aBeacon 3)) linked).fab.fence 3 = false := by decide +kernel
def linkedAt (ns : Nat) : State := later linked ns
theorem witness_beaconSend : (linkedAt 10000).dev.mode ≠ .off ∧ (linkedAt 10000).dev.mode ≠ .aux ∧ (linkedAt 10000).dev.recovery = false ∧ 3 ∈ sbPorts (linkedAt 10000) ∧
    (portOf (linkedAt 10000) 3).beaconTx + 10000 ≤ nowNs (linkedAt 10000) ∧ ¬(portOf (linkedAt 9999) 3).beaconTx + 10000 ≤ nowNs (linkedAt 9999) ∧ (inMode .aux).dev.mode = .aux ∧
    (portOf (linkedAt 30000) 3).beaconRx + 30000 ≤ nowNs (linkedAt 30000) ∧ nowNs (linkedAt 29999) < (portOf (linkedAt 29999) 3).beaconRx + 30000 := by decide +kernel
theorem test_neighbourSilent : (portOf (after (.neighbourSilent 3) (linkedAt 30000)) 3).nbW1.getLsbD 49 = true ∧ (portOf (after (.neighbourSilent 3) (linkedAt 29999)) 3).nbW1.getLsbD 49 = false := by decide +kernel
theorem test_beaconSend : (after .beaconSend (linkedAt 10000)).sbq = [.ordered 3 codeBeacon 0x300050000] ∧ (after .beaconSend (linkedAt 9999)).sbq = [] := by decide +kernel

/-- A child of port 3 at time t, with its last TIME set sent at time a. -/
def child (m : Mode) (t48 : Nat) (asked : Option Nat) : State := { onSideband (inMode m) with clk := { t48 := t48, parent := 3, root := false, asked := asked } }
def aTime (port : Fin 64) (ns : Nat) : SetRx := aSet port codeTime (BitVec.ofNat 40 ns)
theorem witness_timeSend : (child .ready 48000 none).clk.parent < 64 ∧ (portOf (child .ready 48000 none) 3).sb = true ∧ (child .ready 48000 none).clk.askAt + 48000 ≤ (child .ready 48000 none).clk.t48 ∧
    (child .ready 47999 none).clk.t48 < (child .ready 47999 none).clk.askAt + 48000 ∧ 64 ≤ linked.clk.parent := by decide +kernel
theorem witness_time : setOk codeTime 0 (aTime 3 500) = true ∧ (child .ready 25600 (some 0)).clk.asked = some 0 ∧ (child .ready 25600 (some 0)).clk.t48 ≤ 0 + 25600 ∧
    0 + 25600 < (child .ready 25601 (some 0)).clk.t48 ∧ (child .boot 25600 (some 0)).dev.mode.code < 3 ∧ 3 ≤ (child .ready 25600 (some 0)).dev.mode.code ∧
    (aTime 3 500).port.val = (child .ready 0 none).clk.parent ∧ (child .ready 0 none).clk.asked = none := by decide +kernel
theorem test_time : (after (.time (aTime 3 500)) (child .boot 25600 (some 0))).clk.t48 = 48 * 500 + 6400 ∧ (after (.time (aTime 3 500)) (child .ready 25600 (some 0))).clk.slew = 4800 ∧
    (after (.time (aTime 3 500)) (child .ready 25600 (some 0))).clk.timeFault = false := by decide +kernel
def owes (t48 : Nat) : State := { linked with clk := { t48 := t48, due := [(3, 12800)] } }
theorem witness_timeAnswer : (owes 12800).clk.due = [(3, 12800)] ∧ 12800 ≤ (owes 12999).clk.t48 ∧ (owes 12999).clk.t48 < 12800 + 200 ∧ 12800 + 200 ≤ (owes 13000).clk.t48 ∧
    (∀ d ∈ (owes 12799).clk.due, d.1 = 3 → (owes 12799).clk.t48 < d.2) ∧ (portOf (owes 12800) 3).sb = true := by decide +kernel
theorem test_timeAnswer : (after (.timeAnswer 3) (owes 12999)).out = [.ordered 3 codeTime 266] ∧ (after (.timeAnswer 3) (owes 13000)).out = [] ∧
    (after .timeAnswerMissing (child .ready 25601 (some 0))).clk.asked = none ∧ (after .timeAnswerMissing (child .ready 25600 (some 0))).clk.asked = some 0 := by decide +kernel
/-- Modules by their place: slot 0 with a lower hive behind port 40, slot 5, the second of twins, and one in BOOT beside a module in READY. -/
def hive40 : Port := { linkPort with nbW1 := 2 ^ 48 }
def slot0 : State := { up with ident := { hive := 2 }, ports := [(40, hive40), (41, hive40)] }
def slot5 (p : Nat) : State := { up with ident := { slot := 5 }, ports := [(p, linkPort)] }
def second : State := { up with ident := { side := true, twinPresent := true }, ports := [(31, { linkPort with peerTwin := true })] }
def booting : State := { inMode .boot with ports := [(9, { linkPort with nbState := 3 })] }
theorem witness_parents : timeParent slot0 = 40 ∧ timeParent (slot5 26) = 26 ∧ timeParent (slot5 25) = 127 ∧ timeParent second = 31 ∧ timeParent booting = 9 ∧ timeParent up = 127 ∧
    slot0.ident.slot.toNat = 0 ∧ (slot5 26).ident.slot.toNat ≠ 0 ∧ (portOf (slot5 26) (31 - 5)).sb = true ∧ (portOf (slot5 25) (31 - 5)).sb = false ∧
    (32 ≤ 40 ∧ 40 < 64 ∧ (portOf slot0 40).sb = true ∧ (portOf slot0 40).nbW1.getLsbD 48 = true ∧ nbHive (portOf slot0 40) < slot0.ident.hive.toNat) := by decide +kernel
theorem test_timeParentChange : (after .timeParentChange slot0).clk.parent = 40 ∧ (after .timeParentChange slot0).clk.root = false ∧ (after .timeParentChange up).clk.root = true := by decide +kernel

/-- A waggle frame of the peer of port 3 in slot 4, serial 9: type, versions, chosen version, reason. -/
def aWaggle (type set chosen reason : Nat) : BitVec 512 :=
  withWagCrc (BitVec.ofNat 512 (pack [(0, 8, type), (8, 8, 27), (16, 5, 4), (32, 3, set), (40, 8, chosen), (48, 8, reason), (64, 64, 9)]))
def wag (w : BitVec 512) : WaggleRx := { set := aSet 3 codeWaggle 0, bits := w }
def wag31 (w : BitVec 512) : WaggleRx := { set := aSet 31 codeWaggle 0, bits := w }
def quiet : State := { up with ports := [(3, { sb := true })] }
def negotiating (sent recv : Option (Nat × Word)) : State := { up with ports := [(3, { sb := true, tx := .negotiate, rx := .negotiate, sentAccept := sent, recvAccept := recv })] }
/-- Port 3 is up on the same cable that the waggle shows. -/
def sameCable : State := { linked with ports := [(3, { linkPort with linkUp := some (9, 27) })] }
theorem witness_sideband : auxOn up = true ∧ (portOf up 3).sb = false ∧ (portOf linked 3).sb = true ∧ 2 ≤ linked.dev.mode.code ∧
    (portOf (later quiet 100000) 3).lastAnnounce + 100000 ≤ nowNs (later quiet 100000) ∧ nowNs (later quiet 99999) < (portOf (later quiet 99999) 3).lastAnnounce + 100000 ∧
    (portOf (later linked 1000000) 3).lastAnnounce + 1000000 ≤ nowNs (later linked 1000000) ∧ (portOf linked 3).tx ≠ .down ∧ (portOf linked 3).tx ≠ .negotiate := by decide +kernel
theorem test_sbLost : (portOf (after (.sbLost 3) linked) 3).tx = .down ∧ (portOf (after (.sbLost 3) linked) 3).fault = some .sbLost ∧ (portOf (after (.sidebandUp 3) up) 3).sb = true := by decide +kernel
theorem test_announceSend : (after (.announceSend 3) (later quiet 100000)).sbq.length = 1 ∧ (after (.announceSend 3) (later quiet 99999)).sbq = [] := by decide +kernel
theorem witness_announce : wagHeard quiet (wag (aWaggle 1 7 0 0)) 1 = true ∧ wagHeard quiet (wag (aWaggle 1 7 0 0)) 2 = false ∧ lanesDown (portOf quiet 3) = true ∧
    ¬(3 < 32 ∧ quiet.ident.hivePresent = false) ∧ commonVersion (mfpMask quiet 3) (wgSet (aWaggle 1 7 0 0)) = some 0x31 ∧ wiringBad quiet 3 (aWaggle 1 7 0 0) = false ∧
    twinBad quiet 3 (aWaggle 1 7 0 0) = false ∧ (portOf quiet 3).recvAccept ≠ some (0x31, wgSerial (aWaggle 1 7 0 0)) ∧ 3 ∉ quiet.ident.calBad ∧
    wagHeard (negotiating none (some (0x31, 9))) (wag (aWaggle 1 7 0 0)) 1 = true ∧ (portOf (negotiating none (some (0x31, 9))) 3).recvAccept = some (0x31, wgSerial (aWaggle 1 7 0 0)) ∧
    lanesDown (portOf sameCable 3) = false ∧ (portOf sameCable 3).linkUp = some (wgSerial (aWaggle 1 7 0 0), wgPort (aWaggle 1 7 0 0)) ∧ (portOf linked 3).linkUp ≠ some (wgSerial (aWaggle 1 7 0 0), wgPort (aWaggle 1 7 0 0)) := by
  decide +kernel
/-- Twins on port 31 that send different firmware versions. -/
def twinWaggle : BitVec 512 := withWagCrc (BitVec.ofNat 512 (pack [(0, 8, 1), (8, 8, 31), (31, 1, 1), (32, 3, 7), (56, 1, 1), (64, 64, 9), (320, 32, 5)]))
def twinned : State := { up with ident := { twinPresent := true }, ports := [(31, { sb := true })] }
theorem witness_rejects : commonVersion (mfpMask quiet 3) (wgSet (aWaggle 1 0 0 0)) = none ∧ wagHeard quiet (wag (aWaggle 1 0 0 0)) 1 = true ∧
    wiringBad { quiet with ident := { slot := 1 } } 3 (aWaggle 1 7 0 0) = true ∧ wagHeard twinned (wag31 twinWaggle) 1 = true ∧ wiringBad twinned 31 twinWaggle = false ∧
    twinBad twinned 31 twinWaggle = true ∧ (∀ r ∈ [1, 2, 3], wagHeard quiet (wag (aWaggle 3 0 0 r)) 3 = true ∧ wgReason (aWaggle 3 0 0 r) = r) ∧ wgPeer (aWaggle 3 0 0 1) = quiet.ident.serial := by decide +kernel
theorem test_announce : (portOf (after (.announce (wag (aWaggle 1 7 0 0))) quiet) 3).sentAccept = some (0x31, 9) ∧
    (portOf (after (.announce (wag (aWaggle 1 0 0 0))) quiet) 3).fault = some .linkNoVersion ∧ (after (.announce (wag31 twinWaggle)) twinned).health.twinMismatch = true := by decide +kernel
theorem witness_accept : let n := negotiating (some (0x31, 9)) none
    wagHeard n (wag (aWaggle 2 0 0x31 0)) 2 = true ∧ wgPeer (aWaggle 2 0 0x31 0) = n.ident.serial ∧ lanesDown (portOf n 3) = true ∧
    (portOf n 3).sentAccept = some (wgChosen (aWaggle 2 0 0x31 0), wgSerial (aWaggle 2 0 0x31 0)) ∧ (portOf (negotiating (some (0x30, 9)) none) 3).sentAccept ≠ some (0x31, 9) ∧
    wgPeer (withWagCrc (setFld (aWaggle 2 0 0x31 0) 128 64 1)) ≠ n.ident.serial ∧ 3 ∈ ({ n with ident := { calBad := [3] } } : State).ident.calBad ∧
    ({ n with ident := { hivePresent := false } } : State).ident.hivePresent = false := by decide +kernel
theorem test_accept : (portOf (after (.accept (wag (aWaggle 2 0 0x31 0))) (negotiating (some (0x31, 9)) none)) 3).rx = .train ∧
    (portOf (after (.reject (wag (aWaggle 3 0 0 2))) quiet) 3).fault = some .wiringFault := by decide +kernel

/-- Port 3 in a state on an MFP version with fibre-length class 1. -/
def portIn (t : PState) (mfp : Nat) : Port := { sb := true, tx := t, rx := t, mfp := mfp, flc := 1 }
def linkIn (x : Port) : State := { up with ports := [(3, x)] }
theorem witness_trainComplete : (portOf (linkIn (portIn .train 3)) 3).tx = .train ∧ clocksRun (linkIn (portIn .train 3)) = true ∧
    (∀ l ∈ (portIn .train 3).rxLanes ++ (portIn .train 3).txLanes, l ≠ .failed) ∧ 76 < 77 ∧ (portIn .train 3).mfp ≠ 1 ∧ (portIn .train 1).mfp = 1 ∧
    reservedTotal (linkIn (portIn .train 1)) 0 + headroom 3 1 1 ≤ poolCount 0 ∧
    poolCount 0 < reservedTotal { linkIn (portIn .train 1) with comb := { hdrmSize := [(63, 655360)] } } 0 + headroom 3 1 1 ∧ (portOf linked 3).tx ≠ .train := by decide +kernel
theorem test_trainComplete : (portOf (after (.trainComplete 3 [3000, 6040]) (linkIn (portIn .train 3))) 3).tx = .probe ∧ (portOf (after (.trainComplete 3 [6041, 3000]) (linkIn (portIn .train 3))) 3).fault = some .skewFault ∧
    (portOf (after (.trainComplete 3 []) (linkIn (portIn .train 1))) 3).tx = .up := by decide +kernel
theorem witness_trainTimeout : (portOf (later (linkIn (portIn .train 3)) 5000000) 3).acceptAt + 5000000 ≤ nowNs (later (linkIn (portIn .train 3)) 5000000) ∧
    nowNs (later (linkIn (portIn .train 3)) 4999999) < (portOf (later (linkIn (portIn .train 3)) 4999999) 3).acceptAt + 5000000 := by decide +kernel
/-- Probe k, its echo, and a port that has k echoes of delay d. -/
def aProbe (k : Nat) (echo : Word) : Frame := mkFrame 7 0 3 9 3 6 0 0 k false echo []
def probing (d k : Nat) : State := { linkIn { portIn .probe 3 with probes := List.replicate k d, probesSent := k + 1, probeAt := List.replicate (k + 1) 0 } with clk := { t48 := 4000 } }
theorem witness_linkprobe : frmOp (aProbe 0 0) = 9 ∧ (aProbe 0 0).w3.getLsbD 0 = false ∧ 2 ≤ (portIn .probe 3).mfp ∧ (portIn .probe 3).rx = .probe ∧ (aProbe 15 1).w3.getLsbD 0 = true ∧
    frmSeq (aProbe 15 1) = (portOf (probing 50 15) 3).probes.length ∧ 15 < (portOf (probing 50 15) 3).probesSent ∧ (∀ x ∈ (portOf (probing 50 15) 3).probes, x = ((scNow (probing 50 15) - 0) - fld (1 : Word) 32 32 + 1) / 2) ∧
    (∃ x ∈ (portOf (probing 49 15) 3).probes, x ≠ 50) ∧ 14 + 1 < 16 ∧ frmSeq (aProbe 0 1) ≠ (portOf (probing 50 15) 3).probes.length ∧ reservedTotal (probing 50 15) 0 + headroom 3 3 1 ≤ poolCount 0 := by decide +kernel
theorem test_linkprobeEcho : (portOf (after (.linkprobeEcho 3 (aProbe 15 1)) (probing 50 15)) 3).linkDelay = 50 ∧ (portOf (after (.linkprobeEcho 3 (aProbe 15 1)) (probing 49 15)) 3).tx = .down ∧
    (portOf (after (.linkprobeEcho 3 (aProbe 14 1)) (probing 50 14)) 3).probesSent = 16 ∧ (after (.linkprobe 3 (aProbe 0 0)) (linkIn (portIn .probe 3))).out.length = 1 := by decide +kernel

/-- Port 3 with its lanes: eight in use, the ninth in a state. -/
def lanes9 (l : Lane) : List Lane := List.replicate 8 .active ++ [l]
def upPort (mfp : Nat) (t : PState) (ninth : Lane) : Port := { portIn t mfp with txLanes := lanes9 ninth, rxLanes := lanes9 ninth }
theorem witness_lanes : (Instr.lossOfLock 3 0, Ctr.lolEvent) ∈ [(Instr.lossOfSignal 3 0, Ctr.losEvent), (.lossOfLock 3 0, .lolEvent)] ∧ (upPort 3 .up .standby).rxLanes[0]? = some .active ∧
    (upPort 3 .up .failed).rxLanes[8]? = some .failed ∧ laneOf (upPort 3 .up .standby).rxMap 0 = some 0 ∧ ((setAt (lanes9 .standby) 0 .failed).filter (· == .failed)).length < 3 ∧
    2 ≤ ((setAt (lanes9 .failed) 0 .failed).filter (· == .failed)).length ∧ (portIn .down 3).rx = .down ∧ (upPort 3 .train .standby).rx = .train ∧ (upPort 3 .probe .standby).rx = .probe := by
  refine ⟨.tail _ (.head _), by decide +kernel⟩
theorem test_lossOfLock : (portOf (after (.lossOfLock 3 0) (linkIn (upPort 3 .up .standby))) 3).rx = .sparing ∧ (portOf (after (.lossOfSignal 3 0) (linkIn (upPort 1 .up .failed))) 3).rx = .down ∧
    (portOf (after (.lossOfLock 3 0) (linkIn (upPort 3 .train .standby))) 3).rxLanes.take 1 = [.failed] := by decide +kernel
/-- SPARE_REQ for logical lane 2, and SPARE_DONE. -/
def spareWag (type narrow : Nat) : WaggleRx := wag (withWagCrc (BitVec.ofNat 512 (pack [(0, 8, type), (8, 8, 27), (16, 3, 2), (19, 1, narrow), (64, 64, 9)])))
def txSpare (moved : Bool) (narrow : Bool) : Port := { upPort 3 .sparing .standby with rx := .up, txSparing := some 2, txNarrow := narrow, txMoved := moved, txSince := some 0 }
def rxSpare : Port := { upPort 3 .sparing .standby with tx := .up, rxSparing := some 2, rxLanes := setAt (lanes9 .standby) 2 .failed, rxSince := some 0 }
theorem witness_spareReq : wagHeard (linkIn (upPort 3 .up .standby)) (spareWag 4 0) 4 = true ∧ (upPort 3 .up .standby).tx ∈ [PState.up, .narrow, .sparing] ∧ (portIn .train 3).tx ∉ [PState.up, .narrow, .sparing] ∧
    wagHeard (linkIn (portIn .train 3)) (spareWag 4 0) 4 = true ∧ (tblGet {} (linkIn (upPort 3 .up .standby)).comb.egress 3).copies = [] ∧
    (tblGet {} ({ linkIn (upPort 3 .up .standby) with comb := { egress := [(3, { copies := [aCopy none 9, aCopy none 10] })] } } : State).comb.egress 3).copies = [aCopy none 9, aCopy none 10] := by decide +kernel
theorem witness_laneMove : (portOf (linkIn (txSpare false false)) 3).tx = .sparing ∧ (txSpare false false).txMoved = false ∧ (txSpare false false).txSparing = some 2 ∧ (txSpare false false).txLanes[8]? = some .standby ∧
    (∀ j, j < 8 → (txSpare false false).txLanes[j]? ≠ some .standby) ∧ (txSpare false true).txNarrow = true ∧ (txSpare true false).txMoved = true := by decide +kernel
theorem witness_aligned : (portOf (linkIn rxSpare) 3).rx = .sparing ∧ rxSpare.rxSparing = some 2 ∧ rxSpare.sb = true ∧ rxSpare.rxSince = some 0 ∧ (portOf linked 3).rx ≠ .sparing ∧
    0 + 20000 ≤ nowNs (later (linkIn rxSpare) 20000) ∧ nowNs (later (linkIn rxSpare) 19999) < 0 + 20000 ∧ wagHeard (linkIn (txSpare true false)) (spareWag 5 0) 5 = true ∧
    wagHeard (linkIn (txSpare false false)) (spareWag 5 0) 5 = true := by decide +kernel
theorem test_laneMove : (portOf (after (.laneMoveComplete 3) (linkIn (txSpare false false))) 3).txMap = 0x76543810 ∧ (portOf (after (.laneMoveComplete 3) (linkIn (txSpare false true))) 3).txMap = 0xF7654310 ∧
    (after (.laneMoveComplete 3) (linkIn (txSpare false false))).out = [.lanes 3 64] := by decide +kernel
theorem test_sparing : (portOf (after (.spareReq (spareWag 4 0)) (linkIn (upPort 3 .up .standby))) 3).txSparing = some 2 ∧ (portOf (after (.spareDone (spareWag 5 0)) (linkIn (txSpare true false))) 3).tx = .up ∧
    (portOf (after (.spareRxAligned 3) (linkIn rxSpare)) 3).rxMap = 0x76543810 ∧ (portOf (after (.sparingTimeout 3) (later (linkIn rxSpare) 20000)) 3).tx = .down := by decide +kernel
/-- Lane 2 is being moved to the spare, and lane 0 fails: seven lanes are asked for, with lane 2's move taken as made. -/
theorem test_sparing_again : let q := portOf (after (.lossOfLock 3 0) (linkIn rxSpare)) 3
    q.rxSparing = some 0 ∧ q.rxMap = 0x76543810 ∧ q.rxLanes = setAt (setAt (lanes9 .active) 2 .failed) 0 .failed ∧
    (portOf (after (.spareRxAligned 3) { linkIn rxSpare with ports := [(3, q)] }) 3).rxMap = 0xF8765431 ∧
    (portOf (after (.spareReq (spareWag 4 1)) (linkIn { txSpare false false with txSparing := some 0 })) 3).txMap = 0x76543218 := by decide +kernel

/-! ## Well-formed commands: an ill-formed term for each check, which it refuses -/

/-- A frame whose payload is one byte too long. -/
def longFrame : Frame := { aWrite with payload := List.replicate 4097 0 }
theorem wf_accepts : Instr.wf (.bar4Read 0x3FFFFFFC 4) = true ∧ Instr.wf (.bar4Write 0x3FFFFFFF [1]) = true ∧ Instr.wf (.registerWrite .bar0 0xFFFFFF [1]) = true ∧
    Instr.wf (.registerWrite .bar2 0x3FFFF [1]) = true ∧ Instr.wf (.mgmtDatagram 1 (List.replicate 8 0)) = true ∧ Instr.wf (.mgmtDatagram 1 (List.replicate 512 0)) = true ∧
    Instr.wf (.resetWarmCompute (.host 0) [(31, 16)]) = true ∧ Instr.wf (.bootStageComplete { fail := 0, cores := [(31, 16)], units := [31], channels := [(15, 63)] }) = true ∧
    Instr.wf (.railFault 5) = true ∧ Instr.wf (.clockFault 5) = true ∧ Instr.wf (.mwrite aWrite) = true ∧ Instr.wf .launchComplete = true := by decide +kernel
theorem wf_refuses_access : Instr.wf (.bar4Read 0x3FFFFFFD 4) = false ∧ Instr.wf (.bar4Read 0 0) = false ∧ Instr.wf (.bar4Read 0 4097) = false ∧ Instr.wf (.bar4Write 0 []) = false ∧
    Instr.wf (.registerWrite .bar0 0x1000000 [1]) = false ∧ Instr.wf (.registerWrite .bar2 0x40000 [1]) = false := by decide +kernel
theorem wf_refuses_length : Instr.wf (.mgmtDatagram 1 (List.replicate 7 0)) = false ∧ Instr.wf (.mgmtDatagram 1 (List.replicate 513 0)) = false := by decide +kernel
theorem wf_refuses_reports : Instr.wf (.resetWarmCompute (.host 0) [(32, 0)]) = false ∧ Instr.wf (.resetWarmCompute (.host 0) [(0, 17)]) = false ∧
    Instr.wf (.bootStageComplete { fail := 0, cores := [(0, 17)], units := [], channels := [] }) = false ∧ Instr.wf (.bootStageComplete { fail := 0, cores := [], units := [32], channels := [] }) = false ∧
    Instr.wf (.bootStageComplete { fail := 0, cores := [], units := [], channels := [(16, 0)] }) = false ∧ Instr.wf (.bootStageComplete { fail := 0, cores := [], units := [], channels := [(0, 64)] }) = false ∧
    Instr.wf (.railFault 6) = false ∧ Instr.wf (.clockFault 6) = false := by decide +kernel
theorem wf_refuses_frames : (∀ c ∈ [Instr.mwrite longFrame, .mwack longFrame, .mread longFrame, .mrdata longFrame, .event longFrame, .mbox longFrame, .mboxResponse longFrame, .twin longFrame,
    .vote longFrame, .release longFrame, .linkprobe 0 longFrame, .linkprobeEcho 0 longFrame], Instr.wf c = false) := by
  intro c h
  simp only [List.mem_cons, List.not_mem_nil, or_false] at h
  have : frameWf longFrame = false := by decide +kernel
  rcases h with rfl | rfl | rfl | rfl | rfl | rfl | rfl | rfl | rfl | rfl | rfl | rfl <;> exact this
/-- R37, R57: a NaN converted under a scale of 0xFF keeps its sign; a number gives the default NaN. -/
theorem test_cvt_nan_scale : (convElem 0x40 0 {} .e4m3 255 0 (.nan true 1 false)).code = 0xFF ∧ (convElem 0x40 0 {} .e4m3 255 0 (.fin true 1 0)).code = 0x7F := by
  decide +kernel
/-- R185: a malformed chunk's phase-0 OUT of INP sends default NaNs. -/
theorem test_out_malformed : (runOut0 { ctx := 0, word := 0, ty := .fp32, nsrc := 1, prog := [], chunk := 0, seq := 0, aux := [], step := 0, part := false, raw := false }
    { ps := [], got := [], cur := some { src := 0, piece := 0, last := true, stat := 0, scale := 127, nelem := 1, data := [0, 0, 128, 63] } }
    0x2002 { run := { check := 1, stat := 0x40 } }).eff.out.map (·.data) = [[0, 0, 0xC0, 0x7F]] := by decide +kernel


/-! ## Rules that the later forms of a row follow -/

/-- FP32 with flushing: 1.0, a subnormal and all ones in V2 to V4. -/
def ftzRun (op var : Nat) : State := withCore (vecB op 4 var 0) { v := [(2, 0x80000001), (3, 0x40000000), (4, 0xFFFFFFFF)], vctrl := 4 }
/-- R39, R40: FTZ flushes what VSEL and VMISC read. -/
theorem test_vsel_ftz : vcFtz 4 = true ∧ lane0 (.vsel 0) (ftzRun 0x0C 0) = 0x80000000 ∧ lane0 (.vsel 0) (withCore (vecB 0x0C 4 0 0) { v := [(2, 0x80000001), (4, 0xFFFFFFFF)] }) = 0x80000001 ∧
    lane0 (.vmisc 0) (ftzRun 0x10 12) = 0 := by decide +kernel
/-- R88: a LIST tile of values 0x38, −0 (not stored) and 0xB8 at positions 0, 34 and 97; ZERO when nothing is stored. -/
theorem test_encodeList : encodeList 0 0x7F [⟨0, 0, 0x38⟩, ⟨1, 2, 0x80⟩, ⟨3, 1, 0xB8⟩] = [4, 2, 0xF8, 3, 0, 0, 0, 0, 0x38, 0xB8, 0, 0x84, 1, 0, 0, 0] ∧
    encodeList 0 0x7F [⟨1, 2, 0x80⟩] = [0, 0, 0xF8, 3, 0, 0, 0, 0] := by decide +kernel
theorem witness_encodeList : ascending ([(⟨0, 0, 0x38⟩ : Pos), ⟨1, 2, 0x80⟩, ⟨3, 1, 0xB8⟩].map fun p => 32 * p.r + p.c) = true ∧ 0 ≤ 3 ∧ 0x7F < 256 ∧
    (∀ p ∈ [(⟨0, 0, 0x38⟩ : Pos), ⟨1, 2, 0x80⟩, ⟨3, 1, 0xB8⟩], p.r < 32 ∧ p.c < 32 ∧ p.v < 2 ^ (8 * vtBytes 0)) := by decide +kernel
/-- R83: 64 full tiles fill a row's 2,048 positions. -/
theorem test_segments : segments (List.replicate 130 (List.replicate 32 32)) = [0, 64, 128] := by decide +kernel

/-- Channel 0 asks for an index word that lies on die 1. -/
def farIndex : State := forage running { aChan (aMove (10 + 3 * 2 ^ 10) 16) with cur := [64, 4096, BitVec.ofNat 64 (dieBytes up), 0, 0, 0, 0, 0] }
/-- R313, R329: it is read by an MREAD of four bytes to the module itself. -/
theorem test_move_index : let t := after (.move 0) farIndex
    (t.comb.orig.map (·.frame)) = [mkFrame 3 1 0 3 5 5 0 (stepField farIndex 1) 0 false (BitVec.ofNat 64 (dieBytes up)) (bytesOfWords [4, 0])] ∧
    (chanOf t 0).idxRead = some 0 ∧ (chanOf t 0).pc = 0 := by decide +kernel
theorem witness_move_farIndex : chanReady farIndex 0 1 = true ∧ (chanWord farIndex 0 0).getLsbD 13 = true ∧ ownDie farIndex 0 (chanCur farIndex 0 2) = false ∧
    chanCur farIndex 0 2 % 4 = 0 ∧ addrFault farIndex (chanCur farIndex 0 2) 4 = 0 ∧ (chanOf farIndex 0).idxVal = none := by decide +kernel
/-- R325: SEL of the source's page has a double-bit error; the region is a FULL one of one page at 0. -/
def badSel (double : Bool) : State := let s := moving 0 16
  { s with hbm := { s.hbm with regions := [(0, setFld (setFld (setFlag 0 40 true) 64 40 4096) 128 40 8192)], selErrs := [(0, some double)] } }
theorem test_move_meta : moveMetaBad (badSel true) 0 (moveArgs (badSel true) 0 0) 16 16 = true ∧ (after (.move 0) (badSel true)).dev.mode = .safe ∧
    (after (.move 0) (badSel false)).hbm.selErrs = [] := by decide +kernel
/-- R216: a double-bit error of a chunk's own entry gives the chunk up; a single-bit one is counted. -/
def entryErr (double : Bool) : State := let s := chunked up (aChunk 0 false) (pieceFrame 9 0 1 true)
  { s with su := { s.su with errs := [(31, .entry 9 0 0, double)] } }
theorem test_entry_errors : (after (.stream 31) (entryErr true)).su.chunks = [] ∧ ((after (.stream 31) (entryErr false)).su.chunks.map (·.complete)) = [true] := by decide +kernel
/-- R277: eight sequence numbers after the oldest operation of a source the ninth waits. -/
def fullSource (next : Nat) : State := let s := collState running [aRecord 5 256 0] [anOp []]
  { s with coll := { s.coll with nextSeq := [(16, next)] } }
theorem test_collIssue_ninth : (after .collectiveIssue (fullSource 8)).coll.queue.length = 1 ∧ (after .collectiveIssue (fullSource 7)).coll.queue = [] := by decide +kernel
/-- R273: a record that the rules do not allow ends a step with BAD_ARG, and is its source's result outside one; R289: TIMEOUT outside a step. -/
theorem test_coll_results : (after .collectiveIssue (collState up [aRecord 0 1 0] [])).coll.results = [(16, some (0, 4))] ∧
    ((after .collectiveIssue (collState running [aRecord 0 1 0] [])).job.step.bind (·.fail)).map (·.status) = some 4 ∧
    (after (.collTimeout 4 0 0) (collState (later up 100000) [] [anOp []])).coll.results = [(16, some (0, Status.timeout.code))] := by decide +kernel

/-! ## The fibre -/

/-- R293, R308, R311: /I2/ from running disparity -1 and two characters of the second form, from the tables of IEEE 802.3 clause 36. -/
theorem test_sideband_chars : encodeChars false (idleChars ++ [.data 0xF1, .data 0xEB]) = ([0x0FA, 0x245, 0x237, 0x348], false) ∧
    [0, 1, 2, 3].map pam4 = [0, 1, 3, 2] := by decide +kernel
/-- R296: every root of the generator is a root of a codeword (a code of one word and four parity symbols). -/
theorem test_codeword : let c : Fec := { words := 1, parity := 4 }
    [0, 1, 2, 3].map (fun i => syndrome i (codeword c (headerOf 0 2 [.first 5]) [.first 5])) = [0, 0, 0, 0] ∧
    (fecOf 3 3).size = 272 ∧ (fecOf 3 3).data = 258 ∧ (fecOf 32 3).size = 544 ∧ (fecOf 32 3).data = 514 := by decide +kernel
/-- Table 10.1, R297 and R294: a header's positions, and the words of lane 1 of 2. -/
theorem test_header : headerOf 16384 2 [.idle, .pause 3, .first 5] = { ppos := 1, fpos := 2, mark := true, lane := 2, stby := false } ∧
    laneWords 2 2 1 [.idle, .pause 3, .first 5, .later 6] = [.pause 3, .later 6] := by decide +kernel
theorem test_delimit : ((List.replicate 2 0 ++ frameWords (frameFor 4 1)).foldl delimitWord {}).frames = [frameWords (frameFor 4 1)] := by decide +kernel

/-! ## The clauses on refusals, ends and answers that stand beside the plain ones -/

/-- O14: a group or context of a key in its step is neither armed nor disarmed. -/
theorem witness_groupsBlocked : can disarmGroupCmd busyGroup [4] ∧ stepBlocks busyGroup (gpKey (groupOf busyGroup 4)) = true ∧
    can armContextCmd busyGroup (contextArgs 0) ∧ stepBlocks busyGroup 1 = true ∧
    can armContextCmd withGroup (0x8001009 :: (contextArgs 0).tail) ∧ ctxNumber (req 0 (0x8001009 :: (contextArgs 0).tail)) = 9 ∧ ctxOf withGroup 9 ≠ none := by
  decide +kernel
/-- O24: THAW of 0xFFFF with ids held, a set at its last hop, and FREEZE_N with the module on and off. -/
def frozenSets : State := { frozenBy false with dev := { (frozenBy false).dev with freezeIds := [(7, false), (8, true)] } }
def idSet (c : Byte) (id hop : Nat) : SetRx := aSet 3 c (BitVec.ofNat 40 (id + 0x90000 + hop * 2 ^ 32))
theorem witness_thawAll : can thawCmd frozenSets [0xFFFF] ∧ (∃ h ∈ frozenSets.dev.freezeIds, h.2 = false) ∧
    setFresh frozenSets codeThaw 0 (idSet codeThaw 0xFFFF 0) ∧ frozenSets.dev.freezeIds ≠ [] ∧ setFresh linked codeFreeze 0 (idSet codeFreeze 7 255) ∧
    fld (idSet codeFreeze 7 255).payload 32 8 = 255 ∧ fld (idSet codeFreeze 7 254).payload 32 8 = 254 ∧ auxOn linked = true ∧ auxOn off = false := by
  unfold setFresh; decide +kernel
theorem test_thawAll : (after (.thaw (.host 0)) (ask frozenSets thawCmd.code [0xFFFF])).dev.freezeIds = [] ∧
    (after (.freezeOrderedSet (idSet codeFreeze 7 255)) linked).sbq = List.replicate 3 (.ordered 3 codeFreeze 0x50007) ∧
    freezeNPin (after .freezeNAssert off) = false ∧ freezeNPin (after (.freezeOrderedSet (idSet codeFreeze 7 0)) linked) = false := by decide +kernel
/-- O27: after eight refusals DEBUG_UNLOCK is turned away before its form is seen. -/
def lockedOut : State := { up with sec := { refusals := 8 } }
theorem witness_lockedOut : frontReq 0x0804 (.host 0) (ask lockedOut 0x0804 [1]) = some (req 0x0804 [1]) ∧ repeated (ask lockedOut 0x0804 [1]) (req 0x0804 [1]) = none ∧
    sessionCheck (takeReq (ask lockedOut 0x0804 [1]) (req 0x0804 [1])) (req 0x0804 [1]) = none ∧ byFabric (req 0x0804 [1]) = false ∧ 8 ≤ lockedOut.sec.refusals := by decide +kernel
/-- O30: what stages 0x12, 0x13, 0x14 and 0x17 find. -/
theorem witness_stages : clean.fail = 0 ∧ (atStage 0x12).comp.failed = [] ∧ (atStage 0x12).comp.failedQueens = [] ∧ (atStage 0x12).su.failed = [] ∧
    (let u := { atStage 0x12 with comp := { failedQueens := [31] } }
     let v := { u with comp := { u.comp with failedQueens := [], clusters := (gradeClusters u).map fun x => some x } }
     u.comp.failedQueens = [31] ∧ logicalCluster v 31 = some 31) ∧
    (atStage 0x13).hbm.spared.contains (15 * 64 + 63) = false ∧ (atStage 0x13).hbm.keptBad.contains (15 * 64 + 63) = false := by decide +kernel
/-- O31: a receiver that looks for the next first word, a frame found bad after its first word left, and headroom for a lossless frame. -/
def resyncing : State := { fabric with ports := [(3, { linkPort with resync := true }), (4, linkPort)] }
def roomy : State := { fabric with comb := { used := [(112, 131072)], hdrmSize := [(3, 1)] } }
theorem witness_arrivals : linkTakes resyncing 3 ∧ (portOf resyncing 3).resync = true ∧ linkTakes fabric 3 ∧ (portOf fabric 3).resync = false ∧
    ingressBad fabric 3 { arrives { frameFor 4 1 with crc := 0 } with cut := true } = true ∧ headBad fabric 3 { frameFor 4 1 with crc := 0 } = false ∧
    canTake roomy (8 * 3 + 4) 0 1 = false ∧ hdrmUsedAll roomy 3 + 1 ≤ hdrmSizeOf roomy 3 ∧ targetsOf roomy 3 true (frameFor 4 1) = some [.queue 4] := by
  unfold linkTakes; decide +kernel
theorem test_headroom : let t := after (.frameIngress (.wire 3 (arrives (frameFor 4 1)))) roomy
    hdrmUsedOf t 3 4 = 1 ∧ (tblGet {} t.comb.pauseTx 3).xoff.getLsbD 4 = true ∧ t.comb.queues = [((3 * 113 + 4) * 8 + 4, [0])] := by decide +kernel
/-- O32: a copy whose next word came too late, and one that was stomped. -/
theorem witness_late : (aCopy none 0).doneAt ≤ unitNow (sending 4 (aCopy none 0)) ∧ (portOf (sending 4 (aCopy none 0)) 4).tx ≠ .sparing ∧
    (portOf (linkIn (txSpare false false)) 3).tx = .sparing ∧ ({ aCopy none 0 with stomp := true } : Copy).stomp = true := by decide +kernel
theorem test_late : (after (.frameSent ⟨4, true⟩) (sending 4 (aCopy none 0))).stats = (count fabric .txUnderrun 4).stats ∧
    (after (.frameSent ⟨64, false⟩) (sending 64 { aCopy none 0 with stomp := true })).comb.localIn = [] := by decide +kernel
/-- O33: the boundaries of the statistics' windows. -/
theorem witness_boundaries : let s := later up 1000000
    let t := { s with stats := { stepMode := true, stepDue := true } }
    clocksRun s = true ∧ s.stats.start / 1000000 < nowNs s / 1000000 ∧ nowNs (later up 999999) / 1000000 ≤ (later up 999999).stats.start / 1000000 ∧
    s.stats.stepMode = false ∧ s.stats.stepDue = false ∧ t.job.launch = none ∧ t.stats.stepMode = true ∧ t.stats.stepDue = true ∧ running.job.launch ≠ none := by decide +kernel
/-- O34: frames of an attempt that is being given up, and in SAFE. -/
def poisonedWith (f : Frame) : State := withFrame (atStep { aStep with poisoned := some (0, 1), attempt := 1 }) f
theorem witness_gone : atTarget (poisonedWith (stepWrite 0)) (stepWrite 0) 1 ∧ attemptGone (poisonedWith (stepWrite 0)) 1 = true ∧
    atTarget (withFrame { reads with dev := { reads.dev with mode := .safe } } (theData 9)) (theData 9) 4 ∧ aFRead.copies = 1 :=
  ⟨at_hand (by decide +kernel) (by decide +kernel), by decide +kernel, at_hand (by decide +kernel) (by decide +kernel), by decide +kernel⟩
/-- O36: an APPEND region of 8,192 bytes with 16 committed, in a step and outside; and a die with 65,536 DIRTY pages. -/
def appendRegion : BitVec 320 := rgSetLens (setFlag (setFlag (ofWords 320 [0x80000001000, 8192, 0, 0, 0]) 40 true) 41 true) 16 16
def appending (s : State) : State := { s with hbm := { undef := false, regions := [(0, appendRegion)] } }
theorem witness_append : rgValid appendRegion = true ∧ rgAppend appendRegion = true ∧ rgBase appendRegion ≤ 4112 ∧ 4112 < rgBase appendRegion + rgLen appendRegion ∧
    writeInStep (appending running) (rgKey appendRegion) = true ∧ writeInStep (appending up) (rgKey appendRegion) = false ∧ rgClen appendRegion ≤ 4112 - rgBase appendRegion ∧
    4112 - rgBase appendRegion + 8 ≤ rgLen appendRegion ∧ 4111 - rgBase appendRegion < rgClen appendRegion ∧ rgLen appendRegion < 12280 - rgBase appendRegion + 9 := by decide +kernel
theorem test_append : let t := hbmWriteBlock (appending running) 4112 [1, 2]
    let clen := fun (u : State) => u.hbm.regions.map fun e => (rgClen e.2, rgPlen e.2)
    clen t = [(16, 18)] ∧ clen (regionsEnd t 1 true) = [(18, 18)] ∧ clen (regionsEnd t 1 false) = [(16, 16)] ∧
    ((hbmWriteBlock (appending running) 4111 [1]).job.step.bind (·.fail)).map (·.ecause) = some 5 := by decide +kernel
def fullDie : State := { shadowed with hbm := { shadowed.hbm with dirty := List.replicate 65536 (1, true) } }
theorem witness_dirtyLimit : 65536 ≤ dirtyOnDie fullDie (4100 / dieBytes fullDie) ∧ tblGet false fullDie.hbm.dirty (pageKey 0 0) = false := by
  have get : ∀ n, tblGet false (List.replicate n (1, true)) 0 = false := fun n => by
    induction n with
    | zero => rfl
    | succ n ih => simpa [List.replicate_succ, tblGet] using ih
  have h : (rgBase (tblGet 0 fullDie.hbm.regions (1 / 2 ^ 20)) / dieBytes fullDie == 4100 / dieBytes fullDie) = true := by decide +kernel
  refine ⟨?_, get 65536⟩
  show 65536 ≤ ((List.replicate 65536 (1, true)).filter _).length
  rw [List.filter_replicate, if_pos h]
  exact Nat.le_of_eq List.length_replicate.symm
/-- O38: sets of a key that runs no launch, of the committed step and of another. -/
theorem witness_noLaunch : let s := onSideband { up with job := { lastCommit := some (1, 6) } }
    (∀ l, s.job.launch = some l → fld (aPoison 1 6 1).payload 0 12 ≠ l.pkey) ∧ s.job.lastCommit = some (fld (aPoison 1 6 1).payload 0 12, 6) ∧ clocksHeld s = false := by decide +kernel
theorem test_noLaunch : let s := onSideband { up with job := { lastCommit := some (1, 6) } }
    (after (.poison (aPoison 1 6 1)) s).stats = (count s .poisonLate).stats ∧ (after (.poison (aPoison 2 6 1)) s).stats = (count s .poisonStale).stats := by decide +kernel
/-- O39: two ranks of one replica class whose digests differ, at the first attempt and at one after a mismatch. -/
def replicas (miss : Nat) (votes : List Vote) : State := { chair with
  fab := { chair.fab with windows := [(1, BitVec.ofNat 64 (0x10000 + 2 ^ 58))] }, job := { chair.job with votes := votes, replicaMiss := miss } }
def otherVote : Vote := { okVote 1 with replica := 1 }
theorem witness_replicas : replEn (replicas 0 []) 1 = true ∧ replLog (replicas 0 []) 1 = 0 ∧ rankCount (replicas 0 []) 1 = 2 ∧ (∀ x ∈ [okVote 0], x.rank ≠ otherVote.rank) ∧
    (∃ x ∈ [okVote 0, otherVote], ∃ y ∈ [okVote 0, otherVote], x.rank % 2 ^ 0 = 0 ∧ y.rank % 2 ^ 0 = 0 ∧ x.replica ≠ y.replica) ∧
    (∀ r, r < 2 → ∃ x ∈ [okVote 0, otherVote], x.rank = r) ∧ (replicas 1 []).job.replicaMiss = 1 ∧
    (∀ x ∈ [okVote 0, okVote 1], ∀ y ∈ [okVote 0, okVote 1], x.replica = y.replica) := by decide +kernel
theorem test_replicas : let t := takeVote (replicas 0 [okVote 0]) aLaunch aStep otherVote
    (t.job.step.bind (·.poisoned)).isSome = true ∧ t.job.votes = [] ∧ t.job.replicaMiss = 1 ∧ t.health.pendingMiss = 1 := by decide +kernel
/-- O40: a pair whose launch has SAFETY set, with another digest, once and twice in a row; and one that has voted without SAFETY. -/
def pairMiss (miss attempt : Nat) : State := let s := pairedAt safeLaunch { sentDigest with attempt := attempt }
  { s with job := { s.job with twinMiss := miss } }
theorem witness_pairMiss : digestWord (aTwin 1) 1 ≠ fullDigest safeLaunch sentDigest ∧ safeLaunch.safety = true ∧ (pairMiss 1 1).job.twinMiss = 1 ∧ attemptGone (pairMiss 1 1) 1 = false ∧
    attemptGone (atStep { sentDigest with poisoned := some (0, 1) }) 1 = true ∧ aLaunch.safety = false ∧ attemptOpen { aStep with voted := true } = false := by decide +kernel
theorem test_pairMiss : let run := fun s => after (.twin (aTwin 1)) (withFrame s (aTwin 1))
    (run (pairMiss 1 1)).dev.mode = .safe ∧ (run (pairMiss 0 0)).job.twinMiss = 1 ∧ ((run (pairMiss 0 0)).job.step.bind (·.poisoned)).isSome = true := by decide +kernel
/-- O41: the first step of a launch, before and after the ring has room; and a replay that reloads a resident region. -/
def firstStep : State := { running with job := { launch := some aLaunch } }
def resSlot : Slot := { endSlot with res := [BitVec.ofNat 192 (64 + 8 * 2 ^ 24 + 4096 * 2 ^ 64)] }
def reloading : State := let s := poisonedAt 20000
  { s with comp := { s.comp with slots := [(0, some resSlot)], ls := [(64, 9)] }, hbm := { undef := false, mem := [(4096, 5)] } }
theorem witness_firstStep : firstStep.job.step = none ∧ unitsRun firstStep = true ∧ firstStep.job.jobOver = false ∧ recordsFit firstStep = true ∧
    recordsFit { firstStep with host := fullRing.host } = false ∧ firstStep.coll.groups = [] ∧ firstStep.hbm.errs = [] ∧
    ((tblGet none reloading.comp.slots 0).map (·.res)) = some resSlot.res ∧ fld (resSlot.res.headD 0) 0 24 + fld (resSlot.res.headD 0) 24 24 ≤ 196608 ∧
    4096 + 511 * 0 + 8 ≤ hbmBytes reloading := by decide +kernel
theorem test_firstStep : ((after .commitComplete firstStep).job.step.map (·.seq)) = some 0 ∧ ((after .commitComplete firstStep).job.step.map (·.startL)) = some 0 := by decide +kernel
/-- O46, O49: conversions to E4M3 with the scale of the context and with one of the values, and FRD to FP8, FP16 and BF16. -/
def fp8Run (ctrl : BitVec 16) : State := withCore (vecB 0x0E 4 0 0) { vecCore with vctrl := ctrl }
theorem witness_fp8 : slotOnCore (fp8Run 0) 0 3 0x0E (fp8Run 0) (issued 3 (vecB 0x0E 4 0 0)) 0 ∧ slotOnCore (fp8Run 64) 0 3 0x0E (fp8Run 64) (issued 3 (vecB 0x0E 4 0 0)) 0 ∧
    tyOf (sf (issued 3 (vecB 0x0E 4 0 0)) 34 3) = some .e4m3 ∧ vecTy (issued 3 (vecB 0x0E 4 0 0)) = some .fp32 ∧ isFp8 .e4m3 = true ∧
    vcTileScale 0 = false ∧ vcTileScale 64 = true ∧ (lanesOf (vOf vecCore 2) 32 64).length = 64 := by unfold slotOnCore; decide +kernel
theorem witness_frd_narrow : (∀ ty ∈ [0, 1, 2, 3], let s := withCore (frdB 255 1 ty) (foldCore 1 0); slotOnCore s 0 4 4 s (issued 4 (frdB 255 1 ty)) 0) ∧
    ([0, 1, 2, 3].map fun ty => tyOf (sf (issued 4 (frdB 255 1 ty)) 25 3)) = [some .e4m3, some .e5m2, some .fp16, some .bf16] := by unfold slotOnCore; decide +kernel
theorem test_fp8 : nfld (vOf (coreOf (after (.vcvt 0) (fp8Run 64)) 0) 1).toNat 0 8 = 0x78 ∧
    nfld (vOf (coreOf (after (.frd 0) (withCore (frdB 255 1 2) (foldCore 1 0))) 0) 1).toNat 0 16 = 0x3C00 ∧
    nfld (vOf (coreOf (after (.frd 0) (withCore (frdB 255 1 3) (foldCore 1 0))) 0) 1).toNat 0 16 = 0x3F80 := by decide +kernel
/-- O49: two records from a stream, of entries 254 and 255. -/
def recsB (op : Nat) : Nat := bundleWith 4 (op + 254 * 2 ^ 6 + 1 * 2 ^ 14 + 2 * 2 ^ 20)
def twoRecords (op : Nat) : State := let s := withCore (recsB op) { s := [(2, { word := BitVec.ofNat 192 (64 + 48 * 2 ^ 64 + 2 ^ 112 * 3) })], fold := [(254, foldWord (oneEntry 1)), (255, foldWord (oneEntry 1))] }
  { s with comp := { s.comp with ls := memWrite (memWrite [] 64 (bytesOfNat (foldWord (oneEntry 1)).toNat 48)) 112 (bytesOfNat (foldWord (oneEntry 1)).toNat 48) } }
theorem witness_records : (∀ op ∈ [5, 6], slotOnCore (twoRecords op) 0 4 op (twoRecords op) (issued 4 (recsB op)) 0) ∧ sf (issued 4 (recsB 6)) 14 6 = 1 ∧
    254 + 2 ≤ 256 ∧ (∀ x ∈ (elements (strOf (coreOf (twoRecords 6) 0) 2) 0 2).1, x + 48 ≤ 196608) ∧ (elements (strOf (coreOf (twoRecords 6) 0) 2) 0 2).1 = [64, 112] ∧
    combineRecord (foldAt (twoRecords 6) 0 254) (oneEntry 1) = ({ oneEntry 2 with value := 2 ^ 193, folds := 2 }, 0, false) ∧
    (coreOf (twoRecords 6) 0).early = [] ∧ residueOk { oneEntry 2 with value := 2 ^ 193, folds := 2 } = true := by unfold slotOnCore; decide +kernel
theorem test_records : (foldAt (after (.fadd 0) (twoRecords 6)) 0 254).folds = 2 ∧ (foldAt (after (.fadd 0) (twoRecords 6)) 0 255).folds = 2 ∧
    memRead (after (.fexp 0) (twoRecords 5)).comp.ls 112 48 = bytesOfNat (foldWord (oneEntry 1)).toNat 48 := by decide +kernel
/-- O48: a MODE 1 entry with folds to spare. -/
theorem witness_mode1 : ({ mode := true } : FoldE).mode = true ∧ ({ mode := true } : FoldE).folds < 16777216 := by decide +kernel
/-- O52: a piece of an attempt that is being given up, and a chunk that ends by its timeout with nothing in the comb. -/
theorem witness_stream_gone : let s := queued (atStep { aStep with poisoned := some (0, 1), attempt := 1 }) (pieceFrame 9 0 0 true)
    headPiece s 31 = some (pieceFrame 9 0 0 true) ∧ ctxOf s 9 = some (aCtx none) ∧ (stepOf s 1).isSome = true ∧ attemptGone s 1 = true ∧
    (oldChunk up 100000).comb.metaErrs = [] ∧ (oldChunk up 100000).su.leaves = [] ∧ (oldChunk up 100000).su.granted = [] ∧ (aChunk 0 false).bufs = [] ∧ (aChunk 0 false).nodes = [] := by decide +kernel
theorem test_stream_gone : let s := queued (atStep { aStep with poisoned := some (0, 1), attempt := 1 }) (pieceFrame 9 0 0 true)
    (after (.stream 31) s).su.queue = [] ∧ (after (.stream 31) s).su.chunks = [] := by decide +kernel
/-- O53: a record that is well formed and names a cluster that is absent, in a step and outside. -/
theorem witness_recordAbsent : let s := { collState running [aRecord 5 256 0] [] with comp := noCluster.comp }
    issueOk s (aRecord 5 256 0) = true ∧ recordAbsent s (aRecord 5 256 0) = some 31 ∧ recordAbsent (collState running [] []) (aRecord 5 256 0) = none ∧
    stepOf s (gpKey (groupOf s 4)) ≠ none ∧ stepOf { s with job := {} } (gpKey (groupOf s 4)) = none := by decide +kernel
theorem test_recordAbsent : let s := { collState running [aRecord 5 256 0] [] with comp := noCluster.comp }
    ((after .collectiveIssue s).job.step.bind (·.fail)).map (·.status) = some Status.absentUnit.code ∧
    tblGet none (after .collectiveIssue { s with job := {} }).coll.results 16 = some (0, Status.absentUnit.code) := by decide +kernel
/-- O54: an issue record fetched word by word from a rank, an own-die index word whose region has a bad entry, and MOVEs that wait or do not. -/
def recordMove : State := let i : BitVec 256 := aMove (2 ^ 4 + 2 ^ 5 + 2 ^ 6 + 5 * 2 ^ 10) 40
  forage running { aChan i with cur := [64, BitVec.ofNat 64 (3 * 2 ^ 40), 8, 0, 0, 0, 0, 0] }
def badIndex : State := let s := moving 10 16
  { s with hbm := { s.hbm with regions := [(0, setFlag (ofWords 320 [0x80000000000, 4096, 8192, 0, 0]) 40 true)], selErrs := [(pageKey 0 0, true)] } }
theorem witness_recordMove : let m := moveArgs recordMove 0 0
    chanReady recordMove 0 1 = true ∧ moveFault recordMove 0 m = 0 ∧ m.len = 40 ∧ m.sfix = true ∧ nfld m.dst 40 3 = 3 ∧ moveEid recordMove 0 m.srem m.rank m.src 8 = some 5 ∧
    moveMetaBad recordMove 0 m 8 40 = false ∧ (ownDie badIndex 0 8 = true ∧ metaBad badIndex 8 4 = true ∧ addrFault badIndex 8 4 = 0) ∧
    (let c := chanOf (sinceMove true [aFRead] 50000) 0; c.st = .run ∧ c.reads ≠ []) ∧ (chanOf (sinceMove true [] 50000) 0).idxRead = none ∧ (chanWord (sinceMove true [] 50000) 0 0).getLsbD 18 = true := by
  decide +kernel
theorem test_recordMove : ((after (.move 0) recordMove).comb.orig.map fun o => o.frame.payload.take 8) = [[8, 0, 0, 0, 0, 0, 0, 0]] ∧
    ((chanOf (after (.move 0) recordMove) 0).reads.map fun r => (r.left, r.copies)) = [(8, 5)] ∧ (after (.move 0) badIndex).dev.mode = .safe := by decide +kernel
/-- O56: sets that wait, of which POISON goes before BEACON. -/
def waitingSets : State := { linked with sbq := [.ordered 3 codeBeacon 5, .ordered 3 codePoison 7, .ordered 3 codeBeacon 6] }
theorem witness_sideSend : waitingSets.sbq = [.ordered 3 codeBeacon 5] ++ .ordered 3 codePoison 7 :: [.ordered 3 codeBeacon 6] ∧ (portOf waitingSets 3).sbBusy ≤ waitingSets.clk.ticks ∧
    sideMay waitingSets (.ordered 3 codePoison 7) = true ∧ codePoison ≠ codeTime ∧ sideRank (.ordered 3 codePoison 7) < sideRank (.ordered 3 codeBeacon 5) ∧
    waitingSets.clk.ticks < (portOf { waitingSets with ports := [(3, { linkPort with sbBusy := 1 })] } 3).sbBusy := by decide +kernel
theorem test_sideSend : (sideSend waitingSets 3).out = [.ordered 3 codePoison 7] ∧ (sideSend waitingSets 3).sbq = [.ordered 3 codeBeacon 5, .ordered 3 codeBeacon 6] ∧
    sideSend (sideSend waitingSets 3) 3 = sideSend waitingSets 3 := by decide +kernel
/-- O57: a TIME set that leaves, an answer for which the sideband is not free, and a parent's late answer. -/
def timeWaits : State := { child .ready 50000 none with sbq := [.ordered 3 codeTime 0] }
theorem witness_timeLeaves : (portOf timeWaits 3).sb = true ∧ (portOf timeWaits 3).sbBusy ≤ timeWaits.clk.ticks ∧ (portOf timeWaits 3).wagEnd ≤ timeWaits.clk.ticks ∧
    timeWaits.sbq = [.ordered 3 codeTime 0] ∧ timeWaits.clk.due = [] ∧ 3 = timeWaits.clk.parent ∧ linked.clk.parent ≠ 3 ∧
    (owes 12800).clk.ticks < (portOf { owes 12800 with ports := [(3, { linkPort with sbBusy := 9 })] } 3).sbBusy ∧ (child .ready 25600 none).clk.asked = none := by decide +kernel
theorem test_timeLeaves : (sideSend timeWaits 3).out = [.ordered 3 codeTime 1041] ∧ (sideSend timeWaits 3).clk.asked = some 50000 ∧
    (after (.timeAnswer 3) { owes 12800 with ports := [(3, { linkPort with sbBusy := 9 })] }).out = [] ∧ (after (.timeAnswer 3) { owes 12800 with ports := [(3, { linkPort with sbBusy := 9 })] }).clk.due = [] := by
  decide +kernel
/-- O59, O60: a probe at a transmitter that is being spared, and copies in progress when the spare is asked for. -/
def busySpare : State := { linkIn (upPort 3 .up .standby) with comb := { frames := [heldRef 2 936], egress := [(3, { copies := [aCopy none 1000000, aCopy none 2000000] })] } }
theorem witness_sparingTx : (portOf (linkIn (txSpare false false)) 3).tx = .sparing ∧ frmOp (aProbe 0 0) = 9 ∧ clocksRun busySpare = true ∧ busySpare.comb.metaErrs = [] ∧
    busySpare.hbm.selErrs = [] ∧ busySpare.hbm.lenErrs = [] ∧ (tblGet {} busySpare.comb.egress 3).copies = [aCopy none 1000000, aCopy none 2000000] ∧
    (∀ x ∈ [aCopy none 1000000, aCopy none 2000000], unitNow busySpare < x.doneAt) ∧ clocksHeld busySpare = false := by decide +kernel
theorem test_sparingTx : exec (.linkprobe 3 (aProbe 0 0)) (linkIn (txSpare false false)) = .next (linkIn (txSpare false false)) := rfl
/-- O16, O17: tables without errors, and ABORT before the first step of a launch. -/
theorem witness_tablesClean : tablesClean (ask joined launchCmd.code (launchArgs 1)) ∧ tablesClean firstStep := by unfold tablesClean; decide +kernel
theorem witness_abort_first : can abortCmd firstStep [1] ∧ firstStep.job.launch = some aLaunch ∧ firstStep.job.step = none := by decide +kernel
theorem test_abort_first : (after (.abort (.host 0)) (ask firstStep abortCmd.code [1])).job.launch = none := by decide +kernel
/-- O22: a rehearsal that fell into a freeze. -/
theorem witness_missed : let s := { rehearses 0 with health := { (rehearses 0).health with missed := 2, lastRehearsal := rehearsalsDue (rehearses 0) } }
    clocksRun s = true ∧ smokerEn s = true ∧ 0 < s.health.missed := by decide +kernel
/-- O27: SPDM requests wait while a FORWARD runs; a stage 3 exchange asked in another version. -/
theorem witness_spdm_waits : forwarding.sceuf.forward ≠ none ∧ fwRuns forwarding = true ∧ (0x10 : Byte) ≠ 0x12 := by decide +kernel
/-- R108 of 04: reads of the cycle in which another wrote, and of the next one. -/
def foragerWrote : State := lsForagerWrite { State.reset with clk := { State.reset.clk with logic := 7 } } 0 4 [1, 2]
def coreWrote : State := lsCoreWrite { State.reset with clk := { State.reset.clk with logic := 7 } } 0 4 [1, 2]
theorem test_readBefore : (lsRead foragerWrote foragerWrote.comp.foragerWords 0 3 4).1 = [0, 0, 0, 0] ∧
    (lsRead foragerWrote foragerWrote.comp.coreWords 0 3 4).1 = [0, 1, 2, 0] ∧ (lsRead coreWrote coreWrote.comp.foragerWords 0 3 4).1 = [0, 1, 2, 0] ∧
    (spaceRead coreWrote (faddr 2 0 4) 2).1 = some [0, 0] ∧
    (let t := { foragerWrote with clk := { foragerWrote.clk with logic := 9 } }
     (lsRead t t.comp.foragerWords 0 3 4).1 = [0, 1, 2, 0]) ∧
    (let t := csWrite { State.reset with clk := { State.reset.clk with logic := 7 } } 2 8 [5]
     (csRead t t.comp.csWords 2 8 1).1 = [0] ∧ (csRead t [] 2 8 1).1 = [5]) := by decide +kernel

end Sys2Proof.Tests
end

section
/-! SUPPORT. Laws of bit fields, packing and two's complement (Machine/Bits.lean), and of the numbers that byte lists spell. -/

namespace Sys2Proof

/-- The fields lie one behind another, from bit `b` on and below bit `n`. -/
def fieldsWithin (n : Nat) : Nat → List (Nat × Nat × Nat) → Bool
  | b, [] => decide (b ≤ n)
  | b, (lo, len, _) :: r => decide (b ≤ lo) && fieldsWithin n (lo + len) r

theorem fieldsWithin_cons {n b lo len v : Nat} {r : List (Nat × Nat × Nat)} :
    fieldsWithin n b ((lo, len, v) :: r) = true ↔ b ≤ lo ∧ fieldsWithin n (lo + len) r = true := by
  simp [fieldsWithin]

theorem fieldsWithin_le {n b : Nat} {fs : List (Nat × Nat × Nat)} (h : fieldsWithin n b fs = true) : b ≤ n := by
  induction fs generalizing b with
  | nil => simpa [fieldsWithin] using h
  | cons f r ih =>
    obtain ⟨hlo, hr⟩ := fieldsWithin_cons.1 h
    have := ih hr
    omega

theorem le_of_mem_fieldsWithin {n b lo len v : Nat} {fs : List (Nat × Nat × Nat)} (h : fieldsWithin n b fs = true)
    (hm : (lo, len, v) ∈ fs) : b ≤ lo := by
  induction fs generalizing b with
  | nil => cases hm
  | cons f r ih =>
    obtain ⟨hb, hr⟩ := fieldsWithin_cons.1 h
    rcases List.mem_cons.1 hm with heq | hmem
    · cases heq; exact hb
    · exact Nat.le_trans (Nat.le_add_right_of_le hb) (ih hr hmem)

/-- A value in its field lies below the field's end. -/
theorem shiftLeft_field_lt (lo len v : Nat) : (v % 2 ^ len) <<< lo < 2 ^ (lo + len) := by
  rw [Nat.shiftLeft_eq, Nat.pow_add, Nat.mul_comm]
  exact Nat.mul_lt_mul_of_pos_left (Nat.mod_lt _ (Nat.two_pow_pos _)) (Nat.two_pow_pos _)

/-- Fields from bit `b` on make a multiple of 2^b below 2^n. -/
theorem pack_eq_mul {n b : Nat} {fs : List (Nat × Nat × Nat)} (h : fieldsWithin n b fs = true) :
    ∃ k, pack fs = 2 ^ b * k ∧ k < 2 ^ (n - b) := by
  induction fs generalizing b with
  | nil => exact ⟨0, rfl, Nat.two_pow_pos _⟩
  | cons f r ih =>
    obtain ⟨lo, len, v⟩ := f
    obtain ⟨hlo, hr⟩ := fieldsWithin_cons.1 h
    obtain ⟨k, hk, hlt⟩ := ih hr
    have hn := fieldsWithin_le hr
    refine ⟨2 ^ (lo - b) * (v % 2 ^ len + 2 ^ len * k), ?_, ?_⟩
    · have hb : 2 ^ lo = 2 ^ b * 2 ^ (lo - b) := by rw [← Nat.pow_add, Nat.add_sub_cancel' hlo]
      rw [pack, hk, Nat.shiftLeft_eq, Nat.pow_add, hb]
      simp only [Nat.mul_add, Nat.mul_comm (v % 2 ^ len), Nat.mul_assoc]
    · have hv : v % 2 ^ len < 2 ^ len := Nat.mod_lt _ (Nat.two_pow_pos _)
      have e : n - b = (lo - b) + (len + (n - (lo + len))) := by omega
      rw [e, Nat.pow_add, Nat.pow_add]
      refine Nat.mul_lt_mul_of_pos_left ?_ (Nat.two_pow_pos _)
      calc v % 2 ^ len + 2 ^ len * k < 2 ^ len * (k + 1) := by rw [Nat.mul_add]; omega
        _ ≤ 2 ^ len * 2 ^ (n - (lo + len)) := Nat.mul_le_mul_left _ hlt

theorem pack_lt {n b : Nat} {fs : List (Nat × Nat × Nat)} (h : fieldsWithin n b fs = true) : pack fs < 2 ^ n := by
  obtain ⟨k, hk, hlt⟩ := pack_eq_mul h
  have hn : n = b + (n - b) := by have := fieldsWithin_le h; omega
  rw [hk, hn, Nat.pow_add]
  exact Nat.mul_lt_mul_of_pos_left hlt (Nat.two_pow_pos _)

/-- Each field of packed fields reads as the value that was put there, cut to the field. -/
theorem nfld_pack {n b lo len v : Nat} {fs : List (Nat × Nat × Nat)} (h : fieldsWithin n b fs = true)
    (hm : (lo, len, v) ∈ fs) : nfld (pack fs) lo len = v % 2 ^ len := by
  induction fs generalizing b with
  | nil => cases hm
  | cons f r ih =>
    obtain ⟨lo', len', v'⟩ := f
    obtain ⟨-, hr⟩ := fieldsWithin_cons.1 h
    obtain ⟨k, hk, -⟩ := pack_eq_mul hr
    rcases List.mem_cons.1 hm with heq | hmem
    · cases heq
      rw [nfld, pack, hk, Nat.shiftLeft_eq, Nat.pow_add, Nat.mul_assoc, Nat.shiftRight_eq_div_pow, Nat.mul_comm _ (2 ^ lo),
        ← Nat.mul_add, Nat.mul_div_cancel_left _ (Nat.two_pow_pos _), Nat.add_mul_mod_self_left, Nat.mod_mod]
    · obtain ⟨d, rfl⟩ := Nat.exists_eq_add_of_le (le_of_mem_fieldsWithin hr hmem)
      have hx := shiftLeft_field_lt lo' len' v'
      rw [← ih hr hmem, nfld, nfld, pack, hk, Nat.shiftRight_add, Nat.shiftRight_add (2 ^ (lo' + len') * k),
        Nat.shiftRight_eq_div_pow _ (lo' + len'), Nat.shiftRight_eq_div_pow (2 ^ (lo' + len') * k) (lo' + len'),
        Nat.add_mul_div_left _ _ (Nat.two_pow_pos _), Nat.div_eq_of_lt hx, Nat.zero_add,
        Nat.mul_div_cancel_left _ (Nat.two_pow_pos _)]
theorem fld_eq_nfld {n : Nat} (w : BitVec n) (lo len : Nat) : fld w lo len = nfld w.toNat lo len := rfl

/-- Each field of a record built from packed fields reads as the value that was put there. -/
theorem fld_ofNat_pack {n lo len v : Nat} {fs : List (Nat × Nat × Nat)} (h : fieldsWithin n 0 fs = true)
    (hm : (lo, len, v) ∈ fs) (hv : v < 2 ^ len) : fld (BitVec.ofNat n (pack fs)) lo len = v := by
  rw [fld_eq_nfld, BitVec.toNat_ofNat, Nat.mod_eq_of_lt (pack_lt h), nfld_pack h hm, Nat.mod_eq_of_lt hv]

/-- A flag among packed fields is the bit at its place. -/
theorem testBit_pack {n b i : Nat} {x : Bool} {fs : List (Nat × Nat × Nat)} (h : fieldsWithin n b fs = true)
    (hm : (i, 1, x.toNat) ∈ fs) : (pack fs).testBit i = x := by
  have hf : pack fs / 2 ^ i % 2 = x.toNat := by
    have := nfld_pack h hm
    rwa [nfld, Nat.shiftRight_eq_div_pow, Nat.pow_one, Nat.mod_eq_of_lt x.toNat_lt] at this
  rw [Nat.testBit_eq_decide_div_mod_eq, hf]
  cases x <;> rfl

/-- The flags of a record built from packed fields. -/
theorem flag_ofNat_pack {n i : Nat} {x : Bool} {fs : List (Nat × Nat × Nat)} (h : fieldsWithin n 0 fs = true)
    (hm : (i, 1, x.toNat) ∈ fs) : flag (BitVec.ofNat n (pack fs)) i = x := by
  rw [flag, BitVec.getLsbD, BitVec.toNat_ofNat, Nat.mod_eq_of_lt (pack_lt h), testBit_pack h hm]

/-- Bits above the fields of a record are zero. -/
theorem fld_ofNat_pack_above {n m len : Nat} {fs : List (Nat × Nat × Nat)} (h : fieldsWithin m 0 fs = true) :
    fld (BitVec.ofNat n (pack fs)) m len = 0 := by
  have := pack_lt h
  rw [fld_eq_nfld, nfld, BitVec.toNat_ofNat, Nat.shiftRight_eq_div_pow,
    Nat.div_eq_of_lt (Nat.lt_of_le_of_lt (Nat.mod_le _ _) this), Nat.zero_mod]

/-- Two's complement is the balanced remainder. -/
theorem sextNat_eq_bmod {w : Nat} (hw : 0 < w) (v : Nat) : sextNat w v = (v : Int).bmod (2 ^ w) := by
  obtain ⟨k, rfl⟩ : ∃ k, w = k + 1 := ⟨w - 1, by omega⟩
  rw [sextNat, Int.bmod_def, Nat.add_sub_cancel, Nat.pow_succ]
  push_cast
  have hc : ((v % (2 ^ k * 2) : Nat) : Int) = (v : Int) % (2 ^ k * 2) := by push_cast; rfl
  have hp : ((2 ^ k : Nat) : Int) = 2 ^ k := by push_cast; rfl
  split <;> split <;> omega

theorem wrapSigned_eq_bmod {w : Nat} (hw : 0 < w) (v : Int) : wrapSigned w v = v.bmod (2 ^ w) := by
  have hp : (0 : Int) < ((2 ^ w : Nat) : Int) := by exact_mod_cast Nat.two_pow_pos w
  rw [wrapSigned, sextNat_eq_bmod hw, Int.toNat_of_nonneg (Int.emod_nonneg _ (Int.ne_of_gt hp)), Int.emod_bmod]

/-- The low bits of an integer, as a number. -/
theorem toNat_emod_two_pow_lt (w : Nat) (v : Int) : (v % ((2 ^ w : Nat) : Int)).toNat < 2 ^ w := by
  have hp : (0 : Int) < ((2 ^ w : Nat) : Int) := by exact_mod_cast Nat.two_pow_pos w
  exact (Int.toNat_lt (Int.emod_nonneg _ (Int.ne_of_gt hp))).2 (Int.emod_lt_of_pos _ hp)

/-- A value that fits is its own two's complement. -/
theorem wrapSigned_of_fits {k : Nat} {v : Int} (hlo : -(2 ^ k) ≤ v) (hhi : v < 2 ^ k) : wrapSigned (k + 1) v = v := by
  rw [wrapSigned_eq_bmod k.succ_pos, Nat.pow_succ]
  apply Int.bmod_eq_of_le <;> push_cast <;> omega

/-- Wrapping a summand first changes nothing. -/
theorem wrapSigned_wrapSigned_add {w : Nat} (hw : 0 < w) (a b : Int) : wrapSigned w (wrapSigned w a + b) = wrapSigned w (a + b) := by
  simp only [wrapSigned_eq_bmod hw, Int.bmod_add_bmod]

/-- The number spelled by a list of bytes and further ones. -/
theorem natOfBytes_append (a b : List Byte) : natOfBytes (a ++ b) = natOfBytes a + 256 ^ a.length * natOfBytes b := by
  induction a with
  | nil => simp [natOfBytes]
  | cons x a ih =>
    simp only [List.cons_append, natOfBytes, ih, List.length_cons, Nat.pow_succ]
    rw [Nat.mul_add, Nat.mul_comm (256 ^ _) 256, Nat.mul_assoc, Nat.add_assoc]

theorem natOfBytes_zeros (n : Nat) : natOfBytes (List.replicate n 0#8) = 0 := by
  induction n with
  | zero => rfl
  | succ n ih => simp [List.replicate_succ, natOfBytes, ih]

theorem natOfBytes_bytesOfNat_of_lt {v n : Nat} (h : v < 2 ^ (8 * n)) : natOfBytes (bytesOfNat v n) = v := by
  rw [natOfBytes_bytesOfNat, Nat.mod_eq_of_lt]
  rwa [Nat.pow_mul] at h

end Sys2Proof
end

section
/-! SUPPORT. Exact sums (02 R42 to R44, R51; 04 R101, R103, R118; 06 R171, R172, R192; 09 R284): what a partial adds to a fold entry,
what a term adds to a stream accumulator, and their records. -/

namespace Sys2Proof

/-- A residue of a sum whose first summand was reduced already. -/
theorem toNat_emod_add_emod (a : Nat) (x y : Int) :
    (((((a : Int) + x) % 255).toNat + y) % 255).toNat = (((a : Int) + x + y) % 255).toNat := by
  rw [Int.toNat_of_nonneg (Int.emod_nonneg _ (by decide)), Int.emod_add_emod]

/-- A register and its residue that agree still do when both take the same summand. -/
theorem residue_add {v : Int} {r : Nat} (x : Int) (h : (v % 255).toNat = r % 255) :
    ((v + x) % 255).toNat = (((r : Int) + x) % 255).toNat % 255 := by omega

/-- What a partial of an exact sum adds to an entry, in units of 2^-192 (R42, R43). -/
def scaledSum (s : Int) (p : Partial) : Int := p.sum * 2 ^ (s + 144).toNat

/-- The entry that a partial comes to when it folds as `x` units of 2^-192. -/
def foldExact (e : FoldE) (p : Partial) (x : Int) : FoldE :=
  { e with
    nan := e.nan || p.nan, pinf := e.pinf || p.pinf, ninf := e.ninf || p.ninf, anz := e.anz && p.anz, apz := e.apz && p.apz
    folds := e.folds + 1, value := wrapSigned 320 (e.value + x), residue := (((e.residue : Int) + x) % 255).toNat }

/-- A partial of an exact sum whose scale R44 admits folds, below the limit of R45, without an INVALID. -/
theorem foldPartial_exact {e : FoldE} {s : Int} (p : Partial) (hmode : e.mode = false) (hlo : -144 ≤ s) (hhi : s ≤ 63)
    (hfolds : e.folds < 16777216) : foldPartial e false s p = (foldExact e p (scaledSum s p), 0) := by
  have hs : ¬(s < -144 ∨ 63 < s) := by omega
  have hf : ¬16777216 ≤ e.folds := by omega
  simp [foldPartial, hmode, hs, hf, foldExact, scaledSum]

/-- A BF16 partial is added in FP32 (R50), below the limit of R45, without an INVALID. -/
theorem foldPartial_bf16 {e : FoldE} (s : Int) (p : Partial) (hmode : e.mode = true) (hfolds : e.folds < 16777216) :
    foldPartial e true s p = ({ e with
      nan := e.nan || p.nan, pinf := e.pinf || p.pinf, ninf := e.ninf || p.ninf, anz := e.anz && p.anz, apz := e.apz && p.apz
      folds := e.folds + 1, value := ((fAdd .fp32 .nearest e.value.toNat p.sum.toNat).code : Int) }, 0) := by
  have hf : ¬16777216 ≤ e.folds := by omega
  simp [foldPartial, hmode, hf]

/-- Partials fold in either order to one entry. -/
theorem foldExact_comm (e : FoldE) (p q : Partial) (x y : Int) :
    foldExact (foldExact e p x) q y = foldExact (foldExact e q y) p x := by
  simp only [foldExact, wrapSigned_wrapSigned_add (by decide : 0 < 320), toNat_emod_add_emod, Int.add_right_comm _ x y,
    Bool.or_right_comm _ p.nan, Bool.or_right_comm _ p.pinf, Bool.or_right_comm _ p.ninf, Bool.and_right_comm _ p.anz,
    Bool.and_right_comm _ p.apz]

/-- While the sum fits its 320 bits it is exact (R43). -/
theorem foldExact_value {e : FoldE} {x : Int} (p : Partial) (hlo : -(2 ^ 319) ≤ e.value + x) (hhi : e.value + x < 2 ^ 319) :
    (foldExact e p x).value = e.value + x := by
  simp only [foldExact]
  exact wrapSigned_of_fits (k := 319) hlo hhi

/-- While the sum fits its 320 bits the residue check of R118 holds on. -/
theorem residueOk_foldExact {e : FoldE} {x : Int} (p : Partial) (hmode : e.mode = false) (hlo : -(2 ^ 319) ≤ e.value + x)
    (hhi : e.value + x < 2 ^ 319) (h : residueOk e = true) : residueOk (foldExact e p x) = true := by
  have hm : (foldExact e p x).mode = false := hmode
  simp only [residueOk, hmode, Bool.false_or, beq_iff_eq] at h
  simp only [residueOk, hm, Bool.false_or, beq_iff_eq, foldExact_value p hlo hhi]
  exact residue_add x h

/-- The 320 bits of an entry's value in its record (Table 4.2). -/
def foldBits (e : FoldE) : Nat := if e.mode then e.value.toNat else (e.value % (2 ^ 320 : Nat)).toNat

/-- The fields of an entry's record (Table 4.2). -/
def foldFields (e : FoldE) : List (Nat × Nat × Nat) :=
  [(0, 320, foldBits e), (320, 1, e.nan.toNat), (321, 1, e.pinf.toNat),
    (322, 1, e.ninf.toNat), (323, 1, e.anz.toNat), (324, 1, e.apz.toNat), (325, 1, e.mode.toNat), (326, 25, e.folds),
    (351, 8, e.residue), (360, 16, e.split)]

theorem foldWord_eq (e : FoldE) : foldWord e = BitVec.ofNat 384 (pack (foldFields e)) := rfl

theorem fieldsWithin_foldFields (e : FoldE) : fieldsWithin 384 0 (foldFields e) = true := rfl

/-- A field of an entry's record that holds its value reads as it. -/
theorem fld_foldWord {e : FoldE} {lo len v : Nat} (hm : (lo, len, v) ∈ foldFields e) (hv : v < 2 ^ len) :
    fld (foldWord e) lo len = v := by
  rw [foldWord_eq]
  exact fld_ofNat_pack (fieldsWithin_foldFields e) hm hv

theorem flag_foldWord {e : FoldE} {i : Nat} {b : Bool} (hm : (i, 1, b.toNat) ∈ foldFields e) : flag (foldWord e) i = b := by
  rw [foldWord_eq]
  exact flag_ofNat_pack (fieldsWithin_foldFields e) hm

/-- The value's 320 bits, read back as MODE says. -/
theorem foldOf_foldWord_value {e : FoldE}
    (hv : if e.mode then 0 ≤ e.value ∧ e.value < 2 ^ 32 else -(2 ^ 319) ≤ e.value ∧ e.value < 2 ^ 319) :
    (if e.mode then ((fld (foldWord e) 0 32 : Nat) : Int) else sextNat 320 (fld (foldWord e) 0 320)) = e.value := by
  have hmem : (0, 320, foldBits e) ∈ foldFields e := by simp [foldFields]
  cases hm : e.mode with
  | true =>
    simp only [hm, if_true] at hv ⊢
    have hlt : e.value.toNat < 2 ^ 32 := by omega
    have hbits : foldBits e = e.value.toNat := by rw [foldBits, if_pos hm]
    have hpow (w : Nat) (hw : 32 ≤ w) : 2 ^ 32 ≤ 2 ^ w := Nat.pow_le_pow_right (by decide) hw
    have h320 := fld_foldWord hmem (by rw [hbits]; exact Nat.lt_of_lt_of_le hlt (hpow 320 (by decide)))
    have hcut (w : Nat) (hw : 32 ≤ w) : fld (foldWord e) 0 32 = fld (foldWord e) 0 w % 2 ^ 32 := by
      rw [fld, fld, Nat.mod_mod_of_dvd _ (Nat.pow_dvd_pow 2 hw)]
    rw [hcut 320 (by decide), h320, hbits, Nat.mod_eq_of_lt hlt]
    omega
  | false =>
    simp only [hm, Bool.false_eq_true, if_false] at hv ⊢
    have hbits : foldBits e = (e.value % (2 ^ 320 : Nat)).toNat := by rw [foldBits, hm, if_neg Bool.false_ne_true]
    rw [fld_foldWord hmem (by rw [hbits]; exact toNat_emod_two_pow_lt 320 _), hbits, ← wrapSigned]
    exact wrapSigned_of_fits (k := 319) hv.1 hv.2

/-- A record is the entry that was sent (R103). -/
theorem foldOf_foldWord {e : FoldE} (hfolds : e.folds < 2 ^ 25) (hsplit : e.split < 65536) (hres : e.residue < 256)
    (hv : if e.mode then 0 ≤ e.value ∧ e.value < 2 ^ 32 else -(2 ^ 319) ≤ e.value ∧ e.value < 2 ^ 319) :
    foldOf (foldWord e) = e := by
  have hmode : flag (foldWord e) 325 = e.mode := flag_foldWord (by simp [foldFields])
  have hnan : flag (foldWord e) 320 = e.nan := flag_foldWord (by simp [foldFields])
  have hpinf : flag (foldWord e) 321 = e.pinf := flag_foldWord (by simp [foldFields])
  have hninf : flag (foldWord e) 322 = e.ninf := flag_foldWord (by simp [foldFields])
  have hanz : flag (foldWord e) 323 = e.anz := flag_foldWord (by simp [foldFields])
  have hapz : flag (foldWord e) 324 = e.apz := flag_foldWord (by simp [foldFields])
  have hfolds' : fld (foldWord e) 326 25 = e.folds := fld_foldWord (by simp [foldFields]) hfolds
  have hres' : fld (foldWord e) 351 8 = e.residue := fld_foldWord (by simp [foldFields]) hres
  have hsplit' : fld (foldWord e) 360 16 = e.split := fld_foldWord (by simp [foldFields]) hsplit
  simp only [foldOf, hmode, foldOf_foldWord_value hv, hnan, hpinf, hninf, hanz, hapz, hfolds', hres', hsplit']

namespace Machine

/-- What a term adds to an accumulator's register, in units of its least bit (R171, Table 2.4). -/
def termUnits (t : Ty) : Val → Int
  | .fin n m e => signedOf n m * ((2 ^ (e - accLsb t).toNat : Nat) : Int)
  | _ => 0

/-- The accumulator that a term comes to, field by field (R51, R171, R192). -/
def accTerm (t : Ty) (a : SAcc) (v : Val) : SAcc :=
  { a with
    value := a.value + termUnits t v, residue := (((a.residue : Int) + termUnits t v) % 255).toNat, nan := a.nan || v.isNan
    pinf := a.pinf || (v.isInf && !v.neg?), ninf := a.ninf || (v.isInf && v.neg?)
    allNegZero := a.allNegZero && (v.isZero && v.neg?), allPosZero := a.allPosZero && (v.isZero && !v.neg?) }

theorem residue_accTerm_lt (t : Ty) (a : SAcc) (v : Val) : (accTerm t a v).residue < 255 := by
  simp only [accTerm]; omega

/-- `accAdd` keeps the residue of a term that is not finite, and a residue below 255 is its own remainder. -/
theorem accAdd_eq_accTerm (t : Ty) {a : SAcc} (v : Val) (h : a.residue < 255) : accAdd t a v = accTerm t a v := by
  have hr : ((a.residue : Int) % 255).toNat = a.residue := by omega
  cases v with
  | nan => simp [accAdd, accTerm, termUnits, Val.isNan, Val.isInf, Val.isZero, hr]
  | inf n => cases n <;> simp [accAdd, accTerm, termUnits, Val.isNan, Val.isInf, Val.isZero, Val.neg?, hr]
  | fin n m e => simp [accAdd, accTerm, termUnits, Val.isNan, Val.isInf, Bool.and_assoc]

theorem accTerm_comm (t : Ty) (a : SAcc) (x y : Val) : accTerm t (accTerm t a x) y = accTerm t (accTerm t a y) x := by
  simp only [accTerm, toNat_emod_add_emod, Int.add_right_comm _ (termUnits t x), Bool.or_right_comm, Bool.and_right_comm]

/-- The order of two terms does not matter (R48). -/
theorem accAdd_comm (t : Ty) {a : SAcc} (x y : Val) (h : a.residue < 255) :
    accAdd t (accAdd t a x) y = accAdd t (accAdd t a y) x := by
  rw [accAdd_eq_accTerm t x h, accAdd_eq_accTerm t y h, accAdd_eq_accTerm t y (residue_accTerm_lt t a x),
    accAdd_eq_accTerm t x (residue_accTerm_lt t a y), accTerm_comm]

/-- Joining a partial that holds a term is adding the term to the joined sum (09 R284). -/
theorem accJoin_accAdd (t : Ty) {a : SAcc} (b : SAcc) (x : Val) (h : a.residue < 255) :
    accJoin (accAdd t a x) b = accAdd t (accJoin a b) x := by
  have hj : (accJoin a b).residue < 255 := Nat.mod_lt _ (by decide)
  rw [accAdd_eq_accTerm t x h, accAdd_eq_accTerm t x hj]
  have hr : ((((a.residue : Int) + termUnits t x) % 255).toNat + b.residue) % 255 =
      (((((a.residue + b.residue) % 255 : Nat) : Int) + termUnits t x) % 255).toNat := by omega
  simp only [accJoin, accTerm, hr, Int.add_right_comm _ (termUnits t x), Bool.or_right_comm, Bool.and_right_comm]

theorem accJoin_comm (a b : SAcc) : accJoin a b = accJoin b a := by
  simp only [accJoin, Int.add_comm b.value, Nat.add_comm b.residue, Bool.or_comm, Bool.and_comm]

theorem accOk_iff (a : SAcc) : accOk a = true ↔ (a.value % 255).toNat = a.residue % 255 := by simp [accOk]

theorem accOk_accAdd (t : Ty) {a : SAcc} (x : Val) (h : a.residue < 255) (ok : accOk a = true) : accOk (accAdd t a x) = true := by
  rw [accOk_iff] at *
  rw [accAdd_eq_accTerm t x h]
  exact residue_add _ ok

theorem accOk_accJoin {a b : SAcc} (ha : accOk a = true) (hb : accOk b = true) : accOk (accJoin a b) = true := by
  rw [accOk_iff] at *
  simp only [accJoin]
  omega

/-- A finite term adds its exact value; only a zero keeps a flag of zeros (R51, R53, R171). -/
theorem accAdd_fin (t : Ty) (a : SAcc) (n : Bool) (m : Nat) (e : Int) : let c := accAdd t a (.fin n m e)
    c.value = a.value + (if n then -(m : Int) else m) * 2 ^ (e - accLsb t).toNat ∧ c.nan = a.nan ∧ c.pinf = a.pinf ∧
      c.ninf = a.ninf ∧ (m ≠ 0 → accEmpty c = false ∧ c.allNegZero = false ∧ c.allPosZero = false) := by
  refine ⟨by simp [accAdd, signedOf], rfl, rfl, rfl, fun hm => ?_⟩
  have hz : (m == 0) = false := by simp [hm]
  simp [accAdd, accEmpty, Val.isZero, hz]

/-- Bytes of an accumulator's register (R103, Table 2.4). -/
def accBytes (t : Ty) : Nat := if narrowAcc t then 12 else 40

/-- The fields behind the register in a raw record (Table 6.5). -/
def rawTag (a : SAcc) : List (Nat × Nat × Nat) :=
  [(0, 8, a.residue), (8, 1, a.nan.toNat), (9, 1, a.pinf.toNat), (10, 1, a.ninf.toNat), (11, 1, a.allNegZero.toNat),
    (12, 1, a.allPosZero.toNat), (13, 1, a.seen.toNat)]

theorem fieldsWithin_rawTag (a : SAcc) : fieldsWithin 16 0 (rawTag a) = true := rfl

/-- The register of an accumulator as it stands in a raw record. -/
def accBits (t : Ty) (a : SAcc) : Nat := (a.value % ((2 ^ (8 * accBytes t) : Nat) : Int)).toNat

/-- A raw record is the register, the tag and zeros up to its size. -/
theorem rawOf_eq (t : Ty) (a : SAcc) : rawOf t a = bytesOfNat (accBits t a) (accBytes t) ++
    (bytesOfNat (pack (rawTag a)) 2 ++ List.replicate (rawBytes t - (accBytes t + 2)) 0#8) := by
  have h : rawOf t a = bytesOfNat (accBits t a) (accBytes t) ++ bytesOfNat (pack (rawTag a)) 2 ++ List.replicate (rawBytes t -
    (bytesOfNat (accBits t a) (accBytes t) ++ bytesOfNat (pack (rawTag a)) 2).length) 0#8 := rfl
  rw [h, List.append_assoc, List.length_append, length_bytesOfNat, length_bytesOfNat]

theorem length_rawOf (t : Ty) (a : SAcc) : (rawOf t a).length = rawBytes t := by
  rw [rawOf_eq]
  cases h : narrowAcc t <;> simp [accBytes, rawBytes, h]

/-- The register of a raw record, read back. -/
theorem sextNat_take_rawOf (t : Ty) {a : SAcc} (hlo : -(2 ^ (8 * accBytes t - 1)) ≤ a.value)
    (hhi : a.value < 2 ^ (8 * accBytes t - 1)) :
    sextNat (8 * accBytes t) (natOfBytes ((rawOf t a).take (accBytes t))) = a.value := by
  have hk : 8 * accBytes t = (8 * accBytes t - 1) + 1 := by unfold accBytes; split <;> rfl
  rw [rawOf_eq, List.take_left' (length_bytesOfNat _ _), accBits,
    natOfBytes_bytesOfNat_of_lt (toNat_emod_two_pow_lt _ _)]
  have := wrapSigned_of_fits hlo hhi
  rwa [← hk] at this

/-- The tag of a raw record, read back. -/
theorem natOfBytes_tag_rawOf (t : Ty) (a : SAcc) :
    natOfBytes (((rawOf t a).drop (accBytes t)).take 2) = pack (rawTag a) := by
  rw [rawOf_eq, List.drop_left' (length_bytesOfNat _ _), List.take_left' (length_bytesOfNat _ _),
    natOfBytes_bytesOfNat_of_lt (pack_lt (fieldsWithin_rawTag a))]

/-- A raw record is the accumulator that was sent (09 R284). -/
theorem accOfRaw_rawOf (t : Ty) {a : SAcc} (hr : a.residue < 256) (hlo : -(2 ^ (8 * accBytes t - 1)) ≤ a.value)
    (hhi : a.value < 2 ^ (8 * accBytes t - 1)) : accOfRaw t (rawOf t a) = a := by
  have hbit : ∀ {i : Nat} {x : Bool}, (i, 1, x.toNat) ∈ rawTag a → (pack (rawTag a)).testBit i = x :=
    testBit_pack (fieldsWithin_rawTag a)
  have hres : pack (rawTag a) % 256 = a.residue := by
    have := nfld_pack (lo := 0) (len := 8) (v := a.residue) (fieldsWithin_rawTag a) (by simp [rawTag])
    exact this.trans (Nat.mod_eq_of_lt hr)
  have hval := sextNat_take_rawOf t hlo hhi
  have htag := natOfBytes_tag_rawOf t a
  rw [accBytes] at hval htag
  simp only [accOfRaw, hval, htag, hres, hbit (x := a.nan) (i := 8) (by simp [rawTag]), hbit (x := a.pinf) (i := 9) (by simp [rawTag]),
    hbit (x := a.ninf) (i := 10) (by simp [rawTag]), hbit (x := a.allNegZero) (i := 11) (by simp [rawTag]),
    hbit (x := a.allPosZero) (i := 12) (by simp [rawTag]), hbit (x := a.seen) (i := 13) (by simp [rawTag])]

/-- A finite sum other than zero is rounded once when it is read out (R46). -/
theorem accRead_of_finite (t d : Ty) (r : Rounding) (sat : Bool) {a : SAcc} (hnan : a.nan = false) (hpinf : a.pinf = false)
    (hninf : a.ninf = false) (hv : a.value ≠ 0) :
    accRead t d r sat 0 a = roundBy d r sat (decide (a.value < 0)) a.value.natAbs (accLsb t) := by
  have hz : a.value.natAbs ≠ 0 := Int.natAbs_ne_zero.2 hv
  simp [accRead, accVal, hnan, hpinf, hninf, hv]

end Machine
end Sys2Proof

open Sys2Proof Sys2Proof.Machine

/-- Settles O48: a fold and an accumulator hold what they add in fields that commute one by one, and the records' fields lie apart. -/
theorem sumsAreExact : Obligations.SumsAreExact := by
  refine ⟨fun e p q a b hmode halo hahi hblo hbhi hfolds => ?_, fun e p hmode hfolds => ?_,
    fun e hfolds hsplit hv hres => foldOf_foldWord hfolds hsplit hres hv, fun t a b ha hb => ?_⟩
  · have hp := foldPartial_exact p hmode halo hahi (by omega)
    have hq := foldPartial_exact q hmode hblo hbhi (by omega)
    have hpq := foldPartial_exact (e := foldExact e p (scaledSum a p)) q hmode hblo hbhi (by simp only [foldExact]; omega)
    have hqp := foldPartial_exact (e := foldExact e q (scaledSum b q)) p hmode halo hahi (by simp only [foldExact]; omega)
    simp only [hp, hq, hpq, hqp]
    exact ⟨trivial, rfl, rfl, fun hlo hhi => ⟨foldExact_value p hlo hhi, residueOk_foldExact p hmode hlo hhi⟩,
      foldExact_comm e p q _ _⟩
  · simp only [foldPartial_bf16 0 p hmode hfolds]
    exact ⟨trivial, trivial, trivial, trivial, trivial, trivial⟩
  · refine ⟨fun x y => accAdd_comm t x y ha, fun x => accJoin_accAdd t b x ha, accJoin_comm a b, fun x => accOk_accAdd t x ha,
      accOk_accJoin, fun n m e _ => accAdd_fin t a n m e, ?_, length_rawOf t a,
      fun d r sat hnan hpinf hninf hv => accRead_of_finite t d r sat hnan hpinf hninf hv⟩
    rintro n rfl hlo hhi
    exact accOfRaw_rawOf t (by omega) hlo hhi

end

section
/-! SUPPORT. Rounding gives every finite code back (02 R34, R46): a code's value splits at the destination's quantum without a
remainder, and the code of that split is the code itself. -/

namespace Sys2Proof

theorem bitLen_le {m k : Nat} (h : m < 2 ^ k) : bitLen m ≤ k := by
  unfold bitLen
  split
  · exact Nat.zero_le k
  · rename_i hm; exact (Nat.log2_lt hm).2 h

theorem bitLen_eq {m k : Nat} (hlo : 2 ^ k ≤ m) (hhi : m < 2 ^ (k + 1)) : bitLen m = k + 1 := by
  have hm : m ≠ 0 := by have := Nat.two_pow_pos k; omega
  rw [bitLen, if_neg hm, (Nat.log2_eq_iff hm).2 ⟨hlo, hhi⟩]

/-- Without a remainder nothing rounds up. -/
theorem roundsUp_exact (rm : Rm) (neg : Bool) (kept : Nat) : roundsUp rm neg kept 0 0 false = false := by
  cases rm <;> simp [roundsUp]

/-- The quantum of a magnitude m * 2^e in a format: that of its highest bit, or of the smallest normal where it is below that. -/
def quantum (t : Ty) (m : Nat) (e : Int) : Int := max ((bitLen m : Int) - 1 + e) (1 - tyBias t) - tyMant t

/-- A magnitude that is given at its quantum splits without a remainder. -/
theorem splitAt_quantum {t : Ty} {m : Nat} {e : Int} (h : quantum t m e = e) :
    ∃ tiny, splitAt t m e = (m, 0, 0, e, tiny) := by
  have hq : (if (bitLen m : Int) - 1 + e < 1 - tyBias t then 1 - tyBias t else (bitLen m : Int) - 1 + e) - tyMant t = e := by
    rw [quantum] at h
    split <;> omega
  refine ⟨decide ((bitLen m : Int) - 1 + e < 1 - tyBias t), ?_⟩
  simp [splitAt, hq]

/-- A magnitude at its quantum that does not overflow rounds to its own code, whatever the direction, and raises no flag. -/
theorem roundVal_quantum {t : Ty} {m : Nat} {e : Int} (rm : Rm) (sat neg : Bool) (hm : m ≠ 0) (hq : quantum t m e = e)
    (hfits : overflows t m e = false) : roundVal t rm sat neg m e = ⟨codeOf t neg m e, {}, 0⟩ := by
  obtain ⟨tiny, hsplit⟩ := splitAt_quantum hq
  simp [roundVal, hm, hsplit, roundsUp_exact, hfits]

/-- The three fields of a code (Table 2.1). -/
def signField (t : Ty) (code : Nat) : Bool := code.testBit (tyWidth t - 1)
def expField (t : Ty) (code : Nat) : Nat := nfld code (tyMant t) (tyExp t)
def mantField (t : Ty) (code : Nat) : Nat := code % 2 ^ tyMant t

/-- The code without its sign (Table 2.1). -/
def magField (t : Ty) (code : Nat) : Nat := (expField t code <<< tyMant t) + mantField t code

theorem tyWidth_eq (t : Ty) : tyWidth t - 1 = tyMant t + tyExp t := by cases t <;> rfl

theorem mantField_lt (t : Ty) (code : Nat) : mantField t code < 2 ^ tyMant t := Nat.mod_lt _ (Nat.two_pow_pos _)

theorem expField_lt (t : Ty) (code : Nat) : expField t code < 2 ^ tyExp t := Nat.mod_lt _ (Nat.two_pow_pos _)

theorem magField_eq_mod (t : Ty) (code : Nat) : magField t code = code % 2 ^ (tyWidth t - 1) := by
  rw [tyWidth_eq, Nat.pow_add, Nat.mod_mul, magField, expField, mantField, nfld, Nat.shiftRight_eq_div_pow, Nat.shiftLeft_eq,
    Nat.add_comm, Nat.mul_comm]

/-- A code is its sign and its magnitude side by side. -/
theorem sign_add_magField {t : Ty} {code : Nat} (h : code < 2 ^ tyWidth t) :
    (if signField t code then signBit t else 0) + magField t code = code := by
  have hw : tyWidth t = (tyWidth t - 1) + 1 := by cases t <;> rfl
  rw [hw, Nat.pow_succ] at h
  have hdiv : code / 2 ^ (tyWidth t - 1) < 2 := Nat.div_lt_of_lt_mul h
  have hmod := Nat.div_add_mod code (2 ^ (tyWidth t - 1))
  rw [magField_eq_mod, signField, signBit, Nat.testBit_eq_decide_div_mod_eq, Nat.mod_eq_of_lt hdiv]
  rcases Nat.le_one_iff_eq_zero_or_eq_one.1 (Nat.lt_succ_iff.1 hdiv) with h0 | h1
  · simp only [h0] at hmod ⊢; simpa using hmod
  · simp only [h1] at hmod ⊢; simpa using hmod

/-- The fields of a code give a magnitude m * 2^e: a subnormal's, or a normal's with its hidden bit (R34). -/
def FiniteFields (t : Ty) (code m : Nat) (e : Int) : Prop :=
  (expField t code = 0 ∧ m = mantField t code ∧ e = 1 - tyBias t - tyMant t) ∨
    (expField t code ≠ 0 ∧ m = 2 ^ tyMant t + mantField t code ∧ e = expField t code - tyBias t - tyMant t)

/-- What a finite code's fields are, and that its magnitude is one of the finite ones (R34, R35). -/
theorem decodeVal_fin {t : Ty} {code : Nat} {n : Bool} {m : Nat} {e : Int} (h : decodeVal t code = .fin n m e) :
    n = signField t code ∧ magField t code ≤ maxFinite t ∧ FiniteFields t code m e := by
  have hfin : (if expField t code = 0 then Val.fin (signField t code) (mantField t code) (1 - tyBias t - tyMant t)
      else .fin (signField t code) (2 ^ tyMant t + mantField t code) ((expField t code : Int) - tyBias t - tyMant t)) = .fin n m e ∧
      magField t code ≤ maxFinite t := by
    have hm := mantField_lt t code
    have hx := expField_lt t code
    cases t with
    | e4m3 =>
      rw [magField_eq_mod]
      simp only [decodeVal] at h
      split at h
      · cases h
      · rename_i hnan
        refine ⟨h, ?_⟩
        simp only [tyWidth, maxFinite]
        omega
    | _ =>
      simp only [decodeVal] at h
      split at h
      · split at h <;> cases h
      · rename_i hex
        refine ⟨h, ?_⟩
        change expField _ code ≠ _ at hex
        simp only [magField, Nat.shiftLeft_eq, tyMant, tyExp, tyWidth, maxFinite] at hm hx hex ⊢
        omega
  obtain ⟨hval, hmax⟩ := hfin
  split at hval
  · rename_i h0
    injection hval with h1 h2 h3
    exact ⟨h1.symm, hmax, .inl ⟨h0, h2.symm, h3.symm⟩⟩
  · rename_i h0
    injection hval with h1 h2 h3
    exact ⟨h1.symm, hmax, .inr ⟨h0, h2.symm, h3.symm⟩⟩

/-- A finite code's value is given at its quantum, and its code is the magnitude of the code it came from. -/
theorem quantum_of_fields {t : Ty} {code m : Nat} {e : Int} (h : FiniteFields t code m e) :
    quantum t m e = e ∧ ((e + tyMant t + tyBias t - 1).toNat <<< tyMant t) + m = magField t code := by
  have hlt := mantField_lt t code
  rcases h with ⟨hx, rfl, rfl⟩ | ⟨hx, rfl, rfl⟩
  · have hb := bitLen_le hlt
    have hz : (1 - tyBias t - tyMant t + tyMant t + tyBias t - 1 : Int) = 0 := by omega
    refine ⟨by rw [quantum]; omega, ?_⟩
    rw [hz, magField, hx]
    rfl
  · have hb := bitLen_eq (k := tyMant t) (m := 2 ^ tyMant t + mantField t code) (by omega) (by rw [Nat.pow_succ]; omega)
    have hz : (expField t code - tyBias t - tyMant t + tyMant t + tyBias t - 1 : Int).toNat = expField t code - 1 := by omega
    refine ⟨by rw [quantum, hb]; omega, ?_⟩
    obtain ⟨x, hx⟩ := Nat.exists_eq_succ_of_ne_zero hx
    rw [hz, magField, hx, Nat.shiftLeft_eq, Nat.shiftLeft_eq, Nat.succ_sub_one, Nat.succ_mul, Nat.add_assoc]

/-- A zero keeps its sign and nothing else is left of it (R53). -/
theorem roundVal_zero (t : Ty) (rm : Rm) (sat neg : Bool) (e : Int) :
    roundVal t rm sat neg 0 e = ⟨if neg then signBit t else 0, {}, 0⟩ := rfl

/-- Rounding the value of a finite code gives the code back and raises no flag (R46, R456, R457). -/
theorem roundVal_decodeVal {t : Ty} {code : Nat} {n : Bool} {m : Nat} {e : Int} (rm : Rm) (sat : Bool)
    (hcode : code < 2 ^ tyWidth t) (h : decodeVal t code = .fin n m e) : roundVal t rm sat n m e = ⟨code, {}, 0⟩ := by
  obtain ⟨rfl, hmax, hfields⟩ := decodeVal_fin h
  obtain ⟨hq, hmag⟩ := quantum_of_fields hfields
  have hsum := sign_add_magField hcode
  by_cases hm : m = 0
  · have hzero : magField t code = 0 := by
      rcases hfields with ⟨hx, hmant, -⟩ | ⟨-, hmant, -⟩
      · rw [magField, hx, ← hmant, hm, Nat.zero_shiftLeft]
      · have := Nat.two_pow_pos (tyMant t); omega
    rw [hzero, Nat.add_zero] at hsum
    rw [hm, roundVal_zero, hsum]
  · have hfits : overflows t m e = false := by
      simp only [overflows, hmag, gt_iff_lt, Nat.not_lt.2 hmax, decide_false, Bool.and_false]
    rw [roundVal_quantum rm sat _ hm hq hfits, codeOf, hmag, hsum]

end Sys2Proof
end

section
/-! SUPPORT. The greedy segments of a band (03 R83): no segment's row holds more than 2,048 positions, and none could take its next
tile. -/

namespace Sys2Proof

theorem ascending_iff_pairwise (l : List Nat) : ascending l = true ↔ l.Pairwise (· < ·) := by
  induction l with
  | nil => exact ⟨fun _ => .nil, fun _ => rfl⟩
  | cons a l ih =>
    cases l with
    | nil => exact ⟨fun _ => List.pairwise_singleton _ _, fun _ => rfl⟩
    | cons b r =>
      rw [ascending, Bool.and_eq_true, decide_eq_true_eq, ih]
      constructor
      · rintro ⟨hab, hr⟩
        refine List.pairwise_cons.2 ⟨fun x hx => ?_, hr⟩
        rcases List.mem_cons.1 hx with rfl | hx
        · exact hab
        · exact Nat.lt_trans hab ((List.pairwise_cons.1 hr).1 x hx)
      · intro h
        obtain ⟨hall, hr⟩ := List.pairwise_cons.1 h
        exact ⟨hall b List.mem_cons_self, hr⟩

/-- What the tiles from `a` up to `b` store of row `r`. -/
def rowHeld (tiles : List (List Nat)) (a b r : Nat) : Nat := ((tiles.drop a).take (b - a)).foldl (fun n x => n + x.getD r 0) 0

/-- The tiles from `a` up to `b` fit a segment, and they do not (R83). -/
def RowsFit (tiles : List (List Nat)) (a b : Nat) : Prop := ∀ r, r < 32 → rowHeld tiles a b r ≤ 2048
def RowOver (tiles : List (List Nat)) (a b : Nat) : Prop := ∃ r, r < 32 ∧ 2048 < rowHeld tiles a b r

@[simp] theorem rowHeld_self (tiles : List (List Nat)) (a r : Nat) : rowHeld tiles a a r = 0 := by simp [rowHeld]

/-- One more tile. -/
theorem rowHeld_succ {tiles : List (List Nat)} {x : List Nat} {a t : Nat} (hat : a ≤ t) (hx : tiles[t]? = some x) (r : Nat) :
    rowHeld tiles a (t + 1) r = rowHeld tiles a t r + x.getD r 0 := by
  have hget : (tiles.drop a)[t - a]? = some x := by rw [List.getElem?_drop, Nat.add_sub_cancel' hat, hx]
  rw [rowHeld, Nat.succ_sub hat, List.take_add_one, hget, List.foldl_append]
  rfl

/-- STARTs, from that of a segment on, are as R83 chooses them, up to the end of the band. -/
def CutWell (tiles : List (List Nat)) : List Nat → Prop
  | [] => True
  | [a] => RowsFit tiles a tiles.length
  | a :: b :: r => RowsFit tiles a b ∧ RowOver tiles a (b + 1) ∧ CutWell tiles (b :: r)

/-- Well-cut STARTs, one by one. -/
theorem CutWell.get {tiles : List (List Nat)} {starts : List Nat} (h : CutWell tiles starts) {k a : Nat} (hk : starts[k]? = some a) :
    RowsFit tiles a (starts.getD (k + 1) tiles.length) ∧ ∀ b, starts[k + 1]? = some b → RowOver tiles a (b + 1) := by
  induction starts generalizing k with
  | nil => simp at hk
  | cons s r ih =>
    cases r with
    | nil =>
      obtain ⟨rfl, rfl⟩ : k = 0 ∧ s = a := by cases k <;> simp_all
      exact ⟨h, fun b hb => by simp at hb⟩
    | cons s' r =>
      obtain ⟨hfit, hover, hrest⟩ := h
      cases k with
      | zero =>
        obtain rfl : s = a := by simpa using hk
        refine ⟨hfit, fun b hb => ?_⟩
        obtain rfl : s' = b := by simpa using hb
        exact hover
      | succ k => exact ih hrest hk

/-- The counts that the greedy rule carries for its running segment: what the tiles from its START on store of each row. -/
def Counts (tiles : List (List Nat)) (last t : Nat) (count : List Nat) : Prop :=
  count.length = 32 ∧ ∀ r, count.getD r 0 = rowHeld tiles last t r

theorem addRows_getD {a b : List Nat} (h : a.length = b.length) (r : Nat) : (addRows a b).getD r 0 = a.getD r 0 + b.getD r 0 := by
  simp only [addRows, List.getD_eq_getElem?_getD, List.getElem?_zipWith]
  rcases Nat.lt_or_ge r a.length with hr | hr
  · simp [hr, h ▸ hr]
  · simp [hr, h ▸ hr]

section tile
variable {tiles : List (List Nat)} {x : List Nat} {last t : Nat} {count : List Nat}

/-- The counts with one more tile. -/
theorem Counts.add (h : Counts tiles last t count) (hlt : last ≤ t) (hx : tiles[t]? = some x) (hlen : x.length = 32) :
    Counts tiles last (t + 1) (addRows count x) := by
  obtain ⟨hc, hrow⟩ := h
  refine ⟨by simp [addRows, hc, hlen], fun r => ?_⟩
  rw [addRows_getD (hc.trans hlen.symm), hrow, rowHeld_succ hlt hx]

/-- The counts of a segment that starts with a tile. -/
theorem Counts.start (hx : tiles[t]? = some x) (hlen : x.length = 32) : Counts tiles t (t + 1) x :=
  ⟨hlen, fun r => by rw [rowHeld_succ (Nat.le_refl t) hx, rowHeld_self, Nat.zero_add]⟩

/-- Some count lies over the limit where some row of the segment does. -/
theorem Counts.any_iff (h : Counts tiles last t count) :
    count.any (fun n => decide (segLimit < n)) = true ↔ RowOver tiles last t := by
  obtain ⟨hc, hrow⟩ := h
  simp only [List.any_eq_true, decide_eq_true_eq, RowOver, ← hrow]
  constructor
  · rintro ⟨n, hn, hlt⟩
    obtain ⟨r, hr, rfl⟩ := List.mem_iff_getElem.1 hn
    exact ⟨r, hc ▸ hr, by rw [List.getD_eq_getElem?_getD, List.getElem?_eq_getElem hr, Option.getD_some]; exact hlt⟩
  · rintro ⟨r, hr, hlt⟩
    have hr' : r < count.length := hc.symm ▸ hr
    exact ⟨count[r], List.getElem_mem hr', by rw [List.getD_eq_getElem?_getD, List.getElem?_eq_getElem hr', Option.getD_some] at hlt; exact hlt⟩

theorem not_rowOver_iff {a b : Nat} : ¬RowOver tiles a b ↔ RowsFit tiles a b := by simp [RowOver, RowsFit]

/-- A tile by itself fits a segment: it stores at most 32 positions of a row. -/
theorem rowsFit_one (hx : tiles[t]? = some x) (hsmall : ∀ n ∈ x, n ≤ 32) : RowsFit tiles t (t + 1) := by
  intro r _
  rw [rowHeld_succ (Nat.le_refl t) hx, rowHeld_self, Nat.zero_add, List.getD_eq_getElem?_getD]
  cases hr : x[r]? with
  | none => exact Nat.zero_le _
  | some n => exact Nat.le_trans (hsmall n (List.mem_of_getElem? hr)) (by decide)

end tile

/-- The greedy rule from tile `t` on: STARTs that are well cut, in rising order, each at a tile of the band. -/
theorem segmentsFrom_cutWell {tiles : List (List Nat)} (hrows : ∀ x ∈ tiles, x.length = 32 ∧ ∀ n ∈ x, n ≤ 32)
    (rest : List (List Nat)) : ∀ {t last : Nat} {count : List Nat}, tiles.drop t = rest → last ≤ t → t ≤ tiles.length →
      Counts tiles last t count → RowsFit tiles last t →
      CutWell tiles (last :: segmentsFrom t last count rest) ∧ (last :: segmentsFrom t last count rest).Pairwise (· < ·) ∧
        ∀ s ∈ segmentsFrom t last count rest, t ≤ s ∧ s < tiles.length := by
  induction rest with
  | nil =>
    intro t last count hrest hlt hle hcount hfit
    have hend : t = tiles.length := Nat.le_antisymm hle (List.drop_eq_nil_iff.1 hrest)
    exact ⟨hend ▸ hfit, List.pairwise_singleton _ _, fun s hs => absurd hs List.not_mem_nil⟩
  | cons x rest ih =>
    intro t last count hrest hlt hle hcount hfit
    have hx : tiles[t]? = some x := by
      have := congrArg (fun l => l[0]?) hrest
      simpa using this
    have hlen : t < tiles.length := (List.getElem?_eq_some_iff.1 hx).1
    have hdrop : tiles.drop (t + 1) = rest := by rw [← List.drop_drop, hrest]; rfl
    obtain ⟨hx32, hsmall⟩ := hrows x (List.mem_of_getElem? hx)
    have hadd := hcount.add hlt hx hx32
    rw [segmentsFrom]
    split
    · rename_i hcut
      obtain ⟨hlast, hover⟩ := by simpa only [Bool.and_eq_true, decide_eq_true_eq, hadd.any_iff] using hcut
      obtain ⟨hcw, hpw, hmem⟩ := ih hdrop (Nat.le_succ t) hlen (.start hx hx32) (rowsFit_one hx hsmall)
      refine ⟨⟨hfit, hover, hcw⟩, List.pairwise_cons.2 ⟨?_, hpw⟩, ?_⟩
      · intro s hs
        rcases List.mem_cons.1 hs with rfl | hs
        · exact hlast
        · have := hmem s hs; omega
      · intro s hs
        rcases List.mem_cons.1 hs with rfl | hs
        · exact ⟨Nat.le_refl _, hlen⟩
        · have := hmem s hs; omega
    · rename_i hcut
      have hfit' : RowsFit tiles last (t + 1) := by
        by_cases hlast : last < t
        · rw [← not_rowOver_iff, ← hadd.any_iff]
          simpa [hlast] using hcut
        · obtain rfl : last = t := by omega
          exact rowsFit_one hx hsmall
      obtain ⟨hcw, hpw, hmem⟩ := ih hdrop (Nat.le_succ_of_le hlt) hlen hadd hfit'
      exact ⟨hcw, hpw, fun s hs => by have := hmem s hs; omega⟩

theorem counts_zero (tiles : List (List Nat)) : Counts tiles 0 0 (List.replicate 32 0) := by
  refine ⟨by simp, fun r => ?_⟩
  rw [rowHeld_self, List.getD_eq_getElem?_getD, List.getElem?_replicate]
  split <;> rfl

/-- The segments of a band: well-cut STARTs from 0 on, in rising order, each at a tile of the band. -/
theorem segments_cutWell {tiles : List (List Nat)} (hrows : ∀ x ∈ tiles, x.length = 32 ∧ ∀ n ∈ x, n ≤ 32) :
    CutWell tiles (segments tiles) ∧ ascending (segments tiles) = true ∧ ∀ t ∈ segments tiles, t = 0 ∨ t < tiles.length := by
  obtain ⟨hcw, hpw, hmem⟩ := segmentsFrom_cutWell hrows tiles (List.drop_zero ..) (Nat.le_refl 0) (Nat.zero_le _) (counts_zero tiles)
    (fun r _ => by rw [rowHeld_self]; exact Nat.zero_le _)
  refine ⟨hcw, (ascending_iff_pairwise _).2 hpw, fun t ht => ?_⟩
  rcases List.mem_cons.1 ht with rfl | ht
  · exact .inl rfl
  · exact .inr (hmem t ht).2

end Sys2Proof
end

section
/-! SUPPORT. Tiles as they are encoded (03 R74 to R76, R88): what header, values and codes read as, and that a tile encoded for a
LIST tensor passes every check of Table 3.6 and holds the positions that were stored. -/

namespace Sys2Proof

theorem le_roundUp_eight (a : Nat) : a ≤ roundUp a 8 := by simp only [roundUp, ceilDiv]; omega

theorem vtBytes_eq (v : Nat) : vtBytes v = 1 ∨ vtBytes v = 2 := by unfold vtBytes; split <;> simp

section header
variable {format vtype count scale : Nat} {fb : Bool}

/-- The fields of a tile header (Table 3.1). -/
def headerFields (format vtype count scale : Nat) (fb : Bool) : List (Nat × Nat × Nat) :=
  [(0, 4, format), (4, 3, vtype), (7, 1, fb.toNat), (8, 11, count), (19, 8, scale)]

theorem tileHeader_eq : tileHeader format vtype count scale fb = BitVec.ofNat 64 (pack (headerFields format vtype count scale fb)) := rfl

theorem fieldsWithin_headerFields (n : Nat) (h : 27 ≤ n) : fieldsWithin n 0 (headerFields format vtype count scale fb) = true := by
  simpa [headerFields, fieldsWithin] using h

theorem fld_tileHeader {lo len v : Nat} (hm : (lo, len, v) ∈ headerFields format vtype count scale fb) (hv : v < 2 ^ len) :
    fld (tileHeader format vtype count scale fb) lo len = v := by
  rw [tileHeader_eq]
  exact fld_ofNat_pack (fieldsWithin_headerFields 64 (by decide)) hm hv

theorem thFormat_tileHeader (h : format < 16) : thFormat (tileHeader format vtype count scale fb) = format :=
  fld_tileHeader (by simp [headerFields]) h

theorem thVtype_tileHeader (h : vtype < 8) : thVtype (tileHeader format vtype count scale fb) = vtype :=
  fld_tileHeader (by simp [headerFields]) h

theorem thCount_tileHeader (h : count < 2048) : thCount (tileHeader format vtype count scale fb) = count :=
  fld_tileHeader (by simp [headerFields]) h

theorem thScale_tileHeader (h : scale < 256) : thScale (tileHeader format vtype count scale fb) = scale :=
  fld_tileHeader (by simp [headerFields]) h

theorem thFb_tileHeader : thFb (tileHeader format vtype count scale fb) = fb := by
  rw [thFb, tileHeader_eq]
  exact flag_ofNat_pack (fieldsWithin_headerFields 64 (by decide)) (by simp [headerFields])

theorem reserved_tileHeader : fld (tileHeader format vtype count scale fb) 27 37 = 0 := by
  rw [tileHeader_eq]
  exact fld_ofNat_pack_above (fieldsWithin_headerFields 27 (Nat.le_refl _))

/-- The size that R76 gives a tile whose FORMAT and VTYPE are not reserved. -/
theorem tileLen_tileHeader (hf : format ≤ 5) (hv : vtype ≤ 3) (hc : count < 2048) :
    tileLen (tileHeader format vtype count scale fb) = roundUp (8 + valueCount format count * vtBytes vtype +
      ceilDiv (valueCount format count * codeWidth format) 8) 8 := by
  have hformat : thFormat (tileHeader format vtype count scale fb) = format := thFormat_tileHeader (by omega)
  have hvtype : thVtype (tileHeader format vtype count scale fb) = vtype := thVtype_tileHeader (by omega)
  have hres : tileReserved (tileHeader format vtype count scale fb) = false := by
    simp [tileReserved, hformat, hvtype, hf, hv]
  simp [tileLen, hres, hformat, hvtype, thCount_tileHeader hc]

end header

section bytes
variable (h : Word) (values codes : List Nat)

/-- The codes as one bit string, code `i` from bit `w * i` on (R74). -/
def codeString (w : Nat) (codes : List Nat) : Nat := codes.foldr (fun c a => c % 2 ^ w + (a <<< w)) 0

theorem codeString_cons (w c : Nat) (r : List Nat) : codeString w (c :: r) = c % 2 ^ w + 2 ^ w * codeString w r := by
  rw [codeString, List.foldr_cons, Nat.shiftLeft_eq, Nat.mul_comm]
  rfl

theorem codeString_lt (w : Nat) : codeString w codes < 2 ^ (codes.length * w) := by
  induction codes with
  | nil => simp [codeString]
  | cons c r ih =>
    have hc : c % 2 ^ w < 2 ^ w := Nat.mod_lt _ (Nat.two_pow_pos _)
    rw [codeString_cons, List.length_cons, Nat.succ_mul, Nat.add_comm (r.length * w), Nat.pow_add]
    calc c % 2 ^ w + 2 ^ w * codeString w r < 2 ^ w * (codeString w r + 1) := by rw [Nat.mul_add]; omega
      _ ≤ 2 ^ w * 2 ^ (r.length * w) := Nat.mul_le_mul_left _ ih

/-- Each code of the string reads back. -/
theorem nfld_codeString {w i : Nat} (hi : i < codes.length) : nfld (codeString w codes) (w * i) w = codes[i] % 2 ^ w := by
  induction codes generalizing i with
  | nil => cases hi
  | cons c r ih =>
    cases i with
    | zero => rw [codeString_cons, nfld, Nat.mul_zero, Nat.shiftRight_zero, Nat.add_mul_mod_self_left, Nat.mod_mod]; rfl
    | succ i =>
      rw [List.getElem_cons_succ, ← ih (Nat.lt_of_succ_lt_succ hi), nfld, nfld, codeString_cons, Nat.mul_succ, Nat.add_comm (w * i),
        Nat.shiftRight_add, Nat.shiftRight_eq_div_pow _ w, Nat.add_mul_div_left _ _ (Nat.two_pow_pos _),
        Nat.div_eq_of_lt (Nat.mod_lt _ (Nat.two_pow_pos _)), Nat.zero_add]

/-- A tile is its header, its values, its codes and zeros (R74). -/
theorem tileBytes_eq : ∃ pad, tileBytes h values codes = bytesOfNat h.toNat 8 ++
    (values.flatMap (fun v => bytesOfNat v (vtBytes (thVtype h))) ++ (bytesOfNat (codeString (codeWidth (thFormat h)) codes)
      (ceilDiv (codes.length * codeWidth (thFormat h)) 8) ++ List.replicate pad 0#8)) := by
  simp only [tileBytes, List.append_assoc, codeString]
  exact ⟨_, rfl⟩

theorem length_values (b : Nat) : (values.flatMap fun v => bytesOfNat v b).length = values.length * b := by
  induction values with
  | nil => rw [List.flatMap_nil, List.length_nil, List.length_nil, Nat.zero_mul]
  | cons v r ih => rw [List.flatMap_cons, List.length_append, length_bytesOfNat, ih, List.length_cons, Nat.succ_mul, Nat.add_comm]

theorem length_tileBytes : (tileBytes h values codes).length = roundUp (8 + values.length * vtBytes (thVtype h) +
    ceilDiv (codes.length * codeWidth (thFormat h)) 8) 8 := by
  simp only [tileBytes, List.length_append, List.length_replicate, length_bytesOfNat, length_values]
  exact Nat.add_sub_cancel' (le_roundUp_eight _)

/-- The first word of a tile is its header. -/
theorem header_tileBytes : BitVec.ofNat 64 (natOfBytes ((tileBytes h values codes).take 8)) = h := by
  obtain ⟨pad, hpad⟩ := tileBytes_eq h values codes
  rw [hpad, List.take_left' (length_bytesOfNat _ _), natOfBytes_bytesOfNat_of_lt h.isLt, BitVec.ofNat_toNat, BitVec.setWidth_eq]

/-- Value `i` of a list of values side by side. -/
theorem natOfBytes_value {b i : Nat} (rest : List Byte) (hi : i < values.length) (hv : values[i] < 2 ^ (8 * b)) :
    natOfBytes (((values.flatMap (fun v => bytesOfNat v b) ++ rest).drop (i * b)).take b) = values[i] := by
  induction values generalizing i with
  | nil => cases hi
  | cons v r ih =>
    rw [List.flatMap_cons, List.append_assoc]
    cases i with
    | zero =>
      rw [Nat.zero_mul, List.drop_zero, List.take_left' (length_bytesOfNat _ _)]
      exact natOfBytes_bytesOfNat_of_lt hv
    | succ i =>
      have hdrop : (i + 1) * b = b + i * b := by rw [Nat.succ_mul, Nat.add_comm]
      rw [hdrop, ← List.drop_drop, List.drop_left' (length_bytesOfNat _ _)]
      exact ih (Nat.lt_of_succ_lt_succ hi) hv

/-- Each value of a tile reads back (R74). -/
theorem tileValue_tileBytes {b i : Nat} (hb : vtBytes (thVtype h) = b) (hi : i < values.length) (hv : values[i] < 2 ^ (8 * b)) :
    tileValue (tileBytes h values codes) b i = values[i] := by
  subst hb
  obtain ⟨pad, hpad⟩ := tileBytes_eq h values codes
  rw [tileValue, hpad, ← List.drop_drop, List.drop_left' (length_bytesOfNat _ _), natOfBytes_value values _ hi hv]

/-- The code array of a tile reads back (R74). -/
theorem tileCodes_tileBytes {b w : Nat} (hb : vtBytes (thVtype h) = b) (hw : codeWidth (thFormat h) = w) :
    tileCodes (tileBytes h values codes) values.length b = codeString w codes := by
  subst hb hw
  obtain ⟨pad, hpad⟩ := tileBytes_eq h values codes
  have hlt : codeString (codeWidth (thFormat h)) codes < 2 ^ (8 * ceilDiv (codes.length * codeWidth (thFormat h)) 8) :=
    Nat.lt_of_lt_of_le (codeString_lt codes _) (Nat.pow_le_pow_right (by decide) (by simp only [ceilDiv]; omega))
  rw [tileCodes, hpad, ← List.drop_drop, List.drop_left' (length_bytesOfNat _ _), List.drop_left' (length_values _ _),
    natOfBytes_append, natOfBytes_zeros, Nat.mul_zero, Nat.add_zero, natOfBytes_bytesOfNat_of_lt hlt]

end bytes

/-- The index of a position in its tile (R75). -/
def posIndex (p : Pos) : Nat := 32 * p.r + p.c

/-- Positions in ascending index have an index each. -/
theorem eq_of_posIndex_eq {l : List Pos} (hl : l.Pairwise fun p q => posIndex p < posIndex q) {p q : Pos} (hp : p ∈ l) (hq : q ∈ l)
    (h : posIndex p = posIndex q) : p = q := by
  induction l with
  | nil => cases hp
  | cons a r ih =>
    obtain ⟨ha, hr⟩ := List.pairwise_cons.1 hl
    rcases List.mem_cons.1 hp with rfl | hpr <;> rcases List.mem_cons.1 hq with rfl | hqr
    · rfl
    · exact absurd h (Nat.ne_of_lt (ha q hqr))
    · exact absurd h.symm (Nat.ne_of_lt (ha p hpr))
    · exact ih hr hpr hqr

/-- Lists in ascending position index with the same members are one list. -/
theorem eq_of_mem_iff_of_posIndex {l l' : List Pos} (hl : l.Pairwise fun p q => posIndex p < posIndex q)
    (hl' : l'.Pairwise fun p q => posIndex p < posIndex q) (hmem : ∀ p, p ∈ l ↔ p ∈ l') : l = l' := by
  induction l generalizing l' with
  | nil => exact (List.eq_nil_iff_forall_not_mem.2 fun p hp => List.not_mem_nil ((hmem p).2 hp)).symm
  | cons a r ih =>
    cases l' with
    | nil => exact absurd ((hmem a).1 List.mem_cons_self) List.not_mem_nil
    | cons b r' =>
      obtain ⟨ha, hr⟩ := List.pairwise_cons.1 hl
      obtain ⟨hb, hr'⟩ := List.pairwise_cons.1 hl'
      have hab : a = b := by
        rcases List.mem_cons.1 ((hmem a).1 List.mem_cons_self) with hab | har'
        · exact hab
        · rcases List.mem_cons.1 ((hmem b).2 List.mem_cons_self) with hba | hbr
          · exact hba.symm
          · exact absurd (ha b hbr) (Nat.lt_asymm (hb a har'))
      subst hab
      have hrest (p : Pos) : p ∈ r ↔ p ∈ r' := by
        have hp := hmem p
        rw [List.mem_cons, List.mem_cons] at hp
        constructor
        · intro hpr
          exact (hp.1 (.inr hpr)).resolve_left fun h => Nat.lt_irrefl _ (h ▸ ha p hpr)
        · intro hpr'
          exact (hp.2 (.inr hpr')).resolve_left fun h => Nat.lt_irrefl _ (h ▸ hb p hpr')
      rw [ih hr hr' hrest]

/-- A strictly rising list of numbers from `lo` up to `n` is no longer than that range. -/
theorem add_length_le_of_ascending {l : List Nat} {lo n : Nat} (hlo : lo ≤ n) (hl : l.Pairwise (· < ·))
    (h : ∀ i ∈ l, lo ≤ i ∧ i < n) : lo + l.length ≤ n := by
  induction l generalizing lo with
  | nil => exact hlo
  | cons a r ih =>
    obtain ⟨ha, hr⟩ := List.pairwise_cons.1 hl
    obtain ⟨hle, hlt⟩ := h a List.mem_cons_self
    have := ih hlt hr fun i hi => ⟨ha i hi, (h i (List.mem_cons_of_mem a hi)).2⟩
    rw [List.length_cons]
    omega

theorem posIndex_div {p : Pos} (h : p.c < 32) : posIndex p / 32 = p.r := by unfold posIndex; omega
theorem posIndex_mod {p : Pos} (h : p.c < 32) : posIndex p % 32 = p.c := by unfold posIndex; omega

/-- Positions that a tile can hold: in ascending index, within its 32 rows and columns, with codes of its type. -/
structure TilePositions (vtype : Nat) (ps : List Pos) : Prop where
  asc : ascending (ps.map posIndex) = true
  bounds : ∀ p ∈ ps, p.r < 32 ∧ p.c < 32 ∧ p.v < 2 ^ (8 * vtBytes vtype)

theorem TilePositions.pairwise {vtype : Nat} {ps : List Pos} (h : TilePositions vtype ps) :
    ps.Pairwise fun p q => posIndex p < posIndex q :=
  List.pairwise_map.1 ((ascending_iff_pairwise _).1 h.asc)

theorem TilePositions.filter {vtype : Nat} {ps : List Pos} (h : TilePositions vtype ps) (f : Pos → Bool) :
    TilePositions vtype (ps.filter f) where
  asc := (ascending_iff_pairwise _).2 (List.pairwise_map.2 (h.pairwise.filter f))
  bounds := fun p hp => h.bounds p (List.mem_filter.1 hp).1

section stored
variable {vtype : Nat} {ps : List Pos} (h : TilePositions vtype ps)
include h

theorem TilePositions.posIndex_lt {p : Pos} (hp : p ∈ ps) : posIndex p < 1024 := by
  have := h.bounds p hp
  unfold posIndex
  omega

/-- A tile has 1,024 positions. -/
theorem TilePositions.length_le : ps.length ≤ 1024 := by
  have hlt : ∀ i ∈ ps.map posIndex, 0 ≤ i ∧ i < 1024 := by
    intro i hi
    obtain ⟨p, hp, rfl⟩ := List.mem_map.1 hi
    exact ⟨Nat.zero_le _, h.posIndex_lt hp⟩
  have := add_length_le_of_ascending (Nat.zero_le 1024) ((ascending_iff_pairwise _).1 h.asc) hlt
  rwa [List.length_map, Nat.zero_add] at this

/-- The position of an index is the one that is looked up. -/
theorem TilePositions.find_posIndex {p : Pos} (hp : p ∈ ps) : (ps.find? fun q => 32 * q.r + q.c == posIndex p) = some p := by
  have hsome : (ps.find? fun q => 32 * q.r + q.c == posIndex p).isSome := List.find?_isSome.2 ⟨p, hp, beq_self_eq_true _⟩
  obtain ⟨q, hq⟩ := Option.isSome_iff_exists.1 hsome
  have hidx : posIndex q = posIndex p := beq_iff_eq.1 (List.find?_some hq :)
  rw [hq, eq_of_posIndex_eq h.pairwise (List.mem_of_find?_eq_some hq) hp hidx]

end stored

/-- The positions of a LIST tile (R75). -/
theorem tilePositions_list (bs : List Byte) {h : Word} (hf : thFormat h = 4) {rows cols : Nat} :
    tilePositions bs h rows cols = (List.range (thCount h)).map fun i =>
      let code := nfld (tileCodes bs (thCount h) (vtBytes (thVtype h))) (10 * i) 10
      ⟨code / 32, code % 32, tileValue bs (vtBytes (thVtype h)) i⟩ := by
  simp [tilePositions, hf, valueCount, codeWidth]

/-- The positions of a fallback tile: those within the tensor whose codes are not zero (R75, R80). -/
theorem tilePositions_fallback (bs : List Byte) {h : Word} (hf : thFormat h = 1) (hfb : thFb h = true) {rows cols : Nat} :
    tilePositions bs h rows cols =
      ((List.range 1024).map fun i => (⟨i / 32, i % 32, tileValue bs (vtBytes (thVtype h)) i⟩ : Pos)).filter fun p =>
        decide (p.r < rows) && decide (p.c < cols) && !zeroCode (thVtype h) p.v := by
  simp [tilePositions, hf, hfb, zeroCode]

/-- A ZERO tile stores nothing. -/
theorem tilePositions_zero (bs : List Byte) {h : Word} (hf : thFormat h = 0) {rows cols : Nat} :
    tilePositions bs h rows cols = [] := by
  simp [tilePositions, hf]

section encoded
variable {vtype scale : Nat} {st : List Pos}

/-- A LIST tile of positions (R74, R75). -/
def listTile (vtype scale : Nat) (st : List Pos) : List Byte :=
  tileBytes (tileHeader 4 vtype st.length scale false) (st.map (·.v)) (st.map posIndex)

/-- A fallback tile of positions (R88). -/
def fallbackTile (vtype scale : Nat) (st : List Pos) : List Byte :=
  tileBytes (tileHeader 1 vtype st.length scale true) (denseCodes st) []

theorem length_denseCodes (st : List Pos) : (denseCodes st).length = 1024 := by simp [denseCodes]

theorem denseCodes_getElem {i : Nat} (hi : i < (denseCodes st).length) :
    (denseCodes st)[i] = ((st.find? fun p => 32 * p.r + p.c == i).map (·.v)).getD 0 := by simp [denseCodes]

/-- A code of a fallback tile is a stored position's, or +0 where none is stored. -/
theorem denseCodes_cases {i : Nat} (hi : i < (denseCodes st).length) :
    (denseCodes st)[i] = 0 ∨ ∃ p ∈ st, posIndex p = i ∧ (denseCodes st)[i] = p.v := by
  rw [denseCodes_getElem]
  cases hf : st.find? fun p => 32 * p.r + p.c == i with
  | none => exact .inl rfl
  | some p => exact .inr ⟨p, List.mem_of_find?_eq_some hf, beq_iff_eq.1 (List.find?_some hf :), rfl⟩

theorem denseCodes_posIndex (h : TilePositions vtype st) {p : Pos} (hp : p ∈ st) (hi : posIndex p < (denseCodes st).length) :
    (denseCodes st)[posIndex p] = p.v := by
  rw [denseCodes_getElem, h.find_posIndex hp]
  rfl

theorem denseCodes_lt (h : TilePositions vtype st) {i : Nat} (hi : i < (denseCodes st).length) :
    (denseCodes st)[i] < 2 ^ (8 * vtBytes vtype) := by
  rcases denseCodes_cases hi with h0 | ⟨p, hp, -, hv⟩
  · rw [h0]; exact Nat.two_pow_pos _
  · rw [hv]; exact (h.bounds p hp).2.2

/-- The codes of a LIST tile are its position indices (R75). -/
theorem code_listTile (hv : vtype ≤ 3) (h : TilePositions vtype st) {i : Nat} (hi : i < st.length) :
    nfld (tileCodes (listTile vtype scale st) st.length (vtBytes vtype)) (10 * i) 10 = posIndex st[i] := by
  have hcodes := tileCodes_tileBytes (tileHeader 4 vtype st.length scale false) (st.map (·.v)) (st.map posIndex)
    (congrArg vtBytes (thVtype_tileHeader (by omega))) (congrArg codeWidth (thFormat_tileHeader (by decide)))
  rw [List.length_map] at hcodes
  rw [listTile, hcodes]
  exact (nfld_codeString _ (by simpa using hi)).trans
    (by rw [List.getElem_map]; exact Nat.mod_eq_of_lt (h.posIndex_lt (List.getElem_mem hi)))

theorem value_listTile (hv : vtype ≤ 3) (h : TilePositions vtype st) {i : Nat} (hi : i < st.length) :
    tileValue (listTile vtype scale st) (vtBytes vtype) i = st[i].v := by
  have hvalue := (h.bounds st[i] (List.getElem_mem hi)).2.2
  have hi' : i < (st.map (·.v)).length := by simpa using hi
  rw [listTile, tileValue_tileBytes _ _ _ (congrArg vtBytes (thVtype_tileHeader (by omega))) hi' (by simpa using hvalue), List.getElem_map]

/-- A LIST tile holds the positions it was made of (R75). -/
theorem tilePositions_listTile (hv : vtype ≤ 3) (h : TilePositions vtype st) :
    tilePositions (listTile vtype scale st) (tileHeader 4 vtype st.length scale false) 32 32 = st := by
  have hlen := h.length_le
  rw [tilePositions_list _ (thFormat_tileHeader (by decide)), thCount_tileHeader (by omega), thVtype_tileHeader (by omega)]
  refine List.ext_getElem (by simp) fun i _ hi => ?_
  have hc := (h.bounds st[i] (List.getElem_mem hi)).2.1
  simp only [List.getElem_map, List.getElem_range, code_listTile hv h hi, value_listTile hv h hi, posIndex_div hc, posIndex_mod hc]

/-- A fallback tile holds the positions it was made of, in the order of R75: the others are +0 and are not stored. -/
theorem tilePositions_fallbackTile (hv : vtype ≤ 3) (h : TilePositions vtype st) (hnz : ∀ p ∈ st, zeroCode vtype p.v = false) :
    tilePositions (fallbackTile vtype scale st) (tileHeader 1 vtype st.length scale true) 32 32 = st := by
  have hformat : thFormat (tileHeader 1 vtype st.length scale true) = 1 := thFormat_tileHeader (by decide)
  have hvtype : thVtype (tileHeader 1 vtype st.length scale true) = vtype := thVtype_tileHeader (by omega)
  have hvalue {i : Nat} (hi : i < (denseCodes st).length) :
      tileValue (fallbackTile vtype scale st) (vtBytes vtype) i = (denseCodes st)[i] :=
    tileValue_tileBytes _ _ _ (congrArg vtBytes hvtype) hi (denseCodes_lt h hi)
  rw [tilePositions_fallback _ hformat thFb_tileHeader, hvtype]
  refine eq_of_mem_iff_of_posIndex (List.Pairwise.filter _ (List.pairwise_map.2 (List.pairwise_lt_range.imp ?_))) h.pairwise fun p => ?_
  · intro i j hij
    simp only [posIndex]
    omega
  · rw [List.mem_filter, List.mem_map]
    constructor
    · rintro ⟨⟨i, hi, rfl⟩, hp⟩
      have hi' : i < (denseCodes st).length := by rw [length_denseCodes]; exact List.mem_range.1 hi
      rw [hvalue hi'] at hp ⊢
      rcases denseCodes_cases hi' with h0 | ⟨p, hp, hidx, hval⟩
      · simp [h0, zeroCode] at hp
      · obtain ⟨hr, hc, -⟩ := h.bounds p hp
        rw [hval, ← hidx, posIndex_div hc, posIndex_mod hc]
        exact hp
    · intro hp
      obtain ⟨hr, hc, -⟩ := h.bounds p hp
      have hi : posIndex p < (denseCodes st).length := by rw [length_denseCodes]; exact h.posIndex_lt hp
      refine ⟨⟨posIndex p, List.mem_range.2 (h.posIndex_lt hp), ?_⟩, ?_⟩
      · rw [hvalue hi, denseCodes_posIndex h hp hi, posIndex_div hc, posIndex_mod hc]
      · simp [hr, hc, hnz p hp]

/-- A header that an encoder of a LIST tensor writes: ZERO, fallback or LIST, without reserved bits, COUNT only where the format has
one, and SCALE 0x7F for 16-bit values (Table 3.6). -/
structure ListHeader (h : Word) : Prop where
  format : thFormat h = 0 ∨ thFormat h = 1 ∨ thFormat h = 4
  vtype : thVtype h ≤ 3
  reserved : fld h 27 37 = 0
  fallback : thFb h = decide (thFormat h = 1)
  count : thCount h ≤ 1024
  zero : thFormat h = 0 → thCount h = 0
  scale : thFormat h ≠ 0 → 2 ≤ thVtype h → thScale h = 0x7F

theorem ListHeader.maskDisallowed {h : Word} (hh : ListHeader h) : Machine.maskDisallowed h = false := by
  rcases hh.format with hf | hf | hf <;> simp [Machine.maskDisallowed, hh.fallback, hf]

theorem ListHeader.codesOk {h : Word} (hh : ListHeader h) (k : Nat) {ps : List Pos} (hasc : ascending (ps.map posIndex) = true) :
    codesOk (thFormat h) k ps = true := by
  rcases hh.format with hf | hf | hf
  · simp [Sys2Proof.codesOk, hf]
  · simp [Sys2Proof.codesOk, hf]
  · rw [hf]; exact hasc

/-- Such a header passes every check of Table 3.6 with positions that a tile can hold. -/
theorem ListHeader.tileCheck_eq_zero {h : Word} {ps : List Pos} (hh : ListHeader h) (hps : TilePositions vtype ps) :
    tileCheck h (Machine.maskDisallowed h) ps 32 32 = 0 := by
  have hwithin : (ps.any fun p => decide (32 ≤ p.r) || decide (32 ≤ p.c)) = false := by
    rw [List.any_eq_false]
    intro p hp
    have := hps.bounds p hp
    simp; omega
  have hv := hh.vtype
  have hcount := hh.count
  have hscale := hh.scale
  simp only [tileCheck, hh.maskDisallowed, hh.codesOk _ hps.asc, hh.reserved, hh.fallback, hwithin]
  rcases hh.format with hf | hf | hf
  · simp [hf, Nat.not_lt.2 hv, hh.zero hf]
  · simpa [hf, Nat.not_lt.2 hv] using hscale
  · simpa [hf, Nat.not_lt.2 hv, Nat.not_lt.2 hcount] using hscale

/-- The header that an encoder writes for `n` stored positions. -/
theorem listHeader_tileHeader {format n : Nat} (hf : format = 0 ∨ format = 1 ∨ format = 4) (hv : vtype ≤ 3) (hs : scale < 256)
    (hn : n ≤ 1024) (hzero : format = 0 → n = 0) (hscale : format ≠ 0 → 2 ≤ vtype → scale = 0x7F) :
    ListHeader (tileHeader format vtype n scale (decide (format = 1))) := by
  have hformat {fb} : thFormat (tileHeader format vtype n scale fb) = format := thFormat_tileHeader (by omega)
  have hvtype {fb} : thVtype (tileHeader format vtype n scale fb) = vtype := thVtype_tileHeader (by omega)
  have hcount {fb} : thCount (tileHeader format vtype n scale fb) = n := thCount_tileHeader (by omega)
  have hsc {fb} : thScale (tileHeader format vtype n scale fb) = scale := thScale_tileHeader hs
  constructor <;> simp only [hformat, hvtype, hcount, hsc, reserved_tileHeader, thFb_tileHeader] <;> assumption

/-- Bytes of a fallback tile and of a LIST tile of `n` positions (R76). -/
def fallbackLen (vtype : Nat) : Nat := 8 + 1024 * vtBytes vtype
def listLen (vtype n : Nat) : Nat := roundUp (8 + n * vtBytes vtype + ceilDiv (10 * n) 8) 8

theorem tileLen_fallback {n : Nat} {fb : Bool} (hv : vtype ≤ 3) (hn : n ≤ 1024) :
    tileLen (tileHeader 1 vtype n scale fb) = fallbackLen vtype := by
  rw [tileLen_tileHeader (by decide) hv (by omega)]
  rcases vtBytes_eq vtype with hb | hb <;> simp [fallbackLen, hb, valueCount, codeWidth, ceilDiv, roundUp]

theorem tileLen_list {n : Nat} {fb : Bool} (hv : vtype ≤ 3) (hn : n ≤ 1024) :
    tileLen (tileHeader 4 vtype n scale fb) = listLen vtype n := by
  rw [tileLen_tileHeader (by decide) hv (by omega), listLen, Nat.mul_comm 10]
  rfl

theorem tileLen_zero (hv : vtype ≤ 3) : tileLen (tileHeader 0 vtype 0 0x7F false) = 8 := by
  rw [tileLen_tileHeader (by decide) hv (by decide)]
  simp [valueCount, ceilDiv, roundUp]

theorem length_fallbackTile (hv : vtype ≤ 3) : (fallbackTile vtype scale st).length = fallbackLen vtype := by
  rw [fallbackTile, length_tileBytes, length_denseCodes, thVtype_tileHeader (by omega)]
  rcases vtBytes_eq vtype with hb | hb <;> simp [fallbackLen, hb, ceilDiv, roundUp]

theorem length_listTile (hv : vtype ≤ 3) : (listTile vtype scale st).length = listLen vtype st.length := by
  rw [listTile, length_tileBytes, thVtype_tileHeader (by omega), thFormat_tileHeader (by decide), List.length_map, List.length_map,
    listLen, Nat.mul_comm 10]
  rfl

end encoded

/-- What R88 stores of a tile's positions. -/
def storedPositions (vtype : Nat) (ps : List Pos) : List Pos := ps.filter fun p => !zeroCode vtype p.v

section encode
variable {vtype scale : Nat} {ps : List Pos}

/-- Nothing is stored: a ZERO tile (R88). -/
theorem encodeList_zero (hst : storedPositions vtype ps = []) :
    encodeList vtype scale ps = tileBytes (tileHeader 0 vtype 0 0x7F false) [] [] := by
  rw [storedPositions] at hst
  simp [encodeList, hst]

/-- The LIST tile is no smaller: the fallback (R88). -/
theorem encodeList_fallback (hv : vtype ≤ 3) (hn : (storedPositions vtype ps).length ≤ 1024)
    (hne : (storedPositions vtype ps).length ≠ 0) (hle : fallbackLen vtype ≤ listLen vtype (storedPositions vtype ps).length) :
    encodeList vtype scale ps = fallbackTile vtype scale (storedPositions vtype ps) := by
  rw [← tileLen_fallback (scale := scale) (fb := true) hv hn, ← tileLen_list (scale := scale) (fb := false) hv hn] at hle
  exact (if_neg hne).trans (if_pos hle)

/-- The LIST tile is smaller (R88). -/
theorem encodeList_list (hv : vtype ≤ 3) (hn : (storedPositions vtype ps).length ≤ 1024)
    (hne : (storedPositions vtype ps).length ≠ 0) (hlt : listLen vtype (storedPositions vtype ps).length < fallbackLen vtype) :
    encodeList vtype scale ps = listTile vtype scale (storedPositions vtype ps) := by
  rw [← tileLen_fallback (scale := scale) (fb := true) hv hn, ← tileLen_list (scale := scale) (fb := false) hv hn] at hlt
  exact (if_neg hne).trans (if_neg (Nat.not_le.2 hlt))

end encode

/-- The header of a tile, read from its first word (R74). -/
def tileHead (bs : List Byte) : Word := BitVec.ofNat 64 (natOfBytes (bs.take 8))

@[simp] theorem tileHead_tileBytes (h : Word) (values codes : List Nat) : tileHead (tileBytes h values codes) = h :=
  header_tileBytes h values codes

/-- What R88 chooses for `n` stored positions, by the sizes of R76. -/
def ChosenFormat (vtype scale : Nat) (bs : List Byte) (n : Nat) : Prop :=
  (n = 0 → thFormat (tileHead bs) = 0 ∧ thScale (tileHead bs) = 0x7F ∧ thCount (tileHead bs) = 0 ∧ bs.length = 8) ∧
  (n ≠ 0 → fallbackLen vtype ≤ listLen vtype n → thFormat (tileHead bs) = 1 ∧ thFb (tileHead bs) = true ∧
    thScale (tileHead bs) = scale ∧ thCount (tileHead bs) = n ∧ bs.length = fallbackLen vtype) ∧
  (n ≠ 0 → listLen vtype n < fallbackLen vtype → thFormat (tileHead bs) = 4 ∧ thFb (tileHead bs) = false ∧
    thScale (tileHead bs) = scale ∧ thCount (tileHead bs) = n ∧ bs.length = listLen vtype n)

/-- A tile of a VTYPE is of the size its header says, holds the positions, and passes every check of Table 3.6. -/
def GoodTile (vtype : Nat) (bs : List Byte) (st : List Pos) : Prop :=
  thVtype (tileHead bs) = vtype ∧ tileLen (tileHead bs) = bs.length ∧ tilePositions bs (tileHead bs) 32 32 = st ∧
    tileCheck (tileHead bs) (Machine.maskDisallowed (tileHead bs)) st 32 32 = 0

section encode
variable {vtype scale : Nat} {ps st : List Pos}

theorem zeroTile_good (hv : vtype ≤ 3) : GoodTile vtype (tileBytes (tileHeader 0 vtype 0 0x7F false) [] []) [] := by
  have hh : ListHeader (tileHeader 0 vtype 0 0x7F false) :=
    listHeader_tileHeader (.inl rfl) hv (by decide) (by decide) (fun _ => rfl) (fun h => absurd rfl h)
  have hps : TilePositions vtype [] := ⟨rfl, fun p hp => absurd hp List.not_mem_nil⟩
  rw [GoodTile, tileHead_tileBytes]
  refine ⟨thVtype_tileHeader (by omega), ?_, tilePositions_zero _ (thFormat_tileHeader (by decide)), hh.tileCheck_eq_zero hps⟩
  rw [tileLen_zero hv, length_tileBytes]
  simp [ceilDiv, roundUp]

theorem fallbackTile_good (hv : vtype ≤ 3) (hs : scale < 256) (hscale : 2 ≤ vtype → scale = 0x7F) (hst : TilePositions vtype st)
    (hnz : ∀ p ∈ st, zeroCode vtype p.v = false) : GoodTile vtype (fallbackTile vtype scale st) st := by
  have hh : ListHeader (tileHeader 1 vtype st.length scale true) :=
    listHeader_tileHeader (.inr (.inl rfl)) hv hs hst.length_le (fun h => absurd h (by decide)) (fun _ => hscale)
  rw [GoodTile, show tileHead (fallbackTile vtype scale st) = _ from tileHead_tileBytes ..]
  exact ⟨thVtype_tileHeader (by omega), (tileLen_fallback hv hst.length_le).trans (length_fallbackTile hv).symm,
    tilePositions_fallbackTile hv hst hnz, hh.tileCheck_eq_zero hst⟩

theorem listTile_good (hv : vtype ≤ 3) (hs : scale < 256) (hscale : 2 ≤ vtype → scale = 0x7F) (hst : TilePositions vtype st) :
    GoodTile vtype (listTile vtype scale st) st := by
  have hh : ListHeader (tileHeader 4 vtype st.length scale false) :=
    listHeader_tileHeader (.inr (.inr rfl)) hv hs hst.length_le (fun h => absurd h (by decide)) (fun _ => hscale)
  rw [GoodTile, show tileHead (listTile vtype scale st) = _ from tileHead_tileBytes ..]
  exact ⟨thVtype_tileHeader (by omega), (tileLen_list hv hst.length_le).trans (length_listTile hv).symm,
    tilePositions_listTile hv hst, hh.tileCheck_eq_zero hst⟩

/-- A tile encoded for a LIST tensor is in the format that R88 chooses. -/
theorem encodeList_chosen (hv : vtype ≤ 3) (hs : scale < 256) (hn : (storedPositions vtype ps).length ≤ 1024) :
    ChosenFormat vtype scale (encodeList vtype scale ps) (storedPositions vtype ps).length := by
  refine ⟨fun h0 => ?_, fun hne hle => ?_, fun hne hlt => ?_⟩
  · rw [encodeList_zero (List.length_eq_zero_iff.1 h0), tileHead_tileBytes, length_tileBytes]
    exact ⟨thFormat_tileHeader (by decide), thScale_tileHeader (by decide), thCount_tileHeader (by decide),
      by simp [ceilDiv, roundUp]⟩
  · rw [encodeList_fallback hv hn hne hle, show tileHead (fallbackTile vtype scale _) = _ from tileHead_tileBytes ..]
    exact ⟨thFormat_tileHeader (by decide), thFb_tileHeader, thScale_tileHeader hs, thCount_tileHeader (by omega),
      length_fallbackTile hv⟩
  · rw [encodeList_list hv hn hne hlt, show tileHead (listTile vtype scale _) = _ from tileHead_tileBytes ..]
    exact ⟨thFormat_tileHeader (by decide), thFb_tileHeader, thScale_tileHeader hs, thCount_tileHeader (by omega),
      length_listTile hv⟩

/-- A tile encoded for a LIST tensor is good and holds the positions that are not zero. -/
theorem encodeList_good (hv : vtype ≤ 3) (hs : scale < 256) (hscale : 2 ≤ vtype → scale = 0x7F) (hps : TilePositions vtype ps) :
    GoodTile vtype (encodeList vtype scale ps) (storedPositions vtype ps) := by
  have hst : TilePositions vtype (storedPositions vtype ps) := hps.filter _
  have hnz : ∀ p ∈ storedPositions vtype ps, zeroCode vtype p.v = false := fun p hp => by
    simpa using (List.mem_filter.1 hp).2
  rcases Nat.eq_zero_or_pos (storedPositions vtype ps).length with h0 | hpos
  · have hnil := List.length_eq_zero_iff.1 h0
    rw [encodeList_zero hnil, hnil]
    exact zeroTile_good hv
  · have hne := Nat.ne_of_gt hpos
    rcases Nat.lt_or_ge (listLen vtype (storedPositions vtype ps).length) (fallbackLen vtype) with hlt | hle
    · rw [encodeList_list hv hst.length_le hne hlt]
      exact listTile_good hv hs hscale hst
    · rw [encodeList_fallback hv hst.length_le hne hle]
      exact fallbackTile_good hv hs hscale hst hnz

end encode
end Sys2Proof
end

section
/-! SUPPORT. Codes, LIST tiles and segments: the statement, from the three parts. -/

open Sys2Proof Sys2Proof.Machine

/-- Settles O47: a code's value stands at its own quantum, an encoded tile reads back field by field, and the greedy rule's counts
are what its segment holds. -/
theorem formatsRoundTrip : Obligations.FormatsRoundTrip := by
  refine ⟨fun t rm sat code n m e hcode hval => roundVal_decodeVal rm sat hcode hval, fun vtype scale ps hv hs hscale hasc hbounds => ?_,
    fun tiles hrows => ?_⟩
  · have hps : TilePositions vtype ps := ⟨hasc, hbounds⟩
    obtain ⟨hzero, hfallback, hlist⟩ := encodeList_chosen (ps := ps) hv hs (hps.filter _).length_le
    exact ⟨hzero, hfallback, hlist, encodeList_good hv hs hscale hps⟩
  · obtain ⟨hcut, hasc, hmem⟩ := segments_cutWell hrows
    exact ⟨rfl, hasc, hmem, fun k a hk => hcut.get hk⟩

end

section
/-! SUPPORT. A module in step 0 of a launch, for the refutations that follow. -/

namespace Sys2Proof.Machine

/-- A launch of slot 0 under key 1 on cluster 0. -/
def slot0Launch : Launch := {
  id := 1, pkey := 1, slot := 0, det := false, safety := false, trap := false, autocommit := false, seed := 0, cmask := 1
  waitLimit := 1000, firstSeq := 0, stepLimit := 0, isRun := false, test := false, channels := [], issues := [] }

/-- A module in ACTIVE, in that launch's step 0. -/
def inStep0 : State := { State.reset with
  dev := { mode := .active, bootStage := 0x18, main54Good := true, pwrEn := true, pwrGood := true }
  job := { launch := some slot0Launch, step := some { seq := 0, startL := 0 } } }

end Sys2Proof.Machine
end

section
/-! SUPPORT. A spare's reload meets a bad word of region metadata (04 R116, 11 R325, 13 R386): the reload of a resident region reads the SEL and
DIRTY bits of its HBM copy, and the safe-state entry that a double-bit error there brings sends a BEACON, which counts on every port whose
sideband is up. -/

namespace Sys2Proof.Machine

/-- One page of HBM at 4,096 under key 1, as a FULL region with its shadow at 8,192 (11 Table 11.3). -/
def pageRegion : BitVec 320 := ofWords 320 [BitVec.ofNat 64 (4096 + 2 ^ 40 + 2 ^ 43), 4096, 8192, 0, 0]

/-- A program whose one resident region is 8 bytes at 0 of every local store, with their HBM copy in that page (05 R152). -/
def residentSlot : Slot := {
  phys := false, vctrl := 0, nparam := 0, bundles := [], base := 0
  res := [ofWords 192 [BitVec.ofNat 64 (8 * 2 ^ 24), 4096, 0]] }

/-- Core 0 has failed and the step is poisoned with CORE_FAIL; the cluster's spare is free; the SEL and DIRTY bits of the page have a double-bit
error; and the sideband of port 3 is up. -/
def badReload : State := { inStep0 with
  ports := [(3, { tx := .up, rx := .up, mfp := 3, sb := true })]
  hbm := { undef := false, regions := [(0, pageRegion)], selErrs := [(0, some true)] }
  comp := { failed := [(0, 0)], slots := [(0, some residentSlot)] }
  job := { inStep0.job with step := some { seq := 0, startL := 0, attempt := 1, poisoned := some (0, PCause.coreFail.code) } } }

/-- Core 0 of that state is due for its cluster's spare. -/
theorem badReload_due : clocksRun badReload = true ∧ clusterPresent badReload 0 = true ∧
    (physCluster badReload 0, physOfKey badReload 0) ∈ badReload.comp.failed := by decide +kernel

/-- The spare is mapped, and the reload of its resident region enters the safe state (R325). -/
theorem coreSpareMap_badReload : coreSpareMap 0 0 badReload = safeEntry (mapSpare badReload 0 0) .metadata 4096 := by decide +kernel

/-- The BEACON of that entry counts on port 3 (R386). -/
theorem safeEntry_counts_beacon : (portOf (safeEntry (mapSpare badReload 0 0) .metadata 4096) 3).beaconSeq =
    (portOf badReload 3).beaconSeq + 1 := by decide +kernel

end Sys2Proof.Machine

open Sys2Proof Sys2Proof.Machine

/-- Refutes O51: CORE_SPARE_MAP does not leave every port as it was. A reload that meets a double-bit error in the SEL or DIRTY bits of its HBM
copy enters the safe state (11 R325), and the BEACON of that entry (13 R386) counts on the ports whose sideband is up. -/
theorem not_coreUpkeep : ¬ Obligations.CoreUpkeep := by
  rintro ⟨-, hspare, -⟩
  obtain ⟨hclocks, hpresent, hfailed⟩ := badReload_due
  obtain ⟨t, hexec, -, -, hports, -⟩ := (hspare badReload 0 0).2 hclocks hpresent hfailed
  have ht : coreSpareMap 0 0 badReload = t := Host.Outcome.next.inj hexec
  have hsame : portOf t 3 = portOf badReload 3 := by rw [portOf, hports, portOf]
  have hbeacon := safeEntry_counts_beacon
  rw [← coreSpareMap_badReload, ht, hsame] at hbeacon
  exact absurd hbeacon (by decide)

end

section
/-! SUPPORT. FADD of two records on a core table that is not canonical: it lists core 0 twice. The first record leaves core 0 as reset leaves
it, so that its entry goes from the table, and the second record joins what the entry behind it holds. -/

namespace Sys2Proof.Machine

/-- The MOVE slot FADD of two records from stream 0 to fold entries 0 and 1 (05 Table 5.10), and a bundle of core 0 with it alone. -/
def faddPair : Nat := 6 + 2 ^ 14
def faddPairSlot : Slot := {
  phys := false, vctrl := 0, nparam := 0, bundles := [BitVec.ofNat 256 (1 + faddPair * 2 ^ 208)], res := [], base := 0 }

/-- That bundle in issue; the record of a cleared entry at 0 of the local store, whose byte 40 holds ALL_NEG_ZERO and ALL_POS_ZERO; and core 0
listed as reset leaves it and again with NAN_SEEN in fold entry 1. -/
def twiceListed : State := { inStep0 with
  comp := {
    slots := [(0, some faddPairSlot)], queens := [(0, { st := .run })], ls := [(40, 0x18)]
    cores := [(0, {}), (0, { fold := [(1, foldWord { nan := true })] })] } }

def faddPairIssue : Issue := { q := 0, launch := slot0Launch, pc := 0, slot := faddPair }

theorem slotOnCore_twiceListed : slotOnCore twiceListed 0 4 6 twiceListed faddPairIssue 0 := by unfold slotOnCore; decide +kernel

/-- Both records stand at 0: stream 0 is as reset leaves it. -/
theorem elements_twiceListed : (elements (strOf (coreBefore twiceListed 0 0) 0) 0 2).1 = List.replicate 2 0 := by decide +kernel

theorem record_twiceListed : foldOf (BitVec.ofNat 384 (natOfBytes (storeBytes twiceListed 0 0 0 48))) = {} := by decide +kernel

theorem foldOf_clearedFold : foldOf clearedFold = {} := by decide +kernel

/-- Before the slot every fold entry of core 0 reads as cleared. -/
theorem foldAt_twiceListed (n : Nat) : foldAt twiceListed 0 n = {} := foldOf_clearedFold

theorem combineRecord_cleared : combineRecord {} {} = ({}, 0, false) := by decide +kernel

/-- So each entry stays cleared when a record joins it. -/
theorem combineRecord_twiceListed (n : Nat) : combineRecord (foldAt twiceListed 0 n)
    (foldOf (BitVec.ofNat 384 (natOfBytes (storeBytes twiceListed 0 0 0 48)))) = ({}, 0, false) := by
  rw [foldAt_twiceListed, record_twiceListed, combineRecord_cleared]

/-- FADD leaves the NAN_SEEN that the second record found. -/
theorem fadd_keeps_nan : (foldAt (runSlot 0 4 6 faddCore twiceListed) 0 1).nan = true := by decide +kernel

/-- What the statement says that FADD leads to: both entries cleared, as the state before the slot has them. -/
def clearedPair : State := slotEnds twiceListed (putStream
  ((List.replicate 2 {}).zipIdx.foldl (fun t e => putFold t 0 (0 + e.2) e.1) twiceListed) 0 0
  (elements (strOf (coreBefore twiceListed 0 0) 0) 0 2).2) faddPairIssue 0 4

theorem clearedPair_no_nan : (foldAt clearedPair 0 1).nan = false := by decide +kernel

end Sys2Proof.Machine

open Sys2Proof Sys2Proof.Machine

/-- Refutes O49: for a range of records FADD's clause takes every entry from the state before the slot. On a core table that is not
canonical the first record's write can uncover another core, and the second record joins what that one holds. -/
theorem not_foldInstructions : ¬ Obligations.FoldInstructions := by
  intro h
  obtain ⟨-, -, -, -, hfadd, -⟩ := h twiceListed twiceListed 0 faddPairIssue 0
  have haddr : ∀ x ∈ (elements (strOf (coreBefore twiceListed 0 0) 0) 0 2).1, x = 0 := fun x hx => by
    rw [elements_twiceListed] at hx
    exact List.eq_of_mem_replicate hx
  have hclears : exec (.fadd 0) twiceListed = .next clearedPair := by
    refine (hfadd slotOnCore_twiceListed).1 (List.replicate 2 {}) (by decide) (by decide) (by decide) (fun x hx => ?_) rfl rfl rfl
      (fun e he => ?_) (fun k x e hx he => ?_)
    · rw [haddr x hx]
      decide
    · rw [List.eq_of_mem_replicate he]
      rfl
    · obtain rfl : x = 0 := haddr x (List.mem_of_getElem? hx)
      obtain rfl : e = {} := List.eq_of_mem_replicate (List.mem_of_getElem? he)
      exact combineRecord_twiceListed _
  have hrun : runSlot 0 4 6 faddCore twiceListed = clearedPair := Host.Outcome.next.inj hclears
  have hnan := fadd_keeps_nan
  rw [hrun, clearedPair_no_nan] at hnan
  exact absurd hnan (by decide)

end

section
/-! SUPPORT. Slots of a bundle (05 R131 to R133, R147): where a slot issues, how the masked cores carry it out, and how it ends. -/

namespace Sys2Proof.Machine

/-- The rows of core slots, as `exec` carries them out. -/
theorem exec_coreRows (q : Fin 32) (s : State) :
    ∀ r ∈ coreRows q, exec r.1 s = .next (runSlot q.val r.2.1 r.2.2.1 r.2.2.2 s) := by
  simp only [coreRows, arithRows, List.map_cons, List.map_nil, List.cons_append, List.nil_append, List.forall_mem_cons]
  exact ⟨rfl, rfl, rfl, rfl, rfl, rfl, rfl, rfl, rfl, rfl, rfl, rfl, rfl, rfl, rfl, rfl, rfl, rfl, rfl, rfl, rfl, rfl, rfl, rfl, rfl, rfl,
    rfl, rfl, rfl, rfl, List.forall_mem_nil _⟩

theorem exec_of_mem_coreRows {q : Fin 32} {row : Instr} {k op : Nat} {f : SlotFn} (h : (row, k, op, f) ∈ coreRows q) (s : State) :
    exec row s = .next (runSlot q.val k op f s) := exec_coreRows q s _ h

/-- A bundle that does something stays in issue, whatever the bound. -/
theorem skipNops_of_not_bundleNop {s : State} {l : Launch} {q : Nat} (h : bundleNop (bundleOf s l q).1 = false) (n : Nat) :
    skipNops s l q n = s := by
  cases n with
  | zero => rfl
  | succ n => simp [skipNops, h]

/-- Where slot k of a bundle that does something issues: its queen runs, its opcode is the row's, and what comes before it is done. -/
theorem issueAt_eq {s : State} {l : Launch} {q : Nat} (hl : s.job.launch = some l) (hb : bundleNop (bundleOf s l q).1 = false)
    (k op : Nat) : issueAt s q k op =
      if queenIssues s l q = true ∧ opOf (slotOf (bundleOf s l q).1 k) = op ∧ (queenOf s q).done.getLsbD k = false ∧
        ∀ j ∈ slotsBefore (bundleOf s l q).1 k, slotDone (bundleOf s l q).1 (queenOf s q).done j = true
      then some (s, { q := q, launch := l, pc := (queenOf s q).pc, slot := slotOf (bundleOf s l q).1 k }) else none := by
  unfold issueAt
  simp only [hl, skipNops_of_not_bundleNop hb]
  cases hi : queenIssues s l q with
  | false => simp
  | true =>
    simp only [flag, Bool.not_true, Bool.false_eq_true, if_false, Bool.and_eq_true, beq_iff_eq, Bool.not_eq_true', List.all_eq_true,
      and_assoc, true_and]

/-- The cluster of an issue is the one whose queen issues. -/
theorem issueAt_q {s u : State} {q k op : Nat} {i : Issue} (h : issueAt s q k op = some (u, i)) : i.q = q := by
  unfold issueAt at h
  split at h
  · cases h
  · dsimp only at h
    split at h
    · cases h
    · split at h
      · cases h; rfl
      · cases h

section core
variable {s u : State} {q k op : Nat} {i : Issue} {key : Nat} {f : SlotFn}

theorem runSlot_of_none (h : issueAt s q k op = none) (f : SlotFn) : runSlot q k op f s = s := by simp only [runSlot, h]

/-- Every masked core carries the slot out. -/
theorem runSlot_of_ok {t : State} (h : issueAt s q k op = some (u, i))
    (hf : runCores f i (snapOf u q) u (bundleMask u i.launch q) = .ok t) : runSlot q k op f s = slotEnds u t i q k := by
  simp only [runSlot, h, hf, slotEnds]

/-- One of them stops. -/
theorem runSlot_of_error {v : State} {e : Stop} (h : issueAt s q k op = some (u, i))
    (hf : runCores f i (snapOf u q) u (bundleMask u i.launch q) = .error (key, e, v)) : runSlot q k op f s = applyStop v key e := by
  simp only [runSlot, h, hf]

/-- A slot that one core carries out. -/
theorem runSlot_onCore {t : State} (h : slotOnCore s q k op u i key) (hf : f u i key (coreBefore u q key) = .ok t) :
    runSlot q k op f s = slotEnds u t i q k := by
  obtain ⟨hi, hm⟩ := h
  refine runSlot_of_ok hi ?_
  rw [coreBefore] at hf
  simp only [hm, runCores, hf]

/-- A slot that stops on its one core. -/
theorem runSlot_onCore_stops {e : Stop} (h : slotOnCore s q k op u i key) (hf : f u i key (coreBefore u q key) = .error e) :
    runSlot q k op f s = applyStop u key e := by
  obtain ⟨hi, hm⟩ := h
  refine runSlot_of_error hi ?_
  rw [coreBefore] at hf
  simp only [hm, runCores, hf]

end core

/-- A row of core slots that one core carries out. -/
theorem exec_onCore {s u t : State} {q : Fin 32} {row : Instr} {k op : Nat} {f : SlotFn} {i : Issue} {key : Nat}
    (hm : (row, k, op, f) ∈ coreRows q) (h : slotOnCore s q.val k op u i key) (hf : f u i key (coreBefore u q.val key) = .ok t) :
    exec row s = .next (slotEnds u t i q.val k) := by
  rw [exec_of_mem_coreRows hm, runSlot_onCore h hf]

/-- A row of core slots that stops on its one core. -/
theorem exec_onCore_stops {s u : State} {q : Fin 32} {row : Instr} {k op : Nat} {f : SlotFn} {i : Issue} {key : Nat} {e : Stop}
    (hm : (row, k, op, f) ∈ coreRows q) (h : slotOnCore s q.val k op u i key) (hf : f u i key (coreBefore u q.val key) = .error e) :
    exec row s = .next (applyStop u key e) := by
  rw [exec_of_mem_coreRows hm, runSlot_onCore_stops h hf]

/-- What the reads of a stopped slot corrected is nothing when its marks are the state's. -/
theorem readsMet_same (s : State) : readsMet s (some { ls := s.comp.lsErrs, cs := s.comp.csErrs }) = s := by simp [readsMet]

/-- A program fault ends the step (R127), before any read or after reads that met no error. -/
theorem applyStop_progFault (s : State) (i : Issue) (key : Nat) :
    applyStop s key (progFault i key) = failStep s { status := 4, ecause := 2, addr := i.pc, unit := ciOf key } := rfl

theorem applyStop_stopAt_progFault (s : State) (i : Issue) (key : Nat) :
    applyStop s key (stopAt s (progFault i key)) = failStep s { status := 4, ecause := 2, addr := i.pc, unit := ciOf key } := by
  simp only [progFault, stopAt, applyStop, readsMet_same, Status.code]

section store
variable (s : State) (i : Issue) (key a n : Nat)

@[simp] theorem length_bankRead (m : Mem) (old : List (Nat × Word)) : (bankRead s m old a n).length = n := by
  unfold bankRead bytesBefore
  split <;> simp

@[simp] theorem length_storeBytes (sp : Nat) : (storeBytes s key sp a n).length = n := by
  unfold storeBytes
  split <;> simp

/-- A read of the local store, which has no error, answers its bytes (R108, R109). -/
theorem coreRead_ls (h : a + n ≤ 196608) (he : s.comp.lsErrs = []) :
    coreRead s i key 0 a n = .ok (storeBytes s key 0 a n, s) := by
  have hin : inSpace 0 a n = true := by simp [inSpace, lsBytes, h]
  simp [coreRead, hin, lsRead, he, storeBytes, lsBytes]

/-- A read of the cluster store, likewise. -/
theorem coreRead_cs (h : a + n ≤ 4194304) (he : s.comp.csErrs = []) :
    coreRead s i key 1 a n = .ok (storeBytes s key 1 a n, s) := by
  have hin : inSpace 1 a n = true := by simp [inSpace, csBytes, h]
  simp [coreRead, hin, csRead, he, storeBytes, csBytes]

/-- A read outside its store is a program fault (R127). -/
theorem coreRead_outside {sp : Nat} (h : inSpace sp a n = false) : coreRead s i key sp a n = .error (stopAt s (progFault i key)) := by
  simp [coreRead, h]

theorem inSpace_reserved {sp : Nat} (h : 1 < sp) : inSpace sp a n = false := by
  have h0 : sp ≠ 0 := by omega
  have h1 : sp ≠ 1 := by omega
  simp [inSpace, h0, h1]

/-- A write within the local store. -/
theorem coreWrite_ls (bs : List Byte) (h : a + bs.length ≤ 196608) : coreWrite s i key 0 a bs = .ok (lsCoreWrite s key a bs) := by
  simp [coreWrite, inSpace, lsBytes, h]

/-- A store to a stream of another space is a program fault (R127). -/
theorem coreWrite_otherSpace {sp : Nat} (bs : List Byte) (h : sp ≠ 0) : coreWrite s i key sp a bs = .error (progFault i key) := by
  simp [coreWrite, h]

end store

end Sys2Proof.Machine
end

section
/-! SUPPORT. Loads and stores (05 Table 5.7): what VLD, VST and CLD do with operands that are good, and with operands that are not. -/

namespace Sys2Proof.Machine

section loads
variable (u : State) (i : Issue) (key : Nat) (c : Core)

/-- VLD of bytes that its store gives. -/
theorem vldCore_ok {bs : List Byte} (hv : sdVtype (strOf c (sf i 11 4)) ≤ 5)
    (hr : coreRead u i key (sdSpace (strOf c (sf i 11 4))) (element (strOf c (sf i 11 4)) (ciOf key)).1 256 = .ok (bs, u)) :
    vldCore u i key c = .ok (putStream (putV u key (sf i 6 5) (BitVec.ofNat 2048 (natOfBytes bs))) key (sf i 11 4)
      (element (strOf c (sf i 11 4)) (ciOf key)).2) := by
  have hv' : ¬5 < sdVtype (strOf c (sf i 11 4)) := by omega
  simp only [vldCore, hv', if_false, hr, vOfBytes]

/-- VLD outside its store. -/
theorem vldCore_outside (hv : sdVtype (strOf c (sf i 11 4)) ≤ 5)
    (hs : inSpace (sdSpace (strOf c (sf i 11 4))) (element (strOf c (sf i 11 4)) (ciOf key)).1 256 = false) :
    vldCore u i key c = .error (stopAt u (progFault i key)) := by
  have hv' : ¬5 < sdVtype (strOf c (sf i 11 4)) := by omega
  simp only [vldCore, hv', if_false, coreRead_outside u i key _ _ hs]

/-- VST within the local store. -/
theorem vstCore_ok (hv : sdVtype (strOf c (sf i 11 4)) ≤ 5) (hs : sdSpace (strOf c (sf i 11 4)) = 0)
    (ha : (element (strOf c (sf i 11 4)) (ciOf key)).1 + 256 ≤ 196608) :
    vstCore u i key c = .ok (putStream (lsCoreWrite u key (element (strOf c (sf i 11 4)) (ciOf key)).1
      (bytesOfNat (vOf c (sf i 6 5)).toNat 256)) key (sf i 11 4) (element (strOf c (sf i 11 4)) (ciOf key)).2) := by
  have hv' : ¬5 < sdVtype (strOf c (sf i 11 4)) := by omega
  have hw := coreWrite_ls u i key (element (strOf c (sf i 11 4)) (ciOf key)).1 (bytesOfNat (vOf c (sf i 6 5)).toNat 256)
    (by rwa [length_bytesOfNat])
  simp only [vstCore, hv', if_false, hs, vBytes, hw]

/-- VST to a stream of another space. -/
theorem vstCore_otherSpace (hv : sdVtype (strOf c (sf i 11 4)) ≤ 5) (hs : sdSpace (strOf c (sf i 11 4)) ≠ 0) :
    vstCore u i key c = .error (progFault i key) := by
  have hv' : ¬5 < sdVtype (strOf c (sf i 11 4)) := by omega
  simp only [vstCore, hv', if_false, coreWrite_otherSpace u i key _ _ hs]

/-- CLD from the cluster store to the local store. -/
theorem cldCore_ok (hva : sdVtype (strOf c (sf i 6 4)) ≤ 5) (hvb : sdVtype (strOf c (sf i 10 4)) ≤ 5)
    (hsa : sdSpace (strOf c (sf i 6 4)) = 1) (hsb : sdSpace (strOf c (sf i 10 4)) = 0)
    (ha : (element (strOf c (sf i 6 4)) (ciOf key)).1 + 1024 ≤ 4194304)
    (hb : (element (strOf c (sf i 10 4)) (ciOf key)).1 + 1024 ≤ 196608) (he : u.comp.csErrs = []) :
    cldCore u i key c = .ok (putStream (putStream (lsCoreWrite u key (element (strOf c (sf i 10 4)) (ciOf key)).1
        (storeBytes u key 1 (element (strOf c (sf i 6 4)) (ciOf key)).1 1024)) key (sf i 6 4) (element (strOf c (sf i 6 4)) (ciOf key)).2)
      key (sf i 10 4) (element (strOf c (sf i 10 4)) (ciOf key)).2) := by
  have hw := coreWrite_ls u i key (element (strOf c (sf i 10 4)) (ciOf key)).1
    (storeBytes u key 1 (element (strOf c (sf i 6 4)) (ciOf key)).1 1024) (by rwa [length_storeBytes])
  have hva' : ¬5 < sdVtype (strOf c (sf i 6 4)) := by omega
  have hvb' : ¬5 < sdVtype (strOf c (sf i 10 4)) := by omega
  simp only [cldCore, hva', hvb', hsa, hsb, decide_false, bne_self_eq_false, Bool.or_self, Bool.false_eq_true, if_false,
    coreRead_cs u i key _ _ ha he, hw]

end loads

end Sys2Proof.Machine

open Sys2Proof Sys2Proof.Machine

/-- Settles O45: each row is one core's effect on the slot, and a stop of it ends the step. -/
theorem loadsAndStreams : Obligations.LoadsAndStreams := by
  intro s u q i key c d a d' fault
  refine ⟨fun hs hv => ⟨fun hsp ha he => ?_, fun hsp ha he => ?_, fun hsp ha => ?_, fun hsp => ?_⟩,
    fun hs hv => ⟨fun hsp ha => ?_, fun hsp => ?_⟩, fun hs => ?_, fun hs => ?_, fun hs => ?_, fun hs => ?_, fun hs => ?_⟩
  · exact exec_onCore (by simp [coreRows]) hs (vldCore_ok u i key c hv (by rw [hsp]; exact coreRead_ls u i key a 256 ha he))
  · exact exec_onCore (by simp [coreRows]) hs (vldCore_ok u i key c hv (by rw [hsp]; exact coreRead_cs u i key a 256 ha he))
  · have hout : inSpace (sdSpace d) a 256 = false := by rw [hsp]; exact decide_eq_false (Nat.not_le.2 ha)
    rw [exec_onCore_stops (f := vldCore) (by simp [coreRows]) hs (vldCore_outside u i key c hv hout), applyStop_stopAt_progFault]
  · have hout := inSpace_reserved a 256 hsp
    rw [exec_onCore_stops (f := vldCore) (by simp [coreRows]) hs (vldCore_outside u i key c hv hout), applyStop_stopAt_progFault]
  · exact exec_onCore (by simp [coreRows]) hs (vstCore_ok u i key c hv hsp ha)
  · rw [exec_onCore_stops (f := vstCore) (by simp [coreRows]) hs (vstCore_otherSpace u i key c hv hsp), applyStop_progFault]
  · intro da db ea eb hva hvb hsa hsb ha hb he
    exact exec_onCore (by simp [coreRows]) hs (cldCore_ok u i key c hva hvb hsa hsb ha hb he)
  · exact exec_onCore (f := sldCore) (by simp [coreRows]) hs rfl
  · exact exec_onCore (f := advanceCore) (by simp [coreRows]) hs rfl
  · exact exec_onCore (f := cxsetCore) (by simp [coreRows]) hs rfl
  · exact exec_onCore (f := cxadvCore) (by simp [coreRows]) hs rfl

end

section
/-! SUPPORT. The end of a bundle (05 R147): the next address, and the slot after which the queen goes on. -/

namespace Sys2Proof.Machine

/-- The innermost loop at its last bundle: another turn while more than one remains and no event ends it, else the loop around it. -/
theorem nextPc_last (pc : Nat) (evt : BitVec 16) (lc : List (BitVec 32)) (lp : QLoop) (outer : List QLoop) (h : lp.last = pc) :
    nextPc pc evt lc (lp :: outer) =
      if 1 < (lc.getD outer.length 0).toNat ∧ (lp.x && flag evt lp.ev) = false then
        (lp.start + 1, lp :: outer, setAt lc outer.length (BitVec.ofNat 32 ((lc.getD outer.length 0).toNat - 1)))
      else nextPc pc evt (setAt lc outer.length (BitVec.ofNat 32 ((lc.getD outer.length 0).toNat - 1))) outer := by
  rw [nextPc]
  simp only [h, bne_self_eq_false, Bool.false_eq_true, if_false, Bool.and_eq_true, decide_eq_true_eq, Bool.not_eq_true',
    Nat.sub_pos_iff_lt]

/-- Elsewhere in a loop, or outside of one, the next bundle follows. -/
theorem nextPc_inside (pc : Nat) (evt : BitVec 16) (lc : List (BitVec 32)) (lp : QLoop) (outer : List QLoop) (h : lp.last ≠ pc) :
    nextPc pc evt lc (lp :: outer) = (pc + 1, lp :: outer, lc) := by
  rw [nextPc]
  simp only [bne_iff_ne, ne_eq, h, not_false_eq_true, if_true]

theorem all_range_slotDone {b : BitVec 256} {done : BitVec 5} :
    (List.range 5).all (slotDone b done) = true ↔ ∀ j, j < 5 → slotDone b done j = true := by
  simp only [List.all_eq_true, List.mem_range]

end Sys2Proof.Machine

open Sys2Proof Sys2Proof.Machine

/-- Settles O43: where a slot issues, how the masked cores carry it out one by one, and how the queen goes on. -/
theorem bundlesIssue : Obligations.BundlesIssue := by
  refine ⟨?_, ?_, ?_, ?_, ?_⟩
  · intro s l q k op b x hl hb
    have hissue := issueAt_eq hl hb k op
    refine ⟨fun hrun => ?_, fun hrun hop hdone hbefore => ?_, fun hnot => ?_⟩
    · rw [hissue, if_neg fun h => by simp [hrun] at h]
    · rw [hissue, if_pos ⟨hrun, hop, hdone, hbefore⟩]
    · rw [hissue, if_neg]
      rintro ⟨-, hop, hdone, hbefore⟩
      rcases hnot with hne | hset | ⟨j, hj, hopen⟩
      · exact hne hop
      · exact Bool.false_ne_true (hdone.symm.trans hset)
      · exact Bool.false_ne_true (hopen.symm.trans (hbefore j hj))
  · intro s q row k op f hm
    rw [exec_of_mem_coreRows hm]
    exact ⟨fun hi => congrArg _ (runSlot_of_none hi f), fun u i t hi hr => congrArg _ (runSlot_of_ok hi hr),
      fun u i key e v hi hr => congrArg _ (runSlot_of_error hi hr)⟩
  · intro f i snap s key r
    exact ⟨fun t ht => by simp only [runCores, ht], fun e he => by simp only [runCores, he]⟩
  · intro pc evt lc lp outer n lc'
    refine ⟨rfl, nextPc_inside pc evt lc lp outer, fun h hn hx => ?_, fun h hn => ?_⟩
    · rw [nextPc_last pc evt lc lp outer h, if_pos ⟨hn, Bool.and_eq_false_iff.2 hx⟩]
    · rw [nextPc_last pc evt lc lp outer h, if_neg]
      rintro ⟨hmore, hx⟩
      rcases hn with hle | ⟨hlx, hev⟩
      · exact absurd hmore (Nat.not_lt.2 hle)
      · simp [hlx, hev] at hx
  · intro u t i q k hk b v
    refine ⟨fun h => if_pos (all_range_slotDone.2 h), ?_⟩
    rintro ⟨j, hj, hopen⟩
    exact if_neg fun hall => Bool.false_ne_true (hopen.symm.trans (all_range_slotDone.1 hall j hj))

end

section
/-! SUPPORT. CONTROL slots (05 R132, R136, R145, R146, R149, R151): the queen's own instructions. -/

namespace Sys2Proof.Machine

/-- A CONTROL slot that issues is carried out by its queen. -/
theorem runControl_of_issue {s u : State} {q op : Nat} {i : Issue} (h : issueAt s q 0 op = some (u, i)) (f : State → Issue → State) :
    runControl q op f s = f u i := by simp only [runControl, h]

/-- A change of a queen is judged on that queen alone. -/
theorem modQueen_congr {s : State} {q : Nat} {f g : Queen → Queen} (h : f (queenOf s q) = g (queenOf s q)) :
    modQueen s q f = modQueen s q g := by
  simp only [modQueen, tblMod]
  rw [queenOf] at h
  rw [h]

/-- The count of a LOOP: the low half of its P register, whose high half must be zero (R146). -/
theorem fld_high_eq_zero_iff (p : Word) : fld p 32 32 = 0 ↔ p.toNat < 2 ^ 32 := by
  have := p.isLt
  rw [fld, Nat.shiftRight_eq_div_pow]
  omega

theorem fld_low_eq_zero_iff {p : Word} (h : p.toNat < 2 ^ 32) : fld p 0 32 = 0 ↔ p = 0 := by
  have hlow : fld p 0 32 = p.toNat := Nat.mod_eq_of_lt h
  rw [hlow, ← BitVec.toNat_inj]
  rfl

theorem ofNat_fld_low (p : Word) : BitVec.ofNat 32 (fld p 0 32) = p.setWidth 32 :=
  BitVec.eq_of_toNat_eq (by simp [fld])

/-- LC as a LOOP leaves it: the level that it opens takes the count (R146). -/
def loopCounts (u : State) (i : Issue) (x : Queen) : List (BitVec 32) :=
  setAt x.lc x.loops.length ((pReg u (sf i 8 6)).setWidth 32)

section loops
variable (u : State) (i : Issue)

theorem loopRun_fault (h : 2 ^ 32 ≤ (pReg u (sf i 8 6)).toNat) : loopRun u i = queenFault u i := by
  have hhigh : fld (pReg u (sf i 8 6)) 32 32 ≠ 0 := fun h0 => absurd ((fld_high_eq_zero_iff _).1 h0) (Nat.not_lt.2 h)
  simp [loopRun, hhigh]

/-- A LOOP whose count is in range changes its queen alone. -/
theorem loopRun_queen (h : (pReg u (sf i 8 6)).toNat < 2 ^ 32) : loopRun u i = modQueen u i.q fun x =>
    if pReg u (sf i 8 6) = 0 ∨ ((loopOf u i).x && flag x.evt (loopOf u i).ev) = true then
      let r := nextPc (loopOf u i).last x.evt (loopCounts u i x) x.loops
      { x with pc := r.1, loops := r.2.1, lc := r.2.2, done := 0, snap := [] }
    else { x with pc := i.pc + 1, loops := loopOf u i :: x.loops, lc := loopCounts u i x, done := 0, snap := [] } := by
  have hhigh : fld (pReg u (sf i 8 6)) 32 32 = 0 := (fld_high_eq_zero_iff _).2 h
  simp only [loopRun, hhigh, bne_self_eq_false, Bool.false_eq_true, if_false, ofNat_fld_low, loopCounts, Bool.or_eq_true,
    decide_eq_true_eq, fld_low_eq_zero_iff h]

/-- The body does not run: the queen goes on past its last bundle. -/
theorem loopRun_skips (h : (pReg u (sf i 8 6)).toNat < 2 ^ 32)
    (hz : pReg u (sf i 8 6) = 0 ∨ ((loopOf u i).x && flag (queenOf u i.q).evt (loopOf u i).ev) = true) :
    loopRun u i = modQueen u i.q fun x => let r := nextPc (sf i 14 11) x.evt (loopCounts u i x) x.loops
      { x with pc := r.1, loops := r.2.1, lc := r.2.2, done := 0, snap := [] } := by
  rw [loopRun_queen u i h]
  exact modQueen_congr (if_pos hz)

/-- The body runs: the loop opens. -/
theorem loopRun_opens (h : (pReg u (sf i 8 6)).toNat < 2 ^ 32) (hp : pReg u (sf i 8 6) ≠ 0)
    (hx : ((loopOf u i).x && flag (queenOf u i.q).evt (loopOf u i).ev) = false) :
    loopRun u i = modQueen u i.q fun x =>
      { x with pc := i.pc + 1, loops := loopOf u i :: x.loops, lc := loopCounts u i x, done := 0, snap := [] } := by
  rw [loopRun_queen u i h]
  exact modQueen_congr (if_neg fun hskip => hskip.elim hp fun hended => Bool.false_ne_true (hx.symm.trans hended))

/-- A loop that an event can end, and whose event has come (R146). -/
theorem loopOf_ended_iff (evt : BitVec 16) :
    ((loopOf u i).x && flag evt (loopOf u i).ev) = true ↔ sf i 25 1 = 1 ∧ flag evt (sf i 26 4) = true := by
  simp [loopOf]

theorem loopOf_not_ended {evt : BitVec 16} (h : sf i 25 1 = 0 ∨ flag evt (sf i 26 4) = false) :
    ((loopOf u i).x && flag evt (loopOf u i).ev) = false := by
  rcases h with h | h <;> simp [loopOf, h]

end loops

section waits
variable (u : State) (i : Issue)

/-- A WAIT that does not hold yet passes once its semaphore suffices (R136). -/
theorem waitRun_passes (hw : (queenOf u i.q).waitSince = none) (hs : sf i 12 8 ≤ tblGet 0 (queenOf u i.q).sem (sf i 6 6)) :
    waitRun u i = waitPass u i := by
  simp only [waitRun, hw, Option.isSome_none, Bool.false_eq_true, if_false, semOf, hs, if_true]

/-- Otherwise it holds from now on. -/
theorem waitRun_holds (hw : (queenOf u i.q).waitSince = none) (hs : tblGet 0 (queenOf u i.q).sem (sf i 6 6) < sf i 12 8) :
    waitRun u i = modQueen u i.q fun x => { x with waitSince := some (logicNs u) } := by
  simp only [waitRun, hw, Option.isSome_none, Bool.false_eq_true, if_false, semOf, Nat.not_le.2 hs]

theorem waitRun_held (hw : (queenOf u i.q).waitSince.isSome = true) : waitRun u i = u := by simp only [waitRun, hw, if_true]

/-- WAIT_RELEASE lets a held WAIT pass once its semaphore suffices, and leaves the state before. -/
theorem waitReleaseRun_passes (hw : (queenOf u i.q).waitSince.isSome = true)
    (hs : sf i 12 8 ≤ tblGet 0 (queenOf u i.q).sem (sf i 6 6)) : waitReleaseRun u i = waitPass u i := by
  rw [waitReleaseRun, hw, Bool.true_and]
  exact if_pos (decide_eq_true hs)

theorem waitReleaseRun_holds (hw : (queenOf u i.q).waitSince.isSome = true)
    (hs : tblGet 0 (queenOf u i.q).sem (sf i 6 6) < sf i 12 8) : waitReleaseRun u i = u := by
  rw [waitReleaseRun, hw, Bool.true_and]
  exact if_neg (ne_true_of_eq_false (decide_eq_false (Nat.not_le.2 hs)))

theorem signalRun_eq : signalRun u i = if 65535 < tblGet 0 (queenOf u i.q).sem (sf i 6 6) + sf i 12 8 then queenFault u i
    else finishControl (setSem u i.q (sf i 6 6) (tblGet 0 (queenOf u i.q).sem (sf i 6 6) + sf i 12 8)) i := rfl

end waits

/-- A queen's WAIT that has held too long poisons the step (R145). -/
theorem waitTimeout_queen {s : State} {l : Launch} {q : Fin 32} {since : Nat} (hl : s.job.launch = some l) (hu : unitsRun s = true)
    (hr : stepRuns s = true) (hm : l.cmask.getLsbD q.val = true) (hw : (queenOf s q.val).waitSince = some since) :
    waitTimeout (some q) none s = if since + l.waitLimit < logicNs s then raisePoison s .waitTimeout else s := by
  have hlate : queenLate s l q.val = decide (since + l.waitLimit < logicNs s) := by simp [queenLate, hw, flag, hm]
  simp only [waitTimeout, hl, hu, hr, hlate, Bool.or_false, Bool.true_and, when, decide_eq_true_eq]

end Sys2Proof.Machine

open Sys2Proof Sys2Proof.Machine

/-- Settles O44: a CONTROL slot that issues is its queen's own function, case by case. -/
theorem queenControl : Obligations.QueenControl := by
  refine ⟨?_, ?_⟩
  · intro s u q i x n sem
    have hrun : ∀ {op}, issueAt s q.val 0 op = some (u, i) → ∀ f : State → Issue → State,
        Host.Outcome.next (runControl q.val op f s) = (.next (f u i) : Host.Outcome State Fault Refusal) :=
      fun h f => congrArg _ (runControl_of_issue h f)
    refine ⟨?_, ?_, ?_, ?_, ?_, ?_, ?_⟩
    · intro h p lp count
      have hloop : exec (.loop q) s = .next (loopRun u i) := hrun h loopRun
      have hq := issueAt_q h
      rw [hloop]
      refine ⟨fun hp => ?_, fun hp hz => ?_, fun hp hne hx => ⟨?_, rfl, rfl⟩⟩
      · rw [loopRun_fault u i hp]
      · rw [loopRun_skips u i hp (hz.imp id fun hx => (loopOf_ended_iff u i _).2 (by rwa [hq])), hq]
        rfl
      · rw [loopRun_opens u i hp hne (loopOf_not_ended u i (by rwa [hq])), hq]
        rfl
    · intro h amt passed
      have hq := issueAt_q h
      have hwait : exec (.wait q) s = .next (waitRun u i) := hrun h waitRun
      have hrelease : exec (.waitRelease q) s = .next (waitReleaseRun u i) := hrun h waitReleaseRun
      have hpass : waitPass u i = passed := by rw [waitPass, semOf, hq]
      rw [hwait, hrelease]
      refine ⟨fun hw hs => ?_, fun hw hs => ?_, fun hw => ⟨?_, fun hs => ?_, fun hs => ?_⟩⟩
      · rw [waitRun_passes u i (by rwa [hq]) (by rwa [hq]), hpass]
      · rw [waitRun_holds u i (by rwa [hq]) (by rwa [hq]), hq]
      · rw [waitRun_held u i (by rwa [hq])]
      · rw [waitReleaseRun_passes u i (by rwa [hq]) (by rwa [hq]), hpass]
      · rw [waitReleaseRun_holds u i (by rwa [hq]) (by rwa [hq])]
    · intro h
      have hsignal : exec (.signal q) s = .next (signalRun u i) := hrun h signalRun
      rw [hsignal, signalRun_eq, issueAt_q h]
      exact ⟨fun hle => congrArg _ (if_neg (Nat.not_lt.2 hle)), fun hlt => congrArg _ (if_pos hlt)⟩
    · exact fun h => (hrun h evclrRun).trans (by rw [evclrRun, issueAt_q h])
    · exact fun h => (hrun h vsetRun).trans (by rw [vsetRun, issueAt_q h, vctrlKept])
    · exact fun h => (hrun h stepbRun).trans (by rw [stepbRun, issueAt_q h])
    · exact fun h => (hrun h endProgramRun).trans (by rw [endProgramRun, issueAt_q h])
  · intro s l q since hl hu hr hm hw
    have hexec : exec (.waitTimeout (some q) none) s = .next (waitTimeout (some q) none s) := rfl
    rw [hexec, waitTimeout_queen hl hu hr hm hw]
    exact ⟨fun h => congrArg _ (if_pos h), fun h => congrArg _ (if_neg (Nat.not_lt.2 h))⟩

end

section
/-! SUPPORT. Program images and rings (05 R152 to R154; 06 R164, R168; 12 R365): reading an image from memory without errors changes nothing,
and what the commands of the program family end with. -/

namespace Sys2Proof.Machine

/-- HBM lies within 40-bit addresses, so that an address below its end names SPACE 0 (11 Tables 11.1, 11.4). -/
theorem hbmBytes_lt (s : State) : hbmBytes s < 2 ^ 40 := by
  unfold hbmBytes dieBytes
  cases s.ident.grade <;> decide

theorem space_of_lt {a : Nat} (h : a < 2 ^ 40) : nfld a 40 3 = 0 := by
  rw [nfld, Nat.shiftRight_eq_div_pow, Nat.div_eq_of_lt h, Nat.zero_mod]

section clean
variable {s : State} (he : s.hbm.errs = []) (hs : s.hbm.selErrs = []) (hl : s.hbm.lenErrs = [])
include he hs hl

/-- A read of HBM without errors changes nothing. -/
theorem imageTouch_clean {a : Nat} (n : Nat) (h : nfld a 40 3 = 0) : imageTouch s a n = s := by
  have hread : spaceRead s a n = (some (hbmBytes' s (nfld a 0 40) n), s) := by simp [spaceRead, h, hbmRead, hbmCheck, he]
  simp [imageTouch, metaBad_clean s a n hs hl, metaFix_clean s a n hs hl, hread]

theorem imageReads_clean {a : Nat} (hn : Nat) (len : List Byte → Option Nat) (h : nfld a 40 3 = 0) : imageReads s a hn len = s := by
  unfold imageReads
  split <;> simp only [imageTouch_clean he hs hl _ h]

theorem coreReads_clean (a : Nat) : coreReads s a = s := by
  unfold coreReads
  split
  · rfl
  · have := hbmBytes_lt s
    exact imageReads_clean he hs hl _ _ (space_of_lt (by omega))

theorem streamReads_clean (a : Nat) : streamReads s a = s := by
  unfold streamReads
  split
  · rfl
  · have := hbmBytes_lt s
    exact imageReads_clean he hs hl _ _ (space_of_lt (by omega))

end clean

/-- A command that is refused: what its checks have read stays, and the answer goes back. -/
theorem runCmd_refused_at {c : Cmd} {src : ReqSrc} {s t : State} {r : Req} {st : Status} {d : Nat} (h : accepted c src s r = true)
    (hr : c.run (takeReq s r) r = refused t st d) : runCmd c src s = respond t r st.code d [] := by
  rw [runCmd_accepted h, hr]; rfl

section load
variable (u : State) (r : Req)

theorem loadCoreRun_running (h : slotRuns u (rn r 0) = true) : loadCoreRun u r = refused u .stateConflict := if_pos h

theorem loadCoreRun_ok {x : Slot} (h : slotRuns u (rn r 0) = false) (hx : coreImage u (rn r 1) = .ok x) : loadCoreRun u r =
    done { coreReads u (rn r 1) with comp := { (coreReads u (rn r 1)).comp with
      slots := tblSet none (coreReads u (rn r 1)).comp.slots (rn r 0) (some x) } } := by
  simp only [loadCoreRun, h, Bool.false_eq_true, if_false, hx]

theorem loadCoreRun_error {e : Status} (h : slotRuns u (rn r 0) = false) (hx : coreImage u (rn r 1) = .error e) :
    loadCoreRun u r = refused (coreReads u (rn r 1)) e (imageDetail e 8) := by
  simp only [loadCoreRun, h, Bool.false_eq_true, if_false, hx]

theorem loadStreamRun_ok {code : List Word} (hx : streamImage u (rn r 0) (rn r 1) = .ok code) :
    loadStreamRun u r = done (loadStreamProg (streamReads u (rn r 1)) (rn r 0) code) := by
  simp only [loadStreamRun, hx]

theorem loadStreamRun_error {e : Status} (hx : streamImage u (rn r 0) (rn r 1) = .error e) :
    loadStreamRun u r = refused (streamReads u (rn r 1)) e (imageDetail e 8) := by
  simp only [loadStreamRun, hx]

/-- SET_PARAMS schedules its words for a step that has not begun (05 R122). -/
theorem setParamsRun_later (h : ∀ st, u.job.step = some st → st.seq < rn r 0) : setParamsRun u r =
    done { u with comp := { u.comp with sched := u.comp.sched ++ [(rn r 0, rn r 1, rws r 3 (rn r 2))] } } := by
  unfold setParamsRun
  cases hst : u.job.step with
  | none => rfl
  | some st => simp [Nat.not_le.2 (h st hst)]

theorem setParamsRun_begun {st : Step} (hst : u.job.step = some st) (h : rn r 0 ≤ st.seq) :
    setParamsRun u r = refused u .stateConflict := by
  simp [setParamsRun, hst, h]

end load

end Sys2Proof.Machine

open Sys2Proof Sys2Proof.Machine

/-- Settles O15: each command is accepted and ends as its own run says; without errors in HBM an image is read without a trace. -/
theorem programCommands : Obligations.ProgramCommands := by
  refine ⟨?_, fun v s haux => ⟨congrArg _ (if_pos haux), congrArg _ (if_pos haux)⟩⟩
  intro src s r u n det v w
  have hdet : ∀ e : Status, imageDetail e 8 = det e := fun e => by cases e <;> rfl
  have hdone : ∀ {c : Cmd} {t : State}, accepted c src s r = true → c.run u r = done t →
      Host.Outcome.next (runCmd c src s) = (.next (okReply t r []) : Host.Outcome State Fault Refusal) :=
    fun ha hr => congrArg _ (runCmd_done ha hr)
  have hrefused : ∀ {c : Cmd} {t : State} {st : Status} {d : Nat}, accepted c src s r = true → c.run u r = refused t st d →
      Host.Outcome.next (runCmd c src s) = (.next (respond t r st.code d []) : Host.Outcome State Fault Refusal) :=
    fun ha hr => congrArg _ (runCmd_refused_at ha hr)
  refine ⟨fun x ha hfree hx => ?_, fun e ha hfree hx => ?_, fun he hs hl => ?_, fun ha hfree => ?_, fun hruns => ⟨fun ha => ?_, fun ha => ?_⟩,
    fun code ha hx => ?_, fun e ha hx => ?_, fun ha hst => ?_, fun st ha hst hn => ?_, fun ha => ?_⟩
  · exact hdone ha (loadCoreRun_ok u r hfree hx)
  · rw [← hdet]
    exact hrefused ha (loadCoreRun_error u r hfree hx)
  · exact ⟨coreReads_clean (s := u) he hs hl _, streamReads_clean (s := u) he hs hl _⟩
  · exact hdone ha (if_neg (ne_true_of_eq_false hfree))
  · exact hrefused ha (loadCoreRun_running u r hruns)
  · exact hrefused ha (if_pos hruns)
  · exact hdone ha (loadStreamRun_ok u r hx)
  · rw [← hdet]
    exact hrefused ha (loadStreamRun_error u r hx)
  · exact hdone ha (setParamsRun_later u r hst)
  · exact hrefused ha (setParamsRun_begun u r hst hn)
  · exact hdone ha rfl

end

section
/-! SUPPORT. VECTOR slots (05 R139, R140, Table 5.9): lanes of registers, and what each instruction computes for the types and variants that
it has. -/

namespace Sys2Proof

/-- The rest of a code without its sign stays within the format's width. -/
theorem ftzIn_lt {t : Ty} {c : Nat} (ftz : Bool) (h : c < 2 ^ tyWidth t) : ftzIn ftz t c < 2 ^ tyWidth t := by
  unfold ftzIn
  split
  · exact Nat.lt_of_le_of_lt (Nat.sub_le _ _) (Nat.mod_lt _ (Nat.two_pow_pos _))
  · exact h

theorem nfld_lt (w lo len : Nat) : nfld w lo len < 2 ^ len := Nat.mod_lt _ (Nat.two_pow_pos _)

theorem isNan_defaultNan {t : Ty} (h8 : isFp8 t = true) (neg : Bool) :
    (decodeVal t (defaultNan t + if neg then signBit t else 0)).isNan = true := by
  cases t with
  | e4m3 => cases neg <;> decide
  | e5m2 => cases neg <;> decide
  | _ => cases h8

/-- Every NaN converted to an FP8 format is a NaN (R37, R55). -/
theorem isNan_convVal {t : Ty} (h8 : isFp8 t = true) (r : Rounding) (sat : Bool) (shift : Int) {v : Val} (hv : v.isNan = true) :
    (decodeVal t (convVal t r sat shift v).code).isNan = true := by
  cases v with
  | nan neg p s => exact isNan_defaultNan h8 neg
  | inf n => cases hv
  | fin n m e => cases hv

/-- A magnitude that is NaN or infinite. -/
def Val.nonfinite (v : Val) : Bool := v.isNan || v.isInf

namespace Machine

/-- The greater of two magnitudes is nonfinite when one of them is (R57). -/
theorem nonfinite_maxMag {a b : Val} (h : a.nonfinite = true ∨ b.nonfinite = true) : (maxMag a b).nonfinite = true := by
  cases a <;> cases b <;> simp_all [maxMag, Val.nonfinite, Val.isNan, Val.isInf, cmpVals]

theorem nonfinite_foldl_maxMag {vs : List Val} {a : Val} (h : a.nonfinite = true ∨ ∃ v ∈ vs, v.nonfinite = true) :
    (vs.foldl maxMag a).nonfinite = true := by
  induction vs generalizing a with
  | nil => simpa using h
  | cons v r ih =>
    refine ih ?_
    rcases h with ha | ⟨x, hx, hn⟩
    · exact .inl (nonfinite_maxMag (.inl ha))
    · rcases List.mem_cons.1 hx with rfl | hr
      · exact .inl (nonfinite_maxMag (.inr hn))
      · exact .inr ⟨x, hr, hn⟩

/-- Zeros have a magnitude of zero. -/
theorem maxMag_zeros (n1 n2 : Bool) (e1 e2 : Int) : ∃ e, maxMag (.fin n1 0 e1) (.fin n2 0 e2) = .fin false 0 e := by
  simp only [maxMag, Val.isNan, Bool.false_eq_true, if_false]
  split
  · exact ⟨e2, rfl⟩
  · exact ⟨e1, rfl⟩

theorem foldl_maxMag_zeros {vs : List Val} (h : ∀ v ∈ vs, ∃ n e, v = .fin n 0 e) (e0 : Int) :
    ∃ e, vs.foldl maxMag (.fin false 0 e0) = .fin false 0 e := by
  induction vs generalizing e0 with
  | nil => exact ⟨e0, rfl⟩
  | cons v r ih =>
    obtain ⟨n, e, rfl⟩ := h v List.mem_cons_self
    obtain ⟨e', he'⟩ := maxMag_zeros false n e0 e
    rw [List.foldl_cons, he']
    exact ih (fun v hv => h v (List.mem_cons_of_mem _ hv)) e'

section scale
variable {vc : BitVec 16} (x : Cx) (t : Ty) {vs : List Val}

/-- Without TILE_SCALE an FP8 conversion takes its context's scale. -/
theorem scaleOf_context (h : vcTileScale vc = false) (vs : List Val) : scaleOf vc x t vs = cxScale x := by
  simp only [scaleOf, h, Bool.false_eq_true, if_false]

/-- A NaN or an infinity gives 0xFF (R57). -/
theorem scaleOf_nonfinite (h : vcTileScale vc = true) (hv : ∃ v ∈ vs, v.isNan = true ∨ v.isInf = true) : scaleOf vc x t vs = 255 := by
  have hn : (vs.foldl maxMag (.fin false 0 0)).nonfinite = true := nonfinite_foldl_maxMag (.inr (by simpa [Val.nonfinite] using hv))
  simp only [scaleOf, h, if_true]
  cases hm : vs.foldl maxMag (.fin false 0 0) with
  | fin n m e => rw [hm] at hn; cases hn
  | nan => rfl
  | inf => rfl

/-- Zeros alone give 127 (R57). -/
theorem scaleOf_zeros (h : vcTileScale vc = true) (hv : ∀ v ∈ vs, ∃ n e, v = .fin n 0 e) : scaleOf vc x t vs = 127 := by
  obtain ⟨e, he⟩ := foldl_maxMag_zeros hv 0
  simp only [scaleOf, h, if_true, he]
  rfl

end scale

/-- Lanes that fit a register lose no bit there. -/
theorem toNat_ofNat_codeString {n w : Nat} {ls : List Nat} (h : ls.length * w ≤ n) :
    (BitVec.ofNat n (codeString w ls)).toNat = codeString w ls := by
  rw [BitVec.toNat_ofNat, Nat.mod_eq_of_lt (Nat.lt_of_lt_of_le (codeString_lt ls w) (Nat.pow_le_pow_right Nat.two_pos h))]

/-- Lane k of a register that was packed from lanes. -/
theorem nfld_packLanes {w k : Nat} {ls : List Nat} (hw : ls.length * w ≤ 2048) (hk : k < ls.length) :
    nfld (packLanes w ls).toNat (w * k) w = ls[k] % 2 ^ w := by
  rw [packLanes, ← codeString, toNat_ofNat_codeString hw, nfld_codeString ls hk]

@[simp] theorem length_lanesOf (v : BitVec 2048) (w n : Nat) : (lanesOf v w n).length = n := by simp [lanesOf]

@[simp] theorem getElem_lanesOf (v : BitVec 2048) (w n k : Nat) (h : k < (lanesOf v w n).length) :
    (lanesOf v w n)[k] = nfld v.toNat (w * k) w := by simp [lanesOf]

section slots
variable (u : State) (i : Issue) (key : Nat) (c : Core)

theorem arithCore_ok {t : Ty} (f : Ty → Rm → Nat → Nat → Nat → Fr) (ht : arithTy i = some t) : arithCore f u i key c =
    .ok (putLanes u i key c (tyWidth t) ((zip3 (source i c t (sf i 11 5)) (source i c t (sf i 16 5)) (source i c t (sf i 21 5))).map fun x =>
      ftzOut (vcFtz c.vctrl) t (f t (vcRm c.vctrl) x.1 x.2.1 x.2.2))) := by
  simp only [arithCore, ht]

theorem arithCore_fault (f : Ty → Rm → Nat → Nat → Nat → Fr) (ht : arithTy i = none) :
    arithCore f u i key c = .error (progFault i key) := by
  simp only [arithCore, ht]

/-- What VCMP writes into a lane, with its flags (Table 5.9). -/
def cmpLane (t : Ty) (v : Nat) (x : Nat × Nat) : Fr :=
  ⟨maskCode t (fCompare t (v % 8) (v / 8 % 2 == 1) x.1 x.2).1, { inv := (fCompare t (v % 8) (v / 8 % 2 == 1) x.1 x.2).2 },
    if (fCompare t (v % 8) (v / 8 % 2 == 1) x.1 x.2).2 then
      (if (decodeVal t x.1).isSnan || (decodeVal t x.2).isSnan then 3 else 4) else 0⟩

theorem vcmpCore_ok {t : Ty} (ht : arithTy i = some t) : vcmpCore u i key c = .ok (putLanes u i key c (tyWidth t)
    (((source i c t (sf i 11 5)).zip (source i c t (sf i 16 5))).map (cmpLane t (vecVar i)))) := by
  simp only [vcmpCore, ht]
  rfl

theorem ite_beq (a b x y : Nat) : (if a == b then x else y) = if a = b then x else y := by
  by_cases h : a = b
  · rw [if_pos h, if_pos (beq_iff_eq.2 h)]
  · rw [if_neg h, if_neg (mt beq_iff_eq.1 h)]

/-- Lane k of a source of VSEL. -/
def selLane (c : Core) (i : Issue) (t : Ty) (reg k : Nat) : Nat :=
  ftzIn (vcFtz c.vctrl) t (nfld (vOf c (sf i reg 5)).toNat (tyWidth t * k) (tyWidth t))

/-- The lanes that VSEL writes. -/
def selLanes (c : Core) (i : Issue) (t : Ty) : List Nat :=
  let l := fun reg => (lanesOf (vOf c reg) (tyWidth t) (laneCount t)).map (ftzIn (vcFtz c.vctrl) t)
  (zip3 (l (sf i 11 5)) (l (sf i 16 5)) (l (sf i 21 5))).map fun x => if x.2.2 == 2 ^ tyWidth t - 1 then x.1 else x.2.1

theorem vselCore_ok {t : Ty} (ht : arithTy i = some t) :
    vselCore u i key c = .ok (putV u key (sf i 6 5) (packLanes (tyWidth t) (selLanes c i t))) := by
  simp only [vselCore, ht]
  rfl

theorem length_selLanes (t : Ty) : (selLanes c i t).length = laneCount t := by simp [selLanes, zip3]

theorem getElem_selLanes (t : Ty) {k : Nat} (hk : k < (selLanes c i t).length) :
    (selLanes c i t)[k] = if selLane c i t 21 k = 2 ^ tyWidth t - 1 then selLane c i t 11 k else selLane c i t 16 k := by
  simp only [selLanes, zip3, List.getElem_map, List.getElem_zip, getElem_lanesOf]
  exact ite_beq _ _ _ _

/-- Each lane of VSEL's result. -/
theorem nfld_selLanes {t : Ty} {k : Nat} (hk : k < 2048 / tyWidth t) :
    nfld (packLanes (tyWidth t) (selLanes c i t)).toNat (tyWidth t * k) (tyWidth t) =
      if selLane c i t 21 k = 2 ^ tyWidth t - 1 then selLane c i t 11 k else selLane c i t 16 k := by
  have hlen := length_selLanes i c t
  have hlt : ∀ reg, selLane c i t reg k < 2 ^ tyWidth t := fun reg => ftzIn_lt _ (nfld_lt _ _ _)
  rw [nfld_packLanes (by rw [hlen]; exact Nat.div_mul_le_self 2048 (tyWidth t)) (by rwa [hlen]), getElem_selLanes]
  split <;> exact Nat.mod_eq_of_lt (hlt _)

/-- The functions of VFUNC in the order of their variants (R62, R63). -/
def vecFuncs : List (Nat → Fr) := [exp32, rcp32, rsq32, logistic32]

theorem vfuncCore_eq : vfuncCore u i key c = match vecTy i, vecFuncs[vecVar i]? with
    | some .fp32, some f => .ok (putLanes u i key c 32 ((lanesOf (vOf c (sf i 11 5)) 32 64).map fun x =>
      ftzOut (vcFtz c.vctrl) .fp32 (f (ftzIn (vcFtz c.vctrl) .fp32 x))))
    | _, _ => .error (progFault i key) := by
  unfold vfuncCore
  match vecVar i with
  | 0 | 1 | 2 | 3 => rfl
  | n + 4 => rfl

theorem vfuncCore_ok {f : Nat → Fr} (ht : vecTy i = some .fp32) (hf : vecFuncs[vecVar i]? = some f) :
    vfuncCore u i key c = .ok (putLanes u i key c 32 ((lanesOf (vOf c (sf i 11 5)) 32 64).map fun x =>
      ftzOut (vcFtz c.vctrl) .fp32 (f (ftzIn (vcFtz c.vctrl) .fp32 x)))) := by
  rw [vfuncCore_eq, ht, hf]

theorem vfuncCore_fault (h : vecTy i ≠ some .fp32 ∨ 3 < vecVar i) : vfuncCore u i key c = .error (progFault i key) := by
  rw [vfuncCore_eq]
  split
  · rename_i ht hf
    obtain ⟨hvar, -⟩ := List.getElem?_eq_some_iff.1 hf
    rcases h with hty | hv
    · exact absurd ht hty
    · exact absurd hvar (Nat.not_lt.2 hv)
  · rfl

/-- What VCVT writes into a lane, with its flags (R55, R57; assumption 27). -/
def cvtLane (c : Core) (i : Issue) (key : Nat) (x : Cx) (t : Ty) (vs : List Val) (e : Val × Nat) : Fr :=
  let scale := scaleOf c.vctrl x t vs
  let r := convElem c.vctrl i.launch.seed x t scale (cxBase x (ciOf key) + BitVec.ofNat 64 e.2) e.1
  if e.1.isSnan then { r with fl := flOr r.fl { inv := true }, cause := 3 }
  else if nonfinite c.vctrl t scale && e.2 = nonfiniteAt vs then { r with fl := flOr r.fl { inv := true }, cause := 7 }
  else r

theorem cvtLane_code (x : Cx) (t : Ty) (vs : List Val) (e : Val × Nat) : (cvtLane c i key x t vs e).code =
    (convElem c.vctrl i.launch.seed x t (scaleOf c.vctrl x t vs) (cxBase x (ciOf key) + BitVec.ofNat 64 e.2) e.1).code := by
  simp only [cvtLane]
  split
  · rfl
  · split <;> rfl

theorem cvtLane_snan (x : Cx) (t : Ty) (vs : List Val) {e : Val × Nat} (h : e.1.isSnan = true) :
    (cvtLane c i key x t vs e).fl.inv = true ∧ (cvtLane c i key x t vs e).cause = 3 := by
  simp [cvtLane, h, flOr]

/-- The source values of VCVT. -/
def cvtValues (c : Core) (i : Issue) (st t : Ty) : List Val :=
  (lanesOf (vOf c (sf i 11 5)) (tyWidth st) (min (laneCount st) (laneCount t))).map (decodeVal st)

theorem vcvtCore_ok {st t : Ty} (hst : vecTy i = some st) (ht : tyOf (sf i 34 3) = some t) : vcvtCore u i key c =
    .ok (putLanes (putCx u key (sf i 37 2) (cxAdvance (gatherAmax (cxOf c (sf i 37 2)) t (cvtValues c i st t))
        (BitVec.ofNat 64 (min (laneCount st) (laneCount t))))) i key c (tyWidth t)
      ((cvtValues c i st t).zipIdx.map (cvtLane c i key (cxOf c (sf i 37 2)) t (cvtValues c i st t)))) := by
  simp only [vcvtCore, hst, ht]
  rfl

/-- One element converted to a format that no scale governs. -/
theorem convElem_unscaled {t : Ty} (h8 : isFp8 t = false) (vc : BitVec 16) (seed : Word) (x : Cx) (scale : Nat) (idx : Word) (v : Val) :
    convElem vc seed x t scale idx v = convVal t (roundingOf vc seed x t idx) false 0 v := by
  simp only [convElem, h8, Bool.false_eq_true, if_false]

/-- One element converted to FP8 by a scale. -/
theorem convElem_scaled {t : Ty} (h8 : isFp8 t = true) (vc : BitVec 16) (seed : Word) (x : Cx) {scale : Nat} (hs : scale ≠ 255)
    (idx : Word) (v : Val) :
    convElem vc seed x t scale idx v = convVal t (roundingOf vc seed x t idx) (vcSat vc t) (127 - (scale : Int)) v := by
  simp only [convElem, h8, if_true, hs, if_false]

/-- The scale 0xFF makes every element NaN (R36). -/
theorem isNan_convElem {t : Ty} (h8 : isFp8 t = true) (vc : BitVec 16) (seed : Word) (x : Cx) (idx : Word) (v : Val) :
    (decodeVal t (convElem vc seed x t 255 idx v).code).isNan = true := by
  have hn : (if v.isNan then v else Val.nan false 0 false).isNan = true := by
    split
    · assumption
    · rfl
  simp only [convElem, h8, if_true]
  exact isNan_convVal h8 _ _ _ hn

/-- The lanes that VRED reduces, each without a flag (Table 5.9). -/
def redLanes (c : Core) (i : Issue) (t : Ty) : List Fr :=
  ((lanesOf (vOf c (sf i 11 5)) (tyWidth t) (laneCount t)).map (ftzIn (vcFtz c.vctrl) t)).map fun x => ⟨x, {}, 0⟩

/-- What VRED computes for each of its variants (Table 5.9, R49, R54). -/
def redResult (c : Core) (i : Issue) (t : Ty) : Option Fr :=
  match vecVar i with
  | 0 => some (canonTree (frPair fun a b => ftzOut (vcFtz c.vctrl) t (fAdd t (vcRm c.vctrl) a b)) ⟨0, {}, 0⟩ (redLanes c i t))
  | 1 => some (canonTree (frPair (fMaxMin t true)) ⟨0, {}, 0⟩ (redLanes c i t))
  | 2 => some (canonTree (frPair (fMaxMin t false)) ⟨0, {}, 0⟩ (redLanes c i t))
  | 3 => some (canonTree (frPair (fMaxMin t true)) ⟨0, {}, 0⟩
    ((redLanes c i t).map fun r => if (decodeVal t r.code).isNan then r else ⟨absCode t r.code, {}, 0⟩))
  | _ => none

/-- Taking the absolute value of the codes first, or of the lanes made of them, is the same. -/
theorem absLanes_eq (t : Ty) (ls : List Nat) :
    ((ls.map fun x => (⟨x, {}, 0⟩ : Fr)).map fun r => if (decodeVal t r.code).isNan then r else ⟨absCode t r.code, {}, 0⟩) =
      (ls.map fun x => if (decodeVal t x).isNan then x else absCode t x).map fun x => (⟨x, {}, 0⟩ : Fr) := by
  simp only [List.map_map]
  refine List.map_congr_left fun x _ => ?_
  simp only [Function.comp_apply]
  split <;> rfl

theorem vredCore_eq {t : Ty} (ht : arithTy i = some t) : vredCore u i key c = match redResult c i t with
    | some r => .ok (putLanes u i key c (tyWidth t) [r])
    | none => .error (progFault i key) := by
  unfold vredCore redResult
  simp only [ht]
  match vecVar i with
  | 0 | 1 | 2 => rfl
  | 3 => simp only [redLanes, absLanes_eq]
  | n + 4 => rfl

theorem vredCore_ok {t : Ty} {r : Fr} (ht : arithTy i = some t) (hr : redResult c i t = some r) :
    vredCore u i key c = .ok (putLanes u i key c (tyWidth t) [r]) := by
  rw [vredCore_eq u i key c ht, hr]

theorem vredCore_fault {t : Ty} (ht : arithTy i = some t) (hv : 3 < vecVar i) : vredCore u i key c = .error (progFault i key) := by
  have hnone : redResult c i t = none := by
    obtain ⟨n, hn⟩ := Nat.exists_eq_add_of_le' hv
    rw [redResult, hn]
    rfl
  rw [vredCore_eq u i key c ht, hnone]

theorem vmiscCore_lanes {t : Ty} (ht : arithTy i = some t) (hv : vecVar i ≤ 18) (h15 : vecVar i ≠ 15) (h16 : vecVar i ≠ 16) :
    vmiscCore u i key c = .ok (putLanes u i key c (tyWidth t)
      ((((lanesOf (vOf c (sf i 11 5)) (tyWidth t) (laneCount t)).map (ftzIn (vcFtz c.vctrl) t)).zip
        ((lanesOf (vOf c (sf i 16 5)) (tyWidth t) (laneCount t)).map (ftzIn (vcFtz c.vctrl) t))).map fun x =>
          ftzOut (vcFtz c.vctrl && decide (vecVar i < 14)) t (miscLane t (vcRm c.vctrl) (vecVar i) x.1 x.2))) := by
  have h28 : ¬28 < vecVar i := by omega
  have h19 : ¬19 ≤ vecVar i := by omega
  simp [vmiscCore, ht, h28, h19, h15, h16]

theorem vmiscCore_toInt {t : Ty} (ht : arithTy i = some t) (hv : vecVar i = 15) : vmiscCore u i key c =
    .ok (putLanes u i key c 64 ((lanesOf (vOf c (sf i 11 5)) (tyWidth t) 32).map fun a => fToInt t (vcRm c.vctrl) true a)) := by
  simp [vmiscCore, ht, hv]

theorem vmiscCore_fromInt {t : Ty} (ht : arithTy i = some t) (hv : vecVar i = 16) : vmiscCore u i key c =
    .ok (putLanes u i key c (tyWidth t) ((lanesOf (vOf c (sf i 11 5)) 64 32).map fun a => fFromInt t (vcRm c.vctrl) a)) := by
  simp [vmiscCore, ht, hv]

theorem vmiscCore_toIntDirected {t : Ty} (ht : arithTy i = some t) (hlo : 19 ≤ vecVar i) (hhi : vecVar i ≤ 28) : vmiscCore u i key c =
    .ok (putLanes u i key c 64 ((lanesOf (vOf c (sf i 11 5)) (tyWidth t) 32).map fun a =>
      fToInt t (intRm ((vecVar i - 19) % 5)) (decide (24 ≤ vecVar i)) a)) := by
  have h28 : ¬28 < vecVar i := by omega
  have h15 : vecVar i ≠ 15 := by omega
  simp [vmiscCore, ht, h28, h15, hlo]

theorem vmiscCore_fault {t : Ty} (ht : arithTy i = some t) (hv : 28 < vecVar i) : vmiscCore u i key c = .error (progFault i key) := by
  simp only [vmiscCore, ht, hv, if_true]

end slots

/-- The lane-wise rows are core rows. -/
theorem mem_coreRows_of_arithRows {q : Fin 32} {row : Instr} {op : Nat} {f : Ty → Rm → Nat → Nat → Nat → Fr}
    (h : (row, op, f) ∈ arithRows q) : (row, 3, op, arithCore f) ∈ coreRows q :=
  List.mem_append_left _ (List.mem_map.2 ⟨(row, op, f), h, rfl⟩)

/-- A VECTOR row that its type or variant makes a program fault (R127, R139). -/
theorem exec_vec_fault {s u : State} {q : Fin 32} {row : Instr} {op : Nat} {f : SlotFn} {i : Issue} {key : Nat}
    (hm : (row, 3, op, f) ∈ coreRows q) (h : slotOnCore s q.val 3 op u i key)
    (hf : f u i key (coreBefore u q.val key) = .error (progFault i key)) :
    exec row s = .next (failStep u { status := 4, ecause := 2, addr := i.pc, unit := ciOf key }) := by
  rw [exec_onCore_stops hm h hf, applyStop_progFault]

end Machine
end Sys2Proof

open Sys2Proof Sys2Proof.Machine

/-- Settles O46: each VECTOR row writes what its function of the operands gives, for every type and variant that it has. -/
theorem vectorResults : Obligations.VectorResults := by
  intro s u q i key c rm ftz fault writes
  refine ⟨?_, ?_, ?_, ?_, ?_, ?_, ?_, ?_, ?_⟩
  · intro row op f hm hs
    have hrow := mem_coreRows_of_arithRows hm
    exact ⟨fun t ht => exec_onCore hrow hs (arithCore_ok u i key c f ht), fun ht => exec_vec_fault hrow hs (arithCore_fault u i key c f ht)⟩
  · intro t hs ht
    refine ⟨_, exec_onCore (by simp [coreRows]) hs (vcmpCore_ok u i key c ht), ?_⟩
    rw [List.map_map]
    rfl
  · intro t hs ht w
    exact ⟨_, exec_onCore (by simp [coreRows]) hs (vselCore_ok u i key c ht), fun k hk => nfld_selLanes i c hk⟩
  · intro hs ht f hf
    exact exec_onCore (by simp [coreRows]) hs (vfuncCore_ok u i key c ht hf)
  · intro hs hbad
    exact exec_vec_fault (by simp [coreRows]) hs (vfuncCore_fault u i key c hbad)
  · intro st t hs hst ht h8 k x n vs
    refine ⟨_, exec_onCore (by simp [coreRows]) hs (vcvtCore_ok u i key c hst ht), ?_⟩
    rw [List.map_map]
    refine List.map_congr_left fun e _ => ?_
    rw [Function.comp_apply, cvtLane_code, convElem_unscaled h8]
  · intro st t hs hst ht h8 k x n vs scale
    refine ⟨fun h => scaleOf_context x t h vs, fun h hv => scaleOf_nonfinite x t h hv, fun h hv => scaleOf_zeros x t h hv,
      _, exec_onCore (by simp [coreRows]) hs (vcvtCore_ok u i key c hst ht), ?_, fun j v r hv hr => ?_⟩
    · simp [cvtValues, vs, n]
    · obtain rfl : r = cvtLane c i key x t vs (v, j) := by
        rw [List.getElem?_map, List.getElem?_zipIdx, show (cvtValues c i st t)[j]? = some v from hv] at hr
        simp only [Option.map_some, Nat.zero_add, Option.some.injEq] at hr
        exact hr.symm
      refine ⟨fun h255 => ?_, fun hne => ?_, fun hsn => cvtLane_snan i key c x t vs hsn⟩
      · rw [cvtLane_code, show scaleOf c.vctrl x t vs = 255 from h255]
        exact isNan_convElem h8 _ _ x _ v
      · rw [cvtLane_code, convElem_scaled h8 _ _ x hne]
  · intro t hs ht ls
    have hred : ∀ {r}, redResult c i t = some r → exec (.vred q) s = .next (writes (tyWidth t) [r]) := fun hr =>
      exec_onCore (by simp [coreRows]) hs (vredCore_ok u i key c ht hr)
    refine ⟨fun hv => ?_, fun hv => ?_, fun hv => ?_, fun hv => ?_, fun hv => ?_⟩
    · exact hred (by rw [redResult, hv]; rfl)
    · exact hred (by rw [redResult, hv]; rfl)
    · exact hred (by rw [redResult, hv]; rfl)
    · exact hred (by rw [redResult, hv]; rfl)
    · exact exec_vec_fault (by simp [coreRows]) hs (vredCore_fault u i key c ht hv)
  · intro t hs ht lanes
    refine ⟨fun hv h15 h16 => ?_, fun hv => ?_, fun hv => ?_, fun hlo hhi => ?_, fun hv => ?_⟩
    · exact exec_onCore (by simp [coreRows]) hs (vmiscCore_lanes u i key c ht hv h15 h16)
    · exact exec_onCore (by simp [coreRows]) hs (vmiscCore_toInt u i key c ht hv)
    · exact exec_onCore (by simp [coreRows]) hs (vmiscCore_fromInt u i key c ht hv)
    · exact exec_onCore (by simp [coreRows]) hs (vmiscCore_toIntDirected u i key c ht hlo hhi)
    · exact exec_vec_fault (by simp [coreRows]) hs (vmiscCore_fault u i key c ht hv)

end

section
/-! SUPPORT. TENC on a core whose table of conversion contexts is not canonical: it lists context 0 twice. The first one's INDEX is 32 below
2^64, so that TENC leaves it as reset leaves it, its entry goes from the table, and the context behind it is read from then on. -/

namespace Sys2Proof.Machine

/-- What a slot's end does to the queen leaves the cores alone. -/
theorem coreOf_slotEnds (u t : State) (i : Issue) (q k key : Nat) : coreOf (slotEnds u t i q k) key = coreOf t key := by
  unfold slotEnds slotFinish
  dsimp only
  split <;> rfl

/-- The MOVE slot TENC of HALF 0 from the mask of stream 0 to stream 1, with context 0 (05 Table 5.10), and a bundle of core 0 with it alone. -/
def tencTwice : Nat := 7 + 2 ^ 18
def tencTwiceSlot : Slot := {
  phys := false, vctrl := 0, nparam := 0, bundles := [BitVec.ofNat 256 (1 + tencTwice * 2 ^ 208)], res := [], base := 0 }

/-- That bundle in issue; a LIST tile without stored positions at 64 of the local store; stream 0 there and stream 1 at 512; and context 0
listed with INDEX 2^64 - 32, all else zero, and again with INDEX 1. -/
def twiceContext : State := { inStep0 with
  comp := {
    slots := [(0, some tencTwiceSlot)], queens := [(0, { st := .run })], ls := [(64, 4)]
    cores := [(0, {
      s := [(0, { word := 64 }), (1, { word := 512 })]
      cx := [(0, { word := BitVec.ofNat 256 ((2 ^ 64 - 32) * 2 ^ 64) }), (0, { word := BitVec.ofNat 256 (2 ^ 64) })] })] } }

def tencTwiceIssue : Issue := { q := 0, launch := slot0Launch, pc := 0, slot := tencTwice }

theorem slotOnCore_twiceContext : slotOnCore twiceContext 0 4 7 twiceContext tencTwiceIssue 0 := by unfold slotOnCore; decide +kernel

/-- The mask and its header lie in the local store. -/
theorem tileFits_twiceContext : tileFits twiceContext 0 0 64 := ⟨by decide +kernel, by decide +kernel⟩

/-- The context that TENC reads has INDEX 32 below 2^64 … -/
theorem index_twiceContext : cxIndex (cxOf (coreBefore twiceContext 0 0) 0) + 32 = 0 := by decide +kernel

/-- … and the one read afterwards has INDEX 1. -/
theorem index_after_twiceContext : cxIndex (cxOf (coreOf (runSlot 0 4 7 tencCore twiceContext) 0) 0) = 1 := by decide +kernel

end Sys2Proof.Machine

open Sys2Proof Sys2Proof.Machine

/-- Refutes O50: TENC's INDEX need not read back as 32 more. On a table of contexts that is not canonical the write of a context that
comes out as reset leaves it uncovers another one. -/
theorem not_engineInstructions : ¬ Obligations.EngineInstructions := by
  rintro ⟨h, -⟩
  obtain ⟨-, -, -, -, -, -, -, htenc⟩ := h twiceContext twiceContext 0 tencTwiceIssue 0
  obtain ⟨v, hexec, -, -, hindex, -⟩ := htenc slotOnCore_twiceContext (by decide +kernel) rfl rfl (by decide +kernel) (by decide +kernel)
    (by decide +kernel) tileFits_twiceContext (by decide +kernel) (by decide +kernel) (by decide +kernel) (by decide +kernel)
    (by decide +kernel) (by decide +kernel)
  have hrun : runSlot 0 4 7 tencCore twiceContext = slotEnds twiceContext v tencTwiceIssue 0 4 := Host.Outcome.next.inj hexec
  have hcontext : sf tencTwiceIssue 22 2 = 0 := by decide
  have hafter := index_after_twiceContext
  rw [hrun, coreOf_slotEnds] at hafter
  rw [hcontext, hafter] at hindex
  exact absurd (hindex.trans index_twiceContext) (by decide)

end

section
/-! SUPPORT. What a poison, a safe-state entry and the freeing of buffers and frames leave of the stream units (06 R161, R187, R195; 13 R375,
R386): contexts, programs and failed units stand, and of the chunks and the waiting pieces some may go. -/

set_option Elab.async false

namespace Sys2Proof.Machine

/-- A fold of steps that leave the stream units alone. -/
theorem foldl_su {α : Type} {f : State → α → State} (h : ∀ t a, (f t a).su = t.su) (l : List α) (s : State) :
    (l.foldl f s).su = s.su := by
  induction l generalizing s with
  | nil => rfl
  | cons a l ih => exact (ih _).trans (h s a)

theorem foldl_modQueen_su (qs : List Nat) (f : Queen → Queen) (t : State) : (qs.foldl (fun t q => modQueen t q f) t).su = t.su :=
  foldl_su (fun t q => modQueen_su t q f) qs t

theorem foldl_modChan_su (cs : List Nat) (f : Chan → Chan) (t : State) : (cs.foldl (fun t c => modChan t c f) t).su = t.su :=
  foldl_su (fun t c => modChan_su t c f) cs t

variable (s : State)

@[simp] theorem setMode_su (m : Mode) : (setMode s m).su = s.su := by
  obtain ⟨o, p, h⟩ := setMode_frame s m; rw [h]

@[simp] theorem sendSet_su (p : Nat) (c : Byte) (y : BitVec 40) (n : Nat) : (sendSet s p c y n).su = s.su := by rw [sendSet_eq]

@[simp] theorem sendSets_su (ps : List Nat) (c : Byte) (y : BitVec 40) (n : Nat) : (sendSets s ps c y n).su = s.su := by rw [sendSets_eq]

@[simp] theorem sendBeacon_su (p : Nat) : (sendBeacon s p).su = s.su := sendSet_su ..

@[simp] theorem recomputeHealth_su : (recomputeHealth s).su = s.su := by
  obtain ⟨o, p, h⟩ := recomputeHealth_frame s; rw [h]

@[simp] theorem noteDoubleFree_su (owner requester : Nat) : (noteDoubleFree s owner requester).su = s.su := recomputeHealth_su _

@[simp] theorem freeBufHandle_su (h : Nat) : (freeBufHandle s h).su = s.su := by
  unfold freeBufHandle
  split
  · exact noteDoubleFree_su ..
  · rfl

@[simp] theorem freeChunks_su (cs : List Chunk) : (freeChunks s cs).su = s.su :=
  foldl_su (fun t _ => foldl_su freeBufHandle_su _ t) cs s

@[simp] theorem sendPause_su (p : Nat) : (sendPause s p).su = s.su := by
  unfold sendPause
  dsimp only
  split <;> rfl

@[simp] theorem updatePause_su (p : Nat) : (updatePause s p).su = s.su := by
  unfold updatePause
  dsimp only
  split
  · rfl
  · split
    · exact sendPause_su ..
    · rfl

@[simp] theorem releaseCells_su (owner n : Nat) : (releaseCells s owner n).su = s.su := by
  unfold releaseCells
  split
  · exact updatePause_su ..
  · rfl

@[simp] theorem releaseFrame_su (f : CFrame) : (releaseFrame s f).su = s.su := releaseCells_su ..

@[simp] theorem dropLeaf_su (id : Nat) : (dropLeaf s id).su = s.su := by
  unfold dropLeaf
  split
  · exact noteDoubleFree_su ..
  · split
    · exact releaseFrame_su ..
    · rfl

@[simp] theorem writeCompletion_su (o : Outcome') (f : Fail) : (writeCompletion s o f).su = s.su := by
  unfold writeCompletion
  split
  · dsimp only
    split <;> rfl
  · rfl

@[simp] theorem endLaunch_su : (endLaunch s).su = s.su := by
  unfold endLaunch
  split
  · rfl
  · extract_lets s1 s2 _ _ s3 _
    have hstopped : s3.su = s.su := (foldl_modChan_su ..).trans (foldl_modQueen_su ..)
    split
    · exact (setMode_su ..).trans hstopped
    · split <;> exact hstopped

@[simp] theorem unstage_su (o : Nat) (c : Copy) : (unstage s o c).su = s.su := by
  unfold unstage
  split
  · rfl
  · split <;> rfl

@[simp] theorem fenceOutput_su (o : Nat) : (fenceOutput s o).su = s.su := by
  unfold fenceOutput
  dsimp only
  split
  · rfl
  · exact foldl_su (fun t x => unstage_su t o x) _ s

@[simp] theorem fenceOutputs_su : (fenceOutputs s).su = s.su := by
  rw [fenceOutputs]
  exact foldl_su (fun t _ => fenceOutput_su t _) _ s

/-- The stream units of a later state: contexts, programs and failed units as they were, and no chunk and no waiting piece that was not
there. -/
structure Su.Lesser (a b : Su) : Prop where
  ctxs : b.ctxs = a.ctxs
  programs : b.programs = a.programs
  failed : b.failed = a.failed
  chunks : b.chunks ⊆ a.chunks
  queue : b.queue ⊆ a.queue

namespace Su.Lesser

theorem refl (a : Su) : Lesser a a := ⟨rfl, rfl, rfl, List.Subset.refl _, List.Subset.refl _⟩

theorem of_eq {a b : Su} (h : b = a) : Lesser a b := h ▸ refl a

theorem trans {a b c : Su} (h : Lesser a b) (h' : Lesser b c) : Lesser a c :=
  ⟨h'.ctxs.trans h.ctxs, h'.programs.trans h.programs, h'.failed.trans h.failed, List.Subset.trans h'.chunks h.chunks, List.Subset.trans h'.queue h.queue⟩

theorem foldl {α : Type} {f : State → α → State} (h : ∀ t a, Lesser t.su (f t a).su) (l : List α) (s : State) :
    Lesser s.su (l.foldl f s).su := by
  induction l generalizing s with
  | nil => exact refl _
  | cons a l ih => exact (h s a).trans (ih _)

end Su.Lesser

open Su (Lesser)

theorem settleLeaves_lesser : Lesser s.su (settleLeaves s).su := by
  have hstay : ∀ (go : List Leaf) (t : State), (go.foldl (fun t l => dropLeaf t l.frame) t).su = t.su :=
    foldl_su fun t l => dropLeaf_su t l.frame
  rw [settleLeaves, hstay]
  exact ⟨rfl, rfl, rfl, List.Subset.refl _, List.Subset.refl _⟩

theorem discardStep_lesser (l : Launch) : Lesser s.su (discardStep s l).su := by
  unfold discardStep
  extract_lets s1 gone mine isGone lost s2 _ _ _ _ s3 s3' qs s4
  have hfreed : s2.su = s.su := (foldl_su (fun t g => freeBufHandle_su t _) lost _).trans (freeChunks_su s1 gone)
  have hleaves : Lesser s3.su s3'.su := settleLeaves_lesser s3
  have hstopped : s4.su = s3'.su := foldl_modQueen_su ..
  rw [foldl_modChan_su, hstopped]
  refine Lesser.trans (b := s3.su) ?_ hleaves
  exact (Lesser.of_eq hfreed).trans ⟨rfl, rfl, rfl, List.filter_sublist.subset, List.filter_sublist.subset⟩

theorem endStep_lesser (o : Outcome') (f : Fail) : Lesser s.su (endStep s o f).su := by
  unfold endStep
  split
  · exact Lesser.refl _
  · split
    · exact Lesser.of_eq (endLaunch_su s)
    · rw [endLaunch_su]
      exact (Lesser.of_eq (writeCompletion_su s o f)).trans (discardStep_lesser _ _)

theorem enterSafe_lesser {alarm : State → State} (h : ∀ t, Lesser t.su (alarm t).su) (m : Mech) (loc : Nat) :
    Lesser s.su (enterSafe s alarm m loc).su := by
  unfold enterSafe
  split
  · exact Lesser.refl _
  · extract_lets _ s1 s3 s4 _
    have hsent : s4.su = s3.su := foldl_su sendBeacon_su (sbPorts s3) s3
    have hmode : s3.su = (alarm s1).su := setMode_su ..
    have hfenced : s1.su = s.su := fenceOutputs_su _
    exact (Lesser.of_eq hfenced).trans ((h s1).trans (Lesser.of_eq (hsent.trans hmode)))

theorem actPoison_lesser (cause : Nat) : Lesser s.su (actPoison s cause).su := by
  unfold actPoison
  split
  · rename_i l st _ _
    split
    · exact endStep_lesser ..
    · split
      · exact Lesser.refl _
      · extract_lets st' _ h _ s0 s1
        have hnext : Lesser s.su s0.su := Lesser.refl _
        have hdiscard : Lesser s.su s1.su := hnext.trans (discardStep_lesser s0 l)
        split
        · exact hnext.trans (endStep_lesser s0 _ _)
        · split
          · exact hdiscard.trans (enterSafe_lesser s1 (fun t => Lesser.of_eq (sendSets_su t ..)) _ _)
          · exact hdiscard
  · exact Lesser.refl _

theorem raisePoison_lesser (c : PCause) : Lesser s.su (raisePoison s c).su := by
  unfold raisePoison
  split
  · extract_lets code _
    split
    · exact Lesser.refl _
    · refine Lesser.trans ?_ (actPoison_lesser ..)
      exact Lesser.of_eq (sendSets_su s ..)
  · exact Lesser.refl _

theorem checkFree_lesser (t : State) : Lesser t.su (checkFree s t).su := by
  unfold checkFree
  split
  · exact raisePoison_lesser ..
  · exact Lesser.refl _

theorem doubleFree_lesser (owner requester : Nat) : Lesser s.su (doubleFree s owner requester).su :=
  Lesser.trans (Lesser.of_eq (noteDoubleFree_su s owner requester)) (raisePoison_lesser (noteDoubleFree s owner requester) _)

theorem safeEntry_lesser (m : Mech) (loc : Nat) : Lesser s.su (safeEntry s m loc).su := by
  refine enterSafe_lesser _ (fun t => ?_) m loc
  split
  · exact Lesser.refl _
  · exact raisePoison_lesser ..

theorem combRead_lesser (p : CombMeta → Bool) : Lesser s.su (combRead s p).1.su := by
  unfold combRead
  extract_lets hit _ s1
  have hcounted : Lesser s.su s1.su := Lesser.refl _
  split
  · exact Lesser.refl _
  · split
    · exact hcounted.trans (safeEntry_lesser s1 _ _)
    · exact hcounted

theorem settleFree_lesser : Lesser s.su (settleFree s).su := (settleLeaves_lesser s).trans (checkFree_lesser ..)

theorem returnBuf_lesser (h : Nat) : Lesser s.su (returnBuf s h).su := by
  have hread : Lesser s.su (bufRead s h).1.su := combRead_lesser ..
  unfold returnBuf
  dsimp only
  split
  · exact hread
  · exact (hread.trans (Lesser.of_eq (freeBufHandle_su _ h))).trans (checkFree_lesser ..)

theorem decRef_lesser (id requester : Nat) : Lesser s.su (decRef s id requester).su := by
  unfold decRef
  split
  · exact doubleFree_lesser ..
  · split
    · exact doubleFree_lesser ..
    · split
      · exact Lesser.of_eq (releaseFrame_su ..)
      · exact Lesser.refl _

theorem dropUnitQueue_lesser (u : Nat) : Lesser s.su (dropUnitQueue s u).su := by
  unfold dropUnitQueue
  extract_lets o ids _ s1
  exact (Lesser.of_eq (a := s.su) (b := s1.su) rfl).trans (Lesser.foldl (fun t id => decRef_lesser (count t .streamUnitDown u) id o) ids s1)

/-- An abandoned chunk goes, with what else the freeing of its buffers costs. -/
theorem dropChunk_lesser (c q k : Nat) : Lesser s.su (dropChunk s c q k).su := by
  unfold dropChunk
  extract_lets p s1 mine s2 _
  have hfreed : Lesser s.su s2.su :=
    (Lesser.foldl returnBuf_lesser _ s).trans (Lesser.foldl (fun t g => returnBuf_lesser t g.2.2.2) mine s1)
  exact hfreed.trans ⟨rfl, rfl, rfl, List.filter_sublist.subset, List.Subset.refl _⟩

end Sys2Proof.Machine
end

section
/-! SUPPORT. A stream unit gives up a chunk (06 R186, R193, R195; 07 R214): its buffers go back, its entry and its pieces go. -/

set_option Elab.async false

namespace Sys2Proof.Machine

open Su (Lesser)

/-- A chunk has this name. -/
def chunkNamed (c q k : Nat) (x : Chunk) : Bool := x.ctx == c && x.seq == q && x.chunk == k

/-- The buffers that go with the chunks of a name: those that they hold, and those granted to them (07 R210). -/
def buffersOf (s : State) (c q k : Nat) : List Nat :=
  (s.su.chunks.filter (chunkNamed c q k)).flatMap (fun x => x.bufs ++ x.nodes.map (·.handle)) ++
    (s.su.granted.filter fun g => g.1 == c && g.2.1 == q && g.2.2.1 == k).map (·.2.2.2)

/-- The entries of the chunks of a name go, and what was granted to them. -/
def dropEntries (s : State) (c q k : Nat) : State := { s with su := { s.su with
  chunks := s.su.chunks.filter fun x => !chunkNamed c q k x
  granted := s.su.granted.filter fun g => !(g.1 == c && g.2.1 == q && g.2.2.1 == k) } }

/-- A chunk is given up where the return of its own buffers leaves the units alone: every buffer of it goes back, then its entry goes. -/
theorem dropChunk_eq {s : State} {c q k : Nat}
    (h : (((s.su.chunks.filter (chunkNamed c q k)).flatMap fun x => x.bufs ++ x.nodes.map (·.handle)).foldl returnBuf s).su = s.su) :
    dropChunk s c q k = dropEntries ((buffersOf s c q k).foldl returnBuf s) c q k := by
  rw [buffersOf, List.foldl_append, List.foldl_map]
  unfold dropChunk
  extract_lets p s1 mine s2
  have hmine : mine = s.su.granted.filter fun g => g.1 == c && g.2.1 == q && g.2.2.1 == k := by
    rw [← h]; rfl
  rw [← hmine]
  rfl

section free
variable {s : State}

/-- The buffers that are left when some handles have gone back. -/
def bufsWithout (hs : List Nat) (bs : List Buf) : List Buf := bs.filter fun x => !hs.contains (x.pool * 65536 + x.id)

@[simp] theorem bufsWithout_nil (bs : List Buf) : bufsWithout [] bs = bs := List.filter_eq_self.2 fun _ _ => rfl

theorem bufsWithout_cons (h : Nat) (hs : List Nat) (bs : List Buf) :
    bufsWithout (h :: hs) bs = bufsWithout hs (bs.filter fun x => !(x.pool * 65536 + x.id == h)) := by
  simp only [bufsWithout, List.filter_filter, List.contains_cons, Bool.not_or, Bool.and_comm]

/-- A buffer whose handle has gone back is no longer held … -/
theorem find_bufsWithout_of_mem {hs : List Nat} {h : Nat} (hh : h ∈ hs) (bs : List Buf) :
    (bufsWithout hs bs).find? (fun x => x.pool * 65536 + x.id == h) = none := by
  rw [bufsWithout, List.find?_filter, List.find?_eq_none]
  intro x _
  by_cases hx : x.pool * 65536 + x.id = h <;> simp [hx, hh]

/-- … and any other is still what it was. -/
theorem find_filter_other {h h' : Nat} (hne : h' ≠ h) (bs : List Buf) :
    (bs.filter fun x => !(x.pool * 65536 + x.id == h)).find? (fun x => x.pool * 65536 + x.id == h') =
      bs.find? fun x => x.pool * 65536 + x.id == h' := by
  rw [List.find?_filter]
  congr 1
  funext x
  by_cases hx : x.pool * 65536 + x.id = h' <;> simp [hx, hne]

/-- A buffer that is held goes back, and nothing else changes but the accounts. -/
theorem freeBufHandle_held {h : Nat} (hb : (bufOf s h).isSome = true) : ∃ used owner, freeBufHandle s h = { s with comb := { s.comb with
    bufs := s.comb.bufs.filter fun x => !(x.pool * 65536 + x.id == h), used := used, lastOwner := owner } } := by
  obtain ⟨b, hb⟩ := Option.isSome_iff_exists.1 hb
  rw [freeBufHandle, hb]
  exact ⟨_, _, rfl⟩

/-- Nothing new in the log of double frees: there is none to check. -/
theorem checkFree_of_log_eq {t : State} (h : t.hbm.integrityLog = s.hbm.integrityLog) : checkFree s t = t := by
  rw [checkFree, h]; simp

theorem bufRead_clean (hm : s.comb.metaErrs = []) (h : Nat) : bufRead s h = (s, false) :=
  combRead_clean s _ (by simp [hm])

theorem returnBuf_held {h : Nat} (hm : s.comb.metaErrs = []) (hb : (bufOf s h).isSome = true) : returnBuf s h = freeBufHandle s h := by
  rw [returnBuf, bufRead_clean hm]
  refine checkFree_of_log_eq ?_
  obtain ⟨used, owner, hfree⟩ := freeBufHandle_held hb
  rw [hfree]

/-- Buffers that are held, all different, go back one after the other. -/
theorem foldl_returnBuf_held {hs : List Nat} (hm : s.comb.metaErrs = []) (hn : hs.Nodup) (hb : ∀ h ∈ hs, (bufOf s h).isSome = true) :
    ∃ used owner, hs.foldl returnBuf s =
      { s with comb := { s.comb with bufs := bufsWithout hs s.comb.bufs, used := used, lastOwner := owner } } := by
  induction hs generalizing s with
  | nil => exact ⟨s.comb.used, s.comb.lastOwner, by rw [bufsWithout_nil]; rfl⟩
  | cons h hs ih =>
    obtain ⟨hfresh, hrest⟩ := List.nodup_cons.1 hn
    obtain ⟨used, owner, hfree⟩ := freeBufHandle_held (hb h List.mem_cons_self)
    have hleft : ∀ h' ∈ hs, (bufOf (freeBufHandle s h) h').isSome = true := by
      intro h' hh'
      have hne : h' ≠ h := fun e => hfresh (e ▸ hh')
      rw [hfree, bufOf, find_filter_other hne]
      exact hb h' (List.mem_cons_of_mem _ hh')
    obtain ⟨used', owner', hfold⟩ := ih (s := freeBufHandle s h) (by rw [hfree]; exact hm) hrest hleft
    refine ⟨used', owner', ?_⟩
    rw [List.foldl_cons, returnBuf_held hm (hb h List.mem_cons_self), hfold, hfree, bufsWithout_cons]

/-- The chunks of a name are given up, each buffer of theirs being held and theirs once: buffers, entries and grants go, and nothing else. -/
theorem dropChunk_held {c q k : Nat} (hm : s.comb.metaErrs = []) (hn : (buffersOf s c q k).Nodup)
    (hb : ∀ h ∈ buffersOf s c q k, (bufOf s h).isSome = true) : ∃ used owner, dropChunk s c q k = dropEntries { s with comb := { s.comb with
      bufs := bufsWithout (buffersOf s c q k) s.comb.bufs, used := used, lastOwner := owner } } c q k := by
  obtain ⟨used, owner, hall⟩ := foldl_returnBuf_held hm hn hb
  obtain ⟨_, _, hown⟩ := foldl_returnBuf_held hm (List.nodup_append.1 hn).1 fun h hh => hb h (List.mem_append_left _ hh)
  exact ⟨used, owner, by rw [← hall]; exact dropChunk_eq (by rw [hown])⟩

/-- With no leaf in the comb there is none to leave it. -/
theorem settleFree_no_leaves (hl : s.su.leaves = []) : settleFree s = s := by
  have hsettled : settleLeaves s = { s with su := { s.su with leaves := [] } } := by simp [settleLeaves, hl, sortLeaves]
  rw [settleFree, hsettled, ← hl]
  exact checkFree_of_log_eq rfl

theorem dropPieces_no_leaves (hl : s.su.leaves = []) (c q k : Nat) :
    ∃ queue, dropPieces s c q k = { s with su := { s.su with queue := queue } } := ⟨_, settleFree_no_leaves hl⟩

end free

section fail
variable (s : State)

/-- No chunk of the name is left. -/
theorem chunkNamed_of_mem_dropChunk {c q k : Nat} {x : Chunk} (h : x ∈ (dropChunk s c q k).su.chunks) : chunkNamed c q k x = false := by
  have hkept : (!chunkNamed c q k x) = true := (List.mem_filter.1 h).2
  simpa using hkept

theorem foldl_dropChunk_lesser (cs : List Chunk) : Lesser s.su (cs.foldl (fun t c => dropChunk t c.ctx c.seq c.chunk) s).su :=
  Lesser.foldl (f := fun t (c : Chunk) => dropChunk t c.ctx c.seq c.chunk) (fun t c => dropChunk_lesser t c.ctx c.seq c.chunk) cs s

/-- The chunks of a list are given up one after the other, each with its name. -/
theorem not_mem_foldl_dropChunk {cs : List Chunk} {x : Chunk} (h : x ∈ cs) :
    x ∉ (cs.foldl (fun t c => dropChunk t c.ctx c.seq c.chunk) s).su.chunks := by
  induction cs generalizing s with
  | nil => exact absurd h List.not_mem_nil
  | cons c cs ih =>
    rw [List.foldl_cons]
    rcases List.mem_cons.1 h with rfl | h
    · intro hleft
      have hrest := foldl_dropChunk_lesser (dropChunk s x.ctx x.seq x.chunk) cs
      have hnamed := chunkNamed_of_mem_dropChunk s (hrest.chunks hleft)
      simp [chunkNamed] at hnamed
    · exact ih _ h

theorem lesser_of_settled {s t : State} (h : settleFree s = t) : Lesser s.su t.su := h ▸ settleFree_lesser s

/-- A unit that fails has neither chunks nor waiting pieces any more; contexts and programs stand (R192, R195). -/
theorem unitFails_su {u : Nat} (hfailed : u ∉ s.su.failed) (hretired : u ∉ s.su.retired) :
    u ∈ (unitFails s u).su.failed ∧ (∀ c ∈ (unitFails s u).su.chunks, c.unit ≠ u) ∧ (∀ e ∈ (unitFails s u).su.queue, e.1 ≠ u) ∧
      (unitFails s u).su.ctxs = s.su.ctxs ∧ (unitFails s u).su.programs = s.su.programs := by
  generalize ht : unitFails s u = t
  unfold unitFails at ht
  rw [if_neg (by simp [hfailed, hretired])] at ht
  extract_lets mine s0 _ s1 cs s2 gone at ht
  have h0 : Lesser s.su s0.su := dropUnitQueue_lesser (countN s .streamUnitDown u mine.length) u
  have h1 : Lesser { s0.su with queue := s0.su.queue.filter fun e => e.1 != u } s1.su :=
    raisePoison_lesser { s0 with su := { s0.su with queue := s0.su.queue.filter fun e => e.1 != u } } .unitFail
  have h2 : Lesser s1.su s2.su := foldl_dropChunk_lesser s1 cs
  have h3 := lesser_of_settled ht
  refine ⟨h3.failed ▸ List.mem_append_right _ List.mem_cons_self, fun c hc hunit => ?_, fun e he => ?_, ?_, ?_⟩
  · have hleft : c ∈ s2.su.chunks := h3.chunks hc
    exact not_mem_foldl_dropChunk s1 (List.mem_filter.2 ⟨h2.chunks hleft, by simpa using hunit⟩) hleft
  · have hkept := (List.mem_filter.1 (h1.queue (h2.queue (h3.queue he)))).2
    simpa using hkept
  · exact h3.ctxs.trans (h2.ctxs.trans (h1.ctxs.trans h0.ctxs))
  · exact h3.programs.trans (h2.programs.trans (h1.programs.trans h0.programs))

end fail
end Sys2Proof.Machine
end

section
/-! SUPPORT. What a stream unit does with its oldest piece (06 R170, R180 to R184, R194): one lemma for each answer of STREAM, of a chunk to a
piece that reaches it, and of a unit to a piece that it accepts. -/

set_option Elab.async false

namespace Sys2Proof.Machine

theorem eraseFirst_eq_eraseP {α : Type} (p : α → Bool) (l : List α) : eraseFirst p l = l.eraseP p := by
  induction l with
  | nil => rfl
  | cons x r ih => rw [eraseFirst, List.eraseP_cons, ih]; cases p x <;> rfl

/-- A piece comes off its unit's queue. -/
theorem unqueue_eq (s : State) (u : Nat) (f : Frame) :
    unqueue s u f = { s with su := { s.su with queue := s.su.queue.erase (u, f) } } := by
  have hpair : (fun e : Nat × Frame => e.1 == u && e.2 == f) = ((u, f) == ·) := by
    funext e
    rw [Bool.eq_iff_iff, Bool.and_eq_true, beq_iff_eq, beq_iff_eq, beq_iff_eq, Prod.ext_iff]
    exact and_congr eq_comm eq_comm
  rw [unqueue, hpair, eraseFirst_eq_eraseP, ← List.erase_eq_eraseP]

/-- A chunk has this piece of this source already. -/
def PieceRepeats (c : Chunk) (p : Piece) : Prop := ∃ g ∈ c.got.filter fun g => g.1 == p.src, g.2.1 = p.piece

/-- A piece follows its source's LAST. -/
def PiecePastLast (c : Chunk) (p : Piece) : Prop := ∃ g ∈ c.got.filter fun g => g.1 == p.src, g.2.2.1 = true ∧ g.2.1 < p.piece

/-- A LAST piece precedes another of its source. -/
def LastTooEarly (c : Chunk) (p : Piece) : Prop := p.last = true ∧ ∃ g ∈ c.got.filter fun g => g.1 == p.src, p.piece < g.2.1

section join
variable {s : State} {u : Nat} {x : Ctx} {c : Chunk} {f : Frame}

theorem any_repeats_iff {p : Piece} : ((c.got.filter fun g => g.1 == p.src).any fun g => g.2.1 == p.piece) = true ↔ PieceRepeats c p := by
  simp only [PieceRepeats, List.any_eq_true, beq_iff_eq]

theorem any_pastLast_iff {p : Piece} :
    ((c.got.filter fun g => g.1 == p.src).any fun g => g.2.2.1 && decide (g.2.1 < p.piece)) = true ↔ PiecePastLast c p := by
  simp only [PiecePastLast, List.any_eq_true, Bool.and_eq_true, decide_eq_true_eq]

theorem any_tooEarly_iff {p : Piece} :
    (p.last && (c.got.filter fun g => g.1 == p.src).any fun g => decide (p.piece < g.2.1)) = true ↔ LastTooEarly c p := by
  simp only [LastTooEarly, List.any_eq_true, Bool.and_eq_true, decide_eq_true_eq]

theorem joinPiece_repeats (hstep : (stepOf s x.pkey).isSome = true) (h : PieceRepeats c (pieceOf f)) :
    joinPiece s u x c f = raisePoison (unqueue s u f) .streamDup := by
  simp only [joinPiece, any_repeats_iff.2 h, hstep, if_true]

theorem joinPiece_excess (hstep : (stepOf s x.pkey).isSome = true) (hdup : ¬PieceRepeats c (pieceOf f))
    (h : PiecePastLast c (pieceOf f) ∨ LastTooEarly c (pieceOf f)) :
    joinPiece s u x c f = raisePoison (unqueue s u f) .streamExcess := by
  rw [← any_repeats_iff, Bool.not_eq_true] at hdup
  rw [← any_pastLast_iff, ← any_tooEarly_iff] at h
  unfold joinPiece
  rcases h with h | h
  · simp only [hdup, h, hstep, if_true, if_false, Bool.false_eq_true]
  · simp only [hdup, h, hstep, if_true, if_false, Bool.false_eq_true, Bool.and_true]
    split <;> rfl

/-- Nothing is wrong with where a piece stands among those of its source. -/
structure PieceFits (c : Chunk) (p : Piece) : Prop where
  new : ¬PieceRepeats c p
  notPast : ¬PiecePastLast c p
  notEarly : ¬LastTooEarly c p

theorem PieceFits.any_eq_false {p : Piece} (h : PieceFits c p) : let mine := c.got.filter fun g => g.1 == p.src
    (mine.any fun g => g.2.1 == p.piece) = false ∧ (mine.any fun g => g.2.2.1 && decide (g.2.1 < p.piece)) = false ∧
      (p.last && mine.any fun g => decide (p.piece < g.2.1)) = false :=
  ⟨Bool.eq_false_iff.2 (mt any_repeats_iff.1 h.new), Bool.eq_false_iff.2 (mt any_pastLast_iff.1 h.notPast),
    Bool.eq_false_iff.2 (mt any_tooEarly_iff.1 h.notEarly)⟩

theorem joinPiece_tail (h : PieceFits c (pieceOf f)) (hc : c.complete = true) : joinPiece s u x c f = count (unqueue s u f) .streamTail u := by
  obtain ⟨hdup, hpast, hearly⟩ := h.any_eq_false
  simp only [joinPiece, hdup, hpast, hearly, hc, Bool.false_and, Bool.false_eq_true, if_false, if_true]

/-- A chunk with a further piece (R170, R182). -/
def chunkWith (s : State) (x : Ctx) (c : Chunk) (p : Piece) : Chunk := { c with
  got := c.got ++ [(p.src, p.piece, p.last, p.nelem)]
  run := { c.run with stat := c.run.stat ||| BitVec.ofNat 8 p.stat }
  pieces := c.pieces ++ [p]
  held := if keepsTree s x then c.held ++ [(p.src, p.piece)] else c.held }

/-- The flags that a piece of a step brings join the step's (R187). -/
def noteStat (s : State) (inStep : Bool) (p : Piece) : State := { s with job := { s.job with
  streamFlags := if inStep then s.job.streamFlags ||| BitVec.ofNat 5 (p.stat % 32) else s.job.streamFlags } }

theorem noteStat_eq (s : State) (inStep : Bool) (p : Piece) : noteStat s inStep p =
    if inStep then { s with job := { s.job with streamFlags := s.job.streamFlags ||| BitVec.ofNat 5 (p.stat % 32) } } else s := by
  cases inStep <;> rfl

theorem joinPiece_feeds (h : PieceFits c (pieceOf f)) (hc : c.complete = false) : joinPiece s u x c f =
    feed (noteEndOfRun (noteStat (unqueue s u f) (stepOf s x.pkey).isSome (pieceOf f)) c.ctx (pieceOf f)) x (chunkWith s x c (pieceOf f)) := by
  obtain ⟨hdup, hpast, hearly⟩ := h.any_eq_false
  simp only [joinPiece, hdup, hpast, hearly, hc, Bool.false_and, Bool.false_eq_true, if_false, noteStat_eq, chunkWith]

end join

section accept
variable {s : State} {u : Nat} {x : Ctx} {c : Chunk} {f : Frame}

theorem acceptPiece_noSpace (hc : s.su.chunks.find? (isChunk (spCtx f) (spSeq f) (spChunk f) u) = none)
    (hroom : roomFor s u (spCtx f) (spSeq f) x (ctxPages s (spCtx f) x) = none) :
    acceptPiece s u x f = count (dequeue s u f) .streamNoSpace u := by
  simp only [acceptPiece, hc, hroom]

theorem acceptPiece_givesUp {s1 : State} (hc : s.su.chunks.find? (isChunk (spCtx f) (spSeq f) (spChunk f) u) = some c)
    (herr : unitErrors s u (fun m => m == .entry (spCtx f) (spSeq f) (spChunk f)) = (s1, true)) :
    acceptPiece s u x f = dequeue (giveUp s1 c) u f := by
  simp only [acceptPiece, hc, herr, if_true]

/-- A chunk that needs no buffer, or has it, goes on at once. -/
theorem withBuffer_ready {need : Bool} (h : need = false ∨ c.complete = true ∨ c.bufs ≠ []) : withBuffer s u c need = (c, s, true) := by
  have hready : (!need || c.complete || !c.bufs.isEmpty) = true := by
    rcases h with h | h | h <;> simp [h]
  simp only [withBuffer, hready, if_true]

theorem acceptPiece_joins (hc : s.su.chunks.find? (isChunk (spCtx f) (spSeq f) (spChunk f) u) = some c)
    (herr : unitErrors s u (fun m => m == .entry (spCtx f) (spSeq f) (spChunk f)) = (s, false))
    (hbuf : usesRes (progOf s (cxtProg x)) = false ∨ c.complete = true ∨ c.bufs ≠ []) :
    acceptPiece s u x f = takePiece s u x c f := by
  simp only [acceptPiece, hc, herr, withBuffer_ready hbuf, if_true, if_false, Bool.false_eq_true]

/-- The entry that a piece opens at a unit (R163, R182). -/
def openedChunk (s : State) (u : Nat) (x : Ctx) (f : Frame) (early : Bool) : Chunk := {
  ctx := spCtx f, seq := spSeq f, chunk := spChunk f, unit := u, pages := ctxPages s (spCtx f) x, early := early, startT := logicNs s
  stepSeq := (stepOf s x.pkey).map (·.seq) }

/-- The unit with a new entry, whose words it writes anew (R194). -/
def withChunk (s : State) (c : Chunk) : State := { s with su := { s.su with
  chunks := s.su.chunks ++ [c]
  errs := s.su.errs.filter fun e => !(e.1 == c.unit && ofChunk c e.2.1) } }

theorem acceptPiece_opens {early : Bool} (hc : s.su.chunks.find? (isChunk (spCtx f) (spSeq f) (spChunk f) u) = none)
    (hroom : roomFor s u (spCtx f) (spSeq f) x (ctxPages s (spCtx f) x) = some early) (hbuf : usesRes (progOf s (cxtProg x)) = false) :
    acceptPiece s u x f = takePiece (withChunk s (openedChunk s u x f early)) u x (openedChunk s u x f early) f := by
  simp only [acceptPiece, hc, hroom, withBuffer_ready (Or.inl hbuf), if_true]
  rfl

end accept

section head
variable {s : State} {u : Nat} {f : Frame}

/-- A unit works: the module's units run, and it has neither failed nor been retired. -/
def unitWorks (s : State) (u : Nat) : Prop := unitsRun s = true ∧ u ∉ s.su.failed ∧ u ∉ s.su.retired

theorem stopped_of_unitWorks (h : unitWorks s u) : (!unitsRun s || s.su.failed.contains u || s.su.retired.contains u) = false := by
  obtain ⟨hrun, hfailed, hretired⟩ := h
  simp [hrun, hfailed, hretired]

variable (hw : unitWorks s u) (hh : headPiece s u = some f)
include hw hh

theorem stream_runt (h : f.payload.length < 16) : stream u s = count (dequeue s u f) .streamRunt u := by
  simp only [stream, stopped_of_unitWorks hw, hh, h, if_true, if_false, Bool.false_eq_true]

theorem stream_noContext (h : 16 ≤ f.payload.length) (hx : ctxOf s (spCtx f) = none) :
    stream u s = count (dequeue s u f) .streamNoContext u := by
  simp only [stream, stopped_of_unitWorks hw, hh, Nat.not_lt.2 h, hx, if_false, Bool.false_eq_true]

variable {x : Ctx} (h : 16 ≤ f.payload.length) (hx : ctxOf s (spCtx f) = some x)
include h hx

theorem stream_inStep {st : Step} (hst : stepOf s x.pkey = some st) : stream u s =
    if st.committing then s
    else if attemptGone s x.pkey then dequeue s u f
    else if frmStep f != st.seq % 65536 then count (dequeue s u f) .streamStale u
    else acceptPiece s u x f := by
  simp only [stream, stopped_of_unitWorks hw, hh, Nat.not_lt.2 h, hx, hst, if_false, Bool.false_eq_true]

theorem stream_noStep (hst : stepOf s x.pkey = none) : stream u s =
    if frmStep f != 0 then count (dequeue s u f) .streamStale u else acceptPiece s u x f := by
  simp only [stream, stopped_of_unitWorks hw, hh, Nat.not_lt.2 h, hx, hst, if_false, Bool.false_eq_true]

end head

/-- A piece belongs to what its context's key does now: to the attempt in progress of its step, or to no step. -/
def PieceCurrent (s : State) (x : Ctx) (f : Frame) (inStep : Bool) : Prop :=
  if inStep then ∃ st, stepOf s x.pkey = some st ∧ st.committing = false ∧ attemptGone s x.pkey = false ∧ frmStep f = st.seq % 65536
  else stepOf s x.pkey = none ∧ frmStep f = 0

theorem PieceCurrent.isSome {s : State} {x : Ctx} {f : Frame} {inStep : Bool} (h : PieceCurrent s x f inStep) :
    (stepOf s x.pkey).isSome = inStep := by
  cases inStep with
  | false => obtain ⟨hst, -⟩ := h; simp [hst]
  | true => obtain ⟨st, hst, -⟩ := h; simp [hst]

theorem stream_accepts {s : State} {u : Nat} {x : Ctx} {f : Frame} {inStep : Bool} (hw : unitWorks s u) (hh : headPiece s u = some f)
    (h : 16 ≤ f.payload.length) (hx : ctxOf s (spCtx f) = some x) (hc : PieceCurrent s x f inStep) : stream u s = acceptPiece s u x f := by
  cases inStep with
  | false =>
    obtain ⟨hst, hfrm⟩ := hc
    rw [stream_noStep hw hh h hx hst]; simp [hfrm]
  | true =>
    obtain ⟨st, hst, hcommit, hgone, hfrm⟩ := hc
    rw [stream_inStep hw hh h hx hst]; simp [hcommit, hgone, hfrm]

section opened
variable {s : State} {u : Nat} {x : Ctx} {f : Frame}

/-- Nothing is wrong with the first piece of a chunk. -/
theorem pieceFits_of_got_nil {c : Chunk} {p : Piece} (h : c.got = []) : PieceFits c p := by
  constructor <;> simp [PieceRepeats, PiecePastLast, LastTooEarly, h]

/-- Outside a launch a piece that fits only joins its chunk. -/
theorem joinPiece_noLaunch {c : Chunk} (hlaunch : s.job.launch = none) (hst : stepOf s x.pkey = none) (h : PieceFits c (pieceOf f))
    (hc : c.complete = false) : joinPiece s u x c f = feed (unqueue s u f) x (chunkWith s x c (pieceOf f)) := by
  have hrun : (unqueue s u f).job.launch = none := hlaunch
  rw [joinPiece_feeds h hc, hst]
  simp only [Option.isSome_none, noteStat_eq, Bool.false_eq_true, if_false, noteEndOfRun, hrun]

theorem keepsTree_withChunk (c : Chunk) : keepsTree (withChunk s c) x = keepsTree s x := rfl

/-- An opened chunk with its first piece, outside a step. -/
theorem chunkWith_opened {early : Bool} (c : Chunk) (p : Piece) (hst : stepOf s x.pkey = none) :
    chunkWith (withChunk s c) x (openedChunk s u x f early) p = {
      ctx := spCtx f, seq := spSeq f, chunk := spChunk f, unit := u, pages := ctxPages s (spCtx f) x, early := early, startT := logicNs s
      stepSeq := none, got := [(p.src, p.piece, p.last, p.nelem)], pieces := [p], run := { stat := BitVec.ofNat 8 p.stat }
      held := if keepsTree s x then [(p.src, p.piece)] else [] } := by
  simp [chunkWith, openedChunk, hst, keepsTree_withChunk]

end opened

end Sys2Proof.Machine
end

section
/-! SUPPORT. The stream units in time (06 R186, R192, R193, R195): a chunk that is late, a unit's patrol, and its retirement. -/

set_option Elab.async false

namespace Sys2Proof.Machine

section late
variable {s : State} {c q k : Nat} {x : Ctx} {ch : Chunk}

/-- The state in which a late chunk has been given up: its buffers, its pieces and its wait for a buffer are gone. -/
def gaveUp (s : State) (c q k : Nat) : State :=
  let t := dropPieces (dropChunk s c q k) c q k
  { t with comb := { t.comb with waiters := t.comb.waiters.filter fun w => w.what != .buffer c q k } }

variable (hx : ctxOf s c = some x) (hc : s.su.chunks.find? (fun e => chunkNamed c q k e && !e.complete) = some ch)
include hx hc

theorem streamTimeout_early (h : logicNs s < ch.startT + cxtTimeout x) : streamTimeout c q k s = s := by
  simp only [chunkNamed] at hc
  simp only [streamTimeout, hx, hc, h, decide_true, Bool.or_true, if_true]

theorem streamTimeout_late (hrun : unitsRun s = true) (h : ch.startT + cxtTimeout x ≤ logicNs s) : streamTimeout c q k s =
    if (stepOf s x.pkey).isSome then raisePoison (gaveUp s c q k) .streamTimeout else count (gaveUp s c q k) .streamTimeout ch.unit := by
  simp only [chunkNamed] at hc
  simp only [streamTimeout, hx, hc, hrun, Nat.not_lt.2 h, decide_false, Bool.not_true, Bool.or_false, Bool.false_eq_true, if_false, gaveUp]

end late

/-- What a late chunk that is given up takes with it, each of its buffers being held and its own once. -/
theorem gaveUp_held {s : State} {c q k : Nat} (hm : s.comb.metaErrs = []) (hl : s.su.leaves = []) (hn : (buffersOf s c q k).Nodup)
    (hb : ∀ h ∈ buffersOf s c q k, (bufOf s h).isSome = true) : ∃ comb su, gaveUp s c q k = { s with comb := comb, su := su } ∧
      (∀ h ∈ buffersOf s c q k, bufOf { s with comb := comb, su := su } h = none) ∧
      su.chunks = s.su.chunks.filter (fun e => !chunkNamed c q k e) ∧ su.ctxs = s.su.ctxs := by
  obtain ⟨used, owner, hdrop⟩ := dropChunk_held hm hn hb
  obtain ⟨queue, hpieces⟩ := dropPieces_no_leaves (s := dropChunk s c q k) (by rw [hdrop]; exact hl) c q k
  unfold gaveUp
  rw [hpieces, hdrop]
  exact ⟨_, _, rfl, fun h hh => find_bufsWithout_of_mem hh s.comb.bufs, rfl, rfl⟩

section patrol
variable {s : State} {u : Nat}

theorem streamUnitPatrol_idle (h : passesOf s (u * 15625) ≤ tblGet 0 s.su.lastPatrol u ∨ u ∈ s.su.failed ∨ u ∈ s.su.retired) (bad : Bool) :
    streamUnitPatrol u bad s = s := by
  refine if_pos ?_
  rcases h with h | h | h <;> simp [h]

/-- The patrol of a unit is noted (R193). -/
def patrolled (s : State) (u : Nat) : State :=
  { s with su := { s.su with lastPatrol := tblSet 0 s.su.lastPatrol u (passesOf s (u * 15625)) } }

theorem streamUnitPatrol_due (hw : unitWorks s u) (h : tblGet 0 s.su.lastPatrol u < passesOf s (u * 15625)) (bad : Bool) :
    streamUnitPatrol u bad s = if bad then unitFails (patrolled s u) u else patrolled s u := by
  refine if_neg ?_
  rw [stopped_of_unitWorks hw]
  simp [h]

end patrol

theorem streamUnitRetire_not_failed {s : State} {u : Nat} (h : u ∉ s.su.failed) : streamUnitRetire u s = s := by
  simp [streamUnitRetire, when, h]

theorem streamUnitRetire_failed {s : State} {u : Nat} (hrun : clocksRun s = true) (h : u ∈ s.su.failed) :
    streamUnitRetire u s = recomputeHealth
      { (if u ∈ s.su.map then renumberQueues s (logicalUnit s u) else s) with su := { s.su with
        failed := s.su.failed.filter (· != u), retired := s.su.retired ++ [u], map := s.su.map.filter (· != u) } } := by
  unfold streamUnitRetire
  by_cases hmap : u ∈ s.su.map <;> simp [when, hrun, h, hmap, renumberQueues]

theorem shiftOut_eq (l o : Nat) : shiftOut l o = if o ≤ 81 + l then o else o - 1 := by
  unfold shiftOut
  split <;> split <;> omega

end Sys2Proof.Machine

open Sys2Proof Sys2Proof.Machine

/-- Settles O52: each answer of STREAM to the oldest piece, then the late chunk, the patrol and the retirement. -/
theorem streamUnits : Obligations.StreamUnits := by
  unfold Obligations.StreamUnits
  refine ⟨?_, ⟨?_, ?_, ?_⟩, shiftOut_eq⟩
  · intro s u f hrun hfailed hretired hhead run t
    have hw : unitWorks s u.val := ⟨hrun, hfailed, hretired⟩
    have htaken : unqueue s u.val f = t := unqueue_eq s u.val f
    have hexec : ∀ {v}, stream u.val s = v → run = .next v := congrArg Host.Outcome.next
    have hdropped : dequeue s u.val f = settleFree t := congrArg settleFree htaken
    refine ⟨fun h => hexec (hdropped ▸ stream_runt hw hhead h), fun h hx => hexec (hdropped ▸ stream_noContext hw hhead h hx),
      fun x h hx => ?_⟩
    intro p named need own
    refine ⟨fun st hst hcommit => hexec ?_, fun st hst hcommit hgone => hexec ?_, fun st hst hcommit hgone hstale => hexec ?_,
      fun hst hstale => hexec ?_, fun inStep hcur => ⟨fun hc hroom => hexec ?_, fun c s1 hc herr => hexec ?_, fun c hc herr hbuf => ?_⟩,
      fun early hneed hst hfrm hc hlaunch hroom => ?_⟩
    · rw [stream_inStep hw hhead h hx hst, if_pos hcommit]
    · rw [stream_inStep hw hhead h hx hst, hcommit, hgone, ← hdropped]; rfl
    · rw [stream_inStep hw hhead h hx hst, hcommit, hgone, ← hdropped]; simp [hstale]
    · rw [stream_noStep hw hhead h hx hst, ← hdropped]; simp [hstale]
    · rw [stream_accepts hw hhead h hx hcur, acceptPiece_noSpace hc hroom, hdropped]
    · rw [stream_accepts hw hhead h hx hcur, acceptPiece_givesUp hc herr]; rfl
    · have hstep : (stepOf s x.pkey).isSome = inStep := PieceCurrent.isSome hcur
      have hjoin : stream u.val s = settleFree (joinPiece s u.val x c f) :=
        (stream_accepts hw hhead h hx hcur).trans (acceptPiece_joins hc herr hbuf)
      intro mine dup past early
      refine ⟨fun hin hdup => hexec ?_, fun hin hdup hexcess => hexec ?_, fun hdup hpast hearly => ?_⟩
      · rw [hjoin, joinPiece_repeats (hstep.trans hin) hdup, htaken]
      · rw [hjoin, joinPiece_excess (hstep.trans hin) hdup hexcess, htaken]
      · have hfits : PieceFits c (pieceOf f) := ⟨hdup, hpast, hearly⟩
        refine ⟨fun hdone => hexec ?_, fun hopen => hexec ?_⟩
        · rw [hjoin, joinPiece_tail hfits hdone, htaken]
        · rw [hjoin, joinPiece_feeds hfits hopen, htaken, hstep]; rfl
    · have hopens : stream u.val s = settleFree (joinPiece (withChunk s (openedChunk s u.val x f early)) u.val x
          (openedChunk s u.val x f early) f) :=
        (stream_accepts hw hhead h hx (inStep := false) ⟨hst, hfrm⟩).trans (acceptPiece_opens hc hroom hneed)
      have hjoin := joinPiece_noLaunch (s := withChunk s (openedChunk s u.val x f early)) (u := u.val) (f := f) hlaunch hst
        (pieceFits_of_got_nil (c := openedChunk s u.val x f early) rfl) rfl
      refine hexec ?_
      rw [hopens, hjoin, unqueue_eq, chunkWith_opened _ _ hst, openedChunk, hst]
      rfl
  · intro s c q k x ch mine hx hc hrun
    refine ⟨fun h => congrArg Host.Outcome.next (streamTimeout_early hx hc h), fun _ => ⟨_, rfl⟩, fun h hm hl hn hb => ?_⟩
    obtain ⟨comb, su, hgave, hfreed, hchunks, hctxs⟩ := gaveUp_held hm hl hn hb
    have hlate := streamTimeout_late hx hc hrun h
    rw [hgave] at hlate
    refine ⟨{ s with comb := comb, su := su }, hfreed, fun e he => ?_, fun e he hother => ?_, rfl, rfl, rfl, rfl, hctxs,
      fun hst => congrArg Host.Outcome.next ?_, fun hst => congrArg Host.Outcome.next ?_⟩
    · rw [hchunks, List.mem_filter, Bool.not_eq_true'] at he
      exact he.2
    · rw [hchunks, List.mem_filter, Bool.not_eq_true']
      exact ⟨he, hother⟩
    · rw [hlate, hst]; rfl
    · rw [hlate, if_pos hst]
  · intro s u n last
    refine ⟨fun h bad => congrArg Host.Outcome.next (streamUnitPatrol_idle h bad), fun hrun hdue hfailed hretired => ?_⟩
    have hw : unitWorks s u.val := ⟨hrun, hfailed, hretired⟩
    exact ⟨congrArg Host.Outcome.next (streamUnitPatrol_due hw hdue false), unitFails (patrolled s u.val) u.val,
      congrArg Host.Outcome.next (streamUnitPatrol_due hw hdue true), unitFails_su (patrolled s u.val) hfailed hretired⟩
  · intro s u
    exact ⟨fun h => congrArg Host.Outcome.next (streamUnitRetire_not_failed h),
      fun hrun h => congrArg Host.Outcome.next (streamUnitRetire_failed hrun h)⟩
end

section
/-! SUPPORT. The key maps (07 R228; 08 R238): what a map reads after SET_KEYMAP has written one, and what the command leaves. -/

namespace Sys2Proof

/-- A key that only the first of two joined tables lists. -/
theorem tblGet_append_left {α} {d : α} {a b : Tbl α} {k : Nat} (h : ∀ e ∈ b, e.1 ≠ k) : tblGet d (a ++ b) k = tblGet d a k := by
  rw [tblGet_append]
  split
  · rfl
  · rename_i ha
    simp only [List.any_eq_true, beq_iff_eq, not_exists, not_and] at ha
    rw [tblGet_nomem d b k h, tblGet_nomem d a k ha]

/-- A key that only the second of two joined tables lists. -/
theorem tblGet_append_right {α} {d : α} {a b : Tbl α} {k : Nat} (h : ∀ e ∈ a, e.1 ≠ k) : tblGet d (a ++ b) k = tblGet d b k := by
  rw [tblGet_append, if_neg]
  simpa only [List.any_eq_true, beq_iff_eq, not_exists, not_and] using h

end Sys2Proof

namespace Sys2Proof.Machine

/-- The set bits of one map, as `putKeymap` lists them. -/
def mapBits (c : Nat → Bool) (b n : Nat) : Tbl Bool :=
  (List.range n).filterMap fun k => if c k then some (b + k, true) else none

theorem mapBits_succ (c : Nat → Bool) (b n : Nat) : mapBits c b (n + 1) = mapBits c b n ++ if c n then [(b + n, true)] else [] := by
  unfold mapBits
  cases h : c n <;> simp [List.range_succ, h]

theorem bounds_of_mem_mapBits {c : Nat → Bool} {b n : Nat} {e : Nat × Bool} (h : e ∈ mapBits c b n) : b ≤ e.1 ∧ e.1 < b + n := by
  simp only [mapBits, List.mem_filterMap, List.mem_range] at h
  obtain ⟨k, hk, he⟩ := h
  split at he
  · cases he
    exact ⟨Nat.le_add_right b k, Nat.add_lt_add_left hk b⟩
  · cases he

theorem tblGet_mapBits (c : Nat → Bool) (b : Nat) {n k : Nat} (h : k < n) : tblGet false (mapBits c b n) (b + k) = c k := by
  induction n with
  | zero => exact absurd h (Nat.not_lt_zero k)
  | succ n ih =>
    rw [mapBits_succ]
    rcases Nat.lt_succ_iff_lt_or_eq.1 h with hk | rfl
    · rw [tblGet_append_left, ih hk]
      intro e he
      split at he
      · rw [List.mem_singleton.1 he]
        exact fun h => absurd (Nat.add_left_cancel h) (Nat.ne_of_gt hk)
      · cases he
    · rw [tblGet_append_right fun e he => Nat.ne_of_lt (bounds_of_mem_mapBits he).2]
      cases c k <;> simp [tblGet]

theorem putKeymap_eq (t : Tbl Bool) (p : Nat) (ws : List Word) : putKeymap t p ws =
    (t.filter fun e => e.1 / 4096 != p).filter (fun e => decide (e.1 / 4096 < p)) ++
      mapBits (fun k => k != 0 && flag (arg ws (k / 64)) (k % 64)) (p * 4096) 4096 ++
      (t.filter fun e => e.1 / 4096 != p).filter fun e => decide (p < e.1 / 4096) := rfl

/-- Key k of port q's map after the write of port p's. -/
theorem tblGet_putKeymap (t : Tbl Bool) (p : Nat) (ws : List Word) (q : Nat) {k : Nat} (hk : k < 4096) :
    tblGet false (putKeymap t p ws) (q * 4096 + k) =
      if q = p then k != 0 && flag (arg ws (k / 64)) (k % 64) else tblGet false t (q * 4096 + k) := by
  have hdiv : (q * 4096 + k) / 4096 = q := by omega
  have hcut : q ≠ p → tblGet false (t.filter fun e => e.1 / 4096 != p) (q * 4096 + k) = tblGet false t (q * 4096 + k) :=
    fun h => tblGet_filter false t _ (fun x => x / 4096 != p) (by simpa [hdiv] using h)
  have hlow : p ≤ q → ∀ e ∈ (t.filter fun e => e.1 / 4096 != p).filter (fun e => decide (e.1 / 4096 < p)), e.1 ≠ q * 4096 + k := by
    intro h e he hek
    have := (List.mem_filter.1 he).2
    rw [hek, hdiv, decide_eq_true_eq] at this
    omega
  have hhigh : q ≤ p → ∀ e ∈ (t.filter fun e => e.1 / 4096 != p).filter (fun e => decide (p < e.1 / 4096)), e.1 ≠ q * 4096 + k := by
    intro h e he hek
    have := (List.mem_filter.1 he).2
    rw [hek, hdiv, decide_eq_true_eq] at this
    omega
  have hmine : q ≠ p → ∀ c, ∀ e ∈ mapBits c (p * 4096) 4096, e.1 ≠ q * 4096 + k := by
    intro h c e he
    have := bounds_of_mem_mapBits he
    omega
  rw [putKeymap_eq]
  rcases Nat.lt_trichotomy q p with h | rfl | h
  · rw [tblGet_append_left (hhigh (by omega)), tblGet_append_left (hmine (by omega) _),
      tblGet_filter false _ _ (fun x => decide (x / 4096 < p)) (by simpa [hdiv] using h), hcut (by omega), if_neg (by omega)]
  · rw [tblGet_append_left (hhigh (by omega)), tblGet_append_right (hlow (by omega)), tblGet_mapBits _ _ hk, if_pos rfl]
  · rw [List.append_assoc, tblGet_append_right (hlow (by omega)), tblGet_append_right (hmine (by omega) _),
      tblGet_filter false _ _ (fun x => decide (p < x / 4096)) (by simpa [hdiv] using h), hcut (by omega), if_neg (by omega)]

/-- A word within a run of a request's arguments. -/
theorem arg_rws (r : Req) (b : Nat) {n i : Nat} (h : i < n) : arg (rws r b n) i = rw r (b + i) := by
  simp [arg, rws, h]

theorem or_tblGet_putKeymap (t : Tbl Bool) (p : Nat) (r : Req) (q : Nat) {k : Nat} (hk : k < 4096) :
    (k == 0 || tblGet false (putKeymap t p (rws r 2 64)) (q * 4096 + k)) =
      if q = p then k == 0 || flag (rw r (2 + k / 64)) (k % 64) else k == 0 || tblGet false t (q * 4096 + k) := by
  rw [tblGet_putKeymap t p _ q hk, arg_rws r 2 (show k / 64 < 64 by omega)]
  split
  · cases h0 : k == 0 <;> simp [bne, h0]
  · rfl

/-- The sets that SET_KEYMAP leaves for the sideband of port p (10 Table 10.7; 13 R389). -/
def fenceSets (s : State) (p : Nat) (on : Bool) : List OutEvent :=
  if (on || fenceBit s p) && decide (p < 64) && (portOf s p).sb then List.replicate 3 (.ordered p codeFence (fencePayload s on)) else []

theorem fencePayload_eq (s : State) (on : Bool) : fencePayload s on = BitVec.ofNat 40 (s.dev.epoch.toNat + if on then 2 ^ 32 else 0) := by
  have he : s.dev.epoch.toNat % 2 ^ 32 = s.dev.epoch.toNat := Nat.mod_eq_of_lt s.dev.epoch.isLt
  cases on <;> simp only [fencePayload, pack, he] <;> rfl

/-- SET_KEYMAP changes one map, its port's FENCE and what waits for the sideband. -/
theorem setKeymap_eq (s : State) (r : Req) : setKeymap s r = { s with
    sbq := s.sbq ++ fenceSets s (rn r 0) (rn r 66 == 1)
    fab := { s.fab with
      keyIn := if rn r 1 = 1 then s.fab.keyIn else putKeymap s.fab.keyIn (rn r 0) (rws r 2 64)
      keyOut := if rn r 1 = 1 then putKeymap s.fab.keyOut (rn r 0) (rws r 2 64) else s.fab.keyOut
      fence := tblSet false s.fab.fence (rn r 0) (rn r 66 == 1) } } := by
  unfold setKeymap fenceSets
  simp only [sendSet_eq]
  by_cases h : rn r 1 = 1 <;> simp only [h, beq_iff_eq, if_true, if_false] <;> split <;> simp

end Sys2Proof.Machine

open Sys2Proof Sys2Proof.Machine

/-- Settles O12: SET_KEYMAP rewrites one port's part of one map, and bit 0 reads 1 whatever that part holds. -/
theorem keyMaps : Obligations.KeyMaps := by
  intro src s r ha p on
  have hmap : rn r 1 ≤ 1 := wordsForm_none (orForm_none.1 (accepted_form ha)).1 1 (by decide)
  refine ⟨_, congrArg Host.Outcome.next (runCmd_done ha (congrArg (done ·) (setKeymap_eq (takeReq s r) r))), fun q k hk => ?_, fun q k hk => ?_,
    fun q hq => tblGet_set_other false s.fab.fence p q on hq, rfl, ?_, rfl⟩
  · have hin := or_tblGet_putKeymap s.fab.keyIn p r q hk
    by_cases h : rn r 1 = 1
    · simp [keyInBit, h]
    · simpa [keyInBit, h, show rn r 1 = 0 by omega] using hin
  · have hout := or_tblGet_putKeymap s.fab.keyOut p r q hk
    by_cases h : rn r 1 = 1
    · simpa [keyOutBit, h] using hout
    · simp [keyOutBit, h]
  · exact congrArg (s.sbq ++ ·) (by rw [← fencePayload_eq]; rfl)

end

section
/-! SUPPORT. Settings of the switch core (07 R203, R210, R212, R226, R231, R234; 08 R246, R261; 12 R360): what the fields of the requests hold,
and the bytes of words that were read off bytes. -/

namespace Sys2Proof

/-- A number read off at most n bytes gives them back, with zeros behind them. -/
theorem bytesOfNat_natOfBytes (bs : List Byte) {n : Nat} (h : bs.length ≤ n) :
    bytesOfNat (natOfBytes bs) n = bs ++ List.replicate (n - bs.length) 0#8 := by
  induction bs generalizing n with
  | nil =>
    induction n with
    | zero => rfl
    | succ n ih =>
      have hzero : natOfBytes [] / 256 = natOfBytes [] := rfl
      rw [bytesOfNat, hzero, ih (Nat.zero_le n)]
      rfl
  | cons b bs ih =>
    obtain ⟨m, rfl⟩ : ∃ m, n = m + 1 := ⟨n - 1, by simp at h; omega⟩
    have hb := b.isLt
    have hhead : BitVec.ofNat 8 (natOfBytes (b :: bs)) = b := by
      apply BitVec.eq_of_toNat_eq
      simp only [natOfBytes, BitVec.toNat_ofNat]
      omega
    have htail : natOfBytes (b :: bs) / 256 = natOfBytes bs := by
      simp only [natOfBytes]
      omega
    rw [bytesOfNat, hhead, htail, ih (by simpa using h)]
    simp

@[simp] theorem length_wordsOfBytes (bs : List Byte) (n : Nat) : (wordsOfBytes bs n).length = n := by
  induction n generalizing bs with
  | zero => rfl
  | succ n ih => simp [wordsOfBytes, ih]

theorem natOfBytes_lt (bs : List Byte) : natOfBytes bs < 2 ^ (8 * bs.length) := by
  induction bs with
  | nil => decide
  | cons b bs ih =>
    have hb := b.isLt
    have hpow : 2 ^ (8 * (b :: bs).length) = 256 * 2 ^ (8 * bs.length) := by
      rw [List.length_cons, Nat.mul_succ, Nat.pow_add, Nat.mul_comm]
    simp only [natOfBytes]
    omega

/-- Words read off bytes that they all hold give the bytes back, with zeros behind them (12 R360). -/
theorem bytesOfWords_wordsOfBytes (bs : List Byte) {n : Nat} (h : bs.length ≤ 8 * n) :
    bytesOfWords (wordsOfBytes bs n) = bs ++ List.replicate (8 * n - bs.length) 0#8 := by
  induction n generalizing bs with
  | zero =>
    obtain rfl : bs = [] := List.length_eq_zero_iff.1 (by omega)
    rfl
  | succ n ih =>
    have htake : (bs.take 8).length ≤ 8 := List.length_take_le 8 bs
    have hword : natOfBytes (bs.take 8) % 2 ^ 64 = natOfBytes (bs.take 8) :=
      Nat.mod_eq_of_lt (Nat.lt_of_lt_of_le (natOfBytes_lt _) (Nat.pow_le_pow_right (by decide) (by omega)))
    have hrest := ih (bs.drop 8) (by rw [List.length_drop]; omega)
    rw [bytesOfWords] at hrest ⊢
    rw [wordsOfBytes, List.flatMap_cons, BitVec.toNat_ofNat, hword, bytesOfNat_natOfBytes _ htake, hrest]
    rcases Nat.le_total 8 bs.length with h8 | h8
    · simp only [List.length_take, Nat.min_eq_left h8, Nat.sub_self, List.replicate_zero, List.append_nil, List.length_drop]
      rw [← List.append_assoc, List.take_append_drop]
      congr 2
      omega
    · rw [List.drop_eq_nil_of_le h8, List.take_of_length_le h8, List.append_assoc]
      simp only [List.length_nil, List.nil_append, List.replicate_append_replicate]
      congr 2
      omega

end Sys2Proof

namespace Sys2Proof.Machine

/-- SET_GUARD's new buckets (07 R226). -/
theorem guardBucket_eq (s : State) (k : Nat) (w : BitVec 192) :
    let old := tblGet 0 s.fab.guards k
    let b := refill old (tblGet {} s.fab.buckets k) (logicSc s)
    let full : Bucket := { committed := fld w 64 24 * 9600, peak := fld w 88 24 * 9600, at_ := logicSc s }
    guardBucket s k w = if flag w 44 = false then {} else if flag old 44 = false then full
      else { full with committed := min b.committed full.committed, peak := min b.peak full.peak } := by
  intro old b full
  simp only [guardBucket, Bool.not_eq_true']
  rfl

/-- The limits of SET_COMB, 20 bits each (07 Table 7.4). -/
theorem pack_limits {a b : Nat} (ha : a ≤ 0xFFFFF) (hb : b ≤ 0xFFFFF) : pack [(0, 20, a), (20, 20, b)] = a + b * 2 ^ 20 := by
  simp only [pack, Nat.shiftLeft_eq]
  omega

/-- The setting of SET_PORT: the MFP mask in bits 0 to 2, SPILL_TH from bit 8 on (08 R246, R269). -/
theorem pack_portSetting {a b : Nat} (ha : a ≤ 7) (hb : b ≤ 0xFFFFFF) : pack [(0, 3, a), (8, 24, b)] = a + b * 256 := by
  simp only [pack, Nat.shiftLeft_eq]
  omega

/-- SET_COMB's effect where its limits fit their fields; a POOL_WAIT or LIFETIME of 0 leaves the setting (assumption 55). -/
theorem setComb_eq (s : State) {r : Req} (h2 : rn r 2 ≤ 0xFFFFF) (h3 : rn r 3 ≤ 0xFFFFF) : 
    let limit := if defaultLimit (rn r 0) (rn r 1) = (rn r 2, rn r 3) then none else some (BitVec.ofNat 40 (rn r 2 + rn r 3 * 2 ^ 20))
    setComb s r = { s with
    comb := { s.comb with limits := tblSet none s.comb.limits (rn r 0 * 4 + rn r 1) limit }
    fab := { s.fab with
      poolWait := if rn r 4 = 0 then s.fab.poolWait else tblSet 20 s.fab.poolWait (rn r 1) (rn r 4)
      lifetime := if rn r 5 = 0 then s.fab.lifetime else rn r 5 } } := by
  simp only [setComb, pack_limits h2 h3, beq_iff_eq]

theorem setCombCmd_run (s : State) (r : Req) : setCombCmd.run s r =
    if reservedTotal (setComb s r) (rn r 1) ≤ poolCount (rn r 1) then done (setComb s r) else refused s .noResource := by
  simp only [setCombCmd, ← Nat.not_le, ite_not]

theorem setMirror_eq (s : State) (r : Req) : setMirror s r = { s with fab := { s.fab with
    mirror := tblSetAll 0 s.fab.mirror 0 (rws r 0 16)
    mirrorCnt := s.fab.mirrorCnt.filter fun e => flag (tblGet 0 s.fab.mirror e.1) 42 && flag (rw r e.1) 42
    ringBase := rw r 16, ringSize := rn r 17, ringMode := rn r 18 == 1, ringRptr := rn r 20
    ringWptr := if rn r 16 = s.fab.ringBase.toNat ∧ rn r 17 = s.fab.ringSize then s.fab.ringWptr else 0
    mirrorRun := if rn r 16 = s.fab.ringBase.toNat ∧ rn r 17 = s.fab.ringSize then s.fab.mirrorRun else [] } } := by
  simp only [setMirror, Bool.and_eq_true, beq_iff_eq]

end Sys2Proof.Machine

open Sys2Proof Sys2Proof.Machine

/-- Settles O13: each command's words are its fields, and READ_CONFIG's words spell its entries' bytes. -/
theorem switchSettings : Obligations.SwitchSettings := by
  refine ⟨fun src s r => ?_, fun src s r ha => ?_⟩
  · intro u
    refine ⟨fun ha => ?_, fun ha => ?_, fun ha => ?_, fun ha => ?_⟩
    · intro k w old b full b'
      have hbucket : guardBucket u k w = b' := guardBucket_eq u k w
      rw [← hbucket]
      exact congrArg Host.Outcome.next (runCmd_done ha rfl)
    · intro w limit t
      have hwords : ∀ i (hi : i < 6), rn r i ≤ [1001, 3, 0xFFFFF, 0xFFFFF, 1000, 20][i] := wordsForm_none (accepted_form ha)
      have ht : setComb u r = t := setComb_eq u (hwords 2 (by decide)) (hwords 3 (by decide))
      have hrun := setCombCmd_run u r
      rw [ht] at hrun
      refine congrArg Host.Outcome.next ?_
      by_cases hfit : reservedTotal t (rn r 1) ≤ poolCount (rn r 1)
      · rw [if_pos hfit] at hrun ⊢
        exact runCmd_done ha hrun
      · rw [if_neg hfit] at hrun ⊢
        exact runCmd_refused ha hrun
    · exact congrArg Host.Outcome.next (runCmd_done ha (congrArg (done ·) (setMirror_eq u r)))
    · have hwords : ∀ i (hi : i < 3), rn r i ≤ [80, 7, 0xFFFFFF][i] := wordsForm_none (accepted_form ha)
      rw [← pack_portSetting (hwords 1 (by decide)) (hwords 2 (by decide))]
      exact congrArg Host.Outcome.next (runCmd_done ha rfl)
  · refine ⟨_, congrArg Host.Outcome.next (runCmd_done ha rfl), ?_⟩
    intro bs
    have hbytes := bytesOfWords_wordsOfBytes bs (n := ceilDiv bs.length 8) (by simp only [ceilDiv]; omega)
    refine ⟨length_wordsOfBytes .., ?_, ?_⟩
    · exact (congrArg _ hbytes).trans List.take_left
    · refine (congrArg _ hbytes).trans (List.drop_left.trans ?_)
      rw [length_wordsOfBytes]
      rfl

end

section
/-! SUPPORT. References to a held frame (07 R214, R215), and what mirroring and the comb's own reads leave where no rule stands and no
error is met. -/

namespace Sys2Proof.Machine

theorem combRead_of_metaErrs_nil {s : State} (h : s.comb.metaErrs = []) (p : CombMeta → Bool) : combRead s p = (s, false) :=
  combRead_clean s p (by simp [h])

theorem mirror_of_no_rules {s : State} (h : s.fab.mirror = []) (f : Frame) (ev inp out cause colour depth : Nat) :
    mirror s f ev inp out cause colour depth = s := by simp [mirror, h]

theorem discard_of_no_rules {s : State} (h : s.fab.mirror = []) (index : Nat) (f : Frame) (c : Cause) (inp out colour depth : Nat) :
    discard s index f c inp out colour depth = countDiscard s index (frmCls f) c :=
  mirror_of_no_rules (s := countDiscard s index (frmCls f) c) h ..

/-- A change that keeps the test it is made under is seen by the search for it. -/
theorem find_modWhere {α : Type} {p : α → Bool} {f : α → α} (h : ∀ x, p (f x) = p x) (l : List α) :
    (modWhere p f l).find? p = (l.find? p).map f := by
  induction l with
  | nil => rfl
  | cons x l ih =>
    rw [modWhere] at ih ⊢
    cases hx : p x <;> simp [hx, h, ih]

theorem length_modWhere {α : Type} (p : α → Bool) (f : α → α) (l : List α) : (modWhere p f l).length = l.length := List.length_map ..

section decRef
variable {s : State} {id : Nat} {f : CFrame} (hf : s.comb.frames.find? (fun x => frameId x == id) = some f) (requester : Nat)
include hf

theorem decRef_doubleFree (h : f.ref = 0) : decRef s id requester = doubleFree s f.owner requester := by
  simp only [decRef, hf, h, if_true]

theorem decRef_shared (h : 1 < f.ref) : decRef s id requester = { s with comb := { s.comb with
    frames := modWhere (fun x => frameId x == id) (fun x => { x with ref := x.ref - 1 }) s.comb.frames } } := by
  simp only [decRef, hf, if_neg (show f.ref ≠ 0 by omega), if_neg (show f.ref ≠ 1 by omega)]

/-- The last reference to a frame whose cells are charged to no port's class. -/
theorem decRef_last (h : f.ref = 1) (howner : 648 ≤ f.owner) : decRef s id requester = { s with comb := { s.comb with
    frames := s.comb.frames.filter (fun x => frameId x != id), used := tblMod 0 s.comb.used (f.owner * 4) (· - f.chain.length)
    lastOwner := f.chain.foldl (fun t k => tblSet 0 t k f.owner) s.comb.lastOwner } } := by
  have hid : frameId f = id := beq_iff_eq.1 (List.find?_some (p := fun x => frameId x == id) hf)
  have hrelease : decRef s id requester = releaseFrame s f := by
    simp only [decRef, hf, if_neg (show f.ref ≠ 0 by omega), if_pos h]
  rw [hrelease, releaseFrame, releaseCells, if_neg (Nat.not_lt.2 howner), hid]
  rfl

end decRef

end Sys2Proof.Machine
end

section
/-! SUPPORT. A copy leaves its output (07 R198, R214; 08 R239, R243; 10 R297; 06 R161): one lemma for each place that an output leads to. -/

namespace Sys2Proof.Machine

/-- The first copy at output o is sent: its frame is held and readable, and nothing holds it back. -/
structure CopySent (s : State) (o : Nat) (c : Copy) (r : List Copy) (cf : CFrame) : Prop where
  copies : (tblGet {} s.comb.egress o).copies = c :: r
  held : heldFrame s c.frame = some cf
  runs : clocksRun s = true
  clean : s.comb.metaErrs = []
  due : c.doneAt ≤ unitNow s
  moves : o < 64 → (portOf s o).tx ≠ .sparing

/-- The state once the first copy at output o is off its list. -/
def copyOff (s : State) (o : Nat) (r : List Copy) : State :=
  { s with comb := { s.comb with egress := tblSet {} s.comb.egress o { tblGet {} s.comb.egress o with copies := r } } }

@[simp] theorem copyOff_su (s : State) (o : Nat) (r : List Copy) : (copyOff s o r).su = s.su := rfl

section
variable {s : State} {o : Nat} {c : Copy} {r : List Copy} {cf : CFrame} {late : Bool}

theorem frameSent_waits (hc : (tblGet {} s.comb.egress o).copies = c :: r)
    (h : unitNow s < c.doneAt ∨ (o < 64 ∧ (portOf s o).tx = .sparing)) : frameSent o late s = s := by
  simp only [frameSent, hc]
  exact if_pos (by simpa [or_assoc] using .inr h)

/-- No copy is held back, and no read of the comb fails: where the copy goes depends on the output alone. -/
theorem CopySent.frameSent_eq (h : CopySent s o c r cf) : frameSent o late s =
    let u := copyOff s o r
    let under := late && decide (o < 64)
    let bad := c.stomp || cf.stomp || under
    let f := leaving s o (if under then underrun s o cf.frame else cf.frame) cf.epoch bad
    let v := if under then count u .txUnderrun o else u
    let t := if o < 64 || o = 80 then emit v (.frame o f c.circuit)
      else if bad then countDiscard (count v .frameStomped o) o cf.cls .frameError
      else if 81 ≤ o then toUnit v (o - 81) cf.frame
      else if frmOp cf.frame = 5 then toUnit v (streamUnitOf v cf.frame) cf.frame
      else deliver v cf.frame
    sentRef t (if bad then none else unitLeaf v o c.frame cf.frame) c.frame o := by
  have hstay : ¬(!clocksRun s || unitNow s < c.doneAt || (o < 64 && (portOf s o).tx == .sparing)) = true := by
    simpa [h.runs, Nat.not_lt.2 h.due] using h.moves
  have hheld : heldFrame (copyOff s o r) c.frame = some cf := h.held
  have hread : ∀ p, combRead (copyOff s o r) p = (copyOff s o r, false) := combRead_of_metaErrs_nil h.clean
  unfold copyOff at hheld hread ⊢
  simp only [frameSent, h.copies, if_neg hstay, hheld, hread, Bool.false_eq_true, if_false]
  rfl

/-- A port sends the frame, ended with the inverse of its CRC where a word came late (10 R297; 08 R243). -/
theorem CopySent.frameSent_late (h : CopySent s o c r cf) (ho : o < 64) : frameSent o true s =
    decRef (emit (count (copyOff s o r) .txUnderrun o) (.frame o (leaving s o (underrun s o cf.frame) cf.epoch true) c.circuit)) c.frame o := by
  rw [h.frameSent_eq]
  simp [ho, sentRef]

theorem CopySent.frameSent_wire (h : CopySent s o c r cf) (ho : (late = false ∧ o < 64) ∨ o = 80) : frameSent o late s =
    decRef (emit (copyOff s o r) (.frame o (leaving s o cf.frame cf.epoch (c.stomp || cf.stomp)) c.circuit)) c.frame o := by
  have hunder : (late && decide (o < 64)) = false := by
    obtain ⟨hl, -⟩ | rfl := ho
    · simp [hl]
    · simp
  have hwire : o < 64 ∨ o = 80 := ho.imp_left And.right
  have hleaf : ∀ v, unitLeaf v o c.frame cf.frame = none := fun v => by simp [unitLeaf, hwire]
  rw [h.frameSent_eq]
  simp [hunder, hwire, hleaf, sentRef]

/-- A frame that was ended reaches no unit (08 R243). -/
theorem CopySent.frameSent_stomped (h : CopySent s o c r cf) (hlo : 64 ≤ o) (h80 : o ≠ 80) (hbad : c.stomp = true ∨ cf.stomp = true) :
    frameSent o late s = decRef (countDiscard (count (copyOff s o r) .frameStomped o) o cf.cls .frameError) c.frame o := by
  have hbad' : (c.stomp || cf.stomp) = true := by simpa using hbad
  rw [h.frameSent_eq]
  simp [Nat.not_lt.2 hlo, h80, hbad', sentRef]

/-- A stream unit that works takes the frame, and a leaf of a canonical tree keeps its cells (06 R161). -/
theorem CopySent.frameSent_streamUnit (h : CopySent s o c r cf) {k : Nat} (ho : 81 ≤ o) (hc : c.stomp = false) (hcf : cf.stomp = false)
    (hk : s.su.map[o - 81]? = some k) (hworks : k ∉ s.su.failed ++ s.su.retired) (hgone : attemptGone s (frmPkey cf.frame) = false) :
    frameSent o late s = sentRef { copyOff s o r with su := { s.su with queue := s.su.queue ++ [(k, cf.frame)] } }
      (leafOf s c.frame cf.frame) c.frame o := by
  obtain ⟨hfailed, hretired⟩ : k ∉ s.su.failed ∧ k ∉ s.su.retired := by simpa using hworks
  obtain ⟨hlen, -⟩ := List.getElem?_eq_some_iff.1 hk
  have hmap : s.su.map.getD (o - 81) (o - 81) = k := by rw [List.getD_eq_getElem?_getD, hk, Option.getD_some]
  have hunit : toUnit (copyOff s o r) (o - 81) cf.frame =
      { copyOff s o r with su := { s.su with queue := s.su.queue ++ [(k, cf.frame)] } } := by
    have hgone' : attemptGone (copyOff s o r) (frmPkey cf.frame) = false := hgone
    unfold toUnit
    simp only [hgone', Bool.false_and, Bool.false_eq_true, if_false, copyOff_su, hmap]
    exact if_neg (by simp [hfailed, hretired, Nat.not_le.2 hlen])
  have hleaf : unitLeaf (copyOff s o r) o c.frame cf.frame = leafOf s c.frame cf.frame := by
    unfold unitLeaf
    simp only [if_pos ho, copyOff_su, hmap]
    exact if_neg (by simp [hfailed, hretired]; omega)
  rw [h.frameSent_eq]
  simp [show ¬o < 64 by omega, show o ≠ 80 by omega, hc, hcf, ho, hunit, hleaf]

/-- Another frame for this module waits for its target (08 Table 8.2). -/
theorem CopySent.frameSent_target (h : CopySent s o c r cf) (hlo : 64 ≤ o) (hhi : o < 80) (hc : c.stomp = false) (hcf : cf.stomp = false)
    (hop : frmOp cf.frame ≠ 5) : frameSent o late s = decRef (deliver (copyOff s o r) cf.frame) c.frame o := by
  have hleaf : ∀ v, unitLeaf v o c.frame cf.frame = none := fun v => by simp [unitLeaf, show o < 81 by omega, hop]
  rw [h.frameSent_eq]
  simp [show ¬o < 64 by omega, show o ≠ 80 by omega, show ¬81 ≤ o by omega, hc, hcf, hop, hleaf, sentRef]

end

end Sys2Proof.Machine
end

section
/-! SUPPORT. A frame copy starts from the head of a list (07 R198, R219 to R222): one scheduler cycle over a single list, and a slot of the
calendar. -/

namespace Sys2Proof.Machine

/-- On the wire a payload counts in whole words (07 R461). -/
theorem finishAt_eq (s : State) (o : Nat) (f : Frame) : finishAt s o f =
    max (unitNow s) (tblGet {} s.comb.egress o).freeAt + 8 * (5 + (f.payload.length + 7) / 8) * byteUnits s o := by
  have hwords : f.payload.length + 8 - 1 = f.payload.length + 7 := by omega
  rw [finishAt, wireBytes, ceilDiv, hwords]

/-- A copy of a frame without errors starts at output o. -/
def copyStarted (s : State) (o id : Nat) (circuit : Option Nat) (f : Frame) : State :=
  let e := tblGet {} s.comb.egress o
  let c : Copy := { frame := id, circuit := circuit, stomp := false, doneAt := finishAt s o f }
  let e' : Egress := { e with copies := e.copies ++ [c], freeAt := finishAt s o f, lastStart := scNow s + 1 }
  let u := countN s .combSbe 0 0
  { u with comb := { s.comb with egress := tblSet {} s.comb.egress o e' } }

theorem startCopy_clean {s : State} {id : Nat} {cf : CFrame} (hheld : heldFrame s id = some cf) (hmarks : cf.marks = [])
    (hclean : s.comb.metaErrs = []) (hrules : s.fab.mirror = []) (o : Nat) (circuit : Option Nat) :
    startCopy s o id circuit = copyStarted s o id circuit cf.frame := by
  simp only [startCopy, hheld, combRead_of_metaErrs_nil hclean, hmarks, Bool.false_eq_true, if_false, List.any_nil, List.filter_nil, List.length_nil]
  exact mirror_of_no_rules (s := copyStarted s o id circuit cf.frame) hrules ..

/-! A scheduler cycle over one list (R221). -/

theorem calendarStart_no_calendar {s : State} (h : s.fab.calCur = []) (o : Nat) : calendarStart s o = s := by
  have hslot : slotStart s o (scNow s % 1024) = s := by simp [slotStart, calOf, h, tblGet, flag]
  simp only [calendarStart, hslot, ite_self]

theorem foldl_calendarStart_no_calendar {s : State} (h : s.fab.calCur = []) (os : List Nat) : os.foldl calendarStart s = s := by
  induction os with
  | nil => rfl
  | cons o os ih => rw [List.foldl_cons, calendarStart_no_calendar h, ih]

/-- A search that goes once round the n places finds the one that is asked for, wherever it starts. -/
theorem rotFind_singleton {n i : Nat} (h : i < n) (start : Nat) : rotFind n start [i].contains = some i := by
  have hmem : i ∈ (List.range n).map fun k => (start + k) % n := by
    refine List.mem_map.2 ⟨(i + (n - start % n)) % n, List.mem_range.2 (Nat.mod_lt _ (by omega)), ?_⟩
    have hstart := Nat.mod_add_div start n
    have hmod : start % n < n := Nat.mod_lt _ (by omega)
    rw [Nat.add_mod_mod, show start + (i + (n - start % n)) = i + n * (start / n) + n by omega, Nat.add_mod_right,
      Nat.add_mul_mod_self_left, Nat.mod_eq_of_lt h]
  cases hf : rotFind n start [i].contains with
  | none => exact absurd (List.find?_eq_none.1 hf i hmem) (by simp)
  | some j =>
    have hj : [i].contains j = true := List.find?_some hf
    rw [show j = i by simpa using hj]

/-- The greatest of one class. -/
theorem topClass_singleton (q : Nat) : topClass [q] = some q := rfl

section
variable {s : State} {i o q : Nat} {outs ins : List Nat}

/-- The head of the only list is requested, granted and accepted. -/
theorem arbIteration_single (hi : i < 114) (ho : o < 113) (houts : o ∉ outs) (hins : i ∉ ins) (hstage : stageEmpty s o = true)
    (hgo : eligible s i o q = true) : arbIteration s [(i, o, q)] outs ins = [(i, o, q)] := by
  simp [arbIteration, houts, hins, hstage, hgo, topClass_singleton, List.eraseDups_cons, rotFind_singleton hi, rotFind_singleton ho]

theorem arbIteration_served (h : o ∈ outs) : arbIteration s [(i, o, q)] outs ins = [] := by simp [arbIteration, h]

theorem arbLoop_served (h : o ∈ outs) (it fuel : Nat) : arbLoop s [(i, o, q)] it outs ins fuel = s := by
  induction fuel generalizing it outs ins with
  | zero => rfl
  | succ fuel ih =>
    simp only [arbLoop, arbIteration_served h, List.foldl_nil, List.map_nil, List.append_nil]
    exact ih h _

/-- Both pointers of an accepted pair turn past it. -/
def pointersPast (s : State) (i o q : Nat) : State := { s with comb := { s.comb with
  gp := tblSet 0 s.comb.gp (o * 8 + q) ((i + 1) % 114), ap := tblSet 0 s.comb.ap (i * 8 + q) ((o + 1) % 113) } }

theorem arbLoop_single (hi : i < 114) (ho : o < 113) (houts : o ∉ outs) (hins : i ∉ ins) (hstage : stageEmpty s o = true)
    (hgo : eligible s i o q = true) (fuel : Nat) : arbLoop s [(i, o, q)] 1 outs ins (fuel + 1) = pointersPast (stageQueue s i o q) i o q := by
  simp only [arbLoop, arbIteration_single hi ho houts hins hstage hgo, List.map_cons, List.map_nil, List.foldl_cons, List.foldl_nil, if_true]
  exact arbLoop_served (by simp) _ _

end

/-- The state at the start of a scheduler cycle. -/
def cycleBegun (s : State) : State := { s with comb := { s.comb with arbAt := scNow s + 1 } }

/-- The one list is taken up in the first iteration, and nothing is left for the others. -/
theorem egressArbitration_single {s : State} {i o q : Nat} {ids : List Nat} (hi : i < 114) (ho : o < 113) (hq : q < 8)
    (hruns : clocksRun s = true) (harb : s.comb.arbAt ≠ scNow s + 1) (hcal : s.fab.calCur = [])
    (hqueues : s.comb.queues = [((i * 113 + o) * 8 + q, ids)]) (hstage : stageEmpty s o = true) (hgo : eligible s i o q = true) :
    egressArbitration s = pointersPast (stageQueue (cycleBegun s) i o q) i o q := by
  have hcalendar : ∀ os : List Nat, os.foldl calendarStart (cycleBegun s) = cycleBegun s := foldl_calendarStart_no_calendar (s := cycleBegun s) hcal
  have hlists : activeLists (cycleBegun s) = [(i, o, q)] := by
    have hin : ((i * 113 + o) * 8 + q) / 904 = i := by omega
    have hout : ((i * 113 + o) * 8 + q) / 8 % 113 = o := by omega
    have hcls : ((i * 113 + o) * 8 + q) % 8 = q := by omega
    simp [activeLists, cycleBegun, hqueues, hin, hout, hcls]
  have hidle : (tblGet {} s.comb.egress o).lastStart ≠ scNow s + 1 := by
    simp only [stageEmpty, Bool.and_eq_true, bne_iff_ne] at hstage
    exact hstage.2
  have hnow : ¬(!clocksRun s || s.comb.arbAt == scNow s + 1) = true := by simp [hruns, harb]
  have hloop := arbLoop_single (s := cycleBegun s) (outs := (List.range 113).filter fun o => (tblGet {} s.comb.egress o).lastStart == scNow s + 1)
    hi ho (by simp [hidle]) (List.not_mem_nil) hstage hgo 3
  unfold cycleBegun at hcalendar hlists hloop ⊢
  simp only [egressArbitration, if_neg hnow, hcalendar, hlists]
  exact hloop

/-- The state once the head is off the only list. -/
def headOff (s : State) (i o q : Nat) (r : List Nat) : State :=
  { s with comb := { s.comb with queues := if r = [] then [] else [((i * 113 + o) * 8 + q, r)] } }

/-- The head of the only list starts. -/
theorem stageQueue_clean {s : State} {i o q id : Nat} {r : List Nat} {cf : CFrame}
    (h : s.comb.queues = [((i * 113 + o) * 8 + q, id :: r)]) (hheld : heldFrame s id = some cf) (hmarks : cf.marks = [])
    (hclean : s.comb.metaErrs = []) (hrules : s.fab.mirror = []) :
    stageQueue s i o q = copyStarted (headOff s i o q r) o id none cf.frame := by
  have hhead : stageQueue s i o q = startCopy (headOff s i o q r) o id none := by simp [stageQueue, headOff, h, tblGet, tblSet]
  rw [hhead]
  exact startCopy_clean (s := headOff s i o q r) hheld hmarks hclean hrules o none

/-! A slot of the calendar (R219, R222). -/

section
variable {s : State} {o : Nat}

theorem calendarStart_no_slot (h : (calOf s o (scNow s % 1024)).getLsbD 12 = false) : calendarStart s o = s := by
  have hslot : slotStart s o (scNow s % 1024) = s := if_pos (by rw [flag, h]; rfl)
  simp only [calendarStart, hslot, ite_self]

theorem calendarStart_begun (h : (tblGet {} s.comb.egress o).lastStart = scNow s + 1 ∨ (tblGet {} s.comb.egress o).skipAt = scNow s + 1) :
    calendarStart s o = s := if_pos (by simpa using h)

/-- A frame of circuit c is still being sent at output o. -/
def circuitSending (s : State) (o c : Nat) : Prop := ∃ k ∈ (tblGet {} s.comb.egress o).copies, k.circuit = some c ∧ unitNow s < k.doneAt

theorem any_sending_iff (c : Nat) : ((tblGet {} s.comb.egress o).copies.any fun k => k.circuit == some c && decide (unitNow s < k.doneAt)) = true ↔
    circuitSending s o c := by simp [circuitSending]

section
variable {x : Nat} {r : List Nat} (hvalid : (calOf s o (scNow s % 1024)).getLsbD 12 = true)
  (hhead : tblGet [] s.comb.circuitQ (fld (calOf s o (scNow s % 1024)) 0 12 * 113 + o) = x :: r)
  (hlast : (tblGet {} s.comb.egress o).lastStart ≠ scNow s + 1) (hskip : (tblGet {} s.comb.egress o).skipAt ≠ scNow s + 1)
include hvalid hhead hlast hskip

/-- A slot that has not been taken yet, with a frame that waits for it. -/
theorem calendarStart_eq : calendarStart s o =
    if ((tblGet {} s.comb.egress o).copies.any fun k => k.circuit == some (fld (calOf s o (scNow s % 1024)) 0 12) && decide (unitNow s < k.doneAt)) then
      count { s with comb := { s.comb with
        egress := tblSet {} s.comb.egress o { tblGet {} s.comb.egress o with skipAt := scNow s + 1 } } } .calOverrun o
    else if stageEmpty s o && circuitGo s o then
      startCopy { s with comb := { s.comb with
        circuitQ := tblSet [] s.comb.circuitQ (fld (calOf s o (scNow s % 1024)) 0 12 * 113 + o) r } } o x (some (fld (calOf s o (scNow s % 1024)) 0 12))
    else s := by
  have hslot : calendarStart s o = slotStart s o (scNow s % 1024) := if_neg (by simp [hlast, hskip])
  have hflag : flag (calOf s o (scNow s % 1024)) 12 = true := hvalid
  rw [hslot]
  simp only [slotStart, hflag, hhead, Bool.not_true, Bool.false_eq_true, if_false]

theorem calendarStart_sending (h : circuitSending s o (fld (calOf s o (scNow s % 1024)) 0 12)) : calendarStart s o =
    count { s with comb := { s.comb with
      egress := tblSet {} s.comb.egress o { tblGet {} s.comb.egress o with skipAt := scNow s + 1 } } } .calOverrun o := by
  rw [calendarStart_eq hvalid hhead hlast hskip, if_pos ((any_sending_iff _).2 h)]

theorem calendarStart_held (h : ¬circuitSending s o (fld (calOf s o (scNow s % 1024)) 0 12)) (hgo : circuitGo s o = false) :
    calendarStart s o = s := by
  rw [calendarStart_eq hvalid hhead hlast hskip, if_neg (mt (any_sending_iff _).1 h)]
  exact if_neg (by simp [hgo])

theorem calendarStart_starts (h : ¬circuitSending s o (fld (calOf s o (scNow s % 1024)) 0 12)) (hgo : circuitGo s o = true)
    (hstage : stageEmpty s o = true) : calendarStart s o = startCopy { s with comb := { s.comb with
      circuitQ := tblSet [] s.comb.circuitQ (fld (calOf s o (scNow s % 1024)) 0 12 * 113 + o) r } } o x (some (fld (calOf s o (scNow s % 1024)) 0 12)) := by
  rw [calendarStart_eq hvalid hhead hlast hskip, if_neg (mt (any_sending_iff _).1 h)]
  exact if_pos (by simp [hgo, hstage])

end

theorem circuitGo_iff : circuitGo s o = true ↔ (64 ≤ o ∨ outUp s o = true) ∧ (64 ≤ o ∨ (portOf s o).mfp ≠ 1) ∧
    (80 < o ∨ (fenceBit s o = false ∧ s.dev.mode ≠ .safe)) := by
  simp [circuitGo, oldLink, and_assoc]

end

end Sys2Proof.Machine
end

section
/-! SUPPORT. A head frame that has been in the comb for LIFETIME (07 R203). -/

namespace Sys2Proof.Machine

/-- The head of a list comes off, and the rest of the comb stays. -/
theorem popList_frame {s u : State} {k : ListKey} {id o : Nat} (h : popList s k = some (id, o, u)) :
    ∃ qs cs, u = { s with comb := { s.comb with queues := qs, circuitQ := cs } } := by
  unfold popList at h
  cases k <;> dsimp only at h <;> split at h <;> cases h <;> exact ⟨_, _, rfl⟩

section
variable {s u : State} {k : ListKey} {id o : Nat} {cf : CFrame} (hruns : clocksRun s = true) (hpop : popList s k = some (id, o, u))
  (hheld : heldFrame s id = some cf)
include hruns hpop hheld

theorem frameAged_young (h : scNow s < cf.arrival + s.fab.lifetime * 1200) : frameAged k s = s := by
  simp only [frameAged, hruns, hpop, hheld, h, Bool.not_true, Bool.false_eq_true, if_false, if_true]

theorem frameAged_old (hclean : s.comb.metaErrs = []) (hrules : s.fab.mirror = []) (h : cf.arrival + s.fab.lifetime * 1200 ≤ scNow s) :
    frameAged k s = decRef (countDiscard u o (frmCls cf.frame) .aged) id o := by
  obtain ⟨hread, hrules'⟩ : (∀ p, combRead u p = (u, false)) ∧ u.fab.mirror = [] := by
    obtain ⟨qs, cs, rfl⟩ := popList_frame hpop
    exact ⟨combRead_of_metaErrs_nil hclean, hrules⟩
  simp only [frameAged, hruns, hpop, hheld, Nat.not_lt.2 h, hread, Bool.not_true, Bool.false_eq_true, if_false]
  rw [discard_of_no_rules hrules']

end

end Sys2Proof.Machine

open Sys2Proof Sys2Proof.Machine

/-- Settles O32: a copy goes where its output leads, the one eligible head is staged once, and a slot, an age and a reference are each
decided by the case that they are in. -/
theorem framesLeave : Obligations.FramesLeave := by
  refine ⟨fun s o late c r cf => ?_, fun s id o f hf => ⟨fun h => ?_, fun h howner => decRef_last hf o h howner, fun h => decRef_doubleFree hf o h⟩,
    fun s h => congrArg _ (if_pos (by simp [h])), ?_, fun s o hruns => ?_, ?_⟩
  · intro e row u hc hheld hruns hclean
    have hsent : c.doneAt ≤ unitNow s → (o.val < 64 → (portOf s o.val).tx ≠ .sparing) → CopySent s o.val c r cf :=
      fun hdue hmoves => ⟨hc, hheld, hruns, hclean, hdue, hmoves⟩
    have hinner : 64 ≤ o.val → o.val < 64 → (portOf s o.val).tx ≠ .sparing := fun h h' => absurd h' (Nat.not_lt.2 h)
    refine ⟨fun h => congrArg _ (frameSent_waits hc h), fun hdue hl ho hmoves => ?_, fun hdue ho h80 hbad => ?_, fun hdue h => ?_,
      fun k hdue ho hcs hcfs hk hworks hgone => ?_, fun hdue hlo hhi hcs hcfs hop => ?_⟩
    · subst hl
      exact congrArg _ ((hsent hdue fun _ => hmoves).frameSent_late ho)
    · exact congrArg _ ((hsent hdue (hinner ho)).frameSent_stomped ho h80 hbad)
    · have hmoves : o.val < 64 → (portOf s o.val).tx ≠ .sparing := by
        obtain ⟨-, -, hm⟩ | h80 := h
        · exact fun _ => hm
        · exact hinner (by omega)
      exact congrArg _ ((hsent hdue hmoves).frameSent_wire (h.imp_left fun ⟨hl, ho, _⟩ => ⟨hl, ho⟩))
    · intro q
      have hunit := (hsent hdue (hinner (by omega))).frameSent_streamUnit (late := late) ho hcs hcfs hk hworks hgone
      refine ⟨fun hl => ?_, fun l hl => ?_⟩
      · rw [hl] at hunit
        exact congrArg _ hunit
      · rw [hl] at hunit
        exact congrArg _ hunit
    · exact congrArg _ ((hsent hdue (hinner hlo)).frameSent_target hlo hhi hcs hcfs hop)
  · exact ⟨_, decRef_shared hf o h, length_modWhere .., (find_modWhere (f := fun x => { x with ref := x.ref - 1 }) (fun _ => rfl) _).trans (congrArg _ hf)⟩
  · intro s i o q id r cf hi ho hq hruns harb hcal hrules hqueues hheld hmarks hclean hstage hgo e done
    have hturn := egressArbitration_single hi ho hq hruns harb hcal hqueues hstage hgo
    rw [stageQueue_clean (s := cycleBegun s) hqueues hheld hmarks hclean hrules, copyStarted, finishAt_eq] at hturn
    exact ⟨_, congrArg Host.Outcome.next hturn, rfl, rfl, rfl⟩
  · intro e id
    have hrun : exec (.calendarSlotStart o) s = .next (calendarStart s o.val) := congrArg _ (if_pos hruns)
    rw [hrun]
    refine ⟨fun h => congrArg _ (calendarStart_no_slot h), ?_, circuitGo_iff⟩
    intro x r hvalid hhead g sending
    exact ⟨fun h => congrArg _ (calendarStart_begun h),
      fun hlast hskip h hgo => congrArg _ (calendarStart_held hvalid hhead hlast hskip h hgo),
      fun hlast hskip h hgo hstage => congrArg _ (calendarStart_starts hvalid hhead hlast hskip h hgo hstage),
      fun hlast hskip h => congrArg _ (calendarStart_sending hvalid hhead hlast hskip h)⟩
  · intro s k id o u cf hruns hpop hheld hclean
    exact ⟨fun h => congrArg _ (frameAged_young hruns hpop hheld h), fun h hrules => congrArg _ (frameAged_old hruns hpop hheld hclean hrules h)⟩

end

section
/-! SUPPORT. Groups and contexts (09 R275, R276; 06 R160, R169): what arming writes, with and without auxiliary data, and what disarming a
context that nothing waits for clears. -/

namespace Sys2Proof.Machine

/-- Context number c becomes x. -/
def withCtx (s : State) (c : Nat) (x : Option Ctx) : State := { s with su := { s.su with ctxs := tblSet none s.su.ctxs c x } }

section arm
variable {s : State}

/-- A context without auxiliary data takes no buffer (06 R160). -/
theorem armContext_noAux {c key : Nat} {word : BitVec 1024} {group : Option Nat} (h : fld word 832 13 = 0) :
    armContext s c key word group = some (withCtx s c (some { word := word, pkey := key, group := group, auxBuf := none, aux := [] })) :=
  if_pos h

/-- A context with auxiliary data takes a P1 buffer of its unit and a copy of them (06 R160; 07 R211). -/
theorem armContext_aux {v v' : State} {c key hd : Nat} {bs : List Byte} {word : BitVec 1024} {group : Option Nat} (h : fld word 832 13 ≠ 0)
    (htake : takeBuf s (648 + s.su.map.getD (fld word 20 5 % max 1 s.su.map.length) 0) 1 = some (hd, v))
    (hread : hbmRead v (fld word 768 64) (fld word 832 13) = (some bs, v')) : armContext s c key word group =
      some (withCtx v' c (some { word := word, pkey := key, group := group, auxBuf := some hd, aux := bs })) := by
  simp only [armContext, if_neg h, htake, hread]
  rfl

/-- The words that the engine arms for a group name no auxiliary data (09 R276). -/
theorem groupCtxWord_noAux (g : Nat) (w : BitVec 320) (id : Nat) : fld (groupCtxWord g w id) 832 13 = 0 :=
  fld_ofNat_pack_above (by simp [fieldsWithin])

theorem foldl_armContext_noAux {key : Nat} {word : Nat → BitVec 1024} {group : Option Nat} (h : ∀ id, fld (word id) 832 13 = 0) (ids : List Nat) :
    ids.foldl (fun t id => (armContext t id key (word id) group).getD t) s =
      let arm := fun (t : Tbl (Option Ctx)) (id : Nat) =>
        tblSet none t id (some { word := word id, pkey := key, group := group, auxBuf := none, aux := [] })
      { s with su := { s.su with ctxs := ids.foldl arm s.su.ctxs } } := by
  induction ids generalizing s with
  | nil => rfl
  | cons id ids ih => rw [List.foldl_cons, armContext_noAux (h id), Option.getD_some, ih]; rfl

variable {g : Nat} {w : BitVec 320}

/-- Arming a group is refused by a step in progress, and by a context in use (09 R275). -/
theorem armGroup_conflict (h : stepBlocks s (gpKey w) = true ∨ ∃ id ∈ groupIds g w, ctxOf s id ≠ none) :
    armGroup s g w = .error .stateConflict := by
  unfold armGroup
  obtain hstep | ⟨id, hid, hctx⟩ := h
  · rw [if_pos hstep]
  · have hused : ((groupIds g w).any fun id => (ctxOf s id).isSome) = true :=
      List.any_eq_true.2 ⟨id, hid, Option.isSome_iff_ne_none.2 hctx⟩
    simp [hused]

/-- Arming a group succeeds when its reserve fits the units (09 R281). -/
theorem armGroup_free (hstep : stepBlocks s (gpKey w) = false) (hfree : ∀ id ∈ groupIds g w, ctxOf s id = none)
    (hok : groupFieldsOk s g w = true) :
    armGroup s g w = if reservedPages (putGroup s g w) ≤ 16 then .ok (putGroup s g w) else .error .noResource := by
  have hunused : ((groupIds g w).any fun id => (ctxOf s id).isSome) = false := by
    rw [List.any_eq_false]
    intro id hid
    simp [hfree id hid]
  simp only [armGroup, hstep, hunused, hok, Bool.not_true, Bool.false_eq_true, if_false]
  split <;> rename_i hpages
  · exact (if_neg (Nat.not_le.2 hpages)).symm
  · exact (if_pos (Nat.not_lt.1 hpages)).symm

end arm

section armRun
variable {s : State} {r : Req}

theorem armGroupRun_ok {t : State} (h : armGroup s (rn r 0) (ofWords 320 (rws r 1 5)) = .ok t) : armGroupRun s r = done t := by
  simp only [armGroupRun, h]

theorem armGroupRun_error {e : Status} (h : armGroup s (rn r 0) (ofWords 320 (rws r 1 5)) = .error e) (he : e ≠ .badArg) :
    armGroupRun s r = refused s e := by
  simp only [armGroupRun, h, if_neg he]

/-- No byte is read of no region. -/
theorem regionsHit_zero (s : State) (a : Nat) : regionsHit s a 0 = [] := by
  rw [regionsHit, List.filterMap_eq_nil_iff]
  intro e _
  have hempty : ¬ max a (rgBase e.2) < min (a + 0) (rgBase e.2 + rgLen e.2) := by omega
  simp only [hempty, decide_false, Bool.and_false, Bool.false_eq_true, if_false]

theorem metaBad_zero (s : State) (a : Nat) : metaBad s a 0 = false := by simp [metaBad, pagesRead, regionsHit_zero]

theorem metaFix_zero (s : State) (a : Nat) : metaFix s a 0 = s := by
  have hall : ∀ {α : Type} (l : List α), (l.filter fun _ => true) = l := fun l => List.filter_eq_self.2 fun _ _ => rfl
  unfold metaFix
  split
  · rfl
  · simp only [pagesRead, regionsHit_zero, List.flatMap_nil, List.contains_nil, List.any_nil, Bool.and_false, Bool.not_false, hall]

/-- A read of no bytes at the start of a word touches no word. -/
theorem hbmCheck_zero {a : Nat} (h : a % 8 = 0) : hbmCheck s a 0 = (none, s) := by
  have hwords : physWords s a 0 = [] := by
    have hnone : (a + 0 + 7) / 8 - a / 8 = 0 := by omega
    rw [physWords, hnone]; rfl
  rw [hbmCheck, hwords]
  exact ite_self _

/-- A check that names no byte holds. -/
theorem good_of_needs_none {good : Bool} {off : Nat} (h : needs good off = none) : good = true := by
  cases good
  · cases h
  · rfl

/-- The address of a context's auxiliary data, as ARM_CONTEXT takes it, is a multiple of 8. -/
theorem armContextForm_aligned (h : armContextForm s r = none) : fld (ctxRecord r) 768 64 % 8 = 0 := by
  obtain ⟨-, h⟩ := orForm_none.1 h
  obtain ⟨-, h⟩ := orForm_none.1 h
  obtain ⟨h, -⟩ := orForm_none.1 h
  obtain ⟨hlow, -⟩ := Bool.and_eq_true_iff.1 (good_of_needs_none h)
  rw [beq_iff_eq] at hlow
  unfold fld at hlow ⊢
  omega

theorem armContextRun_conflict (h : ctxOf s (ctxNumber r) ≠ none ∨ stepBlocks s (rn r 16) = true) :
    armContextRun s r = refused s .stateConflict := by
  have hconflict : ((ctxOf s (ctxNumber r)).isSome || stepBlocks s (rn r 16)) = true := by
    simpa [Option.isSome_iff_ne_none] using h
  exact if_pos hconflict

/-- ARM_CONTEXT where neither the comb, R325 nor the words of HBM find an error, and there is a buffer. -/
theorem armContextRun_clean {t : State} (hctx : ctxOf s (ctxNumber r) = none) (hstep : stepBlocks s (rn r 16) = false)
    (hcomb : s.comb.metaErrs = [] ∨ fld (ctxRecord r) 832 13 = 0)
    (hmeta : metaBad s (fld (ctxRecord r) 768 64) (fld (ctxRecord r) 832 13) = false)
    (hwords : (hbmCheck s (fld (ctxRecord r) 768 64) (fld (ctxRecord r) 832 13)).1 = none)
    (harm : armContext (metaFix s (fld (ctxRecord r) 768 64) (fld (ctxRecord r) 832 13)) (ctxNumber r) (rn r 16) (ctxRecord r) none = some t) :
    armContextRun s r = done t := by
  have hread : ∀ m, combRead s (fun x => fld (ctxRecord r) 832 13 != 0 && x == m) = (s, false) := by
    intro m
    apply combRead_clean
    obtain hclean | hlen := hcomb
    · simp [hclean]
    · simp [hlen]
  simp only [armContextRun, hread, hctx, hstep, hmeta, hwords, harm, Option.isSome_none, Bool.or_self, Bool.false_eq_true, if_false]

theorem disarmContextRun_free {x : Ctx} (hx : ctxOf s (ctxNumber r) = some x) (hgroup : x.group = none)
    (hstep : stepBlocks s x.pkey = false) : disarmContextRun s r = done (disarmContext s (ctxNumber r)) := by
  simp [disarmContextRun, hx, hgroup, hstep]

theorem disarmContextRun_conflict {x : Ctx} (hx : ctxOf s (ctxNumber r) = some x) (h : x.group ≠ none ∨ stepBlocks s x.pkey = true) :
    disarmContextRun s r = refused s .stateConflict := by
  have hconflict : (x.group.isSome || stepBlocks s x.pkey) = true := by simpa [Option.isSome_iff_ne_none] using h
  simp only [disarmContextRun, hx, hconflict, if_true]

end armRun

section disarm
variable {s : State} {c : Nat} {x : Ctx}

/-- The requests in the lines of the pools but for those of context c (07 R210). -/
def noWaiters (s : State) (c : Nat) : List Waiter := s.comb.waiters.filter fun w => match w.what with
  | .buffer k _ _ => k != c
  | .origin _ => true

/-- A context leaves the table, with what was granted to it and what it waits for (06 R160, R169; 07 R210). -/
def clearCtx (t : State) (c : Nat) : State := { t with
  su := { t.su with ctxs := tblSet none t.su.ctxs c none, granted := t.su.granted.filter fun g => g.1 != c }
  comb := { t.comb with waiters := noWaiters t c } }

/-- The one reader of a buffer finishes: it goes back (07 R214). -/
theorem dropReader_last {h requester : Nat} {b : Buf} (hm : s.comb.metaErrs = []) (hb : bufOf s h = some b) (href : b.ref = 1) :
    dropReader s requester h = freeBufHandle s h := by
  simp [dropReader, bufRead_clean hm, hb, href]

/-- What is left when a context's buffer has gone back. -/
def auxReturned (s : State) (x : Ctx) : State :=
  match x.auxBuf with
  | some h => freeBufHandle s h
  | none => s

/-- A context's buffer is held, and the context is its one reader. -/
def auxHeld (s : State) (x : Ctx) : Prop := ∀ h, x.auxBuf = some h → s.comb.metaErrs = [] ∧ ∃ b, bufOf s h = some b ∧ b.ref = 1

/-- A buffer that goes back changes the comb alone. -/
theorem auxReturned_frame (h : auxHeld s x) : ∃ comb, auxReturned s x = { s with comb := comb } := by
  unfold auxReturned
  split
  next hd hx =>
    obtain ⟨-, b, hb, -⟩ := h hd hx
    obtain ⟨used, owner, hfree⟩ := freeBufHandle_held (Option.isSome_iff_exists.2 ⟨b, hb⟩)
    exact ⟨_, hfree⟩
  next => exact ⟨s.comb, rfl⟩

/-- The state once a context's buffer, its place in the table and its requests are gone. -/
def ctxGone (s : State) (c : Nat) (x : Ctx) : State :=
  let t := auxReturned s x
  { t with su := { s.su with ctxs := tblSet none s.su.ctxs c none }, comb := { t.comb with waiters := noWaiters t c } }

/-- A context without chunks and granted buffers is disarmed (06 R160, R169). -/
theorem disarmContext_unused (hctx : ctxOf s c = some x) (hchunks : ∀ k ∈ s.su.chunks, k.ctx ≠ c) (hgranted : ∀ g ∈ s.su.granted, g.1 ≠ c)
    (haux : auxHeld s x) : disarmContext s c = settleFree (ctxGone s c x) := by
  have hsu : (auxReturned s x).su = s.su := by
    obtain ⟨comb, h⟩ := auxReturned_frame haux
    rw [h]
  have hnone : (s.su.chunks.filter fun k => k.ctx == c) = [] := by simpa [List.filter_eq_nil_iff] using hchunks
  have hno : (s.su.granted.filter fun g => g.1 == c) = [] := by simpa [List.filter_eq_nil_iff] using hgranted
  have hkept : (s.su.granted.filter fun g => g.1 != c) = s.su.granted := by simpa [List.filter_eq_self] using hgranted
  unfold disarmContext
  extract_lets s1 s2 mine s3
  have h1 : s1 = auxReturned s x := by
    simp only [s1, auxReturned, hctx]
    cases hx : x.auxBuf with
    | none => rfl
    | some hd =>
      obtain ⟨hm, b, hb, href⟩ := haux hd hx
      exact dropReader_last hm hb href
  have h2 : s2 = auxReturned s x := by
    unfold s2
    rw [h1, hsu, hnone, List.foldl_nil]
  have h3 : s3 = auxReturned s x := by
    unfold s3 mine
    rw [h2, hsu, hno, List.foldl_nil]
  refine congrArg settleFree (show clearCtx s3 c = ctxGone s c x from ?_)
  rw [h3, clearCtx, hsu, hkept]
  rfl

end disarm

end Sys2Proof.Machine

open Sys2Proof Sys2Proof.Machine

/-- Settles O14: each command is refused by a step or an id in use, or ends with its own effect; the group's contexts and a context without
auxiliary data take no buffer. -/
theorem groupsAndContexts : Obligations.GroupsAndContexts := by
  refine ⟨?_, fun s c x hctx hchunks hgranted haux => ?_⟩
  · intro src s r u g w arm armed x c one
    have hdone : ∀ {k : Cmd} {t : State}, accepted k src s r = true → k.run u r = done t →
        Host.Outcome.next (runCmd k src s) = (.next (okReply t r []) : Host.Outcome State Fault Refusal) :=
      fun ha hr => congrArg _ (runCmd_done ha hr)
    have hrefused : ∀ {k : Cmd} {st : Status} {d : Nat}, accepted k src s r = true → k.run u r = refused u st d →
        Host.Outcome.next (runCmd k src s) = (.next (respond u r st.code d []) : Host.Outcome State Fault Refusal) :=
      fun ha hr => congrArg _ (runCmd_refused ha hr)
    refine ⟨fun ha hstep hfree => ?_, fun ha hconflict => ?_, fun ha hstep => ⟨_, rfl, ?_⟩, fun ha hstep => ?_, fun ha hconflict => ?_,
      fun ha hfree hstep hlen => ?_, fun h v bs v' ha hfree hstep hlen hm hmeta htake hwords hread => ?_, fun y ha hy hgroup hstep => ?_,
      fun y ha hy hconflict => ?_⟩
    · have hput : putGroup u g w = armed := congrArg (chooseAlgorithm false false true · (g, w)) (foldl_armContext_noAux (groupCtxWord_noAux g w) _)
      have hok : groupFieldsOk u g w = true := by
        obtain ⟨-, hform⟩ := orForm_none.1 (accepted_form ha)
        exact good_of_needs_none hform
      have hrun := armGroup_free (s := u) hstep hfree hok
      rw [hput] at hrun
      split
      next hfits =>
        rw [if_pos hfits] at hrun
        exact hdone ha (armGroupRun_ok hrun)
      next hfull =>
        rw [if_neg hfull] at hrun
        exact hrefused ha (armGroupRun_error hrun (by decide))
    · exact hrefused ha (armGroupRun_error (armGroup_conflict hconflict) (by decide))
    · exact hdone ha (if_neg (ne_true_of_eq_false hstep))
    · exact hrefused ha (if_pos hstep)
    · exact hrefused ha (armContextRun_conflict hconflict)
    · have haligned := armContextForm_aligned (accepted_form ha)
      refine hdone ha (armContextRun_clean (s := u) hfree hstep (.inr hlen) ?_ ?_ ?_)
      · rw [hlen]; exact metaBad_zero u _
      · rw [hlen, hbmCheck_zero haligned]
      · rw [hlen, metaFix_zero]; exact armContext_noAux hlen
    · have hmap : (metaFix u (fld x 768 64) (fld x 832 13)).su = s.su := by
        obtain ⟨_, _, hfix⟩ := metaFix_frame u (fld x 768 64) (fld x 832 13)
        rw [hfix]; rfl
      rw [← hmap] at htake
      exact hdone ha (armContextRun_clean (s := u) hfree hstep (.inl hm) hmeta hwords (armContext_aux hlen htake hread))
    · exact hdone ha (disarmContextRun_free (s := u) hy hgroup hstep)
    · exact hrefused ha (disarmContextRun_conflict (s := u) hy hconflict)
  · have hgone := disarmContext_unused hctx hchunks hgranted haux
    obtain ⟨comb, hframe⟩ := auxReturned_frame haux
    refine ⟨auxReturned s x, ctxGone s c x, rfl, ?_, ?_, ?_, ?_, rfl, hgone, fun hleaves => hgone.trans (settleFree_no_leaves hleaves)⟩ <;> rw [hframe]

end

section
/-! SUPPORT. The chunks of an operation (09 R283): each of its elements lies in the chunk that its place in its segment names. -/

namespace Sys2Proof.Machine

theorem div_lt_ceilDiv {k a b : Nat} (hb : 0 < b) (h : k < a) : k / b < ceilDiv a b := by
  have hstep : k / b + 1 = (k + b) / b := (Nat.add_div_right k hb).symm
  have hle : (k + b) / b ≤ (a + b - 1) / b := Nat.div_le_div_right (by omega)
  unfold ceilDiv
  omega

/-- An element of a run of n lies in the block of b elements that its place names. -/
theorem mem_block {k n b : Nat} (hb : 0 < b) (h : k < n) : k / b * b ≤ k ∧ k < k / b * b + min b (n - k / b * b) := by
  have hdiv : b * (k / b) + k % b = k := Nat.div_add_mod k b
  have hmod := Nat.mod_lt k hb
  rw [Nat.mul_comm] at hdiv
  generalize k / b * b = d at *
  omega

section
variable {w r : BitVec 320}

theorem gpCe_pos (w : BitVec 320) : 0 < gpCe w := Nat.succ_pos _

theorem chunkSpan_le (c : Nat) : (chunkSpan w r c).2.2 ≤ gpCe w := by
  unfold chunkSpan
  split <;> exact Nat.min_le_left ..

/-- An operation on one run of elements: BROADCAST, REDUCE and ALL_REDUCE. -/
theorem chunk_whole {k : Nat} (h3 : irOp r ≠ 3) (h4 : irOp r ≠ 4) (hk : k < irCount r) : let c := k / gpCe w
    c < chunkCount w r ∧ (chunkSpan w r c).1 = 0 ∧ (chunkSpan w r c).2.1 ≤ k ∧ k < (chunkSpan w r c).2.1 + (chunkSpan w r c).2.2 := by
  intro c
  have hspan : chunkSpan w r c = (0, c * gpCe w, min (gpCe w) (irCount r - c * gpCe w)) := by simp [chunkSpan, h3, h4]
  have hcount : chunkCount w r = ceilDiv (irCount r) (gpCe w) := by simp [chunkCount, h3, h4]
  rw [hspan, hcount]
  exact ⟨div_lt_ceilDiv (gpCe_pos w) hk, rfl, mem_block (gpCe_pos w) hk⟩

theorem segLen_le (i : Nat) : segLen r i ≤ irSeg r := by
  unfold segLen
  split
  · rw [Nat.add_one_mul]; omega
  · exact Nat.le_refl _

/-- Chunk j of segment i. -/
theorem chunkSpan_segment {i j : Nat} (hop : irOp r = 3 ∨ irOp r = 4) (hj : j < perSeg w r) :
    chunkSpan w r (i * perSeg w r + j) = (i, j * gpCe w, min (gpCe w) (segLen r i - j * gpCe w)) := by
  have hpos : 0 < perSeg w r := Nat.zero_lt_of_lt hj
  have hmax : max 1 (perSeg w r) = perSeg w r := Nat.max_eq_right hpos
  have hdiv : (i * perSeg w r + j) / perSeg w r = i := by
    rw [Nat.mul_comm, Nat.mul_add_div hpos, Nat.div_eq_of_lt hj, Nat.add_zero]
  have hmod : (i * perSeg w r + j) % perSeg w r = j := by rw [Nat.mul_add_mod', Nat.mod_eq_of_lt hj]
  have hsegments : (irOp r = 3 || irOp r = 4) = true := by simpa using hop
  simp only [chunkSpan, hsegments, if_true, hmax, hdiv, hmod]

/-- The chunks of segment i come before those of the segments after it. -/
theorem segment_chunk_lt {i j n p : Nat} (hi : i < n) (hj : j < p) : i * p + j < n * p :=
  calc i * p + j < (i + 1) * p := by rw [Nat.add_one_mul]; omega
    _ ≤ n * p := Nat.mul_le_mul_right p hi

/-- REDUCE_SCATTER: the full segments, and the one in which the elements end. -/
theorem chunk_lt_scatter {i j : Nat} (hop : irOp r = 3) (hseg : 0 < irSeg r) (hi : i < gpN w) (hlen : 0 < segLen r i) (hj : j < perSeg w r)
    (hlast : j < ceilDiv (segLen r i) (gpCe w)) : i * perSeg w r + j < chunkCount w r := by
  have hreach : i ≤ irCount r / irSeg r := by
    rw [Nat.le_div_iff_mul_le hseg]
    simp only [segLen, hop, if_true] at hlen
    omega
  simp only [chunkCount, hop, if_true]
  by_cases hfull : i < min (gpN w) (irCount r / irSeg r)
  · exact Nat.lt_of_lt_of_le (segment_chunk_lt hfull hj) (Nat.le_add_right ..)
  · have hends : min (gpN w) (irCount r / irSeg r) = i := by omega
    rw [hends, if_pos hi]
    exact Nat.add_lt_add_left hlast _

/-- An operation on segments: REDUCE_SCATTER and ALL_GATHER. -/
theorem chunk_segment {i k : Nat} (hop : irOp r = 3 ∨ irOp r = 4) (hseg : 0 < irSeg r) (hi : i < gpN w) (hk : k < segLen r i) :
    let c := i * perSeg w r + k / gpCe w
    c < chunkCount w r ∧ (chunkSpan w r c).1 = i ∧ (chunkSpan w r c).2.1 ≤ k ∧ k < (chunkSpan w r c).2.1 + (chunkSpan w r c).2.2 := by
  intro c
  have hj : k / gpCe w < perSeg w r := div_lt_ceilDiv (gpCe_pos w) (Nat.lt_of_lt_of_le hk (segLen_le i))
  rw [chunkSpan_segment hop hj]
  refine ⟨?_, rfl, mem_block (gpCe_pos w) hk⟩
  obtain h3 | h4 := hop
  · exact chunk_lt_scatter h3 hseg hi (Nat.zero_lt_of_lt hk) hj (div_lt_ceilDiv (gpCe_pos w) hk)
  · have hcount : chunkCount w r = gpN w * perSeg w r := by simp [chunkCount, h4]
    rw [hcount]
    exact segment_chunk_lt hi hj

end

end Sys2Proof.Machine
end

section
/-! SUPPORT. Issue of collective operations (09 R273, R277, R290): which record is taken, and what becomes of it. -/

namespace Sys2Proof.Machine

variable {s : State} {r : BitVec 320} {rest : List (BitVec 320)}

/-- The engine issues: no step holds it back (09 R290). -/
def issuing (s : State) : Prop :=
  ∀ st, s.job.step = some st → st.poisoned = none ∧ st.held = false ∧ st.committing = false

/-- The state with the queue of records as it is after one has been taken. -/
def queueLeft (s : State) (rest : List (BitVec 320)) : State := { s with coll := { s.coll with queue := rest } }

theorem collectiveIssue_waits {st : Step} (hst : s.job.step = some st) (h : st.poisoned.isSome = true ∨ st.held = true ∨ st.committing = true) :
    collectiveIssue s = s := by
  have hwaits : (st.poisoned.isSome || st.held || st.committing) = true := by simpa [or_assoc] using h
  simp [collectiveIssue, hst, hwaits]

/-- Where no step holds the engine back, the oldest record that is refused or has room is taken (09 R277). -/
theorem collectiveIssue_issuing (hrun : unitsRun s = true) (h : issuing s) : collectiveIssue s =
    (s.coll.queue.find? fun x => (issueStatus s x).isSome || !sourceFull s x).elim s fun x =>
      let u := queueLeft s (eraseFirst (· == x) s.coll.queue)
      (issueStatus s x).elim (issue u x) (refuseIssue u x) := by
  unfold collectiveIssue
  extract_lets waits
  have hgo : waits = false := by
    unfold waits
    split
    next st hst =>
      obtain ⟨hp, hh, hc⟩ := h st hst
      simp [hp, hh, hc]
    next => rfl
  simp only [hrun, hgo, Bool.not_true, Bool.or_self, Bool.false_eq_true, if_false]
  cases s.coll.queue.find? fun x => (issueStatus s x).isSome || !sourceFull s x with
  | none => rfl
  | some x =>
    dsimp only [Option.elim_some]
    cases issueStatus s x <;> rfl

theorem collectiveIssue_head (hrun : unitsRun s = true) (h : issuing s) (hq : s.coll.queue = r :: rest)
    (hr : (issueStatus s r).isSome = true ∨ sourceFull s r = false) :
    collectiveIssue s = (issueStatus s r).elim (issue (queueLeft s rest) r) (refuseIssue (queueLeft s rest) r) := by
  have htaken : (s.coll.queue.find? fun x => (issueStatus s x).isSome || !sourceFull s x) = some r := by
    rw [hq]
    exact List.find?_cons_of_pos (by simpa using hr)
  have hleft : eraseFirst (· == r) s.coll.queue = rest := by simp [hq, eraseFirst]
  rw [collectiveIssue_issuing hrun h, htaken, Option.elim_some, hleft]

/-- A ninth record waits for its source, and the rules allow it (09 R277). -/
theorem collectiveIssue_full (hrun : unitsRun s = true) (h : issuing s) (hfull : ∀ x ∈ s.coll.queue, issueStatus s x = none ∧ sourceFull s x = true) :
    collectiveIssue s = s := by
  have hnone : (s.coll.queue.find? fun x => (issueStatus s x).isSome || !sourceFull s x) = none := by
    rw [List.find?_eq_none]
    intro x hx
    obtain ⟨hst, hf⟩ := hfull x hx
    simp [hst, hf]
  rw [collectiveIssue_issuing hrun h, hnone]
  rfl

theorem issueStatus_badArg (h : issueOk s r = false) : issueStatus s r = some .badArg := by simp [issueStatus, h]

theorem issueStatus_absentUnit (h : issueOk s r = true) (ha : (recordAbsent s r).isSome = true) : issueStatus s r = some .absentUnit := by
  simp [issueStatus, h, ha]

theorem issueStatus_none (h : issueOk s r = true) (ha : recordAbsent s r = none) : issueStatus s r = none := by
  simp [issueStatus, h, ha]

/-- Eight operations of a source run: a further one lies eight or more behind one of them (09 R277). -/
theorem sourceFull_iff : sourceFull s r = true ↔ ∃ o ∈ s.coll.ops, o.gid = irGid r ∧ o.lsrc = irLsrc r ∧
    8 ≤ (tblGet 0 s.coll.nextSeq (4 * irGid r + irLsrc r) + 2 ^ 32 - o.seq) % 2 ^ 32 := by
  simp [sourceFull, and_assoc]

theorem refuseIssue_inStep {e : Status} (h : stepOf s (gpKey (groupOf s (irGid r))) ≠ none) :
    refuseIssue s r e = failStep s { status := e.code, ecause := 0 } :=
  if_pos (Option.isSome_iff_ne_none.2 h)

theorem refuseIssue_noStep {e : Status} (h : stepOf s (gpKey (groupOf s (irGid r))) = none) : refuseIssue s r e =
    putResult s (irGid r) (irLsrc r) (tblGet 0 s.coll.nextSeq (4 * irGid r + irLsrc r) % 2 ^ 32) e.code := by
  simp [refuseIssue, h]

end Sys2Proof.Machine
end

section
/-! SUPPORT. Completion of collective operations (09 R288, R289; 05 R145): the operation leaves the engine, and its semaphore rises in the
clusters of its mask. -/

namespace Sys2Proof.Machine

/-- A queen whose semaphore k rises by 1. -/
def semRaised (k : Nat) (x : Queen) : Queen := { x with sem := tblSet 0 x.sem k (semSum (tblGet 0 x.sem k) 1) }

/-- No semaphore reads 0 once it has risen, whatever a sum past 65,535 is (assumption 36). -/
def sumsNonzero : Prop := ∀ v, semSum v 1 ≠ 0

theorem semSum_one {v : Nat} (h : v < 65535) : semSum v 1 = v + 1 := if_pos h

/-- The queens of the clusters, each with its semaphore k raised. -/
def raiseAll (cs : List Nat) (k : Nat) (s : State) : State := cs.foldl (fun t c => modQueen t c (semRaised k)) s

theorem completeOp_eq (s : State) (o : COp) :
    completeOp s o = raiseAll (maskClusters s (irCmask o.word)) (irSem o.word) (dropOp s o) := rfl

/-- Raising semaphores changes queens alone. -/
theorem raiseAll_frame (cs : List Nat) (k : Nat) (s : State) :
    ∃ queens, raiseAll cs k s = { s with comp := { s.comp with queens := queens } } := by
  induction cs generalizing s with
  | nil => exact ⟨s.comp.queens, rfl⟩
  | cons c cs ih =>
    obtain ⟨queens, h⟩ := ih (modQueen s c (semRaised k))
    exact ⟨queens, h⟩

section raise
variable {s : State} {k : Nat}

/-- A semaphore that has risen to a value other than 0 is read back, and the queen's other semaphores are what they were. -/
theorem semOf_modQueen_same {c : Nat} (h : semSum (semOf s c k) 1 ≠ 0) (n : Nat) :
    semOf (modQueen s c (semRaised k)) c n = if n = k then semSum (semOf s c k) 1 else semOf s c n := by
  have hsem : tblGet 0 (semRaised k (queenOf s c)).sem k = semSum (semOf s c k) 1 := tblGet_set_ne 0 _ k _ h
  have hne : semRaised k (queenOf s c) ≠ {} := by
    intro he
    rw [he] at hsem
    exact h hsem.symm
  have hqueen : queenOf (modQueen s c (semRaised k)) c = semRaised k (queenOf s c) := tblGet_set_ne _ _ c _ hne
  rw [semOf, hqueen]
  split
  next hn => rw [hn, hsem]
  next hn => exact tblGet_set_other 0 _ k n _ hn

theorem semOf_modQueen_other {c c' : Nat} (h : c' ≠ c) (f : Queen → Queen) (n : Nat) : semOf (modQueen s c f) c' n = semOf s c' n :=
  congrArg (fun x : Queen => tblGet 0 x.sem n) (tblGet_set_other _ s.comp.queens c c' _ h)

theorem semOf_raiseAll_not_mem {cs : List Nat} {c : Nat} (h : c ∉ cs) (n : Nat) : semOf (raiseAll cs k s) c n = semOf s c n := by
  induction cs generalizing s with
  | nil => rfl
  | cons c' cs ih =>
    obtain ⟨hne, hcs⟩ : c ≠ c' ∧ c ∉ cs := by simpa using h
    exact (ih hcs).trans (semOf_modQueen_other hne _ n)

theorem semOf_raiseAll_mem {cs : List Nat} {c : Nat} (hn : cs.Nodup) (hc : c ∈ cs) (h : semSum (semOf s c k) 1 ≠ 0) (n : Nat) :
    semOf (raiseAll cs k s) c n = if n = k then semSum (semOf s c k) 1 else semOf s c n := by
  induction cs generalizing s with
  | nil => cases hc
  | cons c' cs ih =>
    obtain ⟨hfresh, hrest⟩ := List.nodup_cons.1 hn
    by_cases hcc : c = c'
    · subst hcc
      exact (semOf_raiseAll_not_mem hfresh n).trans (semOf_modQueen_same h n)
    · have hother : ∀ m, semOf (modQueen s c' (semRaised k)) c m = semOf s c m := semOf_modQueen_other hcc _
      have hmem := (List.mem_cons.1 hc).resolve_left hcc
      have := ih (s := modQueen s c' (semRaised k)) hrest hmem (by rwa [hother])
      rwa [hother, hother] at this

end raise

theorem nodup_maskClusters (s : State) (m : BitVec 32) : (maskClusters s m).Nodup := List.nodup_range.filter _

/-- What the completion of an operation does to the queens (09 R288): one semaphore rises by 1 in the clusters of the mask, and no other
changes. -/
def semaphoreRose (s : State) (o : COp) (t : State) : Prop := t.comp = { s.comp with queens := t.comp.queens } ∧
  (∀ c n, c ∈ maskClusters s (irCmask o.word) → semOf s c (irSem o.word) < 65535 → n = irSem o.word → semOf t c n = semOf s c n + 1) ∧
  ∀ c n, c ∉ maskClusters s (irCmask o.word) ∨ n ≠ irSem o.word → semOf t c n = semOf s c n

theorem completeOp_frame (s : State) (o : COp) : completeOp s o = { dropOp s o with comp := (completeOp s o).comp } := by
  obtain ⟨queens, h⟩ := raiseAll_frame (maskClusters s (irCmask o.word)) (irSem o.word) (dropOp s o)
  rw [completeOp_eq, h]

theorem completeOp_rose (hs : sumsNonzero) (s : State) (o : COp) : semaphoreRose s o (completeOp s o) := by
  obtain ⟨queens, hframe⟩ := raiseAll_frame (maskClusters s (irCmask o.word)) (irSem o.word) (dropOp s o)
  have hin : ∀ c n, c ∈ maskClusters s (irCmask o.word) → semOf (completeOp s o) c n =
      if n = irSem o.word then semSum (semOf s c (irSem o.word)) 1 else semOf s c n :=
    fun c n hc => semOf_raiseAll_mem (s := dropOp s o) (nodup_maskClusters s _) hc (hs _) n
  refine ⟨?_, fun c n hc hlt hn => ?_, fun c n h => ?_⟩
  · rw [completeOp_eq, hframe]
    rfl
  · rw [hin c n hc, if_pos hn, semSum_one hlt, hn]
  · by_cases hc : c ∈ maskClusters s (irCmask o.word)
    · rw [hin c n hc, if_neg (h.resolve_left (not_not_intro hc))]
    · exact semOf_raiseAll_not_mem (s := dropOp s o) hc n

/-- An operation that the engine holds leaves it once. -/
theorem length_dropOp {s : State} {o : COp} (h : o ∈ s.coll.ops) : (dropOp s o).coll.ops.length + 1 = s.coll.ops.length := by
  have hsame : sameOp o o = true := by simp [sameOp]
  have hpos := List.length_pos_of_mem h
  have herase : (dropOp s o).coll.ops = s.coll.ops.eraseP (sameOp o) := eraseFirst_eq_eraseP _ _
  rw [herase, List.length_eraseP_of_mem h hsame]
  omega

section named
variable {s : State} {g q l : Nat} {o : COp} (hfind : findOp s g q l = some o) (hrun : unitsRun s = true)
include hfind

theorem findOp_mem : o ∈ s.coll.ops := List.mem_of_find?_eq_some hfind

theorem findOp_gid : o.gid = g := by
  have := List.find?_some hfind
  simp only [Bool.and_eq_true, beq_iff_eq] at this
  obtain ⟨⟨hgid, -⟩, -⟩ := this
  exact hgid

theorem collectiveComplete_running (h : opDone s o = false) : collectiveComplete g q l s = s := by simp [collectiveComplete, hfind, h]

theorem collTimeout_not_late (h : opDone s o = true ∨ ¬o.issuedAt + gpTimeout (groupOf s g) ≤ logicNs s) : collTimeout g q l s = s := by
  simp only [collTimeout, hfind]
  apply if_pos
  obtain hdone | hlate := h
  · simp [hdone]
  · simp [Nat.not_le.1 hlate]

include hrun

theorem collectiveComplete_done (h : opDone s o = true) : collectiveComplete g q l s = completeOp s o := by
  simp [collectiveComplete, hfind, hrun, h]

theorem collTimeout_late (h : opDone s o = false) (hlate : o.issuedAt + gpTimeout (groupOf s g) ≤ logicNs s) : collTimeout g q l s =
    if (stepOf s (gpKey (groupOf s g))).isSome && o.inStep then raisePoison s .collTimeout
    else completeOp (putResult s g l q Status.timeout.code) o := by
  simp only [collTimeout, hfind, hrun, h, Nat.not_lt.2 hlate, opInStep, findOp_gid hfind]
  rfl

end named

end Sys2Proof.Machine
end

section
/-! SUPPORT. What O53 turns on. It holds if and only if no sum of a semaphore with 1 that passes 65,535 is 0, and that sum is an open value
(assumption 36), of which nothing can be proved: so neither O53 nor its negation can be. Where such a sum is 0, a queen that holds nothing
else is as reset leaves it, and its entry leaves the table; and in a table that lists the queen twice, which is no canonical form, the entry
behind it is read from then on. -/

namespace Sys2Proof.Machine

/-- An operation of group 0 on no elements, for semaphore 0 of cluster 0. -/
def emptyOp : COp := { gid := 0, seq := 0, lsrc := 0, word := BitVec.ofNat 320 (2 ^ 256), issuedAt := 0, inStep := false }

/-- That operation in the engine, and queen 0 listed twice: with v in semaphore 0 alone, and behind that with 5 in semaphore 1. -/
def twiceQueen (v : Nat) : State := { inStep0 with
  coll := { ops := [emptyOp] }
  comp := { queens := [(0, { sem := [(0, v)] }), (0, { sem := [(1, 5)] })] } }

theorem collectives_of_sumsNonzero (hs : sumsNonzero) : Obligations.Collectives := by
  refine ⟨fun s r rest hq hrun => ⟨fun st hst h => congrArg _ (collectiveIssue_waits hst h), fun (h : issuing s) => ⟨fun e he => ?_,
    fun hok hpresent => ?_, fun hfull => ?_⟩⟩, fun s g q l o hfind hrun => ?_,
    fun w r k i => ⟨chunk_whole, fun hop hseg => chunk_segment hop hseg, chunkSpan_le⟩⟩
  · intro u k
    obtain ⟨x, hx, rfl⟩ : ∃ x, issueStatus s r = some x ∧ e = x.code := by
      obtain ⟨hbad, rfl⟩ | ⟨hok, habsent, rfl⟩ := he
      · exact ⟨_, issueStatus_badArg hbad, rfl⟩
      · exact ⟨_, issueStatus_absentUnit hok habsent, rfl⟩
    have hrefuse : collectiveIssue s = refuseIssue u r x := by
      rw [collectiveIssue_head hrun h hq (.inl (by rw [hx]; rfl)), hx]
      rfl
    exact ⟨fun hstep => congrArg _ (hrefuse.trans (refuseIssue_inStep (s := u) hstep)),
      fun hstep => congrArg _ (hrefuse.trans (refuseIssue_noStep (s := u) hstep))⟩
  · intro k n seq hroom o
    have hst := issueStatus_none hok hpresent
    have hfits : sourceFull s r = false := by
      refine Bool.eq_false_iff.2 fun hf => ?_
      obtain ⟨x, hx, hgid, hlsrc, hlag⟩ := sourceFull_iff.1 hf
      exact absurd (hroom x hx hgid hlsrc) (Nat.not_lt.2 hlag)
    have hissue : collectiveIssue s = issue (queueLeft s rest) r := by
      rw [collectiveIssue_head hrun h hq (.inr hfits), hst]
      rfl
    exact congrArg _ hissue
  · refine congrArg _ (collectiveIssue_full hrun h fun x hx => ?_)
    obtain ⟨hok, hpresent, hlag⟩ := hfull x hx
    exact ⟨issueStatus_none hok hpresent, sourceFull_iff.2 hlag⟩
  · intro gone late
    refine ⟨fun hopen => congrArg _ (collectiveComplete_running hfind hopen), ?_⟩
    intro raised
    refine ⟨fun hdone => ⟨completeOp s o, congrArg Host.Outcome.next (collectiveComplete_done hfind hrun hdone), completeOp_frame s o,
        completeOp_rose hs s o⟩,
      fun h => congrArg _ (collTimeout_not_late hfind h), fun hopen hlate hstep hin => congrArg Host.Outcome.next ?_, fun hopen hlate h => ?_,
      length_dropOp (findOp_mem hfind)⟩
    · exact (collTimeout_late hfind hrun hopen hlate).trans (if_pos (by rw [hstep, hin]; rfl))
    · have hout : ((stepOf s (gpKey (groupOf s g.val))).isSome && o.inStep) = false := by
        obtain hstep | hin := h
        · rw [hstep]; rfl
        · rw [hin, Bool.and_false]
      have hexec := (collTimeout_late hfind hrun hopen hlate).trans (if_neg (ne_true_of_eq_false hout))
      exact ⟨_, congrArg Host.Outcome.next hexec, completeOp_frame _ o, completeOp_rose hs (putResult s g.val l.val q.toNat Status.timeout.code) o⟩

/-- Where the sum of v and 1 is 0, the completion of `emptyOp` at `twiceQueen v` changes semaphore 1 of cluster 0 from 0 to 5. -/
theorem semOf_completeOp_twiceQueen {v : Nat} (hv : semSum v 1 = 0) :
    semOf (twiceQueen v) 0 1 = 0 ∧ semOf (completeOp (twiceQueen v) emptyOp) 0 1 = 5 := by
  have hmask : maskClusters (twiceQueen v) (irCmask emptyOp.word) = [0] := (by decide +kernel : maskClusters inStep0 (irCmask emptyOp.word) = [0])
  have hsem : irSem emptyOp.word = 0 := by decide +kernel
  have hcleared : semRaised 0 { sem := [(0, v)] } = {} := by simp [semRaised, tblGet, hv, tblSet]
  have hqueens : (completeOp (twiceQueen v) emptyOp).comp.queens = [(0, { sem := [(1, 5)] })] := by
    rw [completeOp_eq, hmask, hsem]
    show tblSet {} (twiceQueen v).comp.queens 0 (semRaised 0 { sem := [(0, v)] }) = _
    rw [hcleared]
    rfl
  refine ⟨rfl, ?_⟩
  rw [semOf, queenOf, hqueens]
  rfl

theorem sumsNonzero_of_collectives (h : Obligations.Collectives) : sumsNonzero := by
  intro v hv
  obtain ⟨-, hcomplete, -⟩ := h
  have hrun : unitsRun (twiceQueen v) = true := (by decide +kernel : unitsRun inStep0 = true)
  have hopDone : opDone (twiceQueen v) emptyOp = true := (by decide +kernel : opDone inStep0 emptyOp = true)
  obtain ⟨-, hdone, -⟩ := hcomplete (twiceQueen v) 0 0 0 emptyOp rfl hrun
  obtain ⟨t, hexec, -, -, -, hkept⟩ := hdone hopDone
  have ht : completeOp (twiceQueen v) emptyOp = t := by
    rw [← collectiveComplete_done (rfl : findOp (twiceQueen v) 0 0 0 = some emptyOp) hrun hopDone]
    exact Host.Outcome.next.inj hexec
  obtain ⟨hbefore, hafter⟩ := semOf_completeOp_twiceQueen hv
  have hsame := hkept 0 1 (.inr (by decide +kernel))
  rw [← ht, hbefore, hafter] at hsame
  exact absurd hsame (by decide)

theorem sumsNonzero_iff : sumsNonzero ↔ ∀ v, 65535 ≤ v → Config.openValue 36 [v, 1] % 65536 ≠ 0 := by
  have hopen : ∀ {v}, 65535 ≤ v → semSum v 1 = Config.openValue 36 [v, 1] % 65536 := fun h => if_neg (by omega)
  refine ⟨fun hs v h => hopen h ▸ hs v, fun ho v => ?_⟩
  by_cases h : v < 65535
  · rw [semSum_one h]
    exact Nat.succ_ne_zero v
  · rw [hopen (Nat.not_lt.1 h)]
    exact ho v (Nat.not_lt.1 h)

/-- All that O53 says is proved but for one open value: the statement is the same as that the value is never 0. -/
theorem collectives_iff_openValue_ne_zero : Obligations.Collectives ↔ ∀ v, 65535 ≤ v → Config.openValue 36 [v, 1] % 65536 ≠ 0 :=
  Iff.trans ⟨sumsNonzero_of_collectives, collectives_of_sumsNonzero⟩ sumsNonzero_iff

end Sys2Proof.Machine
end

section
/-! SUPPORT. Arriving ordered sets (10 R309, R310): what each check does with one, and the rows that they share. -/

namespace Sys2Proof.Machine

section arrival
variable {s : State} {code : Byte} {zero : BitVec 40} {rx : SetRx} (f : State → State)

theorem onSet_down (h : auxOn s = false ∨ (portOf s rx.port.val).sb = false) : onSet s code zero rx f = s := by
  rw [onSet, if_pos (by simpa using h)]

theorem onSet_wrong (haux : auxOn s = true) (hsb : (portOf s rx.port.val).sb = true) (h : setOk code zero rx = false) :
    onSet s code zero rx f = count s .sbError rx.port.val := by simp [onSet, haux, hsb, h]

theorem onSet_right (haux : auxOn s = true) (hsb : (portOf s rx.port.val).sb = true) (h : setOk code zero rx = true) :
    onSet s code zero rx f = f s := by simp [onSet, haux, hsb, h]

/-- Whether its sideband is up or not, a repeat of a good set changes nothing (R310). -/
theorem onTriple_repeat (h : setOk code zero rx = true) (hrep : isRepeat s code rx = true) : onTriple s code zero rx f = s := by
  simp [onTriple, onSet, h, hrep]

theorem onTriple_fresh (h : setFresh s code zero rx) : onTriple s code zero rx f = f (noteSet s code rx) := by
  obtain ⟨haux, hsb, hok, hrep⟩ := h
  rw [onTriple, onSet_right _ haux hsb hok, hrep]
  rfl

/-- The six sets pass through the same checks, and all but BEACON and TIME through that for a repeat. -/
theorem exec_setRow {row : Instr} (h : (row, code, zero) ∈ setRows rx) :
    (∃ f, ∀ s, exec row s = .next (onSet s code zero rx f)) ∧
      (code ≠ codeBeacon → code ≠ codeTime → ∃ f, ∀ s, exec row s = .next (onTriple s code zero rx f)) := by
  simp only [setRows, List.mem_cons, List.not_mem_nil, or_false, Prod.mk.injEq] at h
  obtain ⟨rfl, rfl, rfl⟩ | ⟨rfl, rfl, rfl⟩ | ⟨rfl, rfl, rfl⟩ | ⟨rfl, rfl, rfl⟩ | ⟨rfl, rfl, rfl⟩ | ⟨rfl, rfl, rfl⟩ := h
  case inr.inr.inl => exact ⟨⟨_, fun _ => rfl⟩, fun hb => absurd rfl hb⟩
  case inr.inr.inr.inr.inr => exact ⟨⟨_, fun _ => rfl⟩, fun _ ht => absurd rfl ht⟩
  all_goals exact ⟨⟨_, fun _ => rfl⟩, fun _ _ => ⟨_, fun _ => rfl⟩⟩

end arrival

end Sys2Proof.Machine
end

section
/-! SUPPORT. FENCE (12 R355; 13 R389): what ending a launch leaves of the device state and the epoch. -/

namespace Sys2Proof.Machine

/-- The device state and MEMBERSHIP_EPOCH stand. -/
structure SameMembership (s t : State) : Prop where
  mode : t.dev.mode = s.dev.mode
  epoch : t.dev.epoch = s.dev.epoch

namespace SameMembership

theorem of_dev_eq {s t : State} (h : t.dev = s.dev) : SameMembership s t := ⟨by rw [h], by rw [h]⟩

theorem trans {s t u : State} (a : SameMembership s t) (b : SameMembership t u) : SameMembership s u :=
  ⟨b.mode.trans a.mode, b.epoch.trans a.epoch⟩

theorem foldl {α : Type} {f : State → α → State} (h : ∀ t a, SameMembership t (f t a)) (l : List α) (s : State) :
    SameMembership s (l.foldl f s) := by
  induction l generalizing s with
  | nil => exact of_dev_eq rfl
  | cons a l ih => exact (h s a).trans (ih _)

end SameMembership

variable (s : State)

theorem noteDoubleFree_sameMembership (owner requester : Nat) : SameMembership s (noteDoubleFree s owner requester) := by
  unfold noteDoubleFree
  generalize hv : count _ _ = v
  obtain ⟨o, p, h⟩ := recomputeHealth_frame v
  rw [h]
  subst hv
  exact ⟨rfl, rfl⟩

theorem freeBufHandle_sameMembership (h : Nat) : SameMembership s (freeBufHandle s h) := by
  unfold freeBufHandle
  split
  · exact noteDoubleFree_sameMembership ..
  · exact .of_dev_eq rfl

theorem freeChunks_sameMembership (cs : List Chunk) : SameMembership s (freeChunks s cs) :=
  .foldl (fun t _ => .foldl freeBufHandle_sameMembership _ t) cs s

@[simp] theorem sendPause_dev (p : Nat) : (sendPause s p).dev = s.dev := by
  unfold sendPause
  dsimp only
  split <;> rfl

@[simp] theorem updatePause_dev (p : Nat) : (updatePause s p).dev = s.dev := by
  unfold updatePause
  dsimp only
  split
  · rfl
  · split
    · exact sendPause_dev ..
    · rfl

@[simp] theorem releaseFrame_dev (f : CFrame) : (releaseFrame s f).dev = s.dev := by
  unfold releaseFrame releaseCells
  split
  · exact updatePause_dev ..
  · rfl

theorem dropLeaf_sameMembership (id : Nat) : SameMembership s (dropLeaf s id) := by
  unfold dropLeaf
  split
  · exact noteDoubleFree_sameMembership ..
  · split
    · exact .of_dev_eq (releaseFrame_dev ..)
    · exact .of_dev_eq rfl

theorem settleLeaves_sameMembership : SameMembership s (settleLeaves s) := by
  unfold settleLeaves
  exact (SameMembership.of_dev_eq (s := s) (t := { s with su := { s.su with leaves := (sortLeaves s s.su.leaves ([], [])).1 } }) rfl).trans
    (.foldl (fun t (l : Leaf) => dropLeaf_sameMembership t l.frame) _ _)

theorem foldl_modQueen_dev (qs : List Nat) (f : Queen → Queen) (t : State) : (qs.foldl (fun t q => modQueen t q f) t).dev = t.dev := by
  induction qs generalizing t with
  | nil => rfl
  | cons q qs ih => exact ih (modQueen t q f)

theorem foldl_modChan_dev (cs : List Nat) (f : Chan → Chan) (t : State) : (cs.foldl (fun t c => modChan t c f) t).dev = t.dev := by
  induction cs generalizing t with
  | nil => rfl
  | cons c cs ih => exact ih (modChan t c f)

theorem discardStep_sameMembership (l : Launch) : SameMembership s (discardStep s l) := by
  unfold discardStep
  extract_lets s1 gone mine isGone lost s2 _ _ _ _ s3 s3' qs s4
  have hregions : SameMembership s s1 := .of_dev_eq rfl
  have hfreed : SameMembership s1 s2 := (freeChunks_sameMembership s1 gone).trans
    (.foldl (fun t (g : Nat × Nat × Nat × Nat) => freeBufHandle_sameMembership t g.2.2.2) lost _)
  have hleaves : SameMembership s3 s3' := (settleLeaves_sameMembership s3).trans (.of_dev_eq rfl)
  have hstopped : s4.dev = s3'.dev := foldl_modQueen_dev ..
  refine (((hregions.trans hfreed).trans (SameMembership.of_dev_eq (t := s3) rfl)).trans hleaves).trans (.of_dev_eq ?_)
  exact (foldl_modChan_dev ..).trans hstopped

theorem writeCompletion_dev (o : Outcome') (f : Fail) : (writeCompletion s o f).dev = s.dev := by
  unfold writeCompletion
  split
  · dsimp only
    split <;> rfl
  · rfl

/-- A launch that ends in FENCED leaves the module there. -/
theorem endLaunch_fenced (h : s.dev.mode = .fenced) : SameMembership s (endLaunch s) ∧ (endLaunch s).job.launch = none := by
  unfold endLaunch
  split
  · exact ⟨.of_dev_eq rfl, ‹_›⟩
  · rename_i l _
    extract_lets s1 s2 _ _ s3 _
    have hdev : s2.dev = s.dev := (foldl_modChan_dev ..).trans (foldl_modQueen_dev ..)
    have hended : SameMembership s2 s3 := by constructor <;> (simp only [s3]; split <;> rfl)
    have hsame : SameMembership s s3 := (SameMembership.of_dev_eq hdev).trans hended
    have hmode : s3.dev.mode = .fenced := hsame.mode.trans h
    simp only [hmode]
    exact ⟨hsame, rfl⟩

theorem fenceLaunch_fenced (h : s.dev.mode = .fenced) : SameMembership s (fenceLaunch s) ∧ (fenceLaunch s).job.launch = none := by
  unfold fenceLaunch endStep
  split
  · exact ⟨.of_dev_eq rfl, ‹_›⟩
  · split
    · exact endLaunch_fenced s h
    · rename_i l _ _
      generalize hw : writeCompletion s .failed _ = w
      have hrecorded : SameMembership s (stepBoundary (discardStep w l)) := by
        refine SameMembership.trans (.of_dev_eq ?_) ((discardStep_sameMembership w l).trans (.of_dev_eq rfl))
        rw [← hw, writeCompletion_dev]
      obtain ⟨hsame, hgone⟩ := endLaunch_fenced _ (hrecorded.mode.trans h)
      exact ⟨hrecorded.trans hsame, hgone⟩

/-- MEMBERSHIP_EPOCH rises to the one that a FENCE names. -/
def epochRaised (s : State) (pay : BitVec 40) : State := { s with dev := { s.dev with epoch := BitVec.ofNat 32 (fld pay 0 32) } }

section fenceSet
variable {s : State} {pay : BitVec 40}

theorem fenceSet_old (h : fld pay 0 32 ≤ s.dev.epoch.toNat) : fenceSet s pay = s := if_pos h

theorem fenceSet_joined (h : s.dev.epoch.toNat < fld pay 0 32) (hset : flag pay 32 = true) (hmode : s.dev.mode = .joined) :
    fenceSet s pay = setMode (epochRaised s pay) .fenced := by
  simp [fenceSet, Nat.not_le.2 h, hset, hmode, epochRaised]

theorem fenceSet_active (h : s.dev.epoch.toNat < fld pay 0 32) (hset : flag pay 32 = true) (hmode : s.dev.mode = .active) :
    fenceSet s pay = fenceLaunch (setMode (epochRaised s pay) .fenced) := by
  simp [fenceSet, Nat.not_le.2 h, hset, hmode, epochRaised]

theorem fenceSet_fenced (h : s.dev.epoch.toNat < fld pay 0 32) (hclear : flag pay 32 = false) (hmode : s.dev.mode = .fenced) :
    fenceSet s pay = setMode (epochRaised s pay) .joined := by
  simp [fenceSet, Nat.not_le.2 h, hclear, hmode, epochRaised]

end fenceSet

section fence
variable {s : State} {rx : SetRx} (h : setFresh s codeFence 0xFE00000000 rx)
include h

theorem fence_held (hc : clocksHeld s = true) : fence rx s =
    { noteSet s codeFence rx with dev := { s.dev with heldSets := s.dev.heldSets ++ [rx] } } :=
  (onTriple_fresh _ h).trans (if_pos hc)

theorem fence_running (hc : clocksHeld s = false) : fence rx s = fenceSet (noteSet s codeFence rx) rx.payload :=
  (onTriple_fresh _ h).trans (if_neg (ne_true_of_eq_false hc))

/-- A FENCE that sets takes an active module to FENCED, whose launch ends (R355). -/
theorem fence_active (hc : clocksHeld s = false) (hepoch : s.dev.epoch.toNat < fld rx.payload 0 32) (hset : flag rx.payload 32 = true)
    (hmode : s.dev.mode = .active) : (fence rx s).dev.mode = .fenced ∧ (fence rx s).dev.epoch = BitVec.ofNat 32 (fld rx.payload 0 32) ∧
      (fence rx s).job.launch = none := by
  rw [fence_running h hc, fenceSet_active (s := noteSet s codeFence rx) hepoch hset hmode]
  obtain ⟨o, p, hfenced⟩ := setMode_frame (epochRaised (noteSet s codeFence rx) rx.payload) .fenced
  rw [hfenced]
  obtain ⟨hsame, hgone⟩ := fenceLaunch_fenced { epochRaised (noteSet s codeFence rx) rx.payload with
    out := o
    host := { s.host with msixPending := p }
    dev := { (epochRaised (noteSet s codeFence rx) rx.payload).dev with mode := .fenced } } rfl
  exact ⟨hsame.mode, hsame.epoch, hgone⟩

end fence

end Sys2Proof.Machine
end

section
/-! SUPPORT. BEACONs (13 R387, R388): what one that arrives does, and what a list of them that leave does. -/

namespace Sys2Proof.Machine

theorem beacon_right {s : State} {rx : SetRx} (haux : auxOn s = true) (hsb : (portOf s rx.port.val).sb = true)
    (h : setOk codeBeacon 0 rx = true) : beacon rx s = { s with
      ports := tblMod {} s.ports rx.port.val fun q => { q with
        beaconRx := nowNs s, nbState := fld rx.payload 32 8, nbW1 := setFlag q.nbW1 49 false }
      dev := { s.dev with eventLog :=
        if (portOf s rx.port.val).nbW1.getLsbD 49 then s.dev.eventLog ++ [(evHeard, rx.port.val, nowNs s)] else s.dev.eventLog }
      fab := { s.fab with fence := if fld rx.payload 32 8 = 8 then tblSet false s.fab.fence rx.port.val true else s.fab.fence } } := by
  rw [beacon, onSet_right _ haux hsb h]
  cases hdead : (portOf s rx.port.val).nbW1.getLsbD 49 <;> by_cases hst : fld rx.payload 32 8 = 8 <;>
    simp only [flag, hdead, hst, if_true, if_false, Bool.false_eq_true] <;> rfl

theorem Mode.code_lt_two_iff (m : Mode) : m.code < 2 ↔ m = .off ∨ m = .aux := by cases m <;> decide

theorem beaconSend_silent {s : State} (h : s.dev.mode = .off ∨ s.dev.mode = .aux ∨ s.dev.recovery = true) : beaconSend s = s := by
  refine if_pos ?_
  rw [Bool.or_eq_true, decide_eq_true_eq, Mode.code_lt_two_iff]
  exact or_assoc.2 h

theorem beaconSend_serviced {s : State} (hoff : s.dev.mode ≠ .off) (haux : s.dev.mode ≠ .aux) (hrec : s.dev.recovery = false) :
    beaconSend s = ((sbPorts s).filter fun p => decide ((portOf s p).beaconTx + 10000 ≤ nowNs s)).foldl sendBeacon s := by
  refine if_neg ?_
  rw [Bool.or_eq_true, decide_eq_true_eq, Mode.code_lt_two_iff, hrec]
  simp [hoff, haux]

theorem sbPorts_nodup (s : State) : (sbPorts s).Nodup := List.nodup_range.filter _

theorem sb_of_mem_sbPorts {s : State} {p : Nat} (h : p ∈ sbPorts s) : (portOf s p).sb = true := (List.mem_filter.1 h).2

theorem neighbourSilent_late {s : State} {p : Nat} (haux : auxOn s = true) (hsb : (portOf s p).sb = true)
    (halive : flag (portOf s p).nbW1 49 = false) (h : (portOf s p).beaconRx + 30000 ≤ nowNs s) : neighbourSilent p s =
    logEvent (count (modPort s p fun q => { q with nbW1 := setFlag q.nbW1 49 true }) .neighbourSilent p) evSilent p :=
  if_pos (by simp [haux, hsb, halive, h])

theorem neighbourSilent_heard {s : State} {p : Nat} (h : nowNs s < (portOf s p).beaconRx + 30000) : neighbourSilent p s = s :=
  if_neg (by simp [Nat.not_le.2 h])

/-- The BEACON that leaves port p next (10 Table 10.7), and the port once it has left. -/
def nextBeacon (s : State) (p : Nat) : OutEvent := .ordered p codeBeacon
  (BitVec.ofNat 40 ((portOf s p).beaconSeq.toNat + 2 ^ 16 * s.dev.eid.toNat + 2 ^ 32 * s.dev.mode.code))
def beaconCounted (s : State) (p : Nat) : Port :=
  { portOf s p with beaconSeq := (portOf s p).beaconSeq + 1, beaconTx := nowNs s }

theorem sendBeacon_eq (s : State) (p : Nat) : sendBeacon s p =
    { s with sbq := s.sbq ++ [nextBeacon s p], ports := tblSet {} s.ports p (beaconCounted s p) } := by
  have hseq : (portOf s p).beaconSeq.toNat % 2 ^ 16 = (portOf s p).beaconSeq.toNat := Nat.mod_eq_of_lt (portOf s p).beaconSeq.isLt
  have heid : s.dev.eid.toNat % 2 ^ 16 = s.dev.eid.toNat := Nat.mod_eq_of_lt s.dev.eid.isLt
  have hmode : s.dev.mode.code % 2 ^ 8 = s.dev.mode.code := by cases s.dev.mode <;> rfl
  rw [sendBeacon, sendSet_eq]
  simp only [pack, hseq, heid, hmode, Nat.shiftLeft_eq, Nat.mul_comm _ (2 ^ _), Nat.add_zero, ← Nat.add_assoc, Nat.pow_zero, Nat.mul_one]
  rfl

theorem portOf_setPort_other {s : State} {p k : Nat} (h : k ≠ p) (q : List OutEvent) (x : Port) :
    portOf { s with sbq := q, ports := tblSet {} s.ports p x } k = portOf s k := tblGet_set_other _ _ p k x h

/-- One BEACON leaves each port of a list whose sidebands are up, and nothing but these ports and the sideband changes. -/
structure BeaconsSent (s : State) (ps : List Nat) (t : State) : Prop where
  sbq : t.sbq = s.sbq ++ ps.map (nextBeacon s)
  sent : ∀ p ∈ ps, portOf t p = beaconCounted s p
  other : ∀ p, p ∉ ps → portOf t p = portOf s p
  frame : t = { s with sbq := t.sbq, ports := t.ports }

theorem foldl_sendBeacon {s : State} {ps : List Nat} (hn : ps.Nodup) (hsb : ∀ p ∈ ps, (portOf s p).sb = true) :
    BeaconsSent s ps (ps.foldl sendBeacon s) := by
  induction ps generalizing s with
  | nil => exact ⟨(List.append_nil _).symm, fun _ h => absurd h List.not_mem_nil, fun _ _ => rfl, rfl⟩
  | cons p ps ih =>
    obtain ⟨hfresh, hn⟩ := List.nodup_cons.1 hn
    have hother : ∀ k, k ≠ p → portOf (sendBeacon s p) k = portOf s k := fun k hk => by
      rw [sendBeacon_eq]; exact portOf_setPort_other hk _ _
    have hone : portOf (sendBeacon s p) p = beaconCounted s p := by
      rw [sendBeacon_eq]
      refine tblGet_set_ne _ _ _ _ fun hdefault => ?_
      have hup : (beaconCounted s p).sb = true := hsb p List.mem_cons_self
      rw [hdefault] at hup
      exact absurd hup (by decide)
    have hlater : ∀ k ∈ ps, portOf (sendBeacon s p) k = portOf s k := fun k hk => hother k fun e => hfresh (e ▸ hk)
    obtain ⟨hsbq, hsent, hrest, hframe⟩ := ih (s := sendBeacon s p) hn fun k hk => by
      rw [hlater k hk]; exact hsb k (List.mem_cons_of_mem _ hk)
    have hdev : (sendBeacon s p).dev = s.dev := by rw [sendBeacon_eq]
    have hnow : nowNs (sendBeacon s p) = nowNs s := by rw [sendBeacon_eq]; rfl
    refine ⟨?_, fun k hk => ?_, fun k hk => ?_, ?_⟩
    · have hmap : ps.map (nextBeacon (sendBeacon s p)) = ps.map (nextBeacon s) :=
        List.map_congr_left fun k hk => by rw [nextBeacon, nextBeacon, hlater k hk, hdev]
      have hfirst : (sendBeacon s p).sbq = s.sbq ++ [nextBeacon s p] := by rw [sendBeacon_eq]
      rw [List.foldl_cons, hsbq, hmap, hfirst, List.append_assoc]
      rfl
    · obtain rfl | hk := List.mem_cons.1 hk
      · exact (hrest k hfresh).trans hone
      · rw [List.foldl_cons, hsent k hk, beaconCounted, beaconCounted, hlater k hk, hnow]
    · obtain ⟨hne, hk⟩ : k ≠ p ∧ k ∉ ps := by simpa using hk
      exact (hrest k hk).trans (hother k hne)
    · rw [List.foldl_cons, hframe, sendBeacon_eq]

end Sys2Proof.Machine
end

section
/-! SUPPORT. What a free sideband sends (10 R310): the oldest set of the highest priority that may go. -/

namespace Sys2Proof.Machine

theorem findSome?_range {α : Type} {f : Nat → Option α} {n k : Nat} {a : α} (hk : k < n) (ha : f k = some a)
    (h : ∀ j, j < k → f j = none) : (List.range n).findSome? f = some a := by
  rw [List.findSome?_eq_some_iff]
  refine ⟨List.range k, k, List.range' (k + 1) (n - k - 1), ?_, ha, fun j hj => h j (List.mem_range.1 hj)⟩
  have happend := List.range'_append_1 (s := 0) (m := k) (n := n - k - 1 + 1)
  rw [Nat.zero_add] at happend
  rw [List.range_eq_range', List.range_eq_range', ← List.range'_succ, happend]
  congr 1
  omega

theorem sideRank_ordered_lt (p : Nat) (c : Byte) (y : BitVec 40) : sideRank (.ordered p c y) < 6 := by
  unfold sideRank
  repeat' split
  all_goals decide

/-- An event waits for a free sideband behind none that goes before it: of those that may go no other has a higher priority, and no older
one the same. -/
structure GoesFirst (s : State) (p : Nat) (e : OutEvent) (pre suf : List OutEvent) : Prop where
  waits : s.sbq = pre ++ e :: suf
  port : sidePort e = p
  rank : sideRank e < 6
  may : sideMay s e = true
  beats : ∀ x ∈ pre ++ suf, sidePort x = p → sideMay s x = true → sideRank e ≤ sideRank x
  oldest : ∀ x ∈ pre, sidePort x = p → sideMay s x = true → sideRank x ≠ sideRank e

section
variable {s : State} {p : Nat} {e : OutEvent} {pre suf : List OutEvent} (h : GoesFirst s p e pre suf)
include h

theorem GoesFirst.not_mem : e ∉ pre := fun he => h.oldest e he h.port h.may rfl

theorem GoesFirst.sideNext_eq : sideNext s p = some e := by
  refine findSome?_range h.rank ?_ fun k hk => ?_
  · rw [h.waits, List.find?_append, List.find?_eq_none.2, Option.none_or, List.find?_cons_of_pos]
    · simp [h.port, h.may]
    · intro x hx hgoes
      simp only [Bool.and_eq_true, beq_iff_eq] at hgoes
      obtain ⟨⟨hport, hrank⟩, hmay⟩ := hgoes
      exact h.oldest x hx hport hmay hrank
  · rw [List.find?_eq_none]
    intro x hx hgoes
    simp only [Bool.and_eq_true, beq_iff_eq] at hgoes
    obtain ⟨⟨hport, hrank⟩, hmay⟩ := hgoes
    have hother : x ∈ pre ++ suf := by
      rw [h.waits] at hx
      obtain hx | hx := List.mem_append.1 hx
      · exact List.mem_append_left _ hx
      · obtain rfl | hx := List.mem_cons.1 hx
        · omega
        · exact List.mem_append_right _ hx
    exact absurd (h.beats x hother hport hmay) (by omega)

theorem GoesFirst.eraseFirst_eq : eraseFirst (fun x => x == e) s.sbq = pre ++ suf := by
  rw [h.waits, eraseFirst_eq_eraseP, List.eraseP_append_right, List.eraseP_cons_of_pos (by simp)]
  intro x hx
  simpa using fun heq : x = e => h.not_mem (heq ▸ hx)

/-- A free sideband sends it; nothing else of what waits goes. -/
theorem GoesFirst.sideSend_eq {c : Byte} {y : BitVec 40} (hset : e = .ordered p c y) (hc : c ≠ codeTime)
    (hsb : (portOf s p).sb = true) (hfree : (portOf s p).sbBusy ≤ s.clk.ticks) :
    sideSend s p = emit (sideTaken { s with sbq := pre ++ suf } p false) e := by
  subst hset
  have hstart : ¬(!(portOf s p).sb || decide (s.clk.ticks < (portOf s p).sbBusy)) = true := by simp [hsb, Nat.not_lt.2 hfree]
  simp only [sideSend, if_neg hstart, h.sideNext_eq, h.eraseFirst_eq, beq_iff_eq, if_neg hc]

end

theorem sideSend_occupied {s : State} {p : Nat} (h : (portOf s p).sb = false ∨ s.clk.ticks < (portOf s p).sbBusy) : sideSend s p = s := by
  rw [sideSend, if_pos (by simpa using h)]

end Sys2Proof.Machine
end

section

open Sys2Proof Sys2Proof.Machine

/-- Settles O56: the checks that all sets share, then what FENCE and BEACON do, what leaves every 10 µs, and the choice of a free sideband. -/
theorem sidebandSets : Obligations.SidebandSets := by
  refine ⟨fun s rx row code zero hrow => ?_, fun s rx hfresh => ?_,
    fun s rx haux hsb hok => congrArg Host.Outcome.next (beacon_right haux hsb hok), fun s => ?_, fun s p => ?_⟩
  · obtain ⟨⟨f, hexec⟩, htriple⟩ := exec_setRow hrow
    refine ⟨fun hdown => (hexec s).trans (congrArg _ (onSet_down f hdown)),
      fun haux hsb hwrong => (hexec s).trans (congrArg _ (onSet_wrong f haux hsb hwrong)), fun hbeacon htime hok hrep => ?_⟩
    obtain ⟨g, hexec⟩ := htriple hbeacon htime
    exact (hexec s).trans (congrArg _ (onTriple_repeat g hok hrep))
  · intro v epoch u run
    refine ⟨fun hheld => congrArg Host.Outcome.next (fence_held hfresh hheld), fun hclocks => ?_⟩
    have hrun : run = .next (fenceSet v rx.payload) := congrArg Host.Outcome.next (fence_running hfresh hclocks)
    exact ⟨fun hold => hrun.trans (congrArg _ (fenceSet_old hold)), fun hnew =>
      ⟨fun hset hmode => hrun.trans (congrArg _ (fenceSet_joined hnew hset hmode)),
        fun hset hmode => ⟨_, rfl, fence_active hfresh hclocks hnew hset hmode⟩,
        fun hclear hmode => hrun.trans (congrArg _ (fenceSet_fenced hnew hclear hmode))⟩⟩
  · intro due
    refine ⟨fun h => congrArg _ (beaconSend_silent h), fun hoff haux hrec => ?_⟩
    obtain ⟨hsbq, hsent, hother, hframe⟩ := foldl_sendBeacon (s := s) (ps := due) ((sbPorts_nodup s).filter _)
      fun p hp => sb_of_mem_sbPorts (List.mem_filter.1 hp).1
    exact ⟨due.foldl sendBeacon s, congrArg Host.Outcome.next (beaconSend_serviced hoff haux hrec), hsbq, hsent, hother, hframe⟩
  · intro q
    refine ⟨fun haux hsb halive hlate => congrArg Host.Outcome.next (neighbourSilent_late haux hsb halive hlate),
      fun hheard => congrArg Host.Outcome.next (neighbourSilent_heard hheard), ?_, sideSend_occupied⟩
    intro c y pre suf e beats hwaits hsb hfree hmay hc hbeats holdest
    exact GoesFirst.sideSend_eq ⟨hwaits, rfl, sideRank_ordered_lt p.val c y, hmay, hbeats, holdest⟩ rfl hc hsb hfree

end

section
/-! SUPPORT. A request for the spare at an output whose entry in the table of outputs stands there twice, which no canonical form has. The copy
that it is sending is cut at swarm time 0 and none is left, so that the entry reads as reset leaves it and goes from the table; and the entry
behind it is read from then on. -/

namespace Sys2Proof.Machine

/-- A copy that takes until time 1. -/
def leavingCopy (id : Nat) : Copy := { frame := id, circuit := none, stomp := false, doneAt := 1 }

/-- A module in READY with port 3 up; output 3 is listed twice: with a copy of frame 0 alone, and behind that with one of frame 1. -/
def twiceOutput : State := { State.reset with
  dev := { mode := .ready, bootStage := 0x18, main54Good := true, pwrEn := true, pwrGood := true }
  ports := [(3, { tx := .up, rx := .up, mfp := 3, sb := true })]
  comb := { egress := [(3, { copies := [leavingCopy 0] }), (3, { copies := [leavingCopy 1] })] } }

/-- The SPARE_REQ of logical lane 0 from the peer of port 3 (10 Table 10.6). -/
def spareAsked : WaggleRx := {
  set := { port := 3, payload := 0, chk := crc8 (codeWaggle :: bytesOfNat 0 5), violation := false }
  bits := withWagCrc (BitVec.ofNat 512 (pack [(0, 8, 4), (8, 8, 3)])) }

theorem wagHeard_spareAsked : wagHeard twiceOutput spareAsked 4 = true := by decide +kernel

/-- Frame 0 is not held, and so not one of which nothing had left. -/
theorem unstarted_twiceOutput (t : Nat) : unstarted twiceOutput 3 t (leavingCopy 0) = false := rfl

/-- What output 3 has afterwards is the copy of frame 1, which it did not have before. -/
theorem copies_spareReq_twiceOutput :
    (tblGet {} (spareReq spareAsked twiceOutput).comb.egress 3).copies.map (·.frame) = [1] := by decide +kernel

end Sys2Proof.Machine

open Sys2Proof Sys2Proof.Machine

/-- Refutes O60: SPARE_REQ need not leave the output's other copies and none else. On a table of outputs that is not canonical the entry that
the cut copy leaves can be what reset leaves, and a copy of the entry behind it is read in its place. -/
theorem not_laneSparing : ¬ Obligations.LaneSparing := by
  rintro ⟨-, -, hspareReq, -⟩
  obtain ⟨-, hsparing⟩ := hspareReq twiceOutput spareAsked wagHeard_spareAsked
  obtain ⟨t, hexec, -, -, -, -, -, hcopies⟩ := hsparing (by decide) rfl rfl rfl
  have ht : spareReq spareAsked twiceOutput = t := Host.Outcome.next.inj hexec
  have hnone : (tblGet {} t.comb.egress 3).copies.map (·.frame) = [] :=
    (hcopies (leavingCopy 0) [] (by decide) rfl (by decide)).trans
      (congrArg (List.map Copy.frame) (if_neg (ne_true_of_eq_false (unstarted_twiceOutput _))))
  rw [← ht, copies_spareReq_twiceOutput] at hnone
  exact absurd hnone (by decide)

end

section
/-! SUPPORT. What serves several families of Sceuf commands: fields of packed records, and the outcome of a row whose request is accepted. -/

namespace Sys2Proof

/-- A field of a record built from packed fields reads as the value that was put there, cut to the field. -/
theorem fld_ofNat_pack_mod {n lo len v : Nat} {fs : List (Nat × Nat × Nat)} (h : fieldsWithin n 0 fs = true) (hm : (lo, len, v) ∈ fs) :
    fld (BitVec.ofNat n (pack fs)) lo len = v % 2 ^ len := by
  rw [fld_eq_nfld, BitVec.toNat_ofNat, Nat.mod_eq_of_lt (pack_lt h), nfld_pack h hm]

end Sys2Proof

namespace Sys2Proof.Machine

/-- The outcome of a row whose request is accepted and whose command is done, or is refused. -/
theorem next_done {c : Cmd} {src : ReqSrc} {s t : State} {r : Req} {resp : List Word} (h : accepted c src s r = true)
    (hr : c.run (takeReq s r) r = done t resp) :
    (.next (runCmd c src s) : Host.Outcome State Fault Refusal) = .next (okReply t r resp) := congrArg _ (runCmd_done h hr)

theorem next_refused {c : Cmd} {src : ReqSrc} {s t : State} {r : Req} {st : Status} {d : Nat} (h : accepted c src s r = true)
    (hr : c.run (takeReq s r) r = refused t st d) :
    (.next (runCmd c src s) : Host.Outcome State Fault Refusal) = .next (respond t r st.code d []) := congrArg _ (runCmd_refused_at h hr)

end Sys2Proof.Machine
end

section
/-! SUPPORT. The checks of a Sceuf command in their order (12 R345, R351, R357; 15 R440): what `checkAndRun` answers at the first one that fails. -/

namespace Sys2Proof.Machine

/-- A front request that repeats no answered TAG gets the answer of the checks (12 R345, R350). -/
theorem runCmd_refusedBy {c : Cmd} {src : ReqSrc} {s t : State} {r : Req} {st : Status} {d : Nat} (hfront : frontReq c.code src s = some r)
    (hnew : repeated s r = none) (h : checkAndRun c (takeReq s r) r = refused t st d) : runCmd c src s = respond t r st.code d [] := by
  simp only [runCmd, hfront, hnew, h]
  rfl

/-- A front request that repeats an answered TAG gets that answer again (12 R350). -/
theorem runCmd_repeated {c : Cmd} {src : ReqSrc} {s : State} {r : Req} {m : List Word} (hfront : frontReq c.code src s = some r)
    (h : repeated s r = some m) : runCmd c src s = sendMsg (takeReq s r) r.src r.peer m := by
  simp only [runCmd, hfront, h]

/-- What shuts a command out whatever it asks: its transport does not carry it, the boot ROM does not serve it, or a lock-out stands. -/
def shutOut (c : Cmd) (u : State) (r : Req) : Bool :=
  byFabric r && !fabricCarries c.code || u.dev.recovery && !recoveryServes c.code || c.locked u

/-- LENGTH goes past the command's arguments or past a mailbox (assumption 51). -/
def tooLong (c : Cmd) (r : Req) : Bool := decide (c.full r < reqLen r.w1 || 4032 < reqLen r.w1)

/-- The checks of LENGTH, the arguments, authorisation and the device state, which follow those of the session, the transport and the
lock-out (12 R357); then the command. -/
def laterChecks (c : Cmd) (u : State) (r : Req) : Ended :=
  if c.full r < reqLen r.w1 || 4032 < reqLen r.w1 then refused u .badArg 10
  else
    match c.form u r with
    | some off => refused u .badArg off
    | none =>
      if !c.auth u r then refused u .denied
      else if (c.states u r).testBit u.dev.mode.code || u.dev.recovery then c.run u r
      else stateRefusal u (c.states u r)

section checks
variable {c : Cmd} {u : State} {r : Req}

theorem checkAndRun_session {st : Status} {d : Nat} (h : sessionCheck u r = some (st, d)) : checkAndRun c u r = refused u st d := by
  simp only [checkAndRun, h]

variable (hsession : sessionCheck u r = none)
include hsession

/-- Only a lock-out that answers drops the nonce (15 R440). -/
theorem checkAndRun_shutOut (h : shutOut c u r = true) : ∃ n,
    checkAndRun c u r = refused { u with sec := { u.sec with nonce := n } } .denied ∧ (c.locked u = false → n = u.sec.nonce) := by
  unfold checkAndRun
  rw [hsession]
  dsimp only
  split
  · exact ⟨u.sec.nonce, rfl, fun _ => rfl⟩
  · rename_i hfabric
    split
    · exact ⟨u.sec.nonce, rfl, fun _ => rfl⟩
    · rename_i hrecovery
      have hlocked : c.locked u = true := by simpa only [shutOut, hfabric, hrecovery, Bool.false_or] using h
      rw [if_pos hlocked]
      exact ⟨none, rfl, fun h => absurd hlocked (by rw [h]; decide)⟩

variable (hopen : shutOut c u r = false)
include hopen

theorem checkAndRun_open : checkAndRun c u r = laterChecks c u r := by
  simp only [shutOut, Bool.or_eq_false_iff] at hopen
  obtain ⟨⟨hfabric, hrecovery⟩, hlocked⟩ := hopen
  simp only [checkAndRun, hsession, hfabric, hrecovery, hlocked, Bool.false_eq_true, if_false]
  rfl

theorem checkAndRun_tooLong (h : tooLong c r = true) : checkAndRun c u r = refused u .badArg 10 := by
  rw [checkAndRun_open hsession hopen, laterChecks, if_pos (of_decide_eq_true h)]

variable (hshort : tooLong c r = false)
include hshort

theorem checkAndRun_form {off : Nat} (h : c.form u r = some off) : checkAndRun c u r = refused u .badArg off := by
  rw [checkAndRun_open hsession hopen, laterChecks, if_neg (of_decide_eq_false hshort), h]

variable (hform : c.form u r = none)
include hform

theorem checkAndRun_auth (h : c.auth u r = false) : checkAndRun c u r = refused u .denied := by
  rw [checkAndRun_open hsession hopen, laterChecks, if_neg (of_decide_eq_false hshort), hform, h]
  rfl

theorem checkAndRun_state (hauth : c.auth u r = true) (hrom : u.dev.recovery = false) (h : (c.states u r).testBit u.dev.mode.code = false) :
    checkAndRun c u r = stateRefusal u (c.states u r) := by
  rw [checkAndRun_open hsession hopen, laterChecks, if_neg (of_decide_eq_false hshort), hform, hauth, hrom, h]
  rfl

end checks

/-- In FENCED the answer to a command that JOINED or ACTIVE accepts is FENCED (12 R356). -/
theorem stateRefusal_eq (u : State) (mask : Nat) : stateRefusal u mask =
    if u.dev.mode = .fenced ∧ (mask.testBit 4 = true ∨ mask.testBit 5 = true) then refused u .fenced 0xFF else refused u .stateConflict mask := by
  simp only [stateRefusal, Bool.and_eq_true, Bool.or_eq_true, beq_iff_eq]

end Sys2Proof.Machine

open Sys2Proof Sys2Proof.Machine

/-- Settles O7: the request's first failing check gives the answer, and the state is the one with the request taken off the list. -/
theorem sceufRefusal : Obligations.SceufRefusal := by
  intro c src s r hfront u shut long
  refine ⟨fun m h => runCmd_repeated hfront h, fun hnew => ⟨fun st d h => ?_, fun hs h => ?_, fun hs ho h => ?_, fun off hs ho hl h => ?_,
    fun hs ho hl hf h => ?_, fun hs ho hl hf ha hrom h => ?_⟩⟩
  · exact runCmd_refusedBy hfront hnew (checkAndRun_session h)
  · obtain ⟨n, hrun, hn⟩ := checkAndRun_shutOut (c := c) hs h
    exact ⟨n, runCmd_refusedBy hfront hnew hrun, hn⟩
  · exact runCmd_refusedBy hfront hnew (checkAndRun_tooLong hs ho h)
  · exact runCmd_refusedBy hfront hnew (checkAndRun_form hs ho hl h)
  · exact runCmd_refusedBy hfront hnew (checkAndRun_auth hs ho hl hf h)
  · have hrun := checkAndRun_state hs ho hl hf ha hrom h
    rw [stateRefusal_eq] at hrun
    split
    · rename_i hfenced
      exact runCmd_refusedBy hfront hnew (hrun.trans (if_pos hfenced))
    · rename_i hfenced
      exact runCmd_refusedBy hfront hnew (hrun.trans (if_neg hfenced))

end

section
/-! SUPPORT. The step commands (12 R364; 13 R379, R389; assumption 59): what each does for a key that runs here, by SEQ and by how far its
step has come. -/

namespace Sys2Proof.Machine

section seq
variable {u : State} {r : Req} {st : Step} (hst : u.job.step = some st)
include hst

theorem seqCheck_below (h : rn r 1 < st.seq) : seqCheck u (rn r 1) = some (.stateConflict, 0) := by
  simp only [seqCheck, hst, h, if_true]

theorem seqCheck_above (h : st.seq < rn r 1) : seqCheck u (rn r 1) = some (.badArg, 8) := by
  simp only [seqCheck, hst, Nat.lt_asymm h, h, if_true, if_false]

theorem seqCheck_same (h : rn r 1 = st.seq) : seqCheck u (rn r 1) = none := by
  simp only [seqCheck, hst, h, Nat.lt_irrefl, if_false]

end seq

section step
variable {u : State} {r : Req} {l : Launch} {st : Step} (hl : u.job.launch = some l)
include hl

theorem keyRuns_iff : keyRuns u (rn r 0) = true ↔ l.pkey = rn r 0 := by
  simp only [keyRuns, hl, beq_iff_eq]

/-- A key that does not run here conflicts. -/
theorem commitStepRun_otherKey (h : l.pkey ≠ rn r 0) : commitStepRun u r = refused u .stateConflict := by
  simp only [commitStepRun, Bool.eq_false_iff.2 (mt (keyRuns_iff hl).1 h), Bool.not_false, if_true]

theorem abort_otherKey (h : l.pkey ≠ rn r 0) : abortCmd.run u r = refused u .stateConflict := by
  simp only [abortCmd, Bool.eq_false_iff.2 (mt (keyRuns_iff hl).1 h), Bool.not_false, if_true]

theorem replayStepRun_otherKey (h : l.pkey ≠ rn r 0) : replayStepRun u r = refused u .stateConflict := by
  simp only [replayStepRun, Bool.eq_false_iff.2 (mt (keyRuns_iff hl).1 h), Bool.not_false, if_true]

variable (hkey : l.pkey = rn r 0)
include hkey

theorem abort_run : abortCmd.run u r = done (abortStep u) := by
  simp only [abortCmd, (keyRuns_iff hl).2 hkey, Bool.not_true, Bool.false_eq_true, if_false]

/-- COMMIT_STEP and REPLAY_STEP are refused as SEQ says. -/
theorem commitStepRun_seq {e : Status} {d : Nat} (h : seqCheck u (rn r 1) = some (e, d)) : commitStepRun u r = refused u e d := by
  simp only [commitStepRun, (keyRuns_iff hl).2 hkey, h, Bool.not_true, Bool.false_eq_true, if_false]

theorem replayStepRun_seq {e : Status} {d : Nat} (h : seqCheck u (rn r 1) = some (e, d)) : replayStepRun u r = refused u e d := by
  simp only [replayStepRun, (keyRuns_iff hl).2 hkey, h, Bool.not_true, Bool.false_eq_true, if_false]

variable (hst : u.job.step = some st) (hseq : rn r 1 = st.seq)
include hst hseq

theorem commitStepRun_same :
    commitStepRun u r = done { u with job := { u.job with step := some { st with authorised := true } } } := by
  simp only [commitStepRun, (keyRuns_iff hl).2 hkey, seqCheck_same hst hseq, Bool.not_true, Bool.false_eq_true, if_false, modStep,
    hst, Option.map_some]

/-- A step that has been voted for or commits is not replayed. -/
theorem replayStepRun_voted (h : st.voted = true ∨ st.committing = true) :
    replayStepRun u r = refused u .stateConflict := by
  simp only [replayStepRun, (keyRuns_iff hl).2 hkey, seqCheck_same hst hseq, hst, Bool.not_true, Bool.false_eq_true, if_false,
    Bool.or_eq_true, h, if_true]

section unvoted
variable (hvoted : st.voted = false) (hcommitting : st.committing = false)
include hvoted hcommitting

theorem replayStepRun_sound (h : st.poisoned = none) : replayStepRun u r = done (raisePoison u .hostReplay) := by
  simp only [replayStepRun, (keyRuns_iff hl).2 hkey, seqCheck_same hst hseq, hst, hvoted, hcommitting, h, Option.isSome_none,
    Bool.not_true, Bool.or_false, Bool.false_eq_true, if_false]

/-- On a poisoned step the hold is released on every member: the set goes out on every sideband (13 R389). -/
theorem replayStepRun_poisoned {x : Nat × Nat} (h : st.poisoned = some x) : replayStepRun u r = done { u with
    sbq := u.sbq ++ (sbPorts u).flatMap fun p => List.replicate 3 (.ordered p codePoison (poisonPayload l.pkey st.seq 20))
    job := { u.job with step := some { st with held := false, startL := if st.held then logicNs u else st.startL } } } := by
  simp only [replayStepRun, (keyRuns_iff hl).2 hkey, seqCheck_same hst hseq, hst, hvoted, hcommitting, h, Option.isSome_some,
    Bool.not_true, Bool.or_false, Bool.false_eq_true, if_false, if_true, sendSets_eq, releaseHold, modStep, Option.map_some, hkey]
  rfl

end unvoted
end step

section abort
variable {u : State} {st : Step} (hst : u.job.step = some st)
include hst

theorem abortStep_committing (h : st.committing = true) : abortStep u = { u with job := { u.job with stopRun := true } } := by
  simp only [abortStep, hst, h, if_true]

theorem abortStep_voted (h : st.committing = false) (hv : st.voted = true) :
    abortStep u = { u with job := { u.job with step := some { st with abortPending := true } } } := by
  simp only [abortStep, hst, h, hv, Bool.false_eq_true, if_false, if_true, modStep, Option.map_some]

theorem abortStep_open (h : st.committing = false) (hv : st.voted = false) : abortStep u = raisePoison u .hostAbort := by
  simp only [abortStep, hst, h, hv, Bool.false_eq_true, if_false]

end abort

theorem abortStep_noStep {u : State} (h : u.job.step = none) : abortStep u = endLaunch u := by
  simp only [abortStep, h]

end Sys2Proof.Machine

open Sys2Proof Sys2Proof.Machine

/-- Settles O18: each command ends as its key, its SEQ and the state of the step in progress say. -/
theorem stepCommands : Obligations.StepCommands := by
  refine ⟨fun src s r l hl hst hkey ha => ?_, fun src s r l st => ?_⟩
  · exact next_done ha ((abort_run (u := takeReq s r) hl hkey).trans (congrArg (done ·) (abortStep_noStep hst)))
  intro u conflict replay commit abort hl hst
  refine ⟨fun hkey => ⟨fun ha hseq => ?_, fun hlt => ⟨fun ha => ?_, fun ha => ?_⟩, fun hlt => ⟨fun ha => ?_, fun ha => ?_⟩, fun ha hc => ?_,
    fun ha hc hv => ?_, fun ha hc hv => ?_, fun ha hseq hv => ?_, fun ha hseq hv hc hp => ?_, fun x ha hseq hv hc hp => ?_⟩,
    fun hkey => ⟨fun ha => ?_, fun ha => ?_, fun ha => ?_⟩⟩
  · exact next_done ha (commitStepRun_same (u := u) hl hkey hst hseq)
  · exact next_refused ha (commitStepRun_seq (u := u) hl hkey (seqCheck_below hst hlt))
  · exact next_refused ha (replayStepRun_seq (u := u) hl hkey (seqCheck_below hst hlt))
  · exact next_refused ha (commitStepRun_seq (u := u) hl hkey (seqCheck_above hst hlt))
  · exact next_refused ha (replayStepRun_seq (u := u) hl hkey (seqCheck_above hst hlt))
  · exact next_done ha ((abort_run (u := u) hl hkey).trans (congrArg (done ·) (abortStep_committing hst hc)))
  · exact next_done ha ((abort_run (u := u) hl hkey).trans (congrArg (done ·) (abortStep_voted hst hc hv)))
  · exact next_done ha ((abort_run (u := u) hl hkey).trans (congrArg (done ·) (abortStep_open hst hc hv)))
  · exact next_refused ha (replayStepRun_voted (u := u) hl hkey hst hseq hv)
  · exact next_done ha (replayStepRun_sound (u := u) hl hkey hst hseq hv hc hp)
  · exact next_done ha (replayStepRun_poisoned (u := u) hl hkey hst hseq hv hc hp)
  · exact next_refused ha (commitStepRun_otherKey (u := u) hl hkey)
  · exact next_refused ha (abort_otherKey (u := u) hl hkey)
  · exact next_refused ha (replayStepRun_otherKey (u := u) hl hkey)

end

section
/-! SUPPORT. Where a Sceuf response goes (12 R346 to R350): the mailbox that it fills, the MBOX frame or the datagram that carries it. -/

namespace Sys2Proof

@[simp] theorem length_bytesOfWords (ws : List Word) : (bytesOfWords ws).length = 8 * ws.length := by
  induction ws with
  | nil => rfl
  | cons w ws ih =>
    rw [bytesOfWords] at ih ⊢
    rw [List.flatMap_cons, List.length_append, length_bytesOfNat, ih, List.length_cons]
    omega

/-- A word read off its own bytes. -/
theorem wordsOfBytes_bytesOfWords_cons (w : Word) (ws : List Word) (n : Nat) :
    wordsOfBytes (bytesOfWords (w :: ws)) (n + 1) = w :: wordsOfBytes (bytesOfWords ws) n := by
  have hlen : (bytesOfNat w.toNat 8).length = 8 := length_bytesOfNat ..
  have hw : natOfBytes (bytesOfNat w.toNat 8) = w.toNat := natOfBytes_bytesOfNat_of_lt w.isLt
  rw [bytesOfWords, List.flatMap_cons, wordsOfBytes, List.take_left' hlen, List.drop_left' hlen, hw, BitVec.ofNat_toNat, BitVec.setWidth_eq]
  rfl

/-- Bit 1 of a word once it has been set. -/
theorem flag_setFlag_one (w : Word) : flag (setFlag w 1 true) 1 = true := by
  have hw := w.isLt
  simp only [flag, setFlag, setFld, fld, BitVec.getLsbD, BitVec.toNat_ofNat, Nat.testBit_eq_decide_div_mod_eq, Nat.shiftLeft_eq,
    Nat.shiftRight_eq_div_pow, Bool.toNat_true, decide_eq_true_eq]
  omega

/-- A byte of an entry that a filter drops reads as the default. -/
theorem tblGet_filter_dropped {α : Type} (d : α) (t : Tbl α) {p : Nat × α → Bool} {k : Nat} (h : ∀ v, p (k, v) = false) :
    tblGet d (t.filter p) k = d := by
  refine tblGet_nomem d _ k fun e he hk => ?_
  obtain ⟨k', v⟩ := e
  obtain rfl : k' = k := hk
  exact absurd (List.mem_filter.1 he).2 (by rw [h v]; decide)

end Sys2Proof

namespace Sys2Proof.Machine

section frame
variable (cls pkey dtype op dest src cfid step seq : Nat) (ack : Bool) (a : Word) (bs : List Byte)

theorem frmOp_mkFrame : frmOp (mkFrame cls pkey dtype op dest src cfid step seq ack a bs) = op % 64 :=
  fld_ofNat_pack_mod rfl (by simp)

theorem frmDest_mkFrame : frmDest (mkFrame cls pkey dtype op dest src cfid step seq ack a bs) = dest % 65536 :=
  fld_ofNat_pack_mod rfl (by simp)

end frame

/-- Host mailbox n filled with zeros. -/
def mailboxCleared (s : State) (n : Fin 64) : Mem :=
  s.host.bar2.filter fun e => !(decide (4096 * n.val ≤ e.1) && decide (e.1 < 4096 * n.val + 4096))

/-- The message of a response: its header, then its words (12 Table 12.4). -/
def respMsg (s : State) (r : Req) (st d : Nat) (resp : List Word) : List Word := respHeader s r st d (8 * resp.length) ++ resp

theorem length_respMsg (s : State) (r : Req) (st d : Nat) (resp : List Word) : (respMsg s r st d resp).length = 8 + resp.length := by
  simp only [respMsg, respHeader, List.length_append, List.length_cons, List.length_nil]

theorem msix_bar2 (s : State) (v : Nat) : (msix s v).host.bar2 = s.host.bar2 := by
  obtain ⟨o, p, h⟩ := msix_frame s v
  rw [h]

/-- A response by a fabric mailbox or the management port is kept where its session stands (12 R350). -/
def respKept (s : State) (r : Req) (msg : List Word) : State := if (sessionOf s r).isSome then keepResp s r msg else s

theorem respKept_eq (s : State) (r : Req) (msg : List Word) : ∃ kept, respKept s r msg = { s with sceuf := { s.sceuf with kept := kept } } := by
  unfold respKept
  split
  · exact ⟨_, rfl⟩
  · exact ⟨s.sceuf.kept, rfl⟩

section respond
variable {s : State} {r : Req} (st d : Nat) (resp : List Word)

theorem respond_host_bar2 {n : Fin 64} (h : r.src = .host n) :
    (respond s r st d resp).host.bar2 = memWrite (mailboxCleared s n) (4096 * n.val) (bytesOfWords (respMsg s r st d resp)) := by
  simp only [respond, h, mailboxCleared, respMsg]
  split
  · rw [msix_bar2]
  · dsimp only

theorem respond_host_out {n : Fin 64} (h : r.src = .host n) :
    (respond s r st d resp).out = if flag r.w1 0 && s.host.busMaster then s.out ++ [.msix n.val] else s.out := by
  simp only [respond, h, msix]
  cases flag r.w1 0 <;> cases s.host.busMaster <;> rfl

theorem respond_fabric {n : Fin 16} (h : r.src = .fabric n) :
    respond s r st d resp = sendMsg (respKept s r (respMsg s r st d resp)) (.fabric n) r.peer (respMsg s r st d resp) := by
  simp only [respond, h]
  rfl

theorem respond_mgmt (h : r.src = .mgmt) :
    respond s r st d resp = sendMsg (respKept s r (respMsg s r st d resp)) .mgmt r.peer (respMsg s r st d resp) := by
  simp only [respond, h]
  rfl

end respond

/-- A message on a fabric mailbox leaves as an MBOX frame from management, with RESP set (12 R349). -/
theorem sendMsg_fabric (s : State) (n : Fin 16) (peer : BitVec 32) (a b : Word) (rest : List Word) :
    ∃ f, sendMsg s (.fabric n) peer (a :: b :: rest) =
        { s with comb := { s.comb with orig := s.comb.orig ++ [{ input := 113, owner := 1000, frame := f, who := 65 }] } } ∧
      frmOp f = 7 ∧ frmDest f = peer.toNat % 65536 ∧ flag (arg (wordsOfBytes f.payload 2) 1) 1 = true := by
  refine ⟨_, rfl, frmOp_mkFrame .., frmDest_mkFrame .., ?_⟩
  have hpayload : wordsOfBytes (bytesOfWords (a :: setFlag b 1 true :: rest)) 2 = [a, setFlag b 1 true] := by
    rw [wordsOfBytes_bytesOfWords_cons, wordsOfBytes_bytesOfWords_cons]
    rfl
  exact (congrArg (fun ws => flag (arg ws 1) 1) hpayload).trans (flag_setFlag_one b)

end Sys2Proof.Machine

open Sys2Proof Sys2Proof.Machine

/-- Settles O8: a mailbox is cleared and written over; the other answers leave as a frame or a datagram. -/
theorem sceufResponse : Obligations.SceufResponse := by
  intro s r st d resp
  refine ⟨fun n hsrc hwf hlen => ?_, fun n hsrc => ?_, fun hsrc => ?_⟩
  · intro t bytes
    have hbar : t.host.bar2 = memWrite (mailboxCleared s n) (4096 * n.val) bytes := respond_host_bar2 st d resp hsrc
    have hbytes : bytes.length ≤ 4096 := by
      have := length_respMsg s r st d resp
      have h8 : bytes.length = 8 * (respMsg s r st d resp).length := length_bytesOfWords _
      omega
    rw [hbar]
    refine ⟨fun i hi => memByte_write_same _ _ _ _ (memWf_filter _ _ hwf) hi, fun i hlo hhi => ?_, fun a ha => ?_, respond_host_out st d resp hsrc⟩
    · rw [memByte_write_other _ _ _ _ (Or.inr (by omega))]
      refine tblGet_filter_dropped _ _ fun v => ?_
      simp only [Bool.not_eq_false', Bool.and_eq_true, decide_eq_true_eq]
      omega
    · rw [memByte_write_other _ _ _ _ (by omega)]
      refine tblGet_filter _ _ _ (fun x => !(decide (4096 * n.val ≤ x) && decide (x < 4096 * n.val + 4096))) ?_
      simp only [Bool.not_eq_true', Bool.and_eq_false_iff, decide_eq_false_iff_not]
      omega
  · obtain ⟨kept, hkept⟩ := respKept_eq s r (respMsg s r st d resp)
    rw [respond_fabric st d resp hsrc, hkept]
    obtain ⟨f, hsent, hframe⟩ := sendMsg_fabric { s with sceuf := { s.sceuf with kept := kept } } n r.peer _ _ _
    exact ⟨(congrArg State.host hsent :), f, (congrArg (fun t => t.comb.orig) hsent :), hframe⟩
  · obtain ⟨kept, hkept⟩ := respKept_eq s r (respMsg s r st d resp)
    rw [respond_mgmt st d resp hsrc, hkept]
    exact ⟨rfl, rfl⟩

end

section
/-! SUPPORT. Sessions, test mode and membership (12 R341, R349, R352, R354, R358; 08 R237; 13 R369): what each command of the session family ends
with. -/

namespace Sys2Proof.Machine

/-- The highest major that both sides speak (12 R352). -/
theorem commonMajor_eq {lo hi m : Nat} (h1 : 1 ≤ m) (h3 : m ≤ 3) (hlo : lo ≤ m) (hhi : m ≤ hi) (hmost : ∀ m', m < m' → m' ≤ 3 → hi < m') :
    commonMajor lo hi = some m := by
  have hnot : ∀ m', m < m' → m' ≤ 3 → (decide (lo ≤ m') && decide (m' ≤ hi)) = false := fun m' h h' => by
    simp [Nat.not_le.2 (hmost m' h h')]
  have hyes : (decide (lo ≤ m) && decide (m ≤ hi)) = true := by simp [hlo, hhi]
  obtain rfl | rfl | rfl : m = 1 ∨ m = 2 ∨ m = 3 := by omega
  · simp only [commonMajor, List.find?_cons, hyes, hnot 3 (by decide) (by decide), hnot 2 (by decide) (by decide)]
  · simp only [commonMajor, List.find?_cons, hyes, hnot 3 (by decide) (by decide)]
  · simp only [commonMajor, List.find?_cons, hyes]

/-- OPEN_SESSION with a common major and a session free (12 R352, R354). -/
theorem openSessionRun_ok {u : State} {r : Req} {m : Nat} (hm : commonMajor (rn r 0) (rn r 1) = some m) (hfree : u.sceuf.sessions.length < 16) :
    let x : Session := { id := BitVec.ofNat 32 (freshSession u), kind := srcKind r.src, peer := r.peer, major := m }
    let v := { u with sceuf := { u.sceuf with sessions := u.sceuf.sessions ++ [x], nextSession := freshSession u + 1 } }
    let w := if u.dev.mode = .ready ∧ u.comp.slots = [] then showClusters (renumber v) else v
    openSessionRun u r = done w
      ([BitVec.ofNat 64 (freshSession u), BitVec.ofNat 64 m, BitVec.ofNat 64 (minorOf m)] ++ identityWords w) := by
  simp only [openSessionRun, hm, Nat.not_le.2 hfree, if_false, Bool.and_eq_true, beq_iff_eq, List.isEmpty_iff]

theorem setTestMode_on (u : State) : setTestMode u true = { u with
    dev := { u.dev with testMode := true }
    sec := { u.sec with m5 := if u.dev.testMode then u.sec.m5 else Config.sha384 (bytesOfNat u.sec.m5.toNat 48 ++ [1]) } } := by
  cases h : u.dev.testMode <;> simp only [setTestMode, h, if_true, Bool.false_eq_true, if_false]
  rfl

/-- A FORWARD that passes its checks sends its frame and waits (12 R349). -/
theorem forward_accepted {src : ReqSrc} {s : State} {r : Req} (h : accepted forwardCmd src s r = true) :
    forward src s = forwardRun (takeReq s r) r := by
  obtain ⟨front, first, run⟩ := checkAndRun_accepted h
  simp only [forward, front, first, run]
  rfl

section join
variable {u : State} {r : Req}

theorem joinRun_ready (h : u.dev.mode = .ready) : joinRun u r = done (setMode { u with dev := { u.dev with
    epoch := BitVec.ofNat 32 (rn r 0), detStrict := rn r 1 == 1, safety := rn r 2 == 1 } } .joined) := by
  simp only [joinRun, h, beq_self_eq_true, if_true]

variable (hmode : u.dev.mode ≠ .ready)
include hmode

theorem joinRun_old (h : rn r 0 ≤ u.dev.epoch.toNat) : joinRun u r = refused u .badArg 0 := by
  simp only [joinRun, beq_eq_false_iff_ne.2 hmode, h, if_true, Bool.false_eq_true, if_false]

/-- In JOINED only the epoch rises. -/
theorem joinRun_joined (h : u.dev.mode = .joined) (hnew : u.dev.epoch.toNat < rn r 0) (hdet : (rn r 1 == 1) = u.dev.detStrict)
    (hsafe : (rn r 2 == 1) = u.dev.safety) : joinRun u r = done { u with dev := { u.dev with epoch := BitVec.ofNat 32 (rn r 0) } } := by
  have hactive : (u.dev.mode == .active) = false := by rw [h]; rfl
  simp only [joinRun, beq_eq_false_iff_ne.2 hmode, hactive, Nat.not_le.2 hnew, hdet, hsafe, bne_self_eq_false, Bool.or_false, Bool.false_eq_true,
    if_false]

end join
end Sys2Proof.Machine

open Sys2Proof Sys2Proof.Machine

/-- Settles O9: each command is accepted and ends as its own run says. -/
theorem sessionCommands : Obligations.SessionCommands := by
  refine ⟨fun src s r => ?_, fun src s r => ?_⟩ <;> intro u
  · refine ⟨fun m ha h1 h3 hlo hhi hmost hfree => ?_, fun ha => ?_, fun ha => ?_, fun ha => ?_, fun ha => ?_, fun ha => ?_⟩
    · exact next_done ha (openSessionRun_ok (u := u) (commonMajor_eq h1 h3 hlo hhi hmost) hfree)
    · exact next_done ha rfl
    · exact next_done ha rfl
    · exact next_done ha rfl
    · by_cases hon : rn r 0 = 1
      · rw [if_pos hon]
        exact next_done ha (congrArg (done ·) ((congrArg (setTestMode u) (beq_iff_eq.2 hon)).trans (setTestMode_on u)))
      · rw [if_neg hon]
        exact next_done ha (congrArg (done ·) (congrArg (setTestMode u) (beq_eq_false_iff_ne.2 hon)))
    · exact congrArg Host.Outcome.next (forward_accepted ha)
  · refine ⟨fun ha => ?_, fun ha hm => ?_, fun ha hm hnew hdet hsafe => ?_, fun ha hm hold => ?_, fun ha => ?_, fun ha hbusy => ?_,
      fun ha hbusy => ?_⟩
    · exact next_done ha rfl
    · exact next_done ha (joinRun_ready (u := u) hm)
    · exact next_done ha (joinRun_joined (u := u) (by rw [show u.dev.mode = .joined from hm]; decide) hm hnew hdet hsafe)
    · exact next_refused ha (joinRun_old (u := u) hm hold)
    · exact next_done ha rfl
    · exact next_done ha (if_neg (ne_true_of_eq_false hbusy))
    · exact next_refused ha (if_pos hbusy)

end

section
/-! SUPPORT. A launch whose group reads CMAP past the end of HBM (09 R276): Table 9.5 gives BLKLOG 0 to 5, which no hypothesis of the statement
asks of a group, and one of 6 or 7 needs entries behind the 2,112 bytes that a block of up to 32 members has. -/

namespace Sys2Proof.Machine

/-- A group by circuits of 128 members, this one the last, in one block of BLKLOG 7, with CMAP in the last 2,112 bytes of HBM. -/
def wideGroup : BitVec 320 := ofWords 320 [0x7F007F0009, 0x1C000, 0, 0xC000000000 - 2112, 0]

/-- The launch of a drone under key 1: no cluster, no forager, no issue record. -/
def droneRequest : Req := { src := .host 0, peer := 0, w0 := 0x30302, w1 := 40 * 65536, w2 := 1, args := [0x100000000, 0, 0, 0, 0] }

/-- A joined module that can commit key 1, with its rings set, that group, and the launch as the oldest request. -/
def wideGroupJoined : State := { State.reset with
  dev := { mode := .joined, bootStage := 0x18 }
  sceuf := { sessions := [{ id := 1, kind := 0, peer := 0, major := 3 }], accepted := [droneRequest] }
  fab := { windows := [(1, 0x8000)], circuits := [(0, 0x80)] }
  host := { ringsSet := true }
  coll := { groups := [(0, wideGroup)] } }

theorem accepted_wideGroupJoined : accepted launchCmd (.host 0) wideGroupJoined droneRequest = true := by decide +kernel

theorem tablesClean_wideGroupJoined : tablesClean wideGroupJoined := by
  unfold tablesClean
  decide +kernel

/-- The choice of the group's algorithm reads past HBM's end, which fails the step (11 R312). -/
theorem launch_wideGroupJoined : (runCmd launchCmd (.host 0) wideGroupJoined).job.step.any (·.fail.isSome) = true := by decide +kernel

end Sys2Proof.Machine

open Sys2Proof Sys2Proof.Machine

/-- Refutes O17: a group with BLKLOG 7 needs entries of CMAP behind its first 2,112 bytes; where these end HBM, the first step of the launch
has failed as it starts. -/
theorem not_launchBegins : ¬ Obligations.LaunchBegins := by
  rintro ⟨hbegins, -⟩
  obtain ⟨t, hexec, -, hstep, -⟩ := hbegins (.host 0) wideGroupJoined droneRequest false [] 0 rfl (fun _ => by decide +kernel)
    (by decide +kernel) (by decide +kernel) (by decide +kernel) rfl accepted_wideGroupJoined tablesClean_wideGroupJoined
  have hrun : runCmd launchCmd (.host 0) wideGroupJoined = okReply t droneRequest [] := Host.Outcome.next.inj hexec
  have hfail := launch_wideGroupJoined
  rw [hrun, okReply, respond_job, hstep] at hfail
  split at hfail
  · exact absurd hfail (by decide)
  · exact absurd hfail (by decide)

end

section
/-! SUPPORT. The BARs (12 R340, R343, R346; 08 R238): what a host write of one byte does, and the frames of the debug aperture. -/

namespace Sys2Proof.Machine

theorem chunksOf_short {α : Type} {n : Nat} {l : List α} (h0 : 0 < l.length) (hn : l.length ≤ n) (fuel : Nat) :
    chunksOf n (fuel + 1) l = [l] := by
  have hne : l.isEmpty = false := by cases l <;> simp at h0 ⊢
  have hrest : chunksOf n fuel ([] : List α) = [] := by cases fuel <;> simp [chunksOf]
  rw [chunksOf, hne, List.take_of_length_le hn, List.drop_eq_nil_of_le hn, hrest]
  rfl

/-- Up to 4,096 bytes go to HBM in one frame (12 R343). -/
theorem hostWrites_short (s : State) (a : Nat) {bs : List Byte} (h0 : 0 < bs.length) (hn : bs.length ≤ 4096) :
    hostWrites s a bs = hostFrame s 1 a bs := by
  simp only [hostWrites, chunksOf_short h0 hn, List.foldl_cons, List.foldl_nil]

section aperture
variable {s : State} (haux : auxOn s = true)
include haux

theorem bar4Read_eq (off : BitVec 30) (n : Nat) : bar4Read off n s = if apertureOpen s off n
    then hostFrame s 3 (apertureAddr s off) (bytesOfWords [BitVec.ofNat 64 n, 0]) else emit s (.hostRead (List.replicate n 0xFF#8)) := by
  simp only [bar4Read, haux, Bool.not_true, Bool.false_eq_true, if_false]

theorem bar4Write_eq (off : BitVec 30) (bs : List Byte) : bar4Write off bs s =
    if apertureOpen s off bs.length then hostWrites s (apertureAddr s off) bs else count s .winDenied := by
  simp only [bar4Write, haux, Bool.not_true, Bool.false_eq_true, if_false]

/-- A byte for a BUSY mailbox is ignored and counted (12 R346). -/
theorem registerWrite_busy {o : Nat} (b : Byte) (ho : o < 262144) (h : mboxStatus s (o / 4096) = 0x8001) :
    registerWrite .bar2 o [b] s = count s .mboxLocked := by
  simp only [registerWrite, haux, regBytes, regByte, h, ho, beq_self_eq_true, decide_true, List.isEmpty_cons, Bool.not_true, Bool.not_false, Bool.or_true,
    Bool.and_true, Bool.false_eq_true, if_false, if_true]

theorem registerWrite_idle {o : Nat} (b : Byte) (ho : o < 262144) (h : mboxStatus s (o / 4096) ≠ 0x8001) :
    registerWrite .bar2 o [b] s = { s with host := { s.host with bar2 := bar2Byte s.host.bar2 o b } } := by
  simp only [registerWrite, haux, regBytes, regByte, beq_eq_false_iff_ne.2 h, Nat.not_le.2 ho, decide_false, Bool.not_true, Bool.or_false,
    Bool.and_false, Bool.false_eq_true, if_false]

theorem registerWrite_msix {o : Nat} (b : Byte) (hlo : 0x8000 ≤ o) (hhi : o < 0x8480) : registerWrite .bar0 o [b] s =
    { s with host := { s.host with msixTable := memSetByte s.host.msixTable (o - 0x8000) b } } := by
  have hwin : ¬ o < 0x2020 := by omega
  simp only [registerWrite, haux, regBytes, regByte, hwin, hlo, hhi, decide_true, decide_false, Bool.and_true, Bool.and_false, Bool.false_and,
    Bool.not_true, Bool.false_eq_true, if_false, if_true]

/-- WIN_BASE and WIN_EN take a byte while APERTURE is unlocked (12 R343). -/
theorem registerWrite_window {o : Nat} (b : Byte) (hlo : 0x2018 ≤ o) (hhi : o < 0x2020) : registerWrite .bar0 o [b] s =
    if scopeAperture s then { s with host := { s.host with win := winByte s.host.win (o - 0x2018) b } } else count s .winDenied := by
  have hend : 0x2018 < o + 1 := by omega
  cases hscope : scopeAperture s <;>
    simp only [registerWrite, haux, regBytes, regByte, hscope, hlo, hhi, hend, decide_true, List.length_cons, List.length_nil, Nat.zero_add,
      Bool.not_true, Bool.not_false, Bool.and_true, Bool.false_eq_true, if_false, if_true]

omit haux in
/-- Past the MSI-X table BAR0 has no register that a byte reaches. -/
theorem regBytes_past {o : Nat} (h : 0x8480 ≤ o) (bs : List Byte) : regBytes s .bar0 o bs = s := by
  induction bs generalizing o with
  | nil => rfl
  | cons b bs ih =>
    have hbyte : regByte s .bar0 o b = s := by
      have hwin : ¬ o < 0x2020 := by omega
      have htable : ¬ o < 0x8000 + 1152 := by omega
      simp only [regByte, hwin, htable, decide_false, Bool.and_false, Bool.false_eq_true, if_false]
    rw [regBytes, hbyte]
    exact ih (by omega)

theorem registerWrite_past {o : Nat} (h : 0x8480 ≤ o) (bs : List Byte) : registerWrite .bar0 o bs s = s := by
  have hwin : ¬ o < 0x2020 := by omega
  simp only [registerWrite, haux, regBytes_past h, hwin, decide_false, Bool.and_false, Bool.false_and, Bool.not_true, Bool.false_eq_true, if_false]

end aperture
end Sys2Proof.Machine

open Sys2Proof Sys2Proof.Machine

/-- Settles O20: each access to a BAR by the range that it falls in. -/
theorem hostAccess : Obligations.HostAccess := by
  intro s haux
  refine ⟨fun off n => ?_, fun off bs => ?_, fun off bs h0 hn => ?_, fun o b ho h => ?_, fun o b ho h => ?_, fun o b hlo hhi => ?_,
    fun o b hlo hhi => ?_, fun o bs h => ?_⟩
  · exact congrArg Host.Outcome.next (bar4Read_eq haux off n)
  · exact congrArg Host.Outcome.next (bar4Write_eq haux off bs)
  · exact hostWrites_short s _ h0 hn
  · exact congrArg Host.Outcome.next (registerWrite_busy haux b ho h)
  · exact congrArg Host.Outcome.next (registerWrite_idle haux b ho h)
  · exact congrArg Host.Outcome.next (registerWrite_msix haux b hlo hhi)
  · exact congrArg Host.Outcome.next (registerWrite_window haux b hlo hhi)
  · exact congrArg Host.Outcome.next (registerWrite_past haux h bs)

end

section
/-! SUPPORT. A malformed MBOX frame that is a response by its RESP bit (12 R349): the row of requests leaves it where it waits. -/

namespace Sys2Proof.Machine

/-- An MBOX frame of TC0, where R349 asks for TC7, with RESP set. -/
def misfitResponse : Frame := { w0 := 0x1C000000, w1 := 0, w2 := 16, w3 := 0, payload := bytesOfWords [0, 2], crc := 0 }

/-- It waits for its target on a module whose firmware runs. -/
def misfitArrived : State := { State.reset with dev := { bootStage := 2 }, comb := { localIn := [misfitResponse] } }

theorem misfitResponse_malformed : mboxForm misfitResponse = false := by decide +kernel

theorem takeLocal_misfitArrived : takeLocal misfitArrived misfitResponse 7 = some (taken misfitArrived misfitResponse) := by decide +kernel

theorem mbox_misfitArrived : mbox misfitResponse misfitArrived = misfitArrived := by decide +kernel

end Sys2Proof.Machine

open Sys2Proof Sys2Proof.Machine

/-- Refutes O21: a malformed frame is taken and dropped only by the row that its RESP bit names. With RESP set, MBOX leaves the state as it
is, so the frame still waits. -/
theorem not_requestsArrive : ¬ Obligations.RequestsArrive := by
  rintro ⟨harrive, -, -⟩
  obtain ⟨-, -, -, -, hmalformed, -⟩ := harrive misfitArrived
  have hdropped := hmalformed _ _ takeLocal_misfitArrived (by decide) misfitResponse_malformed
  have hstays : exec (.mbox misfitResponse) misfitArrived = .next misfitArrived := congrArg Host.Outcome.next mbox_misfitArrived
  rw [hstays] at hdropped
  have hwaits := congrArg (fun t => t.comb.localIn.length) (Host.Outcome.next.inj hdropped)
  exact absurd hwaits (by decide +kernel)

end

section
/-! SUPPORT. The service family (12 Table 12.9; 13 R391, R396; 14 R417, R421, R426; assumption 61): the words that its commands answer, and logs
with entries cleared. -/

namespace Sys2Proof.Machine

/-- GET_HEALTH's flags (assumption 61). -/
theorem packW_flags (a b c : Bool) : packW [(0, 1, a.toNat), (1, 1, b.toNat), (2, 1, c.toNat)] =
    BitVec.ofNat 64 (a.toNat + 2 * b.toNat + 4 * c.toNat) := by
  cases a <;> cases b <;> cases c <;> rfl

section logs
variable (s : State) (log k n : Nat)

theorem map_cutList {α β : Type} (f : α → β) (l : List α) (k n : Nat) : (cutList l k n).map f = cutList (l.map f) k n := by
  unfold cutList
  split <;> simp [List.map_take, List.map_drop]

theorem logEntries_clearLogs_same : logEntries (clearLogs s log k n) log = cutList (logEntries s log) k n := by
  rcases log with _ | _ | _ | _ | log <;> exact map_cutList ..

theorem logEntries_clearLogs_other {log j : Nat} (hlog : log ≤ 4) (hj : j < 5) (h : j ≠ log) :
    logEntries (clearLogs s log k n) j = logEntries s j := by
  interval_cases log <;> interval_cases j <;> trivial

theorem clearLogs_frame : let t := clearLogs s log k n
    t = { s with
      hbm := { s.hbm with corrLog := t.hbm.corrLog, errLog := t.hbm.errLog, integrityLog := t.hbm.integrityLog }
      dev := { s.dev with safetyLog := t.dev.safetyLog, eventLog := t.dev.eventLog } } := by
  intro t
  simp only [t, clearLogs]
  split <;> rfl

end logs

section power
variable (s : State)

/-- The power record, field by field (14 Table 14.9). -/
theorem powerWords_fields : ∃ a b c, powerWords s = [a, b, c] ∧
    fld a 0 16 = s.power.vin.toNat ∧ fld a 16 16 = s.power.iin.toNat ∧ fld a 32 16 = s.power.pin.toNat ∧ fld a 48 16 = s.power.cap % 65536 ∧
    fld b 4 4 = s.power.levelCap % 16 ∧ fld b 8 4 = s.power.levelCur % 16 ∧ fld b 12 4 = s.power.levelTherm % 16 ∧
    b.getLsbD 16 = s.power.thermtrip ∧ b.getLsbD 17 = !s.dev.leakN ∧
    (∀ k, k < 5 → fld c (8 * k) 8 = (s.power.tj.getD k 0).toNat) ∧ fld c 40 8 = s.power.th.toNat := by
  have h16 : ∀ x : BitVec 16, x.toNat % 2 ^ 16 = x.toNat := fun x => Nat.mod_eq_of_lt x.isLt
  have h8 : ∀ x : Byte, x.toNat % 2 ^ 8 = x.toNat := fun x => Nat.mod_eq_of_lt x.isLt
  refine ⟨_, _, _, rfl, ?_, ?_, ?_, ?_, ?_, ?_, ?_, ?_, ?_, fun k hk => ?_, ?_⟩
  · exact (fld_ofNat_pack_mod rfl (by simp)).trans (h16 s.power.vin)
  · exact (fld_ofNat_pack_mod rfl (by simp)).trans (h16 s.power.iin)
  · exact (fld_ofNat_pack_mod rfl (by simp)).trans (h16 s.power.pin)
  · exact fld_ofNat_pack_mod rfl (by simp)
  · exact fld_ofNat_pack_mod rfl (by simp)
  · exact fld_ofNat_pack_mod rfl (by simp)
  · exact fld_ofNat_pack_mod rfl (by simp)
  · exact flag_ofNat_pack rfl (by simp)
  · exact flag_ofNat_pack rfl (by simp)
  · exact (fld_ofNat_pack_mod rfl (List.mem_append_left _ (List.mem_map.2 ⟨k, List.mem_range.2 hk, rfl⟩))).trans (h8 _)
  · exact (fld_ofNat_pack_mod rfl (by simp)).trans (h8 s.power.th)

end power

/-- WIN_BASE and WIN_EN in their register (12 R343). -/
theorem packW_window {a b : Nat} (ha : a ≤ 0x3FF) (hb : b ≤ 1) : packW [(0, 10, a), (63, 1, b)] = BitVec.ofNat 64 (a + 2 ^ 63 * b) := by
  have hpack : pack [(0, 10, a), (63, 1, b)] = a + 2 ^ 63 * b := by
    simp only [pack, Nat.shiftLeft_eq]
    omega
  rw [packW, hpack]

/-- The words of READOUT: an open function of what a stopped module holds, and of the request's first three words (assumption 11). -/
def readoutWords (s : State) (r : Req) : List Word :=
  (List.range (ceilDiv (rn r 2) 8)).map fun k => Config.scanWord (scanHeld s) (rn r 0) (rn r 1 + 8 * k)

theorem readoutWords_congr {s s' : State} {r r' : Req} (hs : scanHeld s' = scanHeld s) (hr : ∀ i, i < 3 → rw r' i = rw r i) :
    readoutWords s' r' = readoutWords s r := by
  have hn : ∀ i, i < 3 → rn r' i = rn r i := fun i hi => congrArg BitVec.toNat (hr i hi)
  simp only [readoutWords, hs, hn 0 (by decide), hn 1 (by decide), hn 2 (by decide)]

end Sys2Proof.Machine

open Sys2Proof Sys2Proof.Machine

/-- Settles O22: each command is accepted and ends as its own run says; what it answers, and what it changes, are the laws above. -/
theorem serviceCommands : Obligations.ServiceCommands := by
  intro src s r u
  refine ⟨fun ha => ?_, fun ha => ?_, fun ha => ?_, fun ha => ?_, fun ha => ?_, fun ha => ?_, fun ha => ?_, fun ha => ?_, fun ha => ?_, fun ha => ?_⟩
  · exact next_done ha (congrArg (fun w => done u [BitVec.ofNat 64 s.health.score, w]) (packW_flags ..))
  · exact next_done ha rfl
  · exact next_done ha rfl
  · have hlog : rn r 0 ≤ 4 := wordsForm_none (accepted_form ha) 0 (by decide)
    refine ⟨clearLogs u (rn r 0) (rn r 1) (rn r 2), next_done ha rfl, fun k hk => ?_, clearLogs_frame u ..⟩
    intro old
    split
    · rename_i h
      subst h
      exact logEntries_clearLogs_same u ..
    · rename_i h
      exact logEntries_clearLogs_other u _ _ hlog hk h
  · exact next_done ha rfl
  · obtain ⟨a, b, c, hwords, hfields⟩ := powerWords_fields u
    exact ⟨a, b, c, next_done ha (congrArg (done u ·) hwords), hfields⟩
  · exact next_done ha rfl
  · refine ⟨readoutWords u r, ?_, next_done ha rfl, fun src' s' r' ha' hs hr => ?_⟩
    · simp only [readoutWords, List.length_map, List.length_range, ceilDiv]
      omega
    · exact next_done ha' (congrArg (done _ ·) (readoutWords_congr (s := u) (s' := takeReq s' r') hs hr))
  · exact next_done ha rfl
  · have hwords : ∀ i (hi : i < 2), rn r i ≤ [0x3FF, 1][i] := wordsForm_none (accepted_form ha)
    rw [← packW_window (hwords 0 (by decide)) (hwords 1 (by decide))]
    exact next_done ha rfl

end

section
/-! SUPPORT. The host's rings (12 R365 to R367): when a record fits, what its writing sends, and the PAD before one that would cross the end. -/

namespace Sys2Proof.Machine

variable {s : State}

theorem ringsRun_busMaster (h : ringsRun s = true) : s.host.busMaster = true := by
  simp only [ringsRun, Bool.and_eq_true] at h
  exact h.1.2

/-- A vector goes out while bus mastering is enabled. -/
theorem msix_busMaster (h : s.host.busMaster = true) (v : Nat) : msix s v = emit s (.msix v) := if_pos h

theorem tokensFit_one : tokensFit s 1 = true ↔
    (s.host.tokenWptr - s.host.tokenRptr).toNat % 2 ^ s.host.tlog + 64 ≤ 2 ^ s.host.tlog :=
  decide_eq_true_iff

section token
variable {x : TokenRec} {r : List TokenRec} (hheld : s.host.tokenHeld = x :: r)
include hheld

theorem tokenRecord_waits (h : tokensFit s 1 = false) : tokenRecord s = s := by
  simp only [tokenRecord, hheld, h, Bool.not_false, Bool.or_true, if_true]

theorem tokenRecord_writes (hrun : ringsRun s = true) (h : tokensFit s 1 = true) :
    let w := BitVec.ofNat 64 ((s.host.tokenWptr.toNat + 32) % 2 ^ s.host.tlog)
    tokenRecord s = { s with
      out := s.out ++ [.hostWrite (s.host.tokenBase + s.host.tokenWptr) (tokenBytes x), .hostWrite s.host.ptrAddr (bytesOfNat w.toNat 8), .msix 64]
      host := { s.host with tokenHeld := r, tokenWptr := w } } := by
  intro w
  have hbus : s.host.busMaster = true := ringsRun_busMaster hrun
  simp only [tokenRecord, hheld, hrun, h, Bool.not_true, Bool.or_false, Bool.false_eq_true, if_false]
  refine (msix_busMaster (by exact hbus) 64).trans ?_
  simp only [emit, List.append_assoc, List.cons_append, List.nil_append]
  rfl

end token

section completion
variable {x : List Byte} {r : List (List Byte)} (hheld : s.host.cmplHeld = x :: r)

/-- A single record fits with the PAD before it (12 R365). -/
theorem cmplFit_one : cmplFit s [x] = true ↔ (s.host.cmplWptr - s.host.cmplRptr).toNat % 2 ^ s.host.clog +
    (padBefore (s.host.cmplWptr.toNat % 2 ^ s.host.clog) x.length (2 ^ s.host.clog) + x.length) + 128 ≤ 2 ^ s.host.clog :=
  decide_eq_true_iff

theorem padBefore_inside {o n size : Nat} (h : o + n ≤ size) : padBefore o n size = 0 := if_neg (Nat.not_lt.2 h)
theorem padBefore_across {o n size : Nat} (h : size < o + n) : padBefore o n size = size - o := if_pos h

include hheld

theorem completionRecord_waits (h : cmplFit s [x] = false) : completionRecord s = s := by
  simp only [completionRecord, hheld, h, Bool.not_false, Bool.or_true, if_true]

variable (hrun : ringsRun s = true) (hfit : cmplFit s [x] = true)
include hrun hfit

/-- A record that ends within the ring goes where the pointer stands. -/
theorem completionRecord_inside (h : s.host.cmplWptr.toNat % 2 ^ s.host.clog + x.length ≤ 2 ^ s.host.clog) :
    let off := s.host.cmplWptr.toNat % 2 ^ s.host.clog
    let w := BitVec.ofNat 64 ((off + x.length) % 2 ^ s.host.clog)
    completionRecord s = { s with
      out := s.out ++ [.hostWrite (s.host.cmplBase + BitVec.ofNat 64 off) x, .hostWrite (s.host.ptrAddr + 8) (bytesOfNat w.toNat 8), .msix 65]
      host := { s.host with cmplHeld := r, cmplWptr := w } } := by
  intro off w
  have hbus : s.host.busMaster = true := ringsRun_busMaster hrun
  have hoff : (off + 0) % 2 ^ s.host.clog = off := Nat.mod_mod _ _
  simp only [completionRecord, hheld, hrun, hfit, padBefore_inside h, Bool.not_true, Bool.or_false, Bool.false_eq_true, if_false, if_true]
  rw [hoff]
  refine (msix_busMaster (by exact hbus) 65).trans ?_
  simp only [emit, List.append_assoc, List.cons_append, List.nil_append]
  rfl

/-- A record that would cross the ring's end goes to its start, behind a PAD. -/
theorem completionRecord_across (h : 2 ^ s.host.clog < s.host.cmplWptr.toNat % 2 ^ s.host.clog + x.length) :
    let off := s.host.cmplWptr.toNat % 2 ^ s.host.clog
    let w := BitVec.ofNat 64 (x.length % 2 ^ s.host.clog)
    completionRecord s = { s with
      out := s.out ++ [.hostWrite (s.host.cmplBase + BitVec.ofNat 64 off) (padRecord (2 ^ s.host.clog - off)), .hostWrite s.host.cmplBase x,
        .hostWrite (s.host.ptrAddr + 8) (bytesOfNat w.toNat 8), .msix 65]
      host := { s.host with cmplHeld := r, cmplWptr := w } } := by
  intro off w
  have hbus : s.host.busMaster = true := ringsRun_busMaster hrun
  have hlt : off < 2 ^ s.host.clog := Nat.mod_lt _ (Nat.two_pow_pos _)
  have hpad : 2 ^ s.host.clog - off ≠ 0 := by omega
  have hstart : (off + (2 ^ s.host.clog - off)) % 2 ^ s.host.clog = 0 := by rw [Nat.add_sub_cancel' hlt.le, Nat.mod_self]
  simp only [completionRecord, hheld, hrun, hfit, padBefore_across h, Bool.not_true, Bool.or_false, Bool.false_eq_true, if_false]
  rw [if_neg hpad, hstart]
  refine (msix_busMaster (by exact hbus) 65).trans ?_
  simp only [emit, List.append_assoc, List.cons_append, List.nil_append, Nat.zero_add]
  simp only [BitVec.ofNat_eq_ofNat, BitVec.add_zero]
  rfl

end completion

end Sys2Proof.Machine

open Sys2Proof Sys2Proof.Machine

/-- Settles O42: a record is written once it fits, and its PAD with it. -/
theorem hostRings : Obligations.HostRings := by
  intro s
  refine ⟨fun h => ?_, fun h => ?_, fun x r hheld hrun => ⟨fun h => ?_, fun h => ?_⟩, fun x r hheld hrun => ?_⟩
  · exact congrArg Host.Outcome.next (by simp only [tokenRecord, h])
  · exact congrArg Host.Outcome.next (by simp only [completionRecord, h])
  · exact congrArg Host.Outcome.next (tokenRecord_writes hheld hrun (tokensFit_one.2 h))
  · refine congrArg Host.Outcome.next (tokenRecord_waits hheld (Bool.eq_false_iff.2 fun hfit => ?_))
    have := tokensFit_one.1 hfit
    omega
  · dsimp only
    refine ⟨fun hin hroom => ?_, fun hout hroom => ?_, fun hroom => ?_⟩
    · refine congrArg Host.Outcome.next (completionRecord_inside hheld hrun (cmplFit_one.2 ?_) hin)
      rw [padBefore_inside hin]
      omega
    · refine congrArg Host.Outcome.next (completionRecord_across hheld hrun (cmplFit_one.2 ?_) hout)
      rw [padBefore_across hout]
      omega
    · refine congrArg Host.Outcome.next (completionRecord_waits hheld (Bool.eq_false_iff.2 fun hfit => ?_))
      have := cmplFit_one.1 hfit
      omega

end

section
/-! SUPPORT. One step, a command's or an empty queue's, keeps all of `Steady` but the queue that it takes its command from (13 R369, R391;
15 R440, R441). -/

namespace Sys2Proof.Machine

/-- What a step does, it does `Steady` from the state whose queue has lost its front. -/
theorem step_steady {s t : State} (h : step s = .next t) : Steady { s with pending := s.pending.tail } t := by
  unfold step at h
  split at h
  · rename_i hempty
    obtain rfl := Host.Outcome.next.inj h
    have hsame : { s with pending := s.pending.tail } = s := by rw [hempty, List.tail_nil, ← hempty]
    exact hsame.symm ▸ tick_steady s
  · rename_i c rest hfront
    rw [hfront]
    exact exec_steady c _ t h

theorem safetyNeedsDet_iff (s : State) : safetyNeedsDet s = true ↔ (s.dev.safety = true → s.dev.detStrict = true) := by
  unfold safetyNeedsDet
  cases s.dev.safety <;> simp

theorem scopesHaveEnd_iff (s : State) : scopesHaveEnd s = true ↔ (s.sec.scopeEnd = none → s.sec.scopes = 0) := by
  unfold scopesHaveEnd
  cases s.sec.scopeEnd <;> simp

theorem alertFollows_iff (s : State) : alertFollows s = true ↔ s.dev.alertN = !s.dev.replaceRequest := beq_iff_eq

end Sys2Proof.Machine

open Sys2Proof Sys2Proof.Machine

/-- Settles O5: each of the three agreements is part of `Steady`, which every command and every idle root cycle keep. -/
theorem stateBitsAgree : Obligations.StateBitsAgree := by
  refine ⟨fun s t hs hstep => ?_, fun s t hs hstep => ?_, fun s t hs hstep => ?_⟩
  · rw [safetyNeedsDet_iff] at hs ⊢
    exact (step_steady hstep).safety hs
  · rw [scopesHaveEnd_iff] at hs ⊢
    exact (step_steady hstep).scopes hs
  · rw [alertFollows_iff] at hs ⊢
    exact (step_steady hstep).alert hs

end

section
/-! SUPPORT. Frames taken by their target (08 Table 8.2), and the step in progress with a change. -/

namespace Sys2Proof.Machine

variable {s : State} {f : Frame} {l : Launch} {st : Step}

/-- A frame that waits for its target is taken from where it waits. -/
theorem takeLocal_atTarget {n : Nat} (h : atTarget s f n) : takeLocal s f n = some (taken s f) := by
  obtain ⟨-, hop, hwaits⟩ := h
  rw [takeLocal, if_pos (by simp [hop, hwaits]), taken, eraseFirst_eq_eraseP, List.erase_eq_eraseP']

@[simp] theorem taken_job : (taken s f).job = s.job := rfl
@[simp] theorem taken_dev : (taken s f).dev = s.dev := rfl
@[simp] theorem taken_health : (taken s f).health = s.health := rfl
@[simp] theorem attemptGone_taken (key : Nat) : attemptGone (taken s f) key = attemptGone s key := rfl
@[simp] theorem isCommitRank_taken (key : Nat) : isCommitRank (taken s f) key = isCommitRank s key := rfl

theorem modStep_job_step (hst : s.job.step = some st) (g : Step → Step) : (modStep s g).job.step = some (g st) :=
  congrArg (Option.map g) hst

/-- Whether an attempt can act, by the fields that say so (13 R372 to R379). -/
theorem attemptOpen_iff : attemptOpen st = true ↔ st.poisoned = none ∧ st.held = false ∧ st.voted = false ∧ st.committing = false := by
  simp [attemptOpen, and_assoc]

end Sys2Proof.Machine
end

section
/-! SUPPORT. Twin digests (13 R383): the comparison once both are at hand, and the rows that lead to it. -/

namespace Sys2Proof.Machine

variable {s : State} {l : Launch} {st : Step}

/-- The twin's digest speaks of this attempt and agrees with its own. -/
def digestsAgree (l : Launch) (st : Step) (full argW : Word) (lid : BitVec 32) : Prop :=
  full = fullDigest l st ∧ argW = BitVec.ofNat 64 st.seq ∧ lid = l.id

section compare
variable (hl : s.job.launch = some l) (hst : s.job.step = some st)
include hl hst

/-- Nothing is compared before both digests are there. -/
theorem twinCompare_waits (h : st.twinSent = none ∨ st.twinRx = none) : twinCompare s = s := by
  unfold twinCompare
  rw [hl, hst]
  obtain h | h := h
  · simp [h]
  · cases hsent : st.twinSent <;> simp [h, hsent]

section both
variable {x : Nat} {full argW : Word} {lid : BitVec 32} (hsent : st.twinSent = some x) (hrx : st.twinRx = some (full, argW, lid))
include hsent hrx

theorem twinCompare_agree (h : digestsAgree l st full argW lid) : twinCompare s =
    { modStep s fun x => { x with twinMatched := true } with health := { s.health with twinTimeouts := 0 } } := by
  obtain ⟨hfull, hseq, hid⟩ := h
  unfold twinCompare
  simp only [hl, hst, hsent, hrx, hfull, hseq, hid, BEq.rfl, Bool.and_self, if_true]
  rfl

theorem twinCompare_differ (h : ¬digestsAgree l st full argW lid) : twinCompare s =
    if l.safety = false then count (modStep s fun x => { x with twinMatched := true }) .digestMismatch
    else if s.job.twinMiss = st.attempt ∧ st.attempt ≠ 0 then safeEntry s .twin 0
    else raisePoison { s with
      job := { s.job with twinMiss := st.attempt + 1 }
      health := { s.health with pendingMiss := s.health.pendingMiss + 1 } } .digestMismatch := by
  have hcond : (full == fullDigest l st && argW == BitVec.ofNat 64 st.seq && lid == l.id) = false := by
    simpa [digestsAgree, ← and_assoc] using h
  unfold twinCompare
  simp only [hl, hst, hsent, hrx, hcond, Bool.false_eq_true, if_false, Bool.not_eq_true', Bool.and_eq_true, decide_eq_true_eq, bne_iff_ne]

end both
end compare

/-- The step with the twin's digest as a TWIN frame brings it (Table 13.5). -/
def twinHeard (f : Frame) (x : Step) : Step :=
  { x with twinRx := some (digestWord f 1, f.w3, BitVec.ofNat 32 (fld (digestWord f 3) 0 32)) }

theorem ofNat_fld_eq_iff (w : Word) (x : BitVec 32) : BitVec.ofNat 32 (fld w 0 32) = x ↔ fld w 0 32 = x.toNat := by
  rw [← BitVec.toNat_inj, BitVec.toNat_ofNat, Nat.mod_eq_of_lt]
  exact nfld_lt _ 0 32

theorem digestsAgree_iff {full argW w : Word} : digestsAgree l st full argW (BitVec.ofNat 32 (fld w 0 32)) ↔
    full = fullDigest l st ∧ argW = BitVec.ofNat 64 st.seq ∧ fld w 0 32 = l.id.toNat := by
  rw [digestsAgree, ofNat_fld_eq_iff]

theorem twin_eq {f : Frame} (hl : s.job.launch = some l) (hst : s.job.step = some st) (hpair : s.health.paired = true)
    (hat : atTarget s f 8) (hkind : fld (digestWord f 0) 0 4 = 1) :
    twin f s = if attemptGone s l.pkey = true then taken s f else twinCompare (modStep (taken s f) (twinHeard f)) := by
  simp [twin, takeLocal_atTarget hat, hat.1, hkind, hl, hst, hpair]
  rfl

/-- The digest that the module sends on port 31 (Table 13.5). -/
def twinDigest (s : State) (l : Launch) (st : Step) : Frame :=
  mkFrame 7 0 3 8 31 s.dev.eid.toNat 0 (stepField s l.pkey) 0 false (BitVec.ofNat 64 st.seq)
    (digestPayload s l 1 0 st.invalid l.det 0 false 0 (fullDigest l st) st.replica)

/-- The digest can go out before the vote, and after it where the comparison gates nothing. -/
theorem twinOpen_iff : twinOpen l st = true ↔
    attemptOpen st = true ∨ (l.safety = false ∧ st.voted = true ∧ st.poisoned = none ∧ st.held = false ∧ st.committing = false) := by
  rw [twinOpen, attemptOpen_iff, attemptOpen_iff]
  cases st.voted <;> cases l.safety <;> simp

section own
variable (hl : s.job.launch = some l) (hst : s.job.step = some st)
include hl hst

theorem twinSend_unfinished (h : workDone s l = false) : twinSend s = s := by simp [twinSend, hl, hst, h]

theorem twinSend_done (hrun : unitsRun s = true) (hpair : s.health.paired = true) (hopen : twinOpen l st = true) (hfail : st.fail = none)
    (hsent : st.twinSent = none) (hdone : workDone s l = true) (hrx : st.twinRx = none) :
    twinSend s = originateMgmt (modStep s fun x => { x with twinSent := some (logicNs s) }) (twinDigest s l st) := by
  unfold twinSend
  simp only [hl, hst, hrun, hpair, hopen, hfail, hsent, hdone, Option.isNone_none, Bool.and_self, if_true]
  exact twinCompare_waits (s := originateMgmt _ _) hl (modStep_job_step hst _) (.inr hrx)

theorem digestTimeout_early {x : Nat} (hsent : st.twinSent = some x) (h : logicNs s < x + 10000) : digestTimeout s = s := by
  simp [digestTimeout, hl, hst, hsent, Nat.not_le.2 h]

theorem digestTimeout_late {x : Nat} (hsent : st.twinSent = some x) (hrun : unitsRun s = true) (hsafety : l.safety = true)
    (hpair : s.health.paired = true) (hopen : attemptOpen st = true) (hrx : st.twinRx = none) (h : x + 10000 ≤ logicNs s) :
    digestTimeout s = raisePoison (if 3 ≤ s.health.twinTimeouts + 1 then
        recomputeHealth (count { s with health := { s.health with twinLost := true, paired := false, twinTimeouts := 0 } } .twinLost)
      else { s with health := { s.health with twinTimeouts := s.health.twinTimeouts + 1 } }) .digestTimeout := by
  simp [digestTimeout, hl, hst, hsent, hrun, hsafety, hpair, hopen, hrx, h]

end own

end Sys2Proof.Machine

open Sys2Proof Sys2Proof.Machine

/-- Settles O40: TWIN_SEND sends and has nothing to compare, TWIN compares what has come with what was sent, DIGEST_TIMEOUT counts. -/
theorem twinDigests : Obligations.TwinDigests := by
  intro s l st hl hst hrun hpair
  refine ⟨fun hopen hfail hsent hdone hrx => ?_, fun h => ?_, fun f => ?_, fun x hsent hsafety hopen hrx hlate => ?_, fun x hsent h => ?_⟩
  · exact congrArg Host.Outcome.next (twinSend_done hl hst hrun hpair (twinOpen_iff.2 hopen) hfail hsent hdone hrx)
  · exact congrArg Host.Outcome.next (twinSend_unfinished hl hst h)
  · intro u good hat hkind
    have htwin : exec (.twin f) s = .next (if attemptGone s l.pkey = true then taken s f else twinCompare u) :=
      congrArg Host.Outcome.next (twin_eq hl hst hpair hat hkind)
    refine ⟨fun hgone => by rw [htwin, if_pos hgone], fun hgone => ?_⟩
    rw [htwin, if_neg (ne_true_of_eq_false hgone)]
    have hl' : u.job.launch = some l := hl
    have hst' : u.job.step = some (twinHeard f st) := modStep_job_step (s := taken s f) hst (twinHeard f)
    refine ⟨fun h => ?_, fun x hx h => ?_, fun x hx h hs => ?_, fun x hx h hs hmiss hagain => ?_, fun x hx h hs hfirst => ?_⟩
    · rw [twinCompare_waits hl' hst' (.inl h)]
    · rw [twinCompare_agree hl' hst' hx rfl (digestsAgree_iff.2 h)]
      rfl
    all_goals rw [twinCompare_differ hl' hst' hx rfl (mt digestsAgree_iff.1 h)]
    · rw [if_pos hs]
    · rw [if_neg (ne_false_of_eq_true hs), if_pos ⟨hmiss, hagain⟩]
    · rw [if_neg (ne_false_of_eq_true hs), if_neg fun ⟨hmiss, hagain⟩ => hfirst.elim (· hmiss) hagain]
      rfl
  · have htimeout : exec .digestTimeout s = .next _ :=
      congrArg Host.Outcome.next (digestTimeout_late hl hst hsent hrun hsafety hpair hopen hrx hlate)
    exact ⟨fun h => by rw [htimeout, if_neg (Nat.not_le.2 h)], fun h => by rw [htimeout, if_pos h]⟩
  · exact congrArg Host.Outcome.next (digestTimeout_early hl hst hsent h)

end

section
/-! SUPPORT. The votes that the commit rank holds (13 R380, R384): the lowest class whose digests differ, and the decision. -/

namespace Sys2Proof.Machine

/-- The least value of a list's chosen members, as a fold finds it. -/
theorem foldl_least {α : Type} (p : α → Bool) (c : α → Nat) (l : List α) (a : Option Nat) :
    l.foldl (fun a v => if p v then (match a with
      | some b => some (min b (c v))
      | none => some (c v)) else a) a = (a.toList ++ (l.filter p).map c).min? := by
  induction l generalizing a with
  | nil => cases a <;> simp
  | cons v l ih =>
    rw [List.foldl_cons, ih]
    cases hp : p v <;> cases a <;> simp [hp, List.min?]

/-- Two votes of a class hold different REPLICA digests. -/
def classDiffers (vs : List Vote) (lg k : Nat) : Prop :=
  ∃ x ∈ vs, ∃ y ∈ vs, x.rank % 2 ^ lg = k ∧ y.rank % 2 ^ lg = k ∧ x.replica ≠ y.replica

theorem lowestMismatch_eq_min? (vs : List Vote) (lg : Nat) : lowestMismatch vs lg =
    ((vs.filter fun v => vs.any fun w => w.rank % 2 ^ lg == v.rank % 2 ^ lg && w.replica != v.replica).map fun v => v.rank % 2 ^ lg).min? :=
  foldl_least ..

/-- The classes among which the lowest is looked for. -/
theorem mem_differing_iff {vs : List Vote} {lg k : Nat} :
    k ∈ ((vs.filter fun v => vs.any fun w => w.rank % 2 ^ lg == v.rank % 2 ^ lg && w.replica != v.replica).map fun v => v.rank % 2 ^ lg) ↔
      classDiffers vs lg k := by
  simp only [List.mem_map, List.mem_filter, List.any_eq_true, Bool.and_eq_true, beq_iff_eq, bne_iff_ne, classDiffers]
  constructor
  · rintro ⟨v, ⟨hv, w, hw, hclass, hne⟩, rfl⟩
    exact ⟨w, hw, v, hv, hclass, rfl, hne⟩
  · rintro ⟨x, hx, y, hy, hxk, hyk, hne⟩
    exact ⟨y, ⟨hy, x, hx, hxk.trans hyk.symm, hne⟩, hyk⟩

theorem lowestMismatch_eq_none {vs : List Vote} {lg : Nat} : lowestMismatch vs lg = none ↔ ∀ k, ¬classDiffers vs lg k := by
  simp only [lowestMismatch_eq_min?, List.min?_eq_none_iff, List.eq_nil_iff_forall_not_mem, mem_differing_iff]

theorem lowestMismatch_eq_some {vs : List Vote} {lg k : Nat} (hk : classDiffers vs lg k) (hlow : ∀ j, j < k → ¬classDiffers vs lg j) :
    lowestMismatch vs lg = some k := by
  rw [lowestMismatch_eq_min?, List.min?_eq_some_iff]
  exact ⟨mem_differing_iff.2 hk, fun j hj => Nat.le_of_not_lt fun hlt => hlow j hlt (mem_differing_iff.1 hj)⟩

variable {s : State} {l : Launch} {st : Step}

/-- Some vote held speaks for a FAIL: a module has failed, or DET differs from the launch's (R380). -/
def failVoted (vs : List Vote) (l : Launch) : Prop := (∃ x ∈ vs, x.fail = true) ∨ ∃ x ∈ vs, x.det ≠ l.det

/-- With every vote in, the classes that differ decide SAFE_CLASS and the class, whatever the outcome (R384). -/
theorem decideRelease_class : (decideRelease s l).2.2 = ((replicaClass s l.pkey).isSome, (replicaClass s l.pkey).getD 0) := by
  unfold decideRelease
  dsimp only
  split
  · rfl
  · split
    · rfl
    · split
      · rename_i c h; rw [h]; rfl
      · rename_i h; rw [h]; split <;> rfl

theorem not_failVoted {vs : List Vote} (hfail : vs.find? (·.fail) = none) (hdet : ¬(vs.any fun v => v.det != l.det) = true) :
    ¬failVoted vs l := by
  rintro (⟨x, hx, hx'⟩ | ⟨x, hx, hx'⟩)
  · exact List.find?_eq_none.1 hfail x hx hx'
  · exact hdet (List.any_eq_true.2 ⟨x, hx, bne_iff_ne.2 hx'⟩)

/-- A failure, a DET of its own, or classes that differ make it a FAIL (R380, R384). -/
theorem decideRelease_fail (h : failVoted s.job.votes l ∨ (replicaClass s l.pkey).isSome = true) : (decideRelease s l).1 = 1 := by
  unfold decideRelease
  dsimp only
  split
  · rfl
  · rename_i hfail
    split
    · rfl
    · rename_i hdet
      obtain ⟨c, hc⟩ := Option.isSome_iff_exists.1 (h.resolve_left (not_failVoted hfail hdet))
      rw [hc]

/-- Without one it is a TRAP or a COMMIT (R380). -/
theorem decideRelease_noFail (h : ¬failVoted s.job.votes l) (hc : replicaClass s l.pkey = none) : (decideRelease s l).1 =
    if (l.trap && s.job.votes.any (·.invalid)) = true then 2 else 0 := by
  obtain ⟨hfail, hdet⟩ := not_or.1 h
  have hfind : s.job.votes.find? (·.fail) = none := List.find?_eq_none.2 fun x hx hx' => hfail ⟨x, hx, hx'⟩
  have hany : (s.job.votes.any fun v => v.det != l.det) = false :=
    List.any_eq_false.2 fun x hx hx' => hdet ⟨x, hx, bne_iff_ne.1 hx'⟩
  unfold decideRelease
  simp only [hfind, hany, hc, Bool.false_eq_true, if_false]
  split <;> rfl

theorem not_failVoted_iff {vs : List Vote} : ¬failVoted vs l ↔ ∀ x ∈ vs, x.fail = false ∧ x.det = l.det := by
  simp only [failVoted, not_or, not_exists, not_and, Bool.not_eq_true, Classical.not_not, forall_and]

/-- What the outcome says of the votes where no classes differ (R380). -/
theorem decideRelease_of_agree (hc : replicaClass s l.pkey = none) :
    ((decideRelease s l).1 = 1 ↔ failVoted s.job.votes l) ∧
    ((decideRelease s l).1 = 2 ↔ (∀ x ∈ s.job.votes, x.fail = false ∧ x.det = l.det) ∧ l.trap = true ∧ ∃ x ∈ s.job.votes, x.invalid = true) ∧
    ((decideRelease s l).1 = 0 ∨ (decideRelease s l).1 = 1 ∨ (decideRelease s l).1 = 2) := by
  rw [← not_failVoted_iff]
  by_cases h : failVoted s.job.votes l
  · simp [decideRelease_fail (.inl h), h]
  · rw [decideRelease_noFail h hc]
    split <;> simp_all

section frame
variable (cls pkey dtype op dest src cfid step seq : Nat) (ack : Bool) (a : Word) (bs : List Byte)

theorem frmDtype_mkFrame : frmDtype (mkFrame cls pkey dtype op dest src cfid step seq ack a bs) = dtype % 4 :=
  fld_ofNat_pack_mod rfl (by simp)

theorem frmCls_mkFrame : frmCls (mkFrame cls pkey dtype op dest src cfid step seq ack a bs) = cls % 8 :=
  fld_ofNat_pack_mod rfl (by simp)

end frame

/-- A RELEASE is a DIGEST frame of class 6 on a circuit (R380, 08 Table 8.2). -/
def isRelease (f : Frame) : Prop := frmOp f = 8 ∧ frmDtype f = 2 ∧ frmCls f = 6

/-- The RELEASE with a decision: outcome, STATUS, SAFE_CLASS and class (Table 13.5). -/
def releaseDigest (s : State) (l : Launch) (st : Step) (d : Nat × Nat × Bool × Nat) : Frame :=
  mkFrame 6 l.pkey 2 8 (circuitEnd (commitCircuit s l.pkey)) s.dev.eid.toNat (commitCircuit s l.pkey) (stepField s l.pkey) 0 false
    (BitVec.ofNat 64 st.seq) (digestPayload s l 3 d.1 false l.det d.2.2.2 d.2.2.1 d.2.1 (fullDigest l st) st.replica)

theorem isRelease_releaseDigest (s : State) (l : Launch) (st : Step) (d : Nat × Nat × Bool × Nat) : isRelease (releaseDigest s l st d) :=
  ⟨frmOp_mkFrame .., frmDtype_mkFrame .., frmCls_mkFrame ..⟩

/-- A vote of every rank of the key is held. -/
def allVoted (s : State) (l : Launch) : Prop := ∀ r, r < rankCount s l.pkey → ∃ x ∈ s.job.votes, x.rank = r

theorem allVoted_iff : ((List.range (rankCount s l.pkey)).all fun r => s.job.votes.any fun v => v.rank == r) = true ↔ allVoted s l := by
  simp [allVoted]

theorem tryRelease_waits (h : ¬allVoted s l) : tryRelease s l st = s := if_neg (mt allVoted_iff.1 h)

/-- With every vote in, the RELEASE goes out and the commit rank acts on it (R380). -/
theorem tryRelease_all (h : allVoted s l) : ∃ status f, tryRelease s l st =
    actRelease (originateMgmt s f) l (decideRelease s l).1 status (replicaClass s l.pkey).isSome ((replicaClass s l.pkey).getD 0) ∧
      isRelease f := by
  refine ⟨(decideRelease s l).2.1, releaseDigest s l st (decideRelease s l), ?_, isRelease_releaseDigest ..⟩
  have hsafe : (decideRelease s l).2.2.1 = (replicaClass s l.pkey).isSome := congrArg Prod.fst decideRelease_class
  have hclass : (decideRelease s l).2.2.2 = (replicaClass s l.pkey).getD 0 := congrArg Prod.snd decideRelease_class
  rw [← hsafe, ← hclass]
  exact if_pos (allVoted_iff.2 h)

end Sys2Proof.Machine
end

section
/-! SUPPORT. One more vote at the commit rank (13 R380, R384). -/

namespace Sys2Proof.Machine

variable {s : State} {l : Launch} {st : Step} {v : Vote}

/-- The commit rank holds one more vote. -/
def withVote (s : State) (v : Vote) : State := { s with job := { s.job with votes := s.job.votes ++ [v] } }

/-- A mismatch of the attempt before stands: a further one is the second in a row (R384). -/
def mismatchAgain (s : State) (st : Step) : Prop := s.job.replicaMiss = st.attempt ∧ st.attempt ≠ 0

theorem takeVote_ignored (h : (∃ x ∈ s.job.votes, x.rank = v.rank) ∨ rankCount s l.pkey ≤ v.rank) : takeVote s l st v = s :=
  if_pos (by simpa using h)

section fresh
variable (hnew : ∀ x ∈ s.job.votes, x.rank ≠ v.rank) (hrank : v.rank < rankCount s l.pkey)
include hnew hrank

theorem takeVote_held (h : replicaClass (withVote s v) l.pkey = none ∨ mismatchAgain s st) :
    takeVote s l st v = tryRelease (withVote s v) l st := by
  have htaken : ¬((s.job.votes.any fun x => x.rank == v.rank) || decide (rankCount s l.pkey ≤ v.rank)) = true := by
    simpa using ⟨hnew, hrank⟩
  refine (if_neg htaken).trans (if_neg ?_)
  obtain h | ⟨hmiss, hattempt⟩ := h
  · rw [withVote] at h
    simp [h]
  · simp [hmiss, hattempt]

theorem takeVote_mismatch (h : (replicaClass (withVote s v) l.pkey).isSome = true) (hfirst : ¬mismatchAgain s st) :
    takeVote s l st v = raisePoison { withVote s v with
      job := { (withVote s v).job with votes := [], replicaMiss := st.attempt + 1 }
      health := { s.health with pendingMiss := s.health.pendingMiss + 1 } } .replicaMismatch := by
  have htaken : ¬((s.job.votes.any fun x => x.rank == v.rank) || decide (rankCount s l.pkey ≤ v.rank)) = true := by
    simpa using ⟨hnew, hrank⟩
  refine (if_neg htaken).trans (if_pos ?_)
  rw [withVote] at h
  simpa [h, mismatchAgain, imp_iff_not_or] using hfirst

end fresh

theorem replicaClass_off (h : replEn s l.pkey = false) : replicaClass s l.pkey = none := if_neg (ne_true_of_eq_false h)

theorem replicaClass_on (h : replEn s l.pkey = true) : replicaClass s l.pkey = lowestMismatch s.job.votes (replLog s l.pkey) := if_pos h

end Sys2Proof.Machine
end

section
/-! SUPPORT. The rows that bring votes and releases (13 R378, R380, R381). -/

namespace Sys2Proof.Machine

variable {s : State} {l : Launch} {st : Step}

/-- The step once the module has voted. -/
def votedStep (inv : Bool) (x : Step) : Step := { x with voted := true, invalid := inv }

/-- The module's own vote, and the STATUS that it names (Table 13.5). -/
def ownStatus (st : Step) : Nat := (st.fail.map (·.status)).getD 0
def ownVote (s : State) (l : Launch) (st : Step) (rank : Nat) : Vote := {
  rank := rank, fail := st.fail.isSome, invalid := stepInvalid s l, det := l.det, status := ownStatus st, replica := st.replica }

/-- The frame by which a module votes (R378, Table 13.5). -/
def voteFrame (s : State) (l : Launch) (st : Step) (rank eid : Nat) : Frame :=
  mkFrame 7 0 0 8 eid s.dev.eid.toNat 0 (stepField s l.pkey) 0 false (BitVec.ofNat 64 st.seq)
    (digestPayload s l 2 st.fail.isSome.toNat (stepInvalid s l) l.det rank false (ownStatus st) (fullDigest l st) st.replica)

/-- The vote that a VOTE frame carries (Table 13.5). -/
def voteOf (f : Frame) : Vote := {
  rank := fld (digestWord f 0) 20 15, fail := fld (digestWord f 0) 4 2 == 1, invalid := (digestWord f 0).getLsbD 6
  det := (digestWord f 0).getLsbD 7, status := fld (digestWord f 0) 36 16, replica := digestWord f 2 }

theorem isCommitRank_of_no_eid (h : rankEid s l.pkey (commitRank s l.pkey) = none) : isCommitRank s l.pkey = false := by
  rw [commitRank] at h
  rw [isCommitRank, h]
  rfl

section send
variable (hl : s.job.launch = some l) (hst : s.job.step = some st)
include hl hst

theorem voteSend_waits (h : attemptOpen st = false ∨ (st.fail = none ∧ voteReady s l st = false)) : voteSend s = s := by
  have hclosed : (unitsRun s && attemptOpen st && (st.fail.isSome || voteReady s l st)) = false := by
    obtain h | ⟨hfail, hready⟩ := h
    · simp [h]
    · simp [hfail, hready]
  simp [voteSend, hl, hst, hclosed]

/-- A vote is cast: the commit rank holds its own, another module sends it, and none goes out to a commit rank without an EID. -/
theorem voteSend_votes (hrun : unitsRun s = true) (hopen : attemptOpen st = true) (h : st.fail.isSome = true ∨ voteReady s l st = true) :
    ∃ rank, (∀ r, myRank s l.pkey = some r → rank = r) ∧
      let u := modStep s (votedStep (stepInvalid s l))
      voteSend s = if isCommitRank s l.pkey = true then takeVote u l st (ownVote s l st rank)
        else (rankEid s l.pkey (commitRank s l.pkey)).elim (endStep u .failed (st.fail.getD { status := Status.badArg.code, ecause := 0 }))
          fun e => originateMgmt u (voteFrame s l st rank e) := by
  have hready : (st.fail.isSome || voteReady s l st) = true := by simpa using h
  refine ⟨(myRank s l.pkey).getD (Config.openValue 15 [l.pkey, st.seq] % 2 ^ 15), fun r hr => by rw [hr]; rfl, ?_⟩
  simp only [voteSend, hl, hst, hrun, hopen, hready, Bool.and_self, if_true]
  split
  · cases hf : st.fail <;> simp [ownVote, hf, ownStatus] <;> rfl
  · cases rankEid s l.pkey (commitRank s l.pkey)
    · rfl
    · cases hf : st.fail <;> simp [voteFrame, hf, ownStatus] <;> rfl

theorem vote_eq {f : Frame} (hat : atTarget s f 8) (hkind : fld (digestWord f 0) 0 4 = 2) (hkey : fld (digestWord f 0) 8 12 = l.pkey)
    (hcommit : isCommitRank s l.pkey = true) (hseq : f.w3 = BitVec.ofNat 64 st.seq) (hid : fld (digestWord f 3) 0 32 = l.id.toNat) :
    vote f s =
      if fld (digestWord f 3) 32 32 < s.dev.epoch.toNat then count (taken s f) .voteStale
      else if attemptGone s l.pkey = true ∨ st.committing = true ∨ s.dev.mode = .safe then taken s f
      else takeVote (taken s f) l st (voteOf f) := by
  simp [vote, takeLocal_atTarget hat, hat.1, hkind, hkey, hseq, hid, hl, hst, hcommit, voteOf, flag, or_assoc]

/-- A RELEASE for the attempt that the module voted for is acted on. -/
theorem release_acts {f : Frame} (hat : atTarget s f 8) (hkind : fld (digestWord f 0) 0 4 = 3) (hother : frmSrc f ≠ s.dev.eid.toNat)
    (hsafe : s.dev.mode ≠ .safe) (hvoted : st.voted = true) (hcommitting : st.committing = false) (hpoisoned : st.poisoned = none)
    (hkey : fld (digestWord f 0) 8 12 = l.pkey) (hseq : f.w3 = BitVec.ofNat 64 st.seq) (hid : fld (digestWord f 3) 0 32 = l.id.toNat) :
    release f s = actRelease (taken s f) l (fld (digestWord f 0) 4 2) (fld (digestWord f 0) 36 16) ((digestWord f 0).getLsbD 35)
      (fld (digestWord f 0) 20 15) := by
  simp [release, takeLocal_atTarget hat, hat.1, hkind, hother, hsafe, hl, hst, hvoted, hcommitting, hpoisoned, hkey, hseq, hid, flag]

theorem release_stray {f : Frame} (hat : atTarget s f 8) (hkind : fld (digestWord f 0) 0 4 = 3) (hother : frmSrc f ≠ s.dev.eid.toNat)
    (hsafe : s.dev.mode ≠ .safe) (h : st.voted = false ∨ fld (digestWord f 0) 8 12 ≠ l.pkey) :
    release f s = count (taken s f) .releaseStray := by
  obtain h | h := h <;> simp [release, takeLocal_atTarget hat, hat.1, hkind, hother, hsafe, hl, hst, h]

end send

/-- A FAIL with SAFE_CLASS takes the modules of its class to the safe state (R384). -/
theorem actRelease_safeClass {status cls r : Nat} (hr : myRank s l.pkey = some r) (h : r % 2 ^ replLog s l.pkey = cls) :
    actRelease s l 1 status true cls = safeEntry s .replica cls := by simp [actRelease, hr, h]

/-- Any other module's step ends, with what the module itself has found or with the STATUS alone (R381). -/
theorem actRelease_fail {status cls : Nat} {sc : Bool} (hst : s.job.step = some st)
    (h : sc = false ∨ ∀ r, myRank s l.pkey = some r → r % 2 ^ replLog s l.pkey ≠ cls) :
    actRelease s l 1 status sc cls = endStep s .failed { st.fail.getD { status := status, ecause := 0 } with status := status } := by
  have hother : (sc && (match myRank s l.pkey with | some r => r % 2 ^ replLog s l.pkey == cls | none => false)) = false := by
    obtain rfl | h := h
    · rfl
    · cases hr : myRank s l.pkey
      · exact Bool.and_false _
      · simp [h _ hr]
  unfold actRelease
  simp only [hst, Nat.one_ne_zero, if_false, show (1 : Nat) ≠ 2 by decide]
  exact if_neg (ne_true_of_eq_false hother)

end Sys2Proof.Machine

open Sys2Proof Sys2Proof.Machine

/-- Settles O39: a vote is cast, taken and counted by the conditions of its row; with the last one the decision reads off the votes held and
the classes that differ, and a RELEASE is acted on by its outcome. -/
theorem votesAndRelease : Obligations.VotesAndRelease := by
  refine ⟨fun s l st hl hst => ⟨fun h => ?_, fun hrun hopen h => ?_, fun f => ?_, fun v h => ?_, fun v hnew hrank hoff => ?_,
    fun v hnew hrank hon => ?_, fun f => ?_⟩, fun s l status cls sc => ⟨?_, ?_, fun r hr hmine => ?_, fun st hst h => ?_⟩⟩
  · exact congrArg Host.Outcome.next (voteSend_waits hl hst h)
  · obtain ⟨rank, hrank, hvote⟩ := voteSend_votes hl hst hrun hopen h
    have hexec : exec .voteSend s = .next _ := congrArg Host.Outcome.next hvote
    refine ⟨fun r hr hcommit => ?_, fun hnone => ?_, fun e hother he => ⟨rank, hrank, ?_⟩⟩
    · rw [hexec, if_pos hcommit, hrank r hr]
      rfl
    · rw [hexec, if_neg (ne_true_of_eq_false (isCommitRank_of_no_eid hnone)), hnone]
      rfl
    · rw [hexec, if_neg (ne_true_of_eq_false hother), he]
      rfl
  · intro u w hat hkind hkey hcommit hseq hid
    have hvote : exec (.vote f) s = .next _ := congrArg Host.Outcome.next (vote_eq hl hst hat hkind hkey hcommit hseq hid)
    refine ⟨fun hold => ?_, fun hnew hdrop => ?_, fun hnew hgone hopen hsafe => ?_⟩
    · rw [hvote, if_pos hold]
    · rw [hvote, if_neg (Nat.not_lt.2 hnew), if_pos hdrop]
    · rw [hvote, if_neg (Nat.not_lt.2 hnew), if_neg (by simp [hgone, hopen, hsafe])]
      rfl
  · exact takeVote_ignored h
  · have hagree : replicaClass (withVote s v) l.pkey = none := replicaClass_off hoff
    intro u
    rw [takeVote_held hnew hrank (.inl hagree)]
    refine ⟨fun ⟨r, hr, hmissing⟩ => tryRelease_waits fun hall => ?_, fun hall => ?_⟩
    · obtain ⟨x, hx, hxr⟩ := hall r hr
      exact hmissing x hx hxr
    · obtain ⟨status, f, hact, hop, hdtype, hcls⟩ := tryRelease_all (s := withVote s v) (st := st) hall
      obtain ⟨hfail, htrap, hrange⟩ := decideRelease_of_agree hagree
      exact ⟨_, status, _, _, f, hact, hop, hdtype, hcls, by rw [hagree]; rfl, hfail, htrap, hrange⟩
  · have hlowest : replicaClass (withVote s v) l.pkey = lowestMismatch (s.job.votes ++ [v]) (replLog s l.pkey) := replicaClass_on hon
    intro vs u cls differ again full
    have hnone : (∀ k, ¬differ k) → replicaClass (withVote s v) l.pkey = none := fun h => hlowest.trans (lowestMismatch_eq_none.2 h)
    refine ⟨fun ⟨k, hk⟩ hfirst => ?_, fun hkeeps hall => ?_, fun k hk hlow hagain hall => ?_, fun hagree hall => ?_⟩
    · refine takeVote_mismatch hnew hrank ?_ hfirst
      rw [hlowest, Option.isSome_iff_ne_none, ne_eq, lowestMismatch_eq_none]
      exact fun h => h k hk
    · rw [takeVote_held hnew hrank (hkeeps.imp_left hnone)]
      exact tryRelease_waits hall
    · have hsome : replicaClass (withVote s v) l.pkey = some k := hlowest.trans (lowestMismatch_eq_some hk hlow)
      obtain ⟨status, f, hact, hop, hdtype, hcls⟩ := tryRelease_all (s := withVote s v) (st := st) hall
      rw [hsome, decideRelease_fail (.inr (by rw [hsome]; rfl))] at hact
      rw [takeVote_held hnew hrank (.inr hagain)]
      exact ⟨status, f, hact, hop, hdtype, hcls⟩
    · obtain ⟨status, f, hact, -⟩ := tryRelease_all (s := withVote s v) (st := st) hall
      rw [hnone hagree] at hact
      rw [takeVote_held hnew hrank (.inl (hnone hagree))]
      exact ⟨_, status, _, f, hact, (decideRelease_of_agree (hnone hagree)).1⟩
  · intro u w hat hkind hother hsafe
    exact ⟨fun hvoted hcommitting hpoisoned hkey hseq hid => congrArg Host.Outcome.next
      (release_acts hl hst hat hkind hother hsafe hvoted hcommitting hpoisoned hkey hseq hid),
      fun h => congrArg Host.Outcome.next (release_stray hl hst hat hkind hother hsafe h)⟩
  · rfl
  · rfl
  · exact actRelease_safeClass hr hmine
  · exact actRelease_fail hst h

end

section
/-! SUPPORT. Health and its rehearsals (13 R390 to R395; assumption 49): the score, when a rehearsal runs, and what it injects. -/

namespace Sys2Proof.Machine

variable {s : State}

theorem healthScore_eq (s : State) : healthScore s = 1000 - ((deductions s).map (·.1)).sum := by
  rw [healthScore, List.sum_eq_foldl]

/-- All that a rehearsal's time notes (R393, 14 R416): it is done, for its own time or for one that fell in a freeze, and the rotation goes on. -/
def rehearsalTaken (s : State) (t : Nat) : State := { s with health := { s.health with
  lastRehearsal := if s.health.missed = 0 then rehearsalsDue s else s.health.lastRehearsal
  missed := s.health.missed - 1, nextType := (t + 1) % 4 } }

/-- The rehearsal is not run at its time (R394). -/
def rehearsalStays (s : State) (t port q : Nat) : Prop :=
  (smokerActiveOnly s = true ∧ s.dev.mode ≠ .active) ∨ rehearsalSpare s t port q = false ∨ faultHandled s = true

theorem smokerRehearsal_idle (port lane q i : Nat)
    (h : smokerEn s = false ∨ rehearsalsDue s ≤ s.health.lastRehearsal ∧ s.health.missed = 0) : smokerRehearsal port lane q i s = s := by
  refine if_pos ?_
  obtain h | ⟨hdue, hmissed⟩ := h
  · simp [h]
  · simp [hdue, hmissed]

theorem smokerRehearsal_due (port lane q i : Nat) {t : Nat} (hrun : clocksRun s = true) (hen : smokerEn s = true)
    (hdue : s.health.lastRehearsal < rehearsalsDue s ∨ 0 < s.health.missed) (ht : nextRehearsal s s.health.nextType = some t) :
    (rehearsalStays s t port q → smokerRehearsal port lane q i s = logEvent (rehearsalTaken s t) evSkipped t) ∧
    (¬rehearsalStays s t port q → smokerRehearsal port lane q i s = inject (logEvent (rehearsalTaken s t) evRehearsal t) t port lane q i) := by
  have hgo : ¬(!clocksRun s || !smokerEn s || (decide (rehearsalsDue s ≤ s.health.lastRehearsal) && s.health.missed == 0)) = true := by
    simpa [hrun, hen, Decidable.imp_iff_not_or, Nat.pos_iff_ne_zero] using hdue
  have hstays : (smokerActiveOnly s && s.dev.mode != .active || !rehearsalSpare s t port q || faultHandled s) = true ↔
      rehearsalStays s t port q := by
    simp [rehearsalStays, or_assoc]
  rw [← hstays, smokerRehearsal, if_neg hgo, ht]
  exact ⟨fun h => if_pos h, fun h => if_neg h⟩

/-- A rehearsal of type n is under way, and counted as one (R395, assumption 14). -/
def rehearsing (s : State) (n : Nat) : State := count { s with health := { s.health with rehearsing := some n } } .rehearsal n

section inject
variable (port lane q i : Nat)

theorem inject_comb_idle (h : s.job.launch = none) : inject s 0 port lane q i = rehearsing s 0 := by simp [inject, h, rehearsing]

theorem inject_comb_job {l : Launch} (h : s.job.launch = some l) : inject s 0 port lane q i = injectComb (rehearsing s 0) l.pkey := by
  simp [inject, h, rehearsing]

theorem inject_lane (h : (portOf s port).rxLanes[lane]? = some .active) :
    inject s 1 port lane q i = laneFailed (modPort (rehearsing s 1) port fun x => { x with rehearsed := true }) port lane := by
  have hlane : rehearsedLane (portOf s port) lane = lane := by simp [rehearsedLane, List.getD_eq_getElem?_getD, h]
  simp [inject, hlane, rehearsing]

end inject

/-- A twin is lost once its port has been down for 1 s since READY, unless that is settled (08 R271). -/
theorem twinLostRow_late {r : Nat} (hready : s.health.readyAt = some r) (htwin : s.ident.twinPresent = true)
    (hsettled : s.health.twinSettled = false) (h : r + 1000000000 ≤ nowNs s) : twinLostRow s =
      recomputeHealth (count { s with health := { s.health with twinLost := true, twinSettled := true } } .twinLost) := by
  rw [twinLostRow, hready]
  exact if_pos (by simp [htwin, hsettled, h])

theorem twinLostRow_waits {r : Nat} (hready : s.health.readyAt = some r)
    (h : s.ident.twinPresent = false ∨ s.health.twinSettled = true ∨ nowNs s < r + 1000000000) : twinLostRow s = s := by
  rw [twinLostRow, hready]
  exact if_neg (by simpa [Decidable.imp_iff_not_or, or_assoc] using h)

end Sys2Proof.Machine
end

section
/-! SUPPORT. The errors of a type-0 rehearsal (13 Table 13.10; assumption 49). -/

namespace Sys2Proof.Machine

variable {s : State} {key : Nat} {a b : CFrame} {r : List CFrame}

/-- A frame once the rehearsal has put its error into it: a single-bit one into the first frame, a double-bit one into the second. -/
def injected (a b x : CFrame) : CFrame :=
  if frameId x = frameId a then { x with marks := x.marks ++ [(0, false)] }
  else if frameId x = frameId b then { x with marks := x.marks ++ [(0, true)] } else x

@[simp] theorem frameId_injected (a b x : CFrame) : frameId (injected a b x) = frameId x := by
  unfold injected
  split
  · rfl
  · split <;> rfl

theorem injected_first {x : CFrame} (h : frameId x = frameId a) : injected a b x = { x with marks := x.marks ++ [(0, false)] } := if_pos h

theorem injected_second {x : CFrame} (hne : frameId a ≠ frameId b) (h : frameId x = frameId b) :
    injected a b x = { x with marks := x.marks ++ [(0, true)] } := by
  rw [injected, if_neg (h ▸ hne.symm), if_pos h]

theorem injected_other {x : CFrame} (ha : frameId x ≠ frameId a) (hb : frameId x ≠ frameId b) : injected a b x = x := by
  rw [injected, if_neg ha, if_neg hb]

theorem injectComb_frames (h : (s.comb.frames.filter fun f => frmPkey f.frame == key) = a :: b :: r) :
    (injectComb s key).comb.frames = s.comb.frames.map (injected a b) := by
  unfold injectComb
  rw [h]
  rfl

end Sys2Proof.Machine

open Sys2Proof Sys2Proof.Machine

/-- Settles O23: the score and what follows from it, the times and kinds of rehearsals, the errors of the first kind, and the two rows of
time. -/
theorem healthAndRehearsals : Obligations.HealthAndRehearsals := by
  refine ⟨fun s => ?_, fun s port lane q i unit => ?_, fun s key a b r hframes hne => ?_, fun s => rfl, fun s r hready => ⟨?_, fun h => ?_⟩⟩
  · obtain ⟨o, p, h⟩ := recomputeHealth_frame s
    intro t
    have ht : t = _ := h
    rw [ht, healthScore_eq]
    simp
  · intro run
    refine ⟨fun h => congrArg Host.Outcome.next (smokerRehearsal_idle _ _ _ _ h), Iff.rfl, fun t hrun hen hdue ht => ?_⟩
    obtain ⟨hskip, hinject⟩ := smokerRehearsal_due port.val lane.val q.val i.val hrun hen hdue ht
    refine ⟨fun h => congrArg Host.Outcome.next (hskip h), fun h => ?_⟩
    refine ⟨fun ht hl => ?_, fun l ht hl => ?_, fun ht hlane => ?_, fun ht => ?_, fun ht => ?_⟩ <;> subst ht <;>
      refine congrArg Host.Outcome.next ((hinject h).trans ?_)
    · exact inject_comb_idle _ _ _ _ hl
    · exact inject_comb_job _ _ _ _ hl
    · exact inject_lane _ _ _ _ hlane
    · rfl
    · rfl
  · intro x
    have hx : x.comb.frames = s.comb.frames.map (injected a b) := injectComb_frames hframes
    rw [hx]
    simp only [List.forall_mem_map, frameId_injected]
    exact ⟨fun g hg hfirst => ⟨g, hg, injected_first hfirst⟩, fun g hg hsecond => ⟨g, hg, injected_second hne hsecond⟩,
      fun g hg ha hb => (injected_other ha hb).symm ▸ hg⟩
  · exact fun htwin hsettled hlate => congrArg Host.Outcome.next (twinLostRow_late hready htwin hsettled hlate)
  · exact congrArg Host.Outcome.next (twinLostRow_waits hready h)

end

section
/-! SUPPORT. A first step that waits for the records, under a group that reads CMAP past the end of HBM (09 R276): Table 9.5 gives BLKLOG 0 to 5,
which no hypothesis of the statement asks of a group, and `wideGroup` has BLKLOG 7. -/

namespace Sys2Proof.Machine

/-- An active module whose launch under key 1 waits for its first step, with that group. -/
def wideGroupWaits : State := { State.reset with
  dev := { mode := .active, bootStage := 0x18, pwrGood := true }
  fab := { windows := [(1, 0x8000)], circuits := [(0, 0x80)] }
  coll := { groups := [(0, wideGroup)] }
  job := { launch := some slot0Launch } }

theorem tablesClean_wideGroupWaits : tablesClean wideGroupWaits := by
  unfold tablesClean
  decide +kernel

/-- The choice of the group's algorithm reads past HBM's end, which fails the step (11 R312). -/
theorem commitComplete_wideGroupWaits : (commitComplete wideGroupWaits).job.step.any (·.fail.isSome) = true := by decide +kernel

end Sys2Proof.Machine

open Sys2Proof Sys2Proof.Machine

/-- Refutes O41: a group with BLKLOG 7 needs entries of CMAP behind its first 2,112 bytes; where these end HBM, the first step that waited for
the records has failed as it starts. -/
theorem not_stepsFollow : ¬ Obligations.StepsFollow := by
  rintro ⟨hwaits, -⟩
  obtain ⟨-, hstarts⟩ := hwaits wideGroupWaits slot0Launch rfl rfl (by decide +kernel) rfl
  obtain ⟨t, hexec, -, hstep, -⟩ := hstarts (by decide +kernel) tablesClean_wideGroupWaits
  have hrun : commitComplete wideGroupWaits = t := Host.Outcome.next.inj hexec
  have hfail := commitComplete_wideGroupWaits
  rw [hrun, hstep] at hfail
  exact absurd hfail (by decide)

end

section
/-! SUPPORT. What the return of buffers and frames can change (07 R214, R215): of the device, HBM and the host only what a double free shows,
and nothing of the job, the ports and the clocks. -/

namespace Sys2Proof.Machine

/-- Between these states buffers and frames have gone back to the comb. -/
structure Freed (s t : State) : Prop where
  dev : ∃ d r a, t.dev = { s.dev with degraded := d, replaceRequest := r, alertN := a }
  host : ∃ p, t.host = { s.host with msixPending := p }
  hbm : ∃ log, t.hbm = { s.hbm with integrityLog := log }
  job : t.job = s.job
  fab : t.fab = s.fab
  ports : t.ports = s.ports
  sbq : t.sbq = s.sbq
  clk : t.clk = s.clk

namespace Freed

/-- A change of what none of it speaks of. -/
theorem of_same {s t : State} (dev : t.dev = s.dev) (host : t.host = s.host) (hbm : t.hbm = s.hbm) (job : t.job = s.job)
    (fab : t.fab = s.fab) (ports : t.ports = s.ports) (sbq : t.sbq = s.sbq) (clk : t.clk = s.clk) : Freed s t :=
  ⟨⟨_, _, _, dev⟩, ⟨_, host⟩, ⟨_, hbm⟩, job, fab, ports, sbq, clk⟩

theorem refl (s : State) : Freed s s := of_same rfl rfl rfl rfl rfl rfl rfl rfl

theorem trans {s t u : State} (a : Freed s t) (b : Freed t u) : Freed s u := by
  obtain ⟨⟨d, r, x, hdev⟩, ⟨p, hhost⟩, ⟨log, hhbm⟩, hjob, hfab, hports, hsbq, hclk⟩ := a
  obtain ⟨⟨d', r', x', hdev'⟩, ⟨p', hhost'⟩, ⟨log', hhbm'⟩, hjob', hfab', hports', hsbq', hclk'⟩ := b
  exact ⟨⟨d', r', x', by rw [hdev', hdev]⟩, ⟨p', by rw [hhost', hhost]⟩, ⟨log', by rw [hhbm', hhbm]⟩, hjob'.trans hjob, hfab'.trans hfab,
    hports'.trans hports, hsbq'.trans hsbq, hclk'.trans hclk⟩

theorem foldl {α : Type} {f : State → α → State} (h : ∀ t a, Freed t (f t a)) (l : List α) (s : State) : Freed s (l.foldl f s) := by
  induction l generalizing s with
  | nil => exact refl s
  | cons a l ih => exact (h s a).trans (ih _)

end Freed

variable (s : State)

theorem noteDoubleFree_freed (owner requester : Nat) : Freed s (noteDoubleFree s owner requester) := by
  unfold noteDoubleFree
  generalize hv : count _ _ = v
  obtain ⟨o, p, h⟩ := recomputeHealth_frame v
  rw [h]
  subst hv
  exact ⟨⟨_, _, _, rfl⟩, ⟨p, rfl⟩, ⟨_, rfl⟩, rfl, rfl, rfl, rfl, rfl⟩

theorem freeBufHandle_freed (h : Nat) : Freed s (freeBufHandle s h) := by
  unfold freeBufHandle
  split
  · exact noteDoubleFree_freed ..
  · exact .of_same rfl rfl rfl rfl rfl rfl rfl rfl

theorem freeChunks_freed (cs : List Chunk) : Freed s (freeChunks s cs) :=
  .foldl (fun t _ => .foldl freeBufHandle_freed _ t) cs s

/-- A pause word leaves the module, at once or later, and what it says is noted (08 R260). -/
theorem sendPause_frame (p : Nat) : ∃ o c, sendPause s p = { s with out := o, comb := c } := by
  unfold sendPause
  dsimp only
  split <;> exact ⟨_, _, rfl⟩

theorem updatePause_frame (p : Nat) : ∃ o c, updatePause s p = { s with out := o, comb := c } := by
  unfold updatePause
  dsimp only
  split
  · exact ⟨_, _, rfl⟩
  · split
    · obtain ⟨o, c, h⟩ := sendPause_frame { s with comb := _ } p
      exact ⟨o, c, h⟩
    · exact ⟨_, _, rfl⟩

theorem releaseFrame_frame (f : CFrame) : ∃ o c, releaseFrame s f = { s with out := o, comb := c } := by
  unfold releaseFrame releaseCells
  split
  · obtain ⟨o, c, h⟩ := updatePause_frame { s with comb := _ } (f.owner / 8)
    exact ⟨o, c, h⟩
  · exact ⟨_, _, rfl⟩

theorem dropLeaf_freed (id : Nat) : Freed s (dropLeaf s id) := by
  unfold dropLeaf
  split
  · exact noteDoubleFree_freed ..
  · rename_i f _
    split
    · obtain ⟨o, c, h⟩ := releaseFrame_frame s f
      rw [h]
      exact .of_same rfl rfl rfl rfl rfl rfl rfl rfl
    · exact .of_same rfl rfl rfl rfl rfl rfl rfl rfl

theorem settleLeaves_freed : Freed s (settleLeaves s) := by
  unfold settleLeaves
  refine .trans (t := { s with su := { s.su with leaves := (sortLeaves s s.su.leaves ([], [])).1 } }) ?_
    (.foldl (fun t _ => dropLeaf_freed t _) _ _)
  exact .of_same rfl rfl rfl rfl rfl rfl rfl rfl

end Sys2Proof.Machine
end

section
/-! SUPPORT. A step's provisional work is discarded (01 R32; 11 R323): votes, amax and stream flags are gone, memory reads as before, and what
the chunks and leaves held goes back. -/

namespace Sys2Proof.Machine

variable (s : State)

/-- What the attempt had gathered of the job is gone. -/
def gatheredNone (s : State) : State := { s with job := { s.job with votes := [], amax := [], streamFlags := 0 } }

theorem Freed.gatheredNone {s t : State} (h : Freed s t) : Freed (gatheredNone s) (gatheredNone t) :=
  ⟨h.dev, h.host, h.hbm, congrArg (fun j : Job => { j with votes := [], amax := [], streamFlags := 0 }) h.job, h.fab, h.ports, h.sbq, h.clk⟩

theorem modQueen_freed (q : Nat) (f : Queen → Queen) : Freed s (modQueen s q f) := .of_same rfl rfl rfl rfl rfl rfl rfl rfl

theorem modChan_freed (c : Nat) (f : Chan → Chan) : Freed s (modChan s c f) := .of_same rfl rfl rfl rfl rfl rfl rfl rfl

theorem foldl_modQueen_frame (qs : List Nat) (f : Queen → Queen) : ∃ c, qs.foldl (fun t q => modQueen t q f) s = { s with comp := c } := by
  induction qs generalizing s with
  | nil => exact ⟨s.comp, rfl⟩
  | cons q qs ih =>
    obtain ⟨c, h⟩ := ih (modQueen s q f)
    exact ⟨c, h⟩

theorem foldl_modChan_frame (cs : List Nat) (f : Chan → Chan) : ∃ g, cs.foldl (fun t c => modChan t c f) s = { s with fgr := g } := by
  induction cs generalizing s with
  | nil => exact ⟨s.fgr, rfl⟩
  | cons c cs ih =>
    obtain ⟨g, h⟩ := ih (modChan s c f)
    exact ⟨g, h⟩

theorem discardStep_freed (l : Launch) : Freed (gatheredNone (regionsEnd s l.pkey false)) (discardStep s l) := by
  unfold discardStep
  extract_lets s1 gone mine isGone lost s2 _ _ _ _ s3 s3' qs s4
  have hfreed : Freed s1 s2 :=
    (freeChunks_freed s1 gone).trans (.foldl (fun t (g : Nat × Nat × Nat × Nat) => freeBufHandle_freed t g.2.2.2) lost _)
  have hdropped : Freed (gatheredNone s2) s3 := .of_same rfl rfl rfl rfl rfl rfl rfl rfl
  have hleaves : Freed s3 s3' := (settleLeaves_freed s3).trans (.of_same rfl rfl rfl rfl rfl rfl rfl rfl)
  have hqueens : Freed s3' s4 := .foldl (fun t q => modQueen_freed t q _) qs s3'
  exact (hfreed.gatheredNone.trans hdropped).trans (hleaves.trans (hqueens.trans (.foldl (fun t c => modChan_freed t c _) _ _)))

/-- Where nothing waits in the comb for a chunk or a leaf, nothing goes back to it. -/
theorem discardStep_nothing_held (l : Launch) (hchunks : s.su.chunks = []) (hgranted : s.su.granted = []) (hleaves : s.su.leaves = []) :
    ∃ fgr comp comb su coll, discardStep s l = { gatheredNone (regionsEnd s l.pkey false) with
      comb := comb, su := su, coll := coll, comp := comp, fgr := fgr } := by
  unfold discardStep
  extract_lets s1 gone mine isGone lost s2 _ _ _ _ s3 s3' qs s4
  have hgone : gone = [] := by
    have hnone : s1.su.chunks = [] := hchunks
    simp only [gone, hnone, List.filter_nil]
  have hlost : lost = [] := by
    have hnone : s1.su.granted = [] := hgranted
    simp only [lost, hnone, List.filter_nil]
  have hs2 : s2 = s1 := by simp only [s2, hgone, hlost, freeChunks, List.foldl_nil]
  clear_value s2
  subst hs2
  have hsettled : settleLeaves s3 = { s3 with su := { s3.su with leaves := [] } } := by
    have hnone : s3.su.leaves = [] := hleaves
    simp [settleLeaves, hnone, sortLeaves]
  have hs3' : s3' = dropOrigs { s3 with su := { s3.su with leaves := [] } } l.pkey := congrArg (dropOrigs · l.pkey) hsettled
  obtain ⟨comp, hqueens⟩ : ∃ c, s4 = { s3' with comp := c } := foldl_modQueen_frame ..
  obtain ⟨comb, su, coll, hs4⟩ : ∃ comb su coll, s4 = { gatheredNone s1 with comp := comp, comb := comb, su := su, coll := coll } :=
    ⟨_, _, _, hqueens.trans (by rw [hs3']; rfl)⟩
  exact (foldl_modChan_frame ..).imp fun fgr hchans => ⟨comp, comb, su, coll, hchans.trans (by rw [hs4])⟩

end Sys2Proof.Machine
end

section
/-! SUPPORT. A launch that ends (12 Table 12.8; 13 R375, R381), and the entry to the safe state (13 R386). -/

namespace Sys2Proof.Machine

variable (s : State)

theorem writeCompletion_frame (o : Outcome') (f : Fail) : ∃ held stats, writeCompletion s o f =
    { s with host := { s.host with cmplHeld := held }, stats := stats } := by
  unfold writeCompletion
  split
  · dsimp only
    split
    · exact ⟨_, s.stats, rfl⟩
    · exact ⟨_, _, rfl⟩
  · exact ⟨s.host.cmplHeld, s.stats, rfl⟩

/-- No launch is left, and one that ran in ACTIVE leaves JOINED. -/
theorem endLaunch_ends : (endLaunch s).job.launch = none ∧
    (s.job.launch.isSome = true → s.dev.mode = .active → (endLaunch s).dev.mode = .joined) := by
  unfold endLaunch
  split
  · rename_i hl
    exact ⟨hl, fun h => absurd h (by simp [hl])⟩
  · rename_i l hl
    extract_lets s1 s2 _ _ s3 _
    have hdev : s2.dev = s.dev := (foldl_modChan_dev ..).trans (foldl_modQueen_dev ..)
    have hmode : s3.dev.mode = s.dev.mode := by
      rw [← hdev]
      simp only [s3]
      split <;> rfl
    split
    · obtain ⟨o, p, h⟩ := setMode_frame s3 .joined
      rw [h]
      exact ⟨rfl, fun _ _ => rfl⟩
    · rename_i hother
      have hnot : ¬s.dev.mode = .active := fun h => hother (by rw [hmode, h]; rfl)
      split
      · exact ⟨rfl, fun _ h => absurd h hnot⟩
      · exact ⟨rfl, fun _ h => absurd h hnot⟩

/-- A step that ends without commit ends its launch. -/
theorem endStep_ends (o : Outcome') (f : Fail) : (endStep s o f).job.launch = none ∧
    (s.job.launch.isSome = true → s.dev.mode = .active → (endStep s o f).dev.mode = .joined) := by
  unfold endStep
  split
  · rename_i hl
    exact ⟨hl, fun h => absurd h (by simp [hl])⟩
  · rename_i l hl
    split
    · exact endLaunch_ends s
    · obtain ⟨held, stats, hw⟩ := writeCompletion_frame s o f
      have hfreed := discardStep_freed (writeCompletion s o f) l
      obtain ⟨hgone, hjoined⟩ := endLaunch_ends (stepBoundary (discardStep (writeCompletion s o f) l))
      refine ⟨hgone, fun hsome hactive => hjoined ?_ ?_⟩
      · rw [stepBoundary, hfreed.job, hw]
        exact hsome
      · obtain ⟨⟨d, r, a, hdev⟩, -⟩ := hfreed
        rw [stepBoundary, hdev, hw]
        exact hactive

@[simp] theorem unstage_dev (o : Nat) (c : Copy) : (unstage s o c).dev = s.dev := by
  unfold unstage
  split
  · rfl
  · split <;> rfl

theorem foldl_dev {α : Type} {f : State → α → State} (h : ∀ t a, (f t a).dev = t.dev) (l : List α) (s : State) :
    (l.foldl f s).dev = s.dev := by
  induction l generalizing s with
  | nil => rfl
  | cons a l ih => exact (ih _).trans (h s a)

@[simp] theorem fenceOutput_dev (o : Nat) : (fenceOutput s o).dev = s.dev := by
  unfold fenceOutput
  dsimp only
  split
  · rfl
  · exact foldl_dev (fun t x => unstage_dev t o x) _ s

@[simp] theorem fenceOutputs_dev : (fenceOutputs s).dev = s.dev := by
  rw [fenceOutputs]
  exact foldl_dev (fun t _ => fenceOutput_dev t _) _ s

/-- A module in service goes to SAFE and asserts SAFE_N, whatever else the alarm does to its step (Table 13.7). -/
theorem enterSafe_enters {alarm : State → State} (halarm : ∀ t, (alarm t).dev = t.dev) (m : Mech) (loc : Nat)
    (hservice : 2 ≤ s.dev.mode.code) (hsafe : s.dev.mode ≠ .safe) :
    (enterSafe s alarm m loc).dev.mode = .safe ∧ (enterSafe s alarm m loc).dev.safeN = false := by
  rw [enterSafe, if_neg (by simp [Nat.not_lt.2 hservice, hsafe])]
  extract_lets _ s1 s3 s4 _
  have hbeacons : s4.dev = s3.dev := foldl_dev (fun t p => by rw [sendBeacon_eq]) _ s3
  have hfenced : (alarm s1).dev = { s.dev with safeN := false } := (halarm s1).trans (fenceOutputs_dev _)
  obtain ⟨o, p, hmode⟩ := setMode_frame (alarm s1) .safe
  have hs3 : s3.dev = { (alarm s1).dev with mode := .safe } := by simp only [s3, hmode]
  rw [hfenced] at hs3
  exact ⟨congrArg Dev.mode (hbeacons.trans hs3), congrArg Dev.safeN (hbeacons.trans hs3)⟩

end Sys2Proof.Machine
end

section
/-! SUPPORT. The module acts on a poison of its step (13 R374, R375), and raises one (R373, R379). -/

namespace Sys2Proof.Machine

variable {s : State} {l : Launch} {st : Step} {cause : Nat}

/-- The next attempt stands noted, with the time and cause of the poison; one that ends otherwise than by DIGEST_TIMEOUT breaks a row of
those (R383). -/
def poisonNoted (s : State) (st : Step) (cause : Nat) : State := { s with
  job := { s.job with step := some (nextAttempt st (logicNs s) cause) }
  health := if cause % 128 = PCause.digestTimeout.code then s.health else { s.health with twinTimeouts := 0 } }

section act
variable (hl : s.job.launch = some l) (hst : s.job.step = some st)
include hl hst

/-- What the module does by the cause and by how far the step has come: HOST_ABORT ends the launch, a step poisoned already or committing
takes no further cause, after eight attempts the launch ends, else the attempt is discarded, and bad metadata lead to SAFE. -/
theorem actPoison_eq (cause : Nat) : actPoison s cause =
    if cause % 128 = 19 then endStep s .aborted { status := Status.ok.code, ecause := 8 }
    else if (st.poisoned.isSome || st.committing) = true then s
    else if 8 ≤ st.attempt + 1 then endStep (poisonNoted s st cause) .failed { status := Status.timeout.code, ecause := 0 }
    else if (commitMetaBad s l.pkey || chunkMetaBad s l.pkey) = true then
      enterSafe (discardStep (poisonNoted s st cause) l) (safeAlarm l st) .metadata 0
    else discardStep (poisonNoted s st cause) l := by
  unfold actPoison
  split
  · rename_i l' st' hl' hst'
    obtain rfl : l = l' := Option.some.inj (hl.symm.trans hl')
    obtain rfl : st = st' := Option.some.inj (hst.symm.trans hst')
    rfl
  · rename_i hnone
    exact absurd hst (hnone l st hl)

theorem actPoison_abort (hcause : cause % 128 = 19) :
    actPoison s cause = endStep s .aborted { status := Status.ok.code, ecause := 8 } := by
  rw [actPoison_eq hl hst, if_pos hcause]

theorem actPoison_stands (hcause : cause % 128 ≠ 19) (h : st.poisoned.isSome = true ∨ st.committing = true) : actPoison s cause = s := by
  rw [actPoison_eq hl hst, if_neg hcause, if_pos (by simpa using h)]

section new
variable (hcause : cause % 128 ≠ 19) (hpoisoned : st.poisoned = none) (hcommitting : st.committing = false)
include hcause hpoisoned hcommitting

theorem actPoison_eighth (h : 8 ≤ st.attempt + 1) :
    actPoison s cause = endStep (poisonNoted s st cause) .failed { status := Status.timeout.code, ecause := 0 } := by
  rw [actPoison_eq hl hst, if_neg hcause, if_neg (by simp [hpoisoned, hcommitting]), if_pos h]

theorem actPoison_metadata (h : st.attempt + 1 < 8) (hbad : commitMetaBad s l.pkey = true ∨ chunkMetaBad s l.pkey = true) :
    actPoison s cause = enterSafe (discardStep (poisonNoted s st cause) l) (safeAlarm l st) .metadata 0 := by
  rw [actPoison_eq hl hst, if_neg hcause, if_neg (by simp [hpoisoned, hcommitting]), if_neg (Nat.not_le.2 h), if_pos (by simpa using hbad)]

theorem actPoison_discards (h : st.attempt + 1 < 8) (hcommit : commitMetaBad s l.pkey = false) (hchunk : chunkMetaBad s l.pkey = false) :
    actPoison s cause = discardStep (poisonNoted s st cause) l := by
  rw [actPoison_eq hl hst, if_neg hcause, if_neg (by simp [hpoisoned, hcommitting]), if_neg (Nat.not_le.2 h),
    if_neg (by simp [hcommit, hchunk])]

end new

end act

theorem raisePoison_eq (hl : s.job.launch = some l) (hst : s.job.step = some st) (hreal : s.health.rehearsing = none) (c : PCause) :
    raisePoison s c = if st.committing = true ∨ (st.voted = true ∧ isCommitRank s l.pkey = false) then
      { s with job := { s.job with chargeNext := some c.code } }
    else actPoison { s with
      sbq := s.sbq ++ (sbPorts s).flatMap fun p => List.replicate 3 (.ordered p codePoison (poisonPayload l.pkey st.seq c.code)) } c.code := by
  unfold raisePoison
  split
  · rename_i l' st' hl' hst'
    obtain rfl : l = l' := Option.some.inj (hl.symm.trans hl')
    obtain rfl : st = st' := Option.some.inj (hst.symm.trans hst')
    simp only [hreal, Option.any_none, Bool.false_eq_true, if_false, Nat.add_zero, sendSets_eq, Bool.or_eq_true, Bool.and_eq_true,
      Bool.not_eq_true']
  · rename_i hnone
    exact absurd hst (hnone l st hl)

end Sys2Proof.Machine
end

section
/-! SUPPORT. POISON sets as they arrive (13 R373, R374; 14 R415; assumption 124). -/

namespace Sys2Proof.Machine

variable {s : State} {rx : SetRx}

/-- The set speaks of a step that the module has committed under its key, of which it knows the last. -/
def poisonLate (s : State) (pay : BitVec 40) : Prop :=
  ∃ n, s.job.lastCommit = some (fld pay 0 12, n) ∧ (n + 65536 - fld pay 16 16) % 65536 < 32768

theorem countPoison_late {pay : BitVec 40} (h : poisonLate s pay) : countPoison s pay = count s .poisonLate := by
  obtain ⟨n, hlast, hpast⟩ := h
  simp [countPoison, hlast, hpast]

theorem countPoison_stale {pay : BitVec 40} (h : ¬poisonLate s pay) : countPoison s pay = count s .poisonStale := by
  unfold countPoison
  split
  · rename_i k n hlast
    have hpast : (k == fld pay 0 12 && decide ((n + 65536 - fld pay 16 16) % 65536 < 32768)) = false := by
      rw [Bool.eq_false_iff, ne_eq, Bool.and_eq_true, beq_iff_eq, decide_eq_true_eq]
      rintro ⟨rfl, hpast⟩
      exact h ⟨n, hlast, hpast⟩
    rw [hpast]
    rfl
  · rfl

/-- A set that is noted leaves every sideband as it is. -/
theorem sbPorts_noteSet (s : State) (code : Byte) (rx : SetRx) : sbPorts (noteSet s code rx) = sbPorts s := by
  have hsb : ∀ p, (portOf (noteSet s code rx) p).sb = (portOf s p).sb := fun p => by
    by_cases hp : p = rx.port.val
    · subst hp
      exact (congrArg Port.sb (tblGet_set_ne _ _ _ _ fun h => absurd (congrArg Port.recent h) (by simp))).trans rfl
    · exact congrArg Port.sb (tblGet_set_other _ _ _ _ _ hp)
  simp only [sbPorts, hsb]

theorem otherPorts_noteSet (s : State) (code : Byte) (rx : SetRx) (p : Nat) : otherPorts (noteSet s code rx) p = otherPorts s p := by
  rw [otherPorts, sbPorts_noteSet, otherPorts]

section arrives
variable (h : setFresh s codePoison 0xF000 rx)
include h

theorem poison_held (hc : clocksHeld s = true) : poison rx s =
    { noteSet s codePoison rx with dev := { s.dev with heldSets := s.dev.heldSets ++ [rx] } } :=
  (onTriple_fresh _ h).trans (if_pos hc)

theorem poison_running (hc : clocksHeld s = false) : poison rx s = poisonSet (noteSet s codePoison rx) rx.port.val rx.payload :=
  (onTriple_fresh _ h).trans (if_neg (ne_true_of_eq_false hc))

end arrives

/-- A set for a key that does not run here is counted and not sent on. -/
theorem poisonSet_otherKey {p : Nat} {pay : BitVec 40} (h : ∀ l, s.job.launch = some l → fld pay 0 12 ≠ l.pkey) :
    poisonSet s p pay = countPoison s pay := by
  unfold poisonSet
  split
  · rfl
  · rename_i l hl
    exact if_pos (bne_iff_ne.2 (h l hl))

/-- The set goes on to the other sidebands. -/
def sentOn (s : State) (p : Nat) (pay : BitVec 40) : State := { s with
  sbq := s.sbq ++ (otherPorts s p).flatMap fun q => List.replicate 3 (.ordered q codePoison pay) }

section key
variable {l : Launch} {st : Step} {p : Nat} {pay : BitVec 40} (hl : s.job.launch = some l) (hkey : fld pay 0 12 = l.pkey)
  (hst : s.job.step = some st)
include hl hkey hst

theorem poisonSet_current (hseq : st.seq % 65536 = fld pay 16 16) (hcommitting : st.committing = false) (hpoisoned : st.poisoned = none) :
    poisonSet s p pay = actPoison (sentOn s p pay) (fld pay 32 8) := by
  unfold poisonSet
  simp [hl, hkey, hst, sendSets_eq, hseq, hcommitting, hpoisoned, sentOn]

theorem poisonSet_other (h : st.seq % 65536 ≠ fld pay 16 16 ∨ st.committing = true) :
    poisonSet s p pay = countPoison (sentOn s p pay) pay := by
  have hother : (st.seq % 65536 == fld pay 16 16 && !st.committing) = false := by
    simpa [imp_iff_not_or] using h
  unfold poisonSet
  simp [hl, hkey, hst, sendSets_eq, hother, sentOn]

end key

end Sys2Proof.Machine

open Sys2Proof Sys2Proof.Machine

/-- Settles O38: a poison is raised or charged, acted on by its cause and the attempt's number, and a set that arrives is held, acted on or
counted; what the discard leaves follows from what the return of buffers and frames can change. -/
theorem stepIsPoisoned : Obligations.StepIsPoisoned := by
  refine ⟨fun s l st hl hst => ⟨fun c hreal => ⟨fun hcharged => ?_, fun hcommitting hraises => ?_⟩,
    fun cause hcause hpoisoned hcommitting => ⟨fun h hbad hservice hsafe => ?_, fun h hcommit hchunk => ?_, fun h => ?_⟩,
    fun cause hcause h => actPoison_stands hl hst hcause h, fun cause hcause => ?_⟩, fun s rx => ?_⟩
  · rw [raisePoison_eq hl hst hreal, if_pos hcharged]
  · rw [raisePoison_eq hl hst hreal, if_neg]
    rintro (h | ⟨hvoted, hother⟩)
    · exact absurd h (ne_true_of_eq_false hcommitting)
    · obtain h | h := hraises
      · exact absurd hvoted (ne_true_of_eq_false h)
      · exact absurd h (ne_true_of_eq_false hother)
  · rw [actPoison_metadata hl hst hcause hpoisoned hcommitting h hbad]
    obtain ⟨⟨d, r, a, hdev⟩, -⟩ := discardStep_freed (poisonNoted s st cause) l
    refine enterSafe_enters _ (fun t => by rw [safeAlarm, sendSets_eq]) _ _ ?_ ?_ <;> rw [hdev]
    · exact hservice
    · exact hsafe
  · rw [actPoison_discards hl hst hcause hpoisoned hcommitting h hcommit hchunk]
    obtain ⟨⟨d, r, a, hdev⟩, ⟨p, hhost⟩, ⟨log, hhbm⟩, hjob, hfab, hports, hsbq, hclk⟩ := discardStep_freed (poisonNoted s st cause) l
    intro t
    refine ⟨⟨nextAttempt st (logicNs s) cause, congrArg Job.step hjob, rfl, rfl, rfl, rfl, rfl, rfl, rfl, rfl, rfl, rfl⟩,
      (congrArg Job.launch hjob).trans hl, congrArg Job.votes hjob, congrArg Job.amax hjob, congrArg Job.streamFlags hjob, ?_, ?_, ?_,
      hfab, hports, hsbq, hclk, fun hchunks hgranted hleaves => ?_⟩
    · rw [show t.hbm = _ from hhbm]; rfl
    · rw [show t.dev = _ from hdev]; rfl
    · rw [show t.host = _ from hhost]; rfl
    · obtain ⟨fgr, comp, comb, su, coll, hnone⟩ := discardStep_nothing_held (poisonNoted s st cause) l hchunks hgranted hleaves
      rw [show t = _ from hnone]
      exact ⟨rfl, rfl, rfl, rfl⟩
  · rw [actPoison_eighth hl hst hcause hpoisoned hcommitting h]
    obtain ⟨hgone, hjoined⟩ := endStep_ends (poisonNoted s st cause) .failed { status := Status.timeout.code, ecause := 0 }
    exact ⟨hgone, fun hactive _ => hjoined (by rw [poisonNoted, hl]; rfl) hactive⟩
  · rw [actPoison_abort hl hst hcause]
    exact (endStep_ends ..).1
  · intro v step u late hfresh
    refine ⟨fun hheld => congrArg Host.Outcome.next (poison_held hfresh hheld), fun hrun hother => ⟨fun h => ?_, fun h => ?_⟩,
      fun l hrun hl st hkey hst => ?_⟩
    · exact congrArg Host.Outcome.next ((poison_running hfresh hrun).trans ((poisonSet_otherKey (s := v) hother).trans (countPoison_late h)))
    · exact congrArg Host.Outcome.next ((poison_running hfresh hrun).trans ((poisonSet_otherKey (s := v) hother).trans (countPoison_stale h)))
    · have hsent : sentOn v rx.port.val rx.payload = u := by rw [sentOn, otherPorts_noteSet]; rfl
      refine ⟨fun hseq hcommitting hpoisoned => ?_, fun hpast h => ?_, fun hpast h => ?_⟩ <;>
        refine congrArg Host.Outcome.next ((poison_running hfresh hrun).trans ?_)
      · rw [poisonSet_current (s := v) hl hkey hst hseq hcommitting hpoisoned, hsent]
      · rw [poisonSet_other (s := v) hl hkey hst hpast, hsent, countPoison_late (s := u) h]
      · rw [poisonSet_other (s := v) hl hkey hst hpast, hsent, countPoison_stale (s := u) h]

end

section
/-! SUPPORT. What a step is, and what every command answers (assumption 1). -/

namespace Sys2Proof.Machine

/-- Every command answers with a next state: no row faults or is refused. -/
theorem exec_answers (c : Instr) (s : State) : ∃ t, exec c s = .next t := by
  cases c <;> exact ⟨_, rfl⟩

/-- At reset the status of each of the 64 mailboxes holds IDLE alone, bit 15. -/
theorem mboxesIdleAtReset : ∀ n, n < 64 → mboxStatus State.reset n = 0x8000 := by decide +kernel

end Sys2Proof.Machine

open Sys2Proof Sys2Proof.Machine

/-- Settles O1: both are the two branches of `step`. -/
theorem stepRunsFront : Obligations.StepRunsFront := by
  refine ⟨fun c s rest => rfl, fun s hempty => ?_⟩
  rw [step, hempty]

/-- Settles O2: `State.reset` is the state whose every field holds its declared reset value. -/
theorem resetState : Obligations.ResetState := by
  refine ⟨rfl, rfl, rfl, rfl, rfl, rfl, rfl, rfl, rfl, rfl, rfl, rfl, rfl, mboxesIdleAtReset,
    rfl, rfl, rfl, rfl, rfl, rfl, rfl, rfl, rfl, rfl, rfl⟩

/-- Settles O3: every arm of `exec` answers, and what it answers has the queue that `Steady` keeps. -/
theorem commandsComplete : Obligations.CommandsComplete := by
  intro c s
  obtain ⟨t, ht⟩ := exec_answers c s
  exact ⟨t, ht, (exec_steady c s t ht).pending⟩

/-- Settles O4: the fuses are part of `Steady`, which every step keeps. -/
theorem fusesOnlyBurn : Obligations.FusesOnlyBurn := by
  intro s t hstep
  have hs := step_steady hstep
  exact ⟨hs.svn, hs.revoked0, hs.revoked1, hs.keyHash0, hs.keyHash1, hs.debugKeyHash, hs.serial, hs.grade⟩

namespace Sys2Proof.Machine

theorem memoriesWf_iff (s : State) : memoriesWf s = true ↔
    Mem.wf s.hbm.mem = true ∧ Mem.wf s.comp.ls = true ∧ Mem.wf s.comp.cs = true ∧ Mem.wf s.host.bar2 = true ∧
      Mem.wf s.host.msixTable = true ∧ Mem.wf s.sec.flash0 = true ∧ Mem.wf s.sec.flash1 = true ∧ Mem.wf s.sceuf.sram = true := by
  simp only [memoriesWf, Bool.and_eq_true, and_assoc]

/-- `Steady` keeps the canonical form of all eight memories. -/
theorem Steady.memoriesWf {s t : State} (h : Steady s t) (hs : memoriesWf s = true) : memoriesWf t = true := by
  rw [memoriesWf_iff] at hs ⊢
  obtain ⟨hhbm, hls, hcs, hbar2, hmsix, hflash0, hflash1, hsram⟩ := hs
  exact ⟨h.hbm hhbm, h.ls hls, h.cs hcs, h.bar2 hbar2, h.msix hmsix, h.flash0 hflash0, h.flash1 hflash1, h.sram hsram⟩

end Sys2Proof.Machine

/-- Settles O6: the memories' canonical form is part of `Steady`, which every step keeps. -/
theorem memoriesStayCanonical : Obligations.MemoriesStayCanonical := fun _ _ hs hstep => (step_steady hstep).memoriesWf hs

end

section
/-! SUPPORT. What a poison, a double free or a safe-state entry never touches (13 R373 to R375, R386; 07 R214 to R216): the security state, and
the sets that a freeze holds. -/

set_option Elab.async false

namespace Sys2Proof.Machine

/-- The security state and the held sets of two states are the same. -/
structure SameSecure (s t : State) : Prop where
  sec : t.sec = s.sec
  held : t.dev.heldSets = s.dev.heldSets

namespace SameSecure

theorem refl (s : State) : SameSecure s s := ⟨rfl, rfl⟩

theorem of_dev {s t : State} (sec : t.sec = s.sec) (dev : t.dev = s.dev) : SameSecure s t := ⟨sec, congrArg Dev.heldSets dev⟩

theorem trans {s t u : State} (a : SameSecure s t) (b : SameSecure t u) : SameSecure s u := ⟨b.sec.trans a.sec, b.held.trans a.held⟩

theorem foldl {α : Type} {f : State → α → State} (h : ∀ t a, SameSecure t (f t a)) (l : List α) (s : State) :
    SameSecure s (l.foldl f s) := by
  induction l generalizing s with
  | nil => exact refl s
  | cons a l ih => exact (h s a).trans (ih _)

end SameSecure

variable (s : State)

theorem setMode_sameSecure (m : Mode) : SameSecure s (setMode s m) := by
  obtain ⟨o, p, h⟩ := setMode_frame s m
  rw [h]
  exact ⟨rfl, rfl⟩

theorem recomputeHealth_sameSecure : SameSecure s (recomputeHealth s) := by
  obtain ⟨o, p, h⟩ := recomputeHealth_frame s
  rw [h]
  exact ⟨rfl, rfl⟩

theorem sendSets_sameSecure (ps : List Nat) (c : Byte) (y : BitVec 40) (n : Nat) : SameSecure s (sendSets s ps c y n) := by
  rw [sendSets_eq]
  exact ⟨rfl, rfl⟩

theorem modQueen_sameSecure (q : Nat) (f : Queen → Queen) : SameSecure s (modQueen s q f) := ⟨rfl, rfl⟩

theorem modChan_sameSecure (n : Nat) (f : Chan → Chan) : SameSecure s (modChan s n f) := ⟨rfl, rfl⟩

theorem sendBeacon_sameSecure (p : Nat) : SameSecure s (sendBeacon s p) := by
  rw [sendBeacon_eq]
  exact ⟨rfl, rfl⟩

theorem noteDoubleFree_sameSecure (owner requester : Nat) : SameSecure s (noteDoubleFree s owner requester) := by
  unfold noteDoubleFree
  generalize hv : count _ _ = v
  have hnoted : SameSecure s v := by subst hv; exact ⟨rfl, rfl⟩
  exact hnoted.trans (recomputeHealth_sameSecure v)

theorem freeBufHandle_sameSecure (h : Nat) : SameSecure s (freeBufHandle s h) := by
  unfold freeBufHandle
  split
  · exact noteDoubleFree_sameSecure ..
  · exact ⟨rfl, rfl⟩

theorem freeChunks_sameSecure (cs : List Chunk) : SameSecure s (freeChunks s cs) :=
  .foldl (fun t _ => .foldl freeBufHandle_sameSecure _ t) cs s

theorem releaseFrame_sameSecure (f : CFrame) : SameSecure s (releaseFrame s f) := by
  obtain ⟨o, c, h⟩ := releaseFrame_frame s f
  rw [h]
  exact ⟨rfl, rfl⟩

theorem dropLeaf_sameSecure (id : Nat) : SameSecure s (dropLeaf s id) := by
  unfold dropLeaf
  split
  · exact noteDoubleFree_sameSecure ..
  · split
    · exact releaseFrame_sameSecure ..
    · exact ⟨rfl, rfl⟩

theorem settleLeaves_sameSecure : SameSecure s (settleLeaves s) :=
  SameSecure.trans (t := { s with su := { s.su with leaves := (sortLeaves s s.su.leaves ([], [])).1 } }) ⟨rfl, rfl⟩
    (.foldl (fun t _ => dropLeaf_sameSecure t _) _ _)

theorem discardStep_sameSecure (l : Launch) : SameSecure s (discardStep s l) := by
  unfold discardStep
  extract_lets s1 gone mine isGone lost s2 _ _ _ _ s3 s3' qs s4
  have hfreed : SameSecure s1 s2 := (freeChunks_sameSecure s1 gone).trans
    (.foldl (fun t (g : Nat × Nat × Nat × Nat) => freeBufHandle_sameSecure t g.2.2.2) lost _)
  have hleaves : SameSecure s3 s3' := (settleLeaves_sameSecure s3).trans ⟨rfl, rfl⟩
  have hqueens : SameSecure s3' s4 := .foldl (fun t q => modQueen_sameSecure t q _) qs s3'
  have hstart : SameSecure s s1 := ⟨rfl, rfl⟩
  have hdropped : SameSecure s2 s3 := ⟨rfl, rfl⟩
  exact hstart.trans (hfreed.trans (hdropped.trans (hleaves.trans (hqueens.trans (.foldl (fun t c => modChan_sameSecure t c _) _ _)))))

theorem endLaunch_sameSecure : SameSecure s (endLaunch s) := by
  unfold endLaunch
  split
  · exact .refl s
  · rename_i l _
    extract_lets s1 s2 _ _ s3 _
    have hqueens : SameSecure s s1 := .foldl (fun t q => modQueen_sameSecure t q _) _ s
    have hchans : SameSecure s1 s2 := .foldl (fun t c => modChan_sameSecure t c _) _ s1
    have hended : SameSecure s2 s3 := ⟨rfl, by simp only [s3]; split <;> rfl⟩
    have hsame : SameSecure s s3 := hqueens.trans (hchans.trans hended)
    split
    · exact hsame.trans (setMode_sameSecure ..)
    · split
      · exact hsame.trans ⟨rfl, rfl⟩
      · exact hsame

theorem endStep_sameSecure (o : Outcome') (f : Fail) : SameSecure s (endStep s o f) := by
  unfold endStep
  split
  · exact .refl s
  · rename_i l _
    split
    · exact endLaunch_sameSecure s
    · have hwritten : SameSecure s (writeCompletion s o f) := by
        obtain ⟨held, stats, hw⟩ := writeCompletion_frame s o f
        rw [hw]
        exact ⟨rfl, rfl⟩
      have hdiscarded := discardStep_sameSecure (writeCompletion s o f) l
      have hboundary : SameSecure (discardStep (writeCompletion s o f) l) (stepBoundary (discardStep (writeCompletion s o f) l)) := ⟨rfl, rfl⟩
      exact hwritten.trans (hdiscarded.trans (hboundary.trans (endLaunch_sameSecure _)))

theorem unstage_sameSecure (o : Nat) (c : Copy) : SameSecure s (unstage s o c) := by
  unfold unstage
  split
  · exact ⟨rfl, rfl⟩
  · split <;> exact ⟨rfl, rfl⟩

theorem fenceOutput_sameSecure (o : Nat) : SameSecure s (fenceOutput s o) := by
  unfold fenceOutput
  dsimp only
  split
  · exact .refl s
  · rename_i c r _
    have hback := SameSecure.foldl (fun t x => unstage_sameSecure t o x) (r.filter fun x => !copyTc7 s x).reverse s
    exact ⟨hback.sec, hback.held⟩

theorem enterSafe_sameSecure {alarm : State → State} (halarm : ∀ t, SameSecure t (alarm t)) (m : Mech) (loc : Nat) :
    SameSecure s (enterSafe s alarm m loc) := by
  unfold enterSafe
  split
  · exact .refl s
  · extract_lets _ s1 s3 s4 _
    have hlow : SameSecure s { s with dev := { s.dev with safeN := false } } := ⟨rfl, rfl⟩
    have hfenced : SameSecure s s1 := hlow.trans (.foldl (fun t e => fenceOutput_sameSecure t _) _ _)
    have hbeacons : SameSecure s3 s4 := .foldl sendBeacon_sameSecure _ s3
    have hsafe : SameSecure s s4 := hfenced.trans ((halarm s1).trans ((setMode_sameSecure (alarm s1) .safe).trans hbeacons))
    exact ⟨hsafe.sec, hsafe.held⟩

theorem actPoison_sameSecure (cause : Nat) : SameSecure s (actPoison s cause) := by
  unfold actPoison
  split
  · rename_i l st _ _
    split
    · exact endStep_sameSecure ..
    · split
      · exact .refl s
      · extract_lets st' _ h _ s0 s1
        have hnoted : SameSecure s s0 := ⟨rfl, rfl⟩
        have hdiscard : SameSecure s s1 := hnoted.trans (discardStep_sameSecure s0 l)
        split
        · exact hnoted.trans (endStep_sameSecure s0 _ _)
        · split
          · exact hdiscard.trans (enterSafe_sameSecure s1 (fun t => sendSets_sameSecure t ..) _ _)
          · exact hdiscard
  · exact .refl s

theorem raisePoison_sameSecure (c : PCause) : SameSecure s (raisePoison s c) := by
  unfold raisePoison
  split
  · extract_lets code _
    split
    · exact ⟨rfl, rfl⟩
    · exact (sendSets_sameSecure s ..).trans (actPoison_sameSecure ..)
  · exact .refl s

theorem doubleFree_sameSecure (owner requester : Nat) : SameSecure s (doubleFree s owner requester) :=
  (noteDoubleFree_sameSecure s owner requester).trans (raisePoison_sameSecure ..)

theorem safeEntry_sameSecure (m : Mech) (loc : Nat) : SameSecure s (safeEntry s m loc) := by
  refine enterSafe_sameSecure s (fun t => ?_) m loc
  split
  · exact .refl t
  · exact raisePoison_sameSecure ..

theorem combRead_sameSecure (p : CombMeta → Bool) : SameSecure s (combRead s p).1 := by
  unfold combRead
  extract_lets hit _ s1
  have hcounted : SameSecure s s1 := ⟨rfl, rfl⟩
  split
  · exact .refl s
  · split
    · exact hcounted.trans (safeEntry_sameSecure s1 ..)
    · exact hcounted

theorem decRef_sameSecure (id requester : Nat) : SameSecure s (decRef s id requester) := by
  unfold decRef
  split
  · exact doubleFree_sameSecure ..
  · split
    · exact doubleFree_sameSecure ..
    · split
      · exact releaseFrame_sameSecure ..
      · exact ⟨rfl, rfl⟩

/-- A write to HBM changes memory, or ends the step (11 R314, R321, R322). -/
theorem hbmWriteBlock_frame (a : Nat) (bs : List Byte) : ∃ h j, hbmWriteBlock s a bs = { s with hbm := h, job := j } := by
  have hfail : ∀ f, ∃ h j, failStep s f = { s with hbm := h, job := j } := fun f => by
    unfold failStep
    split
    · exact ⟨s.hbm, s.job, rfl⟩
    · split <;> exact ⟨s.hbm, _, rfl⟩
  unfold hbmWriteBlock
  split
  · exact ⟨_, s.job, rfl⟩
  · dsimp only
    split
    · split
      · split
        · exact ⟨_, s.job, rfl⟩
        · exact hfail _
      · exact ⟨_, s.job, rfl⟩
    · split
      · split
        · exact hfail _
        · exact ⟨_, s.job, rfl⟩
      · exact ⟨_, s.job, rfl⟩

theorem hbmWriteFuel_frame (a : Nat) (bs : List Byte) (fuel : Nat) : ∃ h j, hbmWriteFuel s a bs fuel = { s with hbm := h, job := j } := by
  induction fuel generalizing s a bs with
  | zero => exact ⟨s.hbm, s.job, rfl⟩
  | succ fuel ih =>
    unfold hbmWriteFuel
    split
    · exact ⟨s.hbm, s.job, rfl⟩
    · obtain ⟨h, j, hblock⟩ := hbmWriteBlock_frame s a (bs.take (4096 - a % 4096))
      obtain ⟨h', j', hrest⟩ := ih (hbmWriteBlock s a (bs.take (4096 - a % 4096))) (a + (4096 - a % 4096)) (bs.drop (4096 - a % 4096))
      exact ⟨h', j', hrest.trans (by rw [hblock])⟩

theorem putRecords_frame (off : Nat) (l : List (Nat × List Byte)) : ∃ h j, putRecords s off l = { s with hbm := h, job := j } := by
  induction l generalizing s off with
  | nil => exact ⟨s.hbm, s.job, rfl⟩
  | cons x r ih =>
    obtain ⟨h, j, hone⟩ := hbmWriteFuel_frame s (s.fab.ringBase.toNat + off % s.fab.ringSize) x.2 3
    obtain ⟨h', j', hrest⟩ := ih (hbmWriteFuel s (s.fab.ringBase.toNat + off % s.fab.ringSize) x.2 3) (off + 128)
    exact ⟨h', j', hrest.trans (by rw [hone])⟩

theorem ringPut_frame (rule : Nat) (bs : List Byte) : ∃ f h j, ringPut s rule bs = { s with fab := f, hbm := h, job := j } := by
  unfold ringPut
  extract_lets t old run off s1
  obtain ⟨h, j, hput⟩ := putRecords_frame s off run
  have hs1 : s1 = { s with hbm := h, job := s1.job } := by simp only [s1, hput]; rfl
  exact ⟨_, h, s1.job, by rw [hs1]⟩

/-- The mirror changes its counts and its ring (07 R231 to R234). -/
theorem mirror_frame (f : Frame) (ev inp out cause colour depth : Nat) :
    ∃ fab h j st, mirror s f ev inp out cause colour depth = { s with fab := fab, hbm := h, job := j, stats := st } := by
  unfold mirror
  split
  · exact ⟨s.fab, s.hbm, s.job, s.stats, rfl⟩
  · extract_lets hit sel cnt _ s1
    clear_value sel
    rcases sel with _ | ⟨n, w⟩
    · exact ⟨_, s.hbm, s.job, s.stats, rfl⟩
    · dsimp only
      split
      · exact ⟨_, s.hbm, s.job, _, rfl⟩
      · obtain ⟨fab, h, j, hput⟩ := ringPut_frame s1 n (mirrorRecord s1 f ev inp out n cause colour depth)
        exact ⟨fab, h, j, s.stats, hput⟩

theorem mirror_sameSecure (f : Frame) (ev inp out cause colour depth : Nat) : SameSecure s (mirror s f ev inp out cause colour depth) := by
  obtain ⟨fab, h, j, st, heq⟩ := mirror_frame s f ev inp out cause colour depth
  rw [heq]
  exact ⟨rfl, rfl⟩

theorem discard_sameSecure (index : Nat) (f : Frame) (c : Cause) (inp out colour depth : Nat) :
    SameSecure s (discard s index f c inp out colour depth) := by
  have hcounted : SameSecure s (countDiscard s index (frmCls f) c) := ⟨rfl, rfl⟩
  exact hcounted.trans (mirror_sameSecure ..)

theorem startCopy_sameSecure (o id : Nat) (circuit : Option Nat) : SameSecure s (startCopy s o id circuit) := by
  unfold startCopy
  split
  · exact doubleFree_sameSecure ..
  · rename_i cf _
    have hread := combRead_sameSecure s fun m => m == .entry o id || cf.chain.any fun k => m == .cell k
    dsimp only
    split
    · exact hread
    · generalize hu : countN _ .combSbe 0 _ = u
      have hcounted : SameSecure s u := by subst hu; exact ⟨hread.sec, hread.held⟩
      split
      · exact hcounted.trans ((discard_sameSecure ..).trans (decRef_sameSecure ..))
      · generalize hv : ({ u with comb := _ } : State) = v
        have hsent : SameSecure u v := by subst hv; exact ⟨rfl, rfl⟩
        exact hcounted.trans (hsent.trans (mirror_sameSecure ..))

theorem slotStart_sameSecure (o slot : Nat) : SameSecure s (slotStart s o slot) := by
  unfold slotStart
  dsimp only
  split
  · exact .refl s
  · split
    · exact .refl s
    · split
      · exact ⟨rfl, rfl⟩
      · split
        · refine SameSecure.trans ?_ (startCopy_sameSecure ..)
          exact ⟨rfl, rfl⟩
        · exact .refl s

theorem dropIds_sameSecure (o : Nat) (c : Cause) (depth : Nat) (ids : List Nat) : SameSecure s (dropIds s o c depth ids) := by
  refine .foldl (fun t id => ?_) ids s
  split
  · rename_i cf _
    have hread := combRead_sameSecure t fun m => m == .cell id || m == .entry o id
    dsimp only
    split
    · exact hread
    · exact hread.trans ((discard_sameSecure ..).trans (decRef_sameSecure ..))
  · exact doubleFree_sameSecure ..

theorem dropOutput_sameSecure (o : Nat) : SameSecure s (dropOutput s o) := by
  unfold dropOutput
  extract_lets qs cs copies _ s1 s2 s3
  have hcut : SameSecure s s1 := ⟨rfl, rfl⟩
  have hqueues : SameSecure s1 s2 := .foldl (fun t e => dropIds_sameSecure t ..) qs s1
  have hcircuits : SameSecure s2 s3 := .foldl (fun t e => dropIds_sameSecure t ..) cs s2
  exact hcut.trans (hqueues.trans (hcircuits.trans (.foldl (fun t c => decRef_sameSecure t ..) copies s3)))

theorem portDown_sameSecure (p : Nat) : SameSecure s (portDown s p) := by
  unfold portDown
  extract_lets s1 _ _ s2
  have hdown : SameSecure s s2 := ⟨rfl, rfl⟩
  exact hdown.trans ((dropOutput_sameSecure s2 p).trans (recomputeHealth_sameSecure _))

/-- The ports going down leave the security state and the held sets. -/
theorem lanesOff_sameSecure : SameSecure s (lanesOff s) := .foldl portDown_sameSecure _ s

end Sys2Proof.Machine
end

section
/-! SUPPORT. Freezing and thawing (14 R411 to R418): which ids a command or a set takes or clears, the sets that go on, and the resume. -/

namespace Sys2Proof.Machine

variable {s : State}

theorem any_fst_iff {α : Type} {l : List (Nat × α)} {id : Nat} : (l.any fun h => h.1 == id) = true ↔ id ∈ l.map (·.1) := by
  simp [List.any_eq_true]

theorem freezePayload_eq {id : Nat} (h : id < 65536) : freezePayload s id = BitVec.ofNat 40 (id + 65536 * s.dev.eid.toNat) := by
  have heid : s.dev.eid.toNat < 65536 := s.dev.eid.isLt
  simp [freezePayload, pack, Nat.mod_eq_of_lt h, Nat.mod_eq_of_lt heid, Nat.shiftLeft_eq, Nat.mul_comm]

theorem freezeCommand_held {id : Nat} (h : id ∈ s.dev.freezeIds.map (·.1)) (propagate : Bool) : freezeCommand s id propagate = s :=
  if_pos (any_fst_iff.2 h)

theorem freezeCommand_new {id : Nat} (h : id ∉ s.dev.freezeIds.map (·.1)) (hid : id < 65536) (propagate : Bool) :
    freezeCommand s id propagate = freezeNow { s with
      sbq := s.sbq ++ (if propagate then (sbPorts s).flatMap fun p => List.replicate 3 (.ordered p codeFreeze
        (BitVec.ofNat 40 (id + 65536 * s.dev.eid.toNat))) else [])
      dev := { s.dev with freezeIds := s.dev.freezeIds ++ [(id, !propagate)] } } := by
  rw [freezeCommand, if_neg (mt any_fst_iff.1 h), takeFreeze, freezePayload_eq hid]
  cases propagate
  · simp
  · simp only [if_true, sendSets_eq]

/-- The sets that a THAW command sends where an id that it clears had come from a set, or with propagate set (R414). -/
def thawSets (s : State) (id : Nat) : List OutEvent :=
  (sbPorts s).flatMap fun p => List.replicate 3 (.ordered p codeThaw (BitVec.ofNat 40 (id + 65536 * s.dev.eid.toNat)))

theorem thawCommand_eq {id : Nat} (hid : id < 65536) : thawCommand s id = resume (clearFreeze { s with
    sbq := s.sbq ++ if (s.dev.freezeIds.any fun h => (h.1 == id || id == 0xFFFF) && !h.2) = true then thawSets s id else [] } id) := by
  rw [thawCommand, freezePayload_eq hid]
  split
  · rw [sendSets_eq, thawSets]
  · rw [List.append_nil]

theorem thawCommand_one {id : Nat} (hid : id < 65536) (hone : id ≠ 0xFFFF) : thawCommand s id = resume { s with
    sbq := s.sbq ++ (if (id, false) ∈ s.dev.freezeIds then thawSets s id else [])
    dev := { s.dev with freezeIds := s.dev.freezeIds.filter fun h => h.1 != id } } := by
  have hloud : (s.dev.freezeIds.any fun h => (h.1 == id || id == 0xFFFF) && !h.2) = true ↔ (id, false) ∈ s.dev.freezeIds := by
    simp only [List.any_eq_true, beq_eq_false_iff_ne.2 hone, Bool.or_false, Bool.and_eq_true, beq_iff_eq, Bool.not_eq_true']
    exact ⟨fun ⟨⟨_, _⟩, hmem, hfst, hsnd⟩ => hfst ▸ hsnd ▸ hmem, fun hmem => ⟨_, hmem, rfl, rfl⟩⟩
  rw [thawCommand_eq hid, if_congr hloud rfl rfl, clearFreeze, if_neg hone]

theorem thawCommand_all : thawCommand s 0xFFFF = resume { s with
    sbq := s.sbq ++ (if ∃ h ∈ s.dev.freezeIds, h.2 = false then thawSets s 0xFFFF else [])
    dev := { s.dev with freezeIds := [] } } := by
  have hloud : (s.dev.freezeIds.any fun h => (h.1 == 0xFFFF || 0xFFFF == 0xFFFF) && !h.2) = true ↔ ∃ h ∈ s.dev.freezeIds, h.2 = false := by
    simp [List.any_eq_true]
  rw [thawCommand_eq (by decide), if_congr hloud rfl rfl, clearFreeze, if_pos rfl]

section sets

/-- What a FREEZE or THAW set that is acted on makes leave: the set itself with its hop count raised, unless that is 255, by the other
sidebands, and the module's own by all (R414). -/
def setsOnward (s : State) (code : Byte) (p : Nat) (pay : BitVec 40) : List OutEvent :=
  (if fld pay 32 8 = 255 then [] else
    (otherPorts s p).flatMap fun q => List.replicate 3 (OutEvent.ordered q code (setFld pay 32 8 (fld pay 32 8 + 1)))) ++
  (sbPorts s).flatMap fun q => List.replicate 3 (OutEvent.ordered q code (BitVec.ofNat 40 (fld pay 0 16 + 65536 * s.dev.eid.toNat)))

theorem passSet_eq (s : State) (code : Byte) (p : Nat) (pay : BitVec 40) :
    passSet s code p pay = { s with sbq := s.sbq ++ setsOnward s code p pay } := by
  have hid : fld pay 0 16 < 65536 := nfld_lt _ 0 16
  rw [passSet, freezePayload_eq hid, setsOnward, forwardSet, hopOn]
  split <;> rename_i hpay <;> split at hpay
  · exact absurd hpay (by simp)
  · rename_i hhop
    obtain rfl := Option.some.inj hpay
    simp only [sendSets_eq, if_neg hhop, List.append_assoc]
  · rename_i hhop
    simp only [sendSets_eq, if_pos hhop, List.nil_append]
  · exact absurd hpay (by simp)

variable {rx : SetRx} {code : Byte}

theorem setsOnward_noteSet (p : Nat) (pay : BitVec 40) : setsOnward (noteSet s code rx) code p pay = setsOnward s code p pay := by
  simp only [setsOnward, otherPorts_noteSet, sbPorts_noteSet]
  rfl

theorem freezeOrderedSet_new (h : setFresh s codeFreeze 0 rx) (hnew : fld rx.payload 0 16 ∉ s.dev.freezeIds.map (·.1)) :
    freezeOrderedSet rx s = freezeNow { noteSet s codeFreeze rx with
      sbq := s.sbq ++ setsOnward s codeFreeze rx.port.val rx.payload
      dev := { s.dev with freezeIds := s.dev.freezeIds ++ [(fld rx.payload 0 16, false)] } } := by
  refine (onTriple_fresh _ h).trans ((if_neg (mt any_fst_iff.1 hnew)).trans ?_)
  rw [takeFreeze, passSet_eq, setsOnward_noteSet]
  rfl

theorem freezeOrderedSet_held (h : setFresh s codeFreeze 0 rx) (hheld : fld rx.payload 0 16 ∈ s.dev.freezeIds.map (·.1)) :
    freezeOrderedSet rx s = noteSet s codeFreeze rx := (onTriple_fresh _ h).trans (if_pos (any_fst_iff.2 hheld))

theorem holdsFreeze_iff {id : Nat} : holdsFreeze s id = true ↔
    if id = 0xFFFF then s.dev.freezeIds ≠ [] else id ∈ s.dev.freezeIds.map (·.1) := by
  by_cases hall : id = 0xFFFF
  · rw [holdsFreeze, if_pos hall]
    cases s.dev.freezeIds <;> simp [hall]
  · simp only [holdsFreeze, beq_eq_false_iff_ne.2 hall, Bool.or_false, if_neg hall, any_fst_iff]

theorem thawOrderedSet_named (h : setFresh s codeThaw 0 rx) (hnamed : holdsFreeze s (fld rx.payload 0 16) = true) :
    thawOrderedSet rx s = resume { noteSet s codeThaw rx with
      sbq := s.sbq ++ setsOnward s codeThaw rx.port.val rx.payload
      dev := { s.dev with
        freezeIds := if fld rx.payload 0 16 = 0xFFFF then [] else s.dev.freezeIds.filter fun h => h.1 != fld rx.payload 0 16 } } := by
  refine (onTriple_fresh _ h).trans ((if_pos hnamed).trans ?_)
  rw [passSet_eq, setsOnward_noteSet]
  rfl

theorem thawOrderedSet_unnamed (h : setFresh s codeThaw 0 rx) (hnamed : ¬holdsFreeze s (fld rx.payload 0 16) = true) :
    thawOrderedSet rx s = noteSet s codeThaw rx := (onTriple_fresh _ h).trans (if_neg hnamed)

end sets

theorem freezeNPin_low_iff : freezeNPin s = false ↔
    s.dev.freezeNLow = true ∨ auxOn s = true ∧ ∃ h ∈ s.dev.freezeIds, h.2 = false := by
  simp only [freezeNPin, drivesFreezeN, Bool.not_eq_false', Bool.or_eq_true, Bool.and_eq_true, List.any_eq_true, Bool.not_eq_true']

theorem freezeNow_frozen (h : s.dev.frozenPin = true) : freezeNow s = s := if_pos h

theorem resume_frozen (h : isFrozen s = true) : resume s = s := if_pos (by simp [h])

/-- The module that asserts FROZEN, before STATE follows. -/
def freezeBegun (s : State) : State := { s with dev := { s.dev with frozenPin := true, frozeAt := s.clk.t48, frozenRx := 0 } }

theorem freezeNow_serving (h : s.dev.frozenPin = false) (hmode : s.dev.mode ∈ [Mode.ready, .joined, .active, .fenced]) :
    freezeNow s = setMode { freezeBegun s with dev := { (freezeBegun s).dev with remembered := s.dev.mode } } .frozen := by
  rw [freezeNow, if_neg (by simp [h])]
  split
  case h_5 hm => exact absurd hmode (by simp [hm])
  case h_6 hready hjoined hactive hfenced _ =>
    simp only [List.mem_cons, List.not_mem_nil, or_false] at hmode
    obtain hm | hm | hm | hm := hmode <;> contradiction
  all_goals rfl

theorem freezeNow_other (h : s.dev.frozenPin = false) (hmode : s.dev.mode ∉ [Mode.ready, .joined, .active, .fenced]) :
    ∃ o p, freezeNow s = { freezeBegun s with out := o, host := { s.host with msixPending := p } } := by
  rw [freezeNow, if_neg (by simp [h])]
  split
  case h_5 => exact msix_frame (freezeBegun s) 66
  case h_6 => exact ⟨s.out, s.host.msixPending, rfl⟩
  all_goals
    rename_i hm
    exact absurd (by simp [hm]) hmode

/-- A module that serves, frozen: its clocks stop. -/
theorem clocksRun_frozen (hpin : s.dev.frozenPin = true) (hmode : s.dev.mode = .frozen ∨ s.dev.mode = .safe) : clocksRun s = false := by
  obtain hmode | hmode := hmode <;> simp [clocksRun, hpin, hmode]

end Sys2Proof.Machine
end

section
/-! SUPPORT. The resume (14 R415, R416, R418): where nothing was in transmission and no set was held, only the missed events are left; and a
root cycle while the clocks stand. -/

namespace Sys2Proof.Machine

variable {s : State}

theorem cutCopy_no_copies {o : Nat} (h : (tblGet {} s.comb.egress o).copies = []) (t : Nat) : cutCopy s o t = s := by
  simp [cutCopy, h]

theorem foldl_cutCopy_no_copies (h : ∀ o, (tblGet {} s.comb.egress o).copies = []) (os : List Nat) (t : Nat) :
    os.foldl (fun u o => cutCopy u o t) s = s := by
  induction os with
  | nil => rfl
  | cons o os ih => rw [List.foldl_cons, cutCopy_no_copies (h o), ih]

theorem actHeld_none (h : s.dev.heldSets = []) : actHeld s = s := by
  have hdev : { s.dev with heldSets := [] } = s.dev := by rw [← h]
  simp only [actHeld, h, List.foldl_nil, hdev]

theorem skipPatrols_sameSecure (t : Nat) : SameSecure s (skipPatrols s t) := by
  unfold skipPatrols
  exact ⟨rfl, rfl⟩

/-- What is made up for after a freeze leaves the held sets as they are. -/
theorem missedEvents_held (t48 : Nat) : (missedEvents s t48).dev.heldSets = s.dev.heldSets := by
  unfold missedEvents
  extract_lets t s1 slots s2 ends s3 n
  have hpatrols : SameSecure s s1 := skipPatrols_sameSecure t
  have hslots : SameSecure s1 s2 := .foldl (fun u sc => .foldl (fun v o => slotStart_sameSecure v o _) _ u) slots s1
  have hends : SameSecure s2 s3 := by
    simp only [s3]
    split
    · exact .refl s2
    · exact .foldl (f := fun u b => takeSnapshot u b false) (fun u b => ⟨rfl, rfl⟩) ends s2
  exact (hpatrols.trans (hslots.trans hends)).held

/-- The module that has resumed, before what it missed takes effect: FROZEN is released, STATE is what it remembered, and the arrivals that it
discarded are counted (R415, R418). -/
def resumed (s : State) : State :=
  countN (setMode { s with dev := { s.dev with frozenPin := false, frozenRx := 0, stageHeld := false } } s.dev.remembered) .frozenRxDiscard 0
    s.dev.frozenRx

theorem resume_eq (hfree : isFrozen s = false) (hpin : s.dev.frozenPin = true) (hmode : s.dev.mode = .frozen) (hheld : s.dev.heldSets = [])
    (hcopies : ∀ o, (tblGet {} s.comb.egress o).copies = []) : resume s = missedEvents (resumed s) s.dev.frozeAt := by
  obtain ⟨o, p, hset⟩ := setMode_frame { s with dev := { s.dev with frozenPin := false, frozenRx := 0, stageHeld := false } } s.dev.remembered
  have hegress : (resumed s).comb = s.comb := by rw [resumed, hset]; rfl
  have hkept : (resumed s).dev.heldSets = [] := by rw [resumed, hset]; exact hheld
  have hclocks : clocksHeld s = true := by simp [clocksHeld, hpin, hmode]
  rw [resume, if_neg (by simp [hfree, hpin])]
  extract_lets _ s1 s2 cut
  have hs2 : s2 = resumed s := congrArg (countN · .frozenRxDiscard 0 s.dev.frozenRx) (if_pos (by simp [hmode]))
  rw [if_pos hclocks, hs2, foldl_cutCopy_no_copies (by rw [hegress]; exact hcopies), actHeld_none ((missedEvents_held _).trans hkept)]

theorem sideSend_logic (p : Nat) : (sideSend s p).clk.logic = s.clk.logic := by
  unfold sideSend
  split
  · rfl
  · split
    · rfl
    · dsimp only
      split
      · split <;> rfl
      · rfl

theorem sideSends_logic : (sideSends s).clk.logic = s.clk.logic := by
  have hall : ∀ (ps : List Nat) (t : State), (ps.foldl sideSend t).clk.logic = t.clk.logic := fun ps => by
    induction ps with
    | nil => exact fun t => rfl
    | cons p ps ih => exact fun t => (ih _).trans (sideSend_logic p)
  unfold sideSends
  split
  · rfl
  · exact hall _ s

/-- A root cycle while the clocks stand does not advance theirs (R416). -/
theorem tick_logic_stopped (h : clocksRun s = false) : (tick s).clk.logic = s.clk.logic := by
  unfold tick
  split
  · rfl
  · simp only [h, Bool.false_eq_true, if_false]
    exact sideSends_logic

end Sys2Proof.Machine

open Sys2Proof Sys2Proof.Machine

/-- Settles O24: which ids a command, a set or FREEZE_N takes or clears and what goes on, then the freeze, the resume, and the clocks between. -/
theorem freezeCommands : Obligations.FreezeCommands := by
  refine ⟨⟨fun src s r => ⟨fun h hheld => ?_, fun h hnew => ?_, fun h hone => ?_, fun h hall => ?_⟩,
    fun s rx => fun hfresh => ⟨fun hnew => ?_, fun hheld => ?_⟩, fun s rx => fun hfresh => ⟨fun hnamed => ?_, fun hnamed => ?_⟩,
    fun s => ⟨rfl, rfl, freezeNPin_low_iff⟩⟩,
    fun s hpin => ?_, fun s h => freezeNow_frozen h, fun s h => resume_frozen h, fun s hfree hpin hmode hheld hcopies => ?_,
    fun s t hpin hmode hidle hstep => ?_⟩
  · exact congrArg Host.Outcome.next (runCmd_done h (congrArg done (freezeCommand_held (s := takeReq s r) hheld _)))
  · exact congrArg Host.Outcome.next (runCmd_done h (congrArg done
      (freezeCommand_new (s := takeReq s r) hnew (Nat.mod_lt _ (by decide)) _)))
  · have hid : rn r 0 < 65536 := Nat.lt_succ_of_le (wordsForm_none (accepted_form (c := thawCmd) h) 0 (by decide))
    rw [Nat.mod_eq_of_lt hid]
    exact congrArg Host.Outcome.next (runCmd_done h (congrArg done (thawCommand_one (s := takeReq s r) hid hone)))
  · rw [hall]
    refine congrArg Host.Outcome.next (runCmd_done h (congrArg done ?_))
    rw [hall]
    exact thawCommand_all (s := takeReq s r)
  · exact congrArg Host.Outcome.next (freezeOrderedSet_new hfresh hnew)
  · exact congrArg Host.Outcome.next (freezeOrderedSet_held hfresh hheld)
  · exact congrArg Host.Outcome.next (thawOrderedSet_named hfresh (holdsFreeze_iff.2 hnamed))
  · exact congrArg Host.Outcome.next (thawOrderedSet_unnamed hfresh (mt holdsFreeze_iff.1 hnamed))
  · intro t
    by_cases hserving : s.dev.mode ∈ [Mode.ready, .joined, .active, .fenced]
    · obtain ⟨o, p, hset⟩ := setMode_frame { freezeBegun s with dev := { (freezeBegun s).dev with remembered := s.dev.mode } } .frozen
      have ht : t = _ := (freezeNow_serving hpin hserving).trans hset
      rw [ht]
      refine ⟨rfl, rfl, rfl, fun _ => ⟨rfl, rfl, clocksRun_frozen rfl (.inl rfl)⟩, fun hother => ?_, rfl⟩
      simp only [List.mem_cons, List.not_mem_nil, or_false] at hserving hother
      obtain hm | hm | hm | hm := hserving <;> simp [hm] at hother
    · obtain ⟨o, p, hset⟩ := freezeNow_other hpin hserving
      have ht : t = _ := hset
      rw [ht]
      exact ⟨rfl, rfl, rfl, fun h => absurd h hserving, fun _ => rfl, rfl⟩
  · exact resume_eq hfree hpin hmode hheld hcopies
  · rw [step, hidle] at hstep
    obtain rfl := Host.Outcome.next.inj hstep
    exact tick_logic_stopped (clocksRun_frozen hpin hmode)

end

section
/-! SUPPORT. A poison of a safe-state entry meets a bad word of region metadata (11 R325; 13 R375, R386): the end of the attempt reads the DIRTY
bits of the key's regions, and a double-bit error there enters the safe state in its turn, before the entry that raised the poison is done. -/

namespace Sys2Proof.Machine

/-- A step of key 1 is in progress, and the DIRTY bits of its region of one page have a double-bit error. -/
def badDirty : State := { inStep0 with hbm := { regions := [(0, pageRegion)], selErrs := [(0, some true)] } }

theorem badDirty_serves : 2 ≤ badDirty.dev.mode.code ∧ badDirty.dev.mode ≠ .safe := by decide

/-- The error of a clock there is written to the safety log behind that of the metadata (Table 13.6). -/
theorem safetyLog_badDirty : (safeEntry badDirty .clock 0).dev.safetyLog.map (·.mech) = [Mech.metadata.no, Mech.clock.no] := by decide +kernel

end Sys2Proof.Machine

open Sys2Proof Sys2Proof.Machine

/-- Refutes O28: an entry to the safe state does not always write one entry, that of its mechanism, to the safety log. Its poison ends the
attempt (13 R375), which reads the DIRTY bits of the key's regions; where these have a double-bit error, the safe-state entry that they bring
(11 R325) comes first, and its mechanism too is written. -/
theorem not_powerInputs : ¬ Obligations.PowerInputs := by
  rintro ⟨-, hentry⟩
  obtain ⟨hservice, hsafe⟩ := badDirty_serves
  obtain ⟨-, -, hlog, -⟩ := (hentry badDirty .clock 0).1 hservice hsafe
  have htwo := safetyLog_badDirty
  rw [hlog] at htwo
  exact absurd htwo (by decide)

end

section
/-! SUPPORT. A warm reset of a module with a cluster whose queens failed before (14 R407; 04 R117): it retires the cluster, and DEGRADED follows. -/

namespace Sys2Proof.Machine

/-- The queens of physical cluster 0 are noted as failed, and nothing runs. -/
def queensFailed : State := { State.reset with comp := { clusters := [some 0], failedQueens := [0] } }

theorem warmReset_queensFailed : (warmReset queensFailed []).dev.degraded = true := by decide +kernel

end Sys2Proof.Machine

open Sys2Proof Sys2Proof.Machine

/-- Refutes O25: a warm reset without a launch, failed cores and failed units need not leave DEGRADED as it was. A cluster whose queens stand
noted as failed is retired by it (04 R117), and a retired cluster marks the module DEGRADED (13 Table 13.8). -/
theorem not_resetCommands : ¬ Obligations.ResetCommands := by
  rintro ⟨-, -, hwarm, -⟩
  obtain ⟨-, -, -, -, -, -, -, -, -, -, hdev, -⟩ := hwarm queensFailed rfl rfl rfl
  have hdegraded := warmReset_queensFailed
  rw [hdev] at hdegraded
  exact absurd hdegraded (by decide)

end

section
/-! SUPPORT. Throttling (14 R420 to R424): the thermal level by its thresholds, the cap level by its period, and the range of each. -/

namespace Sys2Proof.Machine

section thermal
variable {level now tj th : Nat} {cool : Option Nat}

theorem thermalLevel_trip (h : 105 ≤ tj ∨ 95 ≤ th) : thermalLevel level now cool tj th = (12, none) := if_pos (by simpa using h)

theorem thermalLevel_hot (htj : tj < 105) (hth : th < 95) (h : 100 ≤ tj ∨ 90 ≤ th) :
    thermalLevel level now cool tj th = (min 12 (level + 1), none) := by
  unfold thermalLevel
  rw [if_neg (by simp [htj, hth]), if_pos (by simpa using h)]

theorem thermalLevel_cool (htj : tj < 97) (hth : th < 87) : thermalLevel level now cool tj th =
    match cool with
    | none => (level, some now)
    | some t => if t + 1000000 ≤ now then (level - 1, some now) else (level, some t) := by
  have hnot : ¬(105 ≤ tj ∨ 95 ≤ th) ∧ ¬(100 ≤ tj ∨ 90 ≤ th) := by omega
  exact (if_neg (by simpa using hnot.1)).trans ((if_neg (by simpa using hnot.2)).trans (if_pos (by simp [htj, hth])))

theorem thermalLevel_warm (h : 97 ≤ tj ∨ 87 ≤ th) (htj : tj < 100) (hth : th < 90) :
    thermalLevel level now cool tj th = (level, none) := by
  have hnot : ¬(105 ≤ tj ∨ 95 ≤ th) ∧ ¬(100 ≤ tj ∨ 90 ≤ th) ∧ ¬(tj < 97 ∧ th < 87) := by omega
  unfold thermalLevel
  rw [if_neg (by simpa using hnot.1), if_neg (by simpa using hnot.2.1), if_neg (by simpa using hnot.2.2)]

theorem thermalLevel_le (h : level ≤ 12) : (thermalLevel level now cool tj th).1 ≤ 12 := by
  unfold thermalLevel
  split
  · exact le_refl 12
  · split
    · exact Nat.min_le_left ..
    · split
      · split
        · exact h
        · split
          · exact (Nat.sub_le ..).trans h
          · exact h
      · exact h

end thermal

section cap
variable {level low cap pin : Nat}

theorem capLevel_over (h : cap < pin) : capLevel level low cap pin = (min 12 (level + 1), 0) := if_pos h

theorem capLevel_near (h : pin ≤ cap) (hnear : 95 * cap ≤ 100 * pin) : capLevel level low cap pin = (level, 0) := by
  rw [capLevel, if_neg (Nat.not_lt.2 h), if_neg (Nat.not_lt.2 hnear)]

theorem capLevel_low (h : 100 * pin < 95 * cap) :
    capLevel level low cap pin = if 10 ≤ low + 1 then (level - 1, 0) else (level, low + 1) := by
  rw [capLevel, if_neg (by omega), if_pos h]

theorem capLevel_le (h : level ≤ 12) : (capLevel level low cap pin).1 ≤ 12 := by
  unfold capLevel
  split
  · exact Nat.min_le_left ..
  · split
    · split
      · exact (Nat.sub_le ..).trans h
      · exact h
    · exact h

end cap

variable {s : State}

theorem thermalSample_early (r : ThermalReading) (h : nowNs s < s.power.thermAt + 100000) : thermalSample r s = s := if_pos (by simp [h])

/-- The sample is taken: the level and the time since which it has been cool follow R423. -/
theorem thermalSample_due {r : ThermalReading} (haux : auxOn s = true) (h : s.power.thermAt + 100000 ≤ nowNs s) {t : Nat} {c : Option Nat}
    (hl : thermalLevel s.power.levelTherm (nowNs s) s.power.coolSince (tjMax r) r.th.toNat = (t, c)) :
    thermalSample r s = { s with power := { s.power with
      levelTherm := t, coolSince := c, thermAt := nowNs s, tj := [r.tj0, r.tj1, r.tj2, r.tj3, r.tjFabric], th := r.th } } := by
  rw [thermalSample, if_neg (by simp [haux, Nat.not_lt.2 h]), hl]

/-- The period ends: the cap level and the count of low periods follow R421. -/
theorem powerCapPeriod_due {r : PowerReading} (hfw : fwRuns s = true) (h : s.power.capAt + 1000000 ≤ nowNs s) {l k : Nat}
    (hl : capLevel s.power.levelCap s.power.lowPeriods s.power.cap r.pin.toNat = (l, k)) :
    powerCapPeriod r s = { s with power := { s.power with
      levelCap := l, lowPeriods := k, capAt := nowNs s, vin := r.vin, iin := r.iin, pin := r.pin } } := by
  rw [powerCapPeriod, if_neg (by simp [hfw, Nat.not_lt.2 h]), hl]

theorem levelsWithin_iff : levelsWithin s = true ↔ s.power.levelCap ≤ 12 ∧ s.power.levelCur ≤ 12 ∧ s.power.levelTherm ≤ 12 := by
  simp [levelsWithin, and_assoc]

theorem currentLimit_levelsWithin (h : levelsWithin s = true) : levelsWithin (currentLimit s) = true := by
  rw [levelsWithin_iff] at h ⊢
  obtain ⟨hcap, hcur, htherm⟩ := h
  unfold currentLimit when
  split
  · exact ⟨hcap, (by decide : 8 ≤ 12), htherm⟩
  · exact ⟨hcap, hcur, htherm⟩

theorem currentLevelDecay_levelsWithin (h : levelsWithin s = true) : levelsWithin (currentLevelDecay s) = true := by
  rw [levelsWithin_iff] at h ⊢
  obtain ⟨hcap, hcur, htherm⟩ := h
  unfold currentLevelDecay when
  split
  · split
    · exact ⟨hcap, (Nat.sub_le ..).trans hcur, htherm⟩
    · exact ⟨hcap, hcur, htherm⟩
  · exact ⟨hcap, hcur, htherm⟩

theorem thermalSample_levelsWithin (r : ThermalReading) (h : levelsWithin s = true) : levelsWithin (thermalSample r s) = true := by
  rw [levelsWithin_iff] at h ⊢
  obtain ⟨hcap, hcur, htherm⟩ := h
  unfold thermalSample
  split
  · exact ⟨hcap, hcur, htherm⟩
  · exact ⟨hcap, hcur, thermalLevel_le htherm⟩

theorem powerCapPeriod_levelsWithin (r : PowerReading) (h : levelsWithin s = true) : levelsWithin (powerCapPeriod r s) = true := by
  rw [levelsWithin_iff] at h ⊢
  obtain ⟨hcap, hcur, htherm⟩ := h
  unfold powerCapPeriod
  split
  · exact ⟨hcap, hcur, htherm⟩
  · exact ⟨capLevel_le hcap, hcur, htherm⟩

end Sys2Proof.Machine

open Sys2Proof Sys2Proof.Machine

/-- Settles O29: each level by the rule of its reading, and each rule keeps its level within 0 to 12. -/
theorem throttleLevels : Obligations.ThrottleLevels := by
  refine ⟨fun s haux => ⟨fun r hdue => ?_, fun r h => congrArg Host.Outcome.next (thermalSample_early r h), ?_,
    fun at_ hsince hlevel hlate => ?_⟩,
    fun s r hfw hdue => ⟨fun h => ?_, fun h hnear => ?_, fun h hfew => ?_, fun h hmany => ?_⟩, fun s t c hc hs hexec => ?_⟩
  · rcases hl : thermalLevel s.power.levelTherm (nowNs s) s.power.coolSince (tjMax r) r.th.toNat with ⟨t, c⟩
    refine ⟨t, c, congrArg Host.Outcome.next (thermalSample_due haux hdue hl), fun h => Prod.mk.inj (hl.symm.trans (thermalLevel_trip h)),
      fun htj hth h => Prod.mk.inj (hl.symm.trans (thermalLevel_hot htj hth h)), fun htj hth at_ hcool => ?_, fun htj hth hcool => ?_,
      fun h htj hth => Prod.mk.inj (hl.symm.trans (thermalLevel_warm h htj hth))⟩ <;> rw [thermalLevel_cool htj hth, hcool] at hl
    · exact ⟨fun h => Prod.mk.inj (hl.symm.trans (if_pos h)), fun h => Prod.mk.inj (hl.symm.trans (if_neg (Nat.not_le.2 h)))⟩
    · exact Prod.mk.inj hl.symm
  · exact congrArg Host.Outcome.next (if_pos haux)
  · refine congrArg Host.Outcome.next ?_
    simp only [currentLevelDecay, hsince]
    exact if_pos (by simp [hlevel, hlate])
  · exact congrArg Host.Outcome.next (powerCapPeriod_due hfw hdue (capLevel_over h))
  · exact congrArg Host.Outcome.next (powerCapPeriod_due hfw hdue (capLevel_near h hnear))
  · exact congrArg Host.Outcome.next (powerCapPeriod_due hfw hdue ((capLevel_low h).trans (if_neg (Nat.not_le.2 hfew))))
  · exact congrArg Host.Outcome.next (powerCapPeriod_due hfw hdue ((capLevel_low h).trans (if_pos hmany)))
  · obtain rfl | rfl | ⟨r, rfl⟩ | ⟨r, rfl⟩ := hc <;> obtain rfl := Host.Outcome.next.inj hexec
    · exact currentLimit_levelsWithin hs
    · exact currentLevelDecay_levelsWithin hs
    · exact thermalSample_levelsWithin r hs
    · exact powerCapPeriod_levelsWithin r hs

end

section
/-! SUPPORT. Swarm time (14 R402, R403): the exchange with the parent, from the set that asks to the answer that is used. -/

namespace Sys2Proof.Machine

variable {s : State}

theorem timeSend_due (haux : auxOn s = true) (hp : s.clk.parent < 64) (hsb : (portOf s s.clk.parent).sb = true)
    (h : s.clk.askAt + 48000 ≤ s.clk.t48) : timeSend s = { s with
      sbq := s.sbq ++ [.ordered s.clk.parent codeTime 0], clk := { s.clk with askAt := s.clk.t48 } } :=
  if_pos (by simp [haux, hp, hsb, h])

theorem timeSend_waits (h : 64 ≤ s.clk.parent ∨ s.clk.t48 < s.clk.askAt + 48000) : timeSend s = s := by
  refine if_neg ?_
  obtain h | h := h <;> simp [Nat.not_lt.2, Nat.not_le.2, h]

/-- The set that asks goes first where it is the first that waits and nothing on its sideband is of higher priority. -/
theorem goesFirst_time {p : Nat} {rest : List OutEvent} (hq : s.sbq = .ordered p codeTime 0 :: rest) (hwag : (portOf s p).wagEnd ≤ s.clk.ticks)
    (hrest : ∀ e ∈ rest, sidePort e = p → 3 ≤ sideRank e)
    (hdue : ∀ d ∈ s.clk.due, d.1 = p → d.2 < s.clk.t48 ∨ s.clk.t48 + 1600 ≤ d.2) : GoesFirst s p (.ordered p codeTime 0) [] rest where
  waits := hq
  port := rfl
  rank := sideRank_ordered_lt ..
  may := by
    have hsoon : ((s.clk.due.filter fun d => d.1 == p).any fun d =>
        decide (s.clk.t48 ≤ d.2) && decide (d.2 < s.clk.t48 + 10 * setTicks)) = false := by
      rw [List.any_eq_false]
      intro d hd
      obtain ⟨hmem, hport⟩ := List.mem_filter.1 hd
      have hfar := hdue d hmem (beq_iff_eq.1 hport)
      rw [Bool.and_eq_true, decide_eq_true_eq, decide_eq_true_eq, setTicks]
      omega
    have hrank : sideRank (.ordered p codeTime 0) = 3 := rfl
    unfold sideMay
    simp only [hrank, sidePort, hsoon, Nat.not_lt.2 hwag, decide_false, Bool.not_false, Bool.and_self]
  beats x hx hport _ := hrest x (by simpa using hx) hport
  oldest _ hx := absurd hx List.not_mem_nil

/-- The set carries the time at which it leaves, and the exchange with the parent counts from then (R403). -/
theorem GoesFirst.sideSend_time {p : Nat} {y : BitVec 40} {pre suf : List OutEvent} (h : GoesFirst s p (.ordered p codeTime y) pre suf)
    (hsb : (portOf s p).sb = true) (hfree : (portOf s p).sbBusy ≤ s.clk.ticks) : sideSend s p =
      emit (sideTaken { s with sbq := pre ++ suf, clk := { s.clk with asked := if p = s.clk.parent then some s.clk.t48 else s.clk.asked } } p
        false) (.ordered p codeTime (timePayload s.clk.t48)) := by
  have hstart : ¬(!(portOf s p).sb || decide (s.clk.ticks < (portOf s p).sbBusy)) = true := by simp [hsb, Nat.not_lt.2 hfree]
  simp only [sideSend, if_neg hstart, h.sideNext_eq, h.eraseFirst_eq, beq_self_eq_true, if_true]

section answer
variable {rx : SetRx} (haux : auxOn s = true) (hsb : (portOf s rx.port.val).sb = true) (hok : setOk codeTime 0 rx = true)
include haux hsb hok

theorem time_child (h : rx.port.val ≠ s.clk.parent) :
    time rx s = { s with clk := { s.clk with due := s.clk.due ++ [(rx.port.val, s.clk.t48 + 12800)] } } :=
  (onSet_right _ haux hsb hok).trans (if_pos (bne_iff_ne.2 h))

theorem time_parent (h : rx.port.val = s.clk.parent) : time rx s = match s.clk.asked with
    | some t1 => if t1 + answerLimit < s.clk.t48 then { s with clk := { s.clk with asked := none } } else useAnswer s t1 rx.payload
    | none => s :=
  (onSet_right _ haux hsb hok).trans (if_neg (by simp [h]))

end answer

/-- A count of swarm time, taken modulo its period, around 0. -/
def centred (x : Int) : Int := if x % 52776558133248 < 26388279066624 then x % 52776558133248 else x % 52776558133248 - 52776558133248

theorem centred_spec (x : Int) : -(2 ^ 39 * 48) ≤ centred x ∧ centred x < 2 ^ 39 * 48 ∧ (x - centred x) % (2 ^ 40 * 48) = 0 := by
  unfold centred
  split <;> omega

theorem timeOffset_eq (t1 t4 : Nat) (p : BitVec 40) :
    timeOffset t1 t4 p = centred (48 * (p.toNat : Int) + ((t4 : Int) - t1 - 12800) / 2 - t4) := rfl

theorem useAnswer_spec (t1 : Nat) (p : BitVec 40) : ∃ (d : Int) (c : Clock), useAnswer s t1 p = { s with clk := c } ∧ c.asked = none ∧
    -(2 ^ 39 * 48) ≤ d ∧ d < 2 ^ 39 * 48 ∧ (48 * (p.toNat : Int) + ((s.clk.t48 : Int) - t1 - 12800) / 2 - s.clk.t48 - d) % (2 ^ 40 * 48) = 0 ∧
    (s.dev.mode.code < 3 → c.t48 = ((s.clk.t48 : Int) + d).toNat ∧ c.askAt = ((s.clk.askAt : Int) + d).toNat ∧
      c.due = s.clk.due.map (fun e => (e.1, ((e.2 : Int) + d).toNat)) ∧ c.slew = s.clk.slew) ∧
    (3 ≤ s.dev.mode.code → c.t48 = s.clk.t48 ∧ c.slew = d ∧ (c.timeFault = true ↔ 48000 < d.natAbs)) := by
  obtain ⟨hlo, hhi, hmod⟩ := centred_spec (48 * (p.toNat : Int) + ((s.clk.t48 : Int) - t1 - 12800) / 2 - s.clk.t48)
  rw [← timeOffset_eq] at hlo hhi hmod
  by_cases hmode : s.dev.mode.code < 3
  · exact ⟨_, _, if_pos hmode, rfl, hlo, hhi, hmod, fun _ => ⟨rfl, rfl, rfl, rfl⟩, fun h => absurd hmode (Nat.not_lt.2 h)⟩
  · exact ⟨_, _, if_neg hmode, rfl, hlo, hhi, hmod, fun h => absurd h hmode, fun _ => ⟨rfl, rfl, decide_eq_true_iff⟩⟩

/-- The sideband of a port is free for an answer, before any set of lower or the same priority. -/
theorem sideFree_iff {p : Nat} : sideFree s p = true ↔ (portOf s p).sb = true ∧ (portOf s p).sbBusy ≤ s.clk.ticks ∧
    (portOf s p).wagEnd ≤ s.clk.ticks ∧ ∀ e ∈ s.sbq, sidePort e = p → 3 ≤ sideRank e := by
  simp [sideFree, and_assoc]

section due
variable {p at_ : Nat} {r : List (Nat × Nat)}

theorem timeAnswer_due (hdue : s.clk.due = (p, at_) :: r) (h : at_ ≤ s.clk.t48) : timeAnswer p s =
    if s.clk.t48 < at_ + 200 ∧ sideFree s p = true then
      emit (sideTaken { s with clk := { s.clk with due := r } } p false) (.ordered p codeTime (timePayload at_))
    else { s with clk := { s.clk with due := r } } := by
  have hfirst : s.clk.due.find? (fun d => d.1 == p && decide (d.2 ≤ s.clk.t48)) = some (p, at_) := by
    rw [hdue]
    exact List.find?_cons_of_pos (by simp [h])
  have herased : eraseFirst (· == (p, at_)) s.clk.due = r := by
    rw [hdue, eraseFirst_eq_eraseP]
    exact List.eraseP_cons_of_pos (by simp)
  simp only [timeAnswer, hfirst, herased, Bool.and_eq_true, decide_eq_true_eq]

theorem timeAnswer_none (h : ∀ d ∈ s.clk.due, d.1 = p → s.clk.t48 < d.2) : timeAnswer p s = s := by
  have hnone : s.clk.due.find? (fun d => d.1 == p && decide (d.2 ≤ s.clk.t48)) = none := by
    rw [List.find?_eq_none]
    intro d hd hhit
    simp only [Bool.and_eq_true, beq_iff_eq, decide_eq_true_eq] at hhit
    exact absurd (h d hd hhit.1) (Nat.not_lt.2 hhit.2)
  simp only [timeAnswer, hnone]

end due

end Sys2Proof.Machine
end

section
/-! SUPPORT. The time parent (14 R402): the first of its rules that applies. -/

namespace Sys2Proof.Machine

/-- Of two (hive, port) the first comes first. -/
def hiveBefore (x y : Nat × Nat) : Prop := x.1 < y.1 ∨ x.1 = y.1 ∧ x.2 < y.2

section lowest
variable {a : Option (Nat × Nat)} {b x : Nat × Nat}

theorem lowerHive_some (x b : Nat × Nat) : lowerHive (some x) b = if x.1 < b.1 ∨ x.1 = b.1 ∧ x.2 ≤ b.2 then some x else some b := by
  simp only [lowerHive, Bool.or_eq_true, Bool.and_eq_true, decide_eq_true_eq, beq_iff_eq]

theorem lowerHive_stays (h : b = x ∨ hiveBefore x b) : lowerHive (some x) b = some x := by
  rw [lowerHive_some]
  split
  · rfl
  · obtain rfl | h | h := h <;> omega

theorem lowerHive_takes (h : ∀ y, a = some y → y = x ∨ hiveBefore x y) : lowerHive a x = some x := by
  cases a with
  | none => rfl
  | some y =>
    rw [lowerHive_some]
    split
    · obtain rfl | h | h := h y rfl
      · rfl
      · omega
      · omega
    · rfl

theorem eq_of_lowerHive {y : Nat × Nat} (h : lowerHive a b = some y) : a = some y ∨ b = y := by
  cases a with
  | none => exact .inr (Option.some.inj h)
  | some z =>
    rw [lowerHive_some] at h
    split at h
    · exact .inl h
    · exact .inr (Option.some.inj h)

/-- The one that comes before all others is what is left. -/
theorem foldl_lowerHive {l : List (Nat × Nat)} (hl : ∀ y ∈ l, y = x ∨ hiveBefore x y) (ha : ∀ y, a = some y → y = x ∨ hiveBefore x y)
    (hx : x ∈ l ∨ a = some x) : l.foldl lowerHive a = some x := by
  induction l generalizing a with
  | nil => exact hx.resolve_left List.not_mem_nil
  | cons b l ih =>
    refine ih (fun y hy => hl y (List.mem_cons_of_mem _ hy)) (fun y hy => ?_) ?_
    · obtain h | rfl := eq_of_lowerHive hy
      · exact ha y h
      · exact hl b List.mem_cons_self
    · obtain hx | rfl := hx
      · obtain rfl | hx := List.mem_cons.1 hx
        · exact .inr (lowerHive_takes ha)
        · exact .inl hx
      · exact .inr (lowerHive_stays (hl b List.mem_cons_self))

end lowest

variable {s : State} {p : Nat}

/-- A port of a module of slot 0 to a hive of a lower number (R402). -/
def lowerPort (s : State) (p : Nat) : Prop :=
  32 ≤ p ∧ p < 64 ∧ (portOf s p).sb = true ∧ ((portOf s p).tx = .up ∨ (portOf s p).tx = .narrow) ∧ (portOf s p).nbW1.getLsbD 48 = true ∧
    nbHive (portOf s p) < s.ident.hive.toNat

/-- Those ports, in ascending order. -/
def lowerPorts (s : State) : List Nat :=
  (sbPorts s).filter fun p => decide (32 ≤ p) && outUp s p && nbValid (portOf s p) && decide (nbHive (portOf s p) < s.ident.hive.toNat)

theorem mem_lowerPorts_iff : p ∈ lowerPorts s ↔ lowerPort s p := by
  simp only [lowerPorts, sbPorts, List.mem_filter, List.mem_range, Bool.and_eq_true, decide_eq_true_eq, outUp, nbValid, flag, lowerPort]
  constructor
  · rintro ⟨⟨hp, hsb⟩, ⟨⟨hlow, hup⟩, hvalid⟩, hhive⟩
    exact ⟨hlow, hp, hsb, by simpa [hp] using hup, hvalid, hhive⟩
  · rintro ⟨hlow, hp, hsb, hup, hvalid, hhive⟩
    exact ⟨⟨hp, hsb⟩, ⟨⟨hlow, by simpa [hp] using hup⟩, hvalid⟩, hhive⟩

/-- The parent by the rules that follow that for AUX and BOOT. -/
def lateParent (s : State) : Nat :=
  if s.ident.side && twinUp s && (portOf s 31).sb then 31
  else if s.ident.slot.toNat != 0 && (portOf s (31 - s.ident.slot.toNat)).sb then 31 - s.ident.slot.toNat
  else if s.ident.slot.toNat != 0 then 127
  else
    match ((lowerPorts s).map fun p => (nbHive (portOf s p), p)).foldl lowerHive none with
    | some x => x.2
    | none => 127

/-- The module is in AUX or BOOT. -/
def early (s : State) : Prop := s.dev.mode = .aux ∨ s.dev.mode = .boot

/-- In AUX and BOOT no neighbour is in READY or beyond. -/
def noneServes (s : State) : Prop := early s → ∀ p, p < 64 → (portOf s p).sb = true → (portOf s p).nbState < 3

theorem find_sbPorts (s : State) : (sbPorts s).find? (fun p => decide (3 ≤ (portOf s p).nbState)) =
    (List.range 64).find? fun p => decide ((portOf s p).sb = true ∧ decide (3 ≤ (portOf s p).nbState) = true) := List.find?_filter ..

theorem timeParent_early (h : early s) (hp : p < 64) (hsb : (portOf s p).sb = true) (hserves : 3 ≤ (portOf s p).nbState)
    (hfirst : ∀ k, k < p → (portOf s k).sb = true → (portOf s k).nbState < 3) : timeParent s = p := by
  have hearly : (s.dev.mode == .aux || s.dev.mode == .boot) = true := by simpa [early] using h
  have hfind : (sbPorts s).find? (fun p => decide (3 ≤ (portOf s p).nbState)) = some p := by
    rw [find_sbPorts, List.find?_range_eq_some]
    refine ⟨by simp [hsb, hserves], List.mem_range.2 hp, fun k hk => ?_⟩
    simp only [Bool.not_eq_true', decide_eq_false_iff_not, decide_eq_true_eq, not_and, Nat.not_le]
    exact hfirst k hk
  simp only [timeParent, hearly, if_true, hfind]

theorem timeParent_late (h : noneServes s) : timeParent s = lateParent s := by
  have hnone : (if (s.dev.mode == .aux || s.dev.mode == .boot) = true then
      (sbPorts s).find? (fun p => decide (3 ≤ (portOf s p).nbState)) else none) = none := by
    split
    · rename_i hearly
      rw [find_sbPorts, List.find?_range_eq_none]
      intro k hk
      simp only [Bool.not_eq_true', decide_eq_false_iff_not, decide_eq_true_eq, not_and, Nat.not_le]
      exact h (by simpa [early] using hearly) k hk
    · rfl
  simp only [timeParent, hnone]
  rfl

/-- Port 31 is up to the twin. -/
def twinUpTo (s : State) : Prop :=
  s.ident.twinPresent = true ∧ (portOf s 31).peerTwin = true ∧ ((portOf s 31).tx = .up ∨ (portOf s 31).tx = .narrow)

theorem twinUp_iff : twinUp s = true ↔ twinUpTo s := by
  simp [twinUp, twinUpTo, outUp, and_assoc]

theorem lateParent_twin (hside : s.ident.side = true) (htwin : twinUpTo s) (hsb : (portOf s 31).sb = true) : lateParent s = 31 :=
  if_pos (by simp [hside, twinUp_iff.2 htwin, hsb])

section other
variable (h : s.ident.side = false ∨ ¬twinUpTo s ∨ ¬(portOf s 31).sb = true)
include h

theorem lateParent_other : lateParent s =
    if s.ident.slot.toNat ≠ 0 ∧ (portOf s (31 - s.ident.slot.toNat)).sb = true then 31 - s.ident.slot.toNat
    else if s.ident.slot.toNat ≠ 0 then 127
    else match ((lowerPorts s).map fun p => (nbHive (portOf s p), p)).foldl lowerHive none with
      | some x => x.2
      | none => 127 := by
  have hnot : ¬(s.ident.side && twinUp s && (portOf s 31).sb) = true := by
    simp only [Bool.and_eq_true, twinUp_iff]
    rintro ⟨⟨hside, htwin⟩, hsb⟩
    obtain h | h | h := h
    · exact absurd hside (ne_true_of_eq_false h)
    · exact h htwin
    · exact h hsb
  rw [lateParent, if_neg hnot]
  simp only [Bool.and_eq_true, bne_iff_ne]

theorem lateParent_lower (hslot : s.ident.slot.toNat = 0) (hp : lowerPort s p)
    (hbest : ∀ k, lowerPort s k → k ≠ p → hiveBefore (nbHive (portOf s p), p) (nbHive (portOf s k), k)) : lateParent s = p := by
  have hfold : ((lowerPorts s).map fun p => (nbHive (portOf s p), p)).foldl lowerHive none = some (nbHive (portOf s p), p) := by
    refine foldl_lowerHive (fun y hy => ?_) (fun y hy => absurd hy (by simp)) (.inl (List.mem_map.2 ⟨p, mem_lowerPorts_iff.2 hp, rfl⟩))
    obtain ⟨k, hk, rfl⟩ := List.mem_map.1 hy
    by_cases heq : k = p
    · exact .inl (heq ▸ rfl)
    · exact .inr (hbest k (mem_lowerPorts_iff.1 hk) heq)
  rw [lateParent_other h, if_neg (by simp [hslot]), if_neg (by simp [hslot]), hfold]

theorem lateParent_root (hslot : s.ident.slot.toNat = 0) (hnone : ∀ k, ¬lowerPort s k) : lateParent s = 127 := by
  have hempty : lowerPorts s = [] := List.eq_nil_iff_forall_not_mem.2 fun k hk => hnone k (mem_lowerPorts_iff.1 hk)
  rw [lateParent_other h, if_neg (by simp [hslot]), if_neg (by simp [hslot]), hempty]
  rfl

end other

theorem timeParentChange_same (h : timeParent s = s.clk.parent) : timeParentChange s = s := if_neg (by simp [h])

theorem timeParentChange_becomes (haux : auxOn s = true) (h : timeParent s = p) (hp : p ≠ s.clk.parent) : timeParentChange s =
    { s with clk := { s.clk with parent := p, root := p == 127, asked := none, parentLost := none } } := by
  subst h
  exact if_pos (by simp [haux, hp])

end Sys2Proof.Machine

open Sys2Proof Sys2Proof.Machine

/-- Settles O57: the set that asks and when it leaves, the answer of a parent and its use, the answers to children, and the choice of the parent. -/
theorem swarmTime : Obligations.SwarmTime := by
  refine ⟨fun s => ⟨fun haux hp hsb h => ?_, fun h => congrArg Host.Outcome.next (timeSend_waits h)⟩,
    fun s p rest hsb hfree hwag hq hrest hdue => ?_, fun s rx haux hsb hok => ⟨fun h => ?_, fun h hasked => ?_,
      fun t1 h hasked => ⟨fun hlate => ?_, fun hin => ?_⟩⟩,
    fun s p at_ r hdue => ⟨fun hat hnow hfree => ?_, fun hat h => ?_, fun h => congrArg Host.Outcome.next (timeAnswer_none h)⟩,
    fun s t1 hasked => ⟨fun haux h => ?_, fun h => ?_⟩,
    fun s => ⟨fun h => congrArg Host.Outcome.next (timeParentChange_same h), fun haux => ?_⟩⟩
  · exact congrArg Host.Outcome.next (timeSend_due haux hp hsb h)
  · intro t
    have ht : t = _ := (goesFirst_time hq hwag hrest hdue).sideSend_time hsb hfree
    rw [ht]
    refine ⟨rfl, rfl, fun hp => ?_, fun hp => ?_⟩
    · exact congrArg (fun a => { s.clk with asked := a }) (if_pos hp)
    · exact congrArg (fun a => { s.clk with asked := a }) (if_neg hp)
  · exact congrArg Host.Outcome.next (time_child haux hsb hok h)
  · exact congrArg Host.Outcome.next ((time_parent haux hsb hok h).trans (by rw [hasked]))
  · exact congrArg Host.Outcome.next ((time_parent haux hsb hok h).trans (by rw [hasked]; exact if_pos hlate))
  · obtain ⟨d, c, huse, hspec⟩ := useAnswer_spec (s := s) t1 rx.payload
    refine ⟨d, c, congrArg Host.Outcome.next ((time_parent haux hsb hok h).trans ?_), hspec⟩
    rw [hasked]
    exact (if_neg (Nat.not_lt.2 hin)).trans huse
  · refine congrArg Host.Outcome.next ((timeAnswer_due hdue hat).trans ?_)
    rw [if_pos ⟨hnow, sideFree_iff.2 hfree⟩]
    rfl
  · refine congrArg Host.Outcome.next ((timeAnswer_due hdue hat).trans (if_neg ?_))
    rintro ⟨hnow, hfree⟩
    obtain h | h := h
    · omega
    · exact h (sideFree_iff.1 hfree)
  · refine congrArg Host.Outcome.next ?_
    simp only [timeAnswerMissing, hasked]
    exact if_pos (by simp [haux, answerLimit, h])
  · refine congrArg Host.Outcome.next ?_
    simp only [timeAnswerMissing, hasked]
    exact if_neg (by simp [answerLimit, Nat.not_lt.2 h])
  · have hbecomes : ∀ {p : Nat}, timeParent s = p → p ≠ s.clk.parent → exec .timeParentChange s = _ := fun h hp =>
      congrArg Host.Outcome.next (timeParentChange_becomes haux h hp)
    refine ⟨fun p hearly hp hsb hserves hfirst => hbecomes (timeParent_early hearly hp hsb hserves hfirst),
      fun hlate hside htwin hsb => hbecomes ((timeParent_late hlate).trans (lateParent_twin hside htwin hsb)),
      fun hlate hother hslot hsb => hbecomes ((timeParent_late hlate).trans ?_),
      fun hlate hother hslot hsb => hbecomes ((timeParent_late hlate).trans ?_),
      fun p hlate hother hslot hp hbest => hbecomes ((timeParent_late hlate).trans (lateParent_lower hother hslot hp hbest)),
      fun hlate hother hslot hnone => hbecomes ((timeParent_late hlate).trans (lateParent_root hother hslot hnone))⟩
    · rw [lateParent_other hother, if_pos ⟨hslot, hsb⟩]
    · rw [lateParent_other hother, if_neg (fun h => hsb h.2), if_pos hslot]

end

section
/-! SUPPORT. Debug authorisation and JTAG (15 R439 to R442): what the scopes' end and a refusal leave. -/

namespace Sys2Proof.Machine

variable {s u : State} {r : Req}

/-- The four words of a nonce, as they are drawn from the n-th free value on. -/
theorem drawWords_four (s : State) : drawWords s 4 =
    ([Config.freeValue s.freeCount, Config.freeValue (s.freeCount + 1), Config.freeValue (s.freeCount + 2), Config.freeValue (s.freeCount + 3)],
      { s with freeCount := s.freeCount + 4 }) := rfl

/-- An instruction that needs a scope and is in force when the scope ends shifts zeros from then on (R441). -/
theorem setScopes_ended (s : State) (e : Option Nat) : ∃ j, setScopes s 0 e =
    { s with sec := { s.sec with scopes := 0, scopeEnd := e, jtagEnded := j } } ∧ ((∃ c, s.sec.jtag = .priv c) → j = true) := by
  refine ⟨_, rfl, ?_⟩
  rintro ⟨c, hpriv⟩
  simp only [hpriv]
  exact Bool.or_true _

/-- The JTAG instruction that stands once a debug unlock has given its scopes may have lost its own. -/
theorem debugUnlockRun_good (h : unlockGood u r = true) : ∃ j, debugUnlockRun u r = done { u with sec := { u.sec with
    scopes := (rw r 5).setWidth 4
    refusals := 0
    scopeEnd := some (u.clk.ticks / 8 + rn r 6 % 2 ^ 32 * 600000000)
    nonce := none
    m5 := Config.sha384 (bytesOfNat u.sec.m5.toNat 48 ++ bytesOfWords (rws r 0 31))
    jtagEnded := j } } := by
  have hscopes : BitVec.ofNat 4 (fld (rw r 5) 0 4) = (rw r 5).setWidth 4 := by
    apply BitVec.eq_of_toNat_eq
    simp [fld]
  have hseconds : fld (rw r 6) 0 32 = rn r 6 % 2 ^ 32 := by simp [fld, rn]
  rw [debugUnlockRun, if_pos h, hscopes, hseconds]
  exact ⟨_, rfl⟩

theorem debugUnlockRun_bad (h : unlockGood u r = false) : debugUnlockRun u r =
    refused { u with sec := { u.sec with nonce := none, refusals := min 8 (u.sec.refusals + 1) } } .denied := by
  rw [debugUnlockRun, if_neg (ne_true_of_eq_false h)]

/-- After 8 refusals in a row a DEBUG_UNLOCK is DENIED once its session stands, whatever its words (R440). -/
theorem debugUnlock_locked {src : ReqSrc} (hfront : frontReq 0x0804 src s = some r) (hfirst : repeated s r = none)
    (hsession : sessionCheck (takeReq s r) r = none) (hpath : byFabric r = false) (hrom : s.dev.recovery = false) (h : 8 ≤ s.sec.refusals) :
    runCmd debugUnlockCmd src s =
      respond { takeReq s r with sec := { s.sec with nonce := none } } r Status.denied.code 0 [] := by
  have hfront' : frontReq debugUnlockCmd.code src s = some r := hfront
  have hrom' : (takeReq s r).dev.recovery = false := hrom
  have hlocked : debugUnlockCmd.locked (takeReq s r) = true := decide_eq_true h
  have hrun : checkAndRun debugUnlockCmd (takeReq s r) r = refused { takeReq s r with sec := { s.sec with nonce := none } } .denied := by
    simp only [checkAndRun, hsession, hpath, hrom', hlocked, Bool.false_and, Bool.false_eq_true, if_false, if_true]
    rfl
  simp only [runCmd, hfront', hfirst, hrun]
  rfl

theorem debugScopeExpiry_eq {e : Nat} (h : s.sec.scopeEnd = some e) :
    debugScopeExpiry s = if e ≤ s.clk.ticks / 8 then setScopes s 0 none else s := by
  rw [debugScopeExpiry, h]
  exact if_congr decide_eq_true_iff rfl rfl

theorem nonceExpiry_eq {n : BitVec 256 × Nat} (h : s.sec.nonce = some n) :
    nonceExpiry s = if n.2 + 60000000000 ≤ nowNs s then { s with sec := { s.sec with nonce := none } } else s := by
  simp [nonceExpiry, h, when]

theorem jtagShift_zero (k : Nat) (h : s.sec.scopes.getLsbD 2 = false ∨ s.sec.jtagEnded = true) : jtagShift s k = false := by
  unfold jtagShift
  split
  · obtain h | h := h <;> simp only [scopeJtag, flag, h, Bool.false_and, Bool.not_true, Bool.and_false]
  · rfl

end Sys2Proof.Machine
end

section
/-! SUPPORT. SPDM (15 R434; assumption 12): how a request is heard, refused with an ERROR, or served. -/

namespace Sys2Proof.Machine

variable {s : State} {path : SpdmPath} {v : Byte} {q : SpdmRequest}

/-- A path on which the module hears requests: DOE, or UDP once it has an address. -/
def pathHeard (s : State) (path : SpdmPath) : Prop := ∀ peer, path = .udp peer → s.sceuf.ipv4 ≠ none

theorem spdmRequest_heard (hfw : fwRuns s = true) (hheard : pathHeard s path) : spdmRequest path v q s =
    if s.sceuf.forward.isSome then { s with sec := { s.sec with spdmWait := s.sec.spdmWait ++ [(path, v, q)] } }
    else spdmServe path v q s := by
  cases path with
  | doe => exact if_neg (by simp [hfw])
  | udp peer => exact if_neg (by simpa [hfw, Option.isSome_iff_ne_none] using hheard peer rfl)

theorem spdmRequest_waits (hfw : fwRuns s = true) (hheard : pathHeard s path) (h : s.sceuf.forward ≠ none) :
    spdmRequest path v q s = { s with sec := { s.sec with spdmWait := s.sec.spdmWait ++ [(path, v, q)] } } :=
  (spdmRequest_heard hfw hheard).trans (if_pos (Option.isSome_iff_ne_none.2 h))

theorem spdmRequest_served (hfw : fwRuns s = true) (hheard : pathHeard s path) (h : s.sceuf.forward = none) :
    spdmRequest path v q s = spdmServe path v q s :=
  (spdmRequest_heard hfw hheard).trans (if_neg (by simp [h]))

theorem spdmServe_unknown (c : Byte) :
    spdmServe path v (.other c) s = emit s (.spdm path [(spdmEx s path).version, 0x7F, 0x07, c]) := rfl

theorem spdmServe_early (hknown : spdmUnknown q = false) (h : (spdmEx s path).stage < (spdmNeeds q).1) :
    spdmServe path v q s = emit s (.spdm path [(spdmEx s path).version, 0x7F, 0x04, 0]) := by
  rcases hneeds : spdmNeeds q with ⟨need, next⟩
  rw [hneeds] at h
  simp only [spdmServe, hneeds, hknown, Bool.false_eq_true, if_false, if_pos h, spdmError]

theorem spdmServe_otherVersion (hknown : spdmUnknown q = false) (h : (spdmNeeds q).1 ≤ (spdmEx s path).stage)
    (hv : spdmVersionOk (spdmEx s path) v q = false) :
    spdmServe path v q s = emit s (.spdm path [(spdmEx s path).version, 0x7F, 0x41, 0]) := by
  rcases hneeds : spdmNeeds q with ⟨need, next⟩
  rw [hneeds] at h
  simp only [spdmServe, hneeds, hknown, hv, Bool.false_eq_true, Bool.not_false, if_false, if_true, if_neg (Nat.not_lt.2 h), spdmError]

/-- A request in order is served: the answer goes back, and the exchange goes on with its transcript, which a signature ends. -/
theorem spdmServe_inOrder (hknown : spdmUnknown q = false) (h : (spdmNeeds q).1 ≤ (spdmEx s path).stage)
    (hv : spdmVersionOk (spdmEx s path) v q = true) (hslot : spdmSlotBad q = false) :
    let log := (if (spdmNeeds q).1 = 0 then [] else (spdmEx s path).log) ++ v :: spdmCode q :: spdmOperands q
    spdmServe path v q s = emit (putSpdm s
        { path := path, stage := (spdmNeeds q).2, version := v, log := (if spdmSigned q then [] else log ++ spdmResponse s v q log) })
      (.spdm path (spdmResponse s v q log)) := by
  intro log
  rcases hneeds : spdmNeeds q with ⟨need, next⟩
  rw [hneeds] at h
  simp only [spdmServe, hneeds, hknown, hv, hslot, Bool.false_eq_true, Bool.not_true, if_false, if_neg (Nat.not_lt.2 h), log]

theorem spdmServe_getVersion : spdmServe path 0x10 .getVersion s = emit (putSpdm s
    { path := path, stage := 1, version := 0x10, log := [0x10, 0x84] ++ spdmVersions }) (.spdm path spdmVersions) := rfl

theorem spdmServe_measurements (idx : Nat) (nonce : BitVec 256) (h : 3 ≤ (spdmEx s path).stage) :
    let x := spdmEx s path
    let ops := bytesOfNat idx 1 ++ bytesOfNat nonce.toNat 32
    let body := Config.spdmBody 0xE0 (x.version :: ops) (measurements s)
    spdmServe path x.version (.getMeasurements idx nonce) s = emit (putSpdm s { path := path, stage := 3, version := x.version, log := [] })
      (.spdm path (body ++ Config.aliasSign s.sec.m2 s.sec.m3 (Config.sha384 (x.log ++ x.version :: 0xE0#8 :: ops ++ body)))) := by
  intro x ops body
  exact spdmServe_inOrder (q := .getMeasurements idx nonce) rfl h (beq_self_eq_true x.version) rfl

end Sys2Proof.Machine

open Sys2Proof Sys2Proof.Machine

/-- Settles O27: the debug commands and the ends of scopes and nonces, the JTAG instructions, and SPDM by path, order and version. -/
theorem debugScopes : Obligations.DebugScopes := by
  refine ⟨⟨fun src s r => ⟨fun h => ?_, fun h hgood => ?_, fun h hbad => ?_, fun hfront hfirst hsession hpath hrom h => ?_, fun h => ?_⟩,
    fun s e hend => ⟨fun h => ?_, fun h => ?_⟩, fun s n at_ hnonce => ⟨fun h => ?_, fun h => ?_⟩, fun s haux => ⟨fun c => ?_,
    fun k => jtagShift_zero k, fun ir hir => ?_⟩⟩,
    fun s path hfw hheard => ⟨fun hidle => ?_, fun hforward v q => ?_⟩, fun s peer v q hnone => ?_⟩
  · exact congrArg Host.Outcome.next (runCmd_done h rfl)
  · obtain ⟨j, hrun⟩ := debugUnlockRun_good (u := takeReq s r) hgood
    exact ⟨_, congrArg Host.Outcome.next (runCmd_done h hrun), rfl, rfl, rfl, rfl, rfl, rfl⟩
  · exact congrArg Host.Outcome.next (runCmd_refused_at h (debugUnlockRun_bad (u := takeReq s r) hbad))
  · exact congrArg Host.Outcome.next (debugUnlock_locked hfront hfirst hsession hpath hrom h)
  · obtain ⟨j, hset, hj⟩ := setScopes_ended (takeReq s r) none
    exact ⟨j, congrArg Host.Outcome.next (runCmd_done h (congrArg done hset)), hj⟩
  · obtain ⟨j, hset, hj⟩ := setScopes_ended s none
    exact ⟨j, congrArg Host.Outcome.next ((debugScopeExpiry_eq hend).trans ((if_pos h).trans hset)), hj⟩
  · exact congrArg Host.Outcome.next ((debugScopeExpiry_eq hend).trans (if_neg (Nat.not_le.2 h)))
  · exact congrArg Host.Outcome.next ((nonceExpiry_eq hnonce).trans (if_pos h))
  · exact congrArg Host.Outcome.next ((nonceExpiry_eq hnonce).trans (if_neg (Nat.not_le.2 h)))
  · exact congrArg Host.Outcome.next (if_pos haux)
  · refine congrArg Host.Outcome.next ((if_pos haux).trans ?_)
    simp only [List.mem_cons, List.not_mem_nil, or_false] at hir
    obtain rfl | rfl | rfl | rfl := hir <;> rfl
  · refine ⟨fun v c => ?_, ?_, fun v slot nonce h => ?_, fun v idx nonce h hv => ?_, fun idx nonce h => ?_⟩ <;>
      refine congrArg Host.Outcome.next ((spdmRequest_served hfw hheard hidle).trans ?_)
    · exact spdmServe_unknown c
    · exact spdmServe_getVersion
    · exact spdmServe_early rfl h
    · exact spdmServe_otherVersion rfl h (beq_eq_false_iff_ne.2 hv)
    · exact spdmServe_measurements idx nonce h
  · exact congrArg Host.Outcome.next (spdmRequest_waits hfw hheard hforward)
  · exact congrArg Host.Outcome.next (if_pos (by simp [hnone]))

end

section
/-! SUPPORT. Firmware slots (15 R429): the bytes that FW_STAGE carries, and each byte of the slot that it wrote. -/

namespace Sys2Proof

/-- Byte k of a number's bytes is bits 8k to 8k + 7 of it. -/
theorem getElem_bytesOfNat (v : Nat) {n k : Nat} (h : k < (bytesOfNat v n).length) : (bytesOfNat v n)[k] = BitVec.ofNat 8 (v >>> (8 * k)) := by
  induction n generalizing v k with
  | zero => exact absurd h (Nat.not_lt_zero k)
  | succ n ih =>
    cases k with
    | zero => rfl
    | succ k =>
      have hshift : (v / 256) >>> (8 * k) = v >>> (8 * (k + 1)) := by
        rw [show v / 256 = v >>> 8 from (Nat.shiftRight_eq_div_pow v 8).symm, ← Nat.shiftRight_add, Nat.mul_succ, Nat.add_comm]
      exact (ih (v / 256) (Nat.lt_of_succ_lt_succ h)).trans (congrArg _ hshift)

/-- Byte k of a word is its field of 8 bits at 8k. -/
theorem getElem_bytesOfNat_word (w : Word) {k : Nat} (h : k < (bytesOfNat w.toNat 8).length) :
    (bytesOfNat w.toNat 8)[k] = BitVec.ofNat 8 (fld w (8 * k) 8) := by
  rw [getElem_bytesOfNat]
  apply BitVec.eq_of_toNat_eq
  simp [fld]

/-- Byte k of a list of words lies in word k / 8. -/
theorem getElem_bytesOfWords (ws : List Word) {k : Nat} (h : k < (bytesOfWords ws).length) :
    (bytesOfWords ws)[k] = BitVec.ofNat 8 (fld (ws[k / 8]'(by rw [length_bytesOfWords] at h; omega)) (8 * (k % 8)) 8) := by
  induction ws generalizing k with
  | nil => exact absurd h (Nat.not_lt_zero k)
  | cons w ws ih =>
    have hword : (bytesOfNat w.toNat 8).length = 8 := length_bytesOfNat ..
    simp only [bytesOfWords, List.flatMap_cons] at ih ⊢
    rcases Nat.lt_or_ge k 8 with hk | hk
    · rw [List.getElem_append_left (by omega), getElem_bytesOfNat_word]
      simp only [Nat.div_eq_of_lt hk, Nat.mod_eq_of_lt hk, List.getElem_cons_zero]
    · obtain ⟨j, rfl⟩ : ∃ j, k = j + 8 := ⟨k - 8, by omega⟩
      rw [List.getElem_append_right (by omega)]
      simp only [hword, Nat.add_sub_cancel, Nat.add_div_right j (show 0 < 8 by decide), Nat.add_mod_right, List.getElem_cons_succ]
      exact ih (by simp only [bytesOfWords, List.flatMap_cons, List.length_append, hword] at h; omega)

end Sys2Proof

namespace Sys2Proof.Machine

variable {s u : State} {r : Req}

/-- The memory that holds the bytes of a slot. -/
def slotMem (s : State) (slot : Bool) : Mem := if slot then s.sec.flash1 else s.sec.flash0

/-- A byte of a slot: what its memory holds, over what was not staged. -/
theorem flashBytes_one (s : State) (slot : Bool) (a : Nat) :
    flashBytes s slot a 1 = [memByte (slotMem s slot) a ^^^ slotUnder (slotBase s slot) a] := rfl

/-- What FW_STAGE leaves in the memory of the slot that does not run: the bytes against what lies under them. -/
def stagedMem (s : State) (off : Nat) (bs : List Byte) : Mem :=
  memWrite (if off = 0 then [] else slotMem s (!s.sec.running)) off (List.zipWith (· ^^^ ·) bs
    ((List.range bs.length).map fun k => slotUnder (off != 0 && slotBase s (!s.sec.running)) (off + k)))

theorem fwStage_eq (s : State) (off : Nat) (bs : List Byte) : fwStage s off bs = { s with sec := { s.sec with
    flash0 := if s.sec.running then stagedMem s off bs else s.sec.flash0
    shipped0 := if s.sec.running then false else s.sec.shipped0
    base0 := if s.sec.running then off != 0 && slotBase s false else s.sec.base0
    flash1 := if s.sec.running then s.sec.flash1 else stagedMem s off bs
    shipped1 := if s.sec.running then s.sec.shipped1 else false
    base1 := if s.sec.running then s.sec.base1 else off != 0 && slotBase s true } } := by
  unfold fwStage stagedMem slotMem
  cases hrun : s.sec.running <;> rfl

section
variable (s : State) (off : Nat) (bs : List Byte)

theorem fwStage_running : slotMem (fwStage s off bs) s.sec.running = slotMem s s.sec.running ∧
    slotBase (fwStage s off bs) s.sec.running = slotBase s s.sec.running ∧
    slotShipped (fwStage s off bs) s.sec.running = slotShipped s s.sec.running := by
  rw [fwStage_eq]
  cases s.sec.running <;> simp [slotMem, slotBase, slotShipped]

theorem fwStage_other : slotMem (fwStage s off bs) (!s.sec.running) = stagedMem s off bs ∧
    slotBase (fwStage s off bs) (!s.sec.running) = (off != 0 && slotBase s (!s.sec.running)) ∧
    slotShipped (fwStage s off bs) (!s.sec.running) = false := by
  rw [fwStage_eq]
  cases s.sec.running <;> simp [slotMem, slotBase, slotShipped]

theorem flashBytes_fwStage_running (a n : Nat) :
    flashBytes (fwStage s off bs) s.sec.running a n = flashBytes s s.sec.running a n := by
  obtain ⟨hmem, hbase, -⟩ := fwStage_running s off bs
  rw [slotMem, slotMem] at hmem
  rw [flashBytes, flashBytes, hmem, hbase]

end

/-- A byte that FW_STAGE wrote reads as it was sent. -/
theorem flashBytes_fwStage_within {off k : Nat} {bs : List Byte} (hwf : Mem.wf (slotMem s (!s.sec.running)) = true) (h : k < bs.length) :
    flashBytes (fwStage s off bs) (!s.sec.running) (off + k) 1 = [bs[k]] := by
  obtain ⟨hmem, hbase, -⟩ := fwStage_other s off bs
  have hold : Mem.wf (if off = 0 then [] else slotMem s (!s.sec.running)) = true := by
    split
    · rfl
    · exact hwf
  rw [flashBytes_one, hmem, hbase, stagedMem, memByte_write_same _ _ _ _ hold (by simpa using h)]
  simp

/-- Any other byte of that slot is erased when OFFSET is 0, and else stays. -/
theorem flashBytes_fwStage_outside {off a : Nat} {bs : List Byte} (h : a < off ∨ off + bs.length ≤ a) :
    flashBytes (fwStage s off bs) (!s.sec.running) a 1 = if off = 0 then [0xFF#8] else flashBytes s (!s.sec.running) a 1 := by
  obtain ⟨hmem, hbase, -⟩ := fwStage_other s off bs
  rw [flashBytes_one, hmem, hbase, stagedMem, memByte_write_other _ _ _ _ (by simpa using h)]
  by_cases hoff : off = 0
  · subst hoff
    simp [memByte, tblGet, slotUnder]
  · rw [if_neg hoff, if_neg hoff, flashBytes_one, bne_iff_ne.2 hoff, Bool.true_and]

/-- The bytes of an FW_STAGE: as many as its LEN, from its argument words on. -/
def stageBytes (r : Req) : List Byte := (bytesOfWords (rws r 2 (ceilDiv (rn r 1) 8))).take (rn r 1)

theorem length_stageBytes (r : Req) : (stageBytes r).length = rn r 1 := by
  simp only [stageBytes, List.length_take, length_bytesOfWords, rws, List.length_map, List.length_range, ceilDiv]
  omega

theorem getElem_stageBytes {k : Nat} (h : k < (stageBytes r).length) :
    (stageBytes r)[k] = BitVec.ofNat 8 (fld (rw r (2 + k / 8)) (8 * (k % 8)) 8) := by
  simp only [stageBytes, List.getElem_take]
  rw [getElem_bytesOfWords]
  simp [rws]

theorem flashBytes_fwStage_request (hwf : Mem.wf (slotMem s (!s.sec.running)) = true) (a : Nat) :
    flashBytes (fwStage s (rn r 0) (stageBytes r)) (!s.sec.running) a 1 =
      if rn r 0 ≤ a ∧ a < rn r 0 + rn r 1 then [BitVec.ofNat 8 (fld (rw r (2 + (a - rn r 0) / 8)) (8 * ((a - rn r 0) % 8)) 8)]
      else if rn r 0 = 0 then [0xFF#8] else flashBytes s (!s.sec.running) a 1 := by
  have hlen := length_stageBytes r
  by_cases hin : rn r 0 ≤ a ∧ a < rn r 0 + rn r 1
  · obtain ⟨k, rfl⟩ : ∃ k, a = rn r 0 + k := ⟨a - rn r 0, by omega⟩
    rw [if_pos hin, flashBytes_fwStage_within hwf (by omega), getElem_stageBytes, Nat.add_sub_cancel_left]
  · rw [if_neg hin, flashBytes_fwStage_outside (by omega)]

theorem wf_slotMem (h : memoriesWf s = true) (slot : Bool) : Mem.wf (slotMem s slot) = true := by
  obtain ⟨-, -, -, -, -, hflash0, hflash1, -⟩ := (memoriesWf_iff s).1 h
  cases slot
  · exact hflash0
  · exact hflash1

end Sys2Proof.Machine
end

section
/-! SUPPORT. FW_ACTIVATE (15 R430): fuses and preference, and its RESTART, the full reset of a module that is not in recovery. -/

namespace Sys2Proof.Machine

variable {s : State}

theorem resetDomains_sec (s : State) : (resetDomains s).sec = s.sec := (lanesOff_sameSecure s).sec

/-- A full reset ends the debug scopes, and keeps the slot that runs. -/
theorem fullReset_secure (s : State) : (fullReset s).sec.scopes = 0 ∧ (fullReset s).sec.running = s.sec.running := by
  unfold fullReset
  extract_lets s1
  have hended : s1.sec.running = (resetDomains s).sec.running := rfl
  have hs1 : s1.sec.scopes = 0 ∧ s1.sec.running = s.sec.running := ⟨rfl, hended.trans (congrArg Sec.running (resetDomains_sec s))⟩
  rw [(recomputeHealth_sameSecure _).sec, (setMode_sameSecure _ _).sec]
  exact hs1

theorem restart_serving (h : s.dev.recovery = false) : (restart s).dev.bootStage = 0 ∧ (restart s).dev.recovery = false ∧
    (restart s).sceuf.sessions = [] ∧ (restart s).sceuf.accepted = [] ∧ (restart s).sec.scopes = 0 ∧ (restart s).sec.nonce = none ∧
    (restart s).sec.running = s.sec.running := by
  obtain ⟨hscopes, hrunning⟩ := fullReset_secure s
  simp only [restart, h, Bool.false_eq_true, if_false, true_and]
  exact ⟨hscopes, hrunning⟩

theorem fwActivate_stay {w : Word} (h : flag w 1 = false) : fwActivate s w = { s with sec := { s.sec with
    svn := if flag w 2 then s.sec.svn ||| BitVec.ofNat 64 (2 ^ max (fusedSvn s) (slotSvn s s.sec.running) - 1) else s.sec.svn
    revoked0 := s.sec.revoked0 || flag w 3
    preferred := if flag w 0 then !s.sec.running else s.sec.preferred } } := by
  simp only [fwActivate, h]
  cases flag w 2 <;> rfl

theorem accepted_serving {c : Cmd} {src : ReqSrc} {r : Req} (h : accepted c src s r = true) : s.dev.recovery = false := by
  simp only [accepted, Bool.and_eq_true, Bool.not_eq_true'] at h
  tauto

end Sys2Proof.Machine

open Sys2Proof Sys2Proof.Machine

/-- Settles O26: the staged bytes one by one, and FW_ACTIVATE without and with RESTART. -/
theorem firmwareUpdate : Obligations.FirmwareUpdate := by
  refine fun src s r => ⟨fun h hwf => ?_, fun h hstay => ?_, fun h hrestart => ?_⟩
  · have hrun : fwStageCmd.run (takeReq s r) r = done (fwStage (takeReq s r) (rn r 0) (stageBytes r)) := rfl
    have hwf' : Mem.wf (slotMem (takeReq s r) (!s.sec.running)) = true := wf_slotMem (s := s) hwf _
    obtain ⟨-, -, hother⟩ := fwStage_other (takeReq s r) (rn r 0) (stageBytes r)
    obtain ⟨-, -, hrunning⟩ := fwStage_running (takeReq s r) (rn r 0) (stageBytes r)
    refine ⟨_, next_done h hrun, flashBytes_fwStage_request (s := takeReq s r) hwf', flashBytes_fwStage_running (takeReq s r) _ _,
      hother, hrunning, ?_⟩
    rw [fwStage_eq]
    rfl
  · exact next_done h (congrArg done (fwActivate_stay (s := takeReq s r) hstay))
  · refine ⟨_, next_done h rfl, ?_⟩
    have hflag : flag (rw r 0) 1 = true := hrestart
    simp only [fwActivate, hflag, if_true]
    exact restart_serving (accepted_serving (s := s) h)

end

section
/-! SUPPORT. Boot stages (14 R409, R410, R412): when the stage in progress fails, and what each stage's work leaves. -/

namespace Sys2Proof.Machine

variable {s : State} {r : StageReport} {k : Nat}

theorem bootStageComplete_stays (hnext : nextStage s.dev.bootStage.toNat = some k) (hruns : stageRuns s k = false) :
    bootStageComplete r s = s := by
  simp only [bootStageComplete, hnext, hruns, Bool.not_false, if_true]

theorem bootStageComplete_last (h : s.dev.bootStage = 0x18) : bootStageComplete r s = s := by
  simp only [bootStageComplete, h]
  rfl

theorem bootStageComplete_fails (hnext : nextStage s.dev.bootStage.toNat = some k) (hruns : stageRuns s k = true) (h0 : r.fail ≠ 0)
    (hfail : r.fail = stageFail k) : bootStageComplete r s = bootFails s r.fail := by
  have hfails : (r.fail != 0 && r.fail == stageFail k) = true := by
    rw [bne_iff_ne.2 h0, hfail, beq_self_eq_true, Bool.true_and]
  simp only [bootStageComplete, hnext, hruns, hfails, Bool.not_true, Bool.false_eq_true, if_false, if_true]

theorem bootStageComplete_done (hnext : nextStage s.dev.bootStage.toNat = some k) (hruns : stageRuns s k = true)
    (hok : r.fail = 0 ∨ r.fail ≠ stageFail k) : bootStageComplete r s = stageDone s k r := by
  have hpasses : (r.fail != 0 && r.fail == stageFail k) = false := by
    obtain h | h := hok
    · rw [h, bne_self_eq_false, Bool.false_and]
    · rw [beq_eq_false_iff_ne.2 h, Bool.and_false]
  simp only [bootStageComplete, hnext, hruns, hpasses, Bool.not_true, Bool.false_eq_true, if_false]

/-- Only a stage of BOOT has a failure code (Table 14.6). -/
theorem stageFail_late (h : stageFail k ≠ 0) : 3 < k := by
  by_contra hk
  obtain rfl | rfl | rfl | rfl : k = 0 ∨ k = 1 ∨ k = 2 ∨ k = 3 := by omega
  all_goals exact h rfl

theorem stageRuns_boot (h : stageRuns s k = true) (hk : 3 < k) : s.dev.mode = .boot := by
  rw [stageRuns, if_neg (Nat.not_le.2 hk), Bool.and_eq_true, beq_iff_eq] at h
  exact h.1

/-- Without main power the module is in AUX, and PWRGOOD is gone. -/
theorem mainPowerLost_aux (h : 2 ≤ s.dev.mode.code) : (mainPowerLost s).dev.mode = .aux ∧ (mainPowerLost s).dev.pwrGood = false := by
  rw [mainPowerLost, if_neg (Nat.not_lt.2 h)]
  extract_lets s1
  generalize hu : ({ s1 with dev := _ } : State) = u
  obtain ⟨o, p, hmode⟩ := setMode_frame u .aux
  obtain ⟨o', p', hhealth⟩ := recomputeHealth_frame (setMode u .aux)
  rw [hhealth, hmode]
  subst hu
  exact ⟨rfl, rfl⟩

theorem bootFails_aux (code : Byte) (h : s.dev.mode = .boot) : (bootFails s code).dev.mode = .aux ∧ (bootFails s code).dev.bootFail = code ∧
    (bootFails s code).dev.needPwrToggle = true ∧ (bootFails s code).dev.pwrGood = false := by
  obtain ⟨haux, hgood⟩ := mainPowerLost_aux (s := s) (by rw [h]; decide)
  exact ⟨haux, rfl, rfl, hgood⟩

/-- A stage between the slot and the last one ends as its number, and leaves what its work left; a freeze holds the next one. -/
theorem stageDone_inner (h3 : k ≠ 3) (h18 : k ≠ 0x18) (hrec : (stageWork s k r).dev.recovery = false) :
    stageDone s k r = { stageWork s k r with dev := { (stageWork s k r).dev with
      bootStage := BitVec.ofNat 8 k
      stageHeld := decide (3 ≤ k) && decide (k < 0x18) && (stageWork s k r).dev.mode == .boot && isFrozen (stageWork s k r) } } := by
  rw [stageDone]
  simp only [if_neg h3, if_neg h18, hrec, Bool.false_eq_true, if_false]

/-- What a stage leaves that ends as number k, with the state w left by its work: all but DEV as in w. -/
structure StageEnds (k : Nat) (w t : State) : Prop where
  stage : t.dev.bootStage = BitVec.ofNat 8 k
  recovery : t.dev.recovery = false
  comp : t.comp = w.comp
  su : t.su = w.su
  hbm : t.hbm = w.hbm
  sec : t.sec = w.sec
  out : t.out = w.out

/-- The stage in progress, one between the slot and the last, completes without a failure. -/
theorem bootStageComplete_inner {w : State} (hnext : nextStage s.dev.bootStage.toNat = some k) (hruns : stageRuns s k = true)
    (hok : r.fail = 0 ∨ r.fail ≠ stageFail k) (h3 : k ≠ 3) (h18 : k ≠ 0x18) (hwork : stageWork s k r = w) (hrec : w.dev.recovery = false) :
    ∃ t, exec (.bootStageComplete r) s = .next t ∧ StageEnds k w t := by
  subst hwork
  exact ⟨_, congrArg Host.Outcome.next ((bootStageComplete_done hnext hruns hok).trans (stageDone_inner h3 h18 hrec)), rfl, hrec, rfl, rfl, rfl,
    rfl, rfl⟩

/-- Stages 0x10, 0x11 and 0x16 do nothing but that power is good from 0x10 on. -/
theorem stageWork_power (hk : k ∈ [0x10, 0x11, 0x16]) :
    stageWork s k r = { s with dev := { s.dev with pwrGood := k == 0x10 || s.dev.pwrGood } } := by
  simp only [List.mem_cons, List.not_mem_nil, or_false] at hk
  obtain rfl | rfl | rfl := hk <;> rfl

theorem bootStageComplete_unfrozen (hnext : nextStage s.dev.bootStage.toNat = some k) (hruns : stageRuns s k = true)
    (hrec : s.dev.recovery = false) (hok : r.fail = 0 ∨ r.fail ≠ stageFail k) (hk : k ∈ [0x10, 0x11, 0x16]) (hfrozen : isFrozen s = false) :
    bootStageComplete r s = { s with dev := { s.dev with
      bootStage := BitVec.ofNat 8 k, stageHeld := false, pwrGood := k == 0x10 || s.dev.pwrGood } } := by
  have hfrozen' : isFrozen { s with dev := { s.dev with pwrGood := k == 0x10 || s.dev.pwrGood } } = false := hfrozen
  have hinner : k ≠ 3 ∧ k ≠ 0x18 := by
    constructor <;> rintro rfl <;> simp at hk
  rw [bootStageComplete_done hnext hruns hok, stageDone_inner hinner.1 hinner.2 (by rw [stageWork_power hk]; exact hrec), stageWork_power hk]
  simp only [hfrozen', Bool.and_false]

end Sys2Proof.Machine
end

section
/-! SUPPORT. Stages 0x13, 0x14 and 0x17 (04 R114, R117; 11 R318; 15 R432): logical numbering, pseudo-channels, and the engine's programs. -/

namespace Sys2Proof.Machine

variable {s : State} {r : StageReport} {ph q : Nat}

/-- The clusters of the grade as stage 0x13 numbers them. -/
def gradeNumbers (s : State) : List (Option Nat) := (gradeClusters s).map fun x => if s.comp.retired.contains x then none else some x

theorem settleUnits_none (hcores : s.comp.failed = []) (hqueens : s.comp.failedQueens = []) (hunits : s.su.failed = []) :
    settleUnits s = s := by
  simp only [settleUnits, hcores, hqueens, hunits, List.foldl_nil]

theorem numberUnits_none (hcores : s.comp.failed = []) (hqueens : s.comp.failedQueens = []) (hunits : s.su.failed = []) :
    numberUnits s = { s with comp := { s.comp with clusters := gradeNumbers s } } :=
  settleUnits_none (s := { s with comp := { s.comp with clusters := gradeNumbers s } }) hcores hqueens hunits

/-- What the retirement of a cluster leaves: no failed core that was not there before, and the stream units and recovery as they were. -/
theorem retireCluster_keeps (hcores : s.comp.failed = []) (q : Nat) : (retireCluster s q).comp.failed = [] ∧
    (retireCluster s q).su = s.su ∧ (retireCluster s q).dev.recovery = s.dev.recovery := by
  unfold retireCluster
  extract_lets p s1
  obtain ⟨o, v, hhealth⟩ := recomputeHealth_frame { s1 with comp := { s1.comp with
    clusters := setAt s1.comp.clusters q none
    retired := s1.comp.retired ++ [p]
    failed := s1.comp.failed.filter fun e => e.1 != p } }
  have hfailed : s1.comp.failed = [] := hcores
  rw [hhealth]
  exact ⟨by simp [hfailed], rfl, rfl⟩

/-- One cluster whose queens failed, and no other failure: stage 0x13 retires it and does nothing else. -/
theorem settleUnits_oneQueen (hcores : s.comp.failed = []) (hqueens : s.comp.failedQueens = [ph]) (hunits : s.su.failed = [])
    (hlogical : logicalCluster s ph = some q) :
    settleUnits s = retireCluster { s with comp := { s.comp with failedQueens := [] } } q := by
  have hgone : [ph].filter (· != ph) = [] := by simp
  have hsettled : settleQueen s ph = retireCluster { s with comp := { s.comp with failedQueens := [] } } q := by
    simp only [settleQueen, hlogical, hqueens, hgone]
  obtain ⟨hcores', hsu, -⟩ := retireCluster_keeps (s := { s with comp := { s.comp with failedQueens := [] } }) hcores q
  have hunits' : (retireCluster { s with comp := { s.comp with failedQueens := [] } } q).su.failed = [] := by
    rw [hsu]
    exact hunits
  simp only [settleUnits, hqueens, List.foldl_cons, List.foldl_nil, hsettled, hcores', hunits']

theorem numberUnits_oneQueen (hcores : s.comp.failed = []) (hqueens : s.comp.failedQueens = [ph]) (hunits : s.su.failed = [])
    (hlogical : logicalCluster { s with comp := { s.comp with failedQueens := [], clusters := gradeNumbers s } } ph = some q) :
    numberUnits s = retireCluster { s with comp := { s.comp with failedQueens := [], clusters := gradeNumbers s } } q :=
  settleUnits_oneQueen (s := { s with comp := { s.comp with clusters := gradeNumbers s } }) hcores hqueens hunits hlogical

theorem stageWork_channels (s : State) (r : StageReport) : stageWork s 0x14 r = trainHbm s r := rfl

/-- Health is recomputed last: HBM is as the pseudo-channels left it. -/
theorem trainHbm_hbm {h : Hbm} (hfold : trainHbm s r = recomputeHealth { s with hbm := h }) :
    (trainHbm s r).hbm = h ∧ (trainHbm s r).dev.recovery = s.dev.recovery := by
  obtain ⟨o, p, hhealth⟩ := recomputeHealth_frame { s with hbm := h }
  rw [hfold, hhealth]
  exact ⟨rfl, rfl⟩

theorem trainHbm_none (h : r.channels = []) : trainHbm s r = recomputeHealth { s with hbm := s.hbm } := by
  rw [trainHbm, h, List.foldl_nil]

/-- A pseudo-channel b of stack a that failed training takes the stack's spare, or is kept as bad where the spare is in use (R410, 11 R318). -/
def channelFailed (h : Hbm) (a b : Nat) : Hbm :=
  if h.spared.any fun x => x / 64 == a then { h with keptBad := h.keptBad ++ [a * 64 + b] } else { h with spared := h.spared ++ [a * 64 + b] }

theorem trainHbm_one {a b : Nat} (h : r.channels = [(a, b)]) (ha : a < 16) (hb : b < 64) (hspared : s.hbm.spared.contains (a * 64 + b) = false)
    (hkept : s.hbm.keptBad.contains (a * 64 + b) = false) : trainHbm s r = recomputeHealth { s with hbm := channelFailed s.hbm a b } := by
  simp only [trainHbm, h, List.foldl_cons, List.foldl_nil, hspared, hkept, decide_eq_false (Nat.not_le.2 ha), decide_eq_false (Nat.not_le.2 hb),
    Bool.or_false, Bool.false_eq_true, if_false, channelFailed]
  split <;> rfl

theorem loadEngineProgs_eq (s : State) : ∃ su, loadEngineProgs s = { s with su := su } ∧
    tblGet none su.programs 254 = some { code := engineGather } ∧ tblGet none su.programs 255 = some { code := enginePass } := by
  refine ⟨_, rfl, ?_, ?_⟩
  · exact (tblGet_set_other _ _ _ _ _ (by decide)).trans (tblGet_set_ne _ _ _ _ (by simp))
  · exact tblGet_set_ne _ _ _ _ (by simp)

end Sys2Proof.Machine
end

section
/-! SUPPORT. Stages 0x02, 0x03 and 0x18 (15 R428; 16 R446; 14 R412): firmware or recovery, the slot, and the end of BOOT. -/

namespace Sys2Proof.Machine

variable {s : State} {r : StageReport}

theorem fwAuth_accepts {slot : Bool} (h : bootSlot s = some slot) : fwAuth s = { s with
    dev := { s.dev with recovery := false }
    out := s.out ++ [.dhcp s.ident.serial]
    sec := { s.sec with
      running := slot, fwVersion := slotFw s slot, m2 := measure (slotImage s slot), m3 := measure (fuseBytes s slot) } } := by
  simp only [fwAuth, h]

/-- No image passes: the boot ROM runs in recovery, and the stage is not counted. -/
theorem stageDone_recovery (h : bootSlot s = none) : (stageDone s 2 r).dev.recovery = true ∧ (stageDone s 2 r).dev.bootFail = 7 ∧
    (stageDone s 2 r).dev.bootStage = s.dev.bootStage := by
  have hwork : stageWork s 2 r = { mainPowerLost s with dev := { (mainPowerLost s).dev with bootFail := 7, recovery := true } } := by
    simp only [stageWork, fwAuth, h]
  rw [stageDone, hwork]
  exact ⟨rfl, rfl, rfl⟩

/-- What the slot's straps and EEPROM give, latched once, and the default EID that follows from them. -/
theorem latchSlot_first (h : s.ident.latched = false) : (latchSlot s).ident.latched = true ∧
    (latchSlot s).ident.slot = s.ident.slotStrap ∧ (latchSlot s).ident.hivePresent = !s.ident.hivePresentN ∧
    (latchSlot s).ident.twinPresent = !s.ident.twinPresentN ∧ (latchSlot s).dev.eid = defaultEid (latchSlot s) := by
  rw [latchSlot, if_neg (ne_true_of_eq_false h)]
  rcases heeprom : s.ident.eeprom with _ | e
  · exact ⟨rfl, rfl, rfl, rfl, rfl⟩
  · dsimp only
    split
    · exact ⟨rfl, rfl, rfl, rfl, rfl⟩
    · exact ⟨rfl, rfl, rfl, rfl, rfl⟩

/-- The start of BOOT leaves identity and EID. -/
theorem tryBoot_keeps (s : State) : (tryBoot s).ident = s.ident ∧ (tryBoot s).dev.eid = s.dev.eid := by
  unfold tryBoot
  dsimp only
  split
  · generalize hu : ({ s with dev := _ } : State) = u
    obtain ⟨o, p, hmode⟩ := setMode_frame u .boot
    rw [hmode]
    subst hu
    exact ⟨rfl, rfl⟩
  · exact ⟨rfl, rfl⟩

theorem stageDone_slot (s : State) : (stageDone s 3 r).ident = (latchSlot s).ident ∧ (stageDone s 3 r).dev.eid = (latchSlot s).dev.eid := by
  obtain ⟨hident, heid⟩ := tryBoot_keeps { latchSlot s with dev := { (latchSlot s).dev with
    bootStage := if (latchSlot s).dev.recovery then s.dev.bootStage else BitVec.ofNat 8 3
    stageHeld := decide (3 ≤ 3) && decide (3 < 0x18) && (latchSlot s).dev.mode == .boot && isFrozen (latchSlot s) } }
  exact ⟨hident, heid⟩

theorem bootDone_ready (h : isFrozen s = false) : (bootDone s).dev.mode = .ready ∧ (bootDone s).dev.bootStage = s.dev.bootStage ∧
    (bootDone s).health.readyAt = some (nowNs s) := by
  rw [bootDone, if_neg (ne_true_of_eq_false h)]
  generalize hu : ({ s with health := _, ident := _ } : State) = u
  obtain ⟨o, p, hmode⟩ := setMode_frame u .ready
  rw [hmode]
  subst hu
  exact ⟨rfl, rfl, rfl⟩

theorem bootDone_frozen (h : isFrozen s = true) : (bootDone s).dev.mode = .frozen ∧ (bootDone s).dev.remembered = .ready := by
  rw [bootDone, if_pos h]
  generalize hu : ({ s with health := _, ident := _, dev := _ } : State) = u
  obtain ⟨o, p, hmode⟩ := setMode_frame u .frozen
  rw [hmode]
  subst hu
  exact ⟨rfl, rfl⟩

/-- After stage 0x18 BOOT is done, with the stage noted. -/
theorem stageDone_last (hrec : s.dev.recovery = false) : stageDone s 0x18 r = bootDone { s with dev := { s.dev with
    bootStage := 0x18, stageHeld := false } } := by
  simp only [stageDone, stageWork, hrec, Bool.false_eq_true, if_false]
  rfl

end Sys2Proof.Machine

open Sys2Proof Sys2Proof.Machine

/-- Settles O30: stage by stage, from what the work of each leaves. -/
theorem bootStages : Obligations.BootStages := by
  refine fun s r => ⟨fun k hnext hruns hrec => ⟨fun h0 hfail => ?fails, fun hok hk hfrozen => ?plain, ?hbmCleared,
    ?selfTest, ?numbered, ?oneQueen, ?noChannel, ?oneChannel, ?engine, ?rom, ?image, ?recovery, ?slot, ?ready, ?frozen⟩,
    fun k hnext hruns => ?stays, fun hlast => ?last⟩
  case fails =>
    have hboot := stageRuns_boot hruns (stageFail_late (hfail ▸ h0))
    exact ⟨_, congrArg Host.Outcome.next (bootStageComplete_fails hnext hruns h0 hfail), bootFails_aux r.fail hboot⟩
  case plain => exact ⟨_, congrArg Host.Outcome.next (bootStageComplete_unfrozen hnext hruns hrec hok hk hfrozen), rfl⟩
  case hbmCleared =>
    rintro hok rfl
    obtain ⟨t, hexec, hends⟩ := bootStageComplete_inner hnext hruns hok (by decide) (by decide) rfl hrec
    exact ⟨t, hexec, hends.stage, hends.hbm⟩
  case selfTest =>
    rintro hok rfl
    obtain ⟨t, hexec, hends⟩ := bootStageComplete_inner hnext hruns hok (by decide) (by decide) rfl hrec
    exact ⟨t, hexec, hends.stage, hends.comp, hends.su⟩
  case numbered =>
    rintro hok rfl hcores hqueens hunits
    have hwork : stageWork s 0x13 r = _ := numberUnits_none hcores hqueens hunits
    obtain ⟨t, hexec, hends⟩ := bootStageComplete_inner hnext hruns hok (by decide) (by decide) hwork hrec
    exact ⟨t, hexec, hends.stage, hends.su, hends.comp⟩
  case oneQueen =>
    rintro hok rfl ph q hcores hqueens hunits u hlogical
    have hwork : stageWork s 0x13 r = retireCluster u q := numberUnits_oneQueen hcores hqueens hunits hlogical
    obtain ⟨-, -, hkept⟩ := retireCluster_keeps (s := u) hcores q
    obtain ⟨t, hexec, hends⟩ := bootStageComplete_inner hnext hruns hok (by decide) (by decide) hwork (hkept.trans hrec)
    exact ⟨t, hexec, hends.stage, hends.comp⟩
  case noChannel =>
    rintro hok rfl hnone
    obtain ⟨hhbm, hkept⟩ := trainHbm_hbm (trainHbm_none (s := s) hnone)
    obtain ⟨t, hexec, hends⟩ := bootStageComplete_inner hnext hruns hok (by decide) (by decide) (stageWork_channels s r) (hkept.trans hrec)
    exact ⟨t, hexec, hends.stage, hends.hbm.trans hhbm⟩
  case oneChannel =>
    rintro hok rfl a b hone ha hb hspared hbad
    obtain ⟨hhbm, hkept⟩ := trainHbm_hbm (trainHbm_one hone ha hb hspared hbad)
    obtain ⟨t, hexec, hends⟩ := bootStageComplete_inner hnext hruns hok (by decide) (by decide) (stageWork_channels s r) (hkept.trans hrec)
    exact ⟨t, hexec, hends.stage, hends.hbm.trans hhbm⟩
  case engine =>
    rintro rfl
    obtain ⟨su, hload, hgather, hpass⟩ := loadEngineProgs_eq { s with sec := { s.sec with m4 := measure Config.calibration } }
    have hwork : stageWork s 0x17 r = _ := hload
    obtain ⟨t, hexec, hends⟩ := bootStageComplete_inner hnext hruns (ne_or_eq r.fail 0).symm (by decide) (by decide) hwork hrec
    have hsu : t.su = su := hends.su
    rw [← hsu] at hgather hpass
    exact ⟨t, hexec, hends.stage, hends.sec, hgather, hpass, hends.comp, hends.hbm⟩
  case rom =>
    rintro rfl hok
    obtain ⟨t, hexec, hends⟩ := bootStageComplete_inner hnext hruns (.inl hok) (by decide) (by decide) rfl hrec
    exact ⟨t, hexec, hends.stage, hends.sec⟩
  case image =>
    rintro rfl hok slot hslot
    have hwork : stageWork s 2 r = _ := fwAuth_accepts hslot
    obtain ⟨t, hexec, hends⟩ := bootStageComplete_inner hnext hruns (.inl hok) (by decide) (by decide) hwork rfl
    refine ⟨t, hexec, hends.stage, hends.recovery, ?_⟩
    rw [hends.sec, hends.out]
    exact ⟨rfl, rfl, rfl, rfl, rfl, rfl⟩
  case recovery =>
    rintro rfl hok hslot
    exact ⟨_, congrArg Host.Outcome.next (bootStageComplete_done hnext hruns (.inl hok)), stageDone_recovery hslot⟩
  case slot =>
    rintro rfl hok hlatched
    obtain ⟨hident, heid⟩ := stageDone_slot (r := r) s
    obtain ⟨hdone, hslot, hhive, htwin, hdefault⟩ := latchSlot_first hlatched
    refine ⟨_, congrArg Host.Outcome.next (bootStageComplete_done hnext hruns (.inl hok)), ?_⟩
    rw [defaultEid, hident, heid]
    exact ⟨hdone, hslot, hhive, htwin, hdefault⟩
  case ready =>
    rintro rfl hfrozen hok
    refine ⟨_, congrArg Host.Outcome.next (bootStageComplete_done hnext hruns (.inl hok)), ?_⟩
    rw [stageDone_last hrec]
    exact bootDone_ready hfrozen
  case frozen =>
    rintro rfl hfrozen hok
    refine ⟨_, congrArg Host.Outcome.next (bootStageComplete_done hnext hruns (.inl hok)), ?_⟩
    rw [stageDone_last hrec]
    exact bootDone_frozen hfrozen
  case stays => exact congrArg Host.Outcome.next (bootStageComplete_stays hnext hruns)
  case last => exact congrArg Host.Outcome.next (bootStageComplete_last hlast)

end
